-- ==== Sys2Proof/Word.lean ====
section
/-! DEFINITION. The plain word types every file uses, and the shapes of data that the world outside the
block hands to it inside a command. -/

namespace Sys2Proof

/-- A byte. -/
abbrev Byte := BitVec 8

/-- A snapshot of the bytes that the host answers to a read (spec/14 R393): pairs of a 64-bit bus address and
its byte. An address the snapshot does not list is one that the host answers with an error. -/
abbrev HostMem := List (Nat × Byte)

/-- Core cycles of 0.5 ns in one microsecond (spec/00 R5). -/
abbrev cyclesPerUs : Nat := 2000

end Sys2Proof
end

