-- ==== Sys2Proof/Syntax.lean ====
section
/-! DEFINITION. The commands of the block: one constructor for each row of spec/opcode_table.json, in the table's
order. The table gives no row any operand bits; the operands here are what the world outside the block brings to
the command: which core, port, partition or slot it concerns, a written value, an arriving packet, the host's
answer to a read, a sensor's reading. Log entry 2. -/

namespace Sys2Proof

/-- A memory of a matrix core that ECC protects (spec/03 R90): the tile memory, an accumulator or a rank accumulator bank,
the active or the shadow weight set, the active or the shadow A set, a B bank. -/
inductive CoreMem where
  | tile
  | acc (bank : Bool)
  | rank (bank : Bool)
  | weights (shadow : Bool)
  | aSet (shadow : Bool)
  | bBank (bank : Bool)
  deriving DecidableEq, Repr

/-- An ECC error in an 8-byte word of a core's memory: correctable, or not (spec/03 R90). -/
structure Upset where
  mem : CoreMem
  word : Nat
  double : Bool
  deriving DecidableEq, Repr

/-- What the memories outside the block's control answer while a command reads them: the host's bytes; the 4 KiB
blocks (by number) whose first read mismatches and whose reread does not (spec/10 R297); those that mismatch twice;
the 1 KiB units (by number) whose row reports an uncorrectable, or a corrected, on-die ECC event (spec/10 R304); and
the 64-byte leaf units that a leaf stack reports as uncorrectable (spec/11 R317); and the plaintext of each 4 KiB block
(by number) that the other module of an owner and keeper pair answers with when a page block is restored (spec/09 R274),
a failed fetch for a block not listed; and the ECC errors that have come up in the memories of the core that the command
names (spec/03 R90; log entry 57). -/
structure ReadEnv where
  host      : HostMem := []
  transient : List Nat := []
  mismatch  : List Nat := []
  ecc       : List Nat := []
  corrected : List Nat := []
  leafBad   : List Nat := []
  other     : List (Nat × List Byte) := []
  upsets    : List Upset := []
  deriving DecidableEq, Repr

/-- A stand-in's request for a restore step (spec/17 Table SR-7): the step, and what the memories answer while the pages
it asks for are read. -/
structure RestoreAsk where
  step : BitVec 8
  env  : ReadEnv := {}
  deriving DecidableEq, Repr

/-- What an optical or active cable module answers over its sideband (spec/12 R362): its identity, its monitors, and
whether it advertises an application of two lanes of 212.5 Gb/s PAM4. -/
structure CmisAnswer where
  identity    : BitVec 512
  monitors    : BitVec 128
  application : Bool
  deriving DecidableEq, Repr

/-- What a link partner's end of the custody exchange gives beside its identity certificates and nonce (spec/13 R374): its KEM
certificate where this module initiates, its ciphertext where the partner does, and its signature of T. -/
structure Closing where
  kemCert : List Byte
  ciphertext : List Byte
  signature : List Byte
  deriving DecidableEq, Repr

/-- How a manifest or a segment of a base image comes (spec/11 R325, R326): in a packet from the predecessor, by a read of
host memory, or, for a segment, as the successor's request to send it once more (log entry 76). -/
inductive Delivery where
  | packet (bytes : List Byte)
  | host (mem : HostMem)
  | again
  deriving DecidableEq, Repr

/-- What a leaf stack answers to the read of a segment: its bytes, and whether it reports the read as uncorrectable
(spec/11 R317). -/
structure LeafAnswer where
  bytes : List Byte
  uncorrectable : Bool := false
  deriving DecidableEq, Repr

/-- A completion write (spec/14 R410, Table HQ-7): the queue, and whether the host answers the ring write with an error. -/
structure RingWrite where
  queue : BitVec 13
  failed : Bool := false
  deriving DecidableEq, Repr

/-- A transaction layer packet (spec/14 R394): its T bit, and the offset and length where it reads BAR0. -/
structure Tlp where
  tBit : Bool
  read : Option (BitVec 21 × Nat) := none
  deriving DecidableEq, Repr

/-- What the identity memories of spec/17 Table SR-2 hold, as stage 3 reads them: whether each fixed region's CRC is
good, the product serial number, the MAC address, the ROM identifier, the die revisions and the digest of the module
identity; the board EEPROM record (spec/18 Table MP-6); the site strap; the stacks' records (spec/10 Table HB-5); the
base-die revisions listed for the part; and whether the leaf stacks are listed and their metadata CRCs good. -/
structure Identity where
  eepromGood : Bool := true
  serial     : BitVec 128 := 0
  mac        : BitVec 48 := 0
  romId      : BitVec 32 := 0
  dieRevs    : BitVec 64 := 0
  digest     : BitVec 256 := 0
  board      : BitVec 512 := 0
  strap      : BitVec 4 := 0
  hbmRecs    : List (BitVec 256) := []
  listedRevs : List (BitVec 8) := []
  leafGood   : Bool := true
  deriving DecidableEq, Repr

/-- The FAB.PUT that a remote write belongs to: the core and the op that sent it, and how many writes it sends to the module
of its credits (log entry 68). -/
structure PutOp where
  core   : BitVec 7
  op     : BitVec 16
  writes : Nat
  deriving DecidableEq, Repr

/-- What an exchange of time-sync packets brings (spec/02 R30): the partner's time, and the ranks of the steep masters
that send time-sync packets. -/
structure SyncAnswer where
  time    : BitVec 64
  senders : List (BitVec 2)
  deriving DecidableEq, Repr

/-- The commands. Each constructor's docstring names its row's rule. -/
inductive Instr where
  -- steeps, time and the wave
  | steepBoundary
  | guardStart
  | wavePoint
  | contribution (pkt : BitVec 512)
  | gatherDeadline
  | backupWaveFlood
  | wave (port : Option (BitVec 4)) (pkt : BitVec 512)
  | waveDeadline
  | timeSync
  | timeSyncReceive (port : BitVec 4) (roundTrip : Nat) (asymmetry : Int) (partner : SyncAnswer)
  | listenNoWaveRecord
  | listenTimeout
  | founding
  | snapshotRequest (id : BitVec 16)
  | tableDigest (sna : BitVec 16) (digest : BitVec 64) (primaryTable : List (BitVec 16))
  | powerSample (watts : Nat) (groups : List Nat)
  -- steep programs
  | programFetch (core : BitVec 7)
  | programFetchDone (core : BitVec 7) (env : ReadEnv)
  | opDispatch (core : BitVec 7) (stream : Bool)
  | mmaLoad (core : BitVec 7) (stream : Bool)
  | mmaRun (core : BitVec 7) (stream : Bool)
  | rankRun (core : BitVec 7) (stream : Bool)
  | epiSet0 (core : BitVec 7) (stream : Bool)
  | epiSet1 (core : BitVec 7) (stream : Bool)
  | epiSet2 (core : BitVec 7) (stream : Bool)
  | pour (core : BitVec 7) (stream : Bool)
  | pourRecompute (core : BitVec 7)
  | pourComplete (core : BitVec 7)
  | vecEw (core : BitVec 7) (stream : Bool)
  | vecCvt (core : BitVec 7) (stream : Bool)
  | vecRow (core : BitVec 7) (stream : Bool)
  | redAdd (core : BitVec 7) (stream : Bool)
  | redMax (core : BitVec 7) (stream : Bool)
  | redUpd (core : BitVec 7) (stream : Bool)
  | redZero (core : BitVec 7) (stream : Bool)
  | dma (core : BitVec 7) (stream : Bool) (env : ReadEnv)
  | fabPut (core : BitVec 7) (stream : Bool) (env : ReadEnv)
  | fabGet (core : BitVec 7) (stream : Bool)
  | fabColl (core : BitVec 7) (stream : Bool)
  | syncWait (core : BitVec 7) (stream : Bool)
  | syncSend (core : BitVec 7) (stream : Bool)
  | syncTime (core : BitVec 7) (stream : Bool)
  | mark (core : BitVec 7) (stream : Bool)
  | halt (core : BitVec 7) (stream : Bool)
  | opComplete (core : BitVec 7) (op : BitVec 16)
  | token (core : BitVec 7) (ctr : BitVec 6) (amount : BitVec 16) (steep : BitVec 64) (part : BitVec 6)
      (remote : Bool)
  -- the strainer
  | gather (core : BitVec 7) (env : ReadEnv)
  | mask (core : BitVec 7)
  | append (core : BitVec 7)
  | block (core : BitVec 7)
  | trans (core : BitVec 7)
  -- admission, the caddy and request data
  | admissionSort
  | caddyPrefetchList
  | caddyFill (die : BitVec 2) (didx : BitVec 16) (addr : BitVec 48) (env : ReadEnv)
  | inputCopy (queue : BitVec 13) (tag : BitVec 16) (host : HostMem)
  | kvCopyOnWrite (part : BitVec 6) (seq : BitVec 20)
  | tablePublish
  | infuserPrefill (core : BitVec 7)
  | infuserSlice (core : BitVec 7) (slot : BitVec 2) (ringB : Bool) (env : ReadEnv)
  | outputCopy (queue : BitVec 13) (tag : BitVec 16)
  | completionWrite (ring : RingWrite)
  -- the queue front end and its commands
  | doorbell (fn : BitVec 6) (queue : BitVec 13) (head : Bool) (value : BitVec 32)
  | commandFetch (answer : Option (BitVec 512))
  | submit
  | queueCreate
  | queueDelete
  | bind
  | bindEffect (core : BitVec 7)
  | adapterCreate (host : HostMem)
  | adapterRead
  | adapterState
  | adapterStateEffect (didx : BitVec 16)
  | adapterDestroy
  | adapterDestroyFree (didx : BitVec 16)
  | adapterClaim
  | slotClaimPacket (stamp : BitVec 64) (sna : BitVec 16) (seq : BitVec 32) (adid : BitVec 24) (layer : BitVec 12)
      (slot : BitVec 4) (keySlot : BitVec 13) (kgen : BitVec 16) (share : Bool)
  | adapterRelease
  | kvOpen (host : HostMem)
  | kvFork
  | kvClose
  | kvCloseFree (part : BitVec 6) (seq : BitVec 20)
  | kvRead
  | keyImport (host : HostMem)
  | keyImportEffect (slot : BitVec 13)
  | keyRemove
  | keyRemoveEffect (slot : BitVec 13)
  | keySweep
  | sweepBlock (slot : BitVec 13)
  | rotationCutover (slot : BitVec 13)
  | scrubBlock (slot : BitVec 13)
  | scrubComplete (slot : BitVec 13)
  | trialLoad (host : HostMem)
  | trialLoadDone (host : HostMem)
  | trialRelease
  | trialReleaseEffect
  -- partitions, TDISP and PCIe
  | functionEnable (fn : BitVec 6)
  | functionDisable (fn : BitVec 6)
  | ctrlReset (fn : BitVec 6)
  | partitionResetCmd (part : BitVec 6)
  | flr (fn : BitVec 6)
  | vfEnableClear
  | partitionResetEffect (part : BitVec 6)
  | logControl (part : BitVec 6) (value : BitVec 512)
  | logSwap (part : BitVec 6)
  | logBoundary
  | lockInterface (fn : BitVec 6)
  | stopInterface (fn : BitVec 6)
  | interfaceReport (fn : BitVec 6)
  | doeCustodyExchange (fn : BitVec 6) (message : List Byte)
  | tlpReceive (fn : BitVec 6) (ideStream : Bool) (tlp : Tlp)
  -- reduction, update and commit
  | rollCall (ldn : BitVec 10) (asteep : BitVec 32) (records : List (BitVec 64))
  | contributionUnit (net : BitVec 256) (payload : List Byte)
  | acknowledgement (core : BitVec 7) (op : BitVec 16) (units : Nat)
  | shardCutoff (shard : BitVec 18)
  | stragglerNotice (asteep : BitVec 32) (owner : BitVec 10) (missing : BitVec 16)
  | shardUpdate (shard : BitVec 18) (env : ReadEnv)
  | keeperCopy (shard : BitVec 18) (slot : BitVec 13) (gen : BitVec 16) (ep : Bool) (nonce : BitVec 96)
      (ciphertext : List Byte) (tag : BitVec 128)
  | keeperAck (shard : BitVec 18)
  | commitApply
  | abortApply
  | pushUnit (adid : BitVec 24) (stepc : BitVec 32) (offset : BitVec 48) (slot : BitVec 13) (gen : BitVec 16)
      (ep : Bool) (nonce : BitVec 96) (ciphertext : BitVec 512) (tag : BitVec 128)
  | restoreRequest (ldn : BitVec 10) (adid : BitVec 24) (offsets : List (BitVec 48))
  -- HBM
  | patrolRead (addr : BitVec 48) (env : ReadEnv)
  | temperatureRead (stack : BitVec 4) (reading : Option Int)
  | rowRepair (stack : BitVec 4) (pc : BitVec 5) (bank : BitVec 6) (row : BitVec 17)
  | pcFill (stack : BitVec 4)
  | fillComplete (stack : BitVec 4)
  | fillFailure (stack : BitVec 4)
  | logicalPcLost (stack : BitVec 4)
  -- the leaf base store
  | installBegin (params : BitVec 512)
  | installAbort
  | manifest (from_ : Delivery)
  | segmentData (index : BitVec 14) (from_ : Delivery)
  | segmentProgrammed (index : BitVec 14) (readback : LeafAnswer)
  | installCredit
  | installTimeout
  | breakNotice (status : BitVec 8)
  | leafPatrol (half : Bool) (index : BitVec 14) (data : LeafAnswer)
  | halfRelease
  -- links
  | downExit (port : BitVec 4) (signal : Bool)
  | fecLock (port : BitVec 4) (goodErrorRatio : Bool)
  | trainingTimeout (port : BitVec 4)
  | linkSessionExchange (port : BitVec 4) (partnerSna : BitVec 16) (certs : List Byte) (nonce : BitVec 256)
      (closing : Closing)
  | keyingTimeout (port : BitVec 4) (failed : Bool)
  | hello (port : BitVec 4) (sna : BitVec 16) (partnerPort : BitVec 4) (digest : BitVec 256)
  | helloResend (port : BitVec 4)
  | linkDegrade (port : BitVec 4) (lockLost : Bool) (uncorrectable replays : Nat)
  | portReset (port : BitVec 8)
  | linkFrame (port : BitVec 4) (header : BitVec 64) (net : BitVec 256) (payload : List Byte) (tag : BitVec 128)
      (fecClean : Bool)
  | replayTimeout (port : BitVec 4)
  | rekey (port : BitVec 4) (receive : Bool) (key : BitVec 256)
  | creditFrame (port : BitVec 4)
  | packetRoute (port : BitVec 4) (own : Option (BitVec 256 × List Byte))
  | fabWriteArrival (net : BitVec 256) (addr : BitVec 48) (unit : List Byte) (gcm crc : Bool) (core : BitVec 7)
      (ctr : BitVec 6) (amount : BitVec 4) (put : PutOp)
  | fabReadRequest (net : BitVec 256) (addr : BitVec 48) (len : BitVec 32) (gcm : Bool) (slot : BitVec 13)
      (gen : BitVec 16) (replyCore : BitVec 7) (replyOp : BitVec 16) (offset : BitVec 40)
  | readData (net : BitVec 256) (core : BitVec 7) (op : BitVec 16) (offset : BitVec 40) (unit : List Byte)
  | collectiveData (net : BitVec 256) (core : BitVec 7) (op : BitVec 16) (rank : BitVec 10) (offset : BitVec 32)
      (unit : List Byte)
  -- discovery and takeover
  | discoveryStart
  | linksDone
  | linksTimeout
  | linkStateRecord (sna : BitVec 16) (ports : BitVec 64) (gen : BitVec 16) (digest0 digest1 : BitVec 128)
      (identity : BitVec 256)
  | floodQuiet
  | routeCompute
  | linkStateRefresh
  | takeoverOrder (ldn : BitVec 10) (failed chosen : BitVec 16) (steep : BitVec 64)
  | restoreData (step : BitVec 8) (kind : BitVec 8) (key : BitVec 64) (data : List Byte) (last : Bool)
  | standInReady (sna : BitVec 16) (gen : BitVec 16) (digest0 digest1 : BitVec 128)
  | readyTimeout
  | takeoverEffect (moves : List (BitVec 10 × BitVec 16)) (commitSteep : BitVec 64)
  | takeoverBoundary
  | plannedReturn (value : BitVec 32)
  | cmisPoll (port : BitVec 4) (monitors : Option CmisAnswer) (alarms : BitVec 32)
  | cmisInterrupt (alarms : List (BitVec 32))
  -- custody
  | housekeepingRail
  | measureComplete (passed : Bool) (boot : BitVec 32) (identityRecord : BitVec 384) (romRecord : BitVec 384)
  | custodyFault (cause : BitVec 8)
  | custodyRequestTimeout
  | attestationRequest (nonce : BitVec 512) (slot : BitVec 16)
  | eventLogRead (index : BitVec 32)
  | sealBreakArm
  | sealBreak (path : BitVec 8)
  -- management
  | mgmtDatagram (source : BitVec 128) (port : BitVec 16) (udpPort : BitVec 16) (checksumGood fragment : Bool)
      (ipBytes : Nat) (frame : List Byte)
  | neighborSolicitation (source target : BitVec 128)
  | echoRequest (source target : BitVec 128) (data : List Byte)
  | mailboxGo (length : BitVec 32)
  | xchg
  | close
  | read
  | write
  | describe
  | sessionIdleTimeout (session : BitVec 32)
  | exchangeTimeout (session : BitVec 32)
  | registerWrite (target : BitVec 32) (value : List Byte)
  | managerKeyListWrite (session : BitVec 32) (sub : BitVec 8) (value : BitVec 264)
  | check (session : BitVec 32)
  | checkDone
  | commit (session : BitVec 32) (steep : BitVec 64)
  | commitSwap
  | discard (session : BitVec 32)
  | stagingLock (session : BitVec 32) (take : Bool)
  | stagingLockTimeout
  -- counters and trace
  | counterSelect (block : BitVec 8) (counter : BitVec 3) (event : BitVec 16)
  | counterClear (block : BitVec 8)
  | counterBoundary
  | histogramClear
  | eventCountClear
  | snapshotFreeze
  | snapshotGatherDone
  | traceWrite
  -- start-up, reset and recovery
  | mainInputGood
  | stageAdvance (ident : Identity)
  | stageTimeout (cause : BitVec 8)
  | moduleReset
  | maintenanceReset
  | resetPin
  | perst
  | environmentViolation (cause : BitVec 8) (reading : BitVec 16)
  | faultLogRead (index : BitVec 32)
  | housekeepingRailLoss
  | resetPinRelease
  | vfEnableSet
  | startInterface (fn : BitVec 6)
  | vfBarOrMemorySpaceChange (fn : BitVec 6)
  | managementLinkChange (link : BitVec 8)
  | pcieLinkChange (rate width : Nat)
  | forwardedResponse (frame : List Byte)
  | standInRestoreRequest (sna : BitVec 16) (ask : RestoreAsk) (key : BitVec 64)
  deriving DecidableEq, Repr

end Sys2Proof
end

