-- ==== Sys2Proof/Config.lean ====
section
/-! DEFINITION. What the model leaves uninterpreted: the published cryptographic functions that the spec names
without defining, and the free values, which stand for results the spec does not fix. None of them has a body. -/

namespace Sys2Proof.Config

/-- SHAKE256 (spec/00 Table SC-1), the first `bits` bits of output. Log entry 3. -/
opaque shake256 (msg : List Byte) (bits : Nat) : BitVec bits

/-- KMAC256 with a key, a customisation string and a message (spec/15 R428). Log entry 3. -/
opaque kmac256 (key : BitVec 256) (custom : String) (msg : List Byte) : BitVec 256

/-- ML-DSA-65 verification under a public key and a context string (spec/11 R318, spec/15 R428). Log entry 3. -/
opaque mlDsaVerify (publicKey : List Byte) (context : String) (msg : List Byte) (sig : List Byte) : Bool

/-- ML-DSA-65 signature by the module's identity key (spec/13 R370), 3,309 bytes. Log entry 3. -/
opaque mlDsaSign (context : String) (msg : List Byte) : BitVec 26472

/-- ML-KEM-768 decapsulation under the KEM key pair of the given draw (spec/13 R371, R377). Log entry 3. -/
opaque mlKemDecap (keyPair : Nat) (ciphertext : List Byte) : BitVec 256

/-- The ML-KEM-768 encapsulation key of the given draw, 1,184 bytes (spec/13 Table CU-4). Log entry 3. -/
opaque mlKemPublic (keyPair : Nat) : BitVec 9472

/-- ML-KEM-768 encapsulation to an encapsulation key with the given coins: the ciphertext of 1,088 bytes and the shared secret
(spec/13 R374). Log entry 3. -/
opaque mlKemEncap (key : List Byte) (coins : BitVec 256) : BitVec 8704 × BitVec 256

/-- The public key that a part's identity certificates certify, none where they do not lead to the Uliron root (spec/13 R370,
R374): the root is not in the spec. Log entry 3. -/
opaque certifiedKey (certs : List Byte) : Option (List Byte)

/-- The digest of a module identity certificate that a HELLO carries (spec/12 R339). Log entry 3. -/
opaque certDigest (certs : List Byte) : BitVec 256

/-- AES-256-XTS on one 64-byte unit without ciphertext stealing: for each key pair and tweak, some permutation of
the units (spec/13 R379). Log entry 3. -/
opaque xts (keyPair : BitVec 512) (tweak : BitVec 128) : BitVec 512 ≃ BitVec 512

/-- How the key bus carries a key of `w` bits to an AES path under that path's wrap key (spec/01 R15): some permutation of
the keys, which the spec does not name. Log entry 3. -/
opaque keyWrap (wrap : BitVec 256) (w : Nat) : BitVec w ≃ BitVec w

/-- Byte `i` of the AES-256-GCM key stream of a key and a nonce (spec/13 R380). Log entry 3. -/
opaque gcmStream (key : BitVec 256) (nonce : BitVec 96) (i : Nat) : Byte

/-- The AES-256-GCM tag over authenticated data and ciphertext (spec/13 R380). Log entry 3. -/
opaque gcmTag (key : BitVec 256) (nonce : BitVec 96) (aad : List Byte) (ct : List Byte) : BitVec 128

/-- An activation function of Table MC-5 (codes 2 to 6) at an FP32 value: the spec gives an error bound and no bits
(spec/03 R76). Free value; log entry 5. -/
opaque activation (code : Nat) (x : BitVec 32) : BitVec 32

/-- The derivative of an activation function of Table MC-5 (codes 2 to 6). Free value; log entry 5. -/
opaque activationDeriv (code : Nat) (x : BitVec 32) : BitVec 32

/-- The vector unit's functions exp2, log2, reciprocal, rsqrt and sqrt (FUNC 11 to 15 of Table SP-18) where the spec
gives an error bound and no bits (spec/03 Table MC-6). Free value; log entry 5. -/
opaque vectorFn (func : Nat) (x : BitVec 32) : BitVec 32

/-- The identity certificate and the authority's certificate in the module identity EEPROM (spec/13 R370): the part's
own, written at manufacture. Log entry 3. -/
opaque identityCerts : List Byte

/-- The storage key of the base key records, derived at MEASURE from the fuse secret and the PUF response (spec/13 R388): the
part's own. Log entry 3. -/
opaque storageKey : BitVec 256

/-- The repair resources of one DRAM bank (spec/10 R305): the spec gives no number. Log entry 7. -/
opaque repairResources : Nat

/-- A tally of `n` bytes at an address of another module's partition crosses a window there (spec/09 R267): its windows are
not this module's to read. Log entry 71. -/
opaque tallyCrosses (part ldn addr n : Nat) : Bool

/-- A fresh free value of `w` bits: the step applies it to the counter `State.free`, which it then advances.
Log entry 6. -/
opaque freeValue (n : Nat) (w : Nat) : BitVec w

end Sys2Proof.Config
end

