-- ==== Sys2Proof/Machine/State.lean ====
section
/-! DEFINITION. The state of the block, as plain data: every register, queue, buffer, counter, mode and pin the spec
gives the module, with its value at power-on reset as the field's default. A collection indexed by a number (cores,
queues, key slots, ports, Dictionary values) is a `Sparse` list that lists only what differs from the collection's
default. -/

namespace Sys2Proof.Machine

/-- A map from numbers, in canonical form: keys strictly rising, no entry equal to the map's default. -/
abbrev Sparse (α : Type) := List (Nat × α)

/-- Package memory (spec/01 R16): listed addresses rise strictly and no listed byte is 0, the value an unlisted
address reads as (spec/10 R465 for HBM; log entry 8 for tile memory, caddies and leaf halves). -/
abbrev Mem := List Host.Cell

/-- The steep engine's states (spec/02 Table ST-4), coded as 0x4021:01. -/
inductive EngineState where
  | off | listen | standby | locked | stopped
  deriving DecidableEq, Repr

/-- The Custody Controller's states (spec/13 Table CU-2). -/
inductive CustodyState where
  | por | measure | ready | sealBroken | fault
  deriving DecidableEq, Repr

/-- A port's states (spec/12 Table FB-3), in the order of 0x7010. -/
inductive PortState where
  | down | training | keying | checking | up | miswired | fenced | failed
  deriving DecidableEq, Repr

/-- A fault that the fabric records (spec/12 Tables FB-3 and FB-7, R351, R362). Table SR-6 has no class for one: its form
is the model's (log entry 73). -/
inductive FabricFault where
  /-- a second authentication failure within 1 s took the port DOWN -/
  | authentication (port : Nat)
  /-- no port came UP within 10 s although partners are installed -/
  | alone
  /-- the modules whose link-state records are incomplete after 5 s of FLOOD -/
  | incomplete (snas : List Nat)
  /-- a master lies more than 5 hops from a working module -/
  | distance (hops : List Nat)
  /-- an optical module advertises no application of two lanes of 212.5 Gb/s PAM4 -/
  | application (port : Nat)
  deriving DecidableEq, Repr

/-- Discovery states (spec/12 Table FB-7), in the order of 0x7000:03. -/
inductive DiscoveryState where
  | off | links | flood | routes | complete | alone
  deriving DecidableEq, Repr

/-- A key slot's states (spec/13 Table CU-7), in the order of 0x9400. -/
inductive SlotState where
  | free | loaded | rotating | scrubbing | retired
  deriving DecidableEq, Repr

/-- A partition's states (spec/14 Table HQ-5), in the order of 0x3000. -/
inductive PartState where
  | absent | idle | running | resetting
  deriving DecidableEq, Repr

/-- TDISP states of a function (spec/14 R395), in the order of 0x3050. -/
inductive TdiState where
  | unlocked | locked | run | error
  deriving DecidableEq, Repr

/-- A queue's states (spec/14 R405). -/
inductive QueueState where
  | disabled | active | error
  deriving DecidableEq, Repr

/-- A shard's states at its owner (spec/09 Table RU-8). -/
inductive ShardState where
  | empty | gathering | complete | updating | keeping | kept | failed | skipped
  deriving DecidableEq, Repr

/-- A stack's thermal states (spec/10 Table HB-6), in the order of 0x8142. -/
inductive ThermalState where
  | normal | warm | hot | trip
  deriving DecidableEq, Repr

/-- A physical pseudo-channel's states (spec/10 Table HB-8). -/
inductive PcState where
  | spare | active | draining | filling | retired
  deriving DecidableEq, Repr

/-- A half's states (spec/11 Table LF-7), in the order of Table LF-1. -/
inductive HalfState where
  | empty | installing | staged | active | retained
  deriving DecidableEq, Repr

/-- A management session's states (spec/15 Table OD-6). -/
inductive SessionState where
  | free | exchanging | opened
  deriving DecidableEq, Repr

/-- A sequence's states (spec/07 Table AT-2), in the order KV.READ reports. -/
inductive SeqState where
  | free | opened | closing | invalid
  deriving DecidableEq, Repr

/-- The progress of a core's image fetch for the next steep (spec/05 R142). -/
inductive FetchState where
  | idle | fetching | done | incomplete | badCrc | outside
  deriving DecidableEq, Repr

/-- Packets that the module hands to its fabric ports (spec/12 Table FB-6), by content. Where the spec gives a
payload's bit layout the bits stand here; where it lists the contents only, the fields stand here. -/
inductive Packet where
  | token (ldn : BitVec 10) (core : BitVec 7) (ctr : BitVec 6) (amount : BitVec 4) (steep : BitVec 64)
  | wave (bits : BitVec 512)
  | contribution (bits : BitVec 512)
  | timeSync (time : BitVec 64)
  | rollCall (asteep : BitVec 32) (ldn : BitVec 10) (records : List (BitVec 64))
  | straggler (asteep : BitVec 32) (owner : BitVec 10) (missing : BitVec 16)
  | slotClaim (stamp : BitVec 64) (sna : BitVec 16) (seq : BitVec 32) (adid : BitVec 24) (layer : BitVec 12)
      (slot : BitVec 4) (keySlot : BitVec 13) (kgen : BitVec 16) (share : Bool)
  | takeoverOrder (ldn : BitVec 10) (failed chosen : BitVec 16) (steep : BitVec 64)
  | standInReady (gen : BitVec 16) (digest0 digest1 : BitVec 128)
  | takeoverEffect (moves : List (BitVec 10 × BitVec 16)) (commitSteep : BitVec 64)
  | tableDigest (digest : BitVec 64)
  | custody (message : List Byte)
  | hello (sna : BitVec 16) (port : BitVec 4) (serial : BitVec 128) (digest : BitVec 256)
  | linkState (sna : BitVec 16) (ports : BitVec 64) (gen : BitVec 16) (digest0 digest1 : BitVec 128)
      (identity : BitVec 256)
  | dap (frame : List Byte)
  | fabPut (addr : BitVec 48) (unit : List Byte) (gcm crc : Bool) (core : BitVec 7) (ctr : BitVec 6)
      (amount : BitVec 4) (put : PutOp)
  | fabGet (addr : BitVec 48) (len : BitVec 32) (gcm : Bool) (slot : BitVec 13) (gen : BitVec 16) (core : BitVec 7)
      (op : BitVec 16) (offset : BitVec 40)
  | readData (core : BitVec 7) (op : BitVec 16) (offset : BitVec 40) (unit : List Byte)
  | ack (stamp : BitVec 56) (oseq : BitVec 32)
  | contributionUnit (payload : List Byte)
  | keeperCopy (adid : BitVec 24) (entry : BitVec 16) (slot : BitVec 13) (gen : BitVec 16) (ep : Bool) (nonce : BitVec 96)
      (ciphertext : List Byte) (tag : BitVec 128)
  | keeperAck (adid : BitVec 24) (entry : BitVec 16)
  | push (adid : BitVec 24) (stepc : BitVec 32) (offset : BitVec 48) (slot : BitVec 13) (gen : BitVec 16) (ep : Bool)
      (nonce : BitVec 96) (ciphertext : BitVec 512) (tag : BitVec 128)
  | restoreRequest (adid : BitVec 24) (offsets : List (BitVec 48))
  | collective (group : BitVec 8) (rank : BitVec 10) (offset : BitVec 32) (unit : List Byte)
  | barrier (group : BitVec 8) (rank : BitVec 10)
  | manifest (data : List Byte)
  | segment (index : BitVec 14) (data : List Byte)
  | segmentRequest (index : BitVec 14)
  | breakNotice (status : BitVec 8)
  | installCredit
  | restore (step kind : BitVec 8) (key : BitVec 64) (data : List Byte) (last : Bool)
  | standInRequest (step : BitVec 8) (key : BitVec 64)
  | routed (net : BitVec 256) (payload : List Byte)
  deriving DecidableEq, Repr

/-- Where a packet goes: one SNA, one LDN, every module by flooding, out of one named port, or to a collective group along
its tree from a root (spec/12 R354). -/
inductive Dest where
  | sna (a : BitVec 16)
  | ldn (l : BitVec 10)
  | flood (except : Option (BitVec 4))
  | port (p : BitVec 4)
  | tree (root : BitVec 10) (group : BitVec 8)
  deriving DecidableEq, Repr

/-- What the block has put on its interfaces, in order: the record that an observer outside keeps. -/
inductive Out where
  | packet (dest : Dest) (p : Packet)
  | frame (port : BitVec 4) (header : BitVec 64) (net : BitVec 256) (payload : List Byte) (tag : BitVec 128)
  | hostWrite (fn : BitVec 6) (addr : Nat) (data : List Byte)
  | readCompletion (fn : BitVec 6) (offset : BitVec 21) (data : List Byte)
  | msix (fn : BitVec 6) (vector : BitVec 8)
  | dapResponse (path source : Nat) (frame : List Byte)
  | neighborAdvertisement (dest target : BitVec 128)
  | echoReply (dest : BitVec 128) (data : List Byte)
  | doe (fn : BitVec 6) (message : List Byte)
  | report (fn : BitVec 6) (bytes : List Byte)
  deriving DecidableEq, Repr

/-- The slewing of Spapor time (spec/02 R31). -/
structure Slew where
  /-- the correction still to make, cycles. Reset 0. -/
  left  : Int := 0
  /-- core cycles since the last cycle that was gained or lost. Reset 0. -/
  phase : Nat := 0
  deriving DecidableEq, Repr

/-- Input power (spec/01 R27, R28). -/
structure Power where
  /-- spec/01 R27: the input power samples of 10 µs, newest first, at most 1,000. Reset: none. -/
  samples : List Nat := []
  /-- spec/01 R27: 1 ms average, W, 0x8200:01. Reset 0 (DESIGN CHOICE, log 4). -/
  avg1    : Nat := 0
  /-- spec/01 R27: 10 ms average, W, 0x8200:02. Reset 0 (DESIGN CHOICE, log 4). -/
  avg10   : Nat := 0
  /-- spec/01 R28: power of the ten block groups, W, 0x8200:10 to :19. Reset none, read as 0 (DESIGN CHOICE, log 4). -/
  groups  : List Nat := []
  /-- spec/01 R27: the issue rate of all matrix cores is halved. Reset false. -/
  halved  : Bool := false
  /-- spec/01 R27: samples in a row whose 1 ms average was above 2,600 W. Reset 0. -/
  above   : Nat := 0
  /-- spec/01 R28: samples since the block groups were last updated. Reset 0. -/
  sinceGroups : Nat := 0
  deriving DecidableEq, Repr

/-- What a steep master holds (spec/02 R38 to R43, R47, R50; spec/09 R285, R286; spec/12 R355 to R357). -/
structure Master where
  /-- spec/02 R43: contributions received for the present steep. Reset none. -/
  contributions : List (BitVec 512) := []
  /-- spec/02 R43: the gather deadline of the present steep has passed. Reset false. -/
  reduced   : Bool := false
  /-- spec/02 R43: this master's own reduction for the present steep, ready to flood. Reset none. -/
  ownWave   : Option (BitVec 512) := none
  /-- spec/02 R47: the step-good latch of the current step. Reset true. -/
  latch     : Bool := true
  /-- spec/02 R50: a snapshot request and the clock of its write. Reset none. -/
  snapReq   : Option (BitVec 16 × Nat) := none
  /-- spec/09 R285 rule 1: LDNs missing at a gather deadline of the attempt. Reset none. -/
  missing   : List Nat := []
  /-- spec/09 R285 rule 2: LDNs with FAIL[401], [399], [397] or [396] in the attempt. Reset none. -/
  failHard  : List Nat := []
  /-- spec/09 R285 rule 3: LDNs named in straggler notices of the attempt. Reset none. -/
  stragglers : List Nat := []
  /-- spec/09 R285 rule 4: LDNs with FAIL[400] or [398] in the attempt. Reset none. -/
  failSoft  : List Nat := []
  /-- spec/09 R285: blamed LDN of attempts 0 to 3, 0x5021:01 to :04. Reset none, read as 0xFFFF. -/
  blamed    : List (Option Nat) := []
  /-- spec/09 R286: a stand-in has been ordered for the current step. Reset false. -/
  ordered   : Bool := false
  /-- spec/12 R355, R360: the orders in force: LDN, failed SNA, chosen SNA; more than one for a board. Reset none. -/
  orders    : List (BitVec 10 × BitVec 16 × BitVec 16) := []
  /-- spec/12 R357: clock of the orders, where this master gave them. Reset none. -/
  acting    : Option Nat := none
  /-- spec/12 R357: chosen SNAs whose ready packets matched. Reset none. -/
  ready     : List (BitVec 16) := []
  /-- spec/12 R355: choices already tried for the orders. Reset none. -/
  tried     : List (BitVec 16) := []
  /-- spec/12 R360: boards (SNA / 512) whose eight working modules went missing in one wave interval. Reset none. -/
  boards    : List Nat := []
  /-- spec/12 0x7030:01. Reset 0. -/
  takeoverState : BitVec 8 := 0
  /-- spec/12 0x7030:02. Reset 0. -/
  takeoverRec : BitVec 128 := 0
  deriving DecidableEq, Repr

/-- The steep engine and Spapor time (spec/02). -/
structure Steep where
  /-- spec/02 R53, 0x4021:01. Reset Off. -/
  engine    : EngineState := .off
  /-- spec/02 R34: number of the present steep, 64 bits, 0x4010:03. Reset 0 (DESIGN CHOICE, log 4). -/
  k         : BitVec 64 := 0
  /-- spec/02 R34: B(k), Spapor time. Reset 0 (DESIGN CHOICE, log 4). -/
  b         : BitVec 64 := 0
  /-- spec/02 R34: L(k) in µs, 0x4010:02. Reset 250, the configured default (DESIGN CHOICE, log 4). -/
  len       : Nat := 250
  /-- spec/02 R43: L(k+1) in µs, as agreed. Reset 250 (DESIGN CHOICE, log 4). -/
  lenNext   : Nat := 250
  /-- spec/02 R35: configured length of the last steep, µs, which governs L(k+2) through its wave point. Reset 250. -/
  cfgLen    : Nat := 250
  /-- spec/02 R55: number, boundary and length of earlier steeps, newest first, at most 1,023. Reset none. -/
  history   : List (BitVec 64 × BitVec 64 × Nat) := []
  /-- spec/02 Table ST-3 STEP. Reset 0 (DESIGN CHOICE, log 4). -/
  step      : BitVec 32 := 0
  /-- spec/02 Table ST-3 SIDX of steep k. Reset 0 (DESIGN CHOICE, log 4). -/
  sidx      : Nat := 0
  /-- spec/02 R47 REPEAT. Reset 0. -/
  rep       : Nat := 0
  /-- spec/09 R260: the first steep of the present attempt. Reset 0 (DESIGN CHOICE, log 4). -/
  astart    : BitVec 64 := 0
  /-- spec/02 R42: the wave acted on for steep k. Reset none. -/
  wave      : Option (BitVec 512) := none
  /-- spec/02 R40: (steep, rank) pairs of the waves already forwarded. Reset none. -/
  seen      : List (BitVec 64 × BitVec 2) := []
  /-- spec/02 R44: stretch level n, 0x4011:04. Reset 0. -/
  stretch   : Nat := 0
  /-- spec/02 R45: steep at which n last changed. Reset 0. -/
  lastChange : BitVec 64 := 0
  /-- spec/02 R45: wave intervals in a row without a stretch condition. Reset 0. -/
  clearRun  : Nat := 0
  /-- spec/02 R44: an HBM reading at or above 85 °C in this wave interval. Reset false. -/
  condHbm   : Bool := false
  /-- spec/02 R44: the 10 ms power average above 2,400 W in this wave interval. Reset false. -/
  condPower : Bool := false
  /-- spec/02 Table ST-2 FAIL bits [401:396] for the next contribution. Reset 0. -/
  fail      : BitVec 6 := 0
  /-- spec/02 Table ST-2 GOOD: a failure in the present attempt, with or without a FAIL bit. Reset false. -/
  bad       : Bool := false
  /-- spec/05 R165: a contribution of the present attempt carried FAIL[401]. Reset false. -/
  over401   : Bool := false
  /-- spec/02 0x4021:02. Reset 0. -/
  faultRec  : BitVec 128 := 0
  /-- spec/02 0x4021:03. Reset 0. -/
  exits     : Nat := 0
  /-- spec/02 0x4040:01. Reset 0. -/
  overruns  : Nat := 0
  /-- spec/02 0x4040:02. Reset 0. -/
  badStamps : Nat := 0
  /-- spec/02 R33: estimated offset, signed 0.5 ns, 0x4020:01. Reset 0 (DESIGN CHOICE, log 4). -/
  offset    : Int := 0
  /-- spec/02 R33: absolute offsets of the last second with their clocks, newest first; 0x4020:02 is the largest.
  Reset none. -/
  offsets   : List (Nat × Nat) := []
  /-- spec/02 R33: exchanges in a row with an offset above 20 ns. Reset 0. -/
  offRun    : Nat := 0
  /-- spec/02 Table ST-4: clock of the entry into Listen. Reset 0. -/
  listenAt  : Nat := 0
  /-- spec/02 Table ST-4: waves received in a row by their deadlines while in Listen. Reset 0. -/
  wavesIn   : Nat := 0
  /-- spec/02 Table ST-4: clock of the last wave, or of the entry into Listen. Reset 0. -/
  lastWave  : Nat := 0
  /-- spec/02 R53: the 100 ms record of this stay in Listen is written. Reset false. -/
  quietRec  : Bool := false
  /-- spec/02 R36: the guard of the present steep has begun. Reset false. -/
  guard     : Bool := false
  /-- spec/02 R37: the wave point of the present steep has passed. Reset false. -/
  waved     : Bool := false
  /-- spec/02 R55: the boundary at which the module last crossed. Set by STEEP_BOUNDARY: COMMIT of the wave of the
  steep before k, held for COMMIT_APPLY and ABORT_APPLY. Reset 0b00. -/
  decision  : BitVec 2 := 0
  /-- spec/09 R286: REPEAT of the attempt that the last wave decided. Reset 0. -/
  decidedRep : Nat := 0
  /-- spec/12 R355: RANK of the wave acted on for the steep before k. Reset 0. -/
  decidedBy : BitVec 2 := 0
  /-- spec/02 R56: events stamped so far by each originating unit. Reset none. -/
  oseq      : Sparse (BitVec 25) := []
  /-- spec/02 R30: measured link delay of each port, cycles. Reset 0. -/
  delays    : Sparse Int := []
  /-- spec/02 R31: the time has been set by a step in this stay in Listen. Reset false. -/
  stepped   : Bool := false
  /-- spec/02 R30, R31: clock of the last exchange that corrected the time. Reset 0. -/
  syncAt    : Nat := 0
  /-- spec/02 R30: time-sync packets sent, and the clock of the last ones. Reset 0, none. -/
  syncs     : Nat := 0
  syncSent  : Option Nat := none
  /-- spec/00 R10: clock of the last STEEP_BOUNDARY. Reset none. -/
  crossedAt : Option Nat := none
  /-- spec/01 R22: what the local time copies of CD0 to CD3 and HX read above the FX copy, in 0.5 ns. Reset none, read
  as 0 (DESIGN CHOICE, log 4). -/
  skews     : List Int := []
  /-- spec/02 R38: what the module holds as a steep master. -/
  master    : Master := {}
  deriving DecidableEq, Repr

/-- One EPI slot of a core (spec/05 R156, Tables SP-13 to SP-15). -/
structure EpiSlot where
  valid : Bool := false
  st : BitVec 32 := 0
  s : BitVec 32 := 0
  alpha : BitVec 32 := 0
  eout : BitVec 8 := 0
  act : BitVec 3 := 0
  deriv : Bool := false
  ofmt : BitVec 2 := 0
  exp : Bool := false
  scl : Bool := false
  bias : Bool := false
  vsrc : Bool := false
  staddr : BitVec 20 := 0
  baddr : BitVec 16 := 0
  vaddr : BitVec 16 := 0
  zaddr : BitVec 16 := 0
  zstride : BitVec 12 := 0
  zfmt : Bool := false
  deriving DecidableEq, Repr

/-- A loaded weight tile with its side data (spec/03 R62, spec/04 R104). -/
structure WeightTile where
  wfmt : BitVec 3
  scl : Bool
  t : Bool
  codes : List Byte
  side : List Byte
  deriving DecidableEq, Repr

/-- The chain that holds an accumulator or rank accumulator bank (spec/03 R67 to R69). -/
structure Chain where
  rows : Nat
  cols : Nat
  kt : Nat
  /-- the LAST op has started -/
  last : Bool
  /-- clocks at which the rows are final, once the LAST op has started (spec/03 R68) -/
  finals : List Nat
  deriving DecidableEq, Repr

/-- An accumulator bank: its chain, if one holds it, its FP32 rows (spec/03 R67, R68), and the clock from which a FIRST op
can take it once it is released (R69). -/
structure Bank where
  chain : Option Chain := none
  vals : List (List (BitVec 32)) := []
  freeAt : Nat := 0
  deriving DecidableEq, Repr

/-- An op in a unit's queue (spec/05 R143). -/
structure QOp where
  word : BitVec 128
  index : BitVec 16
  stream : Bool
  dispatched : Nat
  deriving DecidableEq, Repr

/-- An op that has started and has not completed (spec/05 R148, R150). -/
structure RunOp where
  word : BitVec 128
  index : BitVec 16
  stream : Bool
  /-- clock at which the op's minimum duration of Table SP-8 ends -/
  endAt : Nat
  /-- acknowledgements, data units or shard results still awaited (spec/05 Table SP-8) -/
  awaiting : Nat
  /-- the descriptors of a transfer that answers to FAB.GET or FAB.COLL (spec/05 R161, spec/12 R354) -/
  descs : List (BitVec 512) := []
  deriving DecidableEq, Repr

/-- Rows of an op that lie under one segment, or under none: the segment's index in the table, the first row and the
number of rows (spec/03 R71, R75). -/
structure Piece where
  seg : Option Nat
  row : Nat
  rows : Nat
  deriving DecidableEq, Repr

/-- A RANK.RUN whose rows have not all been scheduled (spec/03 R71). -/
structure RankRun where
  op : QOp
  /-- the pieces whose A is still to be loaded -/
  left : List Piece
  /-- clock from which the next A can load: the shadow set is empty and the load port free -/
  loadFrom : Nat
  /-- clock from which the next row can enter -/
  rowFrom : Nat
  /-- numeric event classes already raised by the op -/
  raised : List Nat
  deriving DecidableEq, Repr

/-- A pour that has started (spec/03 R82). -/
structure Pour where
  op : QOp
  slot : EpiSlot
  /-- the pieces whose rows are still to be read, and how many pieces the pour spans in all -/
  left : List Piece
  pieces : List Piece
  /-- clock from which the next B slice can load, and from which the next row can be read (R75, R82) -/
  loadFrom : Nat
  rowFrom : Nat
  /-- the B bank that the next slice is loaded into -/
  bank : Bool
  /-- the rows read so far as stage E13 leaves them, each element with its overflow flag -/
  out : List (List (BitVec 32 × Bool))
  /-- clock at which the pass that has run ends -/
  endAt : Nat
  /-- numeric event classes already raised by the op -/
  raised : List Nat
  /-- saturated blocks or rows of the first pass (R81) -/
  saturated : Nat
  /-- the recompute pass has run, and whether it clamped (R79, R80) -/
  recomputed : Bool
  clamped : Bool
  deriving DecidableEq, Repr

/-- A parsed program image (spec/05 Table SP-1). -/
structure Image where
  header : BitVec 512
  credits : List (BitVec 16)
  sendMap : List (BitVec 32)
  consts : List (BitVec 32)
  ops0 : List (BitVec 128)
  ops1 : List (BitVec 128)
  deriving DecidableEq, Repr

/-- A token under way between two cores of this module (spec/05 R151), with the core that sent it (spec/01 R13). -/
structure Token where
  source : BitVec 7
  core : BitVec 7
  ctr : BitVec 6
  amount : BitVec 16
  steep : BitVec 64
  deriving DecidableEq, Repr

/-- A core's binding (spec/05 Table SP-5), with the maps that BIND carries (spec/06 R182, spec/07 R220). -/
structure Binding where
  mode : BitVec 2 := 0
  dir : BitVec 48 := 0
  dlen : BitVec 16 := 0
  first : BitVec 64 := 0
  slotMap : BitVec 48 := 0
  kvMap : BitVec 48 := 0
  deriving DecidableEq, Repr

/-- One slice that the infuser has put into a ring (spec/06 R187): the op of the program that reads it, the segment of
the table, whether it is a scale slice, the bytes it takes in the ring, its BF16 values, the clock at which it is written,
and the clock at which its load ends and its space is released. -/
structure RingSlice where
  op : Nat
  seg : Nat
  scale : Bool
  size : Nat
  vals : List (BitVec 16)
  at_ : Nat
  ends : Option Nat := none
  deriving DecidableEq, Repr

/-- One matrix core (spec/03 Table MC-1, spec/05). -/
structure Core where
  /-- spec/05 R137: the binding in effect. Reset idle. -/
  binding : Binding := {}
  /-- spec/05 R138: the pending binding. Reset none. -/
  pendingBind : Option Binding := none
  /-- spec/05 R164: the mode (interleaved or paired) in use. Reset interleaved. -/
  paired : Bool := false
  /-- spec/05 R142: the active half of the op buffer. Reset empty. -/
  image : Option Image := none
  /-- spec/05 R142: the idle half of the op buffer, filled for the next steep. Reset empty. -/
  nextImage : Option Image := none
  /-- spec/07 R220: the strain list, and that of the next steep. Reset empty. -/
  strain : List (BitVec 256) := []
  nextStrain : List (BitVec 256) := []
  /-- spec/05 R142: the fetch's progress. Reset idle. -/
  fetch : FetchState := .idle
  /-- spec/05 R149: the 64 credit counters, 16 bits. Reset 0. -/
  credits : Sparse (BitVec 16) := []
  /-- spec/05 R149: clock of the last increments of each counter, and their sum, which tests see from the next cycle on.
  Reset 0. -/
  creditIn : Sparse (Nat × Nat) := []
  /-- spec/05 R151: tokens of the next steep held until its boundary: counter and amount. Reset none. -/
  held : List (BitVec 6 × BitVec 16) := []
  /-- spec/05 R143: index of the next op of each stream to dispatch, clock of the next dispatch. Reset 0. -/
  next0 : Nat := 0
  next1 : Nat := 0
  dispatchAt : Nat := 0
  /-- spec/05 R144: the stream that dispatched last. Reset false (stream 0). -/
  lastDispatch : Bool := false
  /-- spec/05 R143: the queues of the six units, oldest first, both streams together. Reset empty. -/
  queues : Sparse (List QOp) := []
  /-- spec/05 R143: unit, stream and clock of the last op that left each queue: its place is free from the next cycle on.
  Reset none. -/
  leaving : List (Nat × Bool × Nat) := []
  /-- spec/05 R145: the stream that started last on each unit. Reset stream 0. -/
  lastStart : Sparse Bool := []
  /-- spec/05 R148: started ops that have not completed. Reset none. -/
  running : List RunOp := []
  /-- spec/05 R156: the eight EPI slots. Reset invalid. -/
  epi : Sparse EpiSlot := []
  /-- spec/03 R62: the active and the shadow weight set. Reset empty. -/
  active : Option WeightTile := none
  shadow : Option WeightTile := none
  /-- spec/03 R62: clock at which the running load completes, and from which the shadow set counts as empty. Reset 0. -/
  loadEnd : Nat := 0
  shadowFree : Nat := 0
  /-- spec/03 R67: the two accumulator banks. Reset empty. -/
  acc0 : Bank := {}
  acc1 : Bank := {}
  /-- spec/03 R70: the two rank accumulator banks. Reset empty. -/
  rank0 : Bank := {}
  rank1 : Bank := {}
  /-- spec/03 R70, R71: the active and shadow A register sets. Reset empty. -/
  aActive : List (BitVec 16) := []
  aShadow : List (BitVec 16) := []
  /-- spec/03 R71: the RANK.RUN under way, and the clock of the last switch to the shadow set. Reset none, 0. -/
  rankRun : Option RankRun := none
  rankSwitch : Nat := 0
  /-- spec/03 R75: the two B register banks. Reset empty. -/
  b0 : List (BitVec 16) := []
  b1 : List (BitVec 16) := []
  /-- spec/03 R82: the pour in progress. Reset none. -/
  pour : Option Pour := none
  /-- spec/05 R145: clocks at which the array, rank lane and vector unit can take their next op. Reset 0. -/
  arrayFree : Nat := 0
  rankFree : Nat := 0
  vecFree : Nat := 0
  /-- spec/06 R187: filled slices of the A and B rings of each slot (key 2 × slot + ring). Reset empty. -/
  rings : Sparse (List RingSlice) := []
  /-- spec/06 R187: slices and bytes already copied into each ring for this steep (keys as `rings`). Reset 0. -/
  ringPos : Sparse Nat := []
  ringBytes : Sparse Nat := []
  /-- spec/06 R187: clock at which the infuser's last slice is written. Reset 0. -/
  infuserFree : Nat := 0
  /-- spec/06 R188: the infuser has begun to fill for the coming steep. Reset false. -/
  prefilling : Bool := false
  /-- spec/07 R222: index of the next strain command. A running one stands in `running`, with index 0xC000 + its own.
  Reset 0. -/
  strainNext : Nat := 0
  /-- spec/05 R166: a program fault has stopped the core in this steep, with its code. Reset none. -/
  faulted : Option (BitVec 8) := none
  /-- spec/02 R51: the steep was aborted on this core. Reset false. -/
  aborted : Bool := false
  /-- spec/14 R400: clock until which the core is held by a zeroisation. Reset 0. -/
  heldUntil : Nat := 0
  /-- spec/03 R90: the words of the core's memories with an ECC error. Reset none. -/
  upsets : List Upset := []
  deriving DecidableEq, Repr

/-- The record of a 4 KiB block (spec/10 Table HB-3). -/
structure BlockRec where
  crc : BitVec 64 := 0
  atag : BitVec 32 := 0
  v : Bool := false
  ep : Bool := false
  bad : Bool := false
  deriving DecidableEq, Repr

/-- One HBM stack (spec/10). -/
structure Stack where
  /-- spec/10 R289: physical pseudo-channel of each logical one that differs from the identity (0xFF: LOST). -/
  map : Sparse (BitVec 8) := []
  /-- spec/10 Table HB-8: states that differ from reset (0 to 29 ACTIVE, 30 and 31 SPARE). -/
  pcs : Sparse PcState := []
  /-- spec/10 R307: logical pseudo-channels whose retirement waits, oldest first. Reset none. -/
  retireQ : List Nat := []
  /-- spec/10 R308: the fill in progress: logical pseudo-channel, old and new physical ones, clock of its start. -/
  fill : Option (Nat × Nat × Nat × Nat) := none
  /-- spec/10 R310: logical pseudo-channels to become LOST at the next boundary. Reset none. -/
  losing : List Nat := []
  /-- spec/10 R302: reading, °C, 0x8140. Reset 0 (DESIGN CHOICE, log 4). -/
  temp : Int := 0
  /-- spec/10 R302: highest reading since reset, 0x8141. Reset 0 (DESIGN CHOICE, log 4). -/
  tempMax : Int := 0
  /-- spec/10 R302: a reading has been taken since reset. Reset false. -/
  tempRead : Bool := false
  /-- spec/10 R302: 0x8142. Reset NORMAL. -/
  thermal : ThermalState := .normal
  /-- spec/10 Table HB-6: readings in a row below the exit threshold; failed reads in a row. Reset 0. -/
  below : Nat := 0
  failedReads : Nat := 0
  /-- spec/10 Table HB-6: clock of the last successful read. Reset 0. -/
  lastRead : Nat := 0
  /-- spec/10 Table HB-5, 256 bits, 0x8110. Reset 0. -/
  identity : BitVec 256 := 0
  /-- spec/10 R304: clocks of the correctable events of the last patrol period, oldest first, by row key. Reset none. -/
  correctable : Sparse (List Nat) := []
  /-- spec/10 Table HB-7: rows being repaired, SOFT or HARD (1, 2, 3) by row key. Reset GOOD. -/
  rows : Sparse Nat := []
  /-- spec/10 R305: repair resources used in each bank. Reset 0. -/
  repairs : Sparse Nat := []
  deriving DecidableEq, Repr

/-- The HBM system (spec/10). -/
structure Hbm where
  stk : Sparse Stack := []
  /-- spec/10 R465 fill has run: an unlisted block record then has V = 1 and the CRC of a zero block. Reset false. -/
  filled : Bool := false
  /-- spec/10 R295: block records by block number (package address / 4,096). -/
  blocks : Sparse BlockRec := []
  /-- spec/10 R306: repair log: (stack, pc, bank, row, state) with state 2 SOFT, 3 HARD. Persistent. Reset empty. -/
  log : List (Nat × Nat × Nat × Nat × Nat) := []
  /-- spec/10 0x8150:01 to :07. Reset 0. -/
  cured : Nat := 0
  errors : Nat := 0
  restored : Nat := 0
  softRepairs : Nat := 0
  hardRepairs : Nat := 0
  retired : Nat := 0
  unverifiable : Nat := 0
  /-- spec/10 0x8150:08. Reset 0. -/
  lastRas : BitVec 128 := 0
  /-- spec/10 R297: journalled block addresses. Reset none. -/
  journal : List Nat := []
  /-- spec/10 R300: patrol position (block number). Reset 0. -/
  patrolAt : Nat := 0
  deriving DecidableEq, Repr

/-- An install in progress (spec/11 R324 to R326). -/
structure Install where
  params : BitVec 512
  manifest : Option (List Byte) := none
  /-- next segment expected, segments in staging (their bytes stand in the staging area) and segments programmed -/
  nextSeg : Nat := 0
  staged : List Nat := []
  done : List Nat := []
  /-- credits from the successor for forwarding -/
  credits : Nat := 0
  forwarded : Nat := 0
  /-- segments already asked for a second time -/
  retried : List Nat := []
  lastData : Nat := 0
  deriving DecidableEq, Repr

/-- The trial base (spec/11 R330 to R333). -/
structure Trial where
  /-- 0 none, 1 loading, 2 loaded, 3 releasing (0x8320:01) -/
  state : BitVec 8 := 0
  gen : BitVec 16 := 0
  owner : BitVec 6 := 0
  loads : Nat := 0
  /-- extents: quarter, index, package address -/
  extents : List (Nat × Nat × Nat) := []
  digest : BitVec 128 := 0
  /-- the host address and the manifest of the image being loaded -/
  addr : Nat := 0
  man : List Byte := []
  cmd : Option Nat := none
  deriving DecidableEq, Repr

/-- The leaf base store (spec/11). -/
structure Leaf where
  /-- spec/11 Table LF-1, 512 bits each, in the leaf metadata area. Persistent. Reset 0 (EMPTY). -/
  rec0 : BitVec 512 := 0
  rec1 : BitVec 512 := 0
  /-- spec/11 R318: manifests of the halves, in the metadata area. Persistent. Reset none. -/
  man0 : List Byte := []
  man1 : List Byte := []
  /-- spec/11 R324: the install in progress, and the status code of the last ended one. Reset none, 0xFF. -/
  install : Option Install := none
  lastStatus : BitVec 8 := 0xFF
  lastHalf : Bool := false
  /-- spec/11 0x8300:03. Reset 0. -/
  segments : Nat := 0
  /-- spec/11 0x8310:02, 0x8310:03. Reset 0. -/
  activeGen : BitVec 16 := 0
  /-- spec/06 R199: the generation active at the boundary before the last one. Reset 0. -/
  lastGen : BitVec 16 := 0
  /-- spec/11 R315, R332: the loaded trial's generation at the last boundary and at the one before (0 for none), and the
  partitions that selected the trial base in the steep before. Reset 0, 0, none. -/
  nowTrial : BitVec 16 := 0
  lastTrial : BitVec 16 := 0
  lastSelect : List Nat := []
  /-- spec/11 R317, R327: damaged segments: half and index, in the metadata area. Persistent. Reset none. -/
  damaged : List (Bool × Nat) := []
  retainedGen : BitVec 16 := 0
  trial : Trial := {}
  /-- spec/11 0x8340:01, :02. Reset 0. -/
  uncorrectable : Nat := 0
  lastDamaged : BitVec 128 := 0
  deriving DecidableEq, Repr

/-- A frame kept for replay (spec/12 R342). -/
structure SentFrame where
  lseq : BitVec 12
  header : BitVec 64
  net : BitVec 256
  payload : List Byte
  tag : BitVec 128
  replays : Nat
  deriving DecidableEq, Repr

/-- One Spapor port (spec/12). -/
structure Port where
  /-- spec/12 0x7010. Reset DOWN. -/
  state : PortState := .down
  /-- spec/12 0x7011. Reset 0xFFFF. -/
  partner : BitVec 16 := 0xFFFF
  /-- spec/13 R374: digest of the identity certificate that the partner's exchange showed. Reset 0. -/
  partnerDigest : BitVec 256 := 0
  /-- spec/12 R338: clock of the entry into the state. Reset 0. -/
  since : Nat := 0
  /-- spec/12 R338: clocks of the last entries into TRAINING from UP, newest first. Reset none. -/
  trainings : List Nat := []
  /-- spec/12 R338: clock until which the port stays DOWN after a failed exchange. Reset 0. -/
  holdOff : Nat := 0
  /-- spec/12 R341: clock of the last tag failure. Reset none. -/
  tagFail : Option Nat := none
  /-- spec/12 R341: session keys to and from the partner. Reset none. -/
  txKey : Option (BitVec 256) := none
  rxKey : Option (BitVec 256) := none
  /-- spec/12 R341: the previous receive key and the clock at which it ends. Reset none. -/
  oldRxKey : Option (BitVec 256 × Nat) := none
  /-- spec/12 R341: frames received in the previous key phase. Reset 0. -/
  oldRxCount : BitVec 64 := 0
  /-- spec/12 Table FB-3: clock of the last HELLO sent while MISWIRED. Reset 0. -/
  helloAt : Nat := 0
  /-- spec/12 R341: key phase, frames first sent in it, frames received in it, clock of its start. Reset 0. -/
  kph : Bool := false
  sentInPhase : BitVec 64 := 0
  phaseSince : Nat := 0
  /-- spec/12 R341: key phase and frame count of the receive direction. Reset 0. -/
  rxPhase : Bool := false
  rxInPhase : BitVec 64 := 0
  /-- spec/12 R342: next LSEQ to send, last LSEQ accepted. Reset 0, 0xFFF. -/
  txSeq : BitVec 12 := 0
  rxSeq : BitVec 12 := 0xFFF
  /-- spec/12 R342: the replay buffer, oldest first, and the clock of the last acknowledgement. Reset empty, 0. -/
  replay : List SentFrame := []
  lastAck : Nat := 0
  /-- spec/12 R345: credits of (VL, pool) in use, in 64-byte units, key 8 × VL + pool. Reset 0 in use. -/
  credits : Sparse Nat := []
  /-- spec/12 R345: credits to return for (VL, pool). Reset 0. -/
  owed : Sparse Nat := []
  /-- spec/12 R362: CMIS identity (512 bits), monitors (128 bits), alarms, 0x7040, 0x7041. Reset 0. -/
  cmisId : BitVec 512 := 0
  cmisMon : BitVec 128 := 0
  cmisAlarm : BitVec 32 := 0
  /-- spec/12 0x7040 absent flag (spec/18 R492). Reset false. -/
  absent : Bool := false
  /-- spec/12 R362: the optical module advertises no application that fits. Reset false. -/
  noApplication : Bool := false
  /-- spec/12 R344: the lane of the weighted round-robin, and the frames that it has had in its turn. Reset 1, 0. -/
  lane : Nat := 1
  laneFrames : Nat := 0
  deriving DecidableEq, Repr

/-- A link-state record (spec/12 Table FB-7). -/
structure LinkState where
  ports : BitVec 64 := 0
  gen : BitVec 16 := 0
  digest0 : BitVec 128 := 0
  digest1 : BitVec 128 := 0
  identity : BitVec 256 := 0
  deriving DecidableEq, Repr

/-- The fabric die's state (spec/12). -/
structure Fabric where
  ports : Sparse Port := []
  /-- spec/12 0x7000:01. Reset 0 (read from the board in stage 3; DESIGN CHOICE, log 4). -/
  sna : BitVec 16 := 0
  /-- spec/18 Table MP-6: installed-board map, 128 bits, read from the board EEPROM. Reset 0. -/
  installed : BitVec 128 := 0
  /-- spec/12 0x7000:03, with the clock of the entry. Reset OFF. -/
  discovery : DiscoveryState := .off
  discoverySince : Nat := 0
  /-- spec/12 Table FB-7: link-state records by SNA, clock of the last new one. Reset none. -/
  records : Sparse LinkState := []
  lastRecord : Nat := 0
  /-- spec/12 R348: a table has been committed since reset. Reset false. -/
  tableSet : Bool := false
  /-- spec/12 0x7000:04, 0x7001:01 to :03. Reset 0 (DESIGN CHOICE, log 4). -/
  maxHops : Nat := 0
  masterHops : List Nat := []
  /-- spec/12 R349: minimal-route ports of each destination SNA (16-bit mask). Reset none. -/
  routes : Sparse (BitVec 16) := []
  /-- spec/12 R340: packets accepted on a port and not yet routed, oldest first: port, network header, payload.
  Reset none. -/
  inbox : List (BitVec 4 × BitVec 256 × List Byte) := []
  /-- spec/05 R161: writes that have landed here of each FAB.PUT with credits: sender, steep, op; their number. Reset none
  (log entry 68). -/
  puts : List ((BitVec 16 × BitVec 64 × PutOp) × Nat) := []
  /-- spec/12 0x7020:01 to :06. Reset 0. -/
  replayed : Nat := 0
  discarded : Nat := 0
  unknown : Nat := 0
  unreachable : Nat := 0
  fencedDrops : Nat := 0
  authFails : Nat := 0
  /-- spec/12 R356: SNAs fenced by a takeover order. Reset none. -/
  fencedSnas : List (BitVec 16) := []
  /-- spec/12 R358: takeover effects to apply: LDN, SNA, commit steep. Reset none. -/
  effects : List (BitVec 10 × BitVec 16 × BitVec 64) := []
  /-- spec/12 R348: the module's table differs from the primary's. Reset false. -/
  digestBad : Bool := false
  /-- spec/17 R475: the restore of this module as a stand-in: LDN, step of Table SR-7. Reset none. -/
  restore : Option (BitVec 10 × Nat) := none
  /-- spec/17 R475: answers that the restore's present step still awaits. Reset 0. -/
  restoreWait : Nat := 0
  /-- spec/17 0x7031:02 bytes restored, :03 key slots missing. Reset 0. -/
  restoredBytes : Nat := 0
  missingSlots : Nat := 0
  /-- spec/17 R475: clock at which the restore rate lets the next item be taken. Reset 0. -/
  restoreFree : Nat := 0
  /-- spec/14 R402: fabric bytes of each partition in this steep, and as entry 64 those of pushes and keeper copies. Reset
  0. -/
  share : Sparse Nat := []
  /-- spec/12: faults recorded by the fabric, oldest first. Reset none. -/
  faults : List FabricFault := []
  /-- spec/12 R347: clock of the last reflood of the link-state record, or of the entry into COMPLETE. Reset 0. -/
  refreshedAt : Nat := 0
  deriving DecidableEq, Repr

/-- One key slot (spec/13 R376, Table CU-7). -/
structure KeySlot where
  state : SlotState := .free
  gen : BitVec 16 := 1
  parity : Bool := false
  cur : Option (BitVec 256) := none
  prev : Option (BitVec 256) := none
  consortium : Bool := false
  /-- spec/13 R386: members: slot and generation -/
  members : List (BitVec 13 × BitVec 16) := []
  /-- spec/13 R382: B(E) of the rotation, as a steep number -/
  since : BitVec 64 := 0
  /-- spec/13 R382, R385: blocks (numbers) still to sweep or scrub -/
  left : List Nat := []
  /-- spec/13 R382: KEY.SWEEP commands of the slot: command id and blocks still to sweep -/
  sweeps : List (Nat × List Nat) := []
  deriving DecidableEq, Repr

/-- A key import held until B(E) (spec/13 R376). -/
structure PendingImport where
  slot : BitVec 13
  kgen : BitVec 16
  mode : Bool
  key : BitVec 256
  consortium : Bool
  members : List (BitVec 13 × BitVec 16)
  steep : BitVec 64
  receipt : Nat
  cmd : Nat
  deriving DecidableEq, Repr

/-- A key removal held until B(E) (spec/13 R376, R383). -/
structure PendingRemove where
  slot : BitVec 13
  gen : BitVec 16
  steep : BitVec 64
  cmd : Nat
  deriving DecidableEq, Repr

/-- A base key record (spec/13 R388). -/
structure BaseKey where
  keyId : BitVec 128
  xts : BitVec 512
  verify : List Byte
  deriving DecidableEq, Repr

/-- The Custody Controller (spec/13). -/
structure Custody where
  /-- spec/13 0x9000:01. Reset POR. -/
  state : CustodyState := .por
  /-- spec/13 R371: boot value, 32 bits. Reset 0 (DESIGN CHOICE, log 4: drawn in MEASURE). -/
  boot : BitVec 32 := 0
  /-- spec/13 R371: number of the KEM key pair drawn, 0 none. Reset 0. -/
  kem : Nat := 0
  /-- spec/13 0x9000:03. Reset 0. -/
  faultRec : BitVec 128 := 0
  /-- spec/13 R372: MR0 to MR3, 512 bits. Reset 0. -/
  mr0 : BitVec 512 := 0
  mr1 : BitVec 512 := 0
  mr2 : BitVec 512 := 0
  mr3 : BitVec 512 := 0
  /-- spec/13 R372: the event log, oldest first, at most 4,096. Reset empty. -/
  log : List (BitVec 512) := []
  logFull : Bool := false
  /-- spec/13 0x9111:02 and 0x9200:01 as last answered. Reset empty. -/
  logRead : BitVec 512 := 0
  report : List Byte := []
  reports : Nat := 0
  /-- spec/13 R369: waiting requests: clock of arrival and the command they serve, if any. Reset empty. -/
  requests : List (Nat × Option Nat) := []
  /-- spec/13 R388: the records of the halves in the leaf metadata area, sealed under the storage key. Persistent. Reset
  none, no bytes. -/
  stored0 : List Byte := []
  stored1 : List Byte := []
  /-- spec/13 R388: the controller's base key records of half 0, half 1 and the trial. Reset none. -/
  base0 : Option BaseKey := none
  base1 : Option BaseKey := none
  baseTrial : Option BaseKey := none
  slots : Sparse KeySlot := []
  imports : List PendingImport := []
  removes : List PendingRemove := []
  /-- spec/01 R15: the wrap key that each AES path holds for this power cycle: HBM controllers, leaf controllers, compute
  dies. Reset none, before the controller is READY (log entry 67). -/
  wraps : List (BitVec 256) := []
  /-- spec/13 R381: units encrypted so far by each encrypting unit. Reset 0. -/
  nonces : Sparse Nat := []
  /-- spec/13 R382: clock at which the sweep share lets the next block be swept or scrubbed. Reset 0. -/
  sweepFree : Nat := 0
  /-- spec/13 R390: clock of the arming write. Reset none. -/
  armed : Option Nat := none
  /-- spec/13 R389: scan of the sealed domain is open. Reset false. -/
  scanOpen : Bool := false
  /-- spec/13 0x9300:04, 0x9600:01 to :03. Reset 0. -/
  noKeyReads : Nat := 0
  stale : Nat := 0
  gcmFails : Nat := 0
  importsRefused : Nat := 0
  deriving DecidableEq, Repr

/-- An accepted command that has not completed (spec/14 R407). -/
structure Cmd where
  id : Nat
  queue : BitVec 13
  part : BitVec 6
  word : BitVec 512
  stamp : BitVec 64
  pgen : BitVec 16
  sqhead : BitVec 16
  /-- clock of the acceptance -/
  at_ : Nat
  /-- taken up by its own unit: no longer at the front end's head -/
  taken : Bool
  deriving DecidableEq, Repr

/-- A completion ready to be written (spec/14 Table HQ-10). -/
structure Compl where
  cmd : Nat
  stamp : BitVec 64
  queue : BitVec 13
  part : BitVec 6
  tag : BitVec 16
  pgen : BitVec 16
  sqhead : BitVec 16
  status : BitVec 8
  detail : BitVec 8
  info : BitVec 64
  /-- the output copy that must come first has been made -/
  copied : Bool
  deriving DecidableEq, Repr

/-- A queue pair (spec/14 R405). -/
structure Queue where
  state : QueueState := .disabled
  sq : Nat := 0
  cq : Nat := 0
  sqSize : Nat := 0
  cqSize : Nat := 0
  head : Nat := 0
  tail : Nat := 0
  cqTail : Nat := 0
  cqHead : Nat := 0
  phase : Bool := true
  weight : Nat := 1
  /-- commands still to be served in this round of the weighted round-robin (spec/14 R406) -/
  turn : Nat := 0
  vector : BitVec 8 := 0
  vecOn : Bool := false
  group : BitVec 2 := 0
  /-- a QUEUE.DELETE waits for the queue's commands (spec/14 Table HQ-9) -/
  deleting : Option Nat := none
  deriving DecidableEq, Repr

/-- A SUBMIT request from its acceptance to its completion (spec/06 R179, spec/14 R413 to R415). -/
structure Request where
  cmd : Nat
  queue : BitVec 13
  tag : BitVec 16
  part : BitVec 6
  grp : BitVec 2
  stamp : BitVec 64
  adid : BitVec 24
  slot : BitVec 13
  gen : BitVec 16
  rows : Nat
  job : BitVec 2
  mkind : BitVec 2
  seq : BitVec 20
  win : BitVec 20
  first : BitVec 20
  input : Nat
  len : Nat
  result : Nat
  resBytes : Nat
  deferred : Nat := 0
  /-- admitted to this steep -/
  steep : Option (BitVec 64) := none
  row0 : Nat := 0
  baseGen : BitVec 16 := 0
  copied : Bool := false
  copyFailed : Bool := false
  /-- number of the step that a STEP group's request belongs to -/
  step : BitVec 32 := 0
  /-- its completion is due: the output copy comes first where `ending` says success -/
  due : Bool := false
  /-- the status with which the request must end, when a fault has decided it -/
  ending : Option (BitVec 8 × BitVec 8) := none
  /-- chunks allocated at admission (spec/07 R212) -/
  chunks : List Nat := []
  deriving DecidableEq, Repr

/-- A row of a segment table (spec/06 Table AD-11, spec/07 Table AT-4). -/
structure Row where
  queue : BitVec 13 := 0
  tag : BitVec 16 := 0
  tslot : BitVec 13 := 0
  tgen : BitVec 16 := 0
  mask : Bool := false
  seq : BitVec 20 := 0
  qpos : BitVec 20 := 0
  clen : BitVec 21 := 0
  win : BitVec 20 := 0
  mkind : BitVec 2 := 3
  app : Bool := false
  deriving DecidableEq, Repr

/-- A segment entry (spec/06 Table AD-10). -/
structure Seg where
  didx : BitVec 16 := 0
  adid : BitVec 24 := 0
  row0 : Nat
  nrows : Nat
  kinds : BitVec 2 := 0
  deriving DecidableEq, Repr

/-- The segment table of a row group (spec/06 R181, R183). -/
structure Table where
  /-- the steep from which it serves -/
  steep : BitVec 64
  step : BitVec 32
  gen : BitVec 16
  cap : Nat
  used : Nat
  segs : List Seg
  rows : List Row
  deriving DecidableEq, Repr

/-- A sequence (spec/07 R210). -/
structure Sequence where
  state : SeqState := .free
  slot : BitVec 13 := 0
  gen : BitVec 16 := 0
  adid : BitVec 24 := 0
  baseGen : BitVec 16 := 0
  length : Nat := 0
  chunks : List Nat := []
  buffer : Nat := 0
  closing : Option Nat := none
  /-- prompt chunk hashes: index hash and verifier (spec/07 R214) -/
  hashes : List (BitVec 64 × BitVec 64) := []
  deriving DecidableEq, Repr

/-- A chunk record (spec/07 R204, R208). -/
structure Chunk where
  refs : Nat := 0
  slot : BitVec 13 := 0
  gen : BitVec 16 := 0
  /-- layers whose page is sealed -/
  sealed : List Nat := []
  /-- held back until a scrub ends (spec/07 R219) -/
  scrub : Bool := false
  deriving DecidableEq, Repr

/-- A tree entry (spec/07 R214 to R217). -/
structure TreeEntry where
  hash : BitVec 64
  verifier : BitVec 64
  slot : BitVec 13
  gen : BitVec 16
  baseGen : BitVec 16
  chunk : Nat
  lastMatch : BitVec 64
  deriving DecidableEq, Repr

/-- A partition's KV cache (spec/07). -/
structure Kv where
  seqs : Sparse Sequence := []
  chunks : Sparse Chunk := []
  /-- open buffers: use count -/
  buffers : Sparse Nat := []
  /-- spec/07 R228: rows of each open buffer that its holder has written, as 16 × layer + position. Reset none. -/
  written : Sparse (List Nat) := []
  tree : List TreeEntry := []
  /-- copy-on-write copies to make: sequence, old and new buffer -/
  copies : List (Nat × Nat × Nat) := []
  deriving DecidableEq, Repr

/-- One partition and its PCIe function (spec/14). -/
structure Partition where
  state : PartState := .absent
  gen : BitVec 16 := 0
  /-- Table HQ-3 -/
  asq : BitVec 64 := 0
  acq : BitVec 64 := 0
  asize : BitVec 32 := 0
  enable : Bool := false
  avec : BitVec 32 := 0
  ready : Bool := false
  qerr : BitVec 64 := 0
  /-- Table HQ-2: MSI-X table entries and pending bits -/
  msix : Sparse (BitVec 128) := []
  msixPending : BitVec 256 := 0
  /-- spec/14 R395 -/
  tdi : TdiState := .unlocked
  /-- spec/14 R394: an IDE stream is established; its key -/
  ide : Option (BitVec 256) := none
  /-- spec/13 R374: the messages so far of a custody exchange over the DOE mailbox. Reset none. -/
  doe : List Byte := []
  /-- spec/14 R417: clock of the reset request waiting for its boundary -/
  resetAt : Option Nat := none
  /-- spec/14 R419, R420: log parameters, state 0x3061, pending start or stop, pending swap, 0x3063 -/
  logParams : BitVec 512 := 0
  logState : BitVec 8 := 0
  logNext : Option (Option (BitVec 512)) := none
  logSwap : Bool := false
  logOutside : Nat := 0
  /-- spec/14 R403: usage in KEY slots, descriptors and so on is computed; over-quota bits 0x3420 -/
  overBits : BitVec 8 := 0
  /-- spec/05 R165, 0x4052. Reset 0. -/
  repeats : Nat := 0
  /-- spec/14 R399: windows taken out for a trial (spec/11 R331) -/
  kv : Kv := {}
  deriving DecidableEq, Repr

/-- A caddy block (spec/06 R184, R185). -/
structure CaddyBlock where
  addr : Nat
  part : BitVec 6
  slot : BitVec 13
  kgen : BitVec 16
  data : List Byte
  /-- its place in the partition's share of the die's caddy (log entry 34) -/
  frame : Nat
  /-- the steeps whose prefetch lists hold the block -/
  pins : List (BitVec 64)
  used : Nat
  deriving DecidableEq, Repr

/-- An extra-expert claim waiting for a commit (spec/06 R195). -/
structure Claim where
  stamp : BitVec 64
  sna : BitVec 16
  seq : BitVec 32
  adid : BitVec 24
  layer : BitVec 12
  slot : BitVec 4
  keySlot : BitVec 13
  kgen : BitVec 16
  share : Bool
  cmd : Option Nat
  deriving DecidableEq, Repr

/-- The holder of an extra-expert slot (spec/06 R194). -/
structure ExpertSlot where
  owner : BitVec 24 := 0
  keySlot : BitVec 13 := 0
  kgen : BitVec 16 := 0
  share : Bool := false
  sharers : List (BitVec 24) := []
  deriving DecidableEq, Repr

/-- Adapters, admission and the caddies (spec/06). -/
structure Adapters where
  /-- spec/06 R170: descriptors by DIDX. Reset: every entry free (0). -/
  descs : Sparse (BitVec 1024) := []
  /-- spec/06 R177: pending ADAPTER.STATE by DIDX: new state, E, command id. Reset none. -/
  pending : Sparse (Option (BitVec 2 × BitVec 64 × Nat)) := []
  /-- spec/06 R177: accepted ADAPTER.DESTROYs by DIDX: command ids. Reset none. -/
  destroying : Sparse (List Nat) := []
  /-- spec/06 R194: expert slots by 16 × layer + slot. Reset no owner. -/
  experts : Sparse ExpertSlot := []
  claims : List Claim := []
  releases : List (BitVec 24 × Option (BitVec 12 × BitVec 4)) := []
  /-- spec/06 R195: claims stamped here; the claim sequence number of each SNA up to which none is missing; the numbers
  that have come beyond a missing one. Reset 0 and none. -/
  claimSeq : BitVec 32 := 0
  lastClaim : Sparse (BitVec 32) := []
  ahead : List (BitVec 16 × BitVec 32) := []
  /-- spec/09 R280: outstanding image units by DIDX. Reset 0. -/
  outstanding : Sparse Nat := []
  /-- spec/10 R299: image blocks being restored: DIDX, block number, and the page offsets still to come. Reset none. -/
  restoring : List (Nat × Nat × List Nat) := []
  requests : List Request := []
  /-- spec/06 R183: tables by 4 × partition + group; those sorted for the next steep. Reset none. -/
  tables : Sparse (Option Table) := []
  nextTables : Sparse (Option Table) := []
  /-- spec/06 R180: the steep for which the sorter has sorted. Reset none. -/
  sorted : Option (BitVec 64) := none
  published : Bool := false
  /-- spec/06 R185: prefetch list of each die for the next steep: (DIDX, block address). Reset none. -/
  prefetch : List (BitVec 2 × BitVec 16 × Nat) := []
  /-- spec/06 R185: the prefetch list of the present steep. Reset none. -/
  prefetchNow : List (BitVec 2 × BitVec 16 × Nat) := []
  caddy0 : List CaddyBlock := []
  caddy1 : List CaddyBlock := []
  caddy2 : List CaddyBlock := []
  caddy3 : List CaddyBlock := []
  /-- spec/06 0x2400:04 to :06. Reset 0. -/
  deferred : Nat := 0
  timedOut : Nat := 0
  staleServed : Nat := 0
  deriving DecidableEq, Repr

/-- A shard that this module owns or keeps (spec/09 R259, R275). -/
structure Shard where
  didx : BitVec 16
  adid : BitVec 24
  entry : Nat
  /-- Table RU-3 -/
  word : BitVec 512
  rows : Nat
  owned : Bool
  state : ShardState := .empty
  received : Nat := 0
  /-- covering RED.UPD: core, op, γ, GNORM -/
  cover : Option (BitVec 7 × BitVec 16 × BitVec 32 × Bool) := none
  /-- spec/09 R270: further RED.UPD ops that cover it: core and op. Reset none. -/
  also : List (BitVec 7 × BitVec 16) := []
  dualBad : Bool := false
  /-- spec/09 R283: sampled blocks with units that the full dual-path store did not copy. Reset none. -/
  copyLost : List Nat := []
  deriving DecidableEq, Repr

/-- A copy in the dual-path store (spec/09 R283): its canonical keys, the elements it holds, and its place and XTS
ciphertext in the store. -/
structure DualCopy where
  shard : Nat
  block : Nat
  stamp : BitVec 64
  sna : BitVec 16
  oseq : BitVec 32
  first : Nat
  count : Nat
  addr : Nat
  ep : Bool
  data : List Byte
  deriving DecidableEq, Repr

/-- Reduction and update (spec/09). -/
structure Reduction where
  shards : Sparse (Option Shard) := []
  /-- spec/09 R260: roll calls of the present attempt: ADID, LDN, W. Reset none. -/
  rolls : List (BitVec 24 × Nat × Nat) := []
  /-- spec/09 R268: rule slots (a1, a2, b1, b2, λ, flags) as they stood at the attempt's first steep. -/
  rules : List (List (BitVec 32)) := []
  copies : List DualCopy := []
  /-- spec/08 R243: windows refused in this attempt: partition, row group, window. Reset none. -/
  refused : List (Nat × Nat × Nat) := []
  /-- spec/09 0x5020. Reset 0. -/
  dropped : Nat := 0
  droppedStale : Nat := 0
  failed : Nat := 0
  dualFails : Nat := 0
  unchecked : Nat := 0
  void : Nat := 0
  restored : Nat := 0
  committed : Nat := 0
  aborted : Nat := 0
  checked : Nat := 0
  /-- spec/08 0x4054:01. Reset 0. -/
  windowsRefused : Nat := 0
  deriving DecidableEq, Repr

/-- A management session (spec/15 R431). -/
structure Session where
  id : BitVec 32
  state : SessionState
  keyed : Bool
  writeAllowed : Bool
  kmac : BitVec 256
  publicKey : List Byte
  /-- where message 1 entered: 0 management port, 1 PF mailbox, 2 fabric -/
  path : Nat
  /-- who sent it on that path: IPv6 address × 65,536 + UDP port, or the entry module's SNA -/
  source : Nat
  seq : BitVec 64
  lastFrame : List Byte
  lastResponse : List Byte
  started : Nat
  lastGood : Nat
  tagFails : List Nat
  fragments : List (Nat × Nat × List Byte)
  transcript : List Byte
  deriving DecidableEq, Repr

/-- A DAP frame waiting for the Dictionary unit (spec/15 R429). -/
structure Frame where
  path : Nat
  bytes : List Byte
  stamp : BitVec 64
  source : Nat
  deriving DecidableEq, Repr

/-- The Dictionary and its paths (spec/15). -/
structure Dictionary where
  /-- values of RW and RWS entries that differ from their defaults, by 256 × index + subindex (values as numbers) -/
  active : Sparse Nat := []
  /-- shadow values of RWS entries that differ from the active set's default -/
  shadow : Sparse Nat := []
  /-- spec/15 R432: manager key list, 264 bits each, persistent. Reset empty. -/
  keys : Sparse (BitVec 264) := []
  sessions : List Session := []
  /-- spec/15 R438: what the entry module needs to return a forwarded frame's response: target SNA, session and SEQ,
  path and source. Reset none (log entry 17). -/
  forwarded : List (Nat × Nat × Nat × Nat × Nat) := []
  sessionCount : Nat := 0
  frames : List Frame := []
  /-- spec/15 R437: mailbox. Reset 0. -/
  busy : Bool := false
  response : Bool := false
  lenError : Bool := false
  respLen : BitVec 16 := 0
  mvec : BitVec 32 := 0
  req : Sparse Byte := []
  rsp : List Byte := []
  /-- spec/15 R439 to R442. Reset none. -/
  lock : Option (BitVec 32 × Nat) := none
  commit : Option (BitVec 64) := none
  commitStatus : BitVec 128 := 0
  report : BitVec 512 := 0
  checking : Bool := false
  generation : Nat := 0
  /-- spec/15 0xF010. Reset 0. -/
  accepted : Nat := 0
  tagDrops : Nat := 0
  seqDrops : Nat := 0
  fullDrops : Nat := 0
  notForwarded : Nat := 0
  failedExchanges : Nat := 0
  /-- spec/15 0x2020:02. Reset 0. -/
  mgmtLink : BitVec 8 := 0
  deriving DecidableEq, Repr

/-- A counter block (spec/16 R447). -/
structure CounterBlock where
  /-- counters 0 to 7, 48 bits -/
  ctr : Sparse (BitVec 48) := []
  sel : Sparse (BitVec 10) := []
  /-- spec/16 R449: selects and a clear that wait for the next boundary, with the steep of their write. Reset none. -/
  selNext : Sparse (Option (BitVec 10 × BitVec 64)) := []
  clearNext : Option (BitVec 64) := none
  ovf : BitVec 8 := 0
  deriving DecidableEq, Repr

/-- A snapshot slot (spec/16 R456). -/
structure Snapshot where
  state : BitVec 8 := 0
  id : BitVec 16 := 0
  seq : BitVec 32 := 0
  steep : BitVec 64 := 0
  time : BitVec 64 := 0
  cyc : BitVec 64 := 0
  blocks : Sparse CounterBlock := []
  hists : Sparse (List (BitVec 48)) := []
  stale : Bool := false
  deriving DecidableEq, Repr

/-- A trace record waiting for its hold (spec/16 R458). -/
structure TraceRec where
  time : BitVec 64
  /-- the clock at which the record was made: its hold counts from there -/
  made : Nat
  sna : BitVec 16
  oseq : BitVec 32
  type : BitVec 8
  block : BitVec 8
  part : BitVec 6
  data : BitVec 128
  deriving DecidableEq, Repr

/-- Counters, snapshots, histograms and the trace (spec/16). -/
structure Observe where
  blocks : Sparse CounterBlock := []
  /-- clock of the blocks' release from module reset; the 64-bit cycle counters count from it -/
  since : Nat := 0
  hists : Sparse (List (BitVec 48)) := []
  /-- spec/16 R453: a clear of every histogram that waits for the next boundary, with the steep of its write. -/
  histClear : Option (BitVec 64) := none
  /-- spec/16 R454: what the snapshot buffers hold of the present boundary's order. Reset none. -/
  frozen : Option Snapshot := none
  slots : Sparse Snapshot := []
  taken : Nat := 0
  latest : BitVec 8 := 0xFF
  written : Nat := 0
  lost : Nat := 0
  /-- records dropped since the last LOST record -/
  dropped : Nat := 0
  staging : List TraceRec := []
  /-- time of the last record written in canonical order -/
  lastWritten : BitVec 64 := 0
  /-- records written since the ring mode was last written (spec/16 R459) -/
  ringCount : Nat := 0
  /-- spec/04 R134: event counts and first latches of the seven classes -/
  events : Sparse (BitVec 64) := []
  latches : Sparse (BitVec 128) := []
  deriving DecidableEq, Repr

/-- Start-up, reset and pins (spec/17, spec/18). -/
structure Startup where
  /-- spec/17 0xF020:01. Reset 0, running. -/
  stage : Nat := 0
  status : BitVec 8 := 0
  /-- spec/17 T_R and the clock of power-on -/
  readyClock : Nat := 0
  startClock : Nat := 0
  timeToReady : Nat := 0
  lastFault : BitVec 128 := 0
  faultLog : List (BitVec 128) := []
  faultRead : BitVec 128 := 0
  /-- spec/18 pins: levels of RESET_L and FAULT_L; PERST_L acts at its fall alone. Reset high. -/
  resetL : Bool := true
  faultL : Bool := true
  /-- spec/18 R482: the main input has been good for 10 ms. Reset false. -/
  mainGood : Bool := false
  /-- spec/17 Table SR-1, R473: the HX rail is on. Reset off. -/
  railHx : Bool := false
  /-- spec/17 Table SR-1, R473: the other rails that are on, in their order: FX, CD0 to CD3, HBM groups 0 to 3, leaf stacks.
  Reset off. -/
  rails : BitVec 10 := 0
  /-- spec/17 R467: clock of the present stage's beginning. Reset 0. -/
  stageAt : Nat := 0
  /-- an orderly stop is in force, with its clock -/
  stopped : Option Nat := none
  shutdown : Bool := false
  /-- spec/14 R392: trained rate (GT/s) and width, 0 when down. Reset 0. -/
  pcieRate : Nat := 0
  pcieWidth : Nat := 0
  /-- spec/14 R401: VF Enable. Reset false. -/
  vfEnable : Bool := false
  /-- spec/15 Table OD-14: identity memory contents. Reset 0 (DESIGN CHOICE, log 4: chip's own). -/
  serial : BitVec 128 := 0
  boardSerial : BitVec 128 := 0
  mac : BitVec 48 := 0
  romId : BitVec 32 := 0
  dieRevs : BitVec 64 := 0
  identityDigest : BitVec 256 := 0
  /-- spec/17 R469: a maintenance reset waits for its hard repairs. Reset false. -/
  hardRepair : Bool := false
  /-- spec/18 R491: a module reset has come since the site was read. Reset false. -/
  siteAgain : Bool := false
  /-- spec/17 Table SR-2: the identity memories have been read and accepted. Reset false. -/
  identified : Bool := false
  /-- spec/18 R491: SITE[3:0]. Reset 0 (DESIGN CHOICE, log 4). -/
  site : BitVec 4 := 0
  deriving DecidableEq, Repr

/-- Programs and tokens (spec/05). -/
structure Programs where
  cores : Sparse Core := []
  /-- spec/05 0x4050:01 to :03. Reset 0. -/
  lastFault : BitVec 128 := 0
  faultSteep : Option (BitVec 64) := none
  faults : Nat := 0
  dropped : Nat := 0
  /-- spec/05 R151: tokens under way between cores of this module, in sending order. Reset none. -/
  tokens : List Token := []
  /-- spec/05 R164: partitions whose TRAIN bindings run paired streams in the present step. Reset 0. -/
  stepModes : BitVec 64 := 0
  /-- spec/05 R159: core last served by each DMA engine (key 16 × die + engine). Reset 0. -/
  engines : Sparse Nat := []
  /-- spec/05 R140: BIND commands being checked are taken up at once; see `Machine.execBind`. -/
  kvOwner : Nat := 0
  kvTail : Nat := 0
  kvMatches : Nat := 0
  kvCopies : Nat := 0
  kvRefused : Nat := 0
  kvEvicted : Nat := 0
  deriving DecidableEq, Repr

/-- The queue front end (spec/14). -/
structure Front where
  parts : Sparse Partition := []
  queues : Sparse Queue := []
  cmds : List Cmd := []
  ready : List Compl := []
  nextId : Nat := 0
  rr : Nat := 0
  /-- spec/14 0x3070:01, :02, :04. Reset 0. -/
  doorbellsDropped : Nat := 0
  discarded : Nat := 0
  tlpDropped : Nat := 0
  deriving DecidableEq, Repr

/-- The state of the block. -/
structure State where
  /-- the commands that wait, first in first out -/
  pending : List Instr := []
  /-- the module's free-running count of core cycles since power-on, for its timers (spec/02 R29, spec/15 R429) -/
  clock : Nat := 0
  /-- the FX copy of Spapor time, 64 bits (spec/02 R29); the free-running count before it is set. Reset 0. -/
  time : BitVec 64 := 0
  /-- whether `time` is Spapor time -/
  timeKnown : Bool := false
  /-- spec/02 R31: the slewing of `time` -/
  slew : Slew := {}
  /-- the MODEL's own: how many free values the run has drawn (log entry 6) -/
  free : Nat := 0
  mem : Mem := []
  power : Power := {}
  steep : Steep := {}
  prog : Programs := {}
  ad : Adapters := {}
  front : Front := {}
  red : Reduction := {}
  hbm : Hbm := {}
  leaf : Leaf := {}
  fab : Fabric := {}
  cust : Custody := {}
  dict : Dictionary := {}
  obs : Observe := {}
  boot : Startup := {}
  out : List Out := []
  deriving DecidableEq, Repr

/-- The state right after power-on reset: every field at its default above. -/
def State.reset : State := {}

/-- Why a run stops with a fault. No command of this block stops a run with a fault: a failure of the module is a
status, a record or a state (spec/17 Table SR-4), so this type has no constructor that a command answers with. -/
inductive Fault where
  /-- Raised by no command. It would be safe: the model would stop where the module goes on. -/
  | none_
  deriving DecidableEq, Repr

/-- Why a command is refused. -/
inductive Refusal where
  /-- A command whose meaning is not written yet. Safe: nothing is proved about what it does. -/
  | notModelled (mnemonic : String)
  deriving DecidableEq, Repr

end Sys2Proof.Machine
end

