-- ==== Sys2Proof/Machine/Ops.lean ====
section
/-! DEFINITION. The named operations that every command is built from: sparse maps, byte order, time, package
memory, what the block puts on its interfaces, and free values. -/

namespace Sys2Proof.Machine

open Host (Outcome)

/-! ### Sparse maps -/

/-- Entry `k` of a sparse map whose unlisted entries are `d`. -/
def sget {α : Type} (d : α) (k : Nat) : Sparse α → α
  | [] => d
  | (j, v) :: m => if k = j then v else if k < j then d else sget d k m

/-- Put `v` at `k`, keeping the canonical form: keys rising, no listed default. -/
def sput {α : Type} [DecidableEq α] (d : α) (k : Nat) (v : α) : Sparse α → Sparse α
  | [] => if v = d then [] else [(k, v)]
  | (j, w) :: m =>
    if k = j then (if v = d then m else (j, v) :: m)
    else if k < j then (if v = d then (j, w) :: m else (k, v) :: (j, w) :: m)
    else (j, w) :: sput d k v m

/-- Apply `f` to entry `k`. -/
def supd {α : Type} [DecidableEq α] (d : α) (k : Nat) (f : α → α) (m : Sparse α) : Sparse α :=
  sput d k (f (sget d k m)) m

/-- Apply `f` to every listed entry. -/
def smap {α : Type} [DecidableEq α] (d : α) (f : Nat → α → α) (m : Sparse α) : Sparse α :=
  (m.map fun e => (e.1, f e.1 e.2)).filter fun e => e.2 ≠ d

/-! ### Bytes and words (spec/00 R7: least significant byte first) -/

/-- The number that a list of bytes spells, least significant byte first. -/
def leNat : List Byte → Nat
  | [] => 0
  | b :: bs => b.toNat + 256 * leNat bs

/-- The number that a list of bytes spells, most significant byte first. -/
def beNat (bs : List Byte) : Nat := leNat bs.reverse

/-- `n` bytes of `v`, least significant byte first. -/
def leBytes : Nat → Nat → List Byte
  | 0, _ => []
  | n + 1, v => BitVec.ofNat 8 v :: leBytes n (v / 256)

/-- `n` bytes of `v`, most significant byte first. -/
def beBytes (n v : Nat) : List Byte := (leBytes n v).reverse

/-- Bits `[lo + n - 1 : lo]` of a number. -/
def bits (v lo n : Nat) : Nat := (v >>> lo) % 2 ^ n

/-- Bits `[lo + n - 1 : lo]` of a word. -/
def fld {w : Nat} (v : BitVec w) (lo n : Nat) : BitVec n := v.extractLsb' lo n

/-- Bit `i` of a word. -/
def bit {w : Nat} (v : BitVec w) (i : Nat) : Bool := v.getLsbD i

/-- Put the low `n` bits of `x` at `[lo + n - 1 : lo]` of `v`. -/
def setFld {w : Nat} (v : BitVec w) (lo n : Nat) (x : Nat) : BitVec w :=
  let m := BitVec.ofNat w ((2 ^ n - 1) <<< lo)
  (v &&& ~~~m) ||| BitVec.ofNat w ((x % 2 ^ n) <<< lo)

/-- Set bit `i` of a word to `b`. -/
def setBit {w : Nat} (v : BitVec w) (i : Nat) (b : Bool) : BitVec w := setFld v i 1 b.toNat

/-- A record packed from its most significant bit downwards (spec/00 R499): `(width, value)` fields in `w` bits. -/
def packR (w : Nat) (fields : List (Nat × Nat)) : BitVec w :=
  BitVec.ofNat w (fields.foldl (fun a f => (a.1 - f.1, a.2 + (f.2 % 2 ^ f.1) <<< (a.1 - f.1))) (w, 0)).2

/-- The bytes of a word, least significant first. -/
def wordBytes {w : Nat} (v : BitVec w) : List Byte := leBytes ((w + 7) / 8) v.toNat

/-- The signed reading of a number of `w` bits. -/
def sgn (w v : Nat) : Int := if v % 2 ^ w < 2 ^ (w - 1) then (v % 2 ^ w : Nat) else (v % 2 ^ w : Nat) - 2 ^ w

/-- Split a list into pieces of `n` elements (the last one may be shorter), at most `fuel` pieces. -/
def chunk {α : Type} (n : Nat) : Nat → List α → List (List α)
  | 0, _ => []
  | fuel + 1, l => if l.isEmpty then [] else l.take n :: chunk n fuel (l.drop n)

/-- The elements of a list with their positions. -/
def indexed {α : Type} (l : List α) : List (Nat × α) := (List.range l.length).zip l

/-! ### Counters (spec/16 R448) -/

/-- Add `n` events to one counter: it wraps at 48 bits and sets its overflow bit (spec/16 R448). -/
def bumpCounter (i n : Nat) (b : CounterBlock) : CounterBlock :=
  let v := (sget 0 i b.ctr).toNat + n
  { b with ctr := sput 0 i (BitVec.ofNat 48 v) b.ctr,
           ovf := if 2 ^ 48 ≤ v then setBit b.ovf i true else b.ovf }

/-- Add `n` events numbered `ev` to every counter of a block that selects them. -/
def countIn (ev n : Nat) (b : CounterBlock) : CounterBlock :=
  (List.range 8).foldl (fun b i => if ev ≠ 0 && (sget 0 i b.sel).toNat = ev then bumpCounter i n b else b) b

/-! ### Time (spec/02 R29, R34) -/

/-- A core's state. -/
def coreOf (s : State) (c : Nat) : Core := sget {} c s.prog.cores

/-- A core is idle (spec/16 Table PC-2, event 0x05C): it has no program, or its program is complete (spec/05 R148). -/
def coreIdle (s : State) (g : Nat) : Bool :=
  let k := coreOf s g
  match k.image with
  | none => true
  | some i =>
    k.faulted.isNone && k.running.isEmpty && k.pour.isNone && k.queues.all (fun q => q.2.isEmpty) &&
      i.ops0.length ≤ k.next0 && i.ops1.length ≤ k.next1 && k.strain.length ≤ k.strainNext

/-- The events of a block that go on for as long as its state lasts (spec/16 Table PC-2): core cycles, a core's idle
cycles, a stack's cycles in WARM and in HOT. -/
def clockEvents (s : State) (block : Nat) : List Nat :=
  1 :: (if block < 0x80 then (if coreIdle s block then [0x05C] else [])
    else if block < 0x84 || 0x90 ≤ block then []
    else match (sget {} (block - 0x84) s.hbm.stk).thermal with
      | .warm => [0x047]
      | .hot => [0x048]
      | _ => [])

/-- The counter blocks after `n` core cycles. -/
def clockedBlocks (n : Nat) (s : State) : Sparse CounterBlock :=
  if n = 0 then s.obs.blocks
  else smap {} (fun g b => (clockEvents s g).foldl (fun b ev => countIn ev n b) b) s.obs.blocks

/-- How many cycles, or steeps, a count `t` lies after a count `now`, 0 where it has come. The counts before Spapor time 0
and steep 0, those of the founding waves (spec/17 R468), are negative ones (log entry 15). -/
def ahead (t now : BitVec 64) : Nat := (t.toInt - now.toInt).toNat

/-- The cycles that slewing gains (or loses, below 0) in `n` core cycles: one in each 10,000 while the correction lasts
(spec/02 R31). -/
def slewIn (n : Nat) (w : Slew) : Int :=
  let m : Nat := min ((w.phase + n) / 10000) w.left.natAbs
  if 0 ≤ w.left then m else -m

/-- `n` core cycles pass in which the time advances by `d`, `g` of them by slewing. -/
def pass (n d : Nat) (g : Int) (s : State) : State :=
  { s with clock := s.clock + n, time := s.time + BitVec.ofNat 64 d,
           slew := { left := s.slew.left - g,
                     phase := if s.slew.left = g then 0 else s.slew.phase + n - 10000 * g.natAbs },
           obs := { s.obs with blocks := clockedBlocks n s } }

/-- Let `n` core cycles pass: the clock, the time with its slewing, and every counter that selects an event of the
clock. -/
def elapse (n : Nat) (s : State) : State :=
  let g := slewIn n s.slew
  pass n (n + g).toNat g s

/-- What slewing adds while the time advances by `d`. -/
def slewFor (d : Nat) (w : Slew) : Int :=
  if 0 ≤ w.left then (min ((w.phase + d) / 10001) w.left.natAbs : Nat)
  else -(min ((w.phase + d) / 9999) w.left.natAbs : Nat)

/-- Let time pass until the FX copy of Spapor time reads `t`, at once where it has passed: a command that the spec puts at
a fixed time happens no earlier (log entry 10). -/
def untilTime (t : BitVec 64) (s : State) : State :=
  let d := ahead t s.time
  let g := slewFor d s.slew
  pass (d - g).toNat d g s

/-- Let time pass until the free-running clock reads at least `c` (timers; log entry 10). -/
def untilClock (c : Nat) (s : State) : State := elapse (c - s.clock) s

/-- The boundary that ends the present steep, B(k+1) = B(k) + L(k) (spec/02 R34). -/
def nextB (s : State) : BitVec 64 := s.steep.b + BitVec.ofNat 64 (s.steep.len * cyclesPerUs)

/-- The guard of the present steep (spec/02 R36). -/
def guardTime (s : State) : BitVec 64 := nextB s - 4000

/-- The module is Locked (spec/02 Table ST-4). -/
def isLocked (s : State) : Bool := s.steep.engine == .locked

/-! ### Package memory (spec/01 R16; byte addresses) -/

/-- The byte at address `a`; an unlisted address reads as 0. -/
def memByte (m : Mem) (a : Nat) : Byte := sget 0 a m

/-- Store one byte, keeping the canonical form. -/
def memStore (m : Mem) (a : Nat) (v : Byte) : Mem := sput 0 a v m

/-- `n` bytes from address `a` upwards. -/
def memRead (m : Mem) (a n : Nat) : List Byte := (List.range n).map fun i => memByte m (a + i)

/-- Store bytes from address `a` upwards. -/
def memWrite (m : Mem) (a : Nat) : List Byte → Mem
  | [] => m
  | v :: vs => memWrite (memStore m a v) (a + 1) vs

/-- Zero the `n` bytes from address `a` upwards. -/
def memZero (m : Mem) (a n : Nat) : Mem := m.filter fun c => c.1 < a || a + n ≤ c.1

/-- The canonical form of a sparse map: keys strictly rising, no listed default. -/
def sparseWf {α : Type} [DecidableEq α] (d : α) (m : Sparse α) : Bool :=
  decide (m.Pairwise fun x y => x.1 < y.1) && m.all fun e => decide (e.2 ≠ d)

/-- The canonical form of package memory: addresses strictly rising, no listed zero byte. -/
def memWf (m : Mem) : Bool := sparseWf (0 : Byte) m

/-! ### Interfaces and free values -/

/-- Put one item on an interface. -/
def emit (o : Out) (s : State) : State := { s with out := s.out ++ [o] }

/-- Hand a packet to the fabric. -/
def send (d : Dest) (p : Packet) (s : State) : State := emit (.packet d p) s

/-- A fresh free value of `w` bits, and the state whose counter has advanced past it (log entry 6). -/
def fresh (w : Nat) (s : State) : BitVec w × State :=
  (Config.freeValue s.free w, { s with free := s.free + 1 })

/-- A command happened: the next state. -/
def done (s : State) : Outcome State Fault Refusal := .next s

/-- The command happens only where its condition holds; elsewhere nothing changes (log entry 11). -/
def onlyIf (c : Bool) (s : State) (f : State → State) : Outcome State Fault Refusal :=
  .next (if c then f s else s)

/-! ### Cores -/

/-- Replace a core's state. -/
def setCore (s : State) (c : Nat) (k : Core) : State :=
  { s with prog := { s.prog with cores := sput {} c k s.prog.cores } }

/-- Apply `f` to a core's state. -/
def updCore (c : Nat) (f : Core → Core) (s : State) : State := setCore s c (f (coreOf s c))

end Sys2Proof.Machine
end

