-- ==== Sys2Proof/Machine/Entries.lean ====
section
/-! DEFINITION. The entries of the Object Dictionary: index and subindex ranges, type, size, access code, default,
range, unit and reserved bits (spec/15 R422, R423, and the entry table of each chapter). Where a chapter states no
type, the model takes the smallest unsigned type that holds the range, and U64 for a count (DESIGN CHOICE, log
entry 12). -/

namespace Sys2Proof.Machine

/-- Access codes (spec/00 Table SC-4), in the order of DESCRIBE's ACCESS. -/
inductive Access where
  | ro | rw | rws | w1c | wo | cmd
  deriving DecidableEq, Repr

/-- The code of an access in DESCRIBE (spec/15 Table OD-3). -/
def accessCode : Access → Nat
  | .ro => 0 | .rw => 1 | .rws => 2 | .w1c => 3 | .wo => 4 | .cmd => 5

/-- A run of like entries. `lo` and `hi` bound the value of types 0x01 to 0x08; `mask` has the bits that may be
set. -/
structure EntryRow where
  idx0 : Nat
  idx1 : Nat
  sub0 : Nat
  sub1 : Nat
  type : Nat
  size : Nat
  access : Access
  dflt : Nat
  lo : Int
  hi : Int
  unit : Nat
  mask : Option Nat
  persist : Bool
  deriving DecidableEq, Repr

/-- Rows of spec/15 Table OD-14. -/
def entryRows0 : List EntryRow := [
  ⟨0x1000, 0x1000, 1, 1, 11, 16, .ro, 14691889943761217, 0, 0, 0, none, false⟩,
  ⟨0x1000, 0x1000, 2, 2, 11, 16, .ro, 0, 0, 0, 0, none, true⟩,
  ⟨0x1000, 0x1000, 3, 3, 2, 2, .ro, 1, 0, 65535, 0, none, false⟩,
  ⟨0x1000, 0x1000, 4, 4, 3, 4, .ro, 0, 0, 4294967295, 0, none, false⟩,
  ⟨0x1000, 0x1000, 5, 5, 11, 8, .ro, 0, 0, 0, 0, none, false⟩,
  ⟨0x2020, 0x2020, 1, 1, 11, 17, .rw, 0, 0, 0, 0, none, false⟩,
  ⟨0x2020, 0x2020, 2, 2, 1, 1, .ro, 0, 0, 2, 0, none, false⟩,
  ⟨0x2020, 0x2020, 3, 3, 11, 6, .ro, 0, 0, 0, 0, none, true⟩]

/-- Rows of spec/06 entries. -/
def entryRows1 : List EntryRow := [
  ⟨0x2400, 0x2400, 2, 2, 2, 2, .rws, 64, 1, 4096, 2, none, false⟩,
  ⟨0x2400, 0x2400, 3, 3, 3, 4, .ro, 0, 0, 65536, 12, none, false⟩,
  ⟨0x2400, 0x2400, 4, 6, 4, 8, .ro, 0, 0, 18446744073709551615, 12, none, false⟩,
  ⟨0x2410, 0x2413, 1, 64, 2, 2, .rws, 0, 0, 4096, 12, none, false⟩,
  ⟨0x2414, 0x2417, 1, 64, 1, 1, .rws, 0, 0, 1, 0, none, false⟩]

/-- Rows of spec/07 entries. -/
def entryRows2 : List EntryRow := [
  ⟨0x2500, 0x2501, 1, 64, 1, 1, .rws, 0, 0, 1, 0, none, false⟩,
  ⟨0x2502, 0x2502, 1, 64, 3, 4, .rws, 0, 0, 4294967295, 0, some 0x0FFF3F07, false⟩,
  ⟨0x2503, 0x2503, 1, 64, 4, 8, .rws, 0, 0, 281474976710655, 15, none, false⟩,
  ⟨0x2504, 0x2504, 1, 64, 3, 4, .rws, 0, 0, 16777215, 12, none, false⟩,
  ⟨0x2505, 0x2506, 1, 64, 3, 4, .rws, 0, 0, 1048575, 12, none, false⟩,
  ⟨0x2507, 0x2507, 1, 64, 3, 4, .rws, 0, 0, 16777215, 12, none, false⟩,
  ⟨0x2508, 0x2508, 1, 64, 3, 4, .rws, 64, 0, 4294967295, 12, none, false⟩,
  ⟨0x2509, 0x2509, 1, 64, 4, 8, .ro, 0, 0, 18446744073709551615, 11, none, false⟩,
  ⟨0x250A, 0x250B, 1, 64, 3, 4, .ro, 0, 0, 4294967295, 12, none, false⟩,
  ⟨0x2510, 0x2510, 1, 6, 4, 8, .ro, 0, 0, 18446744073709551615, 12, none, false⟩]

/-- Rows of spec/14 Tables HQ-4 and HQ-14. -/
def entryRows3 : List EntryRow := [
  ⟨0x3000, 0x3000, 1, 64, 1, 1, .ro, 0, 0, 3, 0, none, false⟩,
  ⟨0x3001, 0x3001, 1, 64, 2, 2, .ro, 0, 0, 65535, 0, none, false⟩,
  ⟨0x3002, 0x3002, 1, 1, 1, 1, .rws, 1, 0, 1, 0, none, false⟩,
  ⟨0x3002, 0x3002, 2, 64, 1, 1, .rws, 0, 0, 1, 0, none, false⟩,
  ⟨0x3003, 0x3003, 1, 64, 1, 1, .cmd, 0, 1, 1, 0, none, false⟩,
  ⟨0x3005, 0x3005, 1, 1, 3, 4, .rws, 16777216, 65536, 268435456, 11, none, false⟩,
  ⟨0x3010, 0x3010, 1, 1, 10, 16, .rws, (2 ^ 128 - 1), 0, 0, 0, none, false⟩,
  ⟨0x3010, 0x3010, 2, 64, 10, 16, .rws, 0, 0, 0, 0, none, false⟩,
  ⟨0x3011, 0x3012, 1, 1, 3, 4, .rws, 0x20000000, 0, 4294967295, 0, some 0x3FFF1FFF, false⟩,
  ⟨0x3011, 0x3012, 2, 64, 3, 4, .rws, 0, 0, 4294967295, 0, some 0x3FFF1FFF, false⟩,
  ⟨0x3013, 0x3013, 1, 1, 1, 1, .rws, 64, 0, 64, 10, none, false⟩,
  ⟨0x3013, 0x3013, 2, 64, 1, 1, .rws, 0, 0, 64, 10, none, false⟩,
  ⟨0x3014, 0x3014, 1, 1, 2, 2, .rws, 800, 0, 800, 9, none, false⟩,
  ⟨0x3014, 0x3014, 2, 64, 2, 2, .rws, 0, 0, 800, 9, none, false⟩,
  ⟨0x3015, 0x3016, 1, 1, 1, 1, .rws, 1, 0, 1, 0, none, false⟩,
  ⟨0x3015, 0x3016, 2, 64, 1, 1, .rws, 0, 0, 1, 0, none, false⟩,
  ⟨0x3020, 0x302F, 1, 64, 11, 16, .rws, 0, 0, 0, 0, some 0x0000FFFFFFFFFFFF0000FFFFFFFFFFFF, false⟩,
  ⟨0x3040, 0x3043, 1, 64, 4, 8, .rws, 0, 0, 281474976710655, 15, none, false⟩,
  ⟨0x3044, 0x3047, 1, 64, 3, 4, .rws, 0, 0, 65536, 11, none, false⟩,
  ⟨0x3048, 0x304B, 1, 64, 4, 8, .rws, 0, 0, 281474976710655, 15, none, false⟩,
  ⟨0x304C, 0x304F, 1, 64, 3, 4, .rws, 0, 0, 65536, 11, none, false⟩,
  ⟨0x3050, 0x3050, 1, 64, 1, 1, .ro, 0, 0, 3, 0, none, false⟩,
  ⟨0x3060, 0x3060, 1, 64, 11, 64, .cmd, 0, 0, 0, 0, none, false⟩,
  ⟨0x3061, 0x3061, 1, 64, 1, 1, .ro, 0, 0, 2, 0, none, false⟩,
  ⟨0x3062, 0x3062, 1, 64, 1, 1, .cmd, 0, 1, 1, 0, none, false⟩,
  ⟨0x3063, 0x3063, 1, 64, 4, 8, .ro, 0, 0, 18446744073709551615, 12, none, false⟩,
  ⟨0x3070, 0x3070, 1, 4, 4, 8, .ro, 0, 0, 18446744073709551615, 12, none, false⟩,
  ⟨0x3400, 0x3400, 1, 64, 3, 4, .rws, 65536, 0, 65536, 12, none, false⟩,
  ⟨0x3401, 0x3401, 1, 64, 3, 4, .rws, 262144, 0, 262144, 12, none, false⟩,
  ⟨0x3402, 0x3402, 1, 64, 3, 4, .rws, 1048575, 0, 1048575, 12, none, false⟩,
  ⟨0x3403, 0x3403, 1, 64, 3, 4, .rws, 8192, 0, 8192, 12, none, false⟩,
  ⟨0x3404, 0x3404, 1, 64, 3, 4, .rws, 1572864, 0, 1572864, 10, none, false⟩,
  ⟨0x3410, 0x3414, 1, 64, 3, 4, .ro, 0, 0, 4294967295, 12, none, false⟩,
  ⟨0x3420, 0x3420, 1, 64, 1, 1, .ro, 0, 0, 255, 0, none, false⟩]

/-- Rows of spec/02 Table ST-6. -/
def entryRows4 : List EntryRow := [
  ⟨0x4010, 0x4010, 1, 1, 2, 2, .rws, 250, 25, 4000, 1, none, false⟩,
  ⟨0x4010, 0x4010, 2, 2, 2, 2, .ro, 0, 0, 65535, 1, none, false⟩,
  ⟨0x4010, 0x4010, 3, 3, 4, 8, .ro, 0, 0, 18446744073709551615, 12, none, false⟩,
  ⟨0x4011, 0x4011, 1, 1, 2, 2, .rws, 25, 1, 1000, 1, none, false⟩,
  ⟨0x4011, 0x4011, 2, 2, 2, 2, .rws, 8, 1, 1024, 2, none, false⟩,
  ⟨0x4011, 0x4011, 3, 3, 2, 2, .rws, 40, 1, 4096, 2, none, false⟩,
  ⟨0x4011, 0x4011, 4, 4, 1, 1, .ro, 0, 0, 255, 0, none, false⟩,
  ⟨0x4012, 0x4012, 1, 1, 2, 2, .rws, 10, 1, 65535, 2, none, false⟩,
  ⟨0x4012, 0x4012, 2, 2, 4, 8, .rws, 0, 0, 18446744073709551615, 2, none, false⟩,
  ⟨0x4013, 0x4013, 1, 1, 2, 2, .rws, 0, 0, 65535, 13, none, false⟩,
  ⟨0x4013, 0x4013, 2, 2, 2, 2, .rws, 1, 0, 65535, 13, none, false⟩,
  ⟨0x4013, 0x4013, 3, 3, 2, 2, .rws, 0xFFFF, 0, 65535, 13, none, false⟩,
  ⟨0x4020, 0x4020, 1, 1, 8, 8, .ro, 0, -9223372036854775808, 9223372036854775807, 4, none, false⟩,
  ⟨0x4020, 0x4020, 2, 2, 4, 8, .ro, 0, 0, 18446744073709551615, 4, none, false⟩,
  ⟨0x4021, 0x4021, 1, 1, 1, 1, .ro, 0, 0, 4, 0, none, false⟩,
  ⟨0x4021, 0x4021, 2, 2, 11, 16, .ro, 0, 0, 0, 0, none, false⟩,
  ⟨0x4021, 0x4021, 3, 3, 4, 8, .ro, 0, 0, 18446744073709551615, 12, none, false⟩,
  ⟨0x4030, 0x4030, 1, 1, 2, 2, .cmd, 0, 0, 65535, 0, none, false⟩,
  ⟨0x4040, 0x4040, 1, 2, 4, 8, .ro, 0, 0, 18446744073709551615, 12, none, false⟩]

/-- Rows of spec/05 and spec/08 entries. -/
def entryRows5 : List EntryRow := [
  ⟨0x4050, 0x4050, 1, 1, 11, 16, .ro, 0, 0, 0, 0, none, false⟩,
  ⟨0x4050, 0x4050, 2, 3, 4, 8, .ro, 0, 0, 18446744073709551615, 12, none, false⟩,
  ⟨0x4051, 0x4051, 1, 64, 1, 1, .rws, 0, 0, 1, 0, none, false⟩,
  ⟨0x4052, 0x4052, 1, 64, 3, 4, .ro, 0, 0, 4294967295, 12, none, false⟩,
  ⟨0x4054, 0x4054, 1, 1, 4, 8, .ro, 0, 0, 18446744073709551615, 12, none, false⟩]

/-- Rows of spec/04 and spec/09 entries. -/
def entryRows6 : List EntryRow := [
  ⟨0x5010, 0x5010, 1, 1, 1, 1, .rws, 4, 1, 8, 0, none, false⟩,
  ⟨0x5011, 0x5011, 1, 7, 4, 8, .ro, 0, 0, 18446744073709551615, 12, none, false⟩,
  ⟨0x5011, 0x5011, 16, 16, 1, 1, .cmd, 0, 1, 1, 0, none, false⟩,
  ⟨0x5011, 0x5011, 32, 38, 11, 16, .ro, 0, 0, 0, 0, none, false⟩,
  ⟨0x5012, 0x5012, 1, 1, 1, 1, .rws, 0, 0, 1, 0, none, false⟩,
  ⟨0x5020, 0x5020, 1, 2, 4, 8, .ro, 0, 0, 18446744073709551615, 12, none, false⟩,
  ⟨0x5020, 0x5020, 3, 3, 2, 2, .rws, 40, 5, 400, 9, none, false⟩,
  ⟨0x5020, 0x5020, 4, 11, 4, 8, .ro, 0, 0, 18446744073709551615, 12, none, false⟩,
  ⟨0x5021, 0x5021, 1, 4, 2, 2, .ro, 0xFFFF, 0, 65535, 13, none, false⟩,
  ⟨0x5030, 0x5030, 1, 1, 1, 1, .rws, 12, 6, 16, 0, none, false⟩,
  ⟨0x5030, 0x5030, 2, 2, 4, 8, .ro, 0, 0, 18446744073709551615, 12, none, false⟩,
  ⟨0x5100, 0x5100, 1, 1, 9, 4, .rws, 0x3F666666, 0, 0, 0, none, false⟩,
  ⟨0x5100, 0x5100, 2, 2, 9, 4, .rws, 0x3DCCCCCD, 0, 0, 0, none, false⟩,
  ⟨0x5100, 0x5100, 3, 3, 9, 4, .rws, 0x3F7D70A4, 0, 0, 0, none, false⟩,
  ⟨0x5100, 0x5100, 4, 4, 9, 4, .rws, 0x3C23D70A, 0, 0, 0, none, false⟩,
  ⟨0x5100, 0x5100, 5, 5, 9, 4, .rws, 0x3DCCCCCD, 0, 0, 0, none, false⟩,
  ⟨0x5100, 0x5100, 6, 6, 1, 1, .rws, 1, 0, 255, 0, some 0x03, false⟩,
  ⟨0x5101, 0x5101, 1, 1, 9, 4, .rws, 0x3F666666, 0, 0, 0, none, false⟩,
  ⟨0x5101, 0x5101, 2, 2, 9, 4, .rws, 0x3DCCCCCD, 0, 0, 0, none, false⟩,
  ⟨0x5101, 0x5101, 3, 3, 9, 4, .rws, 0x3F666666, 0, 0, 0, none, false⟩,
  ⟨0x5101, 0x5101, 4, 4, 9, 4, .rws, 0x3DCCCCCD, 0, 0, 0, none, false⟩,
  ⟨0x5101, 0x5101, 5, 5, 9, 4, .rws, 0x00000000, 0, 0, 0, none, false⟩,
  ⟨0x5101, 0x5101, 6, 6, 1, 1, .rws, 1, 0, 255, 0, some 0x03, false⟩,
  ⟨0x5102, 0x5102, 1, 1, 9, 4, .rws, 0x3F666666, 0, 0, 0, none, false⟩,
  ⟨0x5102, 0x5102, 2, 2, 9, 4, .rws, 0x3F800000, 0, 0, 0, none, false⟩,
  ⟨0x5102, 0x5102, 3, 3, 9, 4, .rws, 0x3F666666, 0, 0, 0, none, false⟩,
  ⟨0x5102, 0x5102, 4, 4, 9, 4, .rws, 0x3F800000, 0, 0, 0, none, false⟩,
  ⟨0x5102, 0x5102, 5, 5, 9, 4, .rws, 0x00000000, 0, 0, 0, none, false⟩,
  ⟨0x5102, 0x5102, 6, 6, 1, 1, .rws, 2, 0, 255, 0, some 0x03, false⟩,
  ⟨0x5103, 0x510F, 1, 5, 9, 4, .rws, 0, 0, 0, 0, none, false⟩,
  ⟨0x5103, 0x510F, 6, 6, 1, 1, .rws, 0, 0, 255, 0, some 0x03, false⟩]

/-- Rows of spec/16 Table PC-12. -/
def entryRows7 : List EntryRow := [
  ⟨0x6000, 0x6000, 1, 1, 2, 2, .ro, 177, 0, 65535, 12, none, false⟩,
  ⟨0x6100, 0x61B0, 1, 8, 2, 2, .rw, 0, 0, 65535, 0, some 0x03FF, false⟩,
  ⟨0x6100, 0x61B0, 9, 9, 4, 8, .ro, 0, 0, 18446744073709551615, 3, none, false⟩,
  ⟨0x6100, 0x61B0, 10, 17, 4, 8, .ro, 0, 0, 18446744073709551615, 12, none, false⟩,
  ⟨0x6100, 0x61B0, 18, 18, 10, 1, .w1c, 0, 0, 0, 0, none, false⟩,
  ⟨0x6100, 0x61B0, 19, 19, 1, 1, .cmd, 0, 1, 1, 0, none, false⟩,
  ⟨0x6200, 0x6200, 1, 1, 3, 4, .ro, 0, 0, 4294967295, 12, none, false⟩,
  ⟨0x6200, 0x6200, 2, 2, 1, 1, .ro, 0xFF, 0, 255, 0, none, false⟩,
  ⟨0x6210, 0x6210, 1, 4, 11, 23168, .ro, 0, 0, 0, 0, none, false⟩,
  ⟨0x6220, 0x6220, 1, 12, 11, 128, .ro, 0, 0, 0, 0, none, false⟩,
  ⟨0x6221, 0x6221, 1, 16, 11, 128, .ro, 0, 0, 0, 0, none, false⟩,
  ⟨0x6222, 0x6222, 1, 64, 11, 128, .ro, 0, 0, 0, 0, none, false⟩,
  ⟨0x6223, 0x6223, 1, 1, 1, 1, .cmd, 0, 1, 1, 0, none, false⟩,
  ⟨0x6300, 0x6300, 1, 1, 10, 4, .rw, 0x0007FFFE, 0, 0, 0, some 0x0007FFFE, false⟩,
  ⟨0x6300, 0x6300, 2, 2, 1, 1, .rw, 0, 0, 1, 0, none, false⟩,
  ⟨0x6300, 0x6300, 3, 4, 4, 8, .ro, 0, 0, 18446744073709551615, 12, none, false⟩,
  ⟨0x6300, 0x6300, 5, 5, 11, 67108864, .ro, 0, 0, 0, 0, none, false⟩,
  ⟨0x6300, 0x6300, 6, 6, 11, 16, .rw, 0, 0, 0, 0, some 0x00000000FFFFFFFFFFFFFFFFFFFFFFFF, false⟩]

/-- Rows of spec/12 and spec/17 entries. -/
def entryRows8 : List EntryRow := [
  ⟨0x7000, 0x7000, 1, 1, 2, 2, .ro, 0, 0, 65535, 14, none, false⟩,
  ⟨0x7000, 0x7000, 2, 2, 2, 2, .ro, 0xFFFF, 0, 65535, 13, none, false⟩,
  ⟨0x7000, 0x7000, 3, 3, 1, 1, .ro, 0, 0, 5, 0, none, false⟩,
  ⟨0x7000, 0x7000, 4, 4, 1, 1, .ro, 0, 0, 255, 12, none, false⟩,
  ⟨0x7000, 0x7000, 5, 5, 2, 2, .ro, 0, 0, 65535, 12, none, false⟩,
  ⟨0x7001, 0x7001, 1, 3, 1, 1, .ro, 0, 0, 255, 12, none, false⟩,
  ⟨0x7010, 0x7010, 1, 16, 1, 1, .ro, 0, 0, 7, 0, none, false⟩,
  ⟨0x7011, 0x7011, 1, 16, 2, 2, .ro, 0xFFFF, 0, 65535, 14, none, false⟩,
  ⟨0x7012, 0x7012, 2, 2, 1, 1, .rws, 1, 1, 64, 0, none, false⟩,
  ⟨0x7012, 0x7012, 3, 5, 1, 1, .rws, 8, 1, 64, 0, none, false⟩,
  ⟨0x7012, 0x7012, 6, 7, 1, 1, .rws, 4, 1, 64, 0, none, false⟩,
  ⟨0x7012, 0x7012, 8, 8, 1, 1, .rws, 2, 1, 64, 0, none, false⟩,
  ⟨0x7015, 0x7015, 1, 1, 1, 1, .cmd, 0, 0, 15, 0, none, false⟩,
  ⟨0x7020, 0x7020, 1, 6, 4, 8, .ro, 0, 0, 18446744073709551615, 12, none, false⟩,
  ⟨0x7030, 0x7030, 1, 1, 1, 1, .ro, 0, 0, 3, 0, none, false⟩,
  ⟨0x7030, 0x7030, 2, 2, 11, 16, .ro, 0, 0, 0, 0, none, false⟩,
  ⟨0x7031, 0x7031, 1, 1, 2, 2, .rws, 200, 50, 400, 9, none, false⟩,
  ⟨0x7031, 0x7031, 2, 2, 4, 8, .ro, 0, 0, 18446744073709551615, 0, none, false⟩,
  ⟨0x7031, 0x7031, 3, 3, 4, 8, .ro, 0, 0, 18446744073709551615, 12, none, false⟩,
  ⟨0x7040, 0x7040, 1, 16, 11, 64, .ro, 0, 0, 0, 0, none, false⟩,
  ⟨0x7041, 0x7041, 1, 16, 11, 16, .ro, 0, 0, 0, 0, none, false⟩,
  ⟨0x7100, 0x7107, 1, 128, 2, 2, .rws, 0xFFFF, 0, 65535, 14, none, false⟩,
  ⟨0x7300, 0x73FF, 1, 1, 10, 128, .rws, 0, 0, 0, 0, none, false⟩,
  ⟨0x7300, 0x73FF, 2, 2, 1, 1, .rws, 0, 0, 63, 0, none, false⟩]

/-- Rows of spec/10 and spec/01 entries. -/
def entryRows9 : List EntryRow := [
  ⟨0x8100, 0x8100, 1, 1, 3, 4, .ro, 1572864, 0, 4294967295, 10, none, false⟩,
  ⟨0x8100, 0x8100, 2, 2, 3, 4, .ro, 1769472, 0, 4294967295, 10, none, false⟩,
  ⟨0x8100, 0x8100, 17, 28, 3, 4, .ro, 131072, 0, 4294967295, 10, none, false⟩,
  ⟨0x8101, 0x8101, 1, 12, 1, 1, .ro, 2, 0, 2, 0, none, false⟩,
  ⟨0x8102, 0x8102, 1, 12, 11, 30, .ro, 0, 0, 0, 0, none, false⟩,
  ⟨0x8103, 0x8103, 1, 12, 3, 4, .ro, 0, 0, 4294967295, 0, none, false⟩,
  ⟨0x8110, 0x8110, 1, 12, 11, 32, .ro, 0, 0, 0, 0, none, false⟩,
  ⟨0x8120, 0x8120, 1, 1, 1, 1, .rws, 4, 1, 255, 12, none, false⟩,
  ⟨0x8120, 0x8120, 2, 2, 1, 1, .rws, 8, 2, 24, 9, none, false⟩,
  ⟨0x8120, 0x8120, 3, 3, 3, 4, .rws, 86400, 3600, 604800, 5, none, false⟩,
  ⟨0x8140, 0x8141, 1, 12, 6, 2, .ro, 0, -32768, 32767, 7, none, false⟩,
  ⟨0x8142, 0x8142, 1, 12, 1, 1, .ro, 0, 0, 3, 0, none, false⟩,
  ⟨0x8150, 0x8150, 1, 7, 4, 8, .ro, 0, 0, 18446744073709551615, 12, none, false⟩,
  ⟨0x8150, 0x8150, 8, 8, 11, 16, .ro, 0, 0, 0, 0, none, false⟩,
  ⟨0x8160, 0x8160, 1, 1, 3, 4, .ro, 0, 0, 4294967295, 12, none, false⟩,
  ⟨0x8200, 0x8200, 1, 2, 3, 4, .ro, 0, 0, 4294967295, 8, none, false⟩,
  ⟨0x8200, 0x8200, 16, 25, 3, 4, .ro, 0, 0, 4294967295, 8, none, false⟩]

/-- Rows of spec/11 entries. -/
def entryRows10 : List EntryRow := [
  ⟨0x8300, 0x8300, 1, 1, 11, 64, .cmd, 0, 0, 0, 0, none, false⟩,
  ⟨0x8300, 0x8300, 2, 2, 1, 1, .cmd, 0, 1, 1, 0, none, false⟩,
  ⟨0x8300, 0x8300, 3, 3, 3, 4, .ro, 0, 0, 4294967295, 12, none, false⟩,
  ⟨0x8300, 0x8300, 5, 5, 1, 1, .rws, 7, 1, 90, 6, none, false⟩,
  ⟨0x8310, 0x8310, 1, 1, 1, 1, .rws, 0, 0, 1, 0, none, false⟩,
  ⟨0x8310, 0x8310, 2, 2, 2, 2, .ro, 0, 1, 0x7FFF, 0, none, false⟩,
  ⟨0x8310, 0x8310, 3, 3, 2, 2, .ro, 0, 0, 65535, 0, none, false⟩,
  ⟨0x8310, 0x8310, 17, 18, 11, 64, .ro, 0, 0, 0, 0, none, false⟩,
  ⟨0x8320, 0x8320, 1, 1, 1, 1, .ro, 0, 0, 3, 0, none, false⟩,
  ⟨0x8320, 0x8320, 2, 2, 2, 2, .ro, 0, 0, 65535, 0, none, false⟩,
  ⟨0x8320, 0x8320, 3, 3, 1, 1, .ro, 0, 0, 63, 0, none, false⟩,
  ⟨0x8330, 0x8330, 1, 64, 1, 1, .rws, 0, 0, 1, 0, none, false⟩,
  ⟨0x8340, 0x8340, 1, 1, 4, 8, .ro, 0, 0, 18446744073709551615, 12, none, false⟩,
  ⟨0x8340, 0x8340, 2, 2, 11, 16, .ro, 0, 0, 0, 0, none, false⟩]

/-- Rows of spec/13 Table CU-14. -/
def entryRows11 : List EntryRow := [
  ⟨0x9000, 0x9000, 1, 1, 1, 1, .ro, 0, 0, 4, 0, none, false⟩,
  ⟨0x9000, 0x9000, 2, 2, 3, 4, .ro, 0, 0, 4294967295, 0, none, false⟩,
  ⟨0x9000, 0x9000, 3, 3, 11, 16, .ro, 0, 0, 0, 0, none, false⟩,
  ⟨0x9100, 0x9100, 1, 1, 11, 0, .ro, 0, 0, 0, 0, none, true⟩,
  ⟨0x9100, 0x9100, 2, 2, 11, 0, .ro, 0, 0, 0, 0, none, false⟩,
  ⟨0x9110, 0x9110, 1, 4, 11, 64, .ro, 0, 0, 0, 0, none, false⟩,
  ⟨0x9111, 0x9111, 1, 1, 2, 2, .ro, 0, 0, 4096, 12, none, false⟩,
  ⟨0x9111, 0x9111, 2, 2, 3, 4, .cmd, 0, 0, 4095, 0, none, false⟩,
  ⟨0x9200, 0x9200, 1, 1, 11, 66, .cmd, 0, 0, 0, 0, none, false⟩,
  ⟨0x9300, 0x9300, 1, 1, 1, 1, .rws, 4, 1, 16, 9, none, false⟩,
  ⟨0x9300, 0x9300, 2, 3, 2, 2, .ro, 0, 0, 65535, 12, none, false⟩,
  ⟨0x9300, 0x9300, 4, 4, 4, 8, .ro, 0, 0, 18446744073709551615, 12, none, false⟩,
  ⟨0x9400, 0x943F, 1, 128, 11, 8, .ro, 0, 0, 0, 0, none, false⟩,
  ⟨0x9500, 0x9500, 1, 1, 3, 4, .cmd, 0, 0, 4294967295, 0, none, false⟩,
  ⟨0x9600, 0x9600, 1, 3, 4, 8, .ro, 0, 0, 18446744073709551615, 12, none, false⟩]

/-- Rows of spec/15 R432. -/
def entryRows12 : List EntryRow := [
  ⟨0x9700, 0x9700, 1, 8, 11, 33, .rw, 0, 0, 0, 0, some (2 ^ 258 - 1), true⟩]

/-- Rows of spec/15 Table OD-8, spec/17 entries. -/
def entryRows13 : List EntryRow := [
  ⟨0xA000, 0xA000, 1, 1, 1, 1, .cmd, 0, 1, 1, 0, none, false⟩,
  ⟨0xA000, 0xA000, 2, 2, 4, 8, .cmd, 0, 0, 18446744073709551615, 2, none, false⟩,
  ⟨0xA000, 0xA000, 3, 3, 1, 1, .cmd, 0, 1, 1, 0, none, false⟩,
  ⟨0xA000, 0xA000, 4, 4, 1, 1, .cmd, 0, 0, 1, 0, none, false⟩,
  ⟨0xA000, 0xA000, 5, 6, 3, 4, .ro, 0, 0, 4294967295, 12, none, false⟩,
  ⟨0xA010, 0xA010, 1, 2, 1, 1, .cmd, 0, 1, 1, 0, none, false⟩,
  ⟨0xA010, 0xA010, 3, 3, 3, 4, .cmd, 0, 0, 4294967295, 0, some 0xFFFF03FF, false⟩,
  ⟨0xF010, 0xF010, 1, 5, 4, 8, .ro, 0, 0, 18446744073709551615, 12, none, false⟩,
  ⟨0xF010, 0xF010, 6, 6, 1, 1, .ro, 0, 0, 16, 12, none, false⟩,
  ⟨0xF010, 0xF010, 7, 7, 4, 8, .ro, 0, 0, 18446744073709551615, 12, none, false⟩,
  ⟨0xF020, 0xF020, 1, 1, 2, 2, .ro, 0, 0, 65535, 0, none, false⟩,
  ⟨0xF020, 0xF020, 2, 2, 11, 16, .ro, 0, 0, 0, 0, none, false⟩,
  ⟨0xF020, 0xF020, 3, 3, 1, 1, .ro, 0, 0, 64, 12, none, true⟩,
  ⟨0xF020, 0xF020, 4, 4, 1, 1, .cmd, 0, 0, 63, 0, none, false⟩,
  ⟨0xF020, 0xF020, 5, 5, 3, 4, .ro, 0, 0, 4294967295, 0, none, false⟩]

/-- Every entry of the Dictionary (subindex 0 apart, which every index has). -/
def entryRows : List EntryRow :=
  entryRows0 ++ entryRows1 ++ entryRows2 ++ entryRows3 ++ entryRows4 ++ entryRows5 ++ entryRows6 ++ entryRows7 ++ entryRows8 ++ entryRows9 ++ entryRows10 ++ entryRows11 ++ entryRows12 ++ entryRows13

/-- The row of an index that exists. -/
def rowOf (i sub : Nat) : Option EntryRow :=
  entryRows.find? fun r => r.idx0 ≤ i && i ≤ r.idx1 && r.sub0 ≤ sub && sub ≤ r.sub1

/-- The highest subindex defined under an index, 0 where the index does not exist (spec/15 R422). -/
def highestSub (i : Nat) : Nat :=
  entryRows.foldl (fun h r => if r.idx0 ≤ i && i ≤ r.idx1 then max h r.sub1 else h) 0

/-- The entry at index:subindex, subindex 0 included. -/
def entryAt (i sub : Nat) : Option EntryRow :=
  if sub = 0 then
    (if highestSub i = 0 then none else some ⟨i, i, 0, 0, 1, 1, .ro, highestSub i, 0, 255, 0, none, false⟩)
  else rowOf i sub

/-- The least pair (index, subindex) after the given one that exists, for DESCRIBE with NEXT (spec/15 R427). -/
def nextEntry (i sub : Nat) : Option (Nat × Nat) :=
  let cand (r : EntryRow) : List (Nat × Nat) :=
    let here := if r.idx0 ≤ i && i ≤ r.idx1 && sub < r.sub1 then [(i, max (sub + 1) r.sub0)] else []
    let after := if i < r.idx1 then [(max (i + 1) r.idx0, 0)] else []
    here ++ after
  (entryRows.flatMap cand).foldl (fun b c => match b with
    | none => some c
    | some d => if c.1 < d.1 || (c.1 = d.1 && c.2 < d.2) then some c else some d) none

/-- The key of an entry in the sparse maps of values. -/
def entryKey (i sub : Nat) : Nat := 256 * i + sub

/-- The default of an entry. -/
def dfltOf (i sub : Nat) : Nat := match rowOf i sub with | some r => r.dflt | none => 0

/-- The value at a key where one is listed. -/
def lookupKey (k : Nat) : Sparse Nat → Option Nat
  | [] => none
  | (j, v) :: m => if k = j then some v else lookupKey k m

/-- The active value of an RW or RWS entry. -/
def cfg (s : State) (i sub : Nat) : Nat := (lookupKey (entryKey i sub) s.dict.active).getD (dfltOf i sub)

/-- The shadow value of an RWS entry. -/
def cfgShadow (s : State) (i sub : Nat) : Nat := (lookupKey (entryKey i sub) s.dict.shadow).getD (dfltOf i sub)

/-- Insert at a key, keys rising. -/
def insertKey (k v : Nat) : Sparse Nat → Sparse Nat
  | [] => [(k, v)]
  | (j, w) :: m => if k = j then (j, v) :: m else if k < j then (k, v) :: (j, w) :: m else (j, w) :: insertKey k v m

/-- Put a value at an entry, unlisting a value that equals the entry's default. -/
def putEntry (i sub v : Nat) (m : Sparse Nat) : Sparse Nat :=
  if v = dfltOf i sub then m.filter fun e => e.1 ≠ entryKey i sub else insertKey (entryKey i sub) v m

/-- Set the active value of an entry. -/
def setCfg (i sub v : Nat) (s : State) : State :=
  { s with dict := { s.dict with active := putEntry i sub v s.dict.active } }

/-- Set the active and the shadow value of an entry, where the module itself changes an RWS entry. -/
def setBoth (i sub v : Nat) (s : State) : State :=
  { s with dict := { s.dict with active := putEntry i sub v s.dict.active,
                                 shadow := putEntry i sub v s.dict.shadow } }

end Sys2Proof.Machine
end

