-- ==== Sys2Proof/Machine/Observe.lean ====
section
/-! DEFINITION. What every unit does to be observed: counters, trace records, numeric events and histogram samples
(spec/16, spec/04 R123 and R124), with the time stamps of spec/02 R54 to R56. -/

namespace Sys2Proof.Machine

/-! ### Stamps (spec/02 R54 to R57) -/

/-- The originating unit (7 bits) of a counter block's events. The spec gives no numbering (DESIGN CHOICE, log
entry 13): the block number modulo 128. -/
def unitOf (block : Nat) : Nat := block % 128

/-- Stamp one event of a unit: its 32-bit originator sequence number (spec/02 R56), and the state that counts it. -/
def stamp (unit : Nat) (s : State) : BitVec 32 × State :=
  let n := sget 0 unit s.steep.oseq
  (BitVec.ofNat 32 (unit * 2 ^ 25 + n.toNat),
    { s with steep := { s.steep with oseq := sput 0 unit (n + 1) s.steep.oseq } })

/-- The short stamp of the present time (spec/02 R54). -/
def shortStamp (s : State) : BitVec 56 :=
  BitVec.ofNat 56 ((s.steep.k.toNat % 2 ^ 32) * 2 ^ 24 + ahead s.time s.steep.b % 2 ^ 24)

/-- The boundary and length of a steep that the receiver holds: the last 1,024 steeps and the next one
(spec/02 R55). -/
def steepTimes (s : State) (k32 : Nat) : Option (BitVec 64 × Nat) :=
  if k32 = s.steep.k.toNat % 2 ^ 32 then some (s.steep.b, s.steep.len)
  else if k32 = (s.steep.k.toNat + 1) % 2 ^ 32 then some (nextB s, s.steep.lenNext)
  else (s.steep.history.find? fun h => h.1.toNat % 2 ^ 32 = k32).map fun h => h.2

/-- The full time of a short stamp, or none where the packet is dropped (spec/02 R55). -/
def fullTime (s : State) (st : BitVec 56) : Option (BitVec 64) :=
  match steepTimes s (fld st 24 32).toNat with
  | none => none
  | some (b, len) =>
    let off := (fld st 0 24).toNat
    if off < len * cyclesPerUs then some (b + BitVec.ofNat 64 off) else none

/-- Canonical order (spec/02 R56): full time, then SNA, then originator sequence number. -/
def canonLt (a b : Nat × Nat × Nat) : Bool :=
  a.1 < b.1 || (a.1 = b.1 && (a.2.1 < b.2.1 || (a.2.1 = b.2.1 && a.2.2 < b.2.2)))

/-- Insert into a list kept in canonical order of its keys. -/
def canonInsert {α : Type} (key : α → Nat × Nat × Nat) (x : α) : List α → List α
  | [] => [x]
  | y :: ys => if canonLt (key x) (key y) then x :: y :: ys else y :: canonInsert key x ys

/-- Sort into canonical order. -/
def canonSort {α : Type} (key : α → Nat × Nat × Nat) (l : List α) : List α := l.foldr (canonInsert key) []

/-! ### Counters (spec/16 R447 to R450) -/

/-- `n` events numbered `ev` of block `block`. -/
def count (block ev n : Nat) (s : State) : State :=
  { s with obs := { s.obs with blocks := supd {} block (countIn ev n) s.obs.blocks } }

/-- The 64-byte units of `n` bytes, in which events that move data count (spec/16 R448). -/
def dataUnits (n : Nat) : Nat := (n + 63) / 64

/-- The 64-bit cycle counter of every block (spec/16 R447). -/
def cycleCount (s : State) : BitVec 64 := BitVec.ofNat 64 (s.clock - s.obs.since)

/-- Sample a histogram with unit `u` cycles and latency `x` cycles (spec/16 R452); bins saturate at 48 bits.
Keys: 0 to 11 memory, 16 to 31 fabric, 64 to 127 partition. -/
def histBin (u x : Nat) : Nat :=
  ((List.range 15).find? fun i => x < u * 2 ^ i).getD 15

/-- Add one sample to histogram `h`. -/
def histSample (h u x : Nat) (s : State) : State :=
  let bins := sget [] h s.obs.hists
  let full := (List.range 16).map fun i => bins.getD i 0
  let b := histBin u x
  let v := full.getD b 0
  let hs := sput [] h (full.set b (if v = BitVec.allOnes 48 then v else v + 1)) s.obs.hists
  { s with obs := { s.obs with hists := hs } }

/-! ### Trace records (spec/16 R457, R458) -/

/-- Send a trace record to the central reader when its type is enabled; 4,096 records wait in staging, and the rest
are dropped and counted. -/
def trace (ty block part : Nat) (data : BitVec 128) (s : State) : State :=
  if (cfg s 0x6300 1).testBit ty then
    let (oseq, s) := stamp (unitOf block) s
    if s.obs.staging.length < 4096 then
      let r : TraceRec := { time := s.time, made := s.clock, sna := s.fab.sna, oseq := oseq, type := BitVec.ofNat 8 ty,
                            block := BitVec.ofNat 8 block, part := BitVec.ofNat 6 part, data := data }
      { s with obs := { s.obs with staging := s.obs.staging ++ [r] } }
    else { s with obs := { s.obs with lost := s.obs.lost + 1, dropped := s.obs.dropped + 1 } }
  else s

/-! ### Numeric events (spec/04 R123, R124) -/

/-- A numeric event of a class: the module-wide count, the first latch of the step, the block's counter and the trace
record. Class 6 is counted only, with no trace record. -/
def numericEvent (cls block unit op part : Nat) (adid : BitVec 24) (s : State) : State :=
  let rec_ := packR 128 [(64, s.time.toNat), (12, unit), (4, cls), (16, op), (32, adid.toNat)]
  let s := { s with obs := { s.obs with
    events := supd 0 cls (· + 1) s.obs.events,
    latches := if sget 0 cls s.obs.latches = 0 then sput 0 cls rec_ s.obs.latches else s.obs.latches } }
  let s := count block (5 + cls) 1 s
  if cls = 6 then s else trace 0x03 block part rec_ s

/-- Numeric events of one op: each class at most once (spec/04 R123). -/
def numericEvents (classes : List Nat) (block unit op part : Nat) (adid : BitVec 24) (s : State) : State :=
  (List.range 7).foldl (fun s c => if classes.contains c then numericEvent c block unit op part adid s else s) s

end Sys2Proof.Machine
end

