-- ==== Sys2Proof/Machine/Crypto.lean ====
section
/-! DEFINITION. Keys and protected units: working keys, XTS units, GCM units, nonces and measurement (spec/13). -/

namespace Sys2Proof.Machine

/-- The bytes of an ASCII string. -/
def ascii (t : String) : List Byte := t.toList.map fun c => BitVec.ofNat 8 c.toNat

/-- Exclusive or of two byte lists, to the length of the first. -/
def xorBytes : List Byte → List Byte → List Byte
  | [], _ => []
  | a :: as, [] => a :: as
  | a :: as, b :: bs => (a ^^^ b) :: xorBytes as bs

/-! ### Working keys (spec/13 R376) -/

/-- The XTS key pair of a root key. -/
def xtsKeyOf (k : BitVec 256) : BitVec 512 := Config.shake256 (ascii "AQ1224-XTS" ++ wordBytes k) 512

/-- The GCM key of a root key. -/
def gcmKeyOf (k : BitVec 256) : BitVec 256 := Config.shake256 (ascii "AQ1224-GCM" ++ wordBytes k) 256

/-- A working key as AES path `path` has it from the key bus: the controller sends it under the path's wrap key, and the path
takes that off (spec/01 R15). -/
def overBus {w : Nat} (s : State) (path : Nat) (k : BitVec w) : BitVec w :=
  let wrap := Config.keyWrap (s.cust.wraps.getD path 0) w
  wrap.symm (wrap k)

/-- The XTS key pair of a root key in the AES path of a stack's controller. -/
def xtsKeyAt (s : State) (a : Nat) (k : BitVec 256) : BitVec 512 := overBus s (a / 2 ^ 38) (xtsKeyOf k)

/-- The GCM key of a root key in the AES paths of the compute dies. -/
def gcmKeyAt (s : State) (k : BitVec 256) : BitVec 256 := overBus s 16 (gcmKeyOf k)

/-- The MAC key of a root key. -/
def macKeyOf (k : BitVec 256) : BitVec 256 := Config.shake256 (ascii "AQ1224-MAC" ++ wordBytes k) 256

/-- The key commitment of a root key (spec/13 R376). -/
def commitmentOf (k : BitVec 256) : BitVec 256 := Config.kmac256 (macKeyOf k) "AQ1224-COMMIT" []

/-- A key slot's state. -/
def slotOf (s : State) (n : Nat) : KeySlot := sget {} n s.cust.slots

/-- The code of a slot state at 0x9400. -/
def slotCode : SlotState → Nat
  | .free => 0 | .loaded => 1 | .rotating => 2 | .scrubbing => 3 | .retired => 4

/-- Replace a key slot, with the trace record of a change of state (spec/16 Table PC-7). -/
def setSlot (n : Nat) (k : KeySlot) (s : State) : State :=
  let old := (slotOf s n).state
  let s := { s with cust := { s.cust with slots := sput {} n k s.cust.slots } }
  if old = k.state then s
  else trace 0x0D 0xFF 0 (BitVec.ofNat 128 (n + 2 ^ 16 * k.gen.toNat + 2 ^ 32 * slotCode k.state)) s

/-- The root key that epoch `ep` of a slot uses, if the slot holds it. -/
def rootKey (k : KeySlot) (ep : Bool) : Option (BitVec 256) := if ep = k.parity then k.cur else k.prev

/-- A (slot, generation) pair is current: the slot holds a key at this generation (spec/13 R384). -/
def pairOk (s : State) (slot : Nat) (gen : BitVec 16) : Bool :=
  let k := slotOf s slot
  k.gen == gen && k.cur.isSome

/-! ### XTS units (spec/13 R379) -/

/-- The tweak of the unit at package address `a` under an epoch bit. -/
def tweakOf (ep : Bool) (a : Nat) : BitVec 128 := BitVec.ofNat 128 (ep.toNat * 2 ^ 127 + a / 64)

/-- Encrypt one 64-byte unit. -/
def xtsEnc (kp : BitVec 512) (tw : BitVec 128) (u : List Byte) : List Byte :=
  leBytes 64 (Config.xts kp tw (BitVec.ofNat 512 (leNat u))).toNat

/-- Decrypt one 64-byte unit. -/
def xtsDec (kp : BitVec 512) (tw : BitVec 128) (u : List Byte) : List Byte :=
  leBytes 64 ((Config.xts kp tw).symm (BitVec.ofNat 512 (leNat u))).toNat

/-! ### Nonces and GCM units (spec/13 R380, R381) -/

/-- The next nonce of an encrypting unit, none when its 41-bit counter would wrap. The numbers of the encrypting
units are the model's (DESIGN CHOICE, log entry 13). -/
def nextNonce (unit : Nat) (s : State) : Option (BitVec 96) × State :=
  let c := sget 0 unit s.cust.nonces
  if 2 ^ 41 ≤ c then (none, s)
  else
    (some (BitVec.ofNat 96 (1 * 2 ^ 94 + (s.fab.sna.toNat / 32) * 2 ^ 83 + (unit % 2 ^ 10) * 2 ^ 73 +
      s.cust.boot.toNat * 2 ^ 41 + c)),
     { s with cust := { s.cust with nonces := sput 0 unit (c + 1) s.cust.nonces } })

/-- The key stream applied to a byte list. -/
def gcmCrypt (key : BitVec 256) (nonce : BitVec 96) (bs : List Byte) : List Byte :=
  (indexed bs).map fun p => p.2 ^^^ Config.gcmStream key nonce p.1

/-- The 48-byte header of a GCM unit (Table CU-11). -/
def gcmHeader (nonce : BitVec 96) (seq slot : Nat) (gen : BitVec 16) (ep : Bool) (dlen : Nat) : BitVec 384 :=
  BitVec.ofNat 384 (nonce.toNat * 2 ^ 288 + (seq % 2 ^ 64) * 2 ^ 224 + (slot % 2 ^ 13) * 2 ^ 211 +
    gen.toNat * 2 ^ 195 + ep.toNat * 2 ^ 194 + (dlen % 2 ^ 6) * 2 ^ 188)

/-- One GCM unit: header, tag, ciphertext. -/
def gcmUnit (key : BitVec 256) (nonce : BitVec 96) (seq slot : Nat) (gen : BitVec 16) (ep : Bool)
    (plain : List Byte) : List Byte :=
  let h := wordBytes (gcmHeader nonce seq slot gen ep (plain.length / 64 - 1))
  let ct := gcmCrypt key nonce plain
  h ++ wordBytes (Config.gcmTag key nonce h ct) ++ ct

/-- The plaintext of a stored GCM unit under a slot and generation: `none` where the unit is stale, `some (false, _)`
where the tag or the order fails (its data is then zeros), and the unit's stored length. -/
def gcmOpen (s : State) (slot : Nat) (gen : BitVec 16) (seq : Nat) (bytes : List Byte) :
    Option (Bool × List Byte) × Nat :=
  let h := BitVec.ofNat 384 (leNat (bytes.take 48))
  let d := ((fld h 188 6).toNat + 1) * 64
  let tag := BitVec.ofNat 128 (leNat ((bytes.drop 48).take 16))
  let ct := (bytes.drop 64).take d
  let len := 64 + d
  if (fld h 211 13).toNat ≠ slot || fld h 195 16 ≠ gen then (none, len)
  else match rootKey (slotOf s slot) (bit h 194) with
    | none => (some (false, List.replicate d 0), len)
    | some k =>
      let nonce : BitVec 96 := fld h 288 96
      let key := gcmKeyAt s k
      if (fld h 224 64).toNat = seq && Config.gcmTag key nonce (bytes.take 48) ct = tag && ct.length = d
          && (fld h 0 188) = 0
      then (some (true, gcmCrypt key nonce ct), len)
      else (some (false, List.replicate d 0), len)

/-- Count a GCM unit failure (0x9600:02). -/
def countGcmFail (n : Nat) (s : State) : State := { s with cust := { s.cust with gcmFails := s.cust.gcmFails + n } }

/-- Count stale blocks (0x9600:01). -/
def countStale (n : Nat) (s : State) : State := { s with cust := { s.cust with stale := s.cust.stale + n } }

/-! ### Measurement (spec/13 R372) -/

/-- The Spapor time, zero before it exists. -/
def spaporTime (s : State) : BitVec 64 := if s.timeKnown then s.time else 0

/-- Extend measurement register `i` by an event of a type with 48 bytes of data, and log the record. -/
def measure (i : Nat) (ty : Nat) (data : BitVec 384) (s : State) : State :=
  let r : BitVec 512 := BitVec.ofNat 512 (ty % 2 ^ 16 + (spaporTime s).toNat * 2 ^ 64 + data.toNat * 2 ^ 128)
  let ext (mr : BitVec 512) : BitVec 512 :=
    Config.shake256 (ascii "AQ1224-MR" ++ [BitVec.ofNat 8 i] ++ wordBytes mr ++ wordBytes r) 512
  let c := s.cust
  let c := match i with
    | 0 => { c with mr0 := ext c.mr0 }
    | 1 => { c with mr1 := ext c.mr1 }
    | 2 => { c with mr2 := ext c.mr2 }
    | _ => { c with mr3 := ext c.mr3 }
  let c := if c.log.length < 4096 then { c with log := c.log ++ [r], logFull := c.log.length + 1 == 4096 } else c
  { s with cust := c }

/-- The data field of a measured event: the pieces `(bytes, value)` of Table CU-5 in the order listed, the first in the lowest
bytes, each least significant byte first. The table gives no places (DESIGN CHOICE, log entry 45). -/
def measData (fields : List (Nat × Nat)) : BitVec 384 :=
  BitVec.ofNat 384 (leNat (fields.flatMap fun f => leBytes f.1 f.2))

/-! ### The custody exchange (spec/13 R374) -/

/-- The KEM certificate (spec/13 Table CU-4). -/
def kemCertificate (s : State) : List Byte :=
  let head := [(0xE7 : Byte), 0xC3, 0x01, 0] ++ leBytes 4 s.cust.boot.toNat ++ leBytes 16 s.boot.serial.toNat ++
    List.replicate 40 0
  let b := head ++ wordBytes (Config.mlKemPublic s.cust.kem)
  b ++ wordBytes (Config.mlDsaSign "AQ1224-KEM" b) ++ List.replicate 51 0

/-- T over the messages so far (spec/13 R374); 64 bytes (DESIGN CHOICE, log entry 3). -/
def transcriptHash (t : List Byte) : BitVec 512 := Config.shake256 t 512

/-- The 128 bytes of OKM (spec/13 R374). -/
def okmOf (ss : BitVec 256) (t : List Byte) : BitVec 1024 :=
  Config.shake256 (ascii "AQ1224-SESS" ++ wordBytes ss ++ wordBytes (transcriptHash t)) 1024

/-- A partner's KEM certificate is good under its identity key (spec/13 Table CU-4). -/
def kemCertOk (pub cert : List Byte) : Bool :=
  cert.length == 4608 && cert.take 3 == [0xE7, 0xC3, 0x01] &&
  Config.mlDsaVerify pub "AQ1224-KEM" (cert.take 1248) ((cert.drop 1248).take 3309)

/-- The transcript signature of the end with identity key `pub` is good (spec/13 R374). -/
def sessionSigned (pub t sig : List Byte) : Bool :=
  Config.mlDsaVerify pub "AQ1224-SESS" (wordBytes (transcriptHash t)) sig

/-- What the initiating end of a link encapsulates: its ciphertext and shared secret, with coins from its entropy source. -/
def linkEncap (s : State) (c : Closing) : BitVec 8704 × BitVec 256 :=
  Config.mlKemEncap ((c.kemCert.drop 64).take 1184) (Config.freeValue (s.free + 1) 256)

/-- The module initiates the exchange with a partner: the end with the lower SNA does (spec/13 R374). -/
def initiates (s : State) (partner : BitVec 16) : Bool := decide (s.fab.sna.toNat < partner.toNat)

/-- Every message of a link's exchange before the signatures, this end's nonce being the next fresh value (spec/13 R374). -/
def linkTranscript (s : State) (partner : BitVec 16) (certs : List Byte) (nonce : BitVec 256) (c : Closing) : List Byte :=
  let own : BitVec 256 := Config.freeValue s.free 256
  if initiates s partner then
    wordBytes own ++ (certs ++ c.kemCert ++ wordBytes nonce) ++ wordBytes (linkEncap s c).1
  else wordBytes nonce ++ (Config.identityCerts ++ kemCertificate s ++ wordBytes own) ++ c.ciphertext

/-- The keys to and from the partner that a link's exchange yields; none where a certificate or the partner's signature fails
(spec/13 R374, spec/12 R341). Bytes 0 to 31 of OKM go from the initiator. -/
def linkKeys (s : State) (partner : BitVec 16) (certs : List Byte) (nonce : BitVec 256) (c : Closing) :
    Option (BitVec 256 × BitVec 256) :=
  let t := linkTranscript s partner certs nonce c
  match Config.certifiedKey certs with
  | none => none
  | some pub =>
    if !sessionSigned pub t c.signature then none
    else if initiates s partner then
      let okm := okmOf (linkEncap s c).2 t
      if kemCertOk pub c.kemCert then some (fld okm 0 256, fld okm 256 256) else none
    else if c.ciphertext.length = 1088 then
      let okm := okmOf (Config.mlKemDecap s.cust.kem c.ciphertext) t
      some (fld okm 256 256, fld okm 0 256)
    else none

/-- The messages this end sends in a link's exchange, in order: as initiator N_i, then the ciphertext; else its certificates
with N_m; and the signature of T, with the identity certificates that the other end has not had (log entry 78). -/
def linkMessages (s : State) (partner : BitVec 16) (certs : List Byte) (nonce : BitVec 256) (c : Closing) : List (List Byte) :=
  let own : BitVec 256 := Config.freeValue s.free 256
  let sig := wordBytes (Config.mlDsaSign "AQ1224-SESS" (wordBytes (transcriptHash (linkTranscript s partner certs nonce c))))
  if initiates s partner then [wordBytes own, wordBytes (linkEncap s c).1, sig ++ Config.identityCerts]
  else [Config.identityCerts ++ kemCertificate s ++ wordBytes own, sig]

/-- KEMD, the first 16 bytes of SHAKE256 over the encapsulation key (spec/13 R371). -/
def kemDigest (s : State) : BitVec 128 := Config.shake256 (wordBytes (Config.mlKemPublic s.cust.kem)) 128

end Sys2Proof.Machine
end

