-- ==== Sys2Proof/Machine/Blocks.lean ====
section
/-! DEFINITION. Package memory as the units see it: the address map (spec/01 R16, spec/10 R290), partition windows
(spec/01 R17), block records and checksums (spec/10 R294 to R298), encrypted reads and writes (spec/13 R379), RAS
events and row rules (spec/10 R304 to R307), host writes and dirty logs (spec/14 R419). -/

namespace Sys2Proof.Machine

/-! ### The address map -/

/-- The base of tile memory of core `g` (spec/01 Table AR-3). -/
def tileBase (g : Nat) : Nat := 0x060000000000 + g * 0x400000

/-- The stack of an HBM address, none for any other address. -/
def hbmStack (a : Nat) : Option Nat := if a / 2 ^ 38 < 12 then some (a / 2 ^ 38) else none

/-- The logical pseudo-channel of an HBM address (spec/10 Table HB-1): none in the spare window and beyond. -/
def logicalPc (a : Nat) : Option Nat :=
  if hbmStack a = none then none
  else
    let l := (a % 2 ^ 38) / 0x120000000
    if l < 30 then some l else none

/-- The offset of an address in its logical pseudo-channel. -/
def pcOffset (a : Nat) : Nat := (a % 2 ^ 38) % 0x120000000

/-- The start of the system area within logical pseudo-channel `l`. -/
def systemStart (l : Nat) : Nat := if l < 2 then 0x104000000 else 0x112000000

/-- The physical pseudo-channel that backs a logical one, 0xFF when LOST (spec/10 R289). -/
def physPc (st : Stack) (l : Nat) : Nat := (sget (BitVec.ofNat 8 l) l (st.map)).toNat

/-- Entry `l` of a stack's map, whose default is the identity. -/
def setPhys (l : Nat) (v : BitVec 8) (st : Stack) : Stack :=
  { st with map := if v = BitVec.ofNat 8 l then st.map.filter fun e => e.1 ≠ l
                   else sput (BitVec.ofNat 8 l) l v st.map }

/-- A stack's state. -/
def stackOf (s : State) (i : Nat) : Stack := sget {} i s.hbm.stk

/-- Apply `f` to a stack's state. -/
def updStack (i : Nat) (f : Stack → Stack) (s : State) : State :=
  { s with hbm := { s.hbm with stk := supd {} i f s.hbm.stk } }

/-- A logical pseudo-channel is LOST. -/
def isLost (s : State) (st l : Nat) : Bool := physPc (stackOf s st) l == 0xFF

/-- The address is one of the map (spec/01 R16): in HBM, in a live logical pseudo-channel. -/
def addrOk (s : State) (a : Nat) : Bool :=
  match hbmStack a with
  | some st => (match logicalPc a with | some l => !isLost s st l | none => false)
  | none =>
    (0x040000000000 ≤ a && a < 0x060000000000) || (0x060000000000 ≤ a && a < 0x060020000000) ||
    (0x060020000000 ≤ a && a < 0x060030000000) || (0x070000000000 ≤ a && a < 0x070040000000)

/-- An HBM access that no controller performs: its logical pseudo-channel is LOST (spec/10 R290) or its stack is in TRIP
(spec/10 Table HB-6). -/
def noAccess (s : State) (a : Nat) : Bool :=
  match hbmStack a, logicalPc a with
  | some st, some l => isLost s st l || (stackOf s st).thermal = .trip
  | _, _ => false

/-- Every 4 KiB piece of a range is on the map. -/
def rangeOk (s : State) (a n : Nat) : Bool :=
  (List.range ((a % 4096 + n + 4095) / 4096)).all fun i => addrOk s (a / 4096 * 4096 + 4096 * i)

/-! ### Partitions (spec/14 R398, spec/01 R17) -/

/-- Partition `p` is enabled. -/
def partEnabled (s : State) (p : Nat) : Bool := p = 0 || cfg s 0x3002 (p + 1) = 1

/-- Partition `p` holds core `g`. -/
def holdsCore (s : State) (p g : Nat) : Bool := partEnabled s p && (cfg s 0x3010 (p + 1)).testBit g

/-- The partition that holds core `g`. -/
def coreOwner (s : State) (g : Nat) : Option Nat := (List.range 64).find? fun p => holdsCore s p g

/-- The partition that holds core `g`, 0 for a core that none holds. -/
def coreOwnerD (s : State) (g : Nat) : Nat := (coreOwner s g).getD 0

/-- Key slot `n` lies in the partition's slot range. -/
def holdsSlot (s : State) (p n : Nat) : Bool :=
  let v := cfg s 0x3012 (p + 1)
  partEnabled s p && bits v 0 13 ≤ n && n < bits v 0 13 + bits v 16 14

/-- The partition that holds a key slot. -/
def slotOwner (s : State) (n : Nat) : Option Nat := (List.range 64).find? fun p => holdsSlot s p n

/-- Base and length of window `w` of a partition, length 0 when unused. -/
def windowOf (s : State) (p w : Nat) : Nat × Nat :=
  let v := cfg s (0x3020 + w) (p + 1)
  (bits v 0 48, bits v 64 48)

/-- A window without the 4 GiB trial extent at `e`. -/
def cutExtent (e : Nat) (w : Nat × Nat) : List (Nat × Nat) :=
  let r := max w.1 (e + 0x100000000)
  [(w.1, min (w.1 + w.2) e - w.1), (r, w.1 + w.2 - r)].filter fun x => x.2 ≠ 0

/-- The explicit windows of a partition, without the extents of a trial base that it has loaded (spec/11 R331). -/
def windowsOf (s : State) (p : Nat) : List (Nat × Nat) :=
  let ws := ((List.range 16).map (windowOf s p)).filter fun w => w.2 ≠ 0
  if s.leaf.trial.state ≠ 0 && s.leaf.trial.owner.toNat = p then
    s.leaf.trial.extents.foldl (fun ws e => ws.flatMap (cutExtent e.2.2)) ws
  else ws

/-- Bytes `[a, b)` are covered by a list of ranges. -/
def coveredBy (ws : List (Nat × Nat)) : Nat → Nat → Nat → Bool
  | 0, a, b => b ≤ a
  | fuel + 1, a, b =>
    if b ≤ a then true
    else match ws.find? fun w => w.1 ≤ a && a < w.1 + w.2 with
      | none => false
      | some w => coveredBy ws fuel (w.1 + w.2) b

/-- `n` bytes from `a` lie in the partition's explicit windows. -/
def inWindows (s : State) (p a n : Nat) : Bool := coveredBy (windowsOf s p) ((windowsOf s p).length + 1) a (a + n)

/-- `n` bytes from `a` lie in the tile memories of cores that the partition holds, one core's directly after another's. -/
def inTiles (s : State) (p a n : Nat) : Bool :=
  tileBase 0 ≤ a && a + n ≤ tileBase 128 &&
  (List.range 128).all fun g => holdsCore s p g || a + n ≤ tileBase g || tileBase (g + 1) ≤ a

/-! ### The KV region (spec/07 R204, R205, R207, R209, Table AT-8) -/

/-- Layers, KV heads, head dimension, and whether the pages are FP4. -/
def kvL (s : State) (p : Nat) : Nat := bits (cfg s 0x2502 (p + 1)) 16 12 + 1
def kvH (s : State) (p : Nat) : Nat := bits (cfg s 0x2502 (p + 1)) 8 6 + 1
def kvD (s : State) (p : Nat) : Nat := 32 * (bits (cfg s 0x2502 (p + 1)) 0 3 + 1)
def kvFp4 (s : State) (p : Nat) : Bool := cfg s 0x2501 (p + 1) = 1

/-- Round up to a multiple of 4,096. -/
def up4k (n : Nat) : Nat := (n + 4095) / 4096 * 4096

/-- The data size Z of a page, the count of its scales, the size of its tail, and the bytes of an open buffer row. -/
def pageBytes (s : State) (p : Nat) : Nat := up4k ((if kvFp4 s p then 16 else 32) * kvH s p * kvD s p)
def pageScales (s : State) (p : Nat) : Nat := if kvFp4 s p then kvH s p * kvD s p / 16 else 2 * kvH s p
def tailBytes (s : State) (p : Nat) : Nat := 64 * ((pageScales s p + 8 + 63) / 64)
def openRowBytes (s : State) (p : Nat) : Nat := up4k (4 * kvH s p * kvD s p)

/-- Chunk, sequence, buffer and tree capacities. -/
def chunkCap (s : State) (p : Nat) : Nat := cfg s 0x2504 (p + 1)
def seqCap (s : State) (p : Nat) : Nat := cfg s 0x2505 (p + 1)
def bufCap (s : State) (p : Nat) : Nat := cfg s 0x2506 (p + 1)

/-- The bases of the frames, the tails and the open buffers within the region. The order is the model's (log 18). -/
def frameBase (s : State) (p : Nat) : Nat := cfg s 0x2503 (p + 1)
def tailBase (s : State) (p : Nat) : Nat := frameBase s p + (chunkCap s p + 1) * kvL s p * pageBytes s p
def bufBase (s : State) (p : Nat) : Nat := tailBase s p + up4k ((chunkCap s p + 1) * kvL s p * tailBytes s p)

/-- A partition has a KV region: some capacity is set. -/
def hasRegion (s : State) (p : Nat) : Bool := chunkCap s p ≠ 0 || seqCap s p ≠ 0 || bufCap s p ≠ 0

/-- The region size required (0x2509). -/
def regionBytes (s : State) (p : Nat) : Nat :=
  if !hasRegion s p then 0 else bufBase s p + bufCap s p * (16 * kvL s p * openRowBytes s p) - frameBase s p

/-- `n` bytes from `a` reach the KV region of a partition, which no DMA descriptor, FAB op or queue command can address. -/
def reachesKv (s : State) (p a n : Nat) : Bool :=
  hasRegion s p && frameBase s p < a + n && a < frameBase s p + regionBytes s p

/-- The window check of an access for a partition (spec/01 R17, spec/07 R209, spec/10 R290). -/
def windowOk (s : State) (p a n : Nat) : Bool :=
  n = 0 || ((inWindows s p a n && !reachesKv s p a n || inTiles s p a n) && rangeOk s a n)

/-! ### Checksums and block records (spec/10 R294 to R296) -/

/-- One step of the CRC for one bit. -/
def crcBit (c : BitVec 64) (b : Bool) : BitVec 64 :=
  let c' := c <<< 1
  if c.msb != b then c' ^^^ 0x42F0E1EBA9EA3693 else c'

/-- The CRC-64 register after one byte, most significant bit first. -/
def crcByte (c : BitVec 64) (v : Byte) : BitVec 64 :=
  (List.range 8).foldl (fun c i => crcBit c (v.getLsbD (7 - i))) c

/-- The tensor block checksum of a byte list (spec/10 R294). -/
def crc64 (bs : List Byte) : BitVec 64 := bs.foldl crcByte 0

/-- The record of a block: after the zero fill an unlisted block has V = 1 and the CRC of zeros, which is 0. -/
def blockOf (s : State) (b : Nat) : BlockRec := sget { v := s.hbm.filled } b s.hbm.blocks

/-- Replace the record of a block. -/
def setBlock (b : Nat) (r : BlockRec) (s : State) : State :=
  { s with hbm := { s.hbm with blocks := sput { v := s.hbm.filled } b r s.hbm.blocks } }

/-- The stored bytes of a block. -/
def blockBytes (s : State) (b : Nat) : List Byte := memRead s.mem (4096 * b) 4096

/-- The counter block of an HBM controller (spec/16 Table PC-1). -/
def hbmBlockNo (st : Nat) : Nat := 0x84 + st

/-- Count an HBM access of `n` bytes at address `a` as `ev` (0x040 read, 0x041 write, 0x042 atomic add, 0x043 extra read;
spec/16 Table PC-2); other memory is not counted. -/
def countHbm (ev a n : Nat) (s : State) : State :=
  match hbmStack a with
  | some st => count (hbmBlockNo st) ev (dataUnits n) s
  | none => s

/-- Store bytes as they stand in package memory. -/
def storeBytes (a : Nat) (bs : List Byte) (s : State) : State := { s with mem := memWrite s.mem a bs }

/-- An address in a loaded trial base, which no unit writes (spec/11 R331). -/
def inTrial (s : State) (a : Nat) : Bool :=
  let t := s.leaf.trial
  (t.state = 2 || t.state = 3) && t.extents.any fun e => e.2.2 ≤ a && a < e.2.2 + 0x100000000

/-- One write inside one HBM block, with its effect on the record (spec/10 R296). -/
def writeInBlock (crc : Bool) (a : Nat) (bs : List Byte) (s : State) : State :=
  if noAccess s a || inTrial s a then s else
  let s := countHbm 0x041 a bs.length s
  let s := if crc && bs.length ≠ 4096 then countHbm 0x043 a bs.length s else s
  let b := a / 4096
  let r := blockOf s b
  if crc then
    if bs.length = 4096 then setBlock b { r with crc := crc64 bs, v := true, bad := false } (storeBytes a bs s)
    else
      let diff := xorBytes (memRead s.mem a bs.length) bs
      let upd := crc64 (diff ++ List.replicate (4096 - a % 4096 - bs.length) 0)
      setBlock b { r with crc := r.crc ^^^ upd } (storeBytes a bs s)
  else setBlock b { r with v := false } (storeBytes a bs s)

/-- Cut a write into pieces that each lie in one 4 KiB block: (address, bytes). -/
def blockPieces : Nat → Nat → List Byte → List (Nat × List Byte)
  | 0, _, _ => []
  | fuel + 1, a, bs =>
    if bs.isEmpty then []
    else
      let n := 4096 - a % 4096
      (a, bs.take n) :: blockPieces fuel (a + n) (bs.drop n)

/-- A write of bytes as they are stored, to HBM with its checksum rule or to any other memory. -/
def writeStored (crc : Bool) (a : Nat) (bs : List Byte) (s : State) : State :=
  (blockPieces (bs.length / 4096 + 2) a bs).foldl (fun s p =>
    if (hbmStack p.1).isSome then writeInBlock crc p.1 p.2 s else storeBytes p.1 p.2 s) s

/-! ### Encrypted access (spec/13 R379) -/

/-- Encrypt a list of whole units from address `a` under one epoch of a slot. -/
def encryptUnits (kp : BitVec 512) (ep : Bool) (a : Nat) (bs : List Byte) : List Byte :=
  (indexed (chunk 64 (bs.length / 64 + 1) bs)).flatMap fun u => xtsEnc kp (tweakOf ep (a + 64 * u.1)) u.2

/-- Count units under an epoch with no key (0x9300:04). -/
def countNoKey (n : Nat) (s : State) : State := { s with cust := { s.cust with noKeyReads := s.cust.noKeyReads + n } }

/-- An encrypted write inside one HBM block, of whole 64-byte units. -/
def xtsWriteIn (slot : Nat) (crc : Bool) (a : Nat) (bs : List Byte) (s : State) : State :=
  let k := slotOf s slot
  let b := a / 4096
  let r := blockOf s b
  match k.cur with
  | none => s
  | some cur =>
    if bs.length = 4096 then
      writeInBlock crc a (encryptUnits (xtsKeyAt s a cur) k.parity a bs) (setBlock b { r with ep := k.parity } s)
    else match rootKey k r.ep with
      | some key => writeInBlock crc a (encryptUnits (xtsKeyAt s a key) r.ep a bs) s
      | none =>
        let whole := List.replicate (a % 4096) 0 ++ bs ++ List.replicate (4096 - a % 4096 - bs.length) 0
        countNoKey 1 (writeInBlock crc (4096 * b) (encryptUnits (xtsKeyAt s a cur) k.parity (4096 * b) whole)
          (setBlock b { r with ep := k.parity } s))

/-- An encrypted write of whole 64-byte units under a slot's key. -/
def xtsWrite (slot : Nat) (crc : Bool) (a : Nat) (bs : List Byte) (s : State) : State :=
  (blockPieces (bs.length / 4096 + 2) a bs).foldl (fun s p => xtsWriteIn slot crc p.1 p.2 s) s

/-- Decrypt one unit from HBM: zeros, and one count, where its epoch has no key. -/
def xtsReadUnit (s : State) (slot : Nat) (a : Nat) : Option (List Byte) :=
  let r := blockOf s (a / 4096)
  (rootKey (slotOf s slot) r.ep).map fun k => xtsDec (xtsKeyAt s a k) (tweakOf r.ep a) (memRead s.mem a 64)

/-- Decrypt `n` bytes (whole units) from address `a` under a slot's keys. -/
def xtsRead (slot a n : Nat) (s : State) : List Byte × State :=
  let us := (List.range ((n + 63) / 64)).map fun i => xtsReadUnit s slot (a + 64 * i)
  (us.flatMap fun u => u.getD (List.replicate 64 0),
    countNoKey (us.countP fun u => u.isNone) (countHbm 0x040 a n s))

/-- Decrypt `n` bytes at any alignment. -/
def xtsReadAt (slot a n : Nat) (s : State) : List Byte × State :=
  let a0 := a / 64 * 64
  let (bs, s) := xtsRead slot a0 (a + n - a0) s
  ((bs.drop (a - a0)).take n, s)

/-- Bytes of package memory as they stand, an HBM read where they are in HBM. -/
def readStored (a n : Nat) (s : State) : List Byte × State := (memRead s.mem a n, countHbm 0x040 a n s)

/-! ### RAS events and failing rows (spec/10 R304 to R307) -/

/-- A RAS event: the record 0x8150:08 and its trace record. -/
def rasEvent (st pc bank row kind : Nat) (s : State) : State :=
  let r := packR 128 [(64, s.time.toNat), (4, st), (5, pc), (6, bank), (17, row), (8, kind)]
  trace 0x0B (hbmBlockNo st) 0 r { s with hbm := { s.hbm with lastRas := r } }

/-- The key of a row in a stack's row map. -/
def rowKey (pc bank row : Nat) : Nat := (pc * 64 + bank) * 2 ^ 17 + row

/-- The bank and row of an address (spec/10 R292). -/
def bankRow (a : Nat) : Nat × Nat := let u := pcOffset a / 1024; (u % 48, u / 48)

/-- A physical pseudo-channel is retired (spec/10 R307): its retirement waits its turn. -/
def retirePc (st pc : Nat) (s : State) : State :=
  let k := stackOf s st
  match (List.range 30).find? fun l => physPc k l = pc with
  | none => s
  | some l =>
    if k.retireQ.contains l || (k.fill.map fun f => f.1) = some l || k.losing.contains l then s
    else
      let s := updStack st (fun k => { k with retireQ := k.retireQ ++ [l] }) s
      rasEvent st pc 0 0 5 { s with hbm := { s.hbm with retired := s.hbm.retired + 1 } }

/-- A row is declared failing (spec/10 R304, Table HB-7). -/
def rowFailing (st pc bank row : Nat) (s : State) : State :=
  let k := stackOf s st
  let key := rowKey pc bank row
  let s := rasEvent st pc bank row 2 s
  match sget 0 key k.rows with
  | 0 =>
    if sget 0 (pc * 64 + bank) k.repairs < Config.repairResources && s.hbm.log.length < 1024 then
      updStack st (fun k => { k with rows := sput 0 key 1 k.rows,
                                     repairs := supd 0 (pc * 64 + bank) (· + 1) k.repairs }) s
    else retirePc st pc s
  | 1 => s
  | _ => retirePc st pc s

/-- The row that holds a 1 KiB unit (by number) is declared failing. -/
def unitFailing (u : Nat) (s : State) : State :=
  let a := 1024 * u
  match hbmStack a, logicalPc a with
  | some st, some l => rowFailing st (physPc (stackOf s st) l) (bankRow a).1 (bankRow a).2 s
  | _, _ => s

/-- The patrol period (0x8120:03, in seconds) in core cycles (spec/10 R300). -/
def patrolPeriod (s : State) : Nat := cfg s 0x8120 3 * 2000000000

/-- The table of correctable counts with room for row `key` of pseudo-channel `pc`: of 256 other rows, the one with the
oldest count goes (spec/10 R304). -/
def roomForRow (pc key : Nat) (t : Sparse (List Nat)) : Sparse (List Nat) :=
  let others := t.filter fun e => e.1 / 2 ^ 23 = pc && e.1 ≠ key
  let age (e : Nat × List Nat) : Nat := e.2.headD 0
  let oldest := others.foldl (fun (o : Option (Nat × List Nat)) e => match o with
    | none => some e
    | some x => if age e < age x then some e else some x) none
  match oldest with
  | some x => if 256 ≤ others.length then t.filter fun e => e.1 ≠ x.1 else t
  | none => t

/-- A corrected ECC event in the row of a 1 KiB unit: the events of one patrol period count towards the threshold
0x8120:01, for up to 256 rows of a physical pseudo-channel (spec/10 R304). -/
def unitCorrected (u : Nat) (s : State) : State :=
  let a := 1024 * u
  match hbmStack a, logicalPc a with
  | some st, some l =>
    let k := stackOf s st
    let pc := physPc k l
    let key := rowKey pc (bankRow a).1 (bankRow a).2
    let events := ((sget [] key k.correctable).filter fun c => s.clock < c + patrolPeriod s) ++ [s.clock]
    let table := roomForRow pc key k.correctable
    let s := updStack st (fun k => { k with correctable := sput [] key events table }) s
    let s := count (hbmBlockNo st) 0x004 1 s
    if cfg s 0x8120 1 ≤ events.length then
      unitFailing u (updStack st (fun k => { k with correctable := sput [] key [] k.correctable }) s)
    else s
  | _, _ => s

/-- ECC events that one block's read reports (spec/10 R304). -/
def eccEvents (env : ReadEnv) (b : Nat) (s : State) : State :=
  (List.range 4).foldl (fun s i =>
    let u := 4 * b + i
    let s := if env.corrected.contains u then unitCorrected u s else s
    if env.ecc.contains u then unitFailing u s else s) s

/-! ### Verified reads (spec/10 R297) -/

/-- The stack of a block, 0 outside HBM. -/
def blockStack (b : Nat) : Nat := (hbmStack (4096 * b)).getD 0

/-- Read a block with verification: whether it is a block error, and the state. -/
def verifyBlock (env : ReadEnv) (b : Nat) (s : State) : Bool × State :=
  let r := blockOf s b
  let blk := hbmBlockNo (blockStack b)
  if noAccess s (4096 * b) then (true, s)
  else if !r.v then
    (true, eccEvents env b (count blk 0x046 1 { s with hbm := { s.hbm with unverifiable := s.hbm.unverifiable + 1 } }))
  else if r.bad then (true, eccEvents env b s)
  else if env.mismatch.contains b || crc64 (blockBytes s b) ≠ r.crc then
    let s := { s with hbm := { s.hbm with errors := s.hbm.errors + 1, journal := s.hbm.journal ++ [4096 * b] } }
    let s := setBlock b { r with bad := true } (count blk 0x045 1 s)
    let pc := match logicalPc (4096 * b) with | some l => physPc (stackOf s (blockStack b)) l | none => 0
    let s := rasEvent (blockStack b) pc (bankRow (4096 * b)).1 (bankRow (4096 * b)).2 1 s
    let hit := (List.range 4).any fun i => env.ecc.contains (4 * b + i) || env.corrected.contains (4 * b + i)
    (true, if hit then eccEvents env b s
           else (List.range 4).foldl (fun s i => unitFailing (4 * b + i) s) s)
  else if env.transient.contains b then
    (false, eccEvents env b (count blk 0x044 1 { s with hbm := { s.hbm with cured := s.hbm.cured + 1 } }))
  else (false, eccEvents env b s)

/-- A read without verification of a range: the ECC events of its HBM blocks are reported all the same (spec/10 R304). -/
def eccRange (env : ReadEnv) (a n : Nat) (s : State) : State :=
  if n = 0 || (hbmStack a).isNone then s
  else (List.range ((a + n - 1) / 4096 - a / 4096 + 1)).foldl (fun s i => eccEvents env (a / 4096 + i) s) s

/-- Verify every block that a range touches: whether any is a block error. -/
def verifyRange (env : ReadEnv) (a n : Nat) (s : State) : Bool × State :=
  if n = 0 then (false, s)
  else (List.range ((a + n - 1) / 4096 - a / 4096 + 1)).foldl (fun p i =>
    let (e, s) := verifyBlock env (a / 4096 + i) p.2
    (p.1 || e, s)) (false, s)

/-! ### Dirty logs and host writes (spec/14 R419, R420) -/

/-- A partition's state. -/
def partOf (s : State) (p : Nat) : Partition := sget {} p s.front.parts

/-- Apply `f` to a partition's state. -/
def updPart (p : Nat) (f : Partition → Partition) (s : State) : State :=
  { s with front := { s.front with parts := supd {} p f s.front.parts } }

/-- Set bit `i` of the bitmap at package address `m`. -/
def setMapBit (m i : Nat) (s : State) : State :=
  let a := m + i / 8
  let v := memByte s.mem a ||| BitVec.ofNat 8 (2 ^ (i % 8))
  writeStored false a [v] s

/-- The first bit of window `w` in the HBM bitmap. -/
def windowBit (s : State) (p w : Nat) : Nat :=
  (List.range w).foldl (fun n i => n + (windowOf s p i).2 / 0x10000) 0

/-- Log a write of `n` bytes at package address `a` for partition `p`. -/
def logMem (p a n : Nat) (s : State) : State :=
  let q := partOf s p
  if q.logState = 0 || n = 0 then s
  else
    let m := if q.logState = 1 then bits q.logParams.toNat 320 48 else bits q.logParams.toNat 368 48
    (List.range ((a + n - 1) / 0x10000 - a / 0x10000 + 1)).foldl (fun s i =>
      let x := (a / 0x10000 + i) * 0x10000
      match (List.range 16).find? fun w => (windowOf s p w).1 ≤ x && x < (windowOf s p w).1 + (windowOf s p w).2 with
      | none => s
      | some w => setMapBit m (windowBit s p w + (x - (windowOf s p w).1) / 0x10000) s) s

/-- Log a write of `n` bytes at host address `a` for partition `p`. -/
def logHost (p a n : Nat) (s : State) : State :=
  let q := partOf s p
  if q.logState = 0 || n = 0 then s
  else
    let base := bits q.logParams.toNat 0 64
    let len := bits q.logParams.toNat 64 64
    let m := if q.logState = 1 then bits q.logParams.toNat 416 48 else bits q.logParams.toNat 464 48
    if base ≤ a && a + n ≤ base + len then
      (List.range ((a + n - 1 - base) / 0x10000 - (a - base) / 0x10000 + 1)).foldl (fun s i =>
        setMapBit m ((a - base) / 0x10000 + i) s) s
    else updPart p (fun q => { q with logOutside := q.logOutside + 1 }) s

/-- A write to host memory on behalf of partition `p`, with the requester ID of its function (spec/14 R393), counted as
data sent (spec/16 Table PC-2). -/
def hostWrite (p a : Nat) (bs : List Byte) (s : State) : State :=
  emit (.hostWrite (BitVec.ofNat 6 p) a bs) (count 0xB0 0x043 (dataUnits bs.length) (logHost p a bs.length s))

/-- Count `n` bytes that the host answered (spec/16 Table PC-2). -/
def countHostRead (n : Nat) (s : State) : State := count 0xB0 0x042 (dataUnits n) s

/-- The bytes that the host answers to a read, none where it answers any of them with an error. -/
def hostRead (h : HostMem) (a n : Nat) : Option (List Byte) :=
  (List.range n).mapM fun i => (h.find? fun c => c.1 = a + i).map fun c => c.2

/-- The bytes, at most `n`, that the host answers before its first error. -/
def hostPrefix (h : HostMem) (a n : Nat) : List Byte :=
  (((List.range n).map fun i => (h.find? fun c => c.1 = a + i).map fun c => c.2).takeWhile Option.isSome).filterMap id

/-- An encrypted write on behalf of partition `p`, logged. -/
def xtsWriteFor (p slot : Nat) (crc : Bool) (a : Nat) (bs : List Byte) (s : State) : State :=
  logMem p a bs.length (xtsWrite slot crc a bs s)

/-- Read a GCM side unit by unit until `len` plaintext bytes are taken (spec/13 R380): for each unit its length and
its plaintext (none where the unit is stale), and the number of units whose tag or order failed. -/
def gcmTake (s : State) (slot : Nat) (gen : BitVec 16) :
    Nat → Nat → Nat → List Byte → List (Nat × Option (List Byte)) × Nat
  | 0, _, _, _ => ([], 0)
  | fuel + 1, seq, len, bytes =>
    if len = 0 then ([], 0)
    else
      let d := ((fld (BitVec.ofNat 384 (leNat (bytes.take 48))) 188 6).toNat + 1) * 64
      if len < d || bytes.length < 64 + d then ([(min len d, some (List.replicate (min len d) 0))], 1)
      else
        let r := gcmTake s slot gen fuel (seq + 1) (len - d) (bytes.drop (64 + d))
        match (gcmOpen s slot gen seq bytes).1 with
        | none => ((d, none) :: r.1, r.2)
        | some (good, p) => ((d, some p) :: r.1, (if good then 0 else 1) + r.2)

/-- The plaintext of taken pieces, zeros where stale. -/
def piecesBytes (ps : List (Nat × Option (List Byte))) : List Byte :=
  ps.flatMap fun p => p.2.getD (List.replicate p.1 0)

/-- How many pieces are stale. -/
def piecesStale (ps : List (Nat × Option (List Byte))) : Nat := ps.countP fun p => p.2.isNone

/-- The length of a GCM side of `len` plaintext bytes (spec/13 R380). -/
def gcmLen (len : Nat) : Nat := len + 64 * ((len + 4095) / 4096)

/-- Read `len` plaintext bytes as GCM units from host memory under a slot and generation: whether any unit was stale,
whether any failed (a host error counts as one failure, spec/14 R393), and the plaintext. -/
def gcmFetch (h : HostMem) (a len slot : Nat) (gen : BitVec 16) (s : State) : (Bool × Bool × List Byte) × State :=
  let r := gcmTake s slot gen (len / 64 + 1) 0 len (hostPrefix h a (2 * len))
  let stale := piecesStale r.1
  ((stale ≠ 0, r.2 ≠ 0, piecesBytes r.1), countGcmFail r.2 (countStale stale (countHostRead (gcmLen len) s)))

/-- Seal plaintext as GCM units of 4,096 bytes with a shorter last unit, under a slot's current key (spec/13 R380):
none where the encrypting unit has no nonce left or the slot no key. -/
def gcmSeal (unit slot : Nat) (bs : List Byte) (s : State) : Option (List Byte) × State :=
  let k := slotOf s slot
  match k.cur with
  | none => (none, s)
  | some key =>
    (indexed (chunk 4096 (bs.length / 4096 + 1) bs)).foldl (fun acc u =>
      match acc with
      | (none, s) => (none, s)
      | (some out, s) => match nextNonce unit s with
        | (none, s) => (none, s)
        | (some nonce, s) => (some (out ++ gcmUnit (gcmKeyAt s key) nonce u.1 slot k.gen k.parity u.2), s))
      (some [], s)

end Sys2Proof.Machine
end

