-- ==== Sys2Proof/Machine/Common.lean ====
section
/-! DEFINITION. Operations that several families share: logical device numbers, steep engine transitions, failures of
the present step, completions of queue commands, fault records, and interrupts. -/

namespace Sys2Proof.Machine

/-! ### Logical device numbers (spec/12 R348, spec/02 R38) -/

/-- The mapped LDNs with their SNAs, lowest first. -/
def mappedLdns (s : State) : List (Nat × Nat) :=
  s.dict.active.filterMap fun e =>
    if 0x710001 ≤ e.1 && e.1 < 0x710800 && 1 ≤ e.1 % 256 && e.1 % 256 ≤ 128 then
      some ((e.1 / 256 - 0x7100) * 128 + e.1 % 256 - 1, e.2) else none

/-- The SNA that an LDN maps to, none where unmapped. -/
def snaOfLdn (s : State) (l : Nat) : Option Nat := ((mappedLdns s).find? fun e => e.1 = l).map fun e => e.2

/-- The LDN mapped to this module. -/
def ownLdn (s : State) : Option Nat := ((mappedLdns s).find? fun e => e.2 = s.fab.sna.toNat).map fun e => e.1

/-- The value of 0x7000:02. -/
def ownLdnD (s : State) : Nat := (ownLdn s).getD 0xFFFF

/-- The LDNs of the primary master and the backups with their ranks (0x4013), absent ones left out. -/
def masterLdns (s : State) : List (Nat × Nat) :=
  ((List.range 3).map fun r => (r, cfg s 0x4013 (r + 1))).filter fun e => e.2 ≠ 0xFFFF

/-- This module's rank among the steep masters. -/
def ownRank (s : State) : Option Nat :=
  match ownLdn s with
  | none => none
  | some l => ((masterLdns s).find? fun e => e.2 = l).map fun e => e.1

/-- This module is the primary steep master. -/
def isPrimary (s : State) : Bool := ownRank s == some 0

/-! ### The steep engine (spec/02 Table ST-4) -/

/-- The code of an engine state at 0x4021:01. -/
def engineCode : EngineState → Nat
  | .off => 0 | .listen => 1 | .standby => 2 | .locked => 3 | .stopped => 4

/-- Write the steep engine's fault record 0x4021:02. -/
def engineRecord (reason : Nat) (s : State) : State :=
  { s with steep := { s.steep with faultRec := packR 128 [(64, s.time.toNat), (8, reason)] } }

/-- Move the steep engine to a state, with a reason (0 none): the exits from Locked, the fault record of a fault, and
the trace record. -/
def setEngine (e : EngineState) (reason : Nat) (s : State) : State :=
  let old := s.steep.engine
  if old = e then s
  else
    let s := if reason = 0 then s else engineRecord reason s
    let s := { s with steep := { s.steep with
      engine := e, exits := if old = .locked then s.steep.exits + 1 else s.steep.exits } }
    trace 0x06 0xFF 0 (BitVec.ofNat 128 (engineCode old + 256 * engineCode e + 65536 * reason)) s

/-- Enter Listen (spec/02 Table ST-4). -/
def enterListen (reason : Nat) (s : State) : State :=
  let s := setEngine .listen reason s
  { s with steep := { s.steep with listenAt := s.clock, lastWave := s.clock, wavesIn := 0, quietRec := false,
                                   stepped := false, offRun := 0, wave := none } }

/-- The steep boundaries are known: Locked, Standby, or Listen once the time is set from a wave (spec/14 R500). -/
def boundariesKnown (s : State) : Bool :=
  match s.steep.engine with
  | .locked => true
  | .standby => true
  | .listen => s.timeKnown && 1 ≤ s.steep.wavesIn
  | .off => false
  | .stopped => false

/-- The boundary of a steep at or after the present one, as far as its length is known: later steeps are taken at the
length of the last known one (DESIGN CHOICE, log entry 14). -/
def boundaryOf (s : State) (e : BitVec 64) : Int :=
  match ahead e s.steep.k with
  | 0 => s.steep.b.toInt
  | n + 1 => s.steep.b.toInt + (s.steep.len * cyclesPerUs + n * (s.steep.lenNext * cyclesPerUs) : Nat)

/-- B(e) lies at least 20 µs after the time `t`. -/
def boundary20us (s : State) (t : BitVec 64) (e : BitVec 64) : Bool :=
  ahead e s.steep.k ≠ 0 && t.toInt + 40000 ≤ boundaryOf s e

/-- B(e) lies at least 20 µs ahead. -/
def atLeast20us (s : State) (e : BitVec 64) : Bool := boundary20us s s.time e

/-- Steep `e` has begun. -/
def hasBegun (s : State) (e : BitVec 64) : Bool := ahead e s.steep.k = 0

/-- The module is at a steep boundary: no time has passed since it crossed into the present steep (spec/00 R10). -/
def atBoundary (s : State) : Bool := boundariesKnown s && s.steep.crossedAt == some s.clock

/-- The step length S. -/
def stepLen (s : State) : Nat := cfg s 0x4012 1

/-- The present steep is the commit steep of its step. -/
def isCommitSteep (s : State) : Bool := s.steep.sidx + 1 == stepLen s

/-- A failure of the present step with a FAIL bit (spec/02 Table ST-2): 5 overrun, 4 late or missing, 3 CHECKSUM,
2 dual-path, 1 time or wave, 0 other hardware. -/
def failStep (b : Nat) (s : State) : State :=
  { s with steep := { s.steep with fail := setBit s.steep.fail b true, bad := true } }

/-! ### Queue commands and their completions (spec/14 R407, R410) -/

/-- The command of an id, if it is accepted and not completed. -/
def cmdOf (s : State) (id : Nat) : Option Cmd := s.front.cmds.find? fun c => c.id = id

/-- Complete a command: it leaves the accepted commands, and its completion waits to be written. `copied` is false
where an output copy must come first. -/
def finishWith (copied : Bool) (id : Nat) (status detail : Nat) (info : Nat) (s : State) : State :=
  match cmdOf s id with
  | none => s
  | some c =>
    let r : Compl := { cmd := c.id, stamp := c.stamp, queue := c.queue, part := c.part, tag := fld c.word 8 16, pgen := c.pgen, sqhead := c.sqhead,
                       status := BitVec.ofNat 8 status, detail := BitVec.ofNat 8 detail,
                       info := BitVec.ofNat 64 info, copied := copied }
    { s with front := { s.front with cmds := s.front.cmds.filter fun x => x.id ≠ id,
                                     ready := s.front.ready ++ [r] } }

/-- Complete a command that writes nothing before its completion. -/
def finish (id : Nat) (status detail info : Nat) (s : State) : State := finishWith true id status detail info s

/-- Status codes (spec/14 Table HQ-11). -/
def stOk : Nat := 0x00
def stStepRepeated : Nat := 0x01
def stBaseMismatch : Nat := 0x02
def stSlotTaken : Nat := 0x03
def stQuota : Nat := 0x04
def stKeyRevoked : Nat := 0x05
def stStale : Nat := 0x06
def stChecksum : Nat := 0x07
def stOverrun : Nat := 0x08
def stFormat : Nat := 0x09
def stAdapterInvalid : Nat := 0x0A
def stNotPermitted : Nat := 0x0B
def stTimeout : Nat := 0x0C
def stShutdown : Nat := 0x0D
def stConfigRejected : Nat := 0x0E

/-- Field readers of a command (spec/14 Table HQ-8). -/
def cOpcode (w : BitVec 512) : Nat := (fld w 0 8).toNat
def cAddr0 (w : BitVec 512) : Nat := (fld w 64 64).toNat
def cAddr1 (w : BitVec 512) : Nat := (fld w 128 64).toNat
def cSteep (w : BitVec 512) : BitVec 64 := fld w 192 64
def cLen (w : BitVec 512) : Nat := (fld w 256 32).toNat
def cAdid (w : BitVec 512) : BitVec 24 := fld w 288 24
def cSlot (w : BitVec 512) : Nat := (fld w 312 13).toNat
def cGen (w : BitVec 512) : BitVec 16 := fld w 325 16
def cP0 (w : BitVec 512) : Nat := (fld w 352 32).toNat
def cP1 (w : BitVec 512) : Nat := (fld w 384 64).toNat
def cP2 (w : BitVec 512) : Nat := (fld w 448 64).toNat

/-! ### Fault records (spec/17 Table SR-6) -/

/-- Write a fault record: 0xF020:02 and the fault log, which holds the last 64 records. -/
def faultRecord (cls cause block value : Nat) (s : State) : State :=
  let r := packR 128 [(64, s.time.toNat), (8, cls), (8, cause), (8, block), (8, s.boot.stage), (16, value)]
  let log := s.boot.faultLog ++ [r]
  { s with boot := { s.boot with lastFault := r, faultLog := log.drop (log.length - 64) } }

/-- Start-up stops at a stage (spec/17 R467): the stage reads 2, every die rail but that of HX is held off, and
FAULT_L reports the stop. -/
def startupStop (cause value : Nat) (s : State) : State :=
  let s := faultRecord 1 cause 0xFF value s
  { s with boot := { s.boot with status := 2, rails := 0, faultL := false } }

/-! ### Interrupts -/

/-- Send an MSI-X message, or set its pending bit where its table entry is masked (spec/14 R392, Table HQ-2). -/
def sendMsix (p : Nat) (v : BitVec 8) (s : State) : State :=
  if bit (sget 0 v.toNat (partOf s p).msix) 96 then
    updPart p (fun q => { q with msixPending := setBit q.msixPending v.toNat true }) s
  else count 0xB0 0x047 1 (emit (.msix (BitVec.ofNat 6 p) v) s)

end Sys2Proof.Machine
end

