-- ==== Sys2Proof/Machine/Tenancy.lean ====
section
/-! DEFINITION. What the front end and the tenancy rules share: the queue command at the head, adapter descriptors and
compute images (spec/06 R170 to R175), shard maps (spec/09 R254 to R258), generations of the base (spec/11 R328, R332),
quotas (spec/14 R403) and which adapters and sequences admitted rows name. -/

namespace Sys2Proof.Machine

open Host (Outcome)

/-! ### The command at the head of the front end (spec/14 R407) -/

/-- Apply `f` to the front end's part of the state. -/
def updFront (f : Front → Front) (s : State) : State := { s with front := f s.front }

/-- The oldest accepted command other than SUBMIT that no unit has taken up, where its opcode is `op`. -/
def headCmd (s : State) (op : Nat) : Option Cmd :=
  match s.front.cmds.find? fun c => !c.taken && cOpcode c.word ≠ 1 with
  | some c => if cOpcode c.word = op then some c else none
  | none => none

/-- A row that processes the queue command at the head. -/
def onHead (op : Nat) (s : State) (f : Cmd → State → State) : Outcome State Fault Refusal :=
  match headCmd s op with
  | none => done s
  | some c => done (f c s)

/-- A unit takes up a command, which completes later. -/
def takeUp (id : Nat) (s : State) : State :=
  updFront (fun q => { q with cmds := q.cmds.map fun c => if c.id = id then { c with taken := true } else c }) s

/-- The lowest number from `n` upwards that a map does not list. -/
def firstFree {α : Type} : Nat → Sparse α → Nat
  | n, [] => n
  | n, (k, _) :: m => if k < n then firstFree n m else if k = n then firstFree (n + 1) m else n

/-- `cnt` unlisted numbers from `n` upwards, lowest first. -/
def freeNumbers {α : Type} : Nat → Nat → Nat → Sparse α → List Nat
  | 0, _, _, _ => []
  | fuel + 1, cnt, n, m =>
    if cnt = 0 then []
    else let k := firstFree n m; k :: freeNumbers fuel (cnt - 1) (k + 1) m

/-! ### Adapter descriptors (spec/06 Table AD-2) -/

/-- Descriptor `d` of the table; 0 is a free entry. -/
def descOf (s : State) (d : Nat) : BitVec 1024 := sget 0 d s.ad.descs

/-- Apply `f` to the adapters' part of the state. -/
def updAd (f : Adapters → Adapters) (s : State) : State := { s with ad := f s.ad }

/-- Replace descriptor `d`. -/
def setDesc (d : Nat) (w : BitVec 1024) (s : State) : State := updAd (fun a => { a with descs := sput 0 d w a.descs }) s

/-- Field readers of a descriptor. -/
def dAdid (d : BitVec 1024) : BitVec 24 := fld d 0 24
def dState (d : BitVec 1024) : BitVec 2 := fld d 24 2
def dReason (d : BitVec 1024) : BitVec 2 := fld d 26 2
def dLowRank (d : BitVec 1024) : Bool := bit d 28
def dScale (d : BitVec 1024) : Bool := bit d 29
def dExpert (d : BitVec 1024) : Bool := bit d 30
def dCons (d : BitVec 1024) : Bool := bit d 31
def dShare (d : BitVec 1024) : Bool := bit d 32
def dRole (d : BitVec 1024) : Bool := bit d 33
def dRank (d : BitVec 1024) : Nat := (fld d 34 8).toNat + 1
def dRule (d : BitVec 1024) : Nat := (fld d 47 4).toNat
def dPart (d : BitVec 1024) : Nat := (fld d 51 6).toNat
def dSlot (d : BitVec 1024) : Nat := (fld d 64 13).toNat
def dKgen (d : BitVec 1024) : BitVec 16 := fld d 80 16
def dBaseGen (d : BitVec 1024) : BitVec 16 := fld d 96 16
def dLfirst (d : BitVec 1024) : Nat := (fld d 128 12).toNat
def dLcount (d : BitVec 1024) : Nat := (fld d 140 12).toNat + 1
def dStepc (d : BitVec 1024) : BitVec 32 := fld d 152 32
def dMmap (d : BitVec 1024) : Nat := (fld d 320 48).toNat
def dLtab (d : BitVec 1024) : Nat := (fld d 384 48).toNat
def dOwnMap (d : BitVec 1024) : Nat := (fld d 512 48).toNat

/-- Compute-image page `r` of a descriptor. -/
def dPage (d : BitVec 1024) (r : Bool) : Nat := if r then (fld d 256 48).toNat else (fld d 192 48).toNat

/-- The entry of a resident adapter. -/
def didxOf (s : State) (adid : BitVec 24) : Option Nat :=
  if adid = 0 then none else (s.ad.descs.find? fun e => dAdid e.2 = adid).map fun e => e.1

/-- The entry of an adapter that partition `p` created (spec/06 R170). -/
def didxFor (s : State) (p : Nat) (adid : BitVec 24) : Option Nat :=
  match didxOf s adid with
  | none => none
  | some d => if dPart (descOf s d) = p then some d else none

/-- Adapter states (Table AD-2 STATE). -/
def adInvalid : BitVec 2 := 0
def adFrozen : BitVec 2 := 1
def adTraining : BitVec 2 := 2
def adServing : BitVec 2 := 3

/-! ### Matrix maps and slices (spec/06 R174, R175, spec/09 R255) -/

/-- The matrix map entry of a layer and a projection, 0 for a layer outside the adapter's. -/
def matEntry (s : State) (d : BitVec 1024) (layer proj : Nat) : BitVec 128 :=
  if dLfirst d ≤ layer && layer < dLfirst d + dLcount d then
    BitVec.ofNat 128 (leNat (memRead s.mem (dMmap d + 16 * (16 * (layer - dLfirst d) + proj)) 16))
  else 0

def mPres (m : BitVec 128) : Bool := bit m 0
def mNtn (m : BitVec 128) : Nat := (fld m 13 12).toNat + 1
def mKtn (m : BitVec 128) : Nat := (fld m 25 7).toNat + 1
def mAoff (m : BitVec 128) : Nat := (fld m 32 32).toNat
def mBoff (m : BitVec 128) : Nat := (fld m 64 32).toNat
def mSoff (m : BitVec 128) : Nat := (fld m 96 32).toNat

/-- The number of rank passes of a rank (spec/06 Table AD-1). -/
def passes (r : Nat) : Nat := (r + 63) / 64

/-- The width of pass `p` (spec/06 Table AD-1). -/
def passWidth (r p : Nat) : Nat := if p + 1 < passes r then 64 else r - 64 * (passes r - 1)

/-- The A slice of K tile `kt` and pass `p`: address and bytes (spec/06 R175). -/
def aSlice (g : Nat) (m : BitVec 128) (r kt p : Nat) : Nat × Nat :=
  (g + 64 * mAoff m + 384 * (kt * r + 64 * p), 384 * passWidth r p)

/-- The B slice of N tile `nt` and pass `p`. -/
def bSlice (g : Nat) (m : BitVec 128) (r nt p : Nat) : Nat × Nat :=
  (g + 64 * mBoff m + 512 * (nt * r + 64 * p), 512 * passWidth r p)

/-- The scale slice of N tile `nt`. -/
def scaleSlice (g : Nat) (m : BitVec 128) (nt : Nat) : Nat × Nat := (g + 64 * mSoff m + 512 * nt, 512)

/-- The blocks (by number) that hold a byte of a range. -/
def blocksOf (r : Nat × Nat) : List Nat :=
  if r.2 = 0 then [] else (List.range ((r.1 + r.2 - 1) / 4096 - r.1 / 4096 + 1)).map fun i => r.1 / 4096 + i

/-- Every slice of one page of a descriptor's present matrices (spec/13 R382): the A, B and scale slices of every pass,
and the expert tiles. -/
def pageSlices (s : State) (d : BitVec 1024) (g : Nat) : List (Nat × Nat) :=
  (List.range (dLcount d)).flatMap fun l => (List.range 16).flatMap fun proj =>
    let m := matEntry s d (dLfirst d + l) proj
    if mPres m then
      (if dLowRank d then
        (List.range (passes (dRank d))).flatMap fun p =>
          (List.range (mKtn m)).map (fun kt => aSlice g m (dRank d) kt p) ++
          (List.range (mNtn m)).map (fun nt => bSlice g m (dRank d) nt p)
       else []) ++
      (if dScale d then (List.range (mNtn m)).map (fun nt => scaleSlice g m nt) else []) ++
      (if dExpert d then [(g + 64 * mAoff m, 24576 * (mKtn m * (4 * mNtn m)))] else [])
    else []

/-! ### Shard maps (spec/09 Tables RU-2 and RU-3) -/

/-- The header of a descriptor's owner shard map. -/
def mapHeader (s : State) (d : BitVec 1024) : BitVec 2048 :=
  BitVec.ofNat 2048 (leNat (memRead s.mem (dOwnMap d) 256))

/-- Shard entries of the map. -/
def mapCount (s : State) (d : BitVec 1024) : Nat := (fld (mapHeader s d) 32 16).toNat

/-- Shard entry `j`. -/
def mapEntry (s : State) (d : BitVec 1024) (j : Nat) : BitVec 512 :=
  BitVec.ofNat 512 (leNat (memRead s.mem (dOwnMap d + 256 + 64 * j) 64))

/-- LDN `l` is a holder. -/
def isHolder (s : State) (d : BitVec 1024) (l : Nat) : Bool := bit (mapHeader s d) (1024 + l)

/-- The holder set. -/
def holders (s : State) (d : BitVec 1024) : List Nat :=
  let h := mapHeader s d
  (List.range 1024).filter fun l => bit h (1024 + l)

def eMirr (e : BitVec 512) : Bool := bit e 25
def eMproj (e : BitVec 512) : Nat := (fld e 26 4).toNat
def ePart (e : BitVec 512) : Nat := (fld e 30 2).toNat
def eProj (e : BitVec 512) : Nat := (fld e 32 4).toNat
def eLayer (e : BitVec 512) : Nat := (fld e 36 12).toNat
def eCol0 (e : BitVec 512) : Nat := (fld e 336 24).toNat
def eCols (e : BitVec 512) : Nat := (fld e 360 24).toNat + 1
def eOldn (e : BitVec 512) : Nat := (fld e 396 10).toNat
def eKldn (e : BitVec 512) : Nat := (fld e 406 10).toNat
def eOaddr (e : BitVec 512) : Nat := (fld e 416 48).toNat
def eKaddr (e : BitVec 512) : Nat := (fld e 464 48).toNat

/-- The rows of a part (spec/09 Table RU-1); K of an extra expert is its K tiles of 192. -/
def partRows (s : State) (d : BitVec 1024) (layer proj part : Nat) : Nat :=
  match part with
  | 2 => 1
  | 3 => 192 * mKtn (matEntry s d layer proj)
  | _ => dRank d

/-- Bytes of an owner frame's accumulator and of one page (spec/09 R258). -/
def frameA (n : Nat) : Nat := 4096 * ((4 * n + 4095) / 4096)
def frameQ (n : Nat) : Nat := 4096 * ((2 * n + 4095) / 4096 + (4 * n + 4095) / 4096)

/-- The frame of shard entry `e` on this module: address and bytes, where this module owns or keeps it. -/
def frameHere (s : State) (d : BitVec 1024) (e : BitVec 512) : Option (Nat × Nat) :=
  let n := partRows s d (eLayer e) (eProj e) (ePart e) * eCols e
  if some (eOldn e) = ownLdn s then some (eOaddr e, frameA n + 2 * frameQ n)
  else if some (eKldn e) = ownLdn s then some (eKaddr e, 2 * frameQ n)
  else none

/-- Every frame of a descriptor's map that lies on this module. -/
def framesHere (s : State) (d : BitVec 1024) : List (Nat × Nat) :=
  (List.range (mapCount s d)).filterMap fun j => frameHere s d (mapEntry s d j)

/-! ### Base generations (spec/11 R328, R332, spec/06 R199) -/

/-- The generation to which a request of partition `p` binds now; none for a partition that selects a trial base
that is not loaded. -/
def bindGen (s : State) (p : Nat) : Option (BitVec 16) :=
  if cfg s 0x8330 (p + 1) = 1 then (if s.leaf.trial.state = 2 then some s.leaf.trial.gen else none)
  else some s.leaf.activeGen

/-- A generation still in use as active or retained (spec/06 R172). -/
def genKnown (s : State) (g : BitVec 16) : Bool :=
  g ≠ 0 && (g = s.leaf.activeGen || g = s.leaf.retainedGen)

/-! ### Admitted rows -/

/-- The segment table of group `g` of partition `p` in force, and the one sorted for the next steep. -/
def tableOf (s : State) (p g : Nat) : Option Table := sget none (4 * p + g) s.ad.tables
def nextTableOf (s : State) (p g : Nat) : Option Table := sget none (4 * p + g) s.ad.nextTables

/-- An admitted row names the adapter (spec/06 R177): rows of a table in force or sorted for a later steep. -/
def adapterNamed (s : State) (adid : BitVec 24) : Bool :=
  (s.ad.tables ++ s.ad.nextTables).any fun e => match e.2 with
    | none => false
    | some t => t.segs.any fun g => g.adid = adid

/-- An admitted request names sequence `q` of partition `p`. -/
def seqNamed (s : State) (p q : Nat) : Bool :=
  s.ad.requests.any fun r => r.part.toNat = p && r.seq.toNat = q && r.steep.isSome

/-! ### Quotas (spec/14 R403, R404) -/

/-- Usage of a quota kind 0 to 4 by partition `p`. -/
def usage (s : State) (p kind : Nat) : Nat :=
  match kind with
  | 0 => s.ad.descs.countP fun e => dPart e.2 = p && dAdid e.2 ≠ 0
  | 1 => s.red.shards.countP fun e => match e.2 with
      | some x => dPart (descOf s x.didx.toNat) = p
      | none => false
  | 2 => (partOf s p).kv.seqs.countP fun e => e.2.state ≠ .free
  | 3 => s.cust.slots.countP fun e => holdsSlot s p e.1 && e.2.state ≠ .free && e.2.state ≠ .retired
  | _ => ((windowsOf s p).foldl (fun n w => n + w.2) 0 +
      (if s.leaf.trial.state ≠ 0 && s.leaf.trial.owner.toNat = p
       then 2 ^ 32 * s.leaf.trial.extents.length else 0)) / 0x100000

/-- An allocation of `n` of a kind is refused with QUOTA: the quota is reached, or the partition is over quota. -/
def quotaFull (s : State) (p kind n : Nat) : Bool :=
  bit (partOf s p).overBits kind || cfg s (0x3400 + kind) (p + 1) < usage s p kind + n

/-- The bits of the kinds in which a partition's usage exceeds its quota. -/
def overNow (s : State) (p : Nat) : BitVec 8 :=
  (List.range 5).foldl (fun b k => if cfg s (0x3400 + k) (p + 1) < usage s p k then setBit b k true else b) 0

end Sys2Proof.Machine
end

