-- ==== Sys2Proof/Machine/Kv.lean ====
section
/-! DEFINITION. The KV cache (spec/07 R203 to R219): the region's layout, chunks, sequences, the prompt tree, and the
queue commands KV.OPEN, KV.FORK, KV.CLOSE and KV.READ. The sequence table, page tables, chunk records and tree table
stand in `Kv`, not in bytes of the region, whose table formats the spec does not give (DESIGN CHOICE, log entry 18). -/

namespace Sys2Proof.Machine

open Host (Outcome)

/-- Apply `f` to a partition's KV cache. -/
def updKv (p : Nat) (f : Kv → Kv) (s : State) : State := updPart p (fun q => { q with kv := f q.kv }) s

/-- A partition's KV cache. -/
def kvOf (s : State) (p : Nat) : Kv := (partOf s p).kv

/-- The page and the tail of chunk `n` and layer `l`, and the row of a position and layer in open buffer `b`. -/
def pageAddr (s : State) (p n l : Nat) : Nat := frameBase s p + (n * kvL s p + l) * pageBytes s p
def tailAddr (s : State) (p n l : Nat) : Nat := tailBase s p + (n * kvL s p + l) * tailBytes s p
def openRow (s : State) (p b pos l : Nat) : Nat :=
  bufBase s p + ((b - 1) * 16 * kvL s p + pos * kvL s p + l) * openRowBytes s p

/-! ### Chunks and buffers (spec/07 R204, R212, R213) -/

/-- Free chunks (0x250A). -/
def freeChunks (s : State) (p : Nat) : Nat := chunkCap s p - (kvOf s p).chunks.length

/-- Drop one reference to a chunk: at 0 it returns to the free pool, unless a scrub still has to pass over it. -/
def dropChunk (c : Nat) (k : Kv) : Kv :=
  let r := sget {} c k.chunks
  if r.refs ≤ 1 then
    { k with chunks := sput {} c (if r.scrub then { slot := r.slot, gen := r.gen, scrub := true } else {}) k.chunks }
  else { k with chunks := sput {} c { r with refs := r.refs - 1 } k.chunks }

/-- Raise the reference count of a chunk. -/
def holdChunk (c : Nat) (k : Kv) : Kv := { k with chunks := supd {} c (fun r => { r with refs := r.refs + 1 }) k.chunks }

/-- Drop one use of an open buffer. -/
def dropBuffer (b : Nat) (k : Kv) : Kv := { k with buffers := supd 0 b (· - 1) k.buffers }

/-- The lowest free open buffer, numbered from 1. -/
def freeBuffer (s : State) (p : Nat) : Option Nat :=
  let b := firstFree 1 (kvOf s p).buffers
  if b ≤ bufCap s p then some b else none

/-- The lowest free sequence handle, numbered from 1. -/
def freeHandle (s : State) (p : Nat) : Option Nat :=
  let h := firstFree 1 (kvOf s p).seqs
  if h ≤ seqCap s p then some h else none

/-- A sequence. -/
def seqOf (s : State) (p q : Nat) : Sequence := sget {} q (kvOf s p).seqs

/-- Replace a sequence. -/
def setSeq (q : Nat) (x : Sequence) (k : Kv) : Kv := { k with seqs := sput {} q x k.seqs }

/-- Evict tree entries, oldest last match first, ties to the lower chunk number, while the free chunks are below the
watermark (spec/07 R217). -/
def evictTree (p : Nat) : Nat → State → State
  | 0, s => s
  | fuel + 1, s =>
    let k := kvOf s p
    if cfg s 0x2508 (p + 1) ≤ freeChunks s p then s
    else
      let best := k.tree.foldl (fun (b : Option TreeEntry) e => match b with
        | none => some e
        | some x => if e.lastMatch.toNat < x.lastMatch.toNat ||
            (e.lastMatch = x.lastMatch && e.chunk < x.chunk) then some e else some x) none
      match best with
      | none => s
      | some e =>
        let s := updKv p (fun k => dropChunk e.chunk { k with tree := k.tree.erase e }) s
        evictTree p fuel { s with prog := { s.prog with kvEvicted := s.prog.kvEvicted + 1 } }

/-- Evict below the watermark. -/
def evict (p : Nat) (s : State) : State := evictTree p (kvOf s p).tree.length s

/-! ### Prompt hashes (spec/07 R214) -/

/-- The hash key K_h of a root key. -/
def kvHashKey (k : BitVec 256) : BitVec 256 := Config.shake256 (ascii "AQ1224-KVH" ++ wordBytes k) 256

/-- The index hashes and verifiers of a prompt's whole chunks. -/
def promptHashes (kh : BitVec 256) (adid : BitVec 24) (gen : BitVec 16) (fp4 : Bool) :
    BitVec 64 → List (List Byte) → List (BitVec 64 × BitVec 64)
  | _, [] => []
  | prev, t :: ts =>
    let h : BitVec 128 := Config.shake256
      (wordBytes kh ++ wordBytes adid ++ wordBytes gen ++ [BitVec.ofNat 8 fp4.toNat] ++ wordBytes prev ++ t) 128
    let i : BitVec 64 := fld h 0 64
    (i, fld h 64 64) :: promptHashes kh adid gen fp4 i ts

/-- Walk the tree while entries match: the chunks matched (spec/07 R215). -/
def matchTree (slot : BitVec 13) (gen : BitVec 16) (tree : List TreeEntry) : List (BitVec 64 × BitVec 64) → List Nat
  | [] => []
  | h :: hs => match tree.find? fun e => e.hash = h.1 && e.verifier = h.2 && e.slot = slot && e.gen = gen with
    | none => []
    | some e => e.chunk :: matchTree slot gen tree hs

/-- Mark tree entries of matched chunks with the present steep. -/
def touchTree (k : BitVec 64) (cs : List Nat) (t : List TreeEntry) : List TreeEntry :=
  t.map fun e => if cs.contains e.chunk then { e with lastMatch := k } else e

/-! ### The queue commands (spec/07 R210 to R218, spec/14 Table HQ-9) -/

/-- Completion INFO of a handle and a committed length. -/
def seqInfo (h len : Nat) : Nat := h + len * 2 ^ 20

/-- KV.OPEN once every check has passed. -/
def kvOpen (c : Cmd) (gen : BitVec 16) (h b : Nat) (hashes : List (BitVec 64 × BitVec 64)) (s : State) : State :=
  let p := c.part.toNat
  let slot : BitVec 13 := BitVec.ofNat 13 (cSlot c.word)
  let matched := matchTree slot (cGen c.word) (kvOf s p).tree hashes
  let x : Sequence := { state := .opened, slot := slot, gen := cGen c.word, adid := cAdid c.word, baseGen := gen,
                        length := 16 * matched.length, chunks := matched, buffer := b, hashes := hashes }
  let s := updKv p (fun k =>
    let k := matched.foldl (fun k n => holdChunk n k) { k with tree := touchTree s.steep.k matched k.tree }
    setSeq h x { k with buffers := sput 0 b 1 k.buffers, written := sput [] b [] k.written }) s
  let s := { s with prog := { s.prog with kvMatches := s.prog.kvMatches + matched.length } }
  finish c.id stOk 0 (seqInfo h x.length) s

/-- KV_OPEN (spec/07 R210, R214, R215; quota R403). Only a tree-mode open can name a prompt; in page mode its fields are
unused and must be zero (spec/14 R408). -/
def execKvOpen (host : HostMem) (s : State) : Outcome State Fault Refusal :=
  onHead 0x40 s fun c s =>
    let p := c.part.toNat
    let slot := cSlot c.word
    if cfg s 0x2500 (p + 1) = 0 && (cLen c.word ≠ 0 || cAddr0 c.word ≠ 0) then finish c.id stFormat 0 0 s
    else if cAdid c.word ≠ 0 && (didxFor s p (cAdid c.word)).isNone then finish c.id stAdapterInvalid 0 0 s
    else if (slotOf s slot).gen ≠ cGen c.word then finish c.id stKeyRevoked 0 0 s
    else match bindGen s p with
      | none => finish c.id stBaseMismatch 0 0 s
      | some gen =>
        match freeHandle s p, freeBuffer s p with
        | some h, some b =>
          if quotaFull s p 2 1 then finish c.id stQuota 0 0 s
          else if cLen c.word = 0 then kvOpen c gen h b [] s
          else
            let r := gcmFetch host (cAddr0 c.word) (cLen c.word) slot (cGen c.word) s
            if r.1.2.1 then finish c.id stChecksum 0 0 r.2
            else if r.1.1 then finish c.id stKeyRevoked 0 0 r.2
            else match (slotOf s slot).cur with
              | none => finish c.id stKeyRevoked 0 0 r.2
              | some key =>
                let ts := (chunk 64 (cLen c.word / 64) r.1.2.2).filter fun t => t.length = 64
                kvOpen c gen h b (promptHashes (kvHashKey key) (cAdid c.word) gen (kvFp4 s p) 0 ts) r.2
        | _, _ => finish c.id stQuota 0 0 s

/-- KV_FORK (spec/07 R213, R218). -/
def execKvFork (s : State) : Outcome State Fault Refusal :=
  onHead 0x41 s fun c s =>
    let p := c.part.toNat
    let x := seqOf s p (bits (cP1 c.word) 0 20)
    if x.state ≠ .opened then finish c.id stNotPermitted 0 0 s
    else match freeHandle s p with
      | none => finish c.id stQuota 0 0 s
      | some h =>
        if quotaFull s p 2 1 then finish c.id stQuota 0 0 s
        else
          let keep := x.chunks.take (x.length / 16)
          let s := updKv p (fun k =>
            let k := keep.foldl (fun k n => holdChunk n k) k
            setSeq h { x with chunks := keep } { k with buffers := supd 0 x.buffer (· + 1) k.buffers }) s
          finish c.id stOk 0 h s

/-- KV_CLOSE (spec/07 Table AT-2). -/
def execKvClose (s : State) : Outcome State Fault Refusal :=
  onHead 0x42 s fun c s =>
    let p := c.part.toNat
    let q := bits (cP1 c.word) 0 20
    let x := seqOf s p q
    if x.closing.isSome then finish c.id stNotPermitted 0 0 s
    else match x.state with
      | .free => finish c.id stNotPermitted 0 0 s
      | .closing => finish c.id stNotPermitted 0 0 s
      | .opened => takeUp c.id (updKv p (setSeq q { x with state := .closing, closing := some c.id }) s)
      | .invalid => takeUp c.id (updKv p (setSeq q { x with closing := some c.id }) s)

/-- KV_CLOSE_FREE (spec/07 Table AT-2): no admitted request names the sequence. -/
def execKvCloseFree (part : BitVec 6) (seq : BitVec 20) (s : State) : Outcome State Fault Refusal :=
  let p := part.toNat
  let x := seqOf s p seq.toNat
  match x.closing with
  | none => done s
  | some id =>
    if seqNamed s p seq.toNat then done s
    else
      let s := updKv p (fun k =>
        setSeq seq.toNat {} (dropBuffer x.buffer (x.chunks.foldl (fun k n => dropChunk n k) k))) s
      done (finish id stOk 0 0 s)

/-- KV_READ (spec/14 Table HQ-9). -/
def execKvRead (s : State) : Outcome State Fault Refusal :=
  onHead 0x43 s fun c s =>
    let x := seqOf s c.part.toNat (bits (cP1 c.word) 0 20)
    let code := match x.state with | .free => 0 | .opened => 1 | .closing => 2 | .invalid => 3
    finish c.id stOk 0 (seqInfo code x.length) s

/-! ### Appends, completions, keys and generations (spec/07 R212, R213, R216, R219) -/

/-- KV_COPY_ON_WRITE (spec/07 R213): the filled rows of the shared buffer go to the fresh one, decrypted and
re-encrypted under the same key. -/
def execKvCopyOnWrite (part : BitVec 6) (seq : BitVec 20) (s : State) : Outcome State Fault Refusal :=
  let p := part.toNat
  match (kvOf s p).copies.find? fun e => e.1 = seq.toNat with
  | none => done s
  | some e =>
    let s := untilTime (s.steep.b + 20000) s
    let x := seqOf s p seq.toNat
    let n := openRowBytes s p
    let s := (List.range (x.length % 16)).foldl (fun s pos => (List.range (kvL s p)).foldl (fun s l =>
      let r := xtsRead x.slot.toNat (openRow s p e.2.1 pos l) n s
      xtsWriteFor p x.slot.toNat false (openRow s p e.2.2 pos l) r.1 r.2) s) s
    let s := updKv p (fun k => { k with copies := k.copies.erase e }) s
    done { s with prog := { s.prog with kvCopies := s.prog.kvCopies + 1 } }

/-- The chunks that a request's positions seal beyond those its sequence's page table holds (log entry 18). -/
def chunksNeeded (x : Sequence) (first rows : Nat) : Nat := (first + rows) / 16 - x.chunks.length

/-- A request of sequence `q` ends: its length advances and its sealed prompt chunks enter the tree on OK (spec/07
R212, R216); otherwise its chunks that the sequence's page table still holds return to the free pool. A chunk is sealed when the pages
of every KV layer are. -/
def settleSequence (p q : Nat) (ok : Bool) (len : Nat) (mine : List Nat) (s : State) : State :=
  let x := seqOf s p q
  if x.state = .free then s
  else if !ok then
    updKv p (fun k =>
      let k := (mine.filter x.chunks.contains).foldl (fun k n => dropChunk n k) k
      setSeq q { x with chunks := x.chunks.filter fun n => !mine.contains n } k) s
  else
    let s := updKv p (setSeq q { x with length := len }) s
    if cfg s 0x2500 (p + 1) ≠ 1 || x.state = .invalid then s
    else
      let s := (indexed x.hashes).foldl (fun s e =>
        match x.chunks[e.1]? with
        | none => s
        | some n =>
          let sealed := (sget {} n (kvOf s p).chunks).sealed
          if !mine.contains n || len < 16 * (e.1 + 1) || !((List.range (kvL s p)).all sealed.contains) then s
          else if (kvOf s p).tree.any fun t => t.hash = e.2.1 then
            { s with prog := { s.prog with kvRefused := s.prog.kvRefused + 1 } }
          else if cfg s 0x2507 (p + 1) ≤ (kvOf s p).tree.length then s
          else
            let t : TreeEntry := { hash := e.2.1, verifier := e.2.2, slot := x.slot, gen := x.gen,
                                   baseGen := x.baseGen, chunk := n, lastMatch := s.steep.k }
            updKv p (fun k => holdChunk n { k with tree := k.tree ++ [t] }) s) s
      evict p s

/-- Every sequence that `f` picks enters INVALID (spec/07 R219). -/
def invalidateSeqs (p : Nat) (f : Sequence → Bool) (s : State) : State :=
  updKv p (fun k => { k with seqs := smap {} (fun _ x =>
    if f x && (x.state = .opened || x.state = .closing) then { x with state := .invalid } else x) k.seqs }) s

/-- Remove the tree entries that `f` picks, with their references. -/
def dropTree (p : Nat) (f : TreeEntry → Bool) (s : State) : State :=
  updKv p (fun k =>
    let gone := k.tree.filter f
    gone.foldl (fun k e => dropChunk e.chunk k) { k with tree := k.tree.filter fun e => !f e }) s

/-- A base generation is released: its sequences and tree entries go (spec/07 R219). -/
def kvBaseReleased (g : BitVec 16) (s : State) : State :=
  (List.range 64).foldl (fun s p =>
    dropTree p (fun e => e.baseGen = g) (invalidateSeqs p (fun x => x.baseGen = g) s)) s

/-- A rotation of a slot completes: its tree entries go, and their chunks stay with their sequences (spec/07 R219). -/
def kvRotated (slot : Nat) (s : State) : State :=
  (List.range 64).foldl (fun s p => dropTree p (fun e => e.slot.toNat = slot) s) s

/-- A slot's removal: its sequences become INVALID, its tree entries go, and its chunks wait for the scrub (spec/07
R219). -/
def kvRemoved (slot : Nat) (s : State) : State :=
  (List.range 64).foldl (fun s p => updKv p (fun k =>
    { k with
      seqs := smap {} (fun _ x => if x.slot.toNat = slot && x.state ≠ .free
        then { x with state := .invalid, chunks := [] } else x) k.seqs,
      tree := k.tree.filter fun e => e.slot.toNat ≠ slot,
      chunks := smap {} (fun _ r => if r.slot.toNat = slot then { r with refs := 0, sealed := [], scrub := true }
        else r) k.chunks }) s) s

/-- The scrub of a slot has ended: its chunks return to the free pool (spec/13 R385). -/
def kvScrubbed (slot : Nat) (s : State) : State :=
  (List.range 64).foldl (fun s p => updKv p (fun k =>
    { k with chunks := smap {} (fun _ r => if r.scrub && r.slot.toNat = slot then {} else r) k.chunks }) s) s

/-- Every block of a slot's pages, tails and open buffers (spec/13 R382). -/
def kvBlocks (s : State) (slot : Nat) : List Nat :=
  (List.range 64).flatMap fun p =>
    let k := kvOf s p
    let l := kvL s p
    (k.chunks.flatMap fun e =>
      if e.2.slot.toNat = slot then
        blocksOf (pageAddr s p e.1 0, l * pageBytes s p) ++ blocksOf (tailAddr s p e.1 0, l * tailBytes s p)
      else []) ++
    (k.seqs.flatMap fun e =>
      if e.2.slot.toNat = slot && e.2.state ≠ .free then
        blocksOf (openRow s p e.2.buffer 0 0, 16 * l * openRowBytes s p)
      else [])

end Sys2Proof.Machine
end

