-- ==== Sys2Proof/Machine/Adapters.lean ====
section
/-! DEFINITION. Adapters (spec/06): descriptors and their states, extra-expert slots, and the ADAPTER queue commands;
shard index entries (spec/09 R259). -/

namespace Sys2Proof.Machine

open Host (Outcome)

/-! ### The shard index (spec/09 R254 to R259) -/

/-- Apply `f` to the reduction's part of the state. -/
def updRed (f : Reduction → Reduction) (s : State) : State := { s with red := f s.red }

/-- Two shard entries belong to one part. -/
def samePart (a b : BitVec 512) : Bool := eLayer a = eLayer b && eProj a = eProj b && ePart a = ePart b

/-- The last column of a part lies in the part's last tile: a K tile of 192 for PART 0, an N tile of 256 for PART 1 and 2.
An extra expert's N tiles are 256 columns, or 64 as its weight tiles are: NTN may count either (log entry 75). -/
def colsFit (s : State) (d : BitVec 1024) (e : BitVec 512) (last : Nat) : Bool :=
  let m := matEntry s d (eLayer e) (eProj e)
  let tiles (w n : Nat) : Bool := w * (n - 1) < last && last ≤ w * n
  !mPres m || match ePart e with
    | 0 => tiles 192 (mKtn m)
    | 3 => tiles 256 (mNtn m) || tiles 64 (mNtn m)
    | _ => tiles 256 (mNtn m)

/-- The checks of spec/09 R259 on a shard map: each listed part's shards cover its columns exactly once and keep R256,
owner and keeper differ, and the frames on this module lie in the partition's windows. -/
def shardMapOk (s : State) (d : BitVec 1024) : Bool :=
  let n := mapCount s d
  let es := (List.range n).map fun j => mapEntry s d j
  1 ≤ n && es.all fun e =>
    let mine := es.filter fun f => samePart e f
    let last := mine.foldl (fun a f => max a (eCol0 f + eCols f)) 0
    eCol0 e % 32 = 0 && (eCols e % 32 = 0 || eCol0 e + eCols e = last) &&
    (mine.countP fun f => eCol0 f = eCol0 e) = 1 &&
    (eCol0 e = 0 || mine.any fun f => eCol0 f + eCols f = eCol0 e) &&
    colsFit s d e last &&
    eOldn e ≠ eKldn e &&
    (match frameHere s d e with | none => true | some f => inWindows s (dPart d) f.1 f.2)

/-- The shard of entry `j`, where this module owns or keeps it. -/
def shardHere (s : State) (didx : Nat) (j : Nat) : Option Shard :=
  let d := descOf s didx
  let e := mapEntry s d j
  if (frameHere s d e).isNone then none
  else some { didx := BitVec.ofNat 16 didx, adid := dAdid d, entry := j, word := e,
              rows := partRows s d (eLayer e) (eProj e) (ePart e), owned := some (eOldn e) = ownLdn s }

/-- The shards of a descriptor that this module owns or keeps. -/
def shardsHere (s : State) (didx : Nat) : List Shard :=
  (List.range (mapCount s (descOf s didx))).filterMap fun j => shardHere s didx j

/-- Enter shards into the index at its lowest free numbers. -/
def enterShards (xs : List Shard) (s : State) : State :=
  updRed (fun r => { r with shards := xs.foldl (fun m x => sput none (firstFree 0 m) (some x) m) r.shards }) s

/-- Remove an adapter's shards from the index. -/
def dropShards (didx : Nat) (s : State) : State :=
  updRed (fun r => { r with shards := r.shards.filter fun e => match e.2 with
    | some x => x.didx.toNat ≠ didx
    | none => false }) s

/-- A shard's frame on this module reaches a LOST pseudo-channel, or a stack in TRIP (spec/10 R310). -/
def frameLost (s : State) (x : Shard) : Bool :=
  match frameHere s (descOf s x.didx.toNat) x.word with
  | some f => (blocksOf f).any fun b => noAccess s (4096 * b)
  | none => false

/-! ### Image positions (spec/09 R255, R256, R273) -/

/-- Byte offset in a page of rank row `i`, column `c`, in A-slice form. -/
def aPos (m : BitVec 128) (r i c : Nat) : Nat :=
  64 * mAoff m + 384 * (c / 192 * r + 64 * (i / 64)) + 2 * (c % 192 * passWidth r (i / 64) + i % 64)

/-- Byte offset in a page of rank row `i`, column `c`, in B-slice form. -/
def bPos (m : BitVec 128) (r i c : Nat) : Nat :=
  64 * mBoff m + 512 * (c / 256 * r + 64 * (i / 64)) + 2 * (256 * (i % 64) + c % 256)

/-- Byte offset in a page of column `c` of a scale vector. -/
def sPos (m : BitVec 128) (c : Nat) : Nat := 64 * mSoff m + 2 * c

/-- Byte offset in a page of element (i, c) of an extra expert of `n` columns, in BF16 weight tiles. -/
def xPos (m : BitVec 128) (n i c : Nat) : Nat :=
  64 * mAoff m + 24576 * (i / 192 * ((n + 63) / 64) + c / 64) +
    512 * (i % 192 / 16 * 4 + c % 64 / 16) + 2 * (16 * (i % 16) + c % 16)

/-- Columns of a shard's part: the end of its last shard. -/
def partCols (s : State) (d : BitVec 1024) (e : BitVec 512) : Nat :=
  (List.range (mapCount s d)).foldl (fun a j =>
    let f := mapEntry s d j
    if samePart e f then max a (eCol0 f + eCols f) else a) 0

/-- The forward position of element (i, c) of a shard's part, and its mirror position where it has one. -/
def imagePos (s : State) (d : BitVec 1024) (e : BitVec 512) (i c : Nat) : Nat × Option Nat :=
  let m := matEntry s d (eLayer e) (eProj e)
  let mm := matEntry s d (eLayer e) (eMproj e)
  let r := dRank d
  match ePart e with
  | 0 => (aPos m r i c, if eMirr e then some (bPos mm r i c) else none)
  | 1 => (bPos m r i c, if eMirr e then some (aPos mm r i c) else none)
  | 2 => (sPos m c, none)
  | _ => (xPos m (partCols s d e) i c, none)

/-- The 64-byte units (offsets in a page) of a shard's image, forward and mirror. -/
def imageUnits (s : State) (x : Shard) : List Nat :=
  let d := descOf s x.didx.toNat
  let n := eCols x.word
  ((List.range x.rows).flatMap fun i => (List.range n).flatMap fun j =>
    let p := imagePos s d x.word i (eCol0 x.word + j)
    (p.1 / 64 * 64) :: (p.2.map fun q => q / 64 * 64).toList).eraseDups

/-- Set an adapter's outstanding count (spec/09 R280): the image units of its shards, less those this module owns. -/
def setOutstanding (didx : Nat) (s : State) : State :=
  let d := descOf s didx
  let n := (List.range (mapCount s d)).foldl (fun a j =>
    let e := mapEntry s d j
    if some (eOldn e) = ownLdn s then a
    else
      let x : Shard := { didx := BitVec.ofNat 16 didx, adid := dAdid d, entry := j, word := e,
                         rows := partRows s d (eLayer e) (eProj e) (ePart e), owned := false }
      a + (imageUnits s x).length) 0
  updAd (fun a => { a with outstanding := sput 0 didx n a.outstanding,
                           restoring := a.restoring.filter fun r => r.1 ≠ didx }) s

/-- An adapter is settled on this module (spec/09 R280). -/
def isSettled (s : State) (didx : Nat) : Bool := sget 0 didx s.ad.outstanding = 0

/-! ### States (spec/06 R176, R177) -/

/-- Slots that an adapter must give up at the next commit (spec/06 R197). -/
def releaseLater (adid : BitVec 24) (one : Option (BitVec 12 × BitVec 4)) (s : State) : State :=
  updAd (fun a => { a with releases := a.releases ++ [(adid, one)] }) s

/-- A descriptor enters INVALID through a base release (reason 1) or a key removal (reason 2): its pending
ADAPTER.STATE completes with the status of check 5 of Table AD-5. -/
def invalidateDesc (didx reason : Nat) (s : State) : State :=
  let d := descOf s didx
  if dAdid d = 0 || dState d = adInvalid then s
  else
    let s := setDesc didx (setFld (setFld d 24 2 0) 26 2 reason) s
    let s := releaseLater (dAdid d) none s
    match sget none didx s.ad.pending with
    | none => s
    | some p =>
      let s := updAd (fun a => { a with pending := sput none didx none a.pending }) s
      finish p.2.2 (if reason = 1 then stBaseMismatch else stKeyRevoked) 0 0 s

/-- Every descriptor that `f` picks enters INVALID. -/
def invalidateDescs (reason : Nat) (f : BitVec 1024 → Bool) (s : State) : State :=
  (s.ad.descs.filter fun e => f e.2).foldl (fun s e => invalidateDesc e.1 reason s) s

/-- A move from one state to another is one of Table AD-4 that ADAPTER.STATE causes. -/
def moveOk (a b : BitVec 2) : Bool :=
  (a = adFrozen && b = adTraining) || (a = adTraining && b = adFrozen) || (a = adFrozen && b = adServing) ||
  (a = adServing && b = adFrozen) || (a ≠ adInvalid && b = adInvalid)

/-- A pending move is due at the boundary of steep `k` with SIDX `sidx` (Table AD-4). -/
def moveDue (d : BitVec 1024) (new : BitVec 2) (e k : BitVec 64) (sidx : Nat) : Bool :=
  ahead e k = 0 && ((dState d ≠ adTraining && new ≠ adTraining) || sidx = 0)

/-- A KEY.REMOVE pending for the boundary of steep `k` removes a slot's key of a generation there (spec/13 R376). -/
def removedAt (s : State) (slot : Nat) (gen : BitVec 16) (k : BitVec 64) : Bool :=
  let q := slotOf s slot
  (q.state = .loaded || q.state = .rotating) && q.gen = gen &&
    s.cust.removes.any fun r => r.slot.toNat = slot && r.gen = gen && ahead r.steep k = 0

/-- The state that holds at the boundary of steep `k`, changes scheduled for it included (spec/06 R177). -/
def stateAt (s : State) (didx : Nat) (k : BitVec 64) (sidx : Nat) : BitVec 2 :=
  let d := descOf s didx
  if removedAt s (dSlot d) (dKgen d) k then adInvalid
  else match sget none didx s.ad.pending with
  | none => dState d
  | some p => if moveDue d p.1 p.2.1 k sidx then p.1 else dState d

/-! ### The queue commands -/

/-- The read-only and reserved bits of a descriptor image, which must be zero (Table AD-2, spec/14 Table HQ-9). -/
def descMask : BitVec 1024 :=
  [(0, 24), (28, 3), (31, 1), (32, 1), (34, 8), (47, 4), (64, 13), (80, 16), (96, 16), (112, 16), (128, 12), (140, 12),
   (192, 48), (256, 48), (320, 48), (384, 48), (512, 48)].foldl
    (fun m f => setFld m f.1 f.2 (2 ^ f.2 - 1)) 0

/-- ADAPTER_CREATE (spec/06 R172; the image's SLOT is check 3 of spec/14 R409). -/
def execAdapterCreate (host : HostMem) (s : State) : Outcome State Fault Refusal :=
  onHead 0x30 s fun c s =>
    let p := c.part.toNat
    match hostRead host (cAddr0 c.word) 128 with
    | none => finish c.id stChecksum 0 0 (countGcmFail 1 s)
    | some bs =>
      let s := countHostRead 128 s
      let d := BitVec.ofNat 1024 (leNat bs)
      let i := firstFree 0 s.ad.descs
      if !holdsSlot s p (dSlot d) then finish c.id stNotPermitted 3 0 s
      else if dAdid d = 0 || (didxOf s (dAdid d)).isSome || (!dLowRank d && !dScale d && !dExpert d) ||
          dPage d false % 4096 ≠ 0 || dPage d true % 4096 ≠ 0 || d &&& ~~~descMask ≠ 0 then
        finish c.id stFormat 0 0 s
      else if quotaFull s p 0 1 || 65536 ≤ i then finish c.id stQuota 0 0 s
      else if (slotOf s (dSlot d)).gen ≠ dKgen d then finish c.id stKeyRevoked 0 0 s
      else if !genKnown s (dBaseGen d) then finish c.id stBaseMismatch 0 0 s
      else finish c.id stOk 0 i (setDesc i (setFld (setFld d 24 2 1) 51 6 p) s)

/-- ADAPTER_STATE (spec/06 R177, spec/14 R500). -/
def execAdapterState (s : State) : Outcome State Fault Refusal :=
  onHead 0x32 s fun c s =>
    match didxFor s c.part.toNat (cAdid c.word) with
    | none => finish c.id stAdapterInvalid 0 0 s
    | some i =>
      let new := BitVec.ofNat 2 (cP0 c.word)
      if !moveOk (dState (descOf s i)) new || !boundariesKnown s then finish c.id stNotPermitted 0 0 s
      else if !atLeast20us s (cSteep c.word) then finish c.id stTimeout 0 0 s
      else
        let s := match sget none i s.ad.pending with
          | none => s
          | some p => finish p.2.2 stOk 0 1 s
        takeUp c.id (updAd (fun a => { a with pending := sput none i (some (new, cSteep c.word, c.id)) a.pending }) s)

/-- ADAPTER_DESTROY (spec/06 R177, R197). -/
def execAdapterDestroy (s : State) : Outcome State Fault Refusal :=
  onHead 0x33 s fun c s =>
    match didxFor s c.part.toNat (cAdid c.word) with
    | none => finish c.id stAdapterInvalid 0 0 s
    | some i =>
      let s := releaseLater (cAdid c.word) none s
      takeUp c.id (updAd (fun a => { a with destroying := supd [] i (fun l => l ++ [c.id]) a.destroying }) s)

/-- ADAPTER_DESTROY_FREE (spec/06 R177): no admitted row names the adapter. -/
def execAdapterDestroyFree (didx : BitVec 16) (s : State) : Outcome State Fault Refusal :=
  let i := didx.toNat
  let ids := sget [] i s.ad.destroying
  if ids.isEmpty || adapterNamed s (dAdid (descOf s i)) then done s
  else
    let s := match sget none i s.ad.pending with
      | none => s
      | some p => finish p.2.2 stAdapterInvalid 0 0 s
    let s := dropShards i (setDesc i 0 (updAd (fun a => { a with
      pending := sput none i none a.pending, destroying := sput [] i [] a.destroying,
      outstanding := sput 0 i 0 a.outstanding,
      restoring := a.restoring.filter fun r => r.1 ≠ i }) s))
    done (ids.foldl (fun s id => finish id stOk 0 0 s) s)

/-! ### Extra-expert slots (spec/06 R194 to R198) -/

/-- The extra-expert slot of a layer. -/
def expertOf (s : State) (layer slot : Nat) : ExpertSlot := sget {} (16 * layer + slot) s.ad.experts

/-- An adapter owns, or holds, an extra-expert slot. -/
def ownsExpert (x : ExpertSlot) (adid : BitVec 24) : Bool := adid ≠ 0 && x.owner = adid
def holdsExpert (x : ExpertSlot) (adid : BitVec 24) : Bool := ownsExpert x adid || (adid ≠ 0 && x.sharers.contains adid)

/-- A claim or a release names a layer of an adapter that has extra experts. -/
def claimOk (d : BitVec 1024) (layer : Nat) : Bool :=
  dExpert d && dLfirst d ≤ layer && layer < dLfirst d + dLcount d

/-- ADAPTER_CLAIM (spec/06 R195). -/
def execAdapterClaim (s : State) : Outcome State Fault Refusal :=
  onHead 0x34 s fun c s =>
    match didxFor s c.part.toNat (cAdid c.word) with
    | none => finish c.id stAdapterInvalid 0 0 s
    | some i =>
      let d := descOf s i
      let layer := bits (cP0 c.word) 0 12
      let slot := bits (cP0 c.word) 16 4
      if !claimOk d layer then finish c.id stFormat 0 0 s
      else
        let n := s.ad.claimSeq + 1
        let x : Claim := { stamp := s.time, sna := s.fab.sna, seq := n, adid := cAdid c.word,
                           layer := BitVec.ofNat 12 layer, slot := BitVec.ofNat 4 slot,
                           keySlot := BitVec.ofNat 13 (dSlot d), kgen := dKgen d, share := dShare d, cmd := some c.id }
        let s := updAd (fun a => { a with claimSeq := n, claims := a.claims ++ [x] }) s
        takeUp c.id (send (.flood none) (.slotClaim x.stamp x.sna x.seq x.adid x.layer x.slot x.keySlot x.kgen x.share) s)

/-- Count up from `n` over the sequence numbers of an originator that have arrived ahead of their turn. -/
def absorbClaims (sna : BitVec 16) : Nat → BitVec 32 → List (BitVec 16 × BitVec 32) → BitVec 32 × List (BitVec 16 × BitVec 32)
  | 0, n, l => (n, l)
  | f + 1, n, l => if l.contains (sna, n + 1) then absorbClaims sna f (n + 1) (l.erase (sna, n + 1)) else (n, l)

/-- A claim's sequence number has arrived. An originator's first number counts as following its predecessor (DESIGN
CHOICE, log entry 50). -/
def noteClaim (sna : BitVec 16) (seq : BitVec 32) (a : Adapters) : Adapters :=
  let last := sget 0 sna.toNat a.lastClaim
  let r := absorbClaims sna (a.ahead.length + 1) (if last = 0 then seq - 1 else last) ((sna, seq) :: a.ahead)
  { a with lastClaim := sput 0 sna.toNat r.1 a.lastClaim, ahead := r.2 }

/-- SLOT_CLAIM_PACKET (spec/06 R195): the first copy is held and passed on, and its sequence number is noted. -/
def execSlotClaimPacket (stamp : BitVec 64) (sna : BitVec 16) (seq : BitVec 32) (adid : BitVec 24)
    (layer : BitVec 12) (slot : BitVec 4) (keySlot : BitVec 13) (kgen : BitVec 16) (share : Bool) (s : State) :
    Outcome State Fault Refusal :=
  if sna = s.fab.sna || seq.toNat ≤ (sget 0 sna.toNat s.ad.lastClaim).toNat || s.ad.ahead.contains (sna, seq) then done s
  else
    let x : Claim := { stamp := stamp, sna := sna, seq := seq, adid := adid, layer := layer, slot := slot,
                       keySlot := keySlot, kgen := kgen, share := share, cmd := none }
    let s := updAd (fun a => { noteClaim sna seq a with claims := a.claims ++ [x] }) s
    done (send (.flood none) (.slotClaim stamp sna seq adid layer slot keySlot kgen share) s)

/-- ADAPTER_RELEASE (spec/06 R197). -/
def execAdapterRelease (s : State) : Outcome State Fault Refusal :=
  onHead 0x35 s fun c s =>
    match didxFor s c.part.toNat (cAdid c.word) with
    | none => finish c.id stAdapterInvalid 0 0 s
    | some i =>
      let layer := bits (cP0 c.word) 0 12
      if !claimOk (descOf s i) layer then finish c.id stFormat 0 0 s
      else finish c.id stOk 0 0 (releaseLater (cAdid c.word)
        (some (BitVec.ofNat 12 layer, BitVec.ofNat 4 (bits (cP0 c.word) 16 4))) s)

/-- An adapter gives up one slot: an owner's release frees the slot and removes its sharers. -/
def giveUp (adid : BitVec 24) (x : ExpertSlot) : ExpertSlot :=
  if ownsExpert x adid then {} else { x with sharers := x.sharers.erase adid }

/-- Apply one release. -/
def applyRelease (r : BitVec 24 × Option (BitVec 12 × BitVec 4)) (s : State) : State :=
  updAd (fun a => { a with experts := smap {} (fun k x => match r.2 with
    | none => giveUp r.1 x
    | some l => if k = 16 * l.1.toNat + l.2.toNat then giveUp r.1 x else x) a.experts }) s

/-- Decide one claim (spec/06 R195, R196): whether it succeeds, and the slot afterwards. -/
def decideClaim (x : ExpertSlot) (c : Claim) : Bool × ExpertSlot :=
  if x.owner = 0 then (true, { owner := c.adid, keySlot := c.keySlot, kgen := c.kgen, share := c.share })
  else if holdsExpert x c.adid then (true, x)
  else if c.keySlot = x.keySlot && c.kgen = x.kgen && c.share && x.share && x.sharers.length < 7 then
    (true, { x with sharers := x.sharers ++ [c.adid] })
  else (false, x)

/-- The commit of a steep whose successor starts now (spec/06 R194 to R197): releases first (log entry 19), then the
claims stamped before W(c) − 10 µs, in canonical order. -/
def commitExperts (s : State) : State :=
  let s := s.ad.releases.foldl (fun s r => applyRelease r s) s
  let s := updAd (fun a => { a with releases := [] }) s
  let due (c : Claim) : Bool := 52000 < ahead s.steep.b c.stamp
  let cs := canonSort (fun c : Claim => (c.stamp.toNat, c.sna.toNat, c.seq.toNat)) (s.ad.claims.filter due)
  let s := updAd (fun a => { a with claims := a.claims.filter fun c => !due c }) s
  cs.foldl (fun s c =>
    let key := 16 * c.layer.toNat + c.slot.toNat
    let r := decideClaim (sget {} key s.ad.experts) c
    let s := updAd (fun a => { a with experts := sput {} key r.2 a.experts }) s
    match c.cmd with
    | none => s
    | some id => finish id (if r.1 then stOk else stSlotTaken) 0 0 s) s

/-! ### Caddies (spec/06 R184 to R186) -/

/-- The caddy of a die. -/
def caddyOf (s : State) (die : Nat) : List CaddyBlock :=
  match die with
  | 0 => s.ad.caddy0
  | 1 => s.ad.caddy1
  | 2 => s.ad.caddy2
  | _ => s.ad.caddy3

/-- Replace the caddy of a die. -/
def setCaddy (die : Nat) (c : List CaddyBlock) (s : State) : State :=
  updAd (fun a => match die with
    | 0 => { a with caddy0 := c }
    | 1 => { a with caddy1 := c }
    | 2 => { a with caddy2 := c }
    | _ => { a with caddy3 := c }) s

/-- Drop the caddy blocks that `f` picks. -/
def dropCaddy (f : CaddyBlock → Bool) (s : State) : State :=
  (List.range 4).foldl (fun s i => setCaddy i ((caddyOf s i).filter fun b => !f b) s) s

/-- Drop the blocks that `f` picks at a ROLE flip or a push, counted on each die (spec/16 Table PC-2). -/
def dropStale (f : CaddyBlock → Bool) (s : State) : State :=
  dropCaddy f ((List.range 4).foldl (fun s i =>
    let n := (caddyOf s i).countP f
    if n = 0 then s else count (0x80 + i) 0x048 n s) s)

/-- The caddy zeroises the blocks of a removed slot: they stay resident under their stale tag (spec/06 R186). -/
def zeroCaddySlot (slot : Nat) (s : State) : State :=
  (List.range 4).foldl (fun s i => setCaddy i ((caddyOf s i).map fun b =>
    if b.slot.toNat = slot then { b with data := List.replicate 4096 0 } else b) s) s

/-- A descriptor's ROLE flips: the caddy drops the page that stops being current (spec/06 R186). -/
def dropPage (d : BitVec 1024) (r : Bool) (s : State) : State :=
  let bs := (pageSlices s d (dPage d r)).flatMap blocksOf
  dropStale (fun b => b.slot.toNat = dSlot d && bs.contains (b.addr / 4096)) s

end Sys2Proof.Machine
end

