-- ==== Sys2Proof/Machine/Frames.lean ====
section
/-! DEFINITION. Frames of the Dictionary Access Protocol (spec/15 R426 to R429) and the queues they wait in. -/

namespace Sys2Proof.Machine

/-- Apply `f` to the Dictionary unit. -/
def updDict (f : Dictionary → Dictionary) (s : State) : State := { s with dict := f s.dict }

/-! ### Frames (spec/15 R426) -/

/-- The header of a frame: its first 32 bytes, most significant byte first (spec/00 R7). -/
def dapHeader (bs : List Byte) : BitVec 256 := BitVec.ofNat 256 (beNat (bs.take 32))

def dapMagic (h : BitVec 256) : Nat := (fld h 240 16).toNat
def dapVersion (h : BitVec 256) : Nat := (fld h 232 8).toNat
def dapOp (h : BitVec 256) : Nat := (fld h 224 8).toNat
def dapTarget (h : BitVec 256) : Nat := (fld h 192 16).toNat
def dapLocal (h : BitVec 256) : Bool := bit h 191
def dapSigned (h : BitVec 256) : Bool := bit h 190
def dapEntry (h : BitVec 256) : Nat := (fld h 160 16).toNat
def dapSession (h : BitVec 256) : BitVec 32 := fld h 128 32
def dapSeq (h : BitVec 256) : BitVec 64 := fld h 64 64
def dapCount (h : BitVec 256) : Nat := (fld h 48 16).toNat
def dapBlen (h : BitVec 256) : Nat := (fld h 32 16).toNat

/-- A header as bytes. -/
def dapHeaderBytes (h : BitVec 256) : List Byte := beBytes 32 h.toNat

/-- The frame with a new header. -/
def withHeader (h : BitVec 256) (bs : List Byte) : List Byte := dapHeaderBytes h ++ bs.drop 32

/-- The frame with ENTRY taken as zero. -/
def entryZero (bs : List Byte) : List Byte := withHeader (setFld (dapHeader bs) 160 16 0) bs

/-- The length that a frame's header gives it (spec/15 R426): XCHG frames carry no tag (R433). -/
def dapLength (h : BitVec 256) : Nat :=
  32 + dapBlen h + (if dapSigned h then 3309 else 0) + (if dapOp h = 0x01 then 0 else 32)

/-- An operation of Table OD-4. -/
def dapOpKnown (op : Nat) : Bool := op = 0x01 || op = 0x02 || op = 0x10 || op = 0x11 || op = 0x12

/-- The body of a frame. -/
def dapBody (bs : List Byte) : List Byte := (bs.drop 32).take (dapBlen (dapHeader bs))

/-- The tag of a frame. -/
def dapTag (bs : List Byte) : List Byte := bs.drop (bs.length - 32)

/-- The tag that a session's key gives a frame without its tag (spec/15 R428). -/
def dapTagOf (key : BitVec 256) (custom : String) (bs : List Byte) : List Byte :=
  wordBytes (Config.kmac256 key custom (entryZero bs))

/-- Take a frame on a path into its queue of 64 (spec/15 R429). -/
def acceptFrame (path source : Nat) (bs : List Byte) (s : State) : State :=
  if 64 ≤ (s.dict.frames.countP fun f => f.path = path) then
    updDict (fun d => { d with fullDrops := d.fullDrops + 1, busy := if path = 1 then false else d.busy }) s
  else updDict (fun d => { d with frames := d.frames ++
    [{ path := path, bytes := bs, stamp := s.time, source := source }] }) s

/-- The holder of the staging lock, until 10 s after its last accepted frame (spec/15 R440). -/
def lockHolder (s : State) : Option (BitVec 32) :=
  s.dict.lock.bind fun l => if s.clock ≤ l.2 + 20000000000 then some l.1 else none

end Sys2Proof.Machine
end

