-- ==== Sys2Proof/Machine/Links.lean ====
section
/-! DEFINITION. Spapor ports (spec/12): wiring, port states, link frames, retry, credits, sessions and CMIS. -/

namespace Sys2Proof.Machine

open Host (Outcome)

/-! ### Wiring (spec/12 R336, R337, R346) -/

/-- Group, board and site of an SNA (spec/12 R346). -/
def snaGroup (a : Nat) : Nat := bits a 13 3
def snaBoard (a : Nat) : Nat := bits a 9 4
def snaSite (a : Nat) : Nat := bits a 5 4

/-- The SNA of a group, board and site. -/
def mkSna (g b s : Nat) : Nat := g * 2 ^ 13 + b * 2 ^ 9 + s * 2 ^ 5

/-- The partner SNA and port of a port (Table FB-2), none where Table FB-1 cables none. -/
def partnerOf (sna p : Nat) : Option (Nat × Nat) :=
  let g := snaGroup sna
  let b := snaBoard sna
  let s := snaSite sna
  let r := b / 4
  let c := b % 4
  if p < 8 then some (mkSna g b ((s + p + 1) % 9), 7 - p)
  else if s = 8 then none
  else if p < 11 then some (mkSna g (4 * r + (c + (p - 8) + 1) % 4) s, 10 - (p - 8))
  else if p < 14 then some (mkSna g (4 * ((r + (p - 11) + 1) % 4) + c) s, 13 - (p - 11))
  else if s = 0 then none
  else if p = 14 then some (mkSna (g ^^^ s) b s, 14)
  else some (mkSna (g ^^^ (s % 7 + 1)) b s, 15)

/-- A board is in the installed-board map (spec/18 Table MP-6). -/
def boardInstalled (s : State) (sna : Nat) : Bool := s.fab.installed.getLsbD (16 * snaGroup sna + snaBoard sna)

/-- The ports whose partner is installed. -/
def expectedPorts (s : State) : List Nat :=
  (List.range 16).filter fun p =>
    match partnerOf s.fab.sna.toNat p with
    | some q => boardInstalled s q.1
    | none => false

/-! ### Port states (spec/12 Table FB-3) -/

/-- A port's state. -/
def portOf (s : State) (p : Nat) : Port := sget {} p s.fab.ports

/-- Apply `f` to a port. -/
def updPort (p : Nat) (f : Port → Port) (s : State) : State :=
  { s with fab := { s.fab with ports := supd {} p f s.fab.ports } }

/-- The fabric records a fault. -/
def fabricFault (f : FabricFault) (s : State) : State := { s with fab := { s.fab with faults := s.fab.faults ++ [f] } }

/-- The code of a port state at 0x7010. -/
def portCode : PortState → Nat
  | .down => 0 | .training => 1 | .keying => 2 | .checking => 3 | .up => 4 | .miswired => 5 | .fenced => 6
  | .failed => 7

/-- The digest field of a half record (spec/11 Table LF-1). -/
def recDigest (r : BitVec 512) : BitVec 128 := fld r 384 128

/-- This module's link-state record (spec/12 Table FB-7): 16 port states of 4 bits, the active GEN, the digests of
both halves and the identity digest. -/
def ownLinkState (s : State) : LinkState :=
  { ports := BitVec.ofNat 64 ((List.range 16).foldl (fun a p => a + portCode (portOf s p).state * 16 ^ p) 0),
    gen := s.leaf.activeGen, digest0 := recDigest s.leaf.rec0, digest1 := recDigest s.leaf.rec1,
    identity := s.boot.identityDigest }

/-- Flood the module's link-state record. -/
def floodLinkState (s : State) : State :=
  let r := ownLinkState s
  send (.flood none) (.linkState s.fab.sna r.ports r.gen r.digest0 r.digest1 r.identity) s

/-- Move a port to a state: the frames of its replay buffer are discarded when it leaves UP (spec/12 R343), the change
is traced, and the link-state record is reflooded (spec/12 R347). -/
def setPort (p : Nat) (st : PortState) (s : State) : State :=
  let q := portOf s p
  if q.state = st then s
  else
    let lost := if q.state = .up then q.replay.length else 0
    let s := updPort p (fun q => { q with state := st, since := s.clock, replay := if q.state = .up then [] else q.replay }) s
    let s := { s with fab := { s.fab with discarded := s.fab.discarded + lost } }
    let s := trace 0x0A (0xA0 + p) 0 (BitVec.ofNat 128 (p + 16 * portCode st)) s
    if s.fab.discovery = .complete then floodLinkState s else s

/-- Zeroise a port's session. -/
def clearSession (p : Nat) (s : State) : State :=
  updPort p (fun q => { q with txKey := none, rxKey := none, oldRxKey := none, oldRxCount := 0, kph := false,
                               sentInPhase := 0, rxPhase := false, rxInPhase := 0, txSeq := 0, rxSeq := 0xFFF,
                               replay := [], credits := [], owed := [] }) s

/-- The module's HELLO on a port. -/
def sendHello (p : Nat) (s : State) : State :=
  send (.port (BitVec.ofNat 4 p))
    (.hello s.fab.sna (BitVec.ofNat 4 p) s.boot.boardSerial s.boot.identityDigest) s

/-- DOWN_EXIT (spec/12 R337, R338): signal on both lanes, or 100 ms in DOWN; a failed exchange holds the retry off, and a
link whose partner is not installed stays DOWN. -/
def execDownExit (port : BitVec 4) (signal : Bool) (s : State) : Outcome State Fault Refusal :=
  let q := portOf s port.toNat
  onlyIf (q.state == .down && s.fab.discovery != .off && !q.absent && !q.noApplication &&
      (expectedPorts s).contains port.toNat && s.boot.stopped.isNone) s fun s =>
    let s := untilClock q.holdOff s
    setPort port.toNat .training (if signal then s else untilClock (q.since + 200000000) s)

/-- FEC_LOCK (spec/12 R338): FEC lock with a good pre-FEC bit error ratio. -/
def execFecLock (port : BitVec 4) (goodErrorRatio : Bool) (s : State) : Outcome State Fault Refusal :=
  onlyIf ((portOf s port.toNat).state == .training && goodErrorRatio) s (setPort port.toNat .keying)

/-- TRAINING_TIMEOUT (spec/12 R338): 500 ms without lock. -/
def execTrainingTimeout (port : BitVec 4) (s : State) : Outcome State Fault Refusal :=
  let q := portOf s port.toNat
  onlyIf (q.state == .training) s fun s => setPort port.toNat .down (untilClock (q.since + 1000000000) s)

/-- A failed exchange: DOWN, with a retry held off for 1 s. -/
def keyingFails (p : Nat) (s : State) : State :=
  updPort p (fun q => { q with holdOff := s.clock + 2000000000 }) (setPort p .down s)

/-- LINK_SESSION_EXCHANGE (spec/12 R341, spec/13 R374): the custody exchange with the partner. With its certificates and its
signature verified and the controller READY, keys are installed in both directions and the port checks its partner. -/
def execLinkSessionExchange (port : BitVec 4) (partnerSna : BitVec 16) (certs : List Byte) (nonce : BitVec 256)
    (closing : Closing) (s : State) : Outcome State Fault Refusal :=
  let p := port.toNat
  onlyIf ((portOf s p).state == .keying) s fun s =>
    if s.cust.state != .ready then keyingFails p s
    else
      let keys := linkKeys s partnerSna certs nonce closing
      let s := (linkMessages s partnerSna certs nonce closing).foldl (fun s m => send (.port port) (.custody m) s)
        { s with free := s.free + 2 }
      match keys with
      | none => keyingFails p s
      | some (tx, rx) =>
        let s := clearSession p s
        let s := updPort p (fun q => { q with partner := partnerSna, partnerDigest := Config.certDigest certs,
                                              txKey := some tx, rxKey := some rx, phaseSince := s.clock,
                                              lastAck := s.clock }) s
        sendHello p (setPort p .checking s)

/-- KEYING_TIMEOUT (spec/12 R338): 50 ms in KEYING, or a failed exchange. -/
def execKeyingTimeout (port : BitVec 4) (failed : Bool) (s : State) : Outcome State Fault Refusal :=
  let q := portOf s port.toNat
  onlyIf (q.state == .keying) s fun s =>
    keyingFails port.toNat (if failed then s else untilClock (q.since + 100000000) s)

/-- HELLO (spec/12 R339): the partner's SNA and port against Table FB-2, and its identity digest against the certificate of
the exchange, which fails where they differ (spec/13 R374). -/
def execHello (port : BitVec 4) (sna : BitVec 16) (partnerPort : BitVec 4) (digest : BitVec 256) (s : State) :
    Outcome State Fault Refusal :=
  let p := port.toNat
  let q := portOf s p
  let good := partnerOf s.fab.sna.toNat p == some (sna.toNat, partnerPort.toNat)
  match q.state with
  | .checking =>
    if digest != q.partnerDigest then done (keyingFails p s)
    else
      let s := updPort p (fun q => { q with partner := sna, helloAt := s.clock }) s
      done (setPort p (if good then .up else .miswired) s)
  | .miswired =>
    if good && digest == q.partnerDigest then done (setPort p .up (updPort p (fun q => { q with partner := sna }) s)) else done s
  | _ => done s

/-- HELLO_RESEND (spec/12 R338): every 100 ms, a MISWIRED port sends a HELLO. -/
def execHelloResend (port : BitVec 4) (s : State) : Outcome State Fault Refusal :=
  let p := port.toNat
  let q := portOf s p
  onlyIf (q.state == .miswired) s fun s =>
    let s := untilClock (q.helloAt + 200000000) s
    sendHello p (updPort p (fun q => { q with helloAt := s.clock }) s)

/-- A port goes from UP to TRAINING; a third such entry within 10 s makes it FAILED (Table FB-3). -/
def retrain (p : Nat) (s : State) : State :=
  let q := portOf s p
  let recent := (s.clock :: q.trainings).filter fun c => s.clock ≤ c + 20000000000
  let s := updPort p (fun q => { q with trainings := recent.take 3 }) (setPort p .training s)
  if 3 ≤ recent.length then setPort p .failed s else s

/-- LINK_DEGRADE (spec/12 R338): FEC lock lost, more than 16 uncorrectable codewords in 1 ms, or one packet replayed
8 times. -/
def execLinkDegrade (port : BitVec 4) (lockLost : Bool) (uncorrectable replays : Nat) (s : State) :
    Outcome State Fault Refusal :=
  let q := portOf s port.toNat
  let s := count (0xA0 + port.toNat) 0x047 uncorrectable s
  onlyIf (q.state == .up && (lockLost || 16 < uncorrectable || 8 ≤ replays || q.replay.any fun f => 8 ≤ f.replays)) s
    (retrain port.toNat)

/-- Reset one port's link state and session (spec/17 Table SR-3, spec/12 Table FB-3). -/
def resetPort (p : Nat) (s : State) : State :=
  let s := clearSession p (setPort p .down s)
  updPort p (fun q => { q with trainings := [], holdOff := 0, tagFail := none, partner := 0xFFFF }) s

/-- PORT_RESET (0x7015:01; spec/12 R338, spec/17 R469). -/
def execPortReset (port : BitVec 8) (s : State) : Outcome State Fault Refusal :=
  onlyIf (decide (port.toNat < 16)) s (resetPort port.toNat)

/-! ### Link frames (spec/12 R340 to R345) -/

/-- Credits of 64 bytes that a frame with `n` payload bytes needs. -/
def frameUnits (n : Nat) : Nat := (8 + 32 + n + 16 + 63) / 64

/-- Credits of one pool: 16 KiB, 64 KiB for VL0 (spec/12 R345). -/
def poolUnits (vl : Nat) : Nat := if vl = 0 then 1024 else 256

/-- The nonce of a frame (spec/12 R341). -/
def frameNonce (lower kph : Bool) (n : BitVec 64) : BitVec 96 :=
  BitVec.ofNat 96 ((if lower then 0 else 2 ^ 95) + (if kph then 2 ^ 94 else 0) + n.toNat)

/-- A link header (Table FB-4). -/
def linkHeader (lseq ack : BitVec 12) (nak kph : Bool) (cvl cpool cred : Nat) : BitVec 64 :=
  packR 64 [(12, lseq.toNat), (12, ack.toNat), (1, nak.toNat), (1, kph.toNat), (3, cvl), (3, cpool), (16, cred)]

/-- The bytes that the replay buffer of a port holds. -/
def replayBytes (q : Port) : Nat := q.replay.foldl (fun n f => n + 8 + 32 + f.payload.length + 16) 0

/-- Whether a port can take a frame now: credits of its pool, and room in the replay buffer (192 KiB). -/
def canSend (q : Port) (vl pool n : Nat) : Bool :=
  q.state == .up && q.txKey.isSome &&
  decide ((sget 0 (8 * vl + pool) q.credits) + frameUnits n ≤ poolUnits vl) &&
  decide (replayBytes q + 8 + 32 + n + 16 ≤ 196608)

/-- Put one frame on a port under its session (spec/12 R340 to R342): it takes the next LSEQ and nonce and stays in the
replay buffer. A credit return rides along (spec/12 R345). -/
def frameOut (nak : Bool) (p : Nat) (net : BitVec 256) (payload : List Byte) (s : State) : State :=
  let q := portOf s p
  match q.txKey with
  | none => s
  | some key =>
    let owe := q.owed.head?
    let hdr := linkHeader q.txSeq q.rxSeq nak q.kph ((owe.map fun e => e.1 / 8).getD 0)
      ((owe.map fun e => e.1 % 8).getD 0) ((owe.map fun e => e.2).getD 0)
    let nonce := frameNonce (s.fab.sna.toNat < q.partner.toNat) q.kph q.sentInPhase
    let ct := gcmCrypt key nonce payload
    let tag := Config.gcmTag key nonce (wordBytes hdr ++ wordBytes net) ct
    let f : SentFrame := { lseq := q.txSeq, header := hdr, net := net, payload := ct, tag := tag, replays := 0 }
    let s := updPort p (fun q => { q with
      txSeq := q.txSeq + 1, sentInPhase := q.sentInPhase + 1, replay := q.replay ++ [f],
      lastAck := if q.replay.isEmpty then s.clock else q.lastAck,
      owed := match owe with | some e => sput 0 e.1 0 q.owed | none => q.owed }) s
    emit (.frame (BitVec.ofNat 4 p) hdr net ct tag)
      (count (0xA0 + p) 0x040 1 (count (0xA0 + p) 0x042 ((payload.length + 63) / 64) s))

/-- Send one packet out of a port: its frame takes credits of its lane and pool. -/
def sendFrame (p : Nat) (net : BitVec 256) (payload : List Byte) (s : State) : State :=
  let vl := (fld net 112 3).toNat
  let key := 8 * vl + (fld net 109 3).toNat
  if (portOf s p).txKey.isNone then s
  else count (0xA0 + p) (0x058 + vl) 1 (frameOut false p net payload
    (updPort p (fun q => { q with credits := supd 0 key (· + frameUnits payload.length) q.credits }) s))

/-- An empty frame: it has no network header, takes no credits, and carries NAK or the next credit return (log entry 73). -/
def emptyFrame (nak : Bool) (p : Nat) (s : State) : State := frameOut nak p 0 [] s

/-- Resend the frames of the replay buffer from one LSEQ on, as stored (spec/12 R342). -/
def replayFrom (p : Nat) (keep : SentFrame → Bool) (s : State) : State :=
  let q := portOf s p
  let again := q.replay.filter keep
  let s := updPort p (fun q => { q with
    replay := q.replay.map fun f => if keep f then { f with replays := f.replays + 1 } else f,
    lastAck := s.clock }) s
  let s := { s with fab := { s.fab with replayed := s.fab.replayed + again.length } }
  let s := count (0xA0 + p) 0x044 again.length s
  again.foldl (fun s f => emit (.frame (BitVec.ofNat 4 p) f.header f.net f.payload f.tag) s) s

/-- Answer with NAK (spec/12 R342): ACK is the last frame accepted. -/
def sendNak (p : Nat) (s : State) : State := count (0xA0 + p) 0x045 1 (emptyFrame true p s)

/-- A frame of clean FEC fails its tag (spec/12 R341): NAK, and a second failure within 1 s takes the port DOWN. -/
def authFailure (p : Nat) (s : State) : State :=
  let q := portOf s p
  let s := { s with fab := { s.fab with authFails := s.fab.authFails + 1 } }
  let s := sendNak p (count (0xA0 + p) 0x048 1 s)
  let again := match q.tagFail with | some c => decide (s.clock ≤ c + 2000000000) | none => false
  if again then
    let s := clearSession p (setPort p .down s)
    fabricFault (.authentication p) (updPort p (fun q => { q with tagFail := none }) s)
  else updPort p (fun q => { q with tagFail := some s.clock }) s

/-- Apply the acknowledgement and credit fields of a link header. -/
def applyLink (p : Nat) (h : BitVec 64) (s : State) : State :=
  let ack : BitVec 12 := fld h 40 12
  let cred := (fld h 16 16).toNat
  let key := 8 * (fld h 35 3).toNat + (fld h 32 3).toNat
  let s := updPort p (fun q =>
    match q.replay.findIdx? fun f => f.lseq = ack with
    | some i => { q with replay := q.replay.drop (i + 1), lastAck := s.clock }
    | none => q) s
  let s := updPort p (fun q => { q with credits := supd 0 key (· - cred) q.credits }) s
  if bit h 39 then replayFrom p (fun _ => true) s else s

/-- The receive key of a frame's phase, and the count of its nonce (spec/12 R341). -/
def rxKeyOf (s : State) (q : Port) (kph : Bool) : Option (BitVec 256 × BitVec 64) :=
  if kph = q.rxPhase then q.rxKey.map fun k => (k, q.rxInPhase)
  else match q.oldRxKey with
    | some (k, e) => if s.clock ≤ e then some (k, q.oldRxCount) else none
    | none => none

/-- LINK_FRAME (spec/12 R342): accepted in LSEQ order, or answered with NAK; its credits and acknowledgement are
applied, and an accepted packet waits in its pool for the router; an empty frame carries none. In ALONE there is no
traffic (spec/12 Table FB-7). -/
def execLinkFrame (port : BitVec 4) (header : BitVec 64) (net : BitVec 256) (payload : List Byte) (tag : BitVec 128)
    (fecClean : Bool) (s : State) : Outcome State Fault Refusal :=
  let p := port.toNat
  let q := portOf s p
  if q.state ≠ .up || s.fab.discovery = .alone then done s
  else if !fecClean || fld header 52 12 ≠ q.rxSeq + 1 then done (sendNak p s)
  else
    let kph := bit header 38
    match rxKeyOf s q kph with
    | none => done (authFailure p s)
    | some (key, n) =>
      let nonce := frameNonce (q.partner.toNat < s.fab.sna.toNat) kph n
      if Config.gcmTag key nonce (wordBytes header ++ wordBytes net) payload ≠ tag then done (authFailure p s)
      else
        let s := updPort p (fun q => { q with
          rxSeq := q.rxSeq + 1,
          rxInPhase := if kph = q.rxPhase then q.rxInPhase + 1 else q.rxInPhase,
          oldRxCount := if kph = q.rxPhase then q.oldRxCount else q.oldRxCount + 1 }) s
        let s := applyLink p header s
        let s := count (0xA0 + p) 0x041 1 (count (0xA0 + p) 0x043 ((payload.length + 63) / 64) s)
        if net = 0 && payload.isEmpty then done s
        else done { s with fab := { s.fab with inbox := s.fab.inbox ++ [(port, net, gcmCrypt key nonce payload)] } }

/-- REPLAY_TIMEOUT (spec/12 R342): no acknowledgement for 10 µs. -/
def execReplayTimeout (port : BitVec 4) (s : State) : Outcome State Fault Refusal :=
  let q := portOf s port.toNat
  onlyIf (q.state == .up && !q.replay.isEmpty) s fun s =>
    replayFrom port.toNat (fun _ => true) (untilClock (q.lastAck + 20000) s)

/-- REKEY (spec/12 R341): after 2^32 frames or 24 hours of a key phase, the sender flips KPH to a new key; a receiver
holds both phases for 1 ms. -/
def execRekey (port : BitVec 4) (receive : Bool) (key : BitVec 256) (s : State) : Outcome State Fault Refusal :=
  let p := port.toNat
  let q := portOf s p
  onlyIf (q.state == .up) s fun s =>
    if receive then
      updPort p (fun q => { q with oldRxKey := q.rxKey.map fun k => (k, s.clock + 2000000), oldRxCount := q.rxInPhase,
                                   rxKey := some key, rxPhase := !q.rxPhase, rxInPhase := 0 }) s
    else
      let s := if 2 ^ 32 ≤ q.sentInPhase.toNat then s else untilClock (q.phaseSince + 172800000000000) s
      updPort p (fun q => { q with txKey := some key, kph := !q.kph, sentInPhase := 0, phaseSince := s.clock }) s

/-- CREDIT_FRAME (spec/12 R345): empty frames return the credits that no other frame has carried, those of one lane and
pool in each. -/
def execCreditFrame (port : BitVec 4) (s : State) : Outcome State Fault Refusal :=
  let p := port.toNat
  let q := portOf s p
  onlyIf (q.state == .up) s fun s => q.owed.foldl (fun s _ => emptyFrame false p s) s

/-! ### Optical modules (spec/12 R362, spec/18 R492) -/

/-- CMIS_POLL (spec/12 R362): identity, monitors and alarm flags of one optical module, once per second; a module that
does not answer is recorded as absent. One that advertises no fitting application leaves its port DOWN, with a fault. -/
def execCmisPoll (port : BitVec 4) (monitors : Option CmisAnswer) (alarms : BitVec 32) (s : State) :
    Outcome State Fault Refusal :=
  let p := port.toNat
  onlyIf (decide (8 ≤ p)) s fun s =>
    match monitors with
    | some m =>
      let s := if m.application || (portOf s p).noApplication then s else fabricFault (.application p) s
      updPort p (fun q => { q with cmisId := m.identity, cmisMon := m.monitors, cmisAlarm := alarms, absent := false,
                                   noApplication := !m.application }) s
    | none => updPort p (fun q => { q with absent := true }) s

/-- CMIS_INTERRUPT (spec/18 R492): CMIS_INT_L is low, and the alarm flags of every port are read. -/
def execCmisInterrupt (alarms : List (BitVec 32)) (s : State) : Outcome State Fault Refusal :=
  done ((indexed alarms).foldl (fun s a =>
    if a.1 < 16 then updPort a.1 (fun q => { q with cmisAlarm := a.2 }) s else s) s)

end Sys2Proof.Machine
end

