-- ==== Sys2Proof/Machine/Wave.lean ====
section
/-! DEFINITION. Spapor time and the steep wave (spec/02; founding in spec/17 R468): contributions, reduction, waves,
time synchronisation, Listen and founding. -/

namespace Sys2Proof.Machine

open Host (Outcome)

/-! ### Packets (spec/02 Tables ST-2 and ST-3) -/

/-- A contribution packet. -/
def contributionPacket (steep : BitVec 64) (ldn lreq : Nat) (good : Bool) (fail : BitVec 6) (why level : Nat)
    (tsend : BitVec 64) : BitVec 512 :=
  packR 512 [(8, 0x22), (8, 0), (64, steep.toNat), (16, ldn), (13, lreq), (1, good.toNat), (6, fail.toNat), (4, why),
             (8, level), (64, tsend.toNat)]

/-- The fields of a wave. -/
structure WaveFields where
  rank : Nat
  steep : BitVec 64
  bk2 : BitVec 64
  lk2 : Nat
  good : Bool
  commit : BitVec 2
  rep : Nat
  snap : Bool
  snapId : BitVec 16
  step : BitVec 32
  sidx : Nat
  maxLdn : Nat
  missing : Nat
  deriving DecidableEq, Repr

/-- A wave packet. -/
def wavePacket (f : WaveFields) : BitVec 512 :=
  packR 512 [(8, 0x21), (2, f.rank), (6, 0), (64, f.steep.toNat), (64, f.bk2.toNat), (13, f.lk2), (1, f.good.toNat),
             (2, f.commit.toNat), (2, f.rep), (1, f.snap.toNat), (16, f.snapId.toNat), (32, f.step.toNat),
             (16, f.sidx), (16, f.maxLdn), (11, f.missing)]

/-- Read a wave packet. -/
def waveFields (p : BitVec 512) : WaveFields :=
  { rank := (fld p 502 2).toNat, steep := fld p 432 64, bk2 := fld p 368 64, lk2 := (fld p 355 13).toNat,
    good := bit p 354, commit := fld p 352 2, rep := (fld p 350 2).toNat, snap := bit p 349, snapId := fld p 333 16,
    step := fld p 301 32, sidx := (fld p 285 16).toNat, maxLdn := (fld p 269 16).toNat,
    missing := (fld p 258 11).toNat }

/-- Two waves agree in L(k+2), step-good, commit order, repeat count and snapshot order (spec/02 R42). -/
def wavesAgree (a b : WaveFields) : Bool :=
  a.lk2 == b.lk2 && a.good == b.good && a.commit == b.commit && a.rep == b.rep && a.snap == b.snap &&
  (!a.snap || a.snapId == b.snapId)

/-! ### Acting on a wave -/

/-- Act on the first wave of the present steep: hold it and trace it (spec/02 R42, spec/16 Table PC-7). -/
def actOnWave (p : BitVec 512) (s : State) : State :=
  let f := waveFields p
  let s := { s with steep := { s.steep with wave := some p, lastWave := s.clock } }
  trace 0x07 0xFF 0 (BitVec.ofNat 128 (f.steep.toNat + 2 ^ 64 * (f.rank * 8 + f.good.toNat * 4 + f.commit.toNat) +
    2 ^ 69 * (f.lk2 % 4096))) s

/-- A wave of one of the two founding steeps (spec/17 R468). -/
def isFounding (f : WaveFields) : Bool := f.steep == -1 || f.steep == -2

/-- A module in Listen that holds no Spapor time takes it from a founding wave, as the step of this stay (spec/17 R468;
log entry 15 for the offset). -/
def foundTime (f : WaveFields) (s : State) : State :=
  if s.timeKnown then s
  else { s with time := f.bk2 - BitVec.ofNat 64 (f.lk2 * cyclesPerUs) - 32000 + 7400, timeKnown := true, slew := {},
                steep := { s.steep with stepped := true } }

/-- L(k+1) of a wave's steep as a module in Listen knows it, in µs: from the wave before, else the configured one (log
entry 14). -/
def listenLen (f : WaveFields) (s : State) : Nat :=
  match s.steep.wave.map waveFields with
  | some q => if f.steep = q.steep + 1 then q.lk2 else cfg s 0x4010 1
  | none => if 2 ≤ s.steep.wavesIn && f.steep = s.steep.k then s.steep.lenNext else cfg s 0x4010 1

/-- A wave of steep k in Listen: it is followed (spec/02 Table ST-4). The first one names B(k+2); the second one in a
row makes the boundaries known, and the present length is then taken as the configured one (log entry 14). A wave that
comes after its deadline ends the run, and one that reaches a module with no Spapor time is not followed. -/
def followWave (p : BitVec 512) (s : State) : State :=
  let f := waveFields p
  let st := s.steep
  let late := ahead s.time (f.bk2 - BitVec.ofNat 64 (listenLen f s * cyclesPerUs) - 2000) ≠ 0
  let first : Steep :=
    { st with k := f.steep, len := cfg s 0x4010 1, lenNext := f.lk2, wavesIn := 1,
              b := f.bk2 - BitVec.ofNat 64 (2 * cfg s 0x4010 1 * cyclesPerUs) }
  let st' : Option Steep :=
    match st.wavesIn, st.wave.map waveFields with
    | 0, _ => some first
    | 1, some q =>
      if f.steep = q.steep then none
      else if f.steep = q.steep + 1 then
        some { st with k := f.steep, b := q.bk2 - BitVec.ofNat 64 (cfg s 0x4010 1 * cyclesPerUs),
                       len := cfg s 0x4010 1, lenNext := q.lk2, wavesIn := 2 }
      else some first
    | 1, none => some first
    | n, none => if f.steep = st.k then some { st with wavesIn := n + 1 } else some first
    | _, some _ => if f.steep = st.k then none else some first
  if !s.timeKnown then s
  else if late then { s with steep := { st with wavesIn := 0, wave := none, lastWave := s.clock } }
  else match st' with
  | none => s
  | some st => actOnWave p { s with steep := { st with step := f.step, sidx := f.sidx, rep := f.rep } }

/-- The wave deadline of the present steep, B(k+1) − 1 µs. -/
def waveDeadlineTime (s : State) : BitVec 64 := nextB s - 2000

/-- A wave that has arrived, or that this master floods: the first copy of each (steep, rank) is forwarded on every
port but the one it came by, and acted on by state (spec/02 R40, R42). A Locked or Standby module that the first wave of
its steep reaches after the deadline held none by it, and leaves. -/
def takeWave (port : Option (BitVec 4)) (p : BitVec 512) (s : State) : State :=
  let f := waveFields p
  let key := (f.steep, BitVec.ofNat 2 f.rank)
  if s.steep.seen.contains key then s
  else
    let s := { s with steep := { s.steep with seen := (key :: s.steep.seen).take 4096 } }
    let s := send (.flood port) (.wave p) s
    match s.steep.engine with
    | .off => s
    | .stopped => s
    | .listen => followWave p (if isFounding f then foundTime f s else s)
    | _ =>
      if f.steep = s.steep.k then
        match s.steep.wave with
        | none =>
          if ahead s.time (waveDeadlineTime s) = 0 then actOnWave p s else enterListen 1 (failStep 1 s)
        | some q =>
          if !wavesAgree (waveFields q) f && ahead (waveDeadlineTime s) s.time ≠ 0 then
            enterListen 2 (failStep 1 s)
          else s
      else s

/-- WAVE (spec/02 R42). -/
def execWave (port : Option (BitVec 4)) (pkt : BitVec 512) (s : State) : Outcome State Fault Refusal :=
  onlyIf (fld pkt 504 8 == 0x21) s (takeWave port pkt)

/-- WAVE_DEADLINE (spec/02 R39, Table ST-4): a module that holds no wave for the steep leaves Locked or Standby; a
module in Listen loses its run of waves. -/
def execWaveDeadline (s : State) : Outcome State Fault Refusal :=
  match s.steep.engine with
  | .listen =>
    if !s.timeKnown || s.steep.wavesIn = 0 then done s
    else
      let s := untilTime (waveDeadlineTime s) s
      if s.steep.wave.isNone then done { s with steep := { s.steep with wavesIn := 0 } } else done s
  | .off => done s
  | .stopped => done s
  | _ =>
    let s := untilTime (waveDeadlineTime s) s
    if s.steep.wave.isNone then done (enterListen 1 (failStep 1 s)) else done s

/-! ### The masters (spec/02 R38 to R50) -/

/-- Apply `f` to what this module holds as a master. -/
def updMaster (f : Master → Master) (s : State) : State :=
  { s with steep := { s.steep with master := f s.steep.master } }

/-- Take one contribution (spec/02 R43, spec/09 Table RU-9 rules 2 and 4). -/
def takeContribution (p : BitVec 512) (s : State) : State :=
  let ldn := (fld p 416 16).toNat
  let fail : BitVec 6 := fld p 396 6
  if fld p 432 64 ≠ s.steep.k || s.steep.master.reduced ||
     (s.steep.master.contributions.any fun q => (fld q 416 16).toNat = ldn) then s
  else updMaster (fun m =>
    { m with contributions := m.contributions ++ [p],
             failHard := if bit fail 5 || bit fail 3 || bit fail 1 || bit fail 0 then m.failHard ++ [ldn]
                         else m.failHard,
             failSoft := if bit fail 4 || bit fail 2 then m.failSoft ++ [ldn] else m.failSoft }) s

/-- The gather deadline of the present steep, W(k) + 3.5 µs (spec/02 Table ST-1). -/
def gatherTime (s : State) : BitVec 64 := nextB s - 32000 + 7000

/-- CONTRIBUTION (spec/02 R39, R43): a contribution packet reaches this master; one after the gather deadline counts as
missing. -/
def execContribution (pkt : BitVec 512) (s : State) : Outcome State Fault Refusal :=
  onlyIf (isLocked s && (ownRank s).isSome && fld pkt 504 8 == 0x22 && ahead s.time (gatherTime s) == 0) s
    (takeContribution pkt)

/-- The snapshot order of the wave whose wave point is now 7,000 cycles back (spec/02 R50). -/
def snapDueNow (s : State) : Option (BitVec 16) :=
  match s.steep.master.snapReq with
  | some (id, at_) => if isPrimary s && at_ + 40000 + 7000 ≤ s.clock then some id else none
  | none => none

/-- The reduction of the contributions that have arrived (spec/02 R43, R47). -/
def reduceWave (rank : Nat) (s : State) : WaveFields :=
  let m := s.steep.master
  let ldns := (mappedLdns s).map fun e => e.1
  let got := m.contributions.map fun p => (fld p 416 16).toNat
  let missing := ldns.filter fun l => !got.contains l
  let cfgLen := cfg s 0x4010 1
  let lk2 := m.contributions.foldl (fun a p => max a (fld p 403 13).toNat) cfgLen
  let good := missing.isEmpty && m.contributions.all fun p => bit p 402
  let latch := m.latch && good
  let asked := (m.contributions.filter fun p => (fld p 403 13).toNat = lk2).map fun p => (fld p 416 16).toNat
  { rank := rank, steep := s.steep.k,
    bk2 := nextB s + BitVec.ofNat 64 (s.steep.lenNext * cyclesPerUs), lk2 := lk2, good := latch,
    commit := if isCommitSteep s then (if latch then 1 else 2) else 0,
    rep := s.steep.rep, snap := (snapDueNow s).isSome, snapId := (snapDueNow s).getD 0, step := s.steep.step,
    sidx := s.steep.sidx,
    maxLdn := if cfgLen < lk2 then asked.foldl min 0xFFFF else 0xFFFF, missing := missing.length }

/-- The boards (SNA / 512) of whose eight working modules every one is missing (spec/12 R360). -/
def goneBoards (s : State) (missing : List Nat) : List Nat :=
  (List.range 128).filter fun b =>
    let ls := (mappedLdns s).filter fun e => e.2 / 512 = b && e.2 / 32 % 16 < 8
    ls.length = 8 && ls.all fun e => missing.contains e.1

/-- GATHER_DEADLINE (spec/02 R43, Table ST-1): at W(k) + 3.5 µs this master reduces; the primary floods its wave
200 ns later. -/
def execGatherDeadline (s : State) : Outcome State Fault Refusal :=
  match ownRank s with
  | none => done s
  | some rank =>
    if !isLocked s || s.steep.master.reduced || !s.steep.waved then done s
    else
      let s := untilTime (gatherTime s) s
      let f := reduceWave rank s
      let got := s.steep.master.contributions.map fun p => (fld p 416 16).toNat
      let missing := ((mappedLdns s).map fun e => e.1).filter fun l => !got.contains l
      let s := updMaster (fun m => { m with
        reduced := true, latch := f.good, ownWave := some (wavePacket f), missing := m.missing ++ missing,
        boards := m.boards ++ goneBoards s missing,
        snapReq := if f.snap then none else m.snapReq }) s
      if rank = 0 then done (takeWave none (wavePacket f) (elapse 400 s)) else done s

/-- BACKUP_WAVE_FLOOD (spec/02 R41, Table ST-1): backup 1 at W(k) + 7.5 µs without a wave of rank 0, backup 2 at
W(k) + 11.5 µs without a wave of rank 0 or 1. -/
def execBackupWaveFlood (s : State) : Outcome State Fault Refusal :=
  match ownRank s, s.steep.master.ownWave with
  | some rank, some p =>
    let held (r : Nat) : Bool := s.steep.seen.contains (s.steep.k, BitVec.ofNat 2 r)
    if !isLocked s || rank = 0 || held 0 || (rank = 2 && held 1) || held rank then done s
    else done (takeWave none p (untilTime (nextB s - 32000 + (if rank = 1 then 15000 else 23000)) s))
  | _, _ => done s

/-- SNAPSHOT_REQUEST (spec/02 R50): only the primary master accepts it. One that comes before an earlier one has gone out
in a wave takes its place (DESIGN CHOICE, log entry 54). -/
def execSnapshotRequest (id : BitVec 16) (s : State) : Outcome State Fault Refusal :=
  onlyIf (isPrimary s) s (updMaster fun m => { m with snapReq := some (id, s.clock) })

/-! ### Time synchronisation (spec/02 R30 to R33) -/

/-- The ports in UP. -/
def upPorts (s : State) : List Nat := (List.range 16).filter fun p => (sget {} p s.fab.ports).state == .up

/-- TIME_SYNC (spec/02 R30): each port sends a time-sync packet to its link partner, 10 µs after the last one. -/
def execTimeSync (s : State) : Outcome State Fault Refusal :=
  let s := match s.steep.syncSent with
    | some c => untilClock (c + 20000) s
    | none => s
  let s := { s with steep := { s.steep with syncs := s.steep.syncs + 1, syncSent := some s.clock } }
  done ((upPorts s).foldl (fun s p => send (.port (BitVec.ofNat 4 p)) (.timeSync s.time) s) s)

/-- The SNA of the time reference (spec/02 R30): of the steep masters that send time-sync packets, whose ranks are
`senders`, the lowest-ranked (log entry 48). -/
def referenceSna (senders : List (BitVec 2)) (s : State) : Option Nat :=
  ((masterLdns s).filter fun m => senders.contains (BitVec.ofNat 2 m.1)).findSome? fun m => snaOfLdn s m.2

/-- The port on a path with the fewest hops to the reference (spec/02 R30), the lowest-numbered one; none where this
module is the reference. -/
def referencePort (senders : List (BitVec 2)) (s : State) : Option Nat :=
  match referenceSna senders s with
  | none => none
  | some a =>
    if a = s.fab.sna.toNat then none
    else (List.range 16).find? fun p => (sget 0 a s.fab.routes).getLsbD p

/-- The time is set by a step, on entry to Listen (spec/02 R31). -/
def stepTime (t : BitVec 64) (s : State) : State :=
  { s with time := t, timeKnown := true, slew := {},
           steep := { s.steep with stepped := true, syncAt := s.clock, offset := 0 } }

/-- An exchange on the reference path estimates the offset `off`: it is corrected by slewing, and an offset over 20 ns on
two exchanges in a row makes a Locked or Standby module leave (spec/02 R31, R33). -/
def takeOffset (off : Int) (s : State) : State :=
  let run := if 40 < off.natAbs then s.steep.offRun + 1 else 0
  let s := { s with
    slew := { s.slew with left := off },
    steep := { s.steep with
      offset := off, offRun := run, syncAt := s.clock,
      offsets := ((s.clock, off.natAbs) :: s.steep.offsets).filter fun o => s.clock ≤ o.1 + 2000000000 } }
  if 2 ≤ run && s.steep.engine ≠ .listen then enterListen 3 (failStep 1 s) else s

/-- TIME_SYNC_RECEIVE (spec/02 R30, R31, R33): the link delay is half the round trip, rounded down, less the signed lane
asymmetry in cycles; the spec gives neither its sign nor its unit (DESIGN CHOICE, log entry 48). On the reference path the offset is estimated; in Listen the time is set once by a step, afterwards it is slewed. -/
def execTimeSyncReceive (port : BitVec 4) (roundTrip : Nat) (asymmetry : Int) (answer : SyncAnswer)
    (s : State) : Outcome State Fault Refusal :=
  let delay : Int := (roundTrip / 2 : Nat) - asymmetry
  let s := { s with steep := { s.steep with delays := sput 0 port.toNat delay s.steep.delays } }
  let partner := answer.time + BitVec.ofInt 64 delay
  if referencePort answer.senders s ≠ some port.toNat then done s
  else match s.steep.engine with
    | .off => done s
    | .stopped => done s
    | .listen => done (if s.steep.stepped then takeOffset (partner - s.time).toInt s else stepTime partner s)
    | .standby => done (takeOffset (partner - s.time).toInt s)
    | .locked => done (takeOffset (partner - s.time).toInt s)

/-! ### Listen and founding -/

/-- LISTEN_NO_WAVE_RECORD (spec/02 R53): 100 ms in Listen without a wave. -/
def execListenNoWaveRecord (s : State) : Outcome State Fault Refusal :=
  onlyIf (s.steep.engine == .listen && !s.steep.quietRec) s fun s =>
    let s := untilClock (s.steep.lastWave + 200000000) s
    let s := engineRecord 5 s
    { s with steep := { s.steep with quietRec := true } }

/-- LISTEN_TIMEOUT (spec/02 Table ST-4, spec/17 R467): 5 s in Listen without meeting the conditions; a start-up that
has not ended stops. -/
def execListenTimeout (s : State) : Outcome State Fault Refusal :=
  onlyIf (s.steep.engine == .listen) s fun s =>
    let s := untilClock (s.steep.listenAt + 10000000000) s
    let s := setEngine .stopped 6 s
    if s.boot.status = 0 then startupStop 0 0 s else s

/-- A founding wave of steep `k` (spec/17 R468). -/
def foundingWave (s : State) (k : BitVec 64) : BitVec 512 :=
  let l := cfg s 0x4010 1
  wavePacket { rank := 0, steep := k, bk2 := (k + 2) * BitVec.ofNat 64 (l * cyclesPerUs), lk2 := l, good := true,
               commit := 0, rep := 0, snap := false, snapId := 0, step := 0xFFFFFFFF,
               sidx := if k = -1 then stepLen s - 1 else stepLen s - 2, maxLdn := 0xFFFF,
               missing := (mappedLdns s).length }

/-- FOUNDING (spec/17 R468): the primary, 50 ms in Listen with discovery COMPLETE, no wave and no Spapor time, floods
the founding waves of the last two steeps before steep 0, timed from its free-running count; the boundary that ends
the second is Spapor time 0, so until then the time is a negative count (log entry 15). -/
def execFounding (s : State) : Outcome State Fault Refusal :=
  onlyIf (s.steep.engine == .listen && !s.timeKnown && isPrimary s && s.fab.discovery == .complete &&
      s.steep.wavesIn == 0) s fun s =>
    let s := untilClock (s.steep.listenAt + 100000000) s
    let l := cfg s 0x4010 1
    let s := { s with time := BitVec.ofInt 64 (-(l * cyclesPerUs + 32000 - 7400)), timeKnown := true, slew := {},
                      steep := { s.steep with stepped := true } }
    let s := takeWave none (foundingWave s (-2)) s
    takeWave none (foundingWave s (-1)) (elapse (l * cyclesPerUs) s)

/-! ### Table digests (spec/12 R348) -/

/-- The first 8 bytes of SHAKE256 over the logical-to-physical table. -/
def tableDigestOf (s : State) : BitVec 64 :=
  Config.shake256 ((List.range 1024).flatMap fun l => leBytes 2 ((snaOfLdn s l).getD 0xFFFF)) 64

/-- Set the table of logical device numbers. -/
def setTable (t : List (BitVec 16)) (s : State) : State :=
  (List.range 1024).foldl (fun s l => setBoth (0x7100 + l / 128) (l % 128 + 1) ((t.getD l 0xFFFF).toNat) s) s

/-- TABLE_DIGEST (spec/12 R348): the primary answers a module's digest with its own (DEDUCED, log entry 16); a module
whose digest differs from the primary's leaves Locked and copies the primary's table. -/
def execTableDigest (sna : BitVec 16) (digest : BitVec 64) (primaryTable : List (BitVec 16)) (s : State) :
    Outcome State Fault Refusal :=
  if isPrimary s then done (send (.sna sna) (.tableDigest (tableDigestOf s)) s)
  else if (match masterLdns s with | m :: _ => snaOfLdn s m.2 == some sna.toNat | [] => false) &&
      digest ≠ tableDigestOf s then
    let s := { s with fab := { s.fab with digestBad := true } }
    let s := match s.steep.engine with
      | .locked => enterListen 4 (failStep 1 s)
      | .standby => enterListen 4 s
      | _ => s
    if primaryTable.length = 1024 then
      done { (setTable primaryTable s) with fab := { s.fab with digestBad := false } }
    else done s
  else done s

end Sys2Proof.Machine
end

