-- ==== Sys2Proof/Machine/Routing.lean ====
section
/-! DEFINITION. Discovery and routing (spec/12 R344 to R354). -/

namespace Sys2Proof.Machine

open Host (Outcome)

/-! ### The link-state graph -/

/-- The port state that a module's record reports. -/
def recPort (r : LinkState) (p : Nat) : Nat := (fld r.ports (4 * p) 4).toNat

/-- The record of a module: its own one is always present. -/
def recordOf (s : State) (sna : Nat) : Option LinkState :=
  if sna = s.fab.sna.toNat then some (ownLinkState s)
  else (s.fab.records.find? fun e => e.1 = sna).map fun e => e.2

/-- The modules of the graph. -/
def knownSnas (s : State) : List Nat :=
  s.fab.sna.toNat :: (s.fab.records.map fun e => e.1).filter fun a => a ≠ s.fab.sna.toNat

/-- The module at the other end of a port that both records report UP. -/
def neighbour (s : State) (a p : Nat) : Option Nat :=
  match recordOf s a, partnerOf a p with
  | some r, some (b, q) =>
    match recordOf s b with
    | some t => if recPort r p = 4 && recPort t q = 4 then some b else none
    | none => none
  | _, _ => none

/-- The neighbours of a module, with the port that reaches each. -/
def neighbours (s : State) (a : Nat) : List (Nat × Nat) :=
  (List.range 16).filterMap fun p => (neighbour s a p).map fun b => (p, b)

/-- Distances in hops to one module, for every module within `fuel` hops: breadth first. -/
def distances (s : State) : Nat → Nat → List (Nat × Nat) → List Nat → List (Nat × Nat)
  | 0, _, known, _ => known
  | fuel + 1, d, known, frontier =>
    let new := (frontier.flatMap fun a => (neighbours s a).map fun e => e.2).foldl
      (fun l b => if l.contains b || known.any (fun k => k.1 = b) then l else l ++ [b]) []
    if new.isEmpty then known
    else distances s fuel (d + 1) (known ++ new.map fun b => (b, d + 1)) new

/-- Distance of every module to `dst`, at most 7 hops (spec/12 R345). -/
def distancesTo (s : State) (dst : Nat) : List (Nat × Nat) := distances s 7 0 [(dst, 0)] [dst]

/-- The ports of module `a` on a minimal route to `dst` (spec/12 R349). -/
def minimalPorts (s : State) (ds : List (Nat × Nat)) (a : Nat) : List Nat :=
  match ds.find? fun e => e.1 = a with
  | none => []
  | some d => ((neighbours s a).filter fun e =>
      (ds.find? fun x => x.1 = e.2).map (fun x => x.2 + 1) == some d.2).map fun e => e.1

/-- Recompute the routes (spec/12 R349), the largest minimal hop count between working modules and to each master
(spec/12 R351). -/
def computeRoutes (s : State) : State :=
  let dsts := (knownSnas s).filter fun a => a ≠ s.fab.sna.toNat
  let routes : Sparse (BitVec 16) := dsts.foldl (fun m d =>
    sput 0 d ((minimalPorts s (distancesTo s d) s.fab.sna.toNat).foldl (fun v p => setBit v p true) 0) m) []
  let working := (mappedLdns s).map fun e => e.2
  let far (d : Nat) : Nat := ((distancesTo s d).filter fun e => working.contains e.1).foldl (fun m e => max m e.2) 0
  let mh := (masterLdns s).filterMap fun m => (snaOfLdn s m.2).map far
  let s := { s with fab := { s.fab with routes := routes, masterHops := mh,
                                        maxHops := working.foldl (fun m d => max m (far d)) 0 } }
  if mh.any fun h => decide (5 < h) then fabricFault (.distance mh) s else s

/-! ### Discovery (spec/12 Table FB-7) -/

/-- Enter a discovery state. -/
def setDiscovery (d : DiscoveryState) (s : State) : State :=
  { s with fab := { s.fab with discovery := d, discoverySince := s.clock } }

/-- DISCOVERY_START (spec/12 R347): the start-up sequence reaches SerDes training. -/
def execDiscoveryStart (s : State) : Outcome State Fault Refusal :=
  onlyIf (s.fab.discovery == .off && decide (8 ≤ s.boot.stage) && s.boot.status != 2) s (setDiscovery .links)

/-- Enter FLOOD and flood the module's record. -/
def enterFlood (s : State) : State :=
  let s := setDiscovery .flood s
  floodLinkState { s with fab := { s.fab with lastRecord := s.clock } }

/-- LINKS_DONE (spec/12 Table FB-7): every expected port is UP, or 2 s have passed with a port UP, or no partner is
cabled. -/
def execLinksDone (s : State) : Outcome State Fault Refusal :=
  let exp := expectedPorts s
  let upExp := exp.filter fun p => (portOf s p).state == .up
  if s.fab.discovery ≠ .links then done s
  else if exp.length = upExp.length then done (enterFlood s)
  else if !(upPorts s).isEmpty then done (enterFlood (untilClock (s.fab.discoverySince + 4000000000) s))
  else done s

/-- LINKS_TIMEOUT (spec/12 Table FB-7): 10 s with partners expected and none UP. -/
def execLinksTimeout (s : State) : Outcome State Fault Refusal :=
  onlyIf (s.fab.discovery == .links && !(expectedPorts s).isEmpty && (upPorts s).isEmpty) s fun s =>
    let s := setDiscovery .alone (untilClock (s.fab.discoverySince + 20000000000) s)
    startupStop 0 0 (fabricFault .alone s)

/-- LINK_STATE_RECORD (spec/12 Table FB-7): a new record is kept and relayed. -/
def execLinkStateRecord (sna : BitVec 16) (ports : BitVec 64) (gen : BitVec 16) (digest0 digest1 : BitVec 128)
    (identity : BitVec 256) (s : State) : Outcome State Fault Refusal :=
  let r : LinkState := { ports := ports, gen := gen, digest0 := digest0, digest1 := digest1, identity := identity }
  let on := match s.fab.discovery with | .off => false | .alone => false | _ => true
  let old := (s.fab.records.find? fun e => e.1 = sna.toNat).map fun e => e.2
  onlyIf (on && sna != s.fab.sna && old != some r) s fun s =>
    let m := s.fab.records.filter fun e => e.1 ≠ sna.toNat
    let m := (m.filter fun e => e.1 < sna.toNat) ++ [(sna.toNat, r)] ++ m.filter fun e => sna.toNat < e.1
    send (.flood none) (.linkState sna ports gen digest0 digest1 identity)
      { s with fab := { s.fab with records := m, lastRecord := s.clock } }

/-- The modules at the other end of an UP port of a known record whose own record is missing. -/
def incompleteSnas (s : State) : List Nat :=
  ((knownSnas s).flatMap fun a => (List.range 16).filterMap fun p =>
    match recordOf s a, partnerOf a p with
    | some r, some (b, _) => if recPort r p = 4 && (recordOf s b).isNone then some b else none
    | _, _ => none).eraseDups

/-- FLOOD_QUIET (spec/12 Table FB-7): no new record for 200 ms, or 5 s in FLOOD with a fault record. -/
def execFloodQuiet (s : State) : Outcome State Fault Refusal :=
  onlyIf (s.fab.discovery == .flood) s fun s =>
    let quiet := s.fab.lastRecord + 400000000
    let limit := s.fab.discoverySince + 10000000000
    if quiet ≤ limit then setDiscovery .routes (untilClock quiet s)
    else
      let s := setDiscovery .routes (untilClock limit s)
      fabricFault (.incomplete (incompleteSnas s)) s

/-- The default table (spec/12 R348): LDN = 128 × group + 8 × board + site for every module of sites 0 to 7 seen. -/
def defaultTable (s : State) : State :=
  let t := (List.range 1024).map fun l =>
    let a := mkSna (l / 128) (l / 8 % 16) (l % 8)
    if (knownSnas s).contains a then BitVec.ofNat 16 a else 0xFFFF
  setTable t s

/-- ROUTE_COMPUTE (spec/12 R347 to R349): routes, and in ROUTES the default table; then the steep engine leaves Off for
Listen. -/
def execRouteCompute (s : State) : Outcome State Fault Refusal :=
  match s.fab.discovery with
  | .routes =>
    let s := if s.fab.tableSet then s else defaultTable s
    let s := setDiscovery .complete (computeRoutes s)
    let s := { s with fab := { s.fab with refreshedAt := s.clock } }
    if s.steep.engine = .off then done (enterListen 0 s) else done s
  | .complete => done (computeRoutes s)
  | _ => done s

/-- LINK_STATE_REFRESH (spec/12 R347): once discovery is COMPLETE the module refloods its record every 1 s. -/
def execLinkStateRefresh (s : State) : Outcome State Fault Refusal :=
  onlyIf (s.fab.discovery == .complete) s fun s =>
    let s := untilClock (s.fab.refreshedAt + 2000000000) s
    floodLinkState { s with fab := { s.fab with refreshedAt := s.clock } }

/-! ### The router (spec/12 R344, R345, R349, R354) -/

/-- The virtual lane of a packet type (Table FB-6), none for a type absent from it. -/
def typeVl (ty : Nat) : Option Nat :=
  if ty = 0x10 || (0x21 ≤ ty && ty ≤ 0x2A) || ty = 0x70 || ty = 0x71 then some 0
  else if ty = 0x60 then some 1
  else if ty = 0x01 || ty = 0x02 then some 2
  else if ty = 0x03 || ty = 0x04 then some 3
  else if ty = 0x30 then some 4
  else if 0x33 ≤ ty && ty ≤ 0x35 then some 5
  else if ty = 0x40 then some 6
  else if 0x50 ≤ ty && ty ≤ 0x54 then some 7
  else none

/-- The free credits of a port in a lane and pool. -/
def freeCredits (q : Port) (vl pool : Nat) : Nat := poolUnits vl - sget 0 (8 * vl + pool) q.credits

/-- The port that a packet takes among its candidates: the lowest-numbered one on VL0 and VL1, the one with the most
free credits on the other lanes, a tie going to the lowest number. -/
def choosePort (s : State) (vl pool : Nat) (ports : List Nat) : Option Nat :=
  match ports with
  | [] => none
  | p :: ps =>
    if vl ≤ 1 then some (ps.foldl min p)
    else some (ps.foldl (fun b q => if freeCredits (portOf s b) vl pool < freeCredits (portOf s q) vl pool then q else b) p)

/-- The candidate ports to a destination: those of the routes that are still UP. -/
def candidates (s : State) (dst : Nat) : List Nat :=
  (List.range 16).filter fun p => (sget 0 dst s.fab.routes).getLsbD p && (portOf s p).state == .up

/-- The partition's allowance in a steep, in bytes: its share × L(k) (spec/14 R402). -/
def fabricAllowance (s : State) (part : Nat) : Nat := cfg s 0x3014 (part + 1) * 1000 * s.steep.len

/-- A packet type that counts against the partition's fabric share: transfer units, with their requests and the data that
answers them, collectives, contribution units and tallies (spec/14 R402; DEDUCED, log entry 80). -/
def countsShare (ty : Nat) : Bool := (1 ≤ ty && ty ≤ 3) || ty = 0x30 || ty = 0x40

/-- A keeper copy or a parameter push, which counts against the module's push share (spec/09 R279, spec/14 R402). -/
def countsPush (ty : Nat) : Bool := ty = 0x33 || ty = 0x34

/-- The account that a packet of the module's own is counted in, with what it may hold in this steep: the partition's, the
push share's as account 64, or none. -/
def shareOf (s : State) (part ty : Nat) : Option (Nat × Nat) :=
  if countsShare ty then some (part, fabricAllowance s part)
  else if countsPush ty then some (64, cfg s 0x5020 3 * 1000 * s.steep.len)
  else none

/-- The members of a collective group: the mapped LDNs of its set, lowest first (spec/12 R353). -/
def groupMembers (s : State) (g : Nat) : List Nat :=
  ((mappedLdns s).map fun e => e.1).filter fun l => (cfg s (0x7300 + g) 1).testBit l

/-- The next module on the deterministic route from `a` to `dst`. -/
def nextHop (s : State) (a dst : Nat) : Option (Nat × Nat) :=
  match minimalPorts s (distancesTo s dst) a with
  | [] => none
  | p :: ps => let q := ps.foldl min p; (neighbour s a q).map fun b => (q, b)

/-- The modules that the deterministic route from `a` to `dst` passes, `a` first, with the port it leaves each by. -/
def routeFrom (s : State) (dst : Nat) : Nat → Nat → List (Nat × Nat)
  | 0, _ => []
  | fuel + 1, a =>
    if a = dst then []
    else match nextHop s a dst with
      | none => []
      | some (p, b) => (a, p) :: routeFrom s dst fuel b

/-- The ports by which a multicast packet leaves this module: the union of the deterministic routes from the root to
the members (spec/12 R354). -/
def treePorts (s : State) (root group : Nat) : List Nat :=
  match snaOfLdn s root with
  | none => []
  | some r =>
    let hops := (groupMembers s group).flatMap fun l =>
      match snaOfLdn s l with | some d => routeFrom s d 7 r | none => []
    (List.range 16).filter fun p => hops.contains (s.fab.sna.toNat, p)

/-- The header with one more hop taken. -/
def hopped (net : BitVec 256) : BitVec 256 := setFld net 109 3 ((fld net 109 3).toNat + 1)

/-- The header of a packet of this module's own, as its originator builds it (spec/12 Table FB-5, spec/02 R54, R56): the
command names DST, TYPE, MC, PART, ROOT, GROUP and the originating unit, and the module fills in the rest. -/
def ownHeader (net : BitVec 256) (payload : List Byte) (s : State) : BitVec 256 × State :=
  let f (lo n : Nat) : Nat := (fld net lo n).toNat
  let (oseq, t) := stamp (f 193 7) s
  let mc := f 108 1
  (packR 256 [(56, (shortStamp s).toNat), (32, oseq.toNat), (16, if mc = 1 then 0 else f 152 16), (16, s.fab.sna.toNat),
    (8, f 128 8), (13, payload.length), (3, (typeVl (f 128 8)).getD 0), (3, 0), (1, mc), (6, f 102 6),
    (10, mc * f 92 10), (8, mc * f 84 8), (84, 0)], t)

/-- A multicast packet's stamp is checked where a member of its group receives it (spec/02 R55). -/
def memberStamp (net : BitVec 256) (s : State) : State :=
  let member := match ownLdn s with
    | some l => (groupMembers s (fld net 84 8).toNat).contains l
    | none => false
  if member && s.timeKnown && (fullTime s (fld net 200 56)).isNone then
    { s with steep := { s.steep with badStamps := s.steep.badStamps + 1 } }
  else s

/-- What the router does with one packet: none where it must wait for credits or for the partition's share. -/
def routePacket (own : Bool) (port : Nat) (net : BitVec 256) (payload : List Byte) (s : State) : Option State :=
  let ty := (fld net 128 8).toNat
  let src := (fld net 136 16).toNat
  let dst := (fld net 152 16).toNat
  let vl := (fld net 112 3).toNat
  let hops := (fld net 109 3).toNat
  let part := (fld net 102 6).toNat
  let size := 8 + 32 + payload.length + 16
  let bumpFab (f : Fabric → Fabric) (s : State) : State := { s with fab := f s.fab }
  if s.fab.fencedSnas.contains (BitVec.ofNat 16 src) then
    some (bumpFab (fun f => { f with fencedDrops := f.fencedDrops + 1 }) s)
  else if typeVl ty = none then some (bumpFab (fun f => { f with unknown := f.unknown + 1 }) s)
  else if own && (match shareOf s part ty with
      | some (a, most) => decide (most < sget 0 a s.fab.share + size)
      | none => false) then none
  else
    let pay (s : State) : State :=
      match shareOf s part ty with
      | some (a, _) => if own then bumpFab (fun f => { f with share := supd 0 a (· + size) f.share }) s else s
      | none => s
    let pool := if own then 0 else hops + 1
    let net' := if own then net else hopped net
    if bit net 108 then
      let ports := treePorts s (fld net 92 10).toNat (fld net 84 8).toNat
      let ports := if own then ports else ports.filter fun p => p ≠ port
      if ports.all fun p => canSend (portOf s p) vl pool payload.length then
        some (pay (ports.foldl (fun s p => sendFrame p net' payload s) (if own then s else memberStamp net s)))
      else none
    else if dst = s.fab.sna.toNat then
      match fullTime s (fld net 200 56) with
      | none =>
        if s.timeKnown then some { s with steep := { s.steep with badStamps := s.steep.badStamps + 1 } } else some s
      | some t =>
        let s := if own then s else histSample (16 + port) 64 (ahead s.time t) s
        -- A Dictionary request for this module joins the fabric path's queue (spec/15 R438).
        some (if ty = 0x60 && dapOp (dapHeader payload) < 0x80 then acceptFrame 2 (dapEntry (dapHeader payload)) payload s
              else s)
    else if 6 < pool then some (bumpFab (fun f => { f with unreachable := f.unreachable + 1 }) s)
    else match choosePort s vl pool (candidates s dst) with
      | none => some (bumpFab (fun f => { f with unreachable := f.unreachable + 1 }) s)
      | some p => if canSend (portOf s p) vl pool payload.length then some (pay (sendFrame p net' payload s)) else none

/-- The oldest packet of each lane that a port has accepted and the router can take now: the lane, the packet, and the
state once it is taken. -/
def lanesReady (port : BitVec 4) (s : State) : List (Nat × (BitVec 4 × BitVec 256 × List Byte) × State) :=
  (List.range 8).filterMap fun v =>
    match s.fab.inbox.find? fun e => e.1 = port && (fld e.2.1 112 3).toNat = v with
    | none => none
    | some e => (routePacket false port.toNat e.2.1 e.2.2 s).map fun t => (v, e, t)

/-- The lane whose turn it is (spec/12 R344): VL0 before every other, which take turns of 0x7012 frames each; and the
lane and the frames of its turn afterwards. The port's arbiter stands at its input (log entry 74). -/
def nextLane (s : State) (q : Port) (ready : List Nat) : Option (Nat × Nat × Nat) :=
  if ready.contains 0 then some (0, q.lane, q.laneFrames)
  else if ready.contains q.lane && q.laneFrames < cfg s 0x7012 (q.lane + 1) then some (q.lane, q.lane, q.laneFrames + 1)
  else (((List.range 7).map fun i => (q.lane + i) % 7 + 1).find? fun v => ready.contains v).map fun v => (v, v, 1)

/-- PACKET_ROUTE (spec/12 R344, R345, R349): the router takes a packet accepted on a port, by lane, or a packet of the
module's own, and forwards, delivers or drops it; where credits or the fabric share are spent, the packet waits. A packet
that leaves its pool returns the pool's credits. -/
def execPacketRoute (port : BitVec 4) (own : Option (BitVec 256 × List Byte)) (s : State) :
    Outcome State Fault Refusal :=
  if s.fab.discovery = .alone then done s
  else match own with
  | some (net, payload) =>
    let h := ownHeader net payload s
    done ((routePacket true port.toNat h.1 payload h.2).getD s)
  | none =>
    let ready := lanesReady port s
    match nextLane s (portOf s port.toNat) (ready.map fun r => r.1) with
    | none => done s
    | some (v, lane, frames) =>
      match ready.find? fun r => r.1 = v with
      | none => done s
      | some r =>
        let key := 8 * v + (fld r.2.1.2.1 109 3).toNat
        let t := updPort port.toNat (fun q => { q with
          lane := lane, laneFrames := frames,
          owed := supd 0 key (· + frameUnits r.2.1.2.2.length) q.owed }) r.2.2
        done { t with fab := { t.fab with inbox := t.fab.inbox.erase r.2.1 } }

end Sys2Proof.Machine
end

