-- ==== Sys2Proof/Machine/Dap.lean ====
section
/-! DEFINITION. The Dictionary Access Protocol (spec/15): frames, the three paths, sessions, the custody exchange that
opens a session, and the staging lock. -/

namespace Sys2Proof.Machine

open Host (Outcome)

/-- A path delivers a response (spec/15 R436 to R438). -/
def deliver (path source : Nat) (bs : List Byte) (s : State) : State :=
  if path = 0 then emit (.dapResponse 0 source bs) s
  else if path = 1 then
    let s := updDict (fun d => { d with busy := false, response := true, respLen := BitVec.ofNat 16 bs.length,
                                        rsp := bs }) s
    let s := emit (.dapResponse 1 source bs) s
    if bit s.dict.mvec 8 then sendMsix 0 (fld s.dict.mvec 0 8) s else s
  else send (.sna (BitVec.ofNat 16 source)) (.dap bs) s

/-- The module answers nothing while HX has no power (spec/17 R467). -/
def answers (s : State) : Bool := s.boot.railHx

/-- A frame that arrives on the management port or the mailbox: taken here, or forwarded to its TARGET on VL1, or
dropped (spec/15 R438). -/
def arriveFrame (path source : Nat) (bs : List Byte) (s : State) : State :=
  let h := dapHeader bs
  if dapLocal h || dapTarget h = s.fab.sna.toNat then acceptFrame path source bs s
  else if s.fab.discovery = .complete && !(candidates s (dapTarget h)).isEmpty then
    let s := updDict (fun d => { d with forwarded := (d.forwarded ++
      [(dapTarget h, (dapSession h).toNat, (dapSeq h).toNat, path, source)]).drop (d.forwarded.length - 255) }) s
    send (.sna (BitVec.ofNat 16 (dapTarget h))) (.dap (withHeader (setFld h 160 16 s.fab.sna.toNat) bs)) s
  else updDict (fun d => { d with notForwarded := d.notForwarded + 1, busy := if path = 1 then false else d.busy }) s

/-- MGMT_DATAGRAM (spec/15 R436): one UDP datagram to port 46,496 with a good checksum, unfragmented, of up to 9,000
bytes; anything else is dropped. -/
def execMgmtDatagram (source : BitVec 128) (port udpPort : BitVec 16) (checksumGood fragment : Bool) (ipBytes : Nat)
    (frame : List Byte) (s : State) : Outcome State Fault Refusal :=
  onlyIf (answers s && s.dict.mgmtLink != 0 && udpPort == 46496 && checksumGood && !fragment &&
      decide (ipBytes ≤ 9000) && decide (32 ≤ frame.length) && decide (frame.length ≤ 4160)) s
    (arriveFrame 0 (source.toNat * 65536 + port.toNat) frame)

/-- The link-local address that the MAC address gives in modified EUI-64 form (spec/15 R436). -/
def linkLocal (s : State) : BitVec 128 :=
  let m := s.boot.mac.toNat
  let hi := (m / 2 ^ 24) ^^^ 0x020000
  BitVec.ofNat 128 (0xFE80 * 2 ^ 112 + hi * 2 ^ 40 + 0xFFFE * 2 ^ 24 + m % 2 ^ 24)

/-- An address of the management port: the link-local one, or the one set at 0x2020:01. The octets of the value stand
in network order, first octet first. -/
def isOwnAddress (s : State) (a : BitVec 128) : Bool :=
  let v := cfg s 0x2020 1
  a == linkLocal s || (v != 0 && beNat (leBytes 16 v) == a.toNat)

/-- NEIGHBOR_SOLICITATION (spec/15 R436). -/
def execNeighborSolicitation (source target : BitVec 128) (s : State) : Outcome State Fault Refusal :=
  onlyIf (answers s && s.dict.mgmtLink != 0 && isOwnAddress s target) s (emit (.neighborAdvertisement source target))

/-- ECHO_REQUEST (spec/15 R436). -/
def execEchoRequest (source target : BitVec 128) (data : List Byte) (s : State) : Outcome State Fault Refusal :=
  onlyIf (answers s && s.dict.mgmtLink != 0 && isOwnAddress s target) s (emit (.echoReply source data))

/-- MANAGEMENT_LINK_CHANGE (spec/15 R436): 0 down, 1 1000BASE-KX, 2 10GBASE-KR. -/
def execManagementLinkChange (link : BitVec 8) (s : State) : Outcome State Fault Refusal :=
  onlyIf (decide (link.toNat ≤ 2)) s (updDict fun d => { d with mgmtLink := link })

/-- MAILBOX_GO (spec/15 R437): a write of the request length to GO. While BUSY it is ignored and sets the length error
bit; a length outside 32 to 4,160 sets it too. -/
def execMailboxGo (length : BitVec 32) (s : State) : Outcome State Fault Refusal :=
  onlyIf (answers s) s fun s =>
    let n := length.toNat
    if s.dict.busy then updDict (fun d => { d with lenError := true }) s
    else if n < 32 || 4160 < n then updDict (fun d => { d with lenError := true, response := false }) s
    else
      let bs := (List.range n).map fun i => sget 0 i s.dict.req
      arriveFrame 1 0 bs (updDict (fun d => { d with busy := true, response := false, lenError := false }) s)

/-- FORWARDED_RESPONSE (spec/15 R438): the entry module returns a response on the path its request came by. -/
def execForwardedResponse (frame : List Byte) (s : State) : Outcome State Fault Refusal :=
  let h := dapHeader frame
  match s.dict.forwarded.find? fun f =>
      f.1 = dapTarget h && f.2.1 = (dapSession h).toNat && f.2.2.1 = (dapSeq h).toNat with
  | none => done s
  | some f =>
    let s := updDict (fun d => { d with forwarded := d.forwarded.erase f }) s
    done (deliver f.2.2.2.1 f.2.2.2.2 frame s)

/-! ### Sessions (spec/15 R431, R432) -/

/-- The session of an id. -/
def sessionOf (s : State) (id : BitVec 32) : Option Session := s.dict.sessions.find? fun x => x.id = id

/-- Replace a session. -/
def updSession (id : BitVec 32) (f : Session → Session) (s : State) : State :=
  updDict (fun d => { d with sessions := d.sessions.map fun x => if x.id = id then f x else x }) s

/-- Three tags of an open session have failed within 1 s (spec/15 Table OD-6). -/
def threeFails (x : Session) : Bool :=
  match x.tagFails with
  | a :: _ :: c :: _ => decide (a ≤ c + 2000000000)
  | _ => false

/-- An OPEN session that serves: a frame whose tag verifies has come within the last 600 s (spec/15 Table OD-6). -/
def serves (s : State) (x : Session) : Bool := x.state == .opened && decide (s.clock ≤ x.lastGood + 1200000000000)

/-- A session ends: its place is free and the staging lock it holds is released (spec/15 R440). -/
def endSession (id : BitVec 32) (s : State) : State :=
  updDict (fun d => { d with
    sessions := d.sessions.filter fun x => x.id ≠ id,
    lock := match d.lock with | some l => if l.1 = id then none else some l | none => none }) s

/-- SESSION_IDLE_TIMEOUT (spec/15 Table OD-6): 600 s without a frame whose tag verifies, or three tag failures within
1 s. -/
def execSessionIdleTimeout (session : BitVec 32) (s : State) : Outcome State Fault Refusal :=
  match sessionOf s session with
  | none => done s
  | some x =>
    if x.state ≠ .opened then done s
    else
      done (endSession session (if threeFails x then s else untilClock (x.lastGood + 1200000000000) s))

/-- An exchange fails: the session returns to FREE. -/
def failExchange (id : BitVec 32) (s : State) : State :=
  updDict (fun d => { d with failedExchanges := d.failedExchanges + 1 }) (endSession id s)

/-- EXCHANGE_TIMEOUT (spec/15 Table OD-6): 1 s in EXCHANGING. -/
def execExchangeTimeout (session : BitVec 32) (s : State) : Outcome State Fault Refusal :=
  match sessionOf s session with
  | none => done s
  | some x =>
    if x.state ≠ .exchanging then done s
    else done (failExchange session (untilClock (x.started + 2000000000) s))

/-- The manager key list, lowest subindex first (spec/15 R432). -/
def managerKeys (s : State) : List (BitVec 264) := (List.range 8).map fun i => sget 0 i s.dict.keys

/-- A list entry is valid. -/
def keyValid (e : BitVec 264) : Bool := bit e 257

/-- A list entry is write-allowed. -/
def keyWrites (e : BitVec 264) : Bool := keyValid e && bit e 256

/-- The valid list entry of a public key. -/
def listedKey (s : State) (pub : List Byte) : Option (BitVec 264) :=
  (managerKeys s).find? fun e => keyValid e && fld e 0 256 == Config.shake256 pub 256

/-! ### The Dictionary unit takes one frame (spec/15 R429, R435) -/

/-- Build and deliver the response to a frame: OP + 0x80, status, detail and a body, under the session's key. -/
def respond (f : Frame) (key : Option (BitVec 256)) (status detail count : Nat) (body : List Byte) (s : State) :
    List Byte × State :=
  let h := dapHeader f.bytes
  let h := setFld (setFld (setFld h 224 8 (dapOp h + 0x80)) 216 8 status) 208 8 detail
  let h := setFld (setFld (setFld h 190 1 0) 48 16 count) 32 16 body.length
  let bs := dapHeaderBytes h ++ body
  let bs := match key with | some k => bs ++ dapTagOf k "AQ1224-DAP-RSP" bs | none => bs
  (bs, deliver f.path f.source bs s)

/-- A frame of an open session is accepted, answered again from the stored response, or dropped (spec/15 R435). -/
inductive Taken where
  | accepted (x : Session)
  | dropped
  deriving DecidableEq, Repr

/-- A mailbox frame that is dropped clears BUSY (spec/15 R437). -/
def dropFrame (f : Frame) (s : State) : State :=
  if f.path = 1 then updDict (fun d => { d with busy := false, response := false }) s else s

/-- A tag of an open session fails; the third within 1 s ends the session (spec/15 Table OD-6). -/
def failTag (x : Session) (s : State) : State :=
  let y := { x with tagFails := (s.clock :: x.tagFails).take 3 }
  if threeFails y then endSession x.id s else updSession x.id (fun _ => y) s

/-- The checks of R435 on a frame of OP other than XCHG. -/
def takeFrame (f : Frame) (s : State) : Taken × State :=
  let h := dapHeader f.bytes
  match sessionOf s (dapSession h) with
  | none => (.dropped, dropFrame f (updDict (fun d => { d with tagDrops := d.tagDrops + 1 }) s))
  | some x =>
    let body := f.bytes.take (f.bytes.length - 32)
    if !serves s x then
      (.dropped, dropFrame f (updDict (fun d => { d with tagDrops := d.tagDrops + 1 }) s))
    else if f.bytes.length < 64 || dapTag f.bytes ≠ dapTagOf x.kmac "AQ1224-DAP-REQ" body then
      (.dropped, dropFrame f (updDict (fun d => { d with tagDrops := d.tagDrops + 1 }) (failTag x s)))
    else if dapSeq h = x.seq && f.bytes = x.lastFrame then
      (.dropped, deliver f.path f.source x.lastResponse (updSession x.id (fun x => { x with lastGood := s.clock }) s))
    else if (dapSeq h).toNat ≤ x.seq.toNat then
      (.dropped, dropFrame f (updDict (fun d => { d with seqDrops := d.seqDrops + 1 }) s))
    else
      let s := updSession x.id (fun x => { x with seq := dapSeq h, lastFrame := f.bytes, lastGood := s.clock }) s
      let s := updDict (fun d => { d with
        accepted := d.accepted + 1,
        lock := if lockHolder s = some x.id then some (x.id, s.clock) else d.lock }) s
      (.accepted x, s)

/-- Answer an accepted frame and store the response for a repeat. -/
def answer (f : Frame) (x : Session) (status detail count : Nat) (body : List Byte) (s : State) : State :=
  let (bs, s) := respond f (some x.kmac) status detail count body s
  updSession x.id (fun x => { x with lastResponse := bs }) s

/-- The frame has the form of R426: MAGIC, VERSION, COUNT, BLEN, reserved bits. -/
def frameForm (bs : List Byte) : Bool :=
  let h := dapHeader bs
  dapMagic h = 0xDA9A && dapVersion h = 1 && (fld h 176 14) == 0 && (fld h 0 32) == 0 &&
  bs.length = dapLength h && decide (dapCount h ≤ 64) && decide (bs.length ≤ 4160)

/-- Status and DETAIL of a frame that is not taken for its form (spec/15 Table OD-5): a reserved field of the header that
is not zero where nothing else is wrong (spec/00 R8), else FORMAT. -/
def formFault (bs : List Byte) : Nat × Nat :=
  if !frameForm bs && frameForm (withHeader (setFld (setFld (dapHeader bs) 176 14 0) 0 32 0) bs) then
    (stConfigRejected, 4)
  else (stFormat, 8)

/-- Frames at the head of the queue whose operation is not one of Table OD-4: answered FORMAT when their tag verifies,
dropped otherwise. -/
def purgeFrames : Nat → State → State
  | 0, s => s
  | fuel + 1, s =>
    match s.dict.frames with
    | [] => s
    | f :: fs =>
      if dapOpKnown (dapOp (dapHeader f.bytes)) then s
      else
        let s := updDict (fun d => { d with frames := fs }) s
        let s := match takeFrame f s with
          | (.accepted x, s) => answer f x stFormat 0x08 0 [] s
          | (.dropped, s) => s
        purgeFrames fuel s

/-- The next frame, if its operation is `op`, and the state without it. -/
def nextFrame (op : Nat) (s : State) : Option (Frame × State) :=
  let s := purgeFrames s.dict.frames.length s
  match s.dict.frames with
  | [] => none
  | f :: fs =>
    if dapOp (dapHeader f.bytes) = op then some (f, updDict (fun d => { d with frames := fs }) s) else none

/-- CLOSE (spec/15 R431): a CLOSE frame ends its session. -/
def execClose (s : State) : Outcome State Fault Refusal :=
  match nextFrame 0x02 s with
  | none => done s
  | some (f, s) =>
    match takeFrame f s with
    | (.dropped, s) => done s
    | (.accepted x, s) =>
      if !frameForm f.bytes then done (answer f x (formFault f.bytes).1 (formFault f.bytes).2 0 [] s)
      else done (endSession x.id (answer f x stOk 0 0 [] s))

/-! ### The custody exchange (spec/13 R374, spec/15 R433) -/

/-- Messages of the exchange as XCHG response frames, in fragments of at most 4,000 bytes (spec/15 R433). -/
def sendMessage (f : Frame) (num : Nat) (msg : List Byte) (s : State) : State :=
  let frs := chunk 4000 (msg.length / 4000 + 1) msg
  (indexed frs).foldl (fun s p =>
    (respond f none stOk 0 1 ([BitVec.ofNat 8 num, BitVec.ofNat 8 p.1, BitVec.ofNat 8 frs.length, 0, 0, 0, 0, 0] ++ p.2)
      s).2) s

/-- The reassembled message, when every fragment has arrived. -/
def reassemble (frs : List (Nat × Nat × List Byte)) : Option (List Byte) :=
  match frs with
  | [] => none
  | (_, n, _) :: _ =>
    let ps := (List.range n).map fun i => (frs.find? fun f => f.1 = i).map fun f => f.2.2
    if n ≠ 0 && ps.all (fun p => p.isSome) then some (ps.flatMap fun p => p.getD []) else none

/-- Message 1 is whole: refuse it, or answer with message 2 (spec/15 R432, R433). -/
def takeMessage1 (f : Frame) (x : Session) (msg : List Byte) (s : State) : State :=
  let pub := msg.drop 32
  let key := listedKey s pub
  if (key.isNone && f.path ≠ 1) || !(s.cust.state == .ready || s.cust.state == .sealBroken) ||
      (msg.length ≠ 32 && msg.length ≠ 1984) then
    (respond f none stNotPermitted 0 0 [] (failExchange x.id s)).2
  else
    let (nm, s) := fresh 256 s
    let m2 := Config.identityCerts ++ kemCertificate s ++ wordBytes nm ++ wordBytes x.id
    let s := updSession x.id (fun x => { x with
      keyed := key.isSome, writeAllowed := (key.map keyWrites).getD false, publicKey := pub, fragments := [],
      transcript := msg ++ m2 }) s
    sendMessage f 2 m2 s

/-- Message 3 is whole: decapsulate, verify the manager's signature, open the session and sign T (spec/15 R433). -/
def takeMessage3 (f : Frame) (x : Session) (msg : List Byte) (s : State) : State :=
  let ct := msg.take 1088
  let sig := msg.drop 1088
  let t := x.transcript ++ ct
  let guest := x.publicKey.isEmpty
  let good := (guest && sig.isEmpty) ||
    (!guest && Config.mlDsaVerify x.publicKey "AQ1224-SESS" (wordBytes (transcriptHash t)) sig)
  if msg.length < 1088 || !good then (respond f none stNotPermitted 0 0 [] (failExchange x.id s)).2
  else
    let okm := okmOf (Config.mlKemDecap s.cust.kem ct) t
    let s := updSession x.id (fun x => { x with state := .opened, kmac := fld okm 512 256, fragments := [],
                                                lastGood := s.clock, transcript := [] }) s
    sendMessage f 4 (wordBytes (Config.mlDsaSign "AQ1224-SESS" (wordBytes (transcriptHash t)))) s

/-- The session that a fragment of message `num` continues: the latest one EXCHANGING from the same path and source, not 1 s
after its message 1, and message 3 follows message 2 (spec/15 R433, Table OD-6). An XCHG frame names no session (DEDUCED, log
entry 80). -/
def exchangeOf (s : State) (f : Frame) (num : Nat) : Option Session :=
  s.dict.sessions.reverse.find? fun x => x.state = .exchanging && x.path = f.path && x.source = f.source &&
    decide (s.clock ≤ x.started + 2000000000) && num = (if x.transcript.isEmpty then 1 else 3)

/-- XCHG (spec/15 R433): one fragment of message 1 or 3 of the custody exchange. -/
def execXchg (s : State) : Outcome State Fault Refusal :=
  match nextFrame 0x01 s with
  | none => done s
  | some (f, s) =>
    let body := dapBody f.bytes
    let num := (body.getD 0 0).toNat
    let idx := (body.getD 1 0).toNat
    let cnt := (body.getD 2 0).toNat
    let frag := (idx, cnt, body.drop 8)
    if !frameForm f.bytes then done (respond f none (formFault f.bytes).1 (formFault f.bytes).2 0 [] s).2
    else if body.length < 8 || (body.drop 3).take 5 ≠ [0, 0, 0, 0, 0] then
      done (respond f none stFormat 0x08 0 [] s).2
    else match num, exchangeOf s f num with
      | 1, some x =>
        let s := updSession x.id (fun x => { x with fragments := x.fragments ++ [frag] }) s
        match reassemble (x.fragments ++ [frag]) with
        | some m => done (takeMessage1 f x m s)
        | none => done s
      | 1, none =>
        if 16 ≤ s.dict.sessions.length then done (respond f none stQuota 0x0A 0 [] s).2
        else
          let id := BitVec.ofNat 32 (s.dict.sessionCount + 1)
          let x : Session :=
            { id := id, state := .exchanging, keyed := false, writeAllowed := false, kmac := 0, publicKey := [],
              path := f.path, source := f.source, seq := 0, lastFrame := [], lastResponse := [], started := s.clock,
              lastGood := s.clock, tagFails := [], fragments := [frag], transcript := [] }
          let s := updDict (fun d => { d with sessions := d.sessions ++ [x], sessionCount := d.sessionCount + 1 }) s
          match reassemble [frag] with
          | some m => done (takeMessage1 f x m s)
          | none => done s
      | 3, some x =>
        let s := updSession x.id (fun x => { x with fragments := x.fragments ++ [frag] }) s
        match reassemble (x.fragments ++ [frag]) with
        | some m => done (takeMessage3 f x m s)
        | none => done s
      | _, _ => done (respond f none stFormat 0x08 0 [] s).2

/-! ### The staging lock (spec/15 R440) -/

/-- Another session holds the staging lock. -/
def lockedOut (s : State) (session : BitVec 32) : Bool := (lockHolder s).any fun id => id != session

/-- A session that may stage: it serves a write-allowed key, and no other session holds the staging lock. -/
def mayStage (s : State) (session : BitVec 32) : Bool :=
  ((sessionOf s session).any fun x => serves s x && x.keyed && x.writeAllowed) && !lockedOut s session

/-- STAGING_LOCK (spec/15 R440): a write to 0xA000:04 takes or releases the lock. -/
def execStagingLock (session : BitVec 32) (take : Bool) (s : State) : Outcome State Fault Refusal :=
  onlyIf (mayStage s session) s (updDict fun d => { d with lock := if take then some (session, s.clock) else none })

/-- STAGING_LOCK_TIMEOUT (spec/15 R440): 10 s after the holder's last accepted frame. -/
def execStagingLockTimeout (s : State) : Outcome State Fault Refusal :=
  match s.dict.lock with
  | none => done s
  | some l =>
    let s := untilClock (l.2 + 20000000000) s
    done (updDict (fun d => { d with lock := none }) s)

/-- MANAGER_KEY_LIST_WRITE (spec/15 R434): subindex 1 to 8 takes effect at once and is written through to the EEPROM;
a write that leaves no valid write-allowed entry is rejected unless it clears the whole list. -/
def execManagerKeyListWrite (session : BitVec 32) (sub : BitVec 8) (value : BitVec 264) (s : State) :
    Outcome State Fault Refusal :=
  let i := sub.toNat - 1
  let new := sput 0 i value s.dict.keys
  let list := (List.range 8).map fun j => sget 0 j new
  let allowed := match sessionOf s session with
    | some x => serves s x && (x.writeAllowed || (!x.keyed && !((managerKeys s).any keyValid)))
    | none => false
  onlyIf (allowed && decide (1 ≤ sub.toNat) && decide (sub.toNat ≤ 8) && fld value 258 6 == 0 &&
      (list.any keyWrites || list.all fun e => !keyValid e)) s
    (updDict fun d => { d with keys := new })

end Sys2Proof.Machine
end

