-- ==== Sys2Proof/Machine/Custody.lean ====
section
/-! DEFINITION. Custody (spec/13): key slots, import, rotation, removal, sweep and scrub; attestation, the event log and
the seal break. -/

namespace Sys2Proof.Machine

open Host (Outcome)

/-- Apply `f` to the Custody Controller. -/
def updCust (f : Custody → Custody) (s : State) : State := { s with cust := f s.cust }

/-- A custody request has been served: it leaves the controller's queue (spec/13 R369). -/
def served (id : Nat) (s : State) : State :=
  updCust (fun c => { c with requests := c.requests.filter fun r => r.2 ≠ some id }) s

/-! ### Tracked blocks (spec/13 R382) -/

/-- The blocks that the module tracks for a slot. -/
def trackedBlocks (s : State) (slot : Nat) : List Nat :=
  let descs := (s.ad.descs.map fun e => e.2).filter fun d => dSlot d = slot && dAdid d ≠ 0
  (kvBlocks s slot ++ descs.flatMap fun d =>
    (pageSlices s d (dPage d false) ++ pageSlices s d (dPage d true) ++ framesHere s d).flatMap blocksOf).eraseDups

/-! ### Import (spec/13 R377, Tables CU-8 to CU-10) -/

/-- Fields of an import blob header. -/
def bMagic (h : BitVec 512) : Nat := (fld h 0 16).toNat
def bVersion (h : BitVec 512) : Nat := (fld h 16 8).toNat
def bKind (h : BitVec 512) : Nat := (fld h 24 8).toNat
def bMode (h : BitVec 512) : Bool := bit h 37
def bKgen (h : BitVec 512) : BitVec 16 := fld h 38 16
def bSlot (h : BitVec 512) : Nat := (fld h 54 13).toNat
def bNmem (h : BitVec 512) : Nat := (fld h 67 5).toNat
def bKeyId (h : BitVec 512) : BitVec 128 := fld h 256 128
def bKemd (h : BitVec 512) : BitVec 128 := fld h 384 128

/-- The length of the sealed material (Table CU-9). -/
def materialLen (h : BitVec 512) : Nat :=
  match bKind h with
  | 0 => 32
  | 1 => 32 + 40 * bNmem h
  | _ => 2016

/-- Check 1 of Table CU-10; KIND 2 to 4 name no steep (spec/13 R376). -/
def blobForm (h : BitVec 512) (len : Nat) (steep : BitVec 64) : Bool :=
  bMagic h = 0x5107 && bVersion h = 1 && bKind h ≤ 4 && (fld h 72 184) = 0 && (fld h 32 5) = 0 &&
  (bKind h ≠ 1 || (1 ≤ bNmem h && bNmem h ≤ 16)) && len = 64 + 1088 + materialLen h + 16 &&
  (bKind h ≤ 1 || steep = 0)

/-- The state of a half (spec/11 Table LF-1). -/
def halfState (s : State) (h : Bool) : Nat := (fld (if h then s.leaf.rec1 else s.leaf.rec0) 189 3).toNat

/-- Check 5 of Table CU-10 on a key slot. -/
def slotModeOk (k : KeySlot) (mode : Bool) : Bool := if mode then k.state = .loaded else k.state = .free

/-- The key that seals an import's material. -/
def importKey (ss : BitVec 256) (h : List Byte) : BitVec 256 :=
  Config.shake256 (ascii "AQ1224-IMP" ++ wordBytes ss ++ h) 256

/-- The opened material of a blob, none where its tag does not verify. -/
def openBlob (s : State) (h : BitVec 512) (blob : List Byte) : Option (List Byte) :=
  let ss := Config.mlKemDecap s.cust.kem ((blob.drop 64).take 1088)
  let key := importKey ss (blob.take 64)
  let ct := (blob.drop 1152).take (materialLen h)
  if wordBytes (Config.gcmTag key 0 (blob.take 64) ct) = (blob.drop (1152 + materialLen h)).take 16 then
    some (gcmCrypt key 0 ct) else none

/-- A 256-bit key from 32 bytes. -/
def keyOfBytes (b : List Byte) : BitVec 256 := BitVec.ofNat 256 (leNat (b.take 32))

/-- A member entry verifies (spec/13 R386). -/
def memberVerifies (s : State) (slot : Nat) (root : BitVec 256) (e : List Byte) : Bool :=
  let m := slotOf s (leNat (e.take 2))
  match m.cur with
  | none => false
  | some k =>
    (m.state = .loaded || m.state = .rotating) && m.gen.toNat = leNat ((e.drop 2).take 2) &&
    leNat ((e.drop 4).take 4) = 0 && leNat (e.take 2) < 8192 &&
    Config.kmac256 (macKeyOf k) "AQ1224-JOIN" (leBytes 2 slot ++ wordBytes (commitmentOf root)) =
      BitVec.ofNat 256 (leNat ((e.drop 8).take 32))

/-- Refuse an import with the status of a check of Table CU-10. -/
def refuseImport (id status order : Nat) (s : State) : State :=
  updCust (fun c => { c with importsRefused := c.importsRefused + 1 }) (finish id status order 0 s)

/-- A base key record as it stands in the leaf metadata area (spec/13 R388): nonce, tag, and KEYID, XTS key pair and
verification key encrypted under the storage key. The layout is the model's (DESIGN CHOICE, log entry 79). -/
def sealRecord (nonce : BitVec 96) (r : BaseKey) : List Byte :=
  let ct := gcmCrypt Config.storageKey nonce (wordBytes r.keyId ++ wordBytes r.xts ++ r.verify)
  wordBytes nonce ++ wordBytes (Config.gcmTag Config.storageKey nonce [] ct) ++ ct

/-- The base key record that a sealed record holds, none where there is none or its tag does not verify. -/
def openRecord (b : List Byte) : Option BaseKey :=
  let nonce : BitVec 96 := BitVec.ofNat 96 (leNat (b.take 12))
  let ct := b.drop 28
  let m := gcmCrypt Config.storageKey nonce ct
  if b.length < 108 || wordBytes (Config.gcmTag Config.storageKey nonce [] ct) ≠ (b.drop 12).take 16 then none
  else some { keyId := BitVec.ofNat 128 (leNat (m.take 16)), xts := BitVec.ofNat 512 (leNat ((m.drop 16).take 64)),
              verify := m.drop 80 }

/-- Install a base key record at once (spec/13 R388): the halves' records are also sealed into the metadata area, under a
fresh nonce. -/
def installBaseKey (kind : Nat) (id : BitVec 128) (m : List Byte) (s : State) : State :=
  let r : BaseKey := { keyId := id, xts := BitVec.ofNat 512 (leNat (m.take 64)), verify := m.drop 64 }
  let (nonce, s) := fresh 96 s
  let s := updCust (fun c => match kind with
    | 2 => { c with base0 := some r, stored0 := sealRecord nonce r }
    | 3 => { c with base1 := some r, stored1 := sealRecord nonce r }
    | _ => { c with baseTrial := some r }) s
  let com : BitVec 128 := Config.shake256 (ascii "AQ1224-BCOM" ++ m.take 64) 128
  measure 1 0x0101 (measData [(16, kind - 2), (16, id.toNat), (16, com.toNat)]) s

/-- KEY_IMPORT (spec/13 R376, R377, R388; spec/14 R403, R500, R501). -/
def execKeyImport (host : HostMem) (s : State) : Outcome State Fault Refusal :=
  onHead 0x50 s fun c s =>
    let p := c.part.toNat
    let s := served c.id s
    match hostRead host (cAddr0 c.word) (cLen c.word) with
    | none => finish c.id stChecksum 0 0 (countGcmFail 1 s)
    | some blob =>
      let s := countHostRead blob.length s
      let h := BitVec.ofNat 512 (leNat (blob.take 64))
      let kind := bKind h
      let slot := bSlot h
      if !blobForm h (cLen c.word) (cSteep c.word) then refuseImport c.id stFormat 1 s
      else if s.cust.state ≠ .ready || bKemd h ≠ kemDigest s then refuseImport c.id stNotPermitted 2 s
      else if (kind ≤ 1 && !holdsSlot s p slot) || ((kind = 2 || kind = 3) && p ≠ 0) ||
          (kind = 4 && !(cfg s 0x3016 (p + 1)).testBit 0) then refuseImport c.id stNotPermitted 3 s
      else if kind ≤ 1 && bKgen h ≠ (slotOf s slot).gen then refuseImport c.id stKeyRevoked 4 s
      else if (kind ≤ 1 && !slotModeOk (slotOf s slot) (bMode h)) ||
          ((kind = 2 || kind = 3) && halfState s (kind = 3) ≠ 0 && halfState s (kind = 3) ≠ 2) then
        refuseImport c.id stNotPermitted 5 s
      else match openBlob s h blob with
        | none => refuseImport c.id stNotPermitted 6 s
        | some m =>
          let root := keyOfBytes m
          let es := if kind = 1 then (chunk 40 16 (m.drop 32)) else []
          if !es.all fun e => memberVerifies s slot root e then refuseImport c.id stNotPermitted 7 s
          else if 2 ≤ kind then finish c.id stOk 0 0 (installBaseKey kind (bKeyId h) m s)
          else if !boundariesKnown s then refuseImport c.id stNotPermitted 0 s
          else if !atLeast20us s (cSteep c.word) then refuseImport c.id stTimeout 0 s
          else if !bMode h && quotaFull s p 3 1 then refuseImport c.id stQuota 0 s
          else
            let i : PendingImport := { slot := BitVec.ofNat 13 slot, kgen := bKgen h, mode := bMode h, key := root,
                                       consortium := kind = 1,
                                       members := es.map fun e => (BitVec.ofNat 13 (leNat (e.take 2)),
                                         BitVec.ofNat 16 (leNat ((e.drop 2).take 2))),
                                       steep := cSteep c.word, receipt := cAddr1 c.word, cmd := c.id }
            takeUp c.id (updCust (fun q => { q with imports := q.imports ++ [i] }) s)

/-- No key command of the slot that was accepted before `id` is due at the present boundary (spec/13 R376: canonical
order of acceptance). -/
def firstDue (s : State) (slot : BitVec 13) (id : Nat) : Bool :=
  (s.cust.imports.all fun i => i.slot ≠ slot || !hasBegun s i.steep || id ≤ i.cmd) &&
  (s.cust.removes.all fun r => r.slot ≠ slot || !hasBegun s r.steep || id ≤ r.cmd)

/-- The import receipt (spec/13 Table CU-15). -/
def receiptOf (s : State) (slot : Nat) (k : KeySlot) (root : BitVec 256) (e : BitVec 64) : List Byte :=
  let h := leBytes 2 (slot + 2 ^ 15 * k.parity.toNat) ++ wordBytes k.gen ++ wordBytes s.cust.boot ++
    wordBytes (kemDigest s) ++ wordBytes e
  h ++ wordBytes (Config.kmac256 (macKeyOf root) "AQ1224-RCPT" h)

/-- The partition of a command that is still accepted. -/
def partOfCmd (s : State) (id : Nat) : Nat := ((cmdOf s id).map fun c => c.part.toNat).getD 0

/-- The generation in which a command was accepted is still its partition's (spec/14 R418). -/
def cmdCurrent (s : State) (id : Nat) : Bool :=
  match cmdOf s id with
  | none => false
  | some c => c.pgen = (partOf s c.part.toNat).gen

/-- KEY_IMPORT_EFFECT (spec/13 R376, R378, R382, R387): at B(E), checks 4 and 5 again, then the key takes effect. -/
def execKeyImportEffect (slot : BitVec 13) (s : State) : Outcome State Fault Refusal :=
  match s.cust.imports.find? fun i => i.slot = slot && hasBegun s i.steep with
  | none => done s
  | some i =>
    if !boundariesKnown s || !firstDue s slot i.cmd then done s
    else
      let s := updCust (fun c => { c with imports := c.imports.erase i }) s
      let n := slot.toNat
      let k := slotOf s n
      if i.kgen ≠ k.gen then done (refuseImport i.cmd stKeyRevoked 4 s)
      else if !slotModeOk k i.mode then done (refuseImport i.cmd stNotPermitted 5 s)
      else
        let k' : KeySlot :=
          if i.mode then { k with state := .rotating, parity := !k.parity, prev := k.cur, cur := some i.key,
                                  consortium := i.consortium, members := i.members, since := s.steep.k,
                                  left := trackedBlocks s n }
          else { k with state := .loaded, cur := some i.key, prev := none, consortium := i.consortium,
                        members := i.members, since := s.steep.k, left := [] }
        let s := setSlot n k' s
        let s := measure 2 0x0201 (measData [(2, n), (2, k'.gen.toNat), (4, k'.parity.toNat),
          (32, (commitmentOf i.key).toNat)]) s
        let s := hostWrite (partOfCmd s i.cmd) i.receipt (receiptOf s n k' i.key i.steep) s
        done (finish i.cmd stOk 0 0 s)

/-- Every block of a range, by number. -/
def rangeBlocks (a n : Nat) : List Nat := blocksOf (a, n)

/-- KEY_REMOVE (spec/13 R376, spec/14 R500). -/
def execKeyRemove (s : State) : Outcome State Fault Refusal :=
  onHead 0x51 s fun c s =>
    let s := served c.id s
    if (slotOf s (cSlot c.word)).gen ≠ cGen c.word then finish c.id stKeyRevoked 0 0 s
    else if !boundariesKnown s then finish c.id stNotPermitted 0 0 s
    else if !atLeast20us s (cSteep c.word) then finish c.id stTimeout 0 0 s
    else
      let r : PendingRemove := { slot := BitVec.ofNat 13 (cSlot c.word), gen := cGen c.word, steep := cSteep c.word,
                                 cmd := c.id }
      takeUp c.id (updCust (fun q => { q with removes := q.removes ++ [r] }) s)

/-- The KEY.SWEEPs of a slot whose keys go end with KEY_REVOKED (spec/13 R382). -/
def endSweeps (k : KeySlot) (s : State) : State := k.sweeps.foldl (fun s w => finish w.1 stKeyRevoked 0 0 s) s

/-- The removal of a slot's keys (spec/13 R383, R385): everything that happens in the one cycle at B(E). -/
def removeSlot (n : Nat) (s : State) : State :=
  let k := slotOf s n
  let left := (trackedBlocks s n ++ k.left ++ k.sweeps.flatMap fun w => w.2).eraseDups
  let s := endSweeps k s
  let gen := if k.gen = 0xFFFF then k.gen else k.gen + 1
  let s := setSlot n { state := .scrubbing, gen := gen, parity := k.parity, left := left } s
  let s := zeroCaddySlot n s
  let s := invalidateDescs 2 (fun d => dSlot d = n && dKgen d ≠ gen) s
  let s := kvRemoved n s
  measure 2 0x0202 (measData [(2, n), (2, gen.toNat)]) s

/-- KEY_REMOVE_EFFECT (spec/13 R376, R383). -/
def execKeyRemoveEffect (slot : BitVec 13) (s : State) : Outcome State Fault Refusal :=
  match s.cust.removes.find? fun r => r.slot = slot && hasBegun s r.steep with
  | none => done s
  | some r =>
    if !boundariesKnown s || !firstDue s slot r.cmd then done s
    else
      let s := updCust (fun c => { c with removes := c.removes.erase r }) s
      let k := slotOf s slot.toNat
      if r.gen ≠ k.gen then done (finish r.cmd stKeyRevoked 0 0 s)
      else if k.state ≠ .loaded && k.state ≠ .rotating then done (finish r.cmd stNotPermitted 0 0 s)
      else done (finish r.cmd stOk 0 0 (removeSlot slot.toNat s))

/-! ### Sweep and scrub (spec/13 R382, R385) -/

/-- KEY_SWEEP (spec/13 R382, spec/14 Table HQ-9). -/
def execKeySweep (s : State) : Outcome State Fault Refusal :=
  onHead 0x52 s fun c s =>
    let n := cSlot c.word
    let a := cAddr1 c.word
    let len := cLen c.word
    if a % 4096 ≠ 0 || len % 4096 ≠ 0 then finish c.id stFormat 0 0 s
    else if (slotOf s n).state ≠ .rotating then finish c.id stNotPermitted 0 0 s
    else if len = 0 then finish c.id stOk 0 0 s
    else
      let k := slotOf s n
      takeUp c.id (setSlot n { k with sweeps := k.sweeps ++ [(c.id, rangeBlocks a len)] } s)

/-- The partition whose slot range holds a slot, 0 where none does. -/
def slotOwnerD (s : State) (n : Nat) : Nat := (slotOwner s n).getD 0

/-- Re-encrypt one block under the slot's current key: a block that already carries the current epoch stays as it is. -/
def sweepOne (n b : Nat) (s : State) : State :=
  let k := slotOf s n
  let r := blockOf s b
  match k.cur with
  | none => s
  | some key =>
    if r.ep = k.parity then s
    else
      let v := verifyBlock {} b s
      let plain := xtsRead n (4096 * b) 4096 v.2
      let s := setBlock b { blockOf plain.2 b with ep := k.parity } plain.2
      let s := writeInBlock true (4096 * b) (encryptUnits (xtsKeyAt s (4096 * b) key) k.parity (4096 * b) plain.1) s
      let s := setBlock b { blockOf s b with bad := (blockOf v.2 b).bad } s
      let s := count (hbmBlockNo (blockStack b)) 0x04D 1 s
      logMem (slotOwnerD s n) (4096 * b) 4096 s

/-- The sweep share lets the next block be taken: 4,096 bytes take their time at the rate of 0x9300:01 (spec/13 R382). -/
def sweepPace (s : State) : State :=
  let s := untilClock s.cust.sweepFree s
  updCust (fun c => { c with sweepFree := s.clock + 8192 / cfg s 0x9300 1 }) s

/-- SWEEP_BLOCK (spec/13 R382): the next block of the walk, then of the ranges of KEY.SWEEP, in order. No read is
outstanding between commands, so every busy count is 0 (log entry 21). -/
def execSweepBlock (slot : BitVec 13) (s : State) : Outcome State Fault Refusal :=
  let n := slot.toNat
  let k := slotOf s n
  if k.state ≠ .rotating then done s
  else match k.left, k.sweeps with
    | b :: bs, _ =>
      let s := sweepOne n b (sweepPace s)
      done (setSlot n { slotOf s n with left := bs } s)
    | [], (id, b :: bs) :: ws =>
      let s := sweepOne n b (sweepPace s)
      if bs.isEmpty then done (finish id stOk 0 0 (setSlot n { slotOf s n with sweeps := ws } s))
      else done (setSlot n { slotOf s n with sweeps := (id, bs) :: ws } s)
    | [], (id, []) :: ws => done (finish id stOk 0 0 (setSlot n { k with sweeps := ws } s))
    | [], [] => done s

/-- ROTATION_CUTOVER (spec/13 R382 step 5), at a steep boundary. -/
def execRotationCutover (slot : BitVec 13) (s : State) : Outcome State Fault Refusal :=
  let n := slot.toNat
  let k := slotOf s n
  onlyIf (atBoundary s && k.state == .rotating && k.left.isEmpty && k.sweeps.isEmpty &&
      decide (1024 ≤ ahead s.steep.k k.since)) s fun s =>
    kvRotated n (setSlot n { k with state := .loaded, prev := none } s)

/-- SCRUB_BLOCK (spec/13 R385). -/
def execScrubBlock (slot : BitVec 13) (s : State) : Outcome State Fault Refusal :=
  let n := slot.toNat
  let k := slotOf s n
  match k.left with
  | [] => done s
  | b :: bs =>
    if k.state ≠ .scrubbing then done s
    else
      let s := sweepPace s
      let s := count (hbmBlockNo (blockStack b)) 0x04D 1 (writeInBlock true (4096 * b) (List.replicate 4096 0) s)
      done (setSlot n { k with left := bs } (logMem (slotOwnerD s n) (4096 * b) 4096 s))

/-- SCRUB_COMPLETE (spec/13 R385, Table CU-7). -/
def execScrubComplete (slot : BitVec 13) (s : State) : Outcome State Fault Refusal :=
  let n := slot.toNat
  let k := slotOf s n
  onlyIf (k.state == .scrubbing && k.left.isEmpty) s fun s =>
    kvScrubbed n (setSlot n { k with state := if k.gen = 0xFFFF then .retired else .free } s)

/-- CUSTODY_REQUEST_TIMEOUT (spec/13 R369): the oldest waiting request, 100 ms after its arrival. -/
def execCustodyRequestTimeout (s : State) : Outcome State Fault Refusal :=
  match s.cust.requests with
  | [] => done s
  | (at_, id) :: rest =>
    let s := untilClock (at_ + 200000000) (updCust (fun c => { c with requests := rest }) s)
    match id with
    | none => done s
    | some id => done (finish id stTimeout 0 0 s)

/-! ### Attestation and the event log (spec/13 R372, R373) -/

/-- Every RWS entry of the active set, in index order: key, size and value. -/
def rwsEntries (s : State) : List (Nat × Nat × Nat) :=
  let rows := entryRows.filter fun r => r.access = .rws
  let all := rows.flatMap fun r => (List.range (r.idx1 - r.idx0 + 1)).flatMap fun i =>
    (List.range (r.sub1 - r.sub0 + 1)).map fun j =>
      (entryKey (r.idx0 + i) (r.sub0 + j), r.size, cfg s (r.idx0 + i) (r.sub0 + j))
  canonSort (fun e => (e.1, 0, 0)) all

/-- The digest of the configuration in a report: SHAKE256, 64 bytes, over the values of every RWS entry. -/
def rwsDigest (s : State) : BitVec 512 :=
  Config.shake256 ((rwsEntries s).flatMap fun e => leBytes e.2.1 e.2.2) 512

/-- The named slot's part of a report. -/
def reportSlot (s : State) (slot : Nat) : List Byte :=
  if 8192 ≤ slot then List.replicate 64 0
  else
    let k := slotOf s slot
    let com := (k.cur.map fun r => (commitmentOf r).toNat).getD 0
    leBytes 2 slot ++ wordBytes k.gen ++ leBytes 1 (slotCode k.state) ++ leBytes 1 k.parity.toNat ++
      leBytes 1 (slotOwnerD s slot) ++ leBytes 25 0 ++ leBytes 32 com

/-- Bytes 0x000 to 0x27F of an attestation report (Table CU-6). The places inside the first, generation and slot
fields are the model's (DESIGN CHOICE, log entry 20). -/
def reportBody (s : State) (nonce : BitVec 512) (slot : Nat) : List Byte :=
  let c := s.cust
  let flags := (if c.state = .sealBroken then 1 else 0) + (if c.logFull then 2 else 0)
  (leBytes 2 0xA77E ++ leBytes 1 1 ++ leBytes 1 flags ++ wordBytes c.boot ++ leBytes 8 c.reports ++
    wordBytes (spaporTime s) ++ wordBytes s.fab.sna ++ leBytes 2 (ownLdnD s) ++ leBytes 36 0) ++
  wordBytes nonce ++ wordBytes c.mr0 ++ wordBytes c.mr1 ++ wordBytes c.mr2 ++ wordBytes c.mr3 ++
  (wordBytes s.leaf.activeGen ++ wordBytes s.leaf.retainedGen ++ wordBytes s.leaf.trial.gen ++ leBytes 10 0 ++
    wordBytes (recDigest s.leaf.rec0) ++ wordBytes (recDigest s.leaf.rec1) ++ wordBytes s.leaf.trial.digest) ++
  wordBytes (rwsDigest s) ++ reportSlot s slot ++ wordBytes (kemDigest s) ++ leBytes 48 0

/-- An attestation report, 4,096 bytes (Table CU-6). -/
def attestationReport (s : State) (nonce : BitVec 512) (slot : Nat) : List Byte :=
  let b := reportBody s nonce slot
  b ++ wordBytes (Config.mlDsaSign "AQ1224-ATT" b) ++ leBytes 147 0

/-- The controller serves requests for evidence (Table CU-2). -/
def custodyServes (s : State) : Bool := s.cust.state = .ready || s.cust.state = .sealBroken

/-- ATTESTATION_REQUEST (spec/13 R373). -/
def execAttestationRequest (nonce : BitVec 512) (slot : BitVec 16) (s : State) : Outcome State Fault Refusal :=
  onlyIf (custodyServes s) s fun s =>
    let s := updCust (fun c => { c with reports := c.reports + 1 }) s
    updCust (fun c => { c with report := attestationReport s nonce slot.toNat }) s

/-- EVENT_LOG_READ (spec/13 R372). -/
def execEventLogRead (index : BitVec 32) (s : State) : Outcome State Fault Refusal :=
  match s.cust.log[index.toNat]? with
  | none => done s
  | some r => done (updCust (fun c => { c with logRead := r }) s)

/-! ### The seal break (spec/13 R389, R390) -/

/-- Zeroise every sealed unit (Table CU-13): tile memories and the caddies above them, accumulators, register sets and
pipelines. -/
def zeroSealed (s : State) : State :=
  let s := dropCaddy (fun _ => true) s
  let s := { s with mem := memZero s.mem (tileBase 0) 0x30000000 }
  let clear (k : Core) : Core :=
    { k with active := none, shadow := none, acc0 := {}, acc1 := {}, rank0 := {}, rank1 := {}, aActive := [],
             aShadow := [], b0 := [], b1 := [], pour := none, rankRun := none, rings := [], upsets := [] }
  { s with prog := { s.prog with cores := smap {} (fun _ => clear) s.prog.cores } }

/-- Zeroise every key of the module (Table CU-2, spec/13 R390). -/
def zeroKeys (s : State) : State :=
  let s := updCust (fun c => { c with
    base0 := none, base1 := none, baseTrial := none, imports := c.imports.map fun i => { i with key := 0 }, slots := smap {} (fun _ k => { k with cur := none, prev := none })
      c.slots }) s
  let s := (List.range 16).foldl (fun s p =>
    clearSession p (if (portOf s p).state = .up then setPort p .down s else s)) s
  (List.range 64).foldl (fun s p => updPart p (fun q => { q with ide := none }) s) s

/-- The first write of a seal break arms it (spec/13 R390). -/
def execSealBreakArm (s : State) : Outcome State Fault Refusal :=
  onlyIf (s.steep.engine != .locked && s.cust.state == .ready) s (updCust fun c => { c with armed := some s.clock })

/-- SEAL_BREAK (spec/13 R390): the second write, within 1 s of the first, with the steep engine not Locked and the
controller READY. A KEY.SWEEP that waits ends as at a removal (DEDUCED, log entry 79). -/
def execSealBreak (path : BitVec 8) (s : State) : Outcome State Fault Refusal :=
  match s.cust.armed with
  | none => done s
  | some t =>
    if s.steep.engine = .locked || s.cust.state ≠ .ready || t + 2000000000 < s.clock then done s
    else
      let s := zeroSealed (zeroKeys (s.cust.slots.foldl (fun s e => endSweeps e.2 s) s))
      let retire (k : KeySlot) : KeySlot := { state := .retired, gen := k.gen, parity := k.parity }
      let s := (List.range 8192).foldl (fun s i => setSlot i (retire (slotOf s i)) s) s
      let s := measure 3 0x0301 (measData [(8, (spaporTime s).toNat), (1, path.toNat)]) s
      done (updCust (fun c => { c with state := .sealBroken, armed := none, scanOpen := true, kem := c.kem + 1 }) s)

end Sys2Proof.Machine
end

