-- ==== Sys2Proof/Machine/Stop.lean ====
section
/-! DEFINITION. The orderly stop (spec/17 R473), the Custody Controller's FAULT (spec/13 Table CU-2), and the environment
violations that lead there (spec/17 R472). -/

namespace Sys2Proof.Machine

open Host (Outcome)

/-- Apply `f` to the start-up unit. -/
def updBoot (f : Startup → Startup) (s : State) : State := { s with boot := f s.boot }

/-- Apply `f` to the leaf store. -/
def updLeaf (f : Leaf → Leaf) (s : State) : State := { s with leaf := f s.leaf }

/-- Set the STATE field of a half record. -/
def setRecState (r : BitVec 512) (st : Nat) : BitVec 512 := setFld r 189 3 st

/-- The record of a half. -/
def recOf (s : State) (h : Bool) : BitVec 512 := if h then s.leaf.rec1 else s.leaf.rec0

/-- Replace the record of a half. -/
def setRec (h : Bool) (r : BitVec 512) (s : State) : State :=
  updLeaf (fun l => if h then { l with rec1 := r } else { l with rec0 := r }) s

/-- The record of a half that becomes EMPTY: no image, with INSTALLS and GEN kept (DEDUCED, log entry 37). -/
def emptyRec (r : BitVec 512) : BitVec 512 :=
  setRecState (setFld (setFld (setFld r 384 128 0) 256 128 0) 208 32 0) 0

/-- Loss of power at the leaf stacks (spec/11 Table LF-7): an INSTALLING half becomes EMPTY, a RETAINED one STAGED. -/
def leafPowerLoss (s : State) : State :=
  let fix (r : BitVec 512) : BitVec 512 :=
    match (fld r 189 3).toNat with
    | 1 => emptyRec r
    | 4 => setRecState r 2
    | _ => r
  updLeaf (fun l => { l with rec0 := fix l.rec0, rec1 := fix l.rec1, install := none, retainedGen := 0 }) s

/-- Every accepted command completes with SHUTDOWN while the PCIe link is up (spec/14 R412). -/
def shutdownCommands (s : State) : State :=
  let s := if s.boot.pcieWidth = 0 then s
    else s.front.cmds.foldl (fun s c => finish c.id stShutdown 0 0 s) s
  { s with front := { s.front with cmds := [] },
           ad := { s.ad with requests := [], pending := [], destroying := [], tables := [], nextTables := [],
                             claims := s.ad.claims.map fun c => { c with cmd := none } },
           cust := { s.cust with imports := [], removes := [], requests := [] } }

/-- Every key slot not FREE or RETIRED is removed as under spec/13 R383. -/
def removeAllSlots (s : State) : State :=
  (s.cust.slots.filter fun e => e.2.state ≠ .free && e.2.state ≠ .retired).foldl (fun s e => removeSlot e.1 s) s

/-- The orderly stop (spec/17 R473), its five steps together (DESIGN CHOICE, log entry 22: the spec bounds each step's
time by 10 to 50 ms). -/
def orderlyStop (cls cause block value : Nat) (s : State) : State :=
  if s.boot.stopped.isSome then s
  else
    let s := if s.steep.engine = .off then s else setEngine .stopped 7 s
    let s := shutdownCommands s
    let s := zeroSealed (removeAllSlots s)
    let s := (List.range 16).foldl (fun s p => setPort p .down s) s
    let s := faultRecord cls cause block value s
    let s := leafPowerLoss s
    updBoot (fun b => { b with stopped := some s.clock, shutdown := true, faultL := false, rails := 0,
                               status := if b.status = 0 then 2 else b.status }) s

/-- The Custody Controller enters FAULT (spec/13 Table CU-2): every key is zeroised, 0x9000:03 is written, and the
module makes an orderly stop. -/
def custodyFault (cause : Nat) (s : State) : State :=
  let s := orderlyStop 3 8 0xFF 0 s
  updCust (fun c => { c with state := .fault, faultRec := packR 128 [(64, s.time.toNat), (8, cause)] }) (zeroKeys s)

/-- CUSTODY_FAULT (spec/13 Table CU-2): a parity error in the key store, a key bus error, or a ROM self-check failure,
in READY. -/
def execCustodyFault (cause : BitVec 8) (s : State) : Outcome State Fault Refusal :=
  onlyIf (s.cust.state == .ready) s (custodyFault cause.toNat)

/-- MEASURE_COMPLETE (spec/13 R368, R370 to R372, R388): READY with a fresh boot value and KEM key pair, MR0 extended
by the ROM and the identity memories, and the halves' base key records restored; or FAULT. A drawn boot value is
non-zero. The wrap keys of the AES paths are drawn with it (free values, log entry 67). -/
def execMeasureComplete (passed : Bool) (boot : BitVec 32) (identityRecord romRecord : BitVec 384) (s : State) :
    Outcome State Fault Refusal :=
  if s.cust.state ≠ .measure then done s
  else if !passed then done (custodyFault 0 s)
  else if boot = 0 then done s
  else
    let s := measure 0 0x0002 identityRecord (measure 0 0x0001 romRecord s)
    let s := updCust (fun c => { c with state := .ready, boot := boot, kem := c.kem + 1, nonces := [],
                                        wraps := (List.range 17).map fun i => Config.freeValue (s.free + i) 256,
                                        base0 := openRecord c.stored0, base1 := openRecord c.stored1 }) s
    done (updBoot (fun b => { b with readyClock := s.clock }) { s with free := s.free + 17 })

/-- The class of a fault record of a stopping cause (spec/17 Table SR-6). -/
def causeClass (cause : Nat) : Nat := if cause = 8 then 3 else if cause = 9 then 4 else 2

/-- ENVIRONMENT_VIOLATION (spec/17 R472, R473): one of the causes of Table SR-5. -/
def execEnvironmentViolation (cause : BitVec 8) (reading : BitVec 16) (s : State) : Outcome State Fault Refusal :=
  onlyIf (decide (1 ≤ cause.toNat) && decide (cause.toNat ≤ 9)) s fun s =>
    let s := if cause = 1 then updBoot (fun b => { b with mainGood := false }) s else s
    orderlyStop (causeClass cause.toNat) cause.toNat 0xFF reading.toNat s

end Sys2Proof.Machine
end

