-- ==== Sys2Proof/Machine/Tables.lean ====
section
/-! DEFINITION. The module tables in HBM (spec/10 Table HB-2, R292, R298, R299). What the two copies hold stands once, in
the adapter, shard and KV parts of the state, because the module writes both together; the copies differ in the records
of their blocks. Where in the region a table lies is the model's choice (log entry 70). -/

namespace Sys2Proof.Machine

open Host (Outcome)

/-- The block of byte `o` of the module tables in stack 0 or stack 6. -/
def tableBlock (stack o : Nat) : Nat := (stack * 2 ^ 38 + systemStart 0 + 0xE000000 + o) / 4096

/-- The place in the tables of a descriptor, and of a shard index entry. -/
def descPlace (didx : Nat) : Nat := 128 * didx
def shardPlace (n : Nat) : Nat := 0x800000 + 64 * n

/-- A block is restored (0x8150:03). -/
def blockRestored (s : State) : State := { s with hbm := { s.hbm with restored := s.hbm.restored + 1 } }

/-- A read of the module tables at byte `o`: where the block of stack 0 ends in a block error, that of stack 6 is read
and the stack 0 block rewritten whole; where both do, the module stops in order. -/
def readTable (env : ReadEnv) (o : Nat) (s : State) : State :=
  let b := tableBlock 0 o
  let v := verifyBlock env b s
  if !v.1 then v.2
  else
    let w := verifyBlock env (tableBlock 6 o) v.2
    if w.1 then orderlyStop 4 9 (hbmBlockNo 0) 0 w.2
    else blockRestored (writeInBlock true (4096 * b) (blockBytes w.2 (tableBlock 6 o)) w.2)

/-- ADAPTER_READ (spec/06 R170): partition 0 reads every descriptor, from the module tables. -/
def execAdapterRead (s : State) : Outcome State Fault Refusal :=
  onHead 0x31 s fun c s =>
    let p := c.part.toNat
    match if p = 0 then didxOf s (cAdid c.word) else didxFor s p (cAdid c.word) with
    | none => finish c.id stAdapterInvalid 0 0 s
    | some i =>
      let t := readTable {} (descPlace i) s
      if t.boot.stopped.isSome then t
      else finish c.id stOk 0 0 (hostWrite p (cAddr0 c.word) (wordBytes (descOf s i)) t)

end Sys2Proof.Machine
end

