-- ==== Sys2Proof/Machine/Hbm.lean ====
section
/-! DEFINITION. The HBM3 stacks at work: patrol (spec/10 R300), temperature (spec/10 R302), soft repair (spec/10 R305)
and the retirement of pseudo-channels (spec/10 R307 to R310). The stacks' map and the states of their pseudo-channels
are the part of the repair log that names no row (spec/10 R289, Table HB-8). -/

namespace Sys2Proof.Machine

open Host (Outcome)

/-- PATROL_READ (spec/10 R300): one valid block, verified as R297 says; no data is delivered. -/
def execPatrolRead (addr : BitVec 48) (env : ReadEnv) (s : State) : Outcome State Fault Refusal :=
  let a := addr.toNat
  let b := a / 4096
  let r := blockOf s b
  onlyIf ((hbmStack a).isSome && addrOk s a && r.v && !r.bad &&
      decide ((stackOf s (blockStack b)).thermal ≠ .trip)) s fun s =>
    let s := { s with hbm := { s.hbm with patrolAt := b } }
    (verifyBlock env b (count (hbmBlockNo (blockStack b)) 0x04B 64 s)).2

/-- The code of a thermal state at 0x8142. -/
def thermalCode : ThermalState → Nat
  | .normal => 0 | .warm => 1 | .hot => 2 | .trip => 3

/-- A stack enters a thermal state (spec/10 Table HB-6), with its trace record; TRIP is an environment violation. -/
def setThermal (st : Nat) (t : ThermalState) (s : State) : State :=
  let k := stackOf s st
  if k.thermal = t then s
  else
    let s := updStack st (fun k => { k with thermal := t, below := 0, failedReads := 0 }) s
    let s := trace 0x0C (hbmBlockNo st) 0
      (BitVec.ofNat 128 (st + 16 * thermalCode t + 256 * (BitVec.ofInt 8 k.temp).toNat)) s
    if t = .trip then
      orderlyStop 2 3 (hbmBlockNo st) (BitVec.ofInt 16 k.temp).toNat
        (updStack st (fun k => { k with identity := setFld k.identity 112 8 2 }) s)
    else s

/-- The state that a reading leads to from a state, with the count of readings in a row below the exit threshold. -/
def thermalNext (t : ThermalState) (below : Nat) (r : Int) : ThermalState :=
  if 105 ≤ r then .trip
  else match t with
    | .normal => if 95 ≤ r then .hot else if 85 ≤ r then .warm else .normal
    | .warm => if 95 ≤ r then .hot else if 2 ≤ below then .normal else .warm
    | .hot => if 2 ≤ below then .warm else .hot
    | .trip => .trip

/-- The threshold below which readings count towards the exit from a state. -/
def exitBelow : ThermalState → Int
  | .warm => 83
  | _ => 93

/-- TEMPERATURE_READ (spec/10 R302, Table HB-6; spec/02 R44): a reading in °C, or none where the read failed. -/
def execTemperatureRead (stack : BitVec 4) (reading : Option Int) (s : State) : Outcome State Fault Refusal :=
  let st := stack.toNat
  let k := stackOf s st
  onlyIf (decide (st < 12)) s fun s =>
    match reading with
    | some r =>
      let below := if r < exitBelow k.thermal then k.below + 1 else 0
      let s := updStack st (fun k => { k with temp := r, tempMax := if k.tempRead then max k.tempMax r else r,
                                              tempRead := true, failedReads := 0,
                                              lastRead := s.clock, below := below }) s
      let s := if 85 ≤ r then { s with steep := { s.steep with condHbm := true } } else s
      setThermal st (thermalNext k.thermal below r) s
    | none =>
      let s := updStack st (fun k => { k with failedReads := k.failedReads + 1, below := 0 }) s
      match k.thermal with
      | .hot => if k.lastRead + 2000000 ≤ s.clock then setThermal st .trip s else s
      | .trip => s
      | _ => if 3 ≤ k.failedReads + 1 then setThermal st .hot s else s

/-- ROW_REPAIR (spec/10 R305): a soft post-package repair of a REPAIRING row, entered in the repair log. -/
def execRowRepair (stack : BitVec 4) (pc : BitVec 5) (bank : BitVec 6) (row : BitVec 17) (s : State) :
    Outcome State Fault Refusal :=
  let st := stack.toNat
  let key := rowKey pc.toNat bank.toNat row.toNat
  onlyIf (sget 0 key (stackOf s st).rows == 1) s fun s =>
    if 1024 ≤ s.hbm.log.length then
      retirePc st pc.toNat (updStack st (fun k => { k with rows := sput 0 key 0 k.rows }) s)
    else
      let s := updStack st (fun k => { k with rows := sput 0 key 2 k.rows }) s
      let s := { s with hbm := { s.hbm with softRepairs := s.hbm.softRepairs + 1,
                                            log := s.hbm.log ++ [(st, pc.toNat, bank.toNat, row.toNat, 2)] } }
      rasEvent st pc.toNat bank.toNat row.toNat 3 s

/-- A physical pseudo-channel's state at reset. -/
def pcDefault (pc : Nat) : PcState := if pc < 30 then .active else .spare

/-- A physical pseudo-channel's state (spec/10 Table HB-8). -/
def pcStateOf (k : Stack) (pc : Nat) : PcState := sget (pcDefault pc) pc k.pcs

/-- Set a physical pseudo-channel's state. -/
def setPcState (pc : Nat) (v : PcState) (k : Stack) : Stack := { k with pcs := sput (pcDefault pc) pc v k.pcs }

/-- The lowest-numbered spare of a stack. -/
def lowestSpare (k : Stack) : Option Nat := (List.range 32).find? fun pc => pcStateOf k pc = .spare

/-- A logical pseudo-channel whose physical one is retired takes the lowest spare, or becomes LOST at the next
boundary (spec/10 Table HB-8). -/
def beginFill (st l old : Nat) (s : State) : State :=
  match lowestSpare (stackOf s st) with
  | some sp =>
    updStack st (fun k => { setPcState sp .filling (setPcState old .draining k) with
      fill := some (l, old, sp, s.clock) }) s
  | none =>
    updStack st (fun k => { setPcState old .retired k with fill := none, losing := k.losing ++ [l] }) s

/-- PC_FILL (spec/10 R307, R308): the stack takes up its oldest waiting retirement. -/
def execPcFill (stack : BitVec 4) (s : State) : Outcome State Fault Refusal :=
  let st := stack.toNat
  let k := stackOf s st
  match k.fill, k.retireQ with
  | none, l :: rest => done (beginFill st l (physPc k l) (updStack st (fun k => { k with retireQ := rest }) s))
  | _, _ => done s

/-- Core cycles that a fill takes at the migration share (spec/10 R308). -/
def fillCycles (s : State) : Nat := 4831838208 * 2 / cfg s 0x8120 2

/-- FILL_COMPLETE (spec/10 R309): at the boundary after a fill ends, the map changes; the drained pseudo-channel is
retired. Package memory is kept by logical address, so no byte moves. -/
def execFillComplete (stack : BitVec 4) (s : State) : Outcome State Fault Refusal :=
  let st := stack.toNat
  match (stackOf s st).fill with
  | none => done s
  | some (l, old, new, start) =>
    onlyIf (atBoundary s && decide (start + fillCycles s ≤ s.clock)) s fun s =>
      count (hbmBlockNo st) 0x04C 75497472 (updStack st (fun k =>
        { setPhys l (BitVec.ofNat 8 new) (setPcState new .active (setPcState old .retired k)) with fill := none }) s)

/-- FILL_FAILURE (spec/10 Table HB-8): the filling spare is retired, and the draining pseudo-channel takes the next
spare or has none. -/
def execFillFailure (stack : BitVec 4) (s : State) : Outcome State Fault Refusal :=
  let st := stack.toNat
  match (stackOf s st).fill with
  | none => done s
  | some (l, old, new, _) =>
    let s := updStack st (fun k => { setPcState new .retired k with fill := none }) s
    let s := rasEvent st new 0 0 5 { s with hbm := { s.hbm with retired := s.hbm.retired + 1 } }
    done (beginFill st l old s)

/-- The address range of a logical pseudo-channel (spec/10 Table HB-1). -/
def pcRange (st l : Nat) : Nat × Nat := (st * 2 ^ 38 + l * 0x120000000, 0x120000000)

/-- LOGICAL_PC_LOST (spec/10 R310): at a boundary its addresses fail and its data is gone; the capacities at
0x8100 fall with the map. -/
def execLogicalPcLost (stack : BitVec 4) (s : State) : Outcome State Fault Refusal :=
  let st := stack.toNat
  let k := stackOf s st
  match k.losing with
  | [] => done s
  | l :: rest => onlyIf (atBoundary s) s fun s =>
    let r := pcRange st l
    let old := physPc k l
    let s := updStack st (fun k => { setPhys l 0xFF k with losing := rest }) s
    let s := { s with
      mem := memZero s.mem r.1 r.2,
      hbm := { s.hbm with blocks := s.hbm.blocks.filter fun e => e.1 < r.1 / 4096 || (r.1 + r.2) / 4096 ≤ e.1 } }
    rasEvent st old 0 0 6 s

end Sys2Proof.Machine
end

