-- ==== Sys2Proof/Machine/Partition.lean ====
section
/-! DEFINITION. Partitions and their PCIe functions (spec/14 R392 to R401, R417 to R420): enable and reset, TDISP, the
custody exchange over DOE, and dirty logging. -/

namespace Sys2Proof.Machine

open Host (Outcome)

/-- The code of a partition state at 0x3000. -/
def partCode : PartState → Nat
  | .absent => 0 | .idle => 1 | .running => 2 | .resetting => 3

/-- A partition enters a state, with its trace record (spec/16 Table PC-7). -/
def setPartState (p : Nat) (v : PartState) (s : State) : State :=
  if (partOf s p).state = v then s
  else
    let s := updPart p (fun q => { q with state := v }) s
    trace 0x0E 0xB0 p (BitVec.ofNat 128 (partCode v + 65536 * (partOf s p).gen.toNat)) s

/-- The function exists: the PF always, a VF while VF Enable is set (spec/14 Table HQ-5). -/
def fnExists (s : State) (f : Nat) : Bool := f = 0 || (decide (f < 64) && s.boot.vfEnable)

/-- A partition that may leave ABSENT does so (spec/14 Table HQ-5). -/
def appear (p : Nat) (s : State) : State :=
  if (partOf s p).state = .absent && fnExists s p && partEnabled s p then setPartState p .idle s else s

/-- A TDI in RUN leaves it for ERROR (spec/14 R395). -/
def tdiError (p : Nat) (s : State) : State :=
  updPart p (fun q => if q.tdi = .run then { q with tdi := .error } else q) s

/-- A partition reset is requested (spec/14 R417). A request in IDLE runs the reset too (DEDUCED, log entry 23). -/
def requestReset (p : Nat) (s : State) : State :=
  match (partOf s p).state with
  | .absent => s
  | .resetting => s
  | _ => updPart p (fun q => { q with resetAt := some s.clock }) (setPartState p .resetting (tdiError p s))

/-- First queue ID and count of a partition's queue range (spec/14 Table HQ-4). -/
def queueRange (s : State) (p : Nat) : Nat × Nat := let v := cfg s 0x3011 (p + 1); (bits v 0 13, bits v 16 14)

/-- Queue `q` lies in the partition's range. -/
def holdsQueue (s : State) (p q : Nat) : Bool :=
  let r := queueRange s p
  partEnabled s p && r.1 ≤ q && q < r.1 + r.2

/-- A queue pair's state. -/
def queueOf (s : State) (q : Nat) : Queue := sget {} q s.front.queues

/-- Apply `f` to a queue pair. -/
def updQueue (q : Nat) (f : Queue → Queue) (s : State) : State :=
  updFront (fun r => { r with queues := supd {} q f r.queues }) s

/-- QERR: queue, cause and the low bits of the steep (spec/14 Table HQ-3). -/
def queueErrorRecord (p q cause : Nat) (s : State) : State :=
  updPart p (fun r => { r with qerr := BitVec.ofNat 64 (q + 2 ^ 16 * cause + 2 ^ 32 * (s.steep.k.toNat % 2 ^ 32)) }) s

/-- FUNCTION_ENABLE (spec/14 R397): a write of ENABLE = 1 in IDLE. The admin queue takes weight 1, row group 0
(DESIGN CHOICE, log entry 24). -/
def execFunctionEnable (fn : BitVec 6) (s : State) : Outcome State Fault Refusal :=
  let p := fn.toNat
  let q := partOf s p
  onlyIf (decide (q.state = .idle)) s fun s =>
    let s := updPart p (fun q => { q with enable := true }) s
    let q0 := (queueRange s p).1
    let n := bits q.asize.toNat 0 16
    let m := bits q.asize.toNat 16 16
    if q.asq.toNat % 4096 = 0 && q.acq.toNat % 4096 = 0 && 1 ≤ n && 1 ≤ m then
      let s := updQueue q0 (fun _ => {
        state := .active, sq := q.asq.toNat, cq := q.acq.toNat, sqSize := n + 1, cqSize := m + 1, weight := 1,
        turn := 1, vector := fld q.avec 0 8, vecOn := bit q.avec 8 }) s
      setPartState p .running (updPart p (fun q => { q with ready := true }) s)
    else queueErrorRecord p q0 1 s

/-- FUNCTION_DISABLE (spec/14 R397): a write of ENABLE = 0. -/
def execFunctionDisable (fn : BitVec 6) (s : State) : Outcome State Fault Refusal :=
  done (requestReset fn.toNat s)

/-- CTRL_RESET (spec/14 R417): a write of 1 to the RESET bit. -/
def execCtrlReset (fn : BitVec 6) (s : State) : Outcome State Fault Refusal :=
  done (requestReset fn.toNat s)

/-- PARTITION_RESET_CMD (spec/14 R417): a write to 0x3003. -/
def execPartitionResetCmd (part : BitVec 6) (s : State) : Outcome State Fault Refusal :=
  done (requestReset part.toNat s)

/-- VF Enable is cleared: every VF's partition is reset (spec/14 R417). -/
def clearVfEnable (s : State) : State :=
  (List.range 63).foldl (fun s i => requestReset (i + 1) s)
    { s with boot := { s.boot with vfEnable := false } }

/-- The reset that an FLR of the PF requests (spec/14 R417). -/
def flrPf (s : State) : State := clearVfEnable (requestReset 0 s)

/-- FLR (spec/14 R417): a Function Level Reset; one of the PF clears VF Enable too. -/
def execFlr (fn : BitVec 6) (s : State) : Outcome State Fault Refusal :=
  done (if fn = 0 then flrPf s else requestReset fn.toNat s)

/-- VF_ENABLE_CLEAR (spec/14 R417). -/
def execVfEnableClear (s : State) : Outcome State Fault Refusal :=
  onlyIf s.boot.vfEnable s clearVfEnable

/-- VF_ENABLE_SET (spec/14 Table HQ-5). -/
def execVfEnableSet (s : State) : Outcome State Fault Refusal :=
  onlyIf (decide ((partOf s 0).state ≠ .absent)) s fun s =>
    (List.range 63).foldl (fun s i => appear (i + 1) s) { s with boot := { s.boot with vfEnable := true } }

/-! ### The reset boundary (spec/14 R400, R418) -/

/-- Zeroise a core's tile memory, accumulators, register sets and pipelines; the next owner's ops wait up to 2,048
cycles (spec/14 R400). -/
def zeroCore (g : Nat) (s : State) : State :=
  let s := updCore g (fun k => { k with
    active := none, shadow := none, acc0 := {}, acc1 := {}, rank0 := {}, rank1 := {}, aActive := [], aShadow := [],
    b0 := [], b1 := [], pour := none, rankRun := none, rings := [], upsets := [], heldUntil := s.clock + 2048 }) s
  { s with mem := memZero s.mem (tileBase g) 0x400000 }

/-- A core becomes idle at a boundary and is zeroised: no binding, no program, no queued or running op, no token. A
binding that a BIND command names for this steep or a later one still takes effect (spec/14 R418; DEDUCED, log entry
23). -/
def idleCore (g : Nat) (s : State) : State :=
  updCore g (fun k => { k with
    binding := {}, image := none, nextImage := none, strain := [], nextStrain := [], fetch := .idle, credits := [],
    creditIn := [], leaving := [], held := [], next0 := 0, next1 := 0, queues := [], running := [], epi := [], ringPos := [], ringBytes := [],
    prefilling := false,
    strainNext := 0, faulted := none, aborted := false }) (zeroCore g s)

/-- A partition holds a core with a TRAIN binding (spec/05 Table SP-5 mode 1). -/
def hasTrain (s : State) (p : Nat) : Bool :=
  s.prog.cores.any fun c => decide (c.2.binding.mode = 1) && coreOwner s c.1 == some p

/-- A trial of a partition is marked for release (spec/11 R333). -/
def markTrial (p : Nat) (s : State) : State :=
  let t := s.leaf.trial
  if t.owner.toNat = p && (t.state = 1 || t.state = 2) then
    let s := match t.cmd with | some id => finish id stNotPermitted 0 0 s | none => s
    updLeaf (fun l => { l with trial := { l.trial with state := 3, cmd := none } }) s
  else s

/-- Accepted requests of a partition: those not admitted are dropped without completion, and those admitted end
without their results (spec/14 R418). -/
def dropRequests (p : Nat) (s : State) : State :=
  let gone := (s.ad.requests.filter fun r => r.part.toNat = p && r.steep.isNone).map fun r => r.cmd
  let s := updFront (fun q => { q with cmds := q.cmds.filter fun c => !gone.contains c.id &&
    !(c.part.toNat = p && cOpcode c.word = 1 && !c.taken) }) s
  updAd (fun a => { a with
    requests := (a.requests.filter fun r => !gone.contains r.cmd).map fun r =>
      if r.part.toNat = p && r.ending.isNone then { r with ending := some (BitVec.ofNat 8 stNotPermitted, 0) } else r,
    tables := a.tables.filter fun e => e.1 / 4 ≠ p,
    nextTables := a.nextTables.filter fun e => e.1 / 4 ≠ p }) s

/-- The QUEUE.DELETEs of a partition's queues end when its reset makes the queues DISABLED (spec/14 R405, R418). -/
def endDeletes (p : Nat) (s : State) : State :=
  (s.front.queues.filterMap fun e => if holdsQueue s p e.1 then e.2.deleting else none).foldl
    (fun s id => finish id stOk 0 0 s) s

/-- The partition's reset takes effect (spec/14 R418; spec/16 R453). -/
def resetPartition (p : Nat) (s : State) : State :=
  let s := updPart p (fun q => { q with
    gen := q.gen + 1, resetAt := none, ready := false, enable := false,
    tdi := if q.tdi = .error || q.tdi = .run then .unlocked else q.tdi }) s
  let s := endDeletes p s
  let s := updFront (fun q => { q with queues := q.queues.filter fun e => !holdsQueue s p e.1 }) s
  let s := dropRequests p s
  let s := (List.range 128).foldl (fun s g => if holdsCore s p g then idleCore g s else s) s
  let s := markTrial p s
  let s := { s with obs := { s.obs with hists := s.obs.hists.filter fun e => e.1 ≠ 64 + p } }
  setPartState p (if fnExists s p && partEnabled s p then .idle else .absent) s

/-- PARTITION_RESET_EFFECT (spec/14 R417, R418): at the first boundary at least 20 µs after the request at which no
TRAIN binding of the partition is inside a step. -/
def execPartitionResetEffect (part : BitVec 6) (s : State) : Outcome State Fault Refusal :=
  let p := part.toNat
  match (partOf s p).resetAt with
  | none => done s
  | some t =>
    onlyIf (atBoundary s && decide (t + 40000 ≤ s.clock) && (s.steep.sidx == 0 || !hasTrain s p)) s
      (resetPartition p)

/-! ### Dirty logging (spec/14 R419, R420) -/

/-- The parameter block is well formed: host range in 64 KiB units, bitmaps in partition 0's windows. -/
def logParamsOk (s : State) (v : BitVec 512) : Bool :=
  let n := v.toNat
  bits n 0 16 = 0 && bits n 64 16 = 0 && bits n 128 192 = 0 &&
    ((List.range 4).all fun i => windowOk s 0 (bits n (320 + 48 * i) 48) 1)

/-- LOG_CONTROL (spec/14 R419): start with a parameter block, or stop with 0, at the next boundary. -/
def execLogControl (part : BitVec 6) (value : BitVec 512) (s : State) : Outcome State Fault Refusal :=
  onlyIf (value == 0 || logParamsOk s value) s
    (updPart part.toNat fun q => { q with logNext := some (if value = 0 then none else some value) })

/-- LOG_SWAP (spec/14 R420): swap both pairs of bitmaps at the next boundary. -/
def execLogSwap (part : BitVec 6) (s : State) : Outcome State Fault Refusal :=
  done (updPart part.toNat (fun q => { q with logSwap := q.logState ≠ 0 }) s)

/-- What a boundary does to one partition's log. A start falls into bitmaps 0 whatever swap is pending. -/
def logAtBoundary (q : Partition) : Partition :=
  match q.logNext with
  | some (some v) => { q with logParams := v, logState := 1, logNext := none, logSwap := false }
  | some none => { q with logState := 0, logNext := none, logSwap := false }
  | none => if q.logSwap then { q with logState := if q.logState = 1 then 2 else 1, logSwap := false } else q

/-- LOG_BOUNDARY (spec/14 R419, R420): at a steep boundary, the pending starts, stops and swaps of every partition. -/
def execLogBoundary (s : State) : Outcome State Fault Refusal :=
  onlyIf (atBoundary s) s fun s => (updFront (fun f => { f with parts := smap {} (fun _ => logAtBoundary) f.parts }) s)

/-! ### TDISP (spec/14 R395) -/

/-- Entries that LOCK_INTERFACE freezes, in index order. -/
def frozenIndices : List Nat :=
  (List.range 7).map (0x3010 + ·) ++ (List.range 16).map (0x3020 + ·) ++ (List.range 16).map (0x3040 + ·)

/-- The bytes of a partition's frozen entries, in index order. -/
def frozenBytes (s : State) (p : Nat) : List Byte :=
  frozenIndices.flatMap fun i => leBytes (((rowOf i (p + 1)).map fun r => r.size).getD 0) (cfg s i (p + 1))

/-- The function is a TDI: a virtual function that exists. -/
def isTdi (s : State) (f : Nat) : Bool := f ≠ 0 && fnExists s f

/-- LOCK_INTERFACE (spec/14 R395): a TDI in CONFIG_UNLOCKED. -/
def execLockInterface (fn : BitVec 6) (s : State) : Outcome State Fault Refusal :=
  onlyIf (isTdi s fn.toNat && decide ((partOf s fn.toNat).tdi = .unlocked)) s
    (updPart fn.toNat fun q => { q with tdi := .locked })

/-- START_INTERFACE (spec/14 R395): a TDI in CONFIG_LOCKED enters RUN. -/
def execStartInterface (fn : BitVec 6) (s : State) : Outcome State Fault Refusal :=
  onlyIf (isTdi s fn.toNat && decide ((partOf s fn.toNat).tdi = .locked)) s
    (updPart fn.toNat fun q => { q with tdi := .run })

/-- STOP_INTERFACE (spec/14 R395). -/
def execStopInterface (fn : BitVec 6) (s : State) : Outcome State Fault Refusal :=
  onlyIf (isTdi s fn.toNat) s (updPart fn.toNat fun q => { q with tdi := .unlocked })

/-- INTERFACE_REPORT (spec/14 R395): the function, its BAR0 range and MSI-X table (Table HQ-2), and the first 32 bytes
of SHAKE256 over the frozen entries. The spec gives the contents, not their layout (DESIGN CHOICE, log entry 25). -/
def execInterfaceReport (fn : BitVec 6) (s : State) : Outcome State Fault Refusal :=
  onlyIf (isTdi s fn.toNat) s fun s =>
    emit (.report fn (leBytes 1 fn.toNat ++ leBytes 8 0x200000 ++ leBytes 8 0x20000 ++ leBytes 2 256 ++
      wordBytes (Config.shake256 (frozenBytes s fn.toNat) 256))) s

/-- VF_BAR_OR_MEMORY_SPACE_CHANGE (spec/14 R395). -/
def execVfBarOrMemorySpaceChange (fn : BitVec 6) (s : State) : Outcome State Fault Refusal :=
  onlyIf (isTdi s fn.toNat) s (tdiError fn.toNat)

/-! ### The PCIe port (spec/14 R392 to R394, spec/13 R374, R375) -/

/-- DOE_CUSTODY_EXCHANGE (spec/13 R374, R375; spec/14 R394): a 32-byte message opens the exchange; one of 1,088 bytes
or more carries the KEM ciphertext and ends it, with the IDE stream key from OKM bytes 96 to 127. -/
def execDoeCustodyExchange (fn : BitVec 6) (message : List Byte) (s : State) : Outcome State Fault Refusal :=
  let p := fn.toNat
  onlyIf (fnExists s p && s.boot.railHx && decide (s.cust.state = .ready)) s fun s =>
    if message.length = 32 then
      let (nm, s) := fresh 256 s
      let m2 := Config.identityCerts ++ kemCertificate s ++ wordBytes nm
      emit (.doe fn m2) (updPart p (fun q => { q with doe := message ++ m2 }) s)
    else if 1088 ≤ message.length && (partOf s p).doe ≠ [] then
      let t := (partOf s p).doe ++ message.take 1088
      let okm := okmOf (Config.mlKemDecap s.cust.kem (message.take 1088)) t
      let s := updPart p (fun q => { q with doe := [], ide := some (fld okm 768 256) }) s
      emit (.doe fn (wordBytes (Config.mlDsaSign "AQ1224-SESS" (wordBytes (transcriptHash t))))) s
    else s

/-- PCIE_LINK_CHANGE (spec/14 R392): the trained rate and width, 0 when the link is down. -/
def execPcieLinkChange (rate width : Nat) (s : State) : Outcome State Fault Refusal :=
  onlyIf (decide (width ≤ 16) && decide (rate ≤ 64) && decide ((partOf s 0).state ≠ .absent)) s fun s =>
    { s with boot := { s.boot with pcieRate := if width = 0 then 0 else rate, pcieWidth := width } }

end Sys2Proof.Machine
end

