-- ==== Sys2Proof/Machine/Front.lean ====
section
/-! DEFINITION. The queue front end (spec/14 R405 to R416): doorbells, fetch and the checks of R409, queue pairs, input
and output copies, and completions. -/

namespace Sys2Proof.Machine

open Host (Outcome)

/-! ### Queues and doorbells (spec/14 R405, R406) -/

/-- A queue enters ERROR (spec/14 Table HQ-7). -/
def queueError (p q cause : Nat) (s : State) : State :=
  queueErrorRecord p q cause (updQueue q (fun r => { r with state := .error }) s)

/-- DOORBELL (spec/14 R406): a submission tail, or a completion head. -/
def execDoorbell (fn : BitVec 6) (queue : BitVec 13) (head : Bool) (value : BitVec 32) (s : State) :
    Outcome State Fault Refusal :=
  let p := fn.toNat
  let q := queue.toNat
  let r := queueOf s q
  let v := value.toNat
  onlyIf (decide ((partOf s p).state ≠ .absent)) s fun s =>
    let s := count 0xB0 0x044 1 s
    if !holdsQueue s p q || r.state = .disabled then
      updFront (fun f => { f with doorbellsDropped := f.doorbellsDropped + 1 }) s
    else if r.state = .error then s
    else if head then
      if r.cqSize ≤ v then queueError p q 2 s
      else if (r.cqTail + r.cqSize - r.cqHead) % r.cqSize < (v + r.cqSize - r.cqHead) % r.cqSize then
        queueError p q 3 s
      else updQueue q (fun r => { r with cqHead := v }) s
    else if r.sqSize ≤ v then queueError p q 2 s
    else updQueue q (fun r => { r with tail := v }) s

/-! ### Fetch (spec/14 R406 to R409) -/

/-- The partition whose queue range holds queue `q`. -/
def queueOwner (s : State) (q : Nat) : Option Nat := (List.range 64).find? fun p => holdsQueue s p q

/-- The front end may fetch from the queue. -/
def fetchable (s : State) (q : Nat) (r : Queue) : Bool :=
  r.state = .active && r.deleting.isNone && r.head ≠ r.tail && (r.cqTail + 1) % r.cqSize ≠ r.cqHead &&
    (match queueOwner s q with
      | some p => decide ((partOf s p).state = .running)
      | none => false)

/-- The queue that the weighted round-robin serves next: the present one while its turn lasts, else the next one by
number (spec/14 R406). -/
def nextQueue (s : State) : Option Nat :=
  let ok := (s.front.queues.filter fun e => fetchable s e.1 e.2).map fun e => e.1
  if ok.contains s.front.rr && (queueOf s s.front.rr).turn ≠ 0 then some s.front.rr
  else match ok.find? fun q => s.front.rr < q with
    | some q => some q
    | none => ok.head?

/-- The fields, as `(lowest bit, width)`, that a command of an opcode uses besides OPCODE and CMDTAG (Table HQ-9); none
for an undefined opcode. -/
def usedFields (op : Nat) : Option (List (Nat × Nat)) :=
  match op with
  | 0x01 => some [(64, 64), (128, 64), (256, 32), (288, 24), (312, 13), (325, 16), (352, 16), (384, 60), (448, 32)]
  | 0x10 => some [(64, 64), (128, 64), (352, 13), (366, 11), (384, 40)]
  | 0x11 => some [(352, 13)]
  | 0x20 => some [(64, 64), (192, 64), (352, 7), (360, 2), (368, 16), (384, 64), (448, 64)]
  | 0x30 => some [(64, 64)]
  | 0x31 => some [(64, 64), (288, 24)]
  | 0x32 => some [(192, 64), (288, 24), (352, 2)]
  | 0x33 => some [(288, 24)]
  | 0x34 => some [(288, 24), (352, 12), (368, 4)]
  | 0x35 => some [(288, 24), (352, 12), (368, 4)]
  | 0x40 => some [(64, 64), (256, 32), (288, 24), (312, 13), (325, 16)]
  | 0x41 => some [(384, 20)]
  | 0x42 => some [(384, 20)]
  | 0x43 => some [(384, 20)]
  | 0x50 => some [(64, 64), (128, 64), (192, 64), (256, 32)]
  | 0x51 => some [(192, 64), (312, 13), (325, 16)]
  | 0x52 => some [(128, 64), (256, 32), (312, 13)]
  | 0x60 => some [(64, 64), (128, 64), (352, 8)]
  | 0x61 => some []
  | _ => none

/-- Every field that the command does not use is zero (spec/14 R408). -/
def unusedZero (w : BitVec 512) (fs : List (Nat × Nat)) : Bool :=
  fs.foldl (fun w f => setFld w f.1 f.2 0) (setFld w 0 24 0) = 0

/-- The key slots that a command names (spec/14 R409 check 3), but for the slot of a descriptor image. ADAPTER.READ of
partition 0 names any adapter. -/
def namedSlots (s : State) (p : Nat) (w : BitVec 512) : List Nat :=
  let op := cOpcode w
  let own := if op = 0x01 || op = 0x40 || op = 0x51 || op = 0x52 then [cSlot w] else []
  let ad := if cAdid w = 0 || (op = 0x31 && p = 0) then []
    else match didxFor s p (cAdid w) with
      | some d => [dSlot (descOf s d)]
      | none => []
  own ++ ad

/-- The package addresses that a command names, with their lengths (spec/14 R409 check 4). Those of BIND are checked where
it reads its directory (spec/05 R140). -/
def namedRanges (w : BitVec 512) : List (Nat × Nat) :=
  match cOpcode w with
  | 0x52 => [(cAddr1 w, max 1 (cLen w))]
  | _ => []

/-- The order of the first check of R409 that a command fails, with its status; none where all hold. -/
def frontCheck (s : State) (p q : Nat) (w : BitVec 512) : Option (Nat × Nat) :=
  let op := cOpcode w
  let admin := q = (queueRange s p).1
  match usedFields op with
  | none => some (1, stFormat)
  | some fs =>
    if !unusedZero w fs then some (1, stFormat)
    else if ((op = 0x10 || op = 0x11) && !admin) || (op = 0x01 && admin) then some (2, stFormat)
    else if (namedSlots s p w).any fun n => !holdsSlot s p n then some (3, stNotPermitted)
    else if (namedRanges w).any fun r => !windowOk s p r.1 r.2 then some (4, stNotPermitted)
    else none

/-- COMMAND_FETCH (spec/14 R406, R407, R409): the next command by weighted round-robin, as the host answers the ring
read; none where the host answers with an error. -/
def execCommandFetch (answer : Option (BitVec 512)) (s : State) : Outcome State Fault Refusal :=
  if s.boot.shutdown || s.boot.pcieWidth = 0 then done s
  else match nextQueue s with
    | none => done s
    | some q =>
      let r := queueOf s q
      let p := (queueOwner s q).getD 0
      let fromNew := !(s.front.rr = q && r.turn ≠ 0)
      let s := updFront (fun f => { f with rr := q }) s
      let s := updQueue q (fun r => { r with turn := (if fromNew then r.weight else r.turn) - 1 }) s
      match answer with
      | none => done (queueError p q 4 s)
      | some w =>
        let h := (r.head + 1) % r.sqSize
        let s := count 0xB0 0x045 1 (countHostRead 64 (updQueue q (fun r => { r with head := h }) s))
        let id := s.front.nextId
        let c : Cmd := { id := id, queue := BitVec.ofNat 13 q, part := BitVec.ofNat 6 p, word := w, stamp := s.time,
                         pgen := (partOf s p).gen, sqhead := BitVec.ofNat 16 h, at_ := s.clock, taken := false }
        let s := updFront (fun f => { f with nextId := id + 1, cmds := f.cmds ++ [c] }) s
        match frontCheck s p q w with
        | some (order, status) => done (finish id status order 0 s)
        | none =>
          if (cOpcode w = 0x50 || cOpcode w = 0x51) && s.cust.requests.length < 256 then
            done (updCust (fun k => { k with requests := k.requests ++ [(s.clock, some id)] }) s)
          else done s

/-! ### Queue pairs (spec/14 R405, Table HQ-9) -/

/-- QUEUE.CREATE (opcode 0x10). A ring must be 4 KiB aligned and hold at least two entries, as the admin queue's
(DEDUCED, log entry 24); otherwise the queue enters ERROR. -/
def execQueueCreate (s : State) : Outcome State Fault Refusal :=
  onHead 0x10 s fun c s =>
    let w := c.word
    let p := c.part.toNat
    let q := bits (cP0 w) 0 13
    let n := bits (cP1 w) 0 16 + 1
    let m := bits (cP1 w) 16 16 + 1
    let weight := bits (cP1 w) 32 8
    if !holdsQueue s p q || (queueOf s q).state ≠ .disabled then finish c.id stNotPermitted 0 0 s
    else if weight = 0 then finish c.id stFormat 0 0 s
    else
      let s := updQueue q (fun _ => {
        state := .active, sq := cAddr0 w, cq := cAddr1 w, sqSize := n, cqSize := m, weight := weight, turn := weight,
        vector := BitVec.ofNat 8 (bits (cP0 w) 16 8), vecOn := (cP0 w).testBit 24,
        group := BitVec.ofNat 2 (bits (cP0 w) 14 2) }) s
      if cAddr0 w % 4096 ≠ 0 || cAddr1 w % 4096 ≠ 0 || n < 2 || m < 2 then
        finish c.id stFormat 0 0 (queueError p q 1 s)
      else finish c.id stOk 0 0 s

/-- A queue that is being deleted becomes DISABLED, and its QUEUE.DELETE completes, once every command accepted on it
has completed. -/
def tryDelete (q : Nat) (s : State) : State :=
  match (queueOf s q).deleting with
  | none => s
  | some id =>
    if (s.front.cmds.any fun c => c.queue.toNat = q) || (s.front.ready.any fun r => r.queue.toNat = q) then s
    else finish id stOk 0 0 (updQueue q (fun _ => {}) s)

/-- QUEUE.DELETE (opcode 0x11). The admin queue and a DISABLED queue cannot be deleted (DEDUCED, log entry 24). -/
def execQueueDelete (s : State) : Outcome State Fault Refusal :=
  onHead 0x11 s fun c s =>
    let p := c.part.toNat
    let q := bits (cP0 c.word) 0 13
    if !holdsQueue s p q || q = (queueRange s p).1 || (queueOf s q).state = .disabled ||
        (queueOf s q).deleting.isSome then finish c.id stNotPermitted 0 0 s
    else tryDelete q (updQueue q (fun r => { r with deleting := some c.id }) (takeUp c.id s))

/-! ### Completions (spec/14 R410, R418) -/

/-- The 32 bytes of a completion (spec/14 Table HQ-10). -/
def complWord (r : Compl) (time : BitVec 64) (phase : Bool) : BitVec 256 :=
  packR 256 [(64, time.toNat), (64, r.info.toNat), (16, r.pgen.toNat), (16, r.sqhead.toNat), (16, r.tag.toNat),
    (13, r.queue.toNat), (3, 0), (8, r.status.toNat), (8, r.detail.toNat), (47, 0), (1, phase.toNat)]

/-- The MSI-X vector of a queue, none where it is not enabled; the admin queue's stands in AVEC. -/
def queueVector (s : State) (p q : Nat) : Option (BitVec 8) :=
  if q = (queueRange s p).1 then
    (if bit (partOf s p).avec 8 then some (fld (partOf s p).avec 0 8) else none)
  else if (queueOf s q).vecOn then some (queueOf s q).vector else none

/-- The sequence of a completed request is settled, and the request is forgotten (spec/07 R212, R216). -/
def settleRequest (id status : Nat) (s : State) : State :=
  match s.ad.requests.find? fun r => r.cmd = id with
  | none => s
  | some r =>
    let s := updAd (fun a => { a with requests := a.requests.filter fun x => x.cmd ≠ id }) s
    if r.seq = 0 || r.steep.isNone then s
    else settleSequence r.part.toNat r.seq.toNat (status = stOk || status = stStepRepeated)
      (r.first.toNat + r.rows) r.chunks s

/-- COMPLETION_WRITE (spec/14 R410, R418): the oldest completion of a queue whose results are written. Where the host answers
the ring write with an error, the entry is not written, the queue enters ERROR, and the completion is spent (Table HQ-7;
DESIGN CHOICE, log entry 80). -/
def execCompletionWrite (ring : RingWrite) (s : State) : Outcome State Fault Refusal :=
  let queue := ring.queue
  match s.front.ready.find? fun r => r.queue = queue && r.copied with
  | none => done s
  | some r =>
    let p := r.part.toNat
    let q := queue.toNat
    let drop := updFront fun f => { f with ready := f.ready.erase r }
    if r.pgen ≠ (partOf s p).gen then
      let s := updFront (fun f => { f with discarded := f.discarded + 1 }) (drop s)
      done (tryDelete q (settleRequest r.cmd r.status.toNat (count 0xB0 0x04B 1 s)))
    else
      let k := queueOf s q
      if k.state = .disabled || (k.cqTail + 1) % k.cqSize = k.cqHead || s.boot.pcieWidth = 0 then done s
      else if ring.failed then done (tryDelete q (settleRequest r.cmd r.status.toNat (queueError p q 4 (drop s))))
      else
        let s := hostWrite p (k.cq + 32 * k.cqTail) (wordBytes (complWord r s.time k.phase)) (drop s)
        let last := k.cqTail + 1 = k.cqSize
        let s := updQueue q (fun k => { k with
          cqTail := (k.cqTail + 1) % k.cqSize, phase := if last then !k.phase else k.phase }) s
        let s := match queueVector s p q with | some v => sendMsix p v s | none => s
        let s := count 0xB0 0x046 1 (histSample (64 + p) 2000 (ahead s.time r.stamp) s)
        done (tryDelete q (settleRequest r.cmd r.status.toNat s))

/-! ### Input and output copies (spec/14 R413 to R416) -/

/-- The kind of a row group is STEP (spec/06 R178). -/
def isStepGroup (s : State) (p g : Nat) : Bool := cfg s (0x2414 + g) (p + 1) = 1

/-- The row capacity of a group. -/
def capacity (s : State) (p g : Nat) : Nat := cfg s (0x2410 + g) (p + 1)

/-- The address of row `i` of a request's group in its input or output area: the half follows the steep number for a
SERVE group and the step number for a STEP group. -/
def rowAddr (s : State) (out : Bool) (r : Request) (i : Nat) : Nat :=
  let p := r.part.toNat
  let g := r.grp.toNat
  let base := cfg s ((if out then 0x3048 else 0x3040) + g) (p + 1)
  let n := cfg s ((if out then 0x304C else 0x3044) + g) (p + 1)
  let h := if isStepGroup s p g then r.step.toNat % 2 else (r.steep.getD 0).toNat % 2
  base + h * (capacity s p g) * n + i * n

/-- The bytes of one row of a request's group. -/
def rowBytes (s : State) (out : Bool) (r : Request) : Nat :=
  cfg s ((if out then 0x304C else 0x3044) + r.grp.toNat) (r.part.toNat + 1)

/-- Apply `f` to the request of a command. -/
def updRequest (cmd : Nat) (f : Request → Request) (s : State) : State :=
  updAd (fun a => { a with requests := a.requests.map fun r => if r.cmd = cmd then f r else r }) s

/-- A request's copy has failed, and the request will end with a status. -/
def failCopy (cmd status : Nat) (s : State) : State :=
  updRequest cmd (fun r => { r with
    copyFailed := true, ending := some (r.ending.getD (BitVec.ofNat 8 status, 0)) }) s

/-- INPUT_COPY (spec/14 R413, R414): the host input of a request admitted to the next steep, GCM to XTS under its
tenant's slot, from B(k) + 20,000 cycles, if it ends by the guard. -/
def execInputCopy (queue : BitVec 13) (tag : BitVec 16) (host : HostMem) (s : State) : Outcome State Fault Refusal :=
  match s.ad.requests.find? fun r => r.queue = queue && r.tag = tag && r.steep = some (s.steep.k + 1) && !r.copied &&
      !r.copyFailed with
  | none => done s
  | some r =>
    let s := untilTime (s.steep.b + 20000) s
    let p := r.part.toNat
    let room := r.rows * rowBytes s false r
    if ahead (guardTime s) s.time = 0 then done s
    else if room < r.len then done (failCopy r.cmd stFormat s)
    else if !pairOk s r.slot.toNat r.gen then done (failCopy r.cmd stKeyRevoked (countStale 1 s))
    else
      let (res, s) := gcmFetch host r.input r.len r.slot.toNat r.gen s
      if res.1 then done (failCopy r.cmd stKeyRevoked s)
      else if res.2.1 then done (failCopy r.cmd stChecksum s)
      else
        let bytes := res.2.2 ++ List.replicate (room - res.2.2.length) 0
        let s := xtsWriteFor p r.slot.toNat true (rowAddr s false r r.row0) bytes s
        done (updRequest r.cmd (fun r => { r with copied := true }) s)

/-- The encrypting unit of the front end's output copies (log entry 13). -/
def frontUnit : Nat := 0x3FE

/-- OUTPUT_COPY (spec/14 R415, R418): the result bytes of a request that ends well, as GCM units under its tenant's
slot; its completion follows. A length that is no multiple of 64 is sealed with zero bytes up to one (DESIGN CHOICE,
log entry 26). -/
def execOutputCopy (queue : BitVec 13) (tag : BitVec 16) (s : State) : Outcome State Fault Refusal :=
  match s.ad.requests.find? fun r => r.queue = queue && r.tag = tag && r.due &&
      (cmdOf s r.cmd).isSome with
  | none => done s
  | some r =>
    let p := r.part.toNat
    let st := (r.ending.map fun e => e.1.toNat).getD stOk
    let info := r.resBytes + (if isStepGroup s p r.grp.toNat then r.step.toNat * 2 ^ 32 else 0)
    if ((cmdOf s r.cmd).map fun c => c.pgen) ≠ some (partOf s p).gen then done (finish r.cmd st 0 info s)
    else if !pairOk s r.slot.toNat r.gen then done (finish r.cmd stKeyRevoked 0 0 (countStale 1 s))
    else
      let (bytes, s) := xtsReadAt r.slot.toNat (rowAddr s true r r.row0) r.resBytes s
      let padded := bytes ++ List.replicate ((64 - r.resBytes % 64) % 64) 0
      match gcmSeal frontUnit r.slot.toNat padded s with
      | (none, s) => done (finish r.cmd stChecksum 0 0 s)
      | (some units, s) =>
        let s := if r.resBytes = 0 then s else hostWrite p r.result units s
        done (finish r.cmd st 0 info s)

end Sys2Proof.Machine
end

