-- ==== Sys2Proof/Machine/Flags.lean ====
section
/-! DEFINITION. Numbers (spec/04): the formats of Table NU-1 as exact values, rounding to nearest even and stochastic
rounding (R114, R115), exact sums, and the conversions. The flags of numeric events are read off here: an overflow is
a finite exact value whose rounding is infinite (R118). -/

namespace Sys2Proof.Machine

/-- An exact value: NaN, an infinity, or a signed dyadic number m × 2^e (zero keeps its sign). -/
inductive Val where
  | nan
  | inf (neg : Bool)
  | fin (neg : Bool) (m : Nat) (e : Int)
  deriving DecidableEq, Repr

/-- Positive zero. -/
def Val.zero : Val := .fin false 0 0

def Val.isNan : Val → Bool
  | .nan => true
  | .inf _ => false
  | .fin _ _ _ => false

def Val.isFin : Val → Bool
  | .nan => false
  | .inf _ => false
  | .fin _ _ _ => true

def Val.isZero : Val → Bool
  | .fin _ 0 _ => true
  | _ => false

/-! ### Decoding (spec/04 R94 to R101) -/

/-- A number of a format with `eb` exponent bits, `mb` mantissa bits and a bias, infinities and NaNs as IEEE 754. -/
def ieeeVal (eb mb bias v : Nat) : Val :=
  let s := v.testBit (eb + mb)
  let e := bits v mb eb
  let m := bits v 0 mb
  if e = 2 ^ eb - 1 then (if m = 0 then .inf s else .nan)
  else if e = 0 then .fin s m (1 - (bias : Int) - mb)
  else .fin s (m + 2 ^ mb) ((e : Int) - bias - mb)

def ofFp32 (x : BitVec 32) : Val := ieeeVal 8 23 127 x.toNat
def ofBf16 (x : BitVec 16) : Val := ieeeVal 8 7 127 x.toNat

def ofE4m3 (x : Byte) : Val :=
  let e := bits x.toNat 3 4
  let m := bits x.toNat 0 3
  if e = 15 && m = 7 then .nan
  else if e = 0 then .fin (bit x 7) m (-9)
  else .fin (bit x 7) (m + 8) ((e : Int) - 10)

def ofFp4 (x : Nat) : Val :=
  let e := bits x 1 2
  let m := bits x 0 1
  if e = 0 then .fin (x.testBit 3) m (-1) else .fin (x.testBit 3) (m + 2) ((e : Int) - 2)

/-- An integer as a value. -/
def ofInt (i : Int) : Val := .fin (i < 0) i.natAbs 0

def ofInt4 (x : Nat) : Val := ofInt (sgn 4 x)

/-- UE8M0 (R100). -/
def ofUe8m0 (x : Byte) : Val := if x = 0xFF then .nan else .fin false 1 ((x.toNat : Int) - 127)

/-- Digit `i` of a ternary byte as a weight; a byte above 242 holds five zeros (R98). -/
def ternaryDigit (b : Byte) (i : Nat) : Int :=
  if 242 < b.toNat then 0 else ((b.toNat / 3 ^ i % 3 : Nat) : Int) - 1

/-! ### Exact arithmetic (spec/04 R118) -/

/-- The signed integer of a finite value at exponent `e0` (not above its own). -/
def scaled (neg : Bool) (m : Nat) (e e0 : Int) : Int :=
  let v : Int := ((m * 2 ^ (e - e0).toNat : Nat) : Int)
  if neg then -v else v

/-- The exact sum. -/
def Val.add (a b : Val) : Val :=
  match a, b with
  | .nan, _ => .nan
  | _, .nan => .nan
  | .inf s, .inf t => if s = t then .inf s else .nan
  | .inf s, .fin _ _ _ => .inf s
  | .fin _ _ _, .inf t => .inf t
  | .fin s m e, .fin t n f =>
    let e0 := min e f
    let v := scaled s m e e0 + scaled t n f e0
    if v = 0 then .fin (s && t) 0 0 else .fin (v < 0) v.natAbs e0

def Val.neg : Val → Val
  | .nan => .nan
  | .inf s => .inf (!s)
  | .fin s m e => .fin (!s) m e

def Val.abs : Val → Val
  | .nan => .nan
  | .inf _ => .inf false
  | .fin _ m e => .fin false m e

/-- The exact product. -/
def Val.mul (a b : Val) : Val :=
  match a, b with
  | .nan, _ => .nan
  | _, .nan => .nan
  | .inf s, .inf t => .inf (s != t)
  | .inf s, .fin t n _ => if n = 0 then .nan else .inf (s != t)
  | .fin s m _, .inf t => if m = 0 then .nan else .inf (s != t)
  | .fin s m e, .fin t n f => .fin (s != t) (m * n) (e + f)

/-- The product under the zero-safe bit (R120): 0 × ∞ is +0. -/
def Val.mulZs (zs : Bool) (a b : Val) : Val :=
  let p := a.mul b
  if zs && p.isNan && !a.isNan && !b.isNan then .zero else p

/-- The sum under the zero-safe bit (R120): (−∞) + (−∞) is −∞, and so is (−∞) − (−∞). -/
def Val.subZs (zs : Bool) (a b : Val) : Val :=
  if zs && a = .inf true && b = .inf true then .inf true else a.add b.neg

/-- Multiply by 2^k, exactly. -/
def Val.shift (k : Int) : Val → Val
  | .nan => .nan
  | .inf s => .inf s
  | .fin s m e => .fin s m (e + k)

/-- The exact sum of a list. -/
def exactSum (l : List Val) : Val := l.foldl Val.add .zero

/-- `a < b`, false where either is NaN. -/
def Val.lt (a b : Val) : Bool :=
  match a, b with
  | .nan, _ => false
  | _, .nan => false
  | .inf s, .inf t => s && !t
  | .inf s, .fin _ _ _ => s
  | .fin _ _ _, .inf t => !t
  | .fin s m e, .fin t n f => let e0 := min e f; scaled s m e e0 < scaled t n f e0

/-- `a = b` as numbers, false where either is NaN. -/
def Val.same (a b : Val) : Bool := !a.isNan && !b.isNan && !a.lt b && !b.lt a

/-- |a| > n for a natural number n. -/
def Val.above (n : Nat) (a : Val) : Bool := (Val.fin false n 0).lt a.abs

/-! ### Rounding (spec/04 R93, R114) -/

/-- A rounding: to nearest, ties to even, or stochastic with 24 random bits. -/
inductive Rm where
  | rne
  | sr (u : Nat)
  deriving DecidableEq, Repr

/-- The number of significant bits. -/
def sigBits (m : Nat) : Nat := if m = 0 then 0 else m.log2 + 1

/-- Round a magnitude m × 2^e to a multiple of 2^q. -/
def roundAt (r : Rm) (m : Nat) (e q : Int) : Nat :=
  if q ≤ e then m * 2 ^ (e - q).toNat
  else
    let k := (q - e).toNat
    let lo := m / 2 ^ k
    let rem := m % 2 ^ k
    if rem = 0 then lo
    else match r with
      | .rne => if 2 ^ k < 2 * rem || (2 * rem = 2 ^ k && lo % 2 = 1) then lo + 1 else lo
      | .sr u => if 2 ^ 24 ≤ rem * 2 ^ 24 / 2 ^ k + u then lo + 1 else lo

/-- Round a magnitude to `p` significant bits with no unit below 2^emin: the integer and its unit's exponent. -/
def roundMag (r : Rm) (p : Nat) (emin : Int) (m : Nat) (e : Int) : Nat × Int :=
  let q := max emin (e + (sigBits m : Int) - p)
  let v := roundAt r m e q
  if v = 2 ^ p then (2 ^ (p - 1), q + 1) else (v, q)

/-- Encode a rounded magnitude in an IEEE-like layout with no overflow: `mb` mantissa bits, the smallest unit 2^emin. -/
def encodeMag (mb : Nat) (emin : Int) (v : Nat) (q : Int) : Nat :=
  if v < 2 ^ mb then v else v - 2 ^ mb + ((q - emin).toNat + 1) * 2 ^ mb

/-- A value in FP32 (R101, R102, R114). -/
def toFp32 (r : Rm) : Val → BitVec 32
  | .nan => 0x7FC00000
  | .inf s => if s then 0xFF800000 else 0x7F800000
  | .fin s m e =>
    let big := match r with
      | .sr _ => (Val.fin false (2 ^ 24 - 1) 104).lt (.fin false m e)
      | .rne => false
    let x := roundMag r 24 (-149) m e
    let c := encodeMag 23 (-149) x.1 x.2
    BitVec.ofNat 32 ((if big || 0x7F800000 ≤ c then 0x7F800000 else c) + (if s then 2 ^ 31 else 0))

/-- FP32, rounded to nearest even. -/
def fp32 (v : Val) : BitVec 32 := toFp32 .rne v

/-- A value in BF16, rounded to nearest even; it overflows to infinity. -/
def toBf16 : Val → BitVec 16
  | .nan => 0x7FC0
  | .inf s => if s then 0xFF80 else 0x7F80
  | .fin s m e =>
    let x := roundMag .rne 8 (-133) m e
    let c := encodeMag 7 (-133) x.1 x.2
    BitVec.ofNat 16 ((if 0x7F80 ≤ c then 0x7F80 else c) + (if s then 2 ^ 15 else 0))

/-- BF16 with a finite result clamped to the largest finite value (R112): the code, and whether it clamped. -/
def clampBf16 (v : Val) : BitVec 16 × Bool :=
  let x := toBf16 v
  if v.isFin && (x.toNat % 2 ^ 15 = 0x7F80) then (x - 1, true) else (x, false)

/-- RNE_E4M3 of a finite value, with no upper bound. -/
def roundE4m3 (v : Val) : Val :=
  match v with
  | .fin s m e => let x := roundMag .rne 4 (-9) m e; .fin s x.1 x.2
  | .inf s => .inf s
  | .nan => .nan

/-- A value in E4M3 clamped to ±448: the code, and whether it clamped. -/
def toE4m3 : Val → Byte × Bool
  | .nan => (0x7F, false)
  | .inf s => (if s then 0xFE else 0x7E, true)
  | .fin s m e =>
    let x := roundMag .rne 4 (-9) m e
    let c := encodeMag 3 (-9) x.1 x.2
    if 0x7E < c then (if s then 0xFE else 0x7E, true) else (BitVec.ofNat 8 (c + (if s then 128 else 0)), false)

/-- RNE among the FP4 values, with no upper bound. -/
def roundFp4 (v : Val) : Val :=
  match v with
  | .fin s m e => let x := roundMag .rne 2 (-1) m e; .fin s x.1 x.2
  | .inf s => .inf s
  | .nan => .nan

/-- A value in FP4 clamped to ±6.0; a NaN gives +0 (R95). -/
def toFp4 : Val → Nat × Bool
  | .nan => (0, false)
  | .inf s => (if s then 15 else 7, true)
  | .fin s m e =>
    let x := roundMag .rne 2 (-1) m e
    let c := encodeMag 1 (-1) x.1 x.2
    if 7 < c then (if s then 15 else 7, true) else (c + (if s then 8 else 0), false)

/-- A finite exact value whose rounding is infinite: an OVERFLOW event (R118). -/
def overflowed (v : Val) (x : BitVec 32) : Bool := v.isFin && x.toNat % 2 ^ 31 = 0x7F800000

/-- A NaN in FP32. -/
def isNan32 (x : BitVec 32) : Bool := (ofFp32 x).isNan

/-! ### FP32 operations, rounded to nearest even -/

def fAdd (a b : BitVec 32) : BitVec 32 := fp32 ((ofFp32 a).add (ofFp32 b))
def fSub (a b : BitVec 32) : BitVec 32 := fp32 ((ofFp32 a).add (ofFp32 b).neg)
def fMul (a b : BitVec 32) : BitVec 32 := fp32 ((ofFp32 a).mul (ofFp32 b))

/-- The quotient of two values, finite ones carried to 128 further bits with a sticky bit, so that it rounds as the
exact quotient does. -/
def divVal (a b : Val) : Val :=
  match a, b with
  | .fin s m e, .fin t n f =>
    if n = 0 then (if m = 0 then .nan else .inf (s != t))
    else
      let r := m * 2 ^ 128 % n
      .fin (s != t) (2 * (m * 2 ^ 128 / n) + (if r = 0 then 0 else 1)) (e - f - 129)
  | .fin s _ _, .inf t => .fin (s != t) 0 0
  | .inf s, .fin t _ _ => .inf (s != t)
  | _, _ => .nan

/-- The quotient, correctly rounded to FP32. -/
def fDiv (a b : BitVec 32) : BitVec 32 := fp32 (divVal (ofFp32 a) (ofFp32 b))

/-! ### Results with their overflow flag (spec/04 Table NU-7 OVERFLOW) -/

/-- An FP32 value, with whether a finite operation on the way to it gave an infinity (Table NU-7 OVERFLOW). -/
abbrev Flagged := BitVec 32 × Bool

/-- Round an exact result. -/
def flagged (r : Rm) (v : Val) : Flagged := let x := toFp32 r v; (x, overflowed v x)

/-- Apply an exact binary operation and round. -/
def flag2 (op : Val → Val → Val) (r : Rm) (a b : Flagged) : Flagged :=
  let x := flagged r (op (ofFp32 a.1) (ofFp32 b.1))
  (x.1, a.2 || b.2 || x.2)

/-- A number as FP32. -/
def fNat (n : Nat) : BitVec 32 := fp32 (.fin false n 0)

/-- FP32 to FP64 and back do not lose anything that the check of spec/09 R283 needs: a value rounded to FP64. -/
def toFp64 : Val → Val
  | .nan => .nan
  | .inf s => .inf s
  | .fin s m e =>
    let x := roundMag .rne 53 (-1074) m e
    if (1024 : Int) < x.2 + sigBits x.1 then .inf s else .fin s x.1 x.2

/-! ### Block scales (spec/04 R111) -/

/-- The smallest e from −127 to 127 at which every finite element, scaled by 2^(−e) and rounded, stays within the
largest magnitude; −127 for a block with no non-zero finite element. -/
def blockExp (round : Val → Val) (largest : Nat) (xs : List Val) : Int :=
  let ys := xs.filter fun x => x.isFin && !x.isZero
  if ys.isEmpty then -127
  else (((List.range 255).find? fun i => ys.all fun y =>
    !(round (y.shift (127 - (i : Int)))).above largest).map fun i => (i : Int) - 127).getD 127

/-! ### The random bits (spec/04 R115) -/

/-- The 32-bit halves of a product: high and low. -/
def mulHiLo (a b : BitVec 32) : BitVec 32 × BitVec 32 :=
  let p := a.toNat * b.toNat
  (BitVec.ofNat 32 (p / 2 ^ 32), BitVec.ofNat 32 p)

/-- Rounds of Philox4×32 (the published constants; PRESUMED, log entry 27). -/
def philoxRounds : Nat → (BitVec 32 × BitVec 32) → (BitVec 32 × BitVec 32 × BitVec 32 × BitVec 32) →
    (BitVec 32 × BitVec 32 × BitVec 32 × BitVec 32)
  | 0, _, c => c
  | n + 1, k, c =>
    let x := mulHiLo 0xD2511F53 c.1
    let y := mulHiLo 0xCD9E8D57 c.2.2.1
    philoxRounds n (k.1 + 0x9E3779B9, k.2 + 0xBB67AE85)
      (y.1 ^^^ c.2.1 ^^^ k.1, y.2, x.1 ^^^ c.2.2.2 ^^^ k.2, x.2)

/-- The four output words of Philox4×32 with 10 rounds. -/
def philox (k0 k1 c0 c1 c2 c3 : BitVec 32) : List (BitVec 32) :=
  let r := philoxRounds 10 (k0, k1) (c0, c1, c2, c3)
  [r.1, r.2.1, r.2.2.1, r.2.2.2]

end Sys2Proof.Machine
end

