-- ==== Sys2Proof/Machine/Operands.lean ====
section
/-! DEFINITION. The operands of steep programs (spec/05): op words and their field rules, program images and
directories, tile memory, segment tables as the ops of a core see them, credits and tokens, and program faults. -/

namespace Sys2Proof.Machine

open Host (Outcome)

/-! ### Op words (spec/05 R153, Tables SP-8 to SP-25) -/

/-- Bits `[lo + n - 1 : lo]` of an op. -/
def oF (w : BitVec 128) (lo n : Nat) : Nat := (fld w lo n).toNat

/-- Bit `i` of an op. -/
def oB (w : BitVec 128) (i : Nat) : Bool := w.getLsbD i

def oOp (w : BitVec 128) : Nat := oF w 0 8
def oWctr (w : BitVec 128) : Nat := oF w 12 6
def oWamt (w : BitVec 128) : Nat := oF w 18 4
def oSctr (w : BitVec 128) : Nat := oF w 22 6
def oSamt (w : BitVec 128) : Nat := oF w 28 4

/-- The width of the fields above bit 31 that an opcode uses; none for an undefined opcode (spec/05 Table SP-8). -/
def opWidth (op : Nat) : Option Nat :=
  match op with
  | 0x10 => some 37
  | 0x11 => some 74
  | 0x20 => some 96
  | 0x30 => some 73
  | 0x31 => some 67
  | 0x32 => some 64
  | 0x40 => some 83
  | 0x50 => some 88
  | 0x51 => some 90
  | 0x52 => some 66
  | 0x60 => some 24
  | 0x61 => some 24
  | 0x62 => some 28
  | 0x63 => some 24
  | 0x70 => some 28
  | 0x80 => some 41
  | 0x81 => some 41
  | 0x82 => some 41
  | 0x90 => some 30
  | 0x91 => some 30
  | 0x92 => some 24
  | 0xA0 => some 17
  | 0xF0 => some 0
  | _ => none

/-- The unit of an opcode (spec/05 Table SP-6): 0 array, 1 rank lane, 2 epilogue, 3 vector, 4 transfer, 5 control. -/
def opUnit (op : Nat) : Nat :=
  match op / 16 with
  | 1 => 0
  | 2 => 1
  | 3 => 2
  | 4 => 2
  | 5 => 3
  | 6 => 4
  | 7 => 4
  | 8 => 4
  | _ => 5

/-- Decode check: a defined opcode and zero reserved fields; HALT has every other field zero (spec/05 R153, R162). -/
def decodeOk (w : BitVec 128) : Bool :=
  match opWidth (oOp w) with
  | none => false
  | some n => oF w 8 4 = 0 && oF w (32 + n) (96 - n) = 0 && (oOp w ≠ 0xF0 || w = 0xF0)

/-- An FP32 operand that may not be infinite or NaN. -/
def finite32 (x : Nat) : Bool := (ofFp32 (BitVec.ofNat 32 x)).isFin

/-- An EPI slot's EOUT lies from −120 to 120. -/
def eoutOk (x : Nat) : Bool := -120 ≤ sgn 8 x && sgn 8 x ≤ 120

/-- The rules that a single op must keep whenever it starts (spec/05 R154 to R158). -/
def opRuleOk (w : BitVec 128) : Bool :=
  match oOp w with
  | 0x10 => oF w 64 3 ≤ 4 && (!oB w 67 || 3 ≤ oF w 64 3)
  | 0x11 => 1 ≤ oF w 82 10 && oF w 82 10 ≤ 512 && oF w 70 12 ≠ 0
  | 0x20 => 1 ≤ oF w 82 10 && oF w 82 10 ≤ 512 && oF w 70 12 ≠ 0 && oF w 92 8 ≤ 127
  | 0x30 => finite32 (oF w 35 32) && eoutOk (oF w 67 8) && oF w 75 3 ≠ 7 && oF w 79 2 ≠ 3
  | 0x31 => finite32 (oF w 35 32) && finite32 (oF w 67 32)
  | 0x40 => 1 ≤ oF w 38 10 && oF w 38 10 ≤ 512
  | 0x50 => oF w 32 5 ≤ 16
  | 0x51 =>
    let sf := oF w 32 3
    let df := oF w 35 3
    let sh := oF w 38 2
    sf ≤ 3 && df ≤ 3 && !(2 ≤ sf && 2 ≤ df && sf ≠ df) && !(sh ≠ 0 && sf ≤ 1 && df ≤ 1) &&
      (sh ≤ 1 || (oF w 110 12 + 1) % 16 = 0)
  | 0x52 => oF w 32 3 ≤ 4
  | 0x70 => oF w 56 4 ≤ 8
  | _ => true

/-! ### Images, directories and bindings (spec/05 R135 to R142) -/

/-- Fields of a program header (Table SP-2). -/
def hN0 (h : BitVec 512) : Nat := (fld h 32 16).toNat
def hN1 (h : BitVec 512) : Nat := (fld h 48 16).toNat
def hPaired (h : BitVec 512) : Bool := bit h 24
def hMaxSeg (h : BitVec 512) (n : Nat) : Nat := (fld h (192 + 8 * n) 8).toNat
def hSeg (h : BitVec 512) (n : Nat) : Nat := 64 * (fld h (128 + 16 * n) 16).toNat

/-- A little-endian word of `n` bytes in package memory. -/
def memWord (s : State) (a n : Nat) : Nat := leNat (memRead s.mem a n)

/-- The header of the image at an address. -/
def headerAt (s : State) (a : Nat) : BitVec 512 := BitVec.ofNat 512 (memWord s a 64)

/-- The bytes of an image with this header. -/
def imageBytes (h : BitVec 512) : Nat := 0x200 + 16 * (hN0 h + hN1 h)

/-- The image at an address (Table SP-1). -/
def imageAt (s : State) (a : Nat) : Image :=
  let h := headerAt s a
  { header := h,
    credits := (List.range 64).map fun i => BitVec.ofNat 16 (memWord s (a + 0x40 + 2 * i) 2),
    sendMap := (List.range 64).map fun i => BitVec.ofNat 32 (memWord s (a + 0xC0 + 4 * i) 4),
    consts := (List.range 16).map fun i => BitVec.ofNat 32 (memWord s (a + 0x1C0 + 4 * i) 4),
    ops0 := (List.range (hN0 h)).map fun i => BitVec.ofNat 128 (memWord s (a + 0x200 + 16 * i) 16),
    ops1 := (List.range (hN1 h)).map fun i => BitVec.ofNat 128 (memWord s (a + 0x200 + 16 * (hN0 h + i)) 16) }

/-- Directory entry `i` of a binding (Table SP-4). -/
def dirEntry (s : State) (b : Binding) (i : Nat) : BitVec 128 := BitVec.ofNat 128 (memWord s (b.dir.toNat + 16 * i) 16)

def dFprog (e : BitVec 128) : Nat := (fld e 0 48).toNat
def dPprog (e : BitVec 128) : Nat := (fld e 48 48).toNat
def dPvalid (e : BitVec 128) : Bool := bit e 96

/-- The binding that governs a core in steep `k`. -/
def bindingAt (s : State) (g : Nat) (k : BitVec 64) : Binding :=
  let c := coreOf s g
  match c.pendingBind with
  | some b => if ahead b.first k = 0 then b else c.binding
  | none => c.binding

/-- A binding is TRAIN, or SERVE. -/
def isTrain (b : Binding) : Bool := b.mode = 1
def isServe (b : Binding) : Bool := b.mode = 2

/-- SIDX of the next steep, whatever the wave decides (spec/05 R139). -/
def sidxNext (s : State) : Nat := if s.steep.sidx + 1 = stepLen s then 0 else s.steep.sidx + 1

/-- The directory entry that a binding runs in steep `k` with SIDX `i` (spec/05 R139). -/
def entryOf (b : Binding) (k : BitVec 64) (i : Nat) : Nat :=
  if isTrain b then i else ahead k b.first % max 1 b.dlen.toNat

/-- The directory entry of the present steep. -/
def entryNow (s : State) (g : Nat) : Nat := entryOf (coreOf s g).binding s.steep.k s.steep.sidx

/-- Slot control entry `n` of directory entry `i` (spec/06 R182, Table AD-8), 0 without a slot map. -/
def slotCtlAt (s : State) (b : Binding) (i n : Nat) : BitVec 256 :=
  if b.slotMap = 0 then 0 else BitVec.ofNat 256 (memWord s (b.slotMap.toNat + 128 * i + 32 * n) 32)

def cRowgrp (e : BitVec 256) : Nat := (fld e 44 2).toNat

/-- KV control entry of directory entry `i` (spec/07 R220, Table AT-3), 0 without a KV map. -/
def kvCtlAt (s : State) (b : Binding) (i : Nat) : BitVec 256 :=
  if b.kvMap = 0 then 0 else BitVec.ofNat 256 (memWord s (b.kvMap.toNat + 32 * i) 32)

def kValid (e : BitVec 256) : Bool := bit e 0
def kRows (e : BitVec 256) : Nat := 64 * (fld e 20 16).toNat
def kRowgrp (e : BitVec 256) : Nat := (fld e 36 2).toNat
def kNcmd (e : BitVec 256) : Nat := (fld e 38 11).toNat + 1
def kSlist (e : BitVec 256) : Nat := (fld e 50 48).toNat

/-- The row groups that a program names: slots with non-zero MAXSEG, and a valid KV control entry (spec/02 R52). -/
def namedGroups (s : State) (b : Binding) (i : Nat) (h : BitVec 512) : List Nat :=
  ((List.range 4).filter fun n => hMaxSeg h n ≠ 0).map (fun n => cRowgrp (slotCtlAt s b i n)) ++
    (if kValid (kvCtlAt s b i) then [kRowgrp (kvCtlAt s b i)] else [])

/-! ### Tile memory (spec/03 R88, R90; spec/05 R153: addresses wrap at 4 MiB) -/

/-- `n` bytes at a byte offset of a core's tile memory. -/
def tileRead (s : State) (g off n : Nat) : List Byte :=
  (List.range n).map fun i => memByte s.mem (tileBase g + (off + i) % 0x400000)

/-- A little-endian number in tile memory. -/
def tileNat (s : State) (g off n : Nat) : Nat := leNat (tileRead s g off n)

/-- Write bytes at a byte offset of a core's tile memory; a rewritten word loses its ECC error. -/
def tileWrite (g off : Nat) (bs : List Byte) (s : State) : State :=
  let o := off % 0x400000
  let head := bs.take (0x400000 - o)
  let rest := bs.drop head.length
  let m := (chunk 0x400000 (rest.length / 0x400000 + 1) rest).foldl (fun m c => memWrite m (tileBase g) c)
    (memWrite s.mem (tileBase g + o) head)
  let s := { s with mem := m }
  if (coreOf s g).upsets = [] then s
  else updCore g (fun k => { k with upsets := k.upsets.filter fun u => u.mem ≠ .tile ||
    (!(o ≤ 8 * u.word && 8 * u.word + 8 ≤ o + head.length) && !(8 * u.word + 8 ≤ bs.length - head.length)) }) s

/-- A range of one of a core's memories: the memory, the byte offset and the length. -/
abbrev MemRange := CoreMem × Nat × Nat

/-- The word of an ECC error lies in a range; ranges of tile memory wrap at 4 MiB. -/
def meets (u : Upset) (r : MemRange) : Bool :=
  u.mem = r.1 && r.2.2 ≠ 0 && (8 * u.word + 7 + 0x400000 - r.2.1 % 0x400000) % 0x400000 < r.2.2 + 7

/-- A read of ranges of a core's memories meets an uncorrectable word (spec/03 R90). -/
def readFails (s : State) (g : Nat) (rs : List MemRange) : Bool :=
  (coreOf s g).upsets.any fun u => u.double && rs.any (meets u)

/-- The single-bit errors that a read meets are corrected and counted (spec/03 R90, spec/16 event 0x004); the corrected word
is written back (DESIGN CHOICE, log entry 57). -/
def correctReads (g : Nat) (rs : List MemRange) (s : State) : State :=
  let hit (u : Upset) : Bool := !u.double && rs.any (meets u)
  let n := (coreOf s g).upsets.countP hit
  if n = 0 then s
  else count g 0x004 n (updCore g (fun k => { k with upsets := k.upsets.filter fun u => !hit u }) s)

/-- The ranges of tile memory that a read covers. -/
def tileRanges (rs : List (Nat × Nat)) : List MemRange := rs.map fun r => (.tile, r.1, r.2)

/-- The ECC errors that have come up in a core's memories, as a command that concerns the core brings them. -/
def bringUpsets (g : Nat) (env : ReadEnv) (s : State) : State :=
  if env.upsets = [] then s else updCore g (fun k => { k with upsets := k.upsets ++ env.upsets }) s

/-! ### The time of a core's die and its pace (spec/01 R22, R27) -/

/-- What the time copy of a core's die reads above the FX copy. -/
def dieSkew (s : State) (g : Nat) : Int := s.steep.skews.getD (g / 32) 0

/-- Spapor time as a core reads it from its own die's copy. -/
def coreTime (s : State) (g : Nat) : BitVec 64 := s.time + BitVec.ofInt 64 (dieSkew s g)

/-- What the FX copy reads when the copy of a core's die reads `t`. -/
def dieClock (s : State) (g : Nat) (t : BitVec 64) : BitVec 64 := t - BitVec.ofInt 64 (dieSkew s g)

/-- The present cycle offset within the steep. -/
def steepOffset (s : State) : Nat := ahead s.time s.steep.b

/-- The cycle offset within the steep as a core reads it. -/
def coreOffset (s : State) (g : Nat) : Nat := ahead (coreTime s g) s.steep.b

/-- The cycles between the rows or chunks that a core's units issue: every second one while the issue rate is halved
(spec/01 R27; DEDUCED, log entry 58). -/
def pace (s : State) : Nat := if s.power.halved then 2 else 1

def tile32 (s : State) (g off : Nat) : BitVec 32 := BitVec.ofNat 32 (tileNat s g off 4)
def tile16 (s : State) (g off : Nat) : BitVec 16 := BitVec.ofNat 16 (tileNat s g off 2)
def tile8 (s : State) (g off : Nat) : Byte := BitVec.ofNat 8 (tileNat s g off 1)

/-! ### Segment tables in a core (spec/06 R182, R183) -/

/-- The row group that feeds slot `n` of a core in the present steep. -/
def slotGroup (s : State) (g n : Nat) : Nat := cRowgrp (slotCtlAt s (coreOf s g).binding (entryNow s g) n)

/-- The slot control entry of slot `n` of a core in the present steep. -/
def slotCtl (s : State) (g n : Nat) : BitVec 256 := slotCtlAt s (coreOf s g).binding (entryNow s g) n

/-- The segments of slot `n` of a core that overlap rows `[base, base + rows)`, each with its index in the table, its
first chain row and its number of rows there. -/
def segsOver (s : State) (g n base rows : Nat) : List (Nat × Seg × Nat × Nat) :=
  match tableOf s (coreOwnerD s g) (slotGroup s g n) with
  | none => []
  | some t => (indexed t.segs).filterMap fun e =>
      let lo := max base e.2.row0
      let hi := min (base + rows) (e.2.row0 + e.2.nrows)
      if lo < hi then some (e.1, e.2, lo - base, hi - lo) else none

/-! ### Credits, tokens and faults (spec/05 R149 to R151, R166) -/

/-- A core's credit counter. -/
def creditOf (k : Core) (i : Nat) : Nat := (sget 0 i k.credits).toNat

/-- What a test in the cycle `now` sees of a counter: increments of the same cycle are visible from the next one
(spec/05 R149). -/
def creditSeen (now : Nat) (k : Core) (i : Nat) : Nat :=
  let x := sget (0, 0) i k.creditIn
  if x.1 = now then creditOf k i - x.2 else creditOf k i

/-- Take credits, present or not. -/
def takeCredit (i n : Nat) (k : Core) : Core := { k with credits := supd 0 i (fun c => c - BitVec.ofNat 16 n) k.credits }

/-- A program fault (spec/05 R166, Table SP-26): the core stops, the count, the record of the first fault of the
steep, and the trace record. Of faults with one time stamp the record holds that of the lowest core, the first in canonical
order (spec/02 R56). -/
def progFault (g : Nat) (stream : Bool) (index code : Nat) (s : State) : State :=
  let s := updCore g (fun k => { k with faulted := some (k.faulted.getD (BitVec.ofNat 8 code)) }) s
  let old := s.prog.lastFault
  let first := decide (s.prog.faultSteep ≠ some s.steep.k) || (fld old 64 64 = s.time && g < (fld old 57 7).toNat)
  let r := packR 128 [(64, s.time.toNat), (7, g), (1, stream.toNat), (16, index), (8, code)]
  let s := { s with prog := { s.prog with
    faults := s.prog.faults + 1, faultSteep := some s.steep.k,
    lastFault := if first then r else s.prog.lastFault } }
  trace 0x05 g (coreOwnerD s g) (BitVec.ofNat 128 (code + 65536 * index)) (count g 0x053 1 s)

/-- Add credits to a counter; one that would pass 65,535 stays there, with program fault 0x03 (spec/05 R149, R150). -/
def addCredit (g ctr amt : Nat) (s : State) : State :=
  let old := creditOf (coreOf s g) ctr
  let v := old + amt
  let s := updCore g (fun k =>
    let x := sget (0, 0) ctr k.creditIn
    { k with credits := sput 0 ctr (BitVec.ofNat 16 (min v 65535)) k.credits,
             creditIn := sput (0, 0) ctr (s.clock, (if x.1 = s.clock then x.2 else 0) + (min v 65535 - old)) k.creditIn }) s
  let s := count g 0x055 1 s
  if 65535 < v then progFault g false 0 3 s else s

/-- Send `amt` credits through send map entry `e` of a core (spec/05 R150, Table SP-3). Credits for this module's
cores are under way until a TOKEN command delivers them. -/
def sendCredit (g e amt : Nat) (s : State) : State :=
  let m := ((coreOf s g).image.map fun i => i.sendMap.getD e 0).getD 0
  let ctr : BitVec 6 := fld m 7 6
  let here (c : Nat) (s : State) : State :=
    { s with prog := { s.prog with
      tokens := s.prog.tokens ++ [{ source := BitVec.ofNat 7 g, core := BitVec.ofNat 7 c, ctr := ctr,
                                    amount := BitVec.ofNat 16 amt, steep := s.steep.k }] } }
  if amt = 0 then s
  else
    let s := count g 0x054 1 s
    match (fld m 30 2).toNat with
    | 0 => here g s
    | 1 => here (fld m 13 7).toNat s
    | 2 => send (.ldn (fld m 20 10)) (.token (fld m 20 10) (fld m 13 7) ctr (BitVec.ofNat 4 amt) s.steep.k) s
    | _ => s

/-! ### Starting and completing ops (spec/05 R145 to R150) -/

/-- The wave point W(k) of the present steep (spec/02 R37). -/
def waveTime (s : State) : BitVec 64 := nextB s - 32000

/-- The deadline of a core's program (spec/05 R147). -/
def deadline (s : State) (g : Nat) : BitVec 64 :=
  if isTrain (coreOf s g).binding && isCommitSteep s then waveTime s else guardTime s

/-- The head of a unit's queue for one stream. -/
def headOf (s : State) (g unit : Nat) (stream : Bool) : Option QOp :=
  (sget [] unit (coreOf s g).queues).find? fun q => q.stream = stream

/-- The extra waits of SYNC.WAIT, as (counter, amount) pairs; none for other ops (spec/05 Table SP-24). -/
def extraWaits (w : BitVec 128) : List (Nat × Nat) :=
  if oOp w = 0x90 then [(oF w 32 6, oF w 38 4), (oF w 42 6, oF w 48 4), (oF w 52 6, oF w 58 4)] else []

/-- Every wait of an op, the common one first. -/
def waitsOf (w : BitVec 128) : List (Nat × Nat) := (oWctr w, oWamt w) :: extraWaits w

/-- All waits hold together in the cycle `now`: each counter covers the sum of what the op takes from it. -/
def creditsPresent (now : Nat) (k : Core) (w : BitVec 128) : Bool :=
  (waitsOf w).all fun e =>
    (((waitsOf w).filter fun f => f.1 = e.1).map fun f => f.2).foldl (· + ·) 0 ≤ creditSeen now k e.1

/-- What an op takes from a core's counters at its start. -/
def takeCredits (w : BitVec 128) (k : Core) : Core :=
  (waitsOf w).foldl (fun k e => if e.2 = 0 then k else takeCredit e.1 e.2 k) k

/-- The conditions on any op's start but its credits, resources and deadline (spec/05 R145, R166; spec/14 R400). -/
def mayStart (s : State) (g : Nat) (q : QOp) : Bool :=
  let k := coreOf s g
  isLocked s && k.image.isSome && k.faulted.isNone && !k.aborted && k.heldUntil ≤ s.clock && q.dispatched + 2 ≤ s.clock

/-- An op of `dur` cycles passes the deadline test. -/
def passesDeadline (s : State) (g dur : Nat) : Bool := (coreTime s g).toInt + dur ≤ (deadline s g).toInt

/-- The deadline of a core's program has not come when the clock reads `c`: what completes later is an overrun (spec/02
R51, spec/03 R83). -/
def inTime (s : State) (g c : Nat) : Bool := passesDeadline s g (c - s.clock)

/-- The op leaves its queue and takes its credits. -/
def takeOp (g : Nat) (q : QOp) (s : State) : State :=
  let u := opUnit (oOp q.word)
  let s := updCore g (fun k => takeCredits q.word
    { k with queues := supd [] u (fun l => l.erase q) k.queues, lastStart := sput false u q.stream k.lastStart,
             leaving := (u, q.stream, s.clock) :: k.leaving.filter fun x => x.2.2 = s.clock }) s
  count g 0x051 1 (if u = 4 then count g 0x057 1 s else s)

/-- Count `n` bytes that the transfer unit of core `g` moves (spec/16 Table PC-2, event 0x058). -/
def countMoved (g n : Nat) (s : State) : State := count g 0x058 (dataUnits n) s

/-- A started op runs for `dur` cycles and awaits `n` answers. -/
def runFor (g : Nat) (q : QOp) (dur n : Nat) (s : State) : State :=
  updCore g (fun k => { k with running := k.running ++
    [{ word := q.word, index := q.index, stream := q.stream, endAt := s.clock + dur, awaiting := n }] }) s

/-- An op breaks an operand rule at its start (spec/05 Table SP-26 code 0x02). -/
def startFault (g : Nat) (q : QOp) (code : Nat) (s : State) : State := progFault g q.stream q.index.toNat code s

/-- The core's EPI slot that a slot number names: stream 1 of a paired image owns slots 4 to 7 (spec/05 R146). -/
def epiIndex (s : State) (g : Nat) (stream : Bool) (n : Nat) : Nat :=
  if ((coreOf s g).image.map fun i => hPaired i.header) = some true && stream then n % 4 + 4 else n

/-- A core's generator unit number in a numeric event's latch (spec/04 Table NU-6): 0 array, 1 rank, 2 vector. -/
def genUnit (g lane : Nat) : Nat := 0x80 * lane + g

/-- Random bits U for a rounding of a unit (spec/04 R115): the lane, and the cycle offset within the steep. `train` is
whether the unit works for a training step; a steep of a core bound SERVE belongs to no training step (DEDUCED, log entry
59: R160 takes the steep number for STEP there). -/
def randomBits (s : State) (train : Bool) (unit lane cycle : Nat) : Nat :=
  let k0 := if train then s.steep.step else BitVec.ofNat 32 s.steep.k.toNat
  let k1 := BitVec.ofNat 32 ((ownLdnD s % 1024) * 2 ^ 22 + unit * 2 ^ 10)
  let ws := philox k0 k1 (BitVec.ofNat 32 (lane / 4)) (BitVec.ofNat 32 cycle)
    (if train then BitVec.ofNat 32 s.steep.sidx else 0) 0
  (ws.getD (lane % 4) 0).toNat / 256

/-- The rounding of a place of Table NU-5 that asks for stochastic rounding where `on` (spec/04 R117). -/
def rounding (s : State) (train on : Bool) (unit lane cycle : Nat) : Rm :=
  if on && cfg s 0x5012 1 = 0 then .sr (randomBits s train unit lane cycle) else .rne

/-- The rounding of a lane of a core's unit. -/
def coreRounding (s : State) (g : Nat) (on : Bool) (unit lane cycle : Nat) : Rm :=
  rounding s (isTrain (coreOf s g).binding) on unit lane cycle

/-- Numeric events of an op of a core. The latch of an event holds 0 for the adapter: the rows of an op belong to many
adapters (DESIGN CHOICE, log entry 60). -/
def opEvents (g lane : Nat) (index : BitVec 16) (classes : List Nat) (s : State) : State :=
  numericEvents classes g (genUnit g lane) index.toNat (coreOwnerD s g) 0 s

end Sys2Proof.Machine
end

