-- ==== Sys2Proof/Machine/Units.lean ====
section
/-! DEFINITION. The units of a core: how long an op occupies its unit (spec/05 Table SP-8), the resources it needs to
start (Table SP-6), the slices it takes from the infuser's rings (spec/06 R187), and the start itself. -/

namespace Sys2Proof.Machine

open Host (Outcome)

/-! ### Weight tiles (spec/03 R62, spec/04 R103 to R108) -/

/-- Bytes of a block and of a tile of a weight format (spec/03 Table MC-3). -/
def blockSize (wfmt : Nat) : Nat := match wfmt with | 2 => 52 | 3 => 256 | 4 => 512 | _ => 128
def tileSize (wfmt : Nat) : Nat := if wfmt = 2 then 9984 else 24576

/-- Block columns of a tile: 16, 8 or 4. -/
def blockCols (wfmt : Nat) : Nat := match wfmt with | 3 => 8 | 4 => 4 | _ => 16

/-- A weight format of four bits or fewer. -/
def isFourBit (wfmt : Nat) : Bool := wfmt ≤ 2

/-- The outliers that a count code stands for (spec/04 R107). -/
def codeCount (c : Nat) : Nat := match c with | 0 => 0 | 1 => 1 | 2 => 2 | _ => 4

/-- The outliers of block `j` by the side data of a 4-bit tile: the count table follows 192 scale bytes. -/
def outliersIn (side : List Byte) (j : Nat) : Nat :=
  codeCount (bits ((side.getD (192 + j / 4) 0).toNat) (2 * (j % 4)) 2)

/-- Outlier entries of a 4-bit tile, 0 for FP8 and BF16 tiles. -/
def outlierCount (wfmt : Nat) (side : List Byte) : Nat :=
  if isFourBit wfmt then (List.range 192).foldl (fun n j => n + outliersIn side j) 0 else 0

/-- The side data that a load reads: scales, and for a 4-bit tile the count table and the entries. -/
def sideData (s : State) (g addr wfmt : Nat) : List Byte :=
  if isFourBit wfmt then
    let head := tileRead s g addr 240
    head ++ tileRead s g (addr + 240) (3 * outlierCount wfmt head)
  else tileRead s g addr (12 * blockCols wfmt)

/-- Cycles of a weight load (spec/03 Table MC-3, R62). -/
def loadCycles (wfmt : Nat) (side : List Byte) : Nat :=
  if isFourBit wfmt then max (if wfmt = 2 then 39 else 96) ((240 + 3 * outlierCount wfmt side + 63) / 64) else 96

/-- The tile that an MMA.RUN uses: the shadow one with NEW. -/
def runTile (k : Core) (w : BitVec 128) : Option WeightTile := if oB w 104 then k.shadow else k.active

/-- How often one activation row enters the array because of outliers: o (spec/03 R73). -/
def rowEntries (t : WeightTile) : Nat := max 1 ((outlierCount t.wfmt.toNat t.side + 255) / 256)

/-- The array capacity that a row uses (spec/16 Table PC-2, event 0x041): 4 in 4-bit × FP8 mode, 2 in 4-bit × BF16 and
FP8 modes, 1 in BF16 mode. -/
def rowCapacity (t : WeightTile) (bf16 : Bool) : Nat :=
  if isFourBit t.wfmt.toNat then (if bf16 then 2 else 4) else if t.wfmt = 3 then 2 else 1

/-- Entry cycles of one activation row: c × o (spec/03 Table MC-2, R73). -/
def rowCycles (t : Option WeightTile) (bf16 : Bool) : Nat :=
  match t with
  | none => 1
  | some t =>
    let c := if bf16 && isFourBit t.wfmt.toNat then 2 else 1
    c * rowEntries t

/-! ### The rings (spec/06 R185 to R188) -/

/-- The compute-image page that is current. -/
def pageNow (d : BitVec 1024) : Nat := dPage d (dRole d)

/-- A slice that an op takes from a ring: the op's index, the segment's index, whether it is a scale slice, the
descriptor, and the slice's address and length in the compute image. -/
structure SliceRef where
  op : Nat
  seg : Nat
  scale : Bool
  didx : Nat
  addr : Nat
  len : Nat
  deriving DecidableEq, Repr

/-- The descriptor behind a segment, none for ADID 0. -/
def segDesc (s : State) (g : Seg) : Option (BitVec 1024) := if g.adid = 0 then none else some (descOf s g.didx.toNat)

/-- The A slice of K tile `kt` and pass `p` for a segment: none for a segment without the kind, a matrix that is not
present, or a pass beyond the rank (spec/06 R188). -/
def aSliceOf (s : State) (g : Seg) (layer proj kt p : Nat) : Option (Nat × Nat) :=
  match segDesc s g with
  | none => none
  | some d =>
    let m := matEntry s d layer proj
    if g.kinds.getLsbD 0 && mPres m && p < passes (dRank d) then some (aSlice (pageNow d) m (dRank d) kt p) else none

/-- The B slice of N tile `nt` and pass `p` for a segment. -/
def bSliceOf (s : State) (g : Seg) (layer proj nt p : Nat) : Option (Nat × Nat) :=
  match segDesc s g with
  | none => none
  | some d =>
    let m := matEntry s d layer proj
    if g.kinds.getLsbD 0 && mPres m && p < passes (dRank d) then some (bSlice (pageNow d) m (dRank d) nt p) else none

/-- The scale slice of N tile `nt` for a segment. -/
def scaleSliceOf (s : State) (g : Seg) (layer proj nt : Nat) : Option (Nat × Nat) :=
  match segDesc s g with
  | none => none
  | some d =>
    let m := matEntry s d layer proj
    if g.kinds.getLsbD 1 && mPres m then some (scaleSlice (pageNow d) m nt) else none

/-- An op that reads a ring of slot `n`: its index, its word, and for a POUR the number of earlier such POURs with its
PASS. -/
structure RingOp where
  index : Nat
  word : BitVec 128
  before : Nat
  deriving DecidableEq, Repr

/-- EXP and VSRC of the EPI slots, as the EPI.SET0 ops met so far leave them. -/
abbrev EpiKinds := Sparse (Bool × Bool)

/-- The RANK.RUNs of a stream that name segment table slot `n`, in program order. -/
def rankOps (ops : List (BitVec 128)) (first n : Nat) : List RingOp :=
  (indexed ops).filterMap fun e =>
    if oOp e.2 = 0x20 && oF e.2 105 2 = n then some { index := first + e.1, word := e.2, before := 0 } else none

/-- The POURs of a stream that name segment table slot `n` with EXP or VSRC in their EPI slot, in program order. -/
def pourOps (n : Nat) : List (BitVec 128) → Nat → EpiKinds → Sparse Nat → List RingOp
  | [], _, _, _ => []
  | w :: ws, i, kinds, seen =>
    if oOp w = 0x30 then pourOps n ws (i + 1) (sput (false, false) (oF w 32 3) (oB w 81, oB w 84) kinds) seen
    else
      let k := sget (false, false) (oF w 32 3) kinds
      if oOp w = 0x40 && oF w 98 2 = n && (k.1 || k.2) then
        let p := oF w 112 2
        { index := i, word := w, before := sget 0 p seen } ::
          pourOps n ws (i + 1) kinds (supd 0 p (· + 1) seen)
      else pourOps n ws (i + 1) kinds seen

/-- The ops that read the A ring, or the B ring, of slot `n`: stream 0 first (spec/06 R189). -/
def ringOps (img : Image) (n : Nat) (b : Bool) : List RingOp :=
  if b then pourOps n img.ops0 0 [] [] ++ pourOps n img.ops1 img.ops0.length [] []
  else rankOps img.ops0 0 n ++ rankOps img.ops1 img.ops0.length n

/-- The segments of a table that overlap rows `[base, base + rows)`. -/
def tableSegs (t : Option Table) (base rows : Nat) : List (Nat × Seg × Nat × Nat) :=
  match t with
  | none => []
  | some t => (indexed t.segs).filterMap fun e =>
      let lo := max base e.2.row0
      let hi := min (base + rows) (e.2.row0 + e.2.nrows)
      if lo < hi then some (e.1, e.2, lo - base, hi - lo) else none

/-- The slices that one op takes, in ring order, under a slot control entry and a table. -/
def slicesOf (s : State) (ctl : BitVec 256) (t : Option Table) (r : RingOp) : List SliceRef :=
  let layer := (fld ctl 46 12).toNat
  let proj := (fld ctl 58 4).toNat
  let w := r.word
  if oOp w = 0x20 then
    (tableSegs t (oF w 107 12) (oF w 82 10)).filterMap fun e =>
      (aSliceOf s e.2.1 layer proj (oF w 119 7) (oF w 126 2)).map fun a =>
        { op := r.index, seg := e.1, scale := false, didx := e.2.1.didx.toNat, addr := a.1, len := a.2 }
  else
    let nt := (fld ctl 78 12).toNat + r.before
    (tableSegs t (oF w 100 12) (oF w 38 10)).flatMap fun e =>
      ((bSliceOf s e.2.1 layer proj nt (oF w 112 2)).map fun a =>
        ({ op := r.index, seg := e.1, scale := false, didx := e.2.1.didx.toNat, addr := a.1, len := a.2 }
          : SliceRef)).toList ++
      ((scaleSliceOf s e.2.1 layer proj nt).map fun a =>
        ({ op := r.index, seg := e.1, scale := true, didx := e.2.1.didx.toNat, addr := a.1, len := a.2 }
          : SliceRef)).toList

/-- The table of a group in the next steep: the one sorted for it, but the present one where the wave has aborted the
step (spec/06 R178). -/
def tableNext (s : State) (p g : Nat) : Option Table :=
  let aborted := match s.steep.wave with
    | some w => isCommitSteep s && (waveFields w).commit = 2
    | none => false
  match nextTableOf s p g with
  | some t => if isStepGroup s p g && aborted then tableOf s p g else some t
  | none => tableOf s p g

/-- The whole list of a ring of slot `n`, for an image, its directory entry and the tables of its partition. -/
def ringList (s : State) (g : Nat) (b : Binding) (i : Nat) (img : Image) (next ring : Bool) (n : Nat) :
    List SliceRef :=
  if hMaxSeg img.header n = 0 then []
  else
    let ctl := slotCtlAt s b i n
    let p := coreOwnerD s g
    let t := if next then tableNext s p (cRowgrp ctl) else tableOf s p (cRowgrp ctl)
    (ringOps img n ring).flatMap (slicesOf s ctl t)

/-- The ring of a slot: key of the ring maps. -/
def ringKey (n : Nat) (b : Bool) : Nat := 2 * n + b.toNat

/-- The slices that an op of the present steep takes. -/
def needsOf (s : State) (g : Nat) (q : QOp) : List SliceRef :=
  let k := coreOf s g
  match k.image with
  | none => []
  | some img =>
    let pour := oOp q.word = 0x40
    let n := if pour then oF q.word 98 2 else oF q.word 105 2
    (ringList s g k.binding (entryNow s g) img false pour n).filter fun r => r.op = q.index.toNat

/-- The ring that an op takes its slices from. -/
def opRing (q : QOp) : Nat :=
  let pour := oOp q.word = 0x40
  ringKey (if pour then oF q.word 98 2 else oF q.word 105 2) pour

/-- The slices of a piece of an op, where every one that it takes is in its ring; a piece with none takes zeros. -/
def pieceSlices (s : State) (g : Nat) (q : QOp) (p : Piece) : Option (List RingSlice) :=
  match p.seg with
  | none => some []
  | some j =>
    let here := (sget [] (opRing q) (coreOf s g).rings).filter fun x => x.op = q.index.toNat && x.seg = j
    if ((needsOf s g q).filter fun r => r.seg = j).all fun r => here.any fun x => x.scale = r.scale then some here
    else none

/-- The values of the slice of a kind among the slices of a piece, none where the infuser writes none. -/
def sliceOf (xs : List RingSlice) (scale : Bool) : Option (List (BitVec 16)) :=
  (xs.find? fun x => x.scale = scale).map fun x => x.vals

/-- The clock at which the slices of a piece are written. -/
def arrival (xs : List RingSlice) : Nat := xs.foldl (fun a x => max a x.at_) 0

/-- The load of a piece's slices ends at a clock: their ring space is released then (spec/06 R187). -/
def loadEnds (g : Nat) (q : QOp) (p : Piece) (c : Nat) (s : State) : State :=
  updCore g (fun k => { k with rings := supd [] (opRing q) (fun l => l.map fun x =>
    if x.op = q.index.toNat && some x.seg = p.seg then { x with ends := some c } else x) k.rings }) s

/-! ### Durations (spec/05 Table SP-8, spec/03 Table MC-6) -/

/-- The pieces of `rows` rows under a table's segments, in row order; rows under no segment are pieces of their own
(DEDUCED, log entry 28). -/
def piecesOf (segs : List (Nat × Seg × Nat × Nat)) (rows : Nat) : List Piece :=
  let gap (lo hi : Nat) : List Piece := if lo < hi then [{ seg := none, row := lo, rows := hi - lo }] else []
  let r := segs.foldl (fun (a : Nat × List Piece) e =>
    (e.2.2.1 + e.2.2.2, a.2 ++ gap a.1 e.2.2.1 ++ [{ seg := some e.1, row := e.2.2.1, rows := e.2.2.2 }])) (0, [])
  r.2 ++ gap r.1 rows

/-- The pieces of the rows of a RANK.RUN. -/
def rankPieces (s : State) (g : Nat) (w : BitVec 128) : List Piece :=
  piecesOf (segsOver s g (oF w 105 2) (oF w 107 12) (oF w 82 10)) (oF w 82 10)

/-- Elements per cycle and latency of a vector op. -/
def vecRate (w : BitVec 128) : Nat × Nat :=
  match oOp w with
  | 0x50 => if 11 ≤ oF w 32 5 && oF w 32 5 ≤ 15 then (64, 12) else (256, 4)
  | 0x51 => (256, 4)
  | _ => (256, if oF w 32 3 = 4 then 14 else 10)

/-- Rows and elements per row of a vector op. -/
def vecShape (w : BitVec 128) : Nat × Nat :=
  match oOp w with
  | 0x50 => (oF w 101 12 + 1, oF w 85 16 + 1)
  | 0x51 => (oF w 110 12 + 1, oF w 94 16 + 1)
  | _ => (oF w 83 12 + 1, oF w 67 16 + 1)

/-- Cycles in which a vector op issues its chunks. -/
def vecIssue (w : BitVec 128) : Nat := (vecShape w).1 * (((vecShape w).2 + (vecRate w).1 - 1) / (vecRate w).1)

/-- The minimum duration of an op (spec/05 Table SP-8) at the present issue rate. -/
def opDur (s : State) (g : Nat) (w : BitVec 128) : Nat :=
  let k := coreOf s g
  match oOp w with
  | 0x10 => loadCycles (oF w 64 3) (sideData s g (64 * oF w 48 16) (oF w 64 3))
  | 0x11 => oF w 82 10 * (pace s * rowCycles (runTile k w) (oB w 100))
  | 0x20 => (rankPieces s g w).foldl (fun n p => n + max (pace s * p.rows) 96) (if oB w 102 then 96 else 0)
  | 0x40 => pace s * oF w 38 10 + 15
  | 0x50 => pace s * vecIssue w + (vecRate w).2
  | 0x51 => pace s * vecIssue w + (vecRate w).2
  | 0x52 => pace s * vecIssue w + (vecRate w).2
  | 0xF0 => 0
  | _ => 1

/-! ### Vector operands (spec/05 R157) -/

/-- Bytes of one element of a VEC.CVT format, in eighths of a byte. -/
def cvtBits (f : Nat) : Nat := match f with | 0 => 32 | 1 => 16 | 2 => 8 | _ => 4

/-- The stride of rows of `n` elements of `b` bits each: a multiple of 64 bytes. -/
def rowStride (n b : Nat) : Nat := (n * b + 511) / 512 * 64

/-- Columns per scale block and rows per scale block of a SHAPE. -/
def shapeCols (sh : Nat) : Nat := match sh with | 3 => 16 | _ => 32
def shapeRows (sh : Nat) : Nat := match sh with | 2 => 16 | 3 => 16 | _ => 1

/-- Scale bytes of a conversion. -/
def scaleBytes (sh rows n : Nat) : Nat :=
  if sh = 0 then 0 else (rows / shapeRows sh) * ((n + shapeCols sh - 1) / shapeCols sh)

/-- The byte ranges `(offset, length)` that a vector op reads. -/
def vecReads (w : BitVec 128) : List (Nat × Nat) :=
  let r := (vecShape w).1
  let n := (vecShape w).2
  match oOp w with
  | 0x50 =>
    let bw := if oB w 116 then 16 else 32
    let a := (64 * oF w 37 16, r * rowStride n (if oB w 115 then 16 else 32))
    let b := match oF w 113 2 with
      | 0 => [(64 * oF w 53 16, r * rowStride n bw)]
      | 1 => [(64 * oF w 53 16, r * bw / 8)]
      | 2 => [(64 * oF w 53 16, n * bw / 8)]
      | _ => []
    let d := if oF w 32 5 = 3 || oF w 32 5 = 10 then [(64 * oF w 69 16, r * rowStride n (if oB w 117 then 16 else 32))]
             else []
    a :: b ++ d
  | 0x51 =>
    (64 * oF w 40 16, r * rowStride n (cvtBits (oF w 32 3))) ::
      (if 2 ≤ oF w 32 3 then [(oF w 72 22, scaleBytes (oF w 38 2) r n)] else [])
  | _ => [(64 * oF w 35 16, r * rowStride n (if oB w 95 then 16 else 32))]

/-- The byte ranges that a vector op writes. -/
def vecWrites (w : BitVec 128) : List (Nat × Nat) :=
  let r := (vecShape w).1
  let n := (vecShape w).2
  match oOp w with
  | 0x50 => [(64 * oF w 69 16, r * rowStride n (if oB w 117 then 16 else 32))]
  | 0x51 =>
    (64 * oF w 56 16, r * rowStride n (cvtBits (oF w 35 3))) ::
      (if 2 ≤ oF w 35 3 then [(oF w 72 22, scaleBytes (oF w 38 2) r n)] else [])
  | _ => [(64 * oF w 51 16, r * (if oF w 32 3 = 4 then 8 else 4))]

/-- Two byte ranges of tile memory overlap (addresses wrap at 4 MiB). -/
def overlaps (a b : Nat × Nat) : Bool :=
  a.2 ≠ 0 && b.2 ≠ 0 &&
    ((b.1 + 0x400000 - a.1 % 0x400000) % 0x400000 < a.2 || (a.1 + 0x400000 - b.1 % 0x400000) % 0x400000 < b.2)

/-- No operand of a vector op overlaps a destination still in the pipeline. -/
def vecClear (s : State) (g : Nat) (w : BitVec 128) : Bool :=
  (coreOf s g).running.all fun r =>
    opUnit (oOp r.word) ≠ 3 || r.endAt ≤ s.clock ||
      (vecReads w).all fun a => (vecWrites r.word).all fun b => !overlaps a b

/-! ### Starting (spec/05 R145, Table SP-6) -/

/-- An accumulator bank, and a rank accumulator bank. -/
def accOf (k : Core) (b : Bool) : Bank := if b then k.acc1 else k.acc0
def rankOf (k : Core) (b : Bool) : Bank := if b then k.rank1 else k.rank0

/-- A FIRST op can take a bank: no chain holds it, and it was released in an earlier cycle (spec/03 R69). -/
def bankFree (s : State) (b : Bank) : Bool := b.chain.isNone && b.freeAt ≤ s.clock

/-- The resources that an op needs are free (spec/05 Table SP-6). -/
def opFree (s : State) (g : Nat) (q : QOp) : Bool :=
  let k := coreOf s g
  let w := q.word
  match oOp w with
  | 0x10 => k.shadow.isNone && k.shadowFree ≤ s.clock
  | 0x11 => k.arrayFree ≤ s.clock && (if oB w 104 then k.shadow.isSome && k.loadEnd ≤ s.clock else k.active.isSome) &&
      (!oB w 102 || bankFree s (accOf k (oB w 101)))
  | 0x20 => k.rankFree ≤ s.clock && k.rankRun.isNone && (!oB w 102 || bankFree s (rankOf k (oB w 101)))
  | 0x40 => k.pour.isNone
  | 0x50 => k.vecFree ≤ s.clock && vecClear s g w
  | 0x51 => k.vecFree ≤ s.clock && vecClear s g w
  | 0x52 => k.vecFree ≤ s.clock && vecClear s g w
  | _ => if opUnit (oOp w) = 4 then (k.running.countP fun r => opUnit (oOp r.word) = 4) < 8 else true

/-- The op can start in the present cycle, with the counters of `k`. -/
def canStart (s : State) (g : Nat) (k : Core) (q : QOp) : Bool :=
  mayStart s g q && creditsPresent s.clock k q.word && opFree s g q && passesDeadline s g (opDur s g q.word)

/-- The op that a unit starts in the present cycle, with the counters of `k`: of two streams whose heads can both start,
that of the stream that did not start last (spec/05 R145). -/
def startsOn (s : State) (g unit : Nat) (k : Core) : Option QOp :=
  let x := (headOf s g unit false).filter (canStart s g k)
  let y := (headOf s g unit true).filter (canStart s g k)
  match x, y with
  | some a, some b => some (if sget false unit (coreOf s g).lastStart then a else b)
  | some a, none => some a
  | none, y => y

/-- The core as a unit's test finds its counters: the units higher in Table SP-6 have taken theirs first (spec/05
R149). -/
def afterHigher (s : State) (g unit : Nat) : Core :=
  (List.range unit).foldl (fun k v => match startsOn s g v k with
    | some q => takeCredits q.word k
    | none => k) (coreOf s g)

/-- The op of an opcode and a stream that starts now. -/
def starting (s : State) (g op : Nat) (stream : Bool) : Option QOp :=
  (startsOn s g (opUnit op) (afterHigher s g (opUnit op))).filter fun q => q.stream = stream && oOp q.word = op

/-- A start row: where the op at the head of its queue starts, it is taken from the queue and has its effect, or
breaks an operand rule (program fault 0x02). -/
def onOp (core : BitVec 7) (stream : Bool) (op : Nat) (s : State) (f : QOp → State → State) :
    Outcome State Fault Refusal :=
  match starting s core.toNat op stream with
  | none => done s
  | some q =>
    let s := takeOp core.toNat q s
    done (if opRuleOk q.word then f q s else startFault core.toNat q 2 s)

/-! ### ECC errors (spec/03 R90) -/

/-- The row groups that a core's present program names. -/
def coreGroups (s : State) (g : Nat) : List Nat :=
  match (coreOf s g).image with
  | none => []
  | some i => namedGroups s (coreOf s g).binding (entryNow s g) i.header

/-- The row groups that a core's program of the present steep names, its image loaded or not. -/
def steepGroups (s : State) (g : Nat) : List Nat :=
  let b := (coreOf s g).binding
  let i := entryNow s g
  match (coreOf s g).image with
  | some _ => coreGroups s g
  | none =>
    let e := dirEntry s b i
    namedGroups s b i (headerAt s (if (coreOf s g).paired && dPvalid e then dPprog e else dFprog e))

/-- The requests of a core's steep will complete with a status and a detail. -/
def failServing (g status detail : Nat) (s : State) : State :=
  let gs := steepGroups s g
  let hit (r : Request) : Bool := some r.part.toNat = coreOwner s g && r.steep = some s.steep.k &&
    gs.contains r.grp.toNat && !isStepGroup s r.part.toNat r.grp.toNat
  let mark (r : Request) : Request :=
    if hit r then { r with ending := some (r.ending.getD (BitVec.ofNat 8 status, BitVec.ofNat 8 detail)) } else r
  updAd (fun a => { a with requests := a.requests.map mark }) s

/-- An uncorrectable error met by an op (spec/03 R90): every op of the steep is aborted, with program fault 0x07; a
training program sets FAIL[396], and the requests of a serving program's steep end with CHECKSUM. -/
def eccAbort (g : Nat) (q : QOp) (s : State) : State :=
  let s := startFault g q 7 s
  let s := updCore g (fun k => { k with aborted := true, running := [], rankRun := none, pour := none }) s
  if isTrain (coreOf s g).binding then failStep 0 s else failServing g stChecksum 7 s

/-- An op that reads ranges of its core's memories: its effect once single-bit errors are corrected, unless a range holds
an uncorrectable word. -/
def withReadsOf (g : Nat) (q : QOp) (ranges : List MemRange) (s : State) (f : State → State) : State :=
  if readFails s g ranges then eccAbort g q s else f (correctReads g ranges s)

/-- An op that reads ranges of tile memory. -/
def withReads (g : Nat) (q : QOp) (ranges : List (Nat × Nat)) (s : State) (f : State → State) : State :=
  withReadsOf g q (tileRanges ranges) s f

/-- A memory of a core, or its first `n` bytes, is written anew: its words lose their errors. -/
def rewritten (m : CoreMem) (n : Nat) (k : Core) : Core :=
  if k.upsets = [] then k else { k with upsets := k.upsets.filter fun u => u.mem ≠ m || n ≤ 8 * u.word }

/-- The shadow copy of a register set becomes the active one, with its words' errors. -/
def switched (m : Bool → CoreMem) (k : Core) : Core :=
  if k.upsets = [] then k
  else { k with upsets := (k.upsets.filter fun u => u.mem ≠ m false).map fun u =>
           if u.mem = m true then { u with mem := m false } else u }

end Sys2Proof.Machine
end

