-- ==== Sys2Proof/Machine/Array.lean ====
section
/-! DEFINITION. The array and the rank lane (spec/03 R60 to R73): weight loads, chains of MMA ops, rank chains. The
result of an op is formed at its start; its rows become final as R63 and R68 say. -/

namespace Sys2Proof.Machine

open Host (Outcome)

/-! ### Weights (spec/03 R66, spec/04 R94 to R109) -/

/-- The stored code of element `i` of a block of a weight format, as a value (spec/04 R103). -/
def codeVal (wfmt : Nat) (codes : List Byte) (start i : Nat) : Val :=
  match wfmt with
  | 0 => ofFp4 (bits (codes.getD (start + i / 2) 0).toNat (4 * (i % 2)) 4)
  | 1 => ofInt4 (bits (codes.getD (start + i / 2) 0).toNat (4 * (i % 2)) 4)
  | 2 => ofInt (ternaryDigit (codes.getD (start + i / 5) 0) (i % 5))
  | 3 => ofE4m3 (codes.getD (start + i) 0)
  | _ => ofBf16 (BitVec.ofNat 16 (leNat [codes.getD (start + 2 * i) 0, codes.getD (start + 2 * i + 1) 0]))

/-- The stored block at array block-row `kb` and block-column `nb`: block 12 b + a of a transposed tile goes to block-row a
and block-column b (spec/08 R240). -/
def blockAt (t : WeightTile) (kb nb : Nat) : Nat := if t.t then 12 * nb + kb else kb * blockCols t.wfmt.toNat + nb

/-- The array block-row and block-column of stored block `j` of a 4-bit tile. -/
def placeOfBlock (t : WeightTile) (j : Nat) : Nat × Nat := if t.t then (j % 12, j / 12) else (j / 16, j % 16)

/-- The weight code at array position (k, n); a transposed tile exchanges the axes of each block. -/
def weightAt (t : WeightTile) (k n : Nat) : Val :=
  let f := t.wfmt.toNat
  codeVal f t.codes (blockAt t (k / 16) (n / 16) * blockSize f)
    (if t.t then 16 * (n % 16) + k % 16 else 16 * (k % 16) + n % 16)

/-- The scale of the block at block-row `kb` and block-column `nb`. -/
def blockScale (t : WeightTile) (kb nb : Nat) : Val :=
  let b := t.side.getD (blockAt t kb nb) 0
  if t.scl then ofUe8m0 b else ofE4m3 b

/-- The outliers of block `j`: entry numbers in the list of entries. -/
def entriesBefore (side : List Byte) (j : Nat) : Nat := (List.range j).foldl (fun n i => n + outliersIn side i) 0

/-- The outliers of a tile that act: array position and value (spec/04 R107, R108; spec/03 R66). -/
def outliersOf (t : WeightTile) : List (Nat × Nat × Val) :=
  if !isFourBit t.wfmt.toNat then []
  else (List.range 192).flatMap fun j =>
    (List.range (outliersIn t.side j)).filterMap fun i =>
      let e := leNat ((t.side.drop (240 + 3 * (entriesBefore t.side j + i))).take 3)
      let v : BitVec 16 := BitVec.ofNat 16 (bits e 0 16)
      let kp := bits e 20 4
      let np := bits e 16 4
      let p := placeOfBlock t j
      if v.toNat % 2 ^ 15 = 0 then none
      else some (16 * p.1 + (if t.t then np else kp), 16 * p.2 + (if t.t then kp else np), ofBf16 v)

/-! ### Column sums (spec/03 R64, R73) -/

/-- One array block's step of a column's running sum: block sum, weight scale, activation scale, add. The flag reports
an overflow. -/
def blockStep (prods : List Val) (sigma scale : Val) (run : BitVec 32 × Bool) : BitVec 32 × Bool :=
  if sigma.isZero then run
  else
    let v := if scale.isNan then .nan else exactSum prods
    let b := fp32 v
    let p := fp32 ((ofFp32 b).mul sigma)
    let u := (ofFp32 run.1).add ((ofFp32 p).mul scale)
    let r := fp32 u
    (r, run.2 || overflowed v b || overflowed ((ofFp32 b).mul sigma) p || overflowed u r)

/-- The running sum of a column over the 12 blocks: `x k` and `w k` the elements, `sigma` and `scale` by block. R64's steps
round more often than the bound of Table NU-9 for a chain allows for; R64 is followed (DESIGN CHOICE, log entry 61). -/
def colSum (x w : Nat → Val) (sigma scale : Nat → Val) : BitVec 32 × Bool :=
  (List.range 12).foldl (fun run kb =>
    blockStep ((List.range 16).map fun i => (x (16 * kb + i)).mul (w (16 * kb + i))) (sigma kb) (scale kb) run) (0, false)

/-- The accumulator's step E0: the exact sum of three terms, rounded once. -/
def accStep (r : Rm) (acc col corr : BitVec 32) : BitVec 32 × Bool :=
  let v := ((ofFp32 acc).add (ofFp32 col)).add (ofFp32 corr)
  let x := toFp32 r v
  (x, overflowed v x)

/-- Numeric event classes of a row of results: NaN and overflow. -/
def resultEvents (xs : List (BitVec 32 × Bool)) : List Nat :=
  (if xs.any fun x => isNan32 x.1 then [1] else []) ++ (if xs.any fun x => x.2 then [2] else [])

/-! ### Activation rows (spec/03 R65, spec/04 R110) -/

/-- The offset of chain row `i` of an MMA.RUN or RANK.RUN, and of its scales. -/
def xRow (w : BitVec 128) (i : Nat) : Nat := 64 * oF w 32 16 + 64 * oF w 70 12 * i
def xScaleRow (w : BitVec 128) (i : Nat) : Nat := oF w 48 22 + 2 * oF w 70 12 * i

/-- The bytes of the activation row, and its six scale bytes (none for BF16). -/
def xBytes (s : State) (g : Nat) (w : BitVec 128) (i : Nat) : List Byte :=
  tileRead s g (xRow w i) (if oB w 100 then 384 else 192)
def xScales (s : State) (g : Nat) (w : BitVec 128) (i : Nat) : List Byte :=
  if oB w 100 then [] else tileRead s g (xScaleRow w i) 6

/-- A NaN block scale meets elements of the rows of an op (spec/04 R100, Table NU-7 NAN). -/
def nanScales (s : State) (g : Nat) (w : BitVec 128) : List Nat :=
  if (List.range (oF w 82 10)).any fun i => (xScales s g w i).contains 0xFF then [1] else []

/-- Element `k` of an activation row without its block scale. -/
def xVal (bf16 : Bool) (bs : List Byte) (k : Nat) : Val :=
  if bf16 then ofBf16 (BitVec.ofNat 16 (leNat [bs.getD (2 * k) 0, bs.getD (2 * k + 1) 0])) else ofE4m3 (bs.getD k 0)

/-- The activation scale of array block `kb`. -/
def xScale (sc : List Byte) (kb : Nat) : Val := if sc.isEmpty then .fin false 1 0 else ofUe8m0 (sc.getD (kb / 2) 0)

/-- The tile memory ranges that the rows of an op occupy. -/
def xRanges (w : BitVec 128) (row rows : Nat) : List MemRange :=
  tileRanges ((List.range rows).flatMap fun i =>
    (xRow w (row + i), if oB w 100 then 384 else 192) :: (if oB w 100 then [] else [(xScaleRow w (row + i), 6)]))

/-! ### MMA.LOAD (spec/03 R62, spec/04 R104, R105) -/

/-- A block scale byte that a weight load refuses. -/
def badScale (scl : Bool) (b : Byte) : Bool := if scl then b = 0xFF else bit b 7 || b = 0x7F

/-- The effect of MMA.LOAD at its start. -/
def mmaLoad (g : Nat) (q : QOp) (s : State) : State :=
  let w := q.word
  let f := oF w 64 3
  let side := sideData s g (64 * oF w 48 16) f
  withReads g q [(64 * oF w 32 16, tileSize f), (64 * oF w 48 16, side.length)] s fun s =>
    if (side.take (12 * blockCols f)).any (badScale (oB w 67)) then startFault g q 2 s
    else
      let codes := tileRead s g (64 * oF w 32 16) (tileSize f)
      let t : WeightTile := { wfmt := BitVec.ofNat 3 f, scl := oB w 67, t := oB w 68, codes := codes, side := side }
      let dur := loadCycles f side
      let s := updCore g (fun k => rewritten (.weights true) 0x10000 { k with shadow := some t, loadEnd := s.clock + dur }) s
      let s := runFor g q dur 0 s
      opEvents g 0 q.index (if f = 2 && codes.any fun b => 242 < b.toNat then [3] else []) s

/-- MMA_LOAD (spec/03 R62). -/
def execMmaLoad (core : BitVec 7) (stream : Bool) (s : State) : Outcome State Fault Refusal :=
  onOp core stream 0x10 s (mmaLoad core.toNat)

/-! ### MMA.RUN (spec/03 R61, R63 to R69, R73) -/

/-- The activations and the tile form a mode of Table MC-2. -/
def modeOk (wfmt : Nat) (bf16 : Bool) : Bool := isFourBit wfmt || (wfmt = 3 && !bf16) || (wfmt = 4 && bf16)

/-- A chain op agrees with its bank: FIRST opens a chain; another op continues an open chain of the same rows. -/
def chainOk (b : Bank) (first : Bool) (rows : Nat) : Bool :=
  first || (match b.chain with
    | none => false
    | some c => !c.last && c.rows = rows)

/-- Replace a bank. -/
def setAcc (b : Bool) (v : Bank) (k : Core) : Core := if b then { k with acc1 := v } else { k with acc0 := v }
def setRank (b : Bool) (v : Bank) (k : Core) : Core := if b then { k with rank1 := v } else { k with rank0 := v }

/-- One accumulator row after a K tile. `cycle` is the offset in the steep at which the bottom adder takes the row. -/
def mmaRow (s : State) (g : Nat) (w : BitVec 128) (t : WeightTile) (outs : List (Nat × Nat × Val))
    (old : List (BitVec 32)) (cycle i : Nat) : List (BitVec 32 × Bool) :=
  let bf := oB w 100
  let bs := xBytes s g w i
  let sc := xScales s g w i
  let sr := oB w 105 || 16 ≤ oF w 92 8
  (List.range (16 * blockCols t.wfmt.toNat)).map fun n =>
    let c := colSum (xVal bf bs) (fun k => weightAt t k n) (fun kb => blockScale t kb (n / 16)) (xScale sc)
    let corr := flagged .rne (exactSum ((outs.filter fun o => o.2.1 = n).map fun o =>
      ((xVal bf bs o.1).mul (xScale sc (o.1 / 16))).mul o.2.2))
    let a := accStep (coreRounding s g sr (genUnit g 0) n cycle) (if oB w 102 then 0 else old.getD n 0) c.1 corr.1
    (a.1, a.2 || c.2 || corr.2)

/-- The effect of MMA.RUN at its start. -/
def mmaRun (g : Nat) (q : QOp) (s : State) : State :=
  let w := q.word
  let k := coreOf s g
  let bank := accOf k (oB w 101)
  match runTile k w with
  | none => s
  | some t =>
    let rows := oF w 82 10
    let held := if oB w 102 then [] else [(CoreMem.acc (oB w 101), 0, 1024 * rows)]
    if !modeOk t.wfmt.toNat (oB w 100) || !chainOk bank (oB w 102) rows then startFault g q 2 s
    else withReadsOf g q ((.weights (oB w 104), 0, 0x10000) :: (held ++ xRanges w 0 rows)) s fun s =>
      let rc := pace s * rowCycles (some t) (oB w 100)
      let outs := outliersOf t
      let off := coreOffset s g
      let res := (List.range rows).map fun i =>
        mmaRow s g w t outs (bank.vals.getD i []) (off + rc * (i + 1) + 199) i
      let chain : Chain := {
        rows := rows, cols := 16 * blockCols t.wfmt.toNat, kt := oF w 92 8, last := oB w 103,
        finals := (List.range rows).map fun i => s.clock + rc * (i + 1) + 199 }
      let s := updCore g (fun k =>
        let k := if oB w 104 then switched CoreMem.weights
            { k with active := k.shadow, shadow := none, shadowFree := s.clock + rc - 1 } else k
        setAcc (oB w 101) { chain := some chain, vals := res.map fun r => r.map fun x => x.1 }
          (rewritten (.acc (oB w 101)) (1024 * rows) { k with arrayFree := s.clock + rc * rows })) s
      let s := count g 0x040 (rowCycles (some t) (oB w 100) * rows) (count g 0x041 (rows * rowCapacity t (oB w 100))
        (count g 0x042 (rows * (rowEntries t - 1)) s))
      opEvents g 0 q.index (nanScales s g w ++ resultEvents res.flatten) (runFor g q (rc * rows) 0 s)

/-! ### RANK.RUN (spec/03 R70, R71; spec/05 R155) -/

/-- Element `k` of an activation row as the rank lane takes it: BF16, block scale included. -/
def rankX (bf16 : Bool) (bs sc : List Byte) (k : Nat) : Val :=
  if bf16 then xVal true bs k else ofBf16 (toBf16 ((xVal false bs k).mul (xScale sc (k / 16))))

/-- An A register set filled from a slice: 192 × 64, the columns beyond the slice's width zero (spec/03 R71). -/
def aSetOf (a : Option (List (BitVec 16))) : List (BitVec 16) :=
  let av := a.getD []
  let width := av.length / 192
  (List.range 192).flatMap fun k => (List.range 64).map fun n => if n < width then av.getD (k * width + n) 0 else 0

/-- One rank accumulator row after a K tile, under an A register set. -/
def rankRow (s : State) (g : Nat) (w : BitVec 128) (a : List (BitVec 16)) (old : List (BitVec 32))
    (cycle i : Nat) : List (BitVec 32 × Bool) :=
  let bf := oB w 100
  let bs := xBytes s g w i
  let sc := xScales s g w i
  let sr := oB w 104 || 16 ≤ oF w 92 8
  (List.range 64).map fun n =>
    let c := colSum (rankX bf bs sc) (fun k => ofBf16 (a.getD (64 * k + n) 0)) (fun _ => .fin false 1 0)
      (fun _ => .fin false 1 0)
    let r := accStep (coreRounding s g sr (genUnit g 1) n cycle) (if oB w 102 then 0 else old.getD n 0) c.1 0
    (r.1, r.2 || c.2)

/-- Put rows into a bank's rows from row `i` on. -/
def setRows (i : Nat) (rows : List (List (BitVec 32))) (vals : List (List (BitVec 32))) : List (List (BitVec 32)) :=
  vals.take i ++ rows ++ vals.drop (i + rows.length)

/-- The A of a piece loads into the shadow set in 96 cycles, ending at a clock (spec/03 R71). -/
def loadA (g : Nat) (q : QOp) (p : Piece) (xs : List RingSlice) (c : Nat) (s : State) : State :=
  updCore g (fun k => rewritten (.aSet true) 0x6000 { k with aShadow := aSetOf (sliceOf xs false) })
    (loadEnds g q p c s)

/-- The rank lane switches to the shadow set at a clock, which empties it (spec/03 R71). -/
def switchA (g c : Nat) (s : State) : State :=
  updCore g (fun k => switched CoreMem.aSet { k with aActive := k.aShadow, aShadow := [], rankSwitch := c }) s

/-- The rows of a piece enter from a clock on, under the active A set: their results, and the clocks at which they are
final. -/
def rankRows (g : Nat) (r : RankRun) (p : Piece) (entry : Nat) (s : State) : State :=
  let w := r.op.word
  let held := if oB w 102 then [] else [(CoreMem.rank (oB w 101), 256 * p.row, 256 * p.rows)]
  withReadsOf g r.op ((.aSet false, 0, 0x6000) :: (held ++ xRanges w p.row p.rows)) s fun s =>
    let bank := rankOf (coreOf s g) (oB w 101)
    let off := coreOffset s g + (entry - s.clock)
    let res := (List.range p.rows).map fun i =>
      rankRow s g w (coreOf s g).aActive (bank.vals.getD (p.row + i) []) (off + pace s * i + 200) (p.row + i)
    let finals := (List.range p.rows).map fun i => entry + pace s * i + 200
    let classes := (nanScales s g w ++ resultEvents res.flatten).filter fun c => !r.raised.contains c
    let bank := { bank with
      chain := bank.chain.map (fun c => { c with finals := c.finals ++ finals }),
      vals := setRows p.row (res.map fun r => r.map fun x => x.1) bank.vals }
    let s := updCore g (fun k => setRank (oB w 101) bank
      { k with rankRun := some { r with raised := r.raised ++ classes } }) s
    opEvents g 1 r.op.index classes (count g 0x046 p.rows s)

/-- The last row of a RANK.RUN is scheduled: the op holds the rank lane until a clock and completes there. -/
def rankEnd (g : Nat) (q : QOp) (c : Nat) (s : State) : State :=
  let ends (x : RunOp) : RunOp :=
    if x.word = q.word && x.index = q.index && x.awaiting ≠ 0 then { x with endAt := c, awaiting := 0 } else x
  updCore g (fun k => { k with rankRun := none, rankFree := c, running := k.running.map ends }) s

/-- One piece of a RANK.RUN whose slice is in the ring: its A loads, the lane switches to it, and its rows enter (spec/03
R71; spec/06 R188). A piece takes at least 96 cycles. -/
def rankStep (g : Nat) (r : RankRun) (p : Piece) (ps : List Piece) (xs : List RingSlice) (s : State) : State :=
  let load := max r.loadFrom (arrival xs)
  let entry := max r.rowFrom (load + 96)
  let n := pace s * p.rows
  let s := switchA g entry (loadA g r.op p xs (load + 96) s)
  let s := count g 0x047 (max n 96 - n) (count g 0x048 (entry - max r.rowFrom (r.loadFrom + 96)) s)
  let s := rankRows g { r with left := ps, loadFrom := entry, rowFrom := entry + n } p entry s
  if ps.isEmpty && (coreOf s g).rankRun.isSome then rankEnd g r.op (entry + max n 96) s else s

/-- The RANK.RUN under way goes on, piece by piece, as far as the infuser has filled the ring. -/
def advanceRank (g : Nat) : Nat → State → State
  | 0, s => s
  | n + 1, s =>
    match (coreOf s g).rankRun with
    | none => s
    | some r => match r.left with
      | [] => s
      | p :: ps => match pieceSlices s g r.op p with
        | none => s
        | some xs => advanceRank g n (rankStep g r p ps xs s)

/-- The effect of RANK.RUN at its start: with FIRST the first A loads now, else it has been loading since the lane's last
switch (spec/03 R71, DEDUCED, log entry 28). -/
def rankRun (g : Nat) (q : QOp) (s : State) : State :=
  let w := q.word
  let bank := rankOf (coreOf s g) (oB w 101)
  let rows := oF w 82 10
  if !chainOk bank (oB w 102) rows then startFault g q 2 s
  else
    let ps := rankPieces s g w
    let chain : Chain := { rows := rows, cols := 64, kt := oF w 92 8, last := oB w 103, finals := [] }
    let s := updCore g (fun k => setRank (oB w 101)
      { chain := some chain, vals := if oB w 102 then [] else bank.vals }
      { k with rankRun := some { op := q, left := ps, loadFrom := if oB w 102 then s.clock else k.rankSwitch,
                                 rowFrom := s.clock, raised := [] } }) s
    advanceRank g ps.length (runFor g q 0 1 s)

end Sys2Proof.Machine
end

