-- ==== Sys2Proof/Machine/Special.lean ====
section
/-! DEFINITION. The functions that the spec gives by name with a largest error and no bits (spec/03 Tables MC-5 and MC-6,
spec/04 R133): each one evaluated far beyond FP32, and the value that the module gives, which is free within the
error that the table allows (log entry 5). -/

namespace Sys2Proof.Machine

/-! ### Fixed-point numbers: integers in units of 2^(−128) -/

/-- 1.0. -/
def fxOne : Int := 2 ^ 128

/-- The product and the quotient of two fixed-point numbers. -/
def fxMul (a b : Int) : Int := a * b / fxOne
def fxDiv (a b : Int) : Int := if b = 0 then 0 else a * fxOne / b

/-- A finite value in fixed point, its bits below 2^(−128) dropped. -/
def toFx : Val → Int
  | .fin s m e =>
    let n : Nat := if -128 ≤ e then m * 2 ^ (e + 128).toNat else m / 2 ^ (-(e + 128)).toNat
    if s then -(n : Int) else n
  | _ => 0

/-- A fixed-point number as a value. -/
def ofFx (x : Int) : Val := .fin (x < 0) x.natAbs (-128)

/-- log2 of e, 2 / √π, 1 / √(2π) and 1 / √2. -/
def fxLog2e : Int := 490923683258796565746369346286093237522
def fxTwoRootPi : Int := 383967533763538142977158567454335403656
def fxPhi0 : Int := 135753023439836232162591007175785461952
def fxHalfRoot : Int := 240615969168004511545033772477625056927

/-- 2 to the fraction whose bits, from 1/2 downwards, are the low `n` bits of `f`: the product of the roots of 2 that
they name. `root` is the root of 2 of the highest bit. -/
def rootProduct : Nat → Nat → Nat → Nat → Nat
  | 0, _, _, acc => acc
  | n + 1, f, root, acc =>
    rootProduct n f (Nat.sqrt (root * 2 ^ 128)) (if f.testBit n then acc * root / 2 ^ 128 else acc)

/-- 2^x of a fixed-point number. -/
def exp2Val (x : Int) : Val :=
  let f := ((x % fxOne) / 2 ^ 64).toNat
  .fin false (rootProduct 64 f (Nat.sqrt (2 ^ 257)) (2 ^ 128)) (x / fxOne - 128)

/-- e^(−x) of a fixed-point number x ≥ 0, 0 beyond 128. -/
def expNeg (x : Int) : Int := if 128 * fxOne < x then 0 else toFx (exp2Val (-(fxMul x fxLog2e)))

/-- The first `n` bits of log2 of a number from 1 to 2 in units of 2^(−128): square, and halve what passes 2. -/
def log2Bits : Nat → Nat → Nat → Nat
  | 0, _, acc => acc
  | n + 1, y, acc =>
    let z := y * y / 2 ^ 128
    if 2 ^ 129 ≤ z then log2Bits n (z / 2) (2 * acc + 1) else log2Bits n z (2 * acc)

/-- log2 of m × 2^e, to 2^(−56). -/
def log2Val (m : Nat) (e : Int) : Val :=
  let b := sigBits m
  let y := if 129 ≤ b then m / 2 ^ (b - 129) else m * 2 ^ (129 - b)
  let v : Int := (e + (b : Int) - 1) * 2 ^ 56 + (log2Bits 56 y 0 : Int)
  .fin (v < 0) v.natAbs (-56)

/-- The square root of m × 2^e, with a sticky bit. -/
def sqrtVal (m : Nat) (e : Int) : Val :=
  let odd : Nat := if e % 2 = 0 then 0 else 1
  let n := m * 2 ^ (256 + odd)
  let r := Nat.sqrt n
  .fin false (2 * r + (if r * r = n then 0 else 1)) ((e - odd - 256) / 2 - 1)

/-- The sum of the terms of the series of erf from the `i`-th on: `t` is x^(2i+1) / i! with its sign. -/
def erfSeries : Nat → Nat → Int → Int → Int → Int
  | 0, _, _, _, acc => acc
  | n + 1, i, sq, t, acc =>
    erfSeries n (i + 1) sq (-(fxMul t sq) / (i + 1 : Nat)) (acc + t / (2 * i + 1 : Nat))

/-- erf of a fixed-point number; ±1 beyond 7. -/
def fxErf (x : Int) : Int :=
  if 7 * fxOne < x then fxOne else if x < -7 * fxOne then -fxOne
  else fxMul fxTwoRootPi (erfSeries 200 0 (fxMul x x) x 0)

/-- The logistic function, and tanh. -/
def fxSigmoid (x : Int) : Int :=
  let y := fxDiv fxOne (fxOne + expNeg (if x < 0 then -x else x))
  if x < 0 then fxOne - y else y
def fxTanh (x : Int) : Int := 2 * fxSigmoid (2 * x) - fxOne

/-- The constants of the tanh form of GELU, as Table MC-5 writes them. -/
def fxGeluC : Int := 79788456 * fxOne / 100000000
def fxGeluK : Int := 44715 * fxOne / 1000000

/-- The functions of Table MC-5 at a fixed-point number. -/
def fxAct (code : Nat) (y : Int) : Int :=
  match code with
  | 2 => fxMul y (fxOne + fxTanh (fxMul fxGeluC (y + fxMul fxGeluK (fxMul y (fxMul y y))))) / 2
  | 3 => fxMul y (fxOne + fxErf (fxMul y fxHalfRoot)) / 2
  | 4 => fxMul y (fxSigmoid y)
  | 5 => fxSigmoid y
  | _ => fxTanh y

/-- Their derivatives. -/
def fxDeriv (code : Nat) (y : Int) : Int :=
  let s := fxSigmoid y
  match code with
  | 2 =>
    let t := fxTanh (fxMul fxGeluC (y + fxMul fxGeluK (fxMul y (fxMul y y))))
    (fxOne + t) / 2 +
      fxMul (fxMul y (fxOne - fxMul t t)) (fxMul fxGeluC (fxOne + 3 * fxMul fxGeluK (fxMul y y))) / 2
  | 3 => (fxOne + fxErf (fxMul y fxHalfRoot)) / 2 + fxMul y (fxMul fxPhi0 (expNeg (fxMul y y / 2)))
  | 4 => fxMul s (fxOne + fxMul y (fxOne - s))
  | 5 => fxMul s (fxOne - s)
  | _ => let t := fxTanh y; fxOne - fxMul t t

/-! ### The error that a table allows -/

/-- The unit in the last place of FP32 at a finite value, as a power of two. -/
def ulpExp (m : Nat) (e : Int) : Int := max (-149) (e + sigBits m - 24)

/-- An FP32 result lies within `tol` of the exact value f; an infinite one only where f may reach beyond the format. -/
def nearVal (tol f : Val) (r : BitVec 32) : Bool :=
  match ofFp32 r, f with
  | .nan, _ => false
  | .inf s, .fin t _ _ => s == t && (Val.fin false (2 ^ 24 - 1) 104).lt (f.abs.add tol)
  | .fin _ _ _, _ => !tol.lt ((ofFp32 r).add f.neg).abs
  | _, _ => false

/-- `k` units in the last place at f. -/
def ulps (k : Nat) : Val → Val
  | .fin _ m e => .fin false k (ulpExp m e)
  | _ => .zero

/-- The error that Table MC-5 allows at f: `k` ulp, or 2^(−26) where |f| is below 2^(−10). -/
def actTol (k : Nat) (f : Val) : Val := if f.abs.lt (.fin false 1 (-10)) then .fin false 1 (-26) else ulps k f

/-- The module's value of a function whose exact value is f: the free one where it is within the error allowed, else f
rounded. -/
def bounded (tol f : Val) (free : BitVec 32) : BitVec 32 := if nearVal tol f free then free else fp32 f

/-- The error in ulp of a code of Table MC-5. -/
def actUlps (code : Nat) : Nat := if 5 ≤ code then 2 else 4

/-- f of Table MC-5, codes 2 to 6, at a value that is no NaN; free at an infinity (log entry 5). -/
def smoothAct (code : Nat) (y : BitVec 32) : BitVec 32 :=
  match ofFp32 y with
  | .fin _ _ _ =>
    let f := ofFx (fxAct code (toFx (ofFp32 y)))
    bounded (actTol (actUlps code) f) f (Config.activation code y)
  | _ => Config.activation code y

/-- f′ of Table MC-5, codes 2 to 6, likewise. -/
def smoothDeriv (code : Nat) (y : BitVec 32) : BitVec 32 :=
  match ofFp32 y with
  | .fin _ _ _ =>
    let f := ofFx (fxDeriv code (toFx (ofFp32 y)))
    bounded (actTol (actUlps code) f) f (Config.activationDeriv code y)
  | _ => Config.activationDeriv code y

/-- The functions of FUNC 11 to 15 of Table SP-18 at a finite operand within their domain: exact at the operands from
which the attention sequences need it, exp2(0), log2(1) and 1/1 (spec/07 R233), else within Table MC-6. -/
def smoothVec (func : Nat) (a : BitVec 32) (m : Nat) (e : Int) : BitVec 32 :=
  let v := ofFp32 a
  let free := Config.vectorFn func a
  match func with
  | 11 =>
    if m = 0 then 0x3F800000
    else if (Val.fin false 1 8).lt v.abs then (if v.lt .zero then 0 else 0x7F800000)
    else let f := exp2Val (toFx v); bounded (ulps 2 f) f free
  | 12 =>
    if v.same (.fin false 1 0) then 0
    else
      let f := log2Val m e
      let near := !v.lt (.fin false 1 (-1)) && !(Val.fin false 1 1).lt v
      bounded (if near then .fin false 1 (-22) else ulps 2 f) f free
  | 13 => if v.same (.fin false 1 0) then 0x3F800000 else let f := divVal (.fin false 1 0) v; bounded (ulps 1 f) f free
  | 14 =>
    let f := match divVal (.fin false 1 0) v with
      | .fin _ n d => sqrtVal n d
      | x => x
    bounded (ulps 1 f) f free
  | _ => let f := sqrtVal m e; bounded (ulps 1 f) f free

end Sys2Proof.Machine
end

