-- ==== Sys2Proof/Machine/Epilogue.lean ====
section
/-! DEFINITION. The epilogue (spec/03 R72 to R84, spec/05 R156): EPI slots, and pours with their single recompute. A
POUR starts with POUR, reads its rows as they become final, recomputes with POUR_RECOMPUTE where a block or row saturated,
and ends with POUR_COMPLETE, which writes what it has formed. -/

namespace Sys2Proof.Machine

open Host (Outcome)

/-! ### EPI slots (spec/05 R156, Tables SP-13 to SP-15) -/

/-- EPI slot `n` of a core. -/
def epiOf (k : Core) (n : Nat) : EpiSlot := sget {} n k.epi

/-- Replace an EPI slot. -/
def setEpi (n : Nat) (e : EpiSlot) (k : Core) : Core := { k with epi := sput {} n e k.epi }

/-- The effect of EPI.SET0: the slot becomes valid, ALPHA and S 1.0, every address of EPI.SET2 0. -/
def epiSet0 (g : Nat) (q : QOp) (s : State) : State :=
  let w := q.word
  let e : EpiSlot := {
    valid := true, st := BitVec.ofNat 32 (oF w 35 32), s := 0x3F800000, alpha := 0x3F800000,
    eout := BitVec.ofNat 8 (oF w 67 8), act := BitVec.ofNat 3 (oF w 75 3), deriv := oB w 78,
    ofmt := BitVec.ofNat 2 (oF w 79 2), exp := oB w 81, scl := oB w 82, bias := oB w 83, vsrc := oB w 84,
    staddr := BitVec.ofNat 20 (oF w 85 20) }
  runFor g q 1 0 (updCore g (setEpi (epiIndex s g q.stream (oF w 32 3)) e) s)

/-- EPI_SET0 (spec/05 Table SP-13). -/
def execEpiSet0 (core : BitVec 7) (stream : Bool) (s : State) : Outcome State Fault Refusal :=
  onOp core stream 0x30 s (epiSet0 core.toNat)

/-- The effect of an EPI op on a slot that must be valid. -/
def epiChange (g : Nat) (q : QOp) (f : EpiSlot → EpiSlot) (s : State) : State :=
  let n := epiIndex s g q.stream (oF q.word 32 3)
  let e := epiOf (coreOf s g) n
  if e.valid then runFor g q 1 0 (updCore g (setEpi n (f e)) s) else startFault g q 2 s

/-- EPI_SET1 (spec/05 Table SP-14). -/
def execEpiSet1 (core : BitVec 7) (stream : Bool) (s : State) : Outcome State Fault Refusal :=
  onOp core stream 0x31 s fun q => epiChange core.toNat q fun e => { e with
    alpha := BitVec.ofNat 32 (oF q.word 35 32), s := BitVec.ofNat 32 (oF q.word 67 32) }

/-- EPI_SET2 (spec/05 Table SP-15). -/
def execEpiSet2 (core : BitVec 7) (stream : Bool) (s : State) : Outcome State Fault Refusal :=
  onOp core stream 0x32 s fun q => epiChange core.toNat q fun e => { e with
    baddr := BitVec.ofNat 16 (oF q.word 35 16), vaddr := BitVec.ofNat 16 (oF q.word 51 16),
    zaddr := BitVec.ofNat 16 (oF q.word 67 16), zstride := BitVec.ofNat 12 (oF q.word 83 12), zfmt := oB q.word 95 }

/-! ### One output row (spec/03 R74 to R76) -/

/-- f of Table MC-5. -/
def actFn (code : Nat) (y : BitVec 32) : BitVec 32 :=
  match code with
  | 0 => y
  | 1 => if isNan32 y then 0x7FC00000 else if Val.zero.lt (ofFp32 y) then y else 0
  | _ => if isNan32 y then 0x7FC00000 else smoothAct code y

/-- f′ of Table MC-5. -/
def actDeriv (code : Nat) (z : BitVec 32) : BitVec 32 :=
  match code with
  | 0 => 0x3F800000
  | 1 => if isNan32 z then 0x7FC00000 else if Val.zero.lt (ofFp32 z) then 0x3F800000 else 0
  | _ => if isNan32 z then 0x7FC00000 else smoothDeriv code z

/-- A function's value, with whether a finite operand gave an infinity. -/
def flagFn (f : BitVec 32 → BitVec 32) (y : BitVec 32) : Flagged :=
  let x := f y
  (x, overflowed (ofFp32 y) x)

/-- A B bank filled from a slice: 64 × 256, the rows beyond the slice's zero (spec/03 R75, spec/06 R187). -/
def bSetOf (b : Option (List (BitVec 16))) : List (BitVec 16) :=
  let bv := b.getD []
  bv.take 16384 ++ List.replicate (16384 - bv.length) 0

/-- The rank row of a pour's row rounded to BF16, each element with whether it clamped (stage E3, spec/04 R112). -/
def rankBf16 (rank : List (BitVec 32)) : List (BitVec 16 × Bool) :=
  (List.range 64).map fun i => clampBf16 (ofFp32 (rank.getD i 0))

/-- The rank expand term of column `n`: α × (bf16(rank row) · B), 64 deep (stages E3 to E7). -/
def expandTerm (alpha : BitVec 32) (rank : List (BitVec 16 × Bool)) (b : List (BitVec 16)) (n : Nat) : Flagged :=
  flag2 Val.mul .rne (alpha, false) (flagged .rne (exactSum ((List.range 64).map fun i =>
    (ofBf16 (rank.getD i (0, false)).1).mul (ofBf16 (b.getD (256 * i + n) 0)))))

/-- The logical columns of the bank that a pour drains. -/
def pourCols (s : State) (g : Nat) (p : Pour) : Nat :=
  match (accOf (coreOf s g) (oB p.op.word 35)).chain with
  | none => 0
  | some c => c.cols

/-- Column `n` of v: from tile memory, or from the segment's scale adapter, 1.0 where it has none. -/
def vCol (s : State) (g : Nat) (e : EpiSlot) (sc : Option (List (BitVec 16))) (n : Nat) : BitVec 32 :=
  if e.vsrc then
    (match sc with
      | none => 0x3F800000
      | some l => fp32 (ofBf16 (l.getD n 0)))
  else tile32 s g (64 * e.vaddr.toNat + 4 * n)

/-- Column `n` of the saved pre-activation row `i`. -/
def zCol (s : State) (g : Nat) (e : EpiSlot) (i n : Nat) : BitVec 32 :=
  let o := 64 * e.zaddr.toNat + 64 * e.zstride.toNat * i
  if e.zfmt then tile32 s g (o + 4 * n) else fp32 (ofBf16 (tile16 s g (o + 2 * n)))

/-- One row of a pour as stage E13 leaves it, each element with its overflow flag: stages E1 to E13, or E1, E3 to E7 and E8
for a KEEP pour (spec/03 R72, R74). `b` is the B bank in use and `sc` the segment's scale slice. -/
def pourRow (s : State) (g : Nat) (p : Pour) (b : List (BitVec 16)) (sc : Option (List (BitVec 16))) (i : Nat) :
    List Flagged :=
  let k := coreOf s g
  let e := p.slot
  let w := p.op.word
  let acc := (accOf k (oB w 35)).vals.getD i []
  let rank := rankBf16 ((rankOf k (oB w 36)).vals.getD i [])
  let mul (x : Flagged) (y : BitVec 32) : Flagged := flag2 Val.mul .rne x (y, false)
  let add (x y : Flagged) : Flagged := flag2 Val.add .rne x y
  (List.range (pourCols s g p)).map fun n =>
    let expand (y : Flagged) : Flagged := if e.exp then add y (expandTerm e.alpha rank b n) else y
    if oB w 37 then expand (acc.getD n 0, false)
    else
      let y := expand (mul (acc.getD n 0, false) e.st)
      let y := if e.scl then mul (mul y e.s) (vCol s g e sc n) else y
      let y := if e.bias then add y (tile32 s g (64 * e.baddr.toNat + 4 * n), false) else y
      if e.deriv then flag2 Val.mul .rne y (flagFn (actDeriv e.act.toNat) (zCol s g e i n))
      else
        let x := flagFn (actFn e.act.toNat) y.1
        (x.1, y.2 || x.2)

/-! ### Narrowing (spec/03 R77, R78, R80) -/

/-- One FP8 block at an output exponent: the codes, the scale byte and whether it saturated. -/
def narrowFp8 (eout : Int) (ys : List (BitVec 32)) : List Byte × Byte × Bool :=
  let vs := ys.map ofFp32
  let fits (j : Nat) : Bool := vs.all fun v => v.isNan || !(roundE4m3 (v.shift (eout - j))).above 448
  let j := ((List.range 8).find? fits).getD 7
  (vs.map fun v => (toE4m3 (v.shift (eout - j))).1, BitVec.ofInt 8 ((j : Int) - eout + 127), !fits j)

/-- One BF16 element at an output exponent, clamped, and whether it saturated. -/
def narrowBf16 (eout : Int) (y : BitVec 32) : BitVec 16 × Bool :=
  let x := toBf16 ((ofFp32 y).shift eout)
  if x.toNat % 2 ^ 15 = 0x7F80 then (x - 1, true) else (x, false)

/-- The saturated blocks (FP8) of a row, or 1 for a saturated row (BF16). -/
def saturation (p : Pour) (eout : Int) (ys : List (BitVec 32)) : Nat :=
  match p.slot.ofmt.toNat with
  | 0 => (chunk 32 9 ys).countP fun b => (narrowFp8 eout b).2.2
  | 1 => if ys.any fun y => (narrowBf16 eout y).2 then 1 else 0
  | _ => 0

/-- Write one output row (stages E14 to E16). -/
def writeRow (g : Nat) (p : Pour) (eout : Int) (i : Nat) (ys : List (BitVec 32)) (s : State) : State :=
  let w := p.op.word
  let o := 64 * oF w 48 16 + 64 * oF w 64 12 * i
  match p.slot.ofmt.toNat with
  | 0 =>
    let bs := (chunk 32 9 ys).map (narrowFp8 eout)
    tileWrite g (oF w 76 22 + 8 * i) (bs.map fun b => b.2.1) (tileWrite g o (bs.flatMap fun b => b.1) s)
  | 1 => tileWrite g o (ys.flatMap fun y => wordBytes (narrowBf16 eout y).1) s
  | _ => tileWrite g o (ys.flatMap fun y => wordBytes (fp32 ((ofFp32 y).shift eout))) s

/-- A row of FP32 output overflows where the output exponent takes a finite element to infinity. -/
def scaleOverflows (p : Pour) (eout : Int) (ys : List (BitVec 32)) : Bool :=
  2 ≤ p.slot.ofmt.toNat && ys.any fun y => overflowed (ofFp32 y) (fp32 ((ofFp32 y).shift eout))

/-- The elements that a pour has formed, row by row. -/
def outRows (p : Pour) : List (List (BitVec 32)) := p.out.map fun r => r.map fun x => x.1

/-- Saturated blocks or rows of a pour's rows at an output exponent; a KEEP pour narrows nothing. -/
def saturations (p : Pour) (eout : Int) : Nat :=
  if oB p.op.word 37 then 0 else (outRows p).foldl (fun n ys => n + saturation p eout ys) 0

/-- The EPI slot's output exponent, and that of the recompute pass (spec/03 R79). -/
def slotEout (e : EpiSlot) : Int := sgn 8 e.eout.toNat
def recomputeEout (s : State) (p : Pour) : Int := max (slotEout p.slot - cfg s 0x5010 1) (-120)

/-- The output exponent of the pass whose rows a pour leaves. -/
def pourEout (s : State) (p : Pour) : Int := if p.recomputed then recomputeEout s p else slotEout p.slot

/-! ### Timing (spec/03 R75, R82, R83; spec/05 R163) -/

/-- A pour loads B slices. -/
def pourLoads (e : EpiSlot) : Bool := e.exp || e.vsrc

/-- The pieces that a pour spans: one for a pour that reads no segment entry (spec/03 R75). -/
def pourPieces (s : State) (g : Nat) (w : BitVec 128) (e : EpiSlot) : List Piece :=
  if pourLoads e then piecesOf (segsOver s g (oF w 98 2) (oF w 100 12) (oF w 38 10)) (oF w 38 10)
  else [{ seg := none, row := 0, rows := oF w 38 10 }]

/-- The clocks at which the rows of a piece are final in every bank that the pour reads (spec/03 R68, R84); none while the
last of them is not known, or a bank is held by no chain that has taken its LAST op, or the pour has more rows than the
chain. -/
def pieceFinals (s : State) (g : Nat) (p : Pour) (x : Piece) : Option (List Nat) :=
  let k := coreOf s g
  let w := p.op.word
  let ok (b : Bank) : Option (List Nat) :=
    match b.chain with
    | none => none
    | some c => if c.last && oF w 38 10 ≤ c.rows && x.row + x.rows ≤ c.finals.length
      then some ((c.finals.drop x.row).take x.rows) else none
  match ok (accOf k (oB w 35)), p.slot.exp with
  | none, _ => none
  | some fa, false => some fa
  | some fa, true => (ok (rankOf k (oB w 36))).map fun fr => (fa.zip fr).map fun f => max f.1 f.2

/-- The clocks at which rows are read: each waits for its turn, its finality and its B slice (spec/03 R82). -/
def readClocks (step turn b : Nat) : List Nat → List Nat
  | [] => []
  | f :: fs => let c := max turn (max f b); c :: readClocks step (c + step) b fs

/-- Cycles that a recompute pass takes (spec/03 R79, spec/05 R163). -/
def recomputeCycles (s : State) (p : Pour) : Nat :=
  let n (x : Piece) : Nat := max (pace s * x.rows) 64
  match p.pieces with
  | [x] => 16 + n x
  | xs => 80 + xs.foldl (fun a x => a + n x) 0

/-! ### POUR (spec/03 R82 to R84) -/

/-- The memories that the rows of a piece of a pour are read from. -/
def pourReads (p : Pour) (cols : Nat) (x : Piece) (bank : Bool) : List MemRange :=
  let e := p.slot
  let w := p.op.word
  (.acc (oB w 35), 1024 * x.row, 1024 * x.rows) ::
    (if e.exp then [(.rank (oB w 36), 256 * x.row, 256 * x.rows)] else []) ++
    (if pourLoads e then [(.bBank bank, 0, 0x8000)] else []) ++
    tileRanges (if oB w 37 then [] else
      (if e.bias then [(64 * e.baddr.toNat, 4 * cols)] else []) ++
      (if e.scl && !e.vsrc then [(64 * e.vaddr.toNat, 4 * cols)] else []) ++
      (if e.deriv then (List.range x.rows).map fun i =>
        (64 * e.zaddr.toNat + 64 * e.zstride.toNat * (x.row + i), if e.zfmt then 4 * cols else 2 * cols) else []))

/-- A B bank of a core. -/
def bBankOf (k : Core) (b : Bool) : List (BitVec 16) := if b then k.b1 else k.b0

/-- The B slice of a piece loads into a bank, ending at a clock (spec/03 R75). -/
def loadB (g : Nat) (q : QOp) (x : Piece) (xs : List RingSlice) (b : Bool) (c : Nat) (s : State) : State :=
  let v := bSetOf (sliceOf xs false)
  updCore g (fun k => rewritten (.bBank b) 0x8000 (if b then { k with b1 := v } else { k with b0 := v })) (loadEnds g q x c s)

/-- The first pass of a pour is complete: its saturations, and one numeric event of each class that its rows raise. Table
NU-6 has no unit for the epilogue: its events carry the bottom adder's, 0x000 + g (DESIGN CHOICE, log entry 60). -/
def firstPass (g : Nat) (p : Pour) (s : State) : State :=
  let e := slotEout p.slot
  let w := p.op.word
  let rows := outRows p
  let k := coreOf s g
  let clamp := p.slot.exp && (List.range (oF w 38 10)).any fun i =>
    (rankBf16 ((rankOf k (oB w 36)).vals.getD i [])).any fun x => x.2
  let nan := (!oB w 37 || p.slot.exp) && rows.any fun r => r.any isNan32
  let overflow := p.out.any (fun r => r.any fun x => x.2) || (!oB w 37 && rows.any (scaleOverflows p e))
  let classes := (if clamp then [0] else []) ++ (if nan then [1] else []) ++ (if overflow then [2] else [])
  let p := { p with saturated := saturations p e, raised := classes }
  opEvents g 0 p.op.index classes (updCore g (fun k => { k with pour := some p }) s)

/-- One piece of a pour whose rows are final and whose slices are in the ring (spec/03 R75, R82): its B loads into the bank
not in use, and its rows are read. -/
def pourStep (g : Nat) (p : Pour) (x : Piece) (xs : List Piece) (sl : List RingSlice) (finals : List Nat) (s : State) :
    State :=
  let loads := pourLoads p.slot
  let b := if loads then max p.loadFrom (arrival sl) + 64 else p.rowFrom
  let s := if loads then loadB g p.op x sl p.bank b s else s
  withReadsOf g p.op (pourReads p (pourCols s g p) x p.bank) s fun s =>
    let reads := readClocks (pace s) p.rowFrom b finals
    let turns := readClocks (pace s) p.rowFrom b (finals.map fun _ => 0)
    let last := reads.getLast?.getD b
    let out := (List.range x.rows).map fun i =>
      pourRow s g p (bBankOf (coreOf s g) p.bank) (sliceOf sl true) (x.row + i)
    let s := count g 0x04D (b - p.rowFrom) (count g 0x04C (last - turns.getLast?.getD b) s)
    let p := { p with
      left := xs, loadFrom := reads.headD b, rowFrom := last + pace s, bank := if loads then !p.bank else p.bank,
      out := p.out ++ out, endAt := last + 16 }
    let s := updCore g (fun k => { k with pour := some p }) s
    if xs.isEmpty then firstPass g p s else s

/-- The pour under way goes on, piece by piece, as far as rows are final and slices in the ring. -/
def advancePour (g : Nat) : Nat → State → State
  | 0, s => s
  | n + 1, s =>
    match (coreOf s g).pour with
    | none => s
    | some p => match p.left with
      | [] => s
      | x :: xs => match pieceFinals s g p x, pieceSlices s g p.op x with
        | some f, some sl => advancePour g n (pourStep g p x xs sl f s)
        | _, _ => s

/-- The rank lane and the pour of a core go on as far as they can. -/
def advanceCore (g : Nat) (s : State) : State := advancePour g 513 (advanceRank g 513 s)

/-- MMA_RUN (spec/03 R63 to R69, R73). -/
def execMmaRun (core : BitVec 7) (stream : Bool) (s : State) : Outcome State Fault Refusal :=
  onOp core stream 0x11 s fun q s => advanceCore core.toNat (mmaRun core.toNat q s)

/-- RANK_RUN (spec/03 R70, R71; spec/05 R155). -/
def execRankRun (core : BitVec 7) (stream : Bool) (s : State) : Outcome State Fault Refusal :=
  onOp core stream 0x20 s fun q s => advanceCore core.toNat (rankRun core.toNat q s)

/-- The effect of POUR at its start: it latches its EPI slot (spec/05 R146, R156). -/
def pourStart (g : Nat) (q : QOp) (s : State) : State :=
  let e := epiOf (coreOf s g) (epiIndex s g q.stream (oF q.word 32 3))
  if !e.valid then startFault g q 2 s
  else
    let ps := pourPieces s g q.word e
    let p : Pour := {
      op := q, slot := e, left := ps, pieces := ps, loadFrom := s.clock, rowFrom := s.clock, bank := false, out := [],
      endAt := s.clock, raised := [], saturated := 0, recomputed := false, clamped := false }
    updCore g (fun k => { k with pour := some p }) s

/-- POUR (spec/05 R146, R156). -/
def execPour (core : BitVec 7) (stream : Bool) (s : State) : Outcome State Fault Refusal :=
  onOp core stream 0x40 s fun q s => advanceCore core.toNat (pourStart core.toNat q s)

/-- The pour of a core whose first pass has run, as far as its rows and slices allow by now. -/
def drainedPour (s : State) (g : Nat) : Option (Pour × State) :=
  let s := advanceCore g s
  match (coreOf s g).pour with
  | none => none
  | some p => if p.left.isEmpty then some (p, s) else none

/-- The one recompute of a pour that saturated (spec/03 R79, R80), from the cycle after its first pass. The rows are those
that the first pass formed from the banks still held; they narrow at the reduced output exponent. A clamp that only the recompute
meets raises its event under the bottom adder's unit number, as the first pass does (log entry 60). -/
def recomputePour (g : Nat) (s : State) : State :=
  match drainedPour s g with
  | none => advanceCore g s
  | some (p, s) =>
    if p.saturated = 0 || p.recomputed || !inTime s g p.endAt then s
    else
      let s := untilClock p.endAt s
      let clamped := saturations p (recomputeEout s p) ≠ 0
      let classes := if clamped && !p.raised.contains 0 then [0] else []
      let p := { p with recomputed := true, clamped := clamped, endAt := p.endAt + recomputeCycles s p }
      let s := updCore g (fun k => { k with pour := some p }) s
      opEvents g 0 p.op.index classes (count g 0x04B 1 s)

/-- POUR_RECOMPUTE (spec/03 R79, R80). -/
def execPourRecompute (core : BitVec 7) (s : State) : Outcome State Fault Refusal := done (recomputePour core.toNat s)

/-- The status record of a pour (spec/03 R81). -/
def statusRecord (p : Pour) (eout : Int) : BitVec 32 :=
  BitVec.ofNat 32 ((BitVec.ofInt 8 eout).toNat * 2 ^ 24 + p.recomputed.toNat * 2 ^ 23 + p.clamped.toNat * 2 ^ 22 +
    min p.saturated 4095 * 2 ^ 10)

/-- The banks that a pour releases, free from the next cycle on (spec/03 R69, R72, R83; DEDUCED, log entry 29). -/
def releaseBanks (g : Nat) (p : Pour) (s : State) : State :=
  let w := p.op.word
  let keep := oB w 37
  let s := if keep then s else updCore g (setAcc (oB w 35) { freeAt := s.clock + 1 }) s
  let rank := if p.slot.exp || keep then !oB w 114 else false
  if rank then updCore g (setRank (oB w 36) { freeAt := s.clock + 1 }) s else s

/-- What a pour leaves: its output rows, or for a KEEP pour the expand results in its accumulator bank (spec/03 R72). -/
def pourResult (g : Nat) (p : Pour) (s : State) : State :=
  let w := p.op.word
  if oB w 37 then updCore g (fun k =>
    let bank := accOf k (oB w 35)
    setAcc (oB w 35) { bank with vals := setRows 0 (outRows p) bank.vals } (rewritten (.acc (oB w 35)) (1024 * oF w 38 10) k)) s
  else count g 0x04A (oF w 38 10) ((indexed (outRows p)).foldl (fun s r => writeRow g p (pourEout s p) r.1 r.2 s) s)

/-- A pour completes (spec/03 R83): the output, the status record, the token, and the banks. A pour that would end past its
program's deadline does not complete. -/
def completePour (g : Nat) (s : State) : State :=
  match drainedPour s g with
  | none => advanceCore g s
  | some (p, s) =>
    if (p.saturated ≠ 0 && !p.recomputed) || !inTime s g p.endAt then s
    else
      let s := pourResult g p (untilClock p.endAt s)
      let s := tileWrite g (4 * p.slot.staddr.toNat) (wordBytes (statusRecord p (pourEout s p))) s
      let s := sendCredit g (oSctr p.op.word) (oSamt p.op.word) s
      count g 0x049 1 (releaseBanks g p (updCore g (fun k => { k with pour := none }) s))

/-- POUR_COMPLETE (spec/03 R83). -/
def execPourComplete (core : BitVec 7) (s : State) : Outcome State Fault Refusal := done (completePour core.toNat s)

end Sys2Proof.Machine
end

