-- ==== Sys2Proof/Machine/Vector.lean ====
section
/-! DEFINITION. The vector unit (spec/03 R85 to R87, spec/04 R95, R111, R112, R118, R120, spec/05 R157, R158):
elementwise operations, conversions with block scales, row reductions. An op's results are formed at its start from
the operands as they stand there; its destination stays in the pipeline until the op completes. -/

namespace Sys2Proof.Machine

open Host (Outcome)

/-- FP32 1.0 and 0.0 of a truth value. -/
def truth32 (b : Bool) : BitVec 32 := if b then 0x3F800000 else 0

/-- The smaller of two values (or the larger); −0 lies below +0, a NaN gives the canonical NaN. -/
def min32 (a b : BitVec 32) : BitVec 32 :=
  let x := ofFp32 a
  let y := ofFp32 b
  if x.isNan || y.isNan then 0x7FC00000 else if x.same y then a ||| b else if x.lt y then a else b
def max32 (a b : BitVec 32) : BitVec 32 :=
  let x := ofFp32 a
  let y := ofFp32 b
  if x.isNan || y.isNan then 0x7FC00000 else if x.same y then a &&& b else if x.lt y then b else a

/-- A value as it is written: a NaN becomes the canonical one (spec/04 R102). -/
def canon32 (a : BitVec 32) : BitVec 32 := if isNan32 a then 0x7FC00000 else a

/-- The functions of FUNC 11 to 15: at special operands as spec/04 R118 and R120 say, elsewhere a value within Table MC-6 (log
entry 5). An infinity that is the exact result of a finite operand (1/0, log2 0, 1/√0) is no OVERFLOW (DESIGN CHOICE, log
entry 62). -/
def vecFn (func : Nat) (a : BitVec 32) : Flagged :=
  let exact (v : Val) : Flagged := (fp32 v, false)
  let other : Flagged :=
    let x := match ofFp32 a with
      | .fin _ m e => smoothVec func a m e
      | _ => 0
    (x, overflowed (ofFp32 a) x)
  match ofFp32 a, func with
  | .nan, _ => exact .nan
  | .inf s, 11 => exact (if s then .zero else .inf false)
  | .inf s, 12 => exact (if s then .nan else .inf false)
  | .inf s, 13 => exact (.fin s 0 0)
  | .inf s, 14 => exact (if s then .nan else .zero)
  | .inf s, _ => exact (if s then .nan else .inf false)
  | .fin _ _ _, 11 => other
  | .fin s m _, 12 => if m = 0 then exact (.inf true) else if s then exact .nan else other
  | .fin s m _, 13 => if m = 0 then exact (.inf s) else other
  | .fin s m _, 14 => if m = 0 then exact (.inf s) else if s then exact .nan else other
  | .fin s m _, _ => if m = 0 then exact (.fin s 0 0) else if s then exact .nan else other

/-- One element of VEC.EW (spec/05 Table SP-18). -/
def ewFn (r : Rm) (zs : Bool) (func : Nat) (a b d : BitVec 32) : Flagged :=
  let x := ofFp32 a
  let y := ofFp32 b
  match func with
  | 0 => flagged r (x.add y)
  | 1 => flagged r (x.subZs zs y)
  | 2 => flagged r (x.mulZs zs y)
  | 3 => flagged r ((x.mulZs zs y).add (ofFp32 d))
  | 4 => (min32 a b, false)
  | 5 => (max32 a b, false)
  | 6 => (fp32 x.abs, false)
  | 7 => (fp32 x.neg, false)
  | 8 => (truth32 (x.lt y), false)
  | 9 => (truth32 (x.same y), false)
  | 10 => (canon32 (if y.isZero then d else a), false)
  | 16 => (canon32 a, false)
  | f => vecFn f a

/-- Element at a byte offset of tile memory, FP32 or BF16. -/
def vecElem (s : State) (g : Nat) (bf16 : Bool) (off : Nat) : BitVec 32 :=
  if bf16 then fp32 (ofBf16 (tile16 s g off)) else tile32 s g off

/-- Operand B of element (row, column) of VEC.EW. -/
def ewB (s : State) (g : Nat) (w : BitVec 128) (n r c : Nat) : BitVec 32 :=
  let bf := oB w 116
  let size := if bf then 2 else 4
  let base := 64 * oF w 53 16
  match oF w 113 2 with
  | 0 => vecElem s g bf (base + r * rowStride n (8 * size) + size * c)
  | 1 => vecElem s g bf (base + size * r)
  | 2 => vecElem s g bf (base + size * c)
  | _ => ((coreOf s g).image.map fun i => i.consts.getD (oF w 53 4) 0).getD 0

/-- Bytes of written results, FP32 or BF16: the bytes and whether a finite result clamped. -/
def encodeElems (bf16 : Bool) (xs : List (BitVec 32)) : List Byte × Bool :=
  if bf16 then
    let ys := xs.map fun x => clampBf16 (ofFp32 x)
    (ys.flatMap fun y => wordBytes y.1, ys.any fun y => y.2)
  else (xs.flatMap wordBytes, false)

/-- The numeric event classes of a vector op. -/
def vecClasses (clamp nan overflow : Bool) : List Nat :=
  (if clamp then [0] else []) ++ (if nan then [1] else []) ++ (if overflow then [2] else [])

/-- Write rows at a stride. -/
def writeRows (g base stride : Nat) (rows : List (List Byte)) (s : State) : State :=
  (indexed rows).foldl (fun s r => tileWrite g (base + stride * r.1) r.2 s) s

/-- A vector op occupies its unit for its chunks and its pipeline for its latency. -/
def vecRun (g : Nat) (q : QOp) (s : State) : State :=
  let d := opDur s g q.word
  runFor g q d 0 (count g 0x04E (vecIssue q.word)
    (updCore g (fun k => { k with vecFree := s.clock + pace s * vecIssue q.word }) s))

/-- The rounding of an element of a vector op: its lane, and the cycle in which its chunk is issued. -/
def vecRm (s : State) (g : Nat) (sr : Bool) (perRow rate row c : Nat) : Rm :=
  coreRounding s g sr (genUnit g 2) (c % rate) (coreOffset s g + pace s * (row * perRow + c / rate))

/-- The effect of VEC.EW. -/
def vecEw (g : Nat) (q : QOp) (s : State) : State :=
  withReads g q (vecReads q.word) s fun s =>
    let w := q.word
    let rows := (vecShape w).1
    let n := (vecShape w).2
    let func := oF w 32 5
    let rate := (vecRate w).1
    let per := (n + rate - 1) / rate
    let abf := oB w 115
    let dbf := oB w 117
    let asz := if abf then 2 else 4
    let dsz := if dbf then 2 else 4
    let dst := rowStride n (8 * dsz)
    let out := (List.range rows).map fun r => (List.range n).map fun c =>
      let a := vecElem s g abf (64 * oF w 37 16 + r * rowStride n (8 * asz) + asz * c)
      let d := vecElem s g dbf (64 * oF w 69 16 + r * dst + dsz * c)
      ewFn (vecRm s g (oB w 118) per rate r c) (oB w 119) func a (ewB s g w n r c) d
    let bytes := out.map fun r => encodeElems dbf (r.map fun x => x.1)
    let s := writeRows g (64 * oF w 69 16) dst (bytes.map fun b => b.1) (vecRun g q s)
    opEvents g 2 q.index (vecClasses (bytes.any fun b => b.2) (out.any fun r => r.any fun x => isNan32 x.1)
      (out.any fun r => r.any fun x => x.2)) s

/-- VEC_EW (spec/05 R157). -/
def execVecEw (core : BitVec 7) (stream : Bool) (s : State) : Outcome State Fault Refusal :=
  onOp core stream 0x50 s (vecEw core.toNat)

/-! ### VEC.CVT (spec/05 R158, spec/04 R111, R112) -/

/-- The source value of element (row, column), with its block scale; and the index of its scale byte. The order of the
scale bytes is by block rows, then by block columns (DESIGN CHOICE, log entry 30). -/
def cvtScaleAt (sh n r c : Nat) : Nat := (r / shapeRows sh) * ((n + shapeCols sh - 1) / shapeCols sh) + c / shapeCols sh

/-- The source value of an element of VEC.CVT. -/
def cvtSrc (s : State) (g : Nat) (w : BitVec 128) (n r c : Nat) : Val :=
  let f := oF w 32 3
  let row := 64 * oF w 40 16 + r * rowStride n (cvtBits f)
  let v := match f with
    | 0 => ofFp32 (tile32 s g (row + 4 * c))
    | 1 => ofBf16 (tile16 s g (row + 2 * c))
    | 2 => ofE4m3 (tile8 s g (row + c))
    | _ => ofFp4 (bits (tile8 s g (row + c / 2)).toNat (4 * (c % 2)) 4)
  if 2 ≤ f && oF w 38 2 ≠ 0 then
    (match ofUe8m0 (tile8 s g (oF w 72 22 + cvtScaleAt (oF w 38 2) n r c)) with
      | .fin _ _ e => v.shift e
      | _ => .nan)
  else v

/-- The elements of scale block `b` of a conversion, as (row, column). -/
def cvtBlock (sh rows n b : Nat) : List (Nat × Nat) :=
  let per := (n + shapeCols sh - 1) / shapeCols sh
  let r0 := b / per * shapeRows sh
  let c0 := b % per * shapeCols sh
  (List.range (min (shapeRows sh) (rows - r0))).flatMap fun i =>
    (List.range (min (shapeCols sh) (n - c0))).map fun j => (r0 + i, c0 + j)

/-- The exponents of the scale blocks of a conversion to FP8 or FP4. -/
def cvtExps (sh rows n : Nat) (fp4 : Bool) (v : Nat → Nat → Val) : List Int :=
  (List.range (scaleBytes sh rows n)).map fun b =>
    blockExp (if fp4 then roundFp4 else roundE4m3) (if fp4 then 6 else 448)
      ((cvtBlock sh rows n b).map fun e => v e.1 e.2)

/-- Pack FP4 codes two to a byte (spec/04 R97). -/
def packNibbles : List Nat → List Byte
  | [] => []
  | [a] => [BitVec.ofNat 8 a]
  | a :: b :: cs => BitVec.ofNat 8 (a + 16 * b) :: packNibbles cs

/-- One row converted to its target format: the bytes, whether an element clamped, and whether a finite value became
infinite. -/
def cvtRow (w : BitVec 128) (n r : Nat) (exps : List Int) (v : Nat → Nat → Val) : List Byte × Bool × Bool :=
  let sf := oF w 32 3
  let e (c : Nat) : Int := if oF w 38 2 = 0 then 0 else exps.getD (cvtScaleAt (oF w 38 2) n r c) 0
  let xs := (List.range n).map fun c => v r c
  match oF w 35 3 with
  | 0 => ((xs.map fp32).flatMap wordBytes, false, xs.any fun x => overflowed x (fp32 x))
  | 1 =>
    if sf = 0 then
      let ys := xs.map clampBf16
      (ys.flatMap fun y => wordBytes y.1, ys.any fun y => y.2, false)
    else ((xs.map toBf16).flatMap wordBytes, false, xs.any fun x => x.isFin && (toBf16 x).toNat % 2 ^ 15 = 0x7F80)
  | 2 =>
    let ys := (List.range n).map fun c => toE4m3 ((v r c).shift (-(e c)))
    (ys.map fun y => y.1, ys.any fun y => y.2, false)
  | _ =>
    let ys := (List.range n).map fun c => toFp4 ((v r c).shift (-(e c)))
    (packNibbles (ys.map fun y => y.1), ys.any fun y => y.2, false)

/-- The effect of VEC.CVT. -/
def vecCvt (g : Nat) (q : QOp) (s : State) : State :=
  withReads g q (vecReads q.word) s fun s =>
    let w := q.word
    let rows := (vecShape w).1
    let n := (vecShape w).2
    let df := oF w 35 3
    let v := cvtSrc s g w n
    let exps := if 2 ≤ df then cvtExps (oF w 38 2) rows n (df = 3) v else []
    let out := (List.range rows).map fun r => cvtRow w n r exps v
    let nan := (List.range rows).any fun r => (List.range n).any fun c => (v r c).isNan
    let s := writeRows g (64 * oF w 56 16) (rowStride n (cvtBits df)) (out.map fun r => r.1) (vecRun g q s)
    let s := if exps.isEmpty then s else tileWrite g (oF w 72 22) (exps.map fun e => BitVec.ofInt 8 (e + 127)) s
    opEvents g 2 q.index (vecClasses (out.any fun r => r.2.1) nan (out.any fun r => r.2.2)) s

/-- VEC_CVT (spec/05 R158). -/
def execVecCvt (core : BitVec 7) (stream : Bool) (s : State) : Outcome State Fault Refusal :=
  onOp core stream 0x51 s (vecCvt core.toNat)

/-! ### VEC.ROW (spec/03 R86, R87) -/

/-- One level of the pairwise tree: neighbours by lane index, each pair at its lower lane. -/
def treeLevel (f : Nat → Flagged → Flagged → Flagged) : List (Nat × Flagged) → List (Nat × Flagged)
  | (i, a) :: (_, b) :: l => (i, f i a b) :: treeLevel f l
  | l => l

/-- Combine the 256 lanes of a chunk. -/
def treeFold (f : Nat → Flagged → Flagged → Flagged) (l : List Flagged) : Flagged :=
  (((List.range 8).foldl (fun l _ => treeLevel f l) (indexed l)).head?.map fun e => e.2).getD (0, false)

/-- Pad a chunk to 256 lanes. -/
def padLanes (x : BitVec 32) (l : List Flagged) : List Flagged := l ++ List.replicate (256 - l.length) (x, false)

/-- A reduction of a row's chunks: the lanes' values, the combination and the value of an absent lane. -/
def rowReduce (f : Nat → Nat → Flagged → Flagged → Flagged) (pad : BitVec 32) (xs : List Flagged) : Flagged :=
  let cs := (indexed (chunk 256 257 xs)).map fun c => (c.1, treeFold (f c.1) (padLanes pad c.2))
  match cs with
  | [] => (pad, false)
  | c :: cs => cs.foldl (fun a b => f b.1 0 a b.2) c.2

/-- The running values of R87: the count, the mean and the sum of squared deviations. -/
structure MeanVar where
  n : Nat
  mean : Flagged
  dev : Flagged

/-- One chunk's mean and sum of squared deviations. -/
def chunkMean (zs : Bool) (rm : Nat → Rm) (xs : List Flagged) : MeanVar :=
  let n : Flagged := (fNat xs.length, false)
  let add (i : Nat) := flag2 Val.add (rm i)
  let mean := flag2 divVal (rm 0) (treeFold add (padLanes 0 xs)) n
  let sq := (indexed xs).map fun x =>
    let d := flag2 (Val.subZs zs) (rm x.1) x.2 mean
    flag2 (Val.mulZs zs) (rm x.1) d d
  { n := xs.length, mean := mean, dev := treeFold add (padLanes 0 sq) }

/-- Merge a chunk into the running values (spec/03 R87). -/
def mergeMean (zs : Bool) (rm : Rm) (a b : MeanVar) : MeanVar :=
  let n : Flagged := (fNat a.n, false)
  let nc : Flagged := (fNat b.n, false)
  let n' : Flagged := (fNat (a.n + b.n), false)
  let mul := flag2 (Val.mulZs zs) rm
  let add := flag2 Val.add rm
  let div := flag2 divVal rm
  let d := flag2 (Val.subZs zs) rm b.mean a.mean
  { n := a.n + b.n,
    mean := add a.mean (div (mul d nc) n'),
    dev := add (add a.dev b.dev) (div (mul (mul (mul d d) n) nc) n') }

/-- Mean and population variance of a row. -/
def rowMeanVar (zs : Bool) (rm : Nat → Nat → Rm) (xs : List Flagged) : Flagged × Flagged :=
  match xs with
  | [x] => ((canon32 x.1, x.2), (0, false))
  | _ =>
    match (indexed (chunk 256 257 xs)).map fun c => (c.1, chunkMean zs (rm c.1) c.2) with
    | [] => ((0, false), (0, false))
    | c :: cs =>
      let m := cs.foldl (fun a b => mergeMean zs (rm b.1 0) a b.2) c.2
      (m.mean, flag2 divVal (rm cs.length 0) m.dev (fNat m.n, false))

/-- The result of one row of VEC.ROW: one value, or two for FUNC 4. A sum of squares rounds each square to FP32 before the
tree (DESIGN CHOICE, log entry 63). -/
def rowFn (func : Nat) (zs : Bool) (rm : Nat → Nat → Rm) (xs : List (BitVec 32)) : List Flagged :=
  let ls : List Flagged := xs.map fun x => (x, false)
  match func with
  | 0 => [rowReduce (fun c i => flag2 Val.add (rm c i)) 0 ls]
  | 1 =>
    let sq := (indexed ls).map fun x => flag2 (Val.mulZs zs) (rm (x.1 / 256) (x.1 % 256)) x.2 x.2
    [rowReduce (fun c i => flag2 Val.add (rm c i)) 0 sq]
  | 2 => [rowReduce (fun _ _ a b => (max32 a.1 b.1, false)) 0xFF800000 ls]
  | 3 => [rowReduce (fun _ _ a b => (min32 a.1 b.1, false)) 0x7F800000 ls]
  | _ => let r := rowMeanVar zs rm ls; [r.1, r.2]

/-- The effect of VEC.ROW. -/
def vecRow (g : Nat) (q : QOp) (s : State) : State :=
  withReads g q (vecReads q.word) s fun s =>
    let w := q.word
    let rows := (vecShape w).1
    let n := (vecShape w).2
    let bf := oB w 95
    let sz := if bf then 2 else 4
    let per := (n + 255) / 256
    let out := (List.range rows).map fun r =>
      rowFn (oF w 32 3) (oB w 97) (fun c i => vecRm s g (oB w 96) per 256 r (256 * c + i))
        ((List.range n).map fun c => vecElem s g bf (64 * oF w 35 16 + r * rowStride n (8 * sz) + sz * c))
    let s := tileWrite g (64 * oF w 51 16) (out.flatMap fun r => r.flatMap fun x => wordBytes x.1) (vecRun g q s)
    opEvents g 2 q.index (vecClasses false (out.any fun r => r.any fun x => isNan32 x.1)
      (out.any fun r => r.any fun x => x.2)) s

/-- VEC_ROW (spec/03 R86, R87). -/
def execVecRow (core : BitVec 7) (stream : Bool) (s : State) : Outcome State Fault Refusal :=
  onOp core stream 0x52 s (vecRow core.toNat)

end Sys2Proof.Machine
end

