-- ==== Sys2Proof/Machine/Programs.lean ====
section
/-! DEFINITION. Steep programs (spec/05 R135 to R166): binding a core, fetching images, dispatch, the control ops,
completion of ops, and tokens. -/

namespace Sys2Proof.Machine

open Host (Outcome)

/-! ### BIND (spec/05 R137 to R141, R163; spec/06 R182; spec/07 R220, R222) -/

/-- A failed check of BIND: the directory entry and the op index. -/
abbrev BindFail := Nat × Nat

/-- Every image that directory entry `i` names: its address and its place (paired or not). -/
def entryImages (e : BitVec 128) : List (Nat × Bool) :=
  (dFprog e, false) :: (if dPvalid e then [(dPprog e, true)] else [])

/-- The window check of everything that a directory entry names (spec/05 R140), and of the map entries that BIND reads
for it (spec/01 R17). -/
def entryWindows (s : State) (p : Nat) (b : Binding) (i : Nat) : Bool :=
  windowOk s p (b.dir.toNat + 16 * i) 16 && (b.slotMap = 0 || windowOk s p b.slotMap.toNat 1) && ((entryImages (dirEntry s b i)).all fun a =>
    windowOk s p a.1 0x200 && windowOk s p a.1 (imageBytes (headerAt s a.1)) &&
    (List.range 4).all fun n => hMaxSeg (headerAt s a.1) n = 0 || b.slotMap = 0 ||
      windowOk s p (b.slotMap.toNat + 128 * i + 32 * n) 32) &&
  (b.kvMap = 0 || windowOk s p (b.kvMap.toNat + 32 * i) 32) &&
  (let c := kvCtlAt s b i
   !kValid c || windowOk s p (kSlist c) (32 * kNcmd c))

/-- What a stream's earlier ops leave: the EPI slots written by EPI.SET0 (OFMT, and EXP or VSRC), whether a MMA.RUN or a
RANK.RUN has come, and KT of the chain that each bank holds open (key: 2 × (RANK.RUN) + bank). -/
structure StreamSeen where
  epi : Sparse (Option (Nat × Bool)) := []
  run : Bool := false
  rank : Bool := false
  chains : Sparse (Option Nat) := []

/-- The bank of a chain op, as `StreamSeen.chains` numbers it. -/
def chainKey (w : BitVec 128) : Nat := (if oOp w = 0x20 then 2 else 0) + (oB w 101).toNat

/-- KT is equal in every op of a chain (spec/05 Table SP-11), as far as the stream has opened it. -/
def ktOk (seen : StreamSeen) (w : BitVec 128) : Bool :=
  oB w 102 || (match sget none (chainKey w) seen.chains with
    | some kt => kt = oF w 92 8
    | none => true)

/-- The open chains after a chain op. -/
def seeChain (w : BitVec 128) (m : Sparse (Option Nat)) : Sparse (Option Nat) :=
  sput none (chainKey w) (if oB w 103 then none else if oB w 102 then some (oF w 92 8) else sget none (chainKey w) m) m

/-- The smallest configured steep length, in µs, that a program must fit (spec/05 R141). -/
def bindLen (s : State) (first : BitVec 64) : Nat :=
  let active := cfg s 0x4010 1
  let governs := if ahead first s.steep.k < 2 then s.steep.cfgLen else active
  let next := if s.dict.commit.isSome then cfgShadow s 0x4010 1 else active
  min active (min governs next)

/-- The field rules of one op at BIND (spec/05 R140, R153 to R163), the ops before it in its stream seen. -/
def bindOpOk (h : BitVec 512) (len : Nat) (last : Bool) (seen : StreamSeen) (w : BitVec 128) : Bool :=
  decodeOk w && opRuleOk w && ((oOp w = 0xF0) = last) &&
    (match oOp w with
      | 0x11 => ktOk seen w && (seen.run || oB w 104) && (!oB w 100 || oF w 48 22 = 0)
      | 0x20 => ktOk seen w && (seen.rank || oB w 102) && hMaxSeg h (oF w 105 2) ≠ 0 && (!oB w 100 || oF w 48 22 = 0)
      | 0x30 => !hPaired h || oF w 32 3 < 4
      | 0x31 => !hPaired h || oF w 32 3 < 4
      | 0x32 => !hPaired h || oF w 32 3 < 4
      | 0x40 =>
        (match sget none (oF w 32 3) seen.epi with
          | none => false
          | some e => !e.2 || hMaxSeg h (oF w 98 2) ≠ 0)
      | 0x92 => oF w 32 24 + 4000 < len * cyclesPerUs
      | _ => true)

/-- What the ops up to and including this one leave. -/
def seeOp (w : BitVec 128) (seen : StreamSeen) : StreamSeen :=
  match oOp w with
  | 0x11 => { seen with run := true, chains := seeChain w seen.chains }
  | 0x20 => { seen with rank := true, chains := seeChain w seen.chains }
  | 0x30 => { seen with epi := sput none (oF w 32 3) (some (oF w 79 2, oB w 81 || oB w 84)) seen.epi }
  | _ => seen

/-- σ_p of a POUR (spec/05 R163), 0 for one that does not narrow. -/
def slackOf (h : BitVec 512) (seen : StreamSeen) (w : BitVec 128) : Nat :=
  if oOp w ≠ 0x40 || oB w 37 then 0
  else match sget none (oF w 32 3) seen.epi with
    | none => 0
    | some e =>
      if 2 ≤ e.1 then 0
      else
        let m := if e.2 then hMaxSeg h (oF w 98 2) else 1
        let rows := oF w 38 10
        if m ≤ 1 then 16 + max rows 64 else 80 + rows + 64 * m

/-- Check the ops of a stream in order: the first op (counted from `i`) that fails, or the sum of σ_p. -/
def checkOps (h : BitVec 512) (len : Nat) : Nat → StreamSeen → Nat → List (BitVec 128) → Except Nat Nat
  | _, _, acc, [] => .ok acc
  | i, seen, acc, w :: ws =>
    if bindOpOk h len ws.isEmpty seen w then checkOps h len (i + 1) (seeOp w seen) (acc + slackOf h seen w) ws
    else .error i

/-- The table region of slot `n` of an image, in tile memory: address and bytes (spec/06 R183). -/
def tableRegion (s : State) (p : Nat) (h : BitVec 512) (n grp : Nat) : Nat × Nat :=
  let c := capacity s p grp
  let e := (c + 511) / 512 * (hMaxSeg h n + 1)
  let up (x : Nat) : Nat := (x + 63) / 64 * 64
  (hSeg h n, up (up (64 + 16 * e) + 4 * c) + 8 * c)

/-- A slot control entry is sound for its image (spec/06 R182). -/
def slotCtlOk (s : State) (p : Nat) (h : BitVec 512) (n : Nat) (e : BitVec 256) : Bool :=
  let a := (64 * (fld e 0 16).toNat, 4096 * (fld e 16 6).toNat)
  let b := (64 * (fld e 22 16).toNat, 4096 * (fld e 38 6).toNat)
  let r := tableRegion s p h n (cRowgrp e)
  let meet (x y : Nat × Nat) : Bool := x.1 < y.1 + y.2 && y.1 < x.1 + x.2
  (fld e 102 154) = 0 && a.1 % 4096 = 0 && b.1 % 4096 = 0 && a.2 ≠ 0 && b.2 ≠ 0 &&
    a.1 + a.2 ≤ 0x400000 && b.1 + b.2 ≤ 0x400000 && !meet a b && !meet a r && !meet b r

/-- Check one image in its place: the first failure's op index (0 for a check that names no op; log entry 32). -/
def checkImage (s : State) (p : Nat) (b : Binding) (first : BitVec 64) (i : Nat) (a : Nat) (paired : Bool) : Option Nat :=
  let img := imageAt s a
  let h := img.header
  let len := bindLen s first
  let budget := len * cyclesPerUs - (if isTrain b && i + 1 = stepLen s then 32016 else 4016)
  let dslack := (fld h 96 32).toNat
  let dplan := (fld h 64 32).toNat
  let sends := img.sendMap.all fun m =>
    fld m 0 7 = 0 && fld m 30 2 ≠ 3 && (fld m 30 2 ≠ 1 || holdsCore s p (fld m 13 7).toNat)
  let slots := (List.range 4).all fun n => hMaxSeg h n = 0 ||
    (b.slotMap ≠ 0 && slotCtlOk s p h n (slotCtlAt s b i n))
  if a % 64 ≠ 0 || fld h 0 16 ≠ 0xA124 || fld h 16 8 ≠ 1 || hPaired h ≠ paired || fld h 25 7 ≠ 0 || fld h 224 288 ≠ 0 ||
      img.ops0.isEmpty || (paired = img.ops1.isEmpty) || 8160 < hN0 h + hN1 h || !sends || !slots then some 0
  else match checkOps h len 0 {} 0 img.ops0 with
    | .error j => some j
    | .ok x =>
      match checkOps h len img.ops0.length {} 0 img.ops1 with
      | .error j => some j
      | .ok y => if dslack < x + y || budget < dplan + dslack then some 0 else none

/-- A strain command as BIND checks it: a defined SOP and zero reserved fields (spec/07 R222). -/
def strainOk (w : BitVec 256) : Bool :=
  let op := (fld w 0 8).toNat
  1 ≤ op && op ≤ 5 && fld w 8 4 = 0 && fld w 32 42 = 0 && !bit w 176

/-- The strain list of a KV control entry. -/
def strainList (s : State) (c : BitVec 256) : List (BitVec 256) :=
  if kValid c then (List.range (kNcmd c)).map fun j => BitVec.ofNat 256 (memWord s (kSlist c + 32 * j) 32) else []

/-- Check the KV control entry of directory entry `i` and its strain list. -/
def checkKv (s : State) (b : Binding) (i : Nat) : Option Nat :=
  let c := kvCtlAt s b i
  if !kValid c then none
  else if 2047 < kNcmd c || kSlist c % 64 ≠ 0 || fld c 1 19 ≠ 0 || bit c 49 || fld c 98 158 ≠ 0 then some 0
  else ((indexed (strainList s c)).find? fun e => !strainOk e.2).map fun e => e.1

/-- Check one directory entry: the first failure. -/
def checkEntry (s : State) (p : Nat) (b : Binding) (first : BitVec 64) (i : Nat) : Option BindFail :=
  let imgs := (entryImages (dirEntry s b i)).filterMap fun a => checkImage s p b first i a.1 a.2
  if fld (dirEntry s b i) 97 31 ≠ 0 then some (i, 0)
  else match imgs.head? with
    | some j => some (i, j)
    | none => (checkKv s b i).map fun j => (i, j)

/-- A pending binding whose first steep has begun is in effect (spec/05 R138). -/
def settleBind (s : State) (k : Core) : Core :=
  match k.pendingBind with
  | some b => if hasBegun s b.first then { k with binding := b, pendingBind := none } else k
  | none => k

/-- A core takes a pending binding; where another binding then governs the coming steep, what it has fetched for that
steep is no longer its image, and it fetches again (spec/05 R139, R142; DEDUCED, log entry 64). -/
def takeBind (g : Nat) (b : Binding) (s : State) : State :=
  let old := bindingAt s g (s.steep.k + 1)
  let s := updCore g (fun k => { settleBind s k with pendingBind := some b }) s
  if bindingAt s g (s.steep.k + 1) = old then s
  else updCore g (fun k => { k with fetch := .idle, nextImage := none, nextStrain := [] }) s

/-- BIND (spec/05 R137 to R141, spec/14 R500): the checks, and the pending binding. -/
def execBind (s : State) : Outcome State Fault Refusal :=
  onHead 0x20 s fun c s =>
    let w := c.word
    let p := c.part.toNat
    let g := bits (cP0 w) 0 7
    let mode := bits (cP0 w) 8 2
    let b : Binding := {
      mode := BitVec.ofNat 2 mode, dir := BitVec.ofNat 48 (cAddr0 w), dlen := BitVec.ofNat 16 (bits (cP0 w) 16 16),
      first := cSteep w, slotMap := BitVec.ofNat 48 (cP1 w), kvMap := BitVec.ofNat 48 (cP2 w) }
    let n := b.dlen.toNat
    let rest (s : State) : State :=
      if !boundariesKnown s then finish c.id stNotPermitted 0 0 s
      else if !atLeast20us s (cSteep w) then finish c.id stTimeout 0 0 s
      else finish c.id stOk 0 0 (takeBind g b s)
    if !holdsCore s p g then finish c.id stNotPermitted 0 0 s
    else if mode = 3 then finish c.id stFormat 0 0 s
    else if mode = 0 then rest s
    else if n = 0 || b.dir.toNat % 16 ≠ 0 then finish c.id stFormat 0 0 s
    else match (List.range n).find? fun i => !entryWindows s p b i with
      | some i => finish c.id stNotPermitted 0 i s
      | none =>
        if mode = 1 && n ≠ stepLen s then finish c.id stFormat 0 0 s
        else match (List.range n).findSome? fun i => checkEntry s p b (cSteep w) i with
        | some f => finish c.id stFormat 0 (f.1 + 2 ^ 16 * f.2) s
        | none => rest s

/-- BIND_EFFECT (spec/05 R137, R138): at the boundary of its first steep the pending binding takes effect. -/
def execBindEffect (core : BitVec 7) (s : State) : Outcome State Fault Refusal :=
  let g := core.toNat
  match (coreOf s g).pendingBind with
  | none => done s
  | some b => onlyIf (hasBegun s b.first) s
      (updCore g fun k => { k with binding := b, pendingBind := none })

/-! ### Fetch (spec/05 R142, R164; spec/07 R220) -/

/-- The value of an RWS entry in the next steep: the shadow's where a commit takes effect at its boundary. -/
def cfgNext (s : State) (i sub : Nat) : Nat :=
  if s.dict.commit = some (s.steep.k + 1) then cfgShadow s i sub else cfg s i sub

/-- The mode of a partition in the next steep: a TRAIN binding keeps the one of the step's first steep (spec/05 R164). -/
def pairedNext (s : State) (g : Nat) (b : Binding) : Bool :=
  let p := coreOwnerD s g
  if isTrain b && sidxNext s ≠ 0 then s.prog.stepModes.getLsbD p else decide (cfgNext s 0x4051 (p + 1) = 1)

/-- The modes that TRAIN bindings take with the coming steep, where it begins a step. -/
def stepModesNext (s : State) : BitVec 64 :=
  (List.range 64).foldl (fun m p => setBit m p (decide (cfgNext s 0x4051 (p + 1) = 1))) 0

/-- Cores whose mode in the coming steep is no longer the one that they fetched for, since a COMMIT has been accepted for
its boundary, fetch again (spec/05 R142, R164; DEDUCED, log entry 64). -/
def refetchModes (s : State) : State :=
  (List.range 128).foldl (fun s g =>
    if (coreOf s g).fetch ≠ .idle && (coreOf s g).paired ≠ pairedNext s g (bindingAt s g (s.steep.k + 1)) then
      updCore g (fun k => { k with fetch := .idle, nextImage := none, nextStrain := [] }) s
    else s) s

/-- PROGRAM_FETCH (spec/05 R142): at B(k) + 16 cycles as its die's copy reads them (spec/01 R22), the core starts to fetch for steep k + 1. -/
def execProgramFetch (core : BitVec 7) (s : State) : Outcome State Fault Refusal :=
  let g := core.toNat
  let b := bindingAt s g (s.steep.k + 1)
  onlyIf (boundariesKnown s && (coreOf s g).fetch == .idle && (isTrain b || isServe b)) s fun s =>
    let paired := pairedNext s g b
    updCore g (fun k => { k with fetch := .fetching, paired := paired }) (untilTime (dieClock s g (s.steep.b + 16)) s)

/-- The address of the image that a core runs in the next steep. -/
def nextImageAddr (s : State) (g : Nat) (b : Binding) : Nat :=
  let e := dirEntry s b (entryOf b (s.steep.k + 1) (sidxNext s))
  if (coreOf s g).paired && dPvalid e then dPprog e else dFprog e

/-- PROGRAM_FETCH_DONE (spec/05 R142): the fetch ends; a block of the image or of the strain list that fails its CRC, or a
range outside the partition's windows (spec/01 R17), leaves no program. -/
def execProgramFetchDone (core : BitVec 7) (env : ReadEnv) (s : State) : Outcome State Fault Refusal :=
  let g := core.toNat
  onlyIf ((coreOf s g).fetch == .fetching) s fun s =>
    let s := bringUpsets g env s
    let p := coreOwnerD s g
    let b := bindingAt s g (s.steep.k + 1)
    let a := nextImageAddr s g b
    let c := kvCtlAt s b (entryOf b (s.steep.k + 1) (sidxNext s))
    let n := imageBytes (headerAt s a)
    let l := if kValid c then 32 * kNcmd c else 0
    if !windowOk s p a 64 || !windowOk s p a n || (l ≠ 0 && !windowOk s p (kSlist c) l) then
      updCore g (fun k => { k with fetch := .outside }) s
    else
    let r := verifyRange env a n s
    let q := verifyRange env (kSlist c) l r.2
    let s := countHbm 0x040 (kSlist c) l (countHbm 0x040 a n q.2)
    if r.1 || q.1 then updCore g (fun k => { k with fetch := .badCrc }) s
    else updCore g (fun k => { k with
      fetch := .done, nextImage := some (imageAt s a), nextStrain := strainList s c }) s

/-! ### Dispatch (spec/05 R143, R144) -/

/-- The ops of a stream, and the index of its next op. -/
def streamOps (k : Core) (stream : Bool) : List (BitVec 128) :=
  match k.image with
  | none => []
  | some i => if stream then i.ops1 else i.ops0
def streamNext (k : Core) (stream : Bool) : Nat := if stream then k.next1 else k.next0

/-- The places taken in a unit's queue for a stream in the cycle `now`: an op that leaves in that cycle still holds its
place. -/
def placesTaken (now : Nat) (k : Core) (unit : Nat) (stream : Bool) : Nat :=
  ((sget [] unit k.queues).countP fun q => q.stream = stream) +
    k.leaving.countP fun x => x.1 = unit && x.2.1 = stream && x.2.2 = now

/-- The next op of a stream, if its unit's queue has room for it in the cycle `now`: 16 ops for each stream. -/
def dispatchable (now : Nat) (k : Core) (stream : Bool) : Option (BitVec 128) :=
  match (streamOps k stream)[streamNext k stream]? with
  | none => none
  | some w => if placesTaken now k (opUnit (oOp w)) stream < 16 then some w else none

/-- OP_DISPATCH (spec/05 R143, R144): the first op at cycle offset 16 as the core's die reads it (spec/01 R22), then one op
in each cycle; two streams in turn. -/
def execOpDispatch (core : BitVec 7) (stream : Bool) (s : State) : Outcome State Fault Refusal :=
  let g := core.toNat
  let k := coreOf s g
  let bindDue := match k.pendingBind with | some b => hasBegun s b.first | none => false
  if !isLocked s || k.faulted.isSome || k.aborted || bindDue || s.clock < k.heldUntil then done s
  else
    let t := untilClock k.dispatchAt (untilTime (dieClock s g (s.steep.b + 16)) s)
    if stream = k.lastDispatch && (dispatchable t.clock k (!stream)).isSome then done s
    else match dispatchable t.clock k stream with
    | none => done s
    | some w =>
      let n := streamNext k stream
      let i := if stream then (streamOps k false).length + n else n
      if !decodeOk w then done (progFault g stream i 1 t)
      else
        let q : QOp := { word := w, index := BitVec.ofNat 16 i, stream := stream, dispatched := t.clock }
        let k := { k with
          queues := supd [] (opUnit (oOp w)) (fun l => l ++ [q]) k.queues, lastDispatch := stream,
          next0 := if stream then k.next0 else n + 1, next1 := if stream then n + 1 else k.next1,
          dispatchAt := t.clock + 1 }
        done (count g 0x050 1 (setCore t g k))

/-! ### Control ops (spec/05 R149, R150, R162, Tables SP-24 and SP-25) -/

/-- SYNC_WAIT: it starts when its four waits hold together. -/
def execSyncWait (core : BitVec 7) (stream : Bool) (s : State) : Outcome State Fault Refusal :=
  onOp core stream 0x90 s fun q => runFor core.toNat q 1 0

/-- SYNC_SEND: the common send and three extra ones, at its start. -/
def execSyncSend (core : BitVec 7) (stream : Bool) (s : State) : Outcome State Fault Refusal :=
  let g := core.toNat
  onOp core stream 0x91 s fun q s =>
    let w := q.word
    [(oSctr w, oSamt w), (oF w 32 6, oF w 38 4), (oF w 42 6, oF w 48 4), (oF w 52 6, oF w 58 4)].foldl
      (fun s e => sendCredit g e.1 e.2 s) s

/-- SYNC_TIME: it completes at its cycle offset within the steep. -/
def execSyncTime (core : BitVec 7) (stream : Bool) (s : State) : Outcome State Fault Refusal :=
  let g := core.toNat
  onOp core stream 0x92 s fun q s => runFor g q (max 1 (oF q.word 32 24 - coreOffset s g)) 0 s

/-- The two SAMPLE records of a core, each packed from bit 0 and cut at the 128 bits that a record holds (DESIGN CHOICE,
log entry 31). -/
def sampleData (s : State) (g : Nat) : BitVec 128 × BitVec 128 :=
  let b := sget {} g s.obs.blocks
  let c (i : Nat) : Nat := (sget 0 i b.ctr).toNat
  (BitVec.ofNat 128 ((cycleCount s).toNat + c 0 * 2 ^ 64 + c 1 * 2 ^ 112),
   BitVec.ofNat 128 (c 2 + c 3 * 2 ^ 48 + c 4 * 2 ^ 96))

/-- MARK (spec/05 R162, spec/16 Table PC-7): its trace record, with the counters where SAMPLE is set. -/
def execMark (core : BitVec 7) (stream : Bool) (s : State) : Outcome State Fault Refusal :=
  let g := core.toNat
  onOp core stream 0xA0 s fun q s =>
    let w := q.word
    let p := coreOwnerD s g
    let s := count g 0x05D 1 s
    let s := trace 1 g p (BitVec.ofNat 128
      (oF w 32 16 + q.index.toNat * 2 ^ 16 + q.stream.toNat * 2 ^ 32 + (oB w 48).toNat * 2 ^ 33)) s
    let s := if oB w 48 then
        let d := sampleData s g
        trace 2 g p d.2 (trace 2 g p d.1 s)
      else s
    runFor g q 1 0 s

/-- HALT (spec/05 R148, R162): it ends its stream. -/
def execHalt (core : BitVec 7) (stream : Bool) (s : State) : Outcome State Fault Refusal :=
  onOp core stream 0xF0 s fun _ s => s

/-! ### Completion and tokens (spec/05 R150, R151) -/

/-- A started op leaves the running ones and sends its credits. -/
def completeOp (g : Nat) (r : RunOp) (s : State) : State :=
  let s := updCore g (fun k => { k with running := k.running.erase r }) s
  sendCredit g (oSctr r.word) (oSamt r.word) s

/-- OP_COMPLETE (spec/05 R150, Table SP-8): a started op that awaits nothing more reaches its completion point, unless its
program's deadline comes first (spec/02 R51). -/
def execOpComplete (core : BitVec 7) (op : BitVec 16) (s : State) : Outcome State Fault Refusal :=
  let g := core.toNat
  match (coreOf s g).running.find? fun r => r.index = op && r.awaiting = 0 with
  | none => done s
  | some r => done (if inTime s g r.endAt then completeOp g r (untilClock r.endAt s) else s)

/-- Drop a token. -/
def dropToken (s : State) : State := { s with prog := { s.prog with dropped := s.prog.dropped + 1 } }

/-- A token of a steep reaches a counter of core `g`: applied, held for the next boundary, or dropped (spec/05 R151). -/
def landToken (g : Nat) (ctr : BitVec 6) (amount : BitVec 16) (steep : BitVec 64) (s : State) : State :=
  if ahead s.steep.k steep ≠ 0 then count g 0x056 1 (dropToken s)
  else if steep = s.steep.k then addCredit g ctr.toNat amount.toNat s
  else updCore g (fun k => { k with held := k.held ++ [(ctr, amount)] }) s

/-- The token under way that a TOKEN command delivers: the oldest with its contents that no earlier token from the same
core to the same core stands before (spec/01 R13). -/
def nextToken (s : State) (core : BitVec 7) (ctr : BitVec 6) (amount : BitVec 16) (steep : BitVec 64) : Option Token :=
  s.prog.tokens.find? fun t => t.core = core && t.ctr = ctr && t.amount = amount && t.steep = steep &&
    (s.prog.tokens.find? fun u => u.source = t.source && u.core = t.core) = some t

/-- TOKEN (spec/05 R151): a token reaches its counter. `part` is the sender's partition; a token of this module must be
under way, and tokens of one core to another arrive in sending order. -/
def execToken (core : BitVec 7) (ctr : BitVec 6) (amount : BitVec 16) (steep : BitVec 64) (part : BitVec 6)
    (remote : Bool) (s : State) : Outcome State Fault Refusal :=
  if remote then
    done (if coreOwner s core.toNat ≠ some part.toNat then dropToken s else landToken core.toNat ctr amount steep s)
  else match nextToken s core ctr amount steep with
    | none => done s
    | some t => done (landToken core.toNat ctr amount steep
        { s with prog := { s.prog with tokens := s.prog.tokens.erase t } })

end Sys2Proof.Machine
end

