-- ==== Sys2Proof/Machine/Transfers.lean ====
section
/-! DEFINITION. Transfers: the transfer descriptors of spec/05 Table SP-23, DMA ops (R159 to R161), the leaf store's reads
and tile gathers (spec/11 R313 to R321), and what failing transfers do (spec/10 Table HB-4, spec/13 R380, R384). An op
performs its descriptors at its start; it completes by OP_COMPLETE. -/

namespace Sys2Proof.Machine

open Host (Outcome)

/-! ### Serving requests of a core's steep (spec/02 R52) -/

/-- The request is one of the core's steep. -/
def ofCore (s : State) (g : Nat) (r : Request) : Bool :=
  some r.part.toNat = coreOwner s g && r.steep = some s.steep.k && (coreGroups s g).contains r.grp.toNat &&
    !isStepGroup s r.part.toNat r.grp.toNat

/-- The requests of the core's steep will complete with a status at B(k+1); a status already decided stays. -/
def failRequests (g status : Nat) (s : State) : State :=
  let mark (r : Request) : Request :=
    if ofCore s g r then { r with ending := some (r.ending.getD (BitVec.ofNat 8 status, 0)) } else r
  updAd (fun a => { a with requests := a.requests.map mark }) s

/-- A block error of a transfer of a core (spec/10 Table HB-4): FAIL[399] for a TRAIN binding, CHECKSUM for a SERVE one. -/
def transferError (g : Nat) (s : State) : State :=
  if isTrain (coreOf s g).binding then failStep 3 s else failRequests g stChecksum s

/-! ### Descriptor fields (spec/05 Table SP-23) -/

def tSrc (d : BitVec 512) : Nat := (fld d 0 64).toNat
def tDst (d : BitVec 512) : Nat := (fld d 64 64).toNat
def tLen (d : BitVec 512) : Nat := (fld d 128 32).toNat
def tSkind (d : BitVec 512) : Nat := (fld d 160 3).toNat
def tDkind (d : BitVec 512) : Nat := (fld d 163 3).toNat
def tScry (d : BitVec 512) : Nat := (fld d 166 2).toNat
def tDcry (d : BitVec 512) : Nat := (fld d 168 2).toNat
def tSlot (d : BitVec 512) : Nat := (fld d 170 13).toNat
def tGen (d : BitVec 512) : BitVec 16 := fld d 183 16
def tLdn (d : BitVec 512) : BitVec 10 := fld d 199 10
def tCrcw (d : BitVec 512) : Bool := bit d 209
def tCrcv (d : BitVec 512) : Bool := bit d 210
def tFside (d : BitVec 512) : Nat := (fld d 227 2).toNat
def tRing (d : BitVec 512) : Nat := (fld d 229 16).toNat
def tStride (d : BitVec 512) : Nat := (fld d 245 32).toNat

/-- The descriptor uses the key of its slot on a side. -/
def tKeyed (d : BitVec 512) : Bool := (1 ≤ tScry d && tScry d ≤ 2) || 1 ≤ tDcry d

/-- An address lies in tile memory. -/
def inTileRegion (a : Nat) : Bool := 0x060000000000 ≤ a && a < 0x060020000000

/-- Add the feed to the addresses that FSIDE names (spec/05 R160). -/
def withFeed (s : State) (g : Nat) (d : BitVec 512) : BitVec 512 :=
  if tRing d = 0 then d
  else
    let n := if isTrain (coreOf s g).binding then s.steep.step.toNat else s.steep.k.toNat % 2 ^ 32
    let f := n % tRing d * tStride d
    let d' := if (tFside d).testBit 0 then setFld d 0 64 (tSrc d + f) else d
    if (tFside d).testBit 1 then setFld d' 64 64 (tDst d + f) else d'

/-- The rules of spec/05 R161 that every transfer descriptor keeps, for the op class: 0 DMA engine, 1 leaf controller,
2 FAB.PUT, 3 FAB.GET. -/
def descriptorOk (cls : Nat) (d : BitVec 512) : Bool :=
  let sk := tSkind d
  let dk := tDkind d
  let sc := tScry d
  let dc := tDcry d
  fld d 277 235 = 0 && fld d 211 16 = 0 && tLen d ≠ 0 && tLen d % 64 = 0 && sk ≤ 5 && dk ≤ 5 && dc ≠ 3 &&
    (sc ≠ 1 || (sk = 1 && !inTileRegion (tSrc d))) && (dc ≠ 1 || (dk = 1 && !inTileRegion (tDst d))) &&
    (sc ≠ 2 || sk = 2 || sk = 5) && (dc ≠ 2 || dk = 2 || dk = 5) && (sc ≠ 3 || sk = 4) &&
    dk ≠ 4 && (sk ≠ 4 || (cls = 1 && (fld d 42 22) = 0)) &&
    ((dk = 5) = (cls = 2)) && ((sk = 5) = (cls = 3))

/-! ### Caddy offsets (spec/01 R17; log entry 34) -/

/-- Bytes of a partition's caddy share. -/
def shareBytes (s : State) (p : Nat) : Nat := cfg s 0x3013 (p + 1) * 0x100000

/-- Where byte `o` of a partition's share of a die's caddy lies in the package address space, outside resident blocks. -/
def caddyAddr (s : State) (die p o : Nat) : Nat :=
  0x060020000000 + die * 0x4000000 + (List.range p).foldl (fun n q => n + shareBytes s q) 0 + o

/-- The resident block at a frame of a share. -/
def frameBlock (s : State) (die p f : Nat) : Option CaddyBlock :=
  (caddyOf s die).find? fun b => b.part.toNat = p && b.frame = f

/-- Read from a share by offset. -/
def caddyRead (s : State) (die p o n : Nat) : List Byte :=
  (List.range n).map fun i =>
    match frameBlock s die p ((o + i) / 4096) with
    | some b => b.data.getD ((o + i) % 4096) 0
    | none => memByte s.mem (caddyAddr s die p (o + i))

/-- Write to a share by offset. -/
def caddyWrite (die p o : Nat) (bs : List Byte) (s : State) : State :=
  (indexed bs).foldl (fun s e =>
    let x := o + e.1
    if (frameBlock s die p (x / 4096)).isSome then
      setCaddy die ((caddyOf s die).map fun b =>
        if b.part.toNat = p && b.frame = x / 4096 then { b with data := b.data.set (x % 4096) e.2 } else b) s
    else { s with mem := memStore s.mem (caddyAddr s die p x) e.2 }) s

/-! ### The leaf store (spec/11 R313 to R317, R331) -/

/-- The half that holds a generation and is readable. -/
def halfOfGen (s : State) (gen : BitVec 16) : Option Bool :=
  [false, true].find? fun h =>
    let r := recOf s h
    gen ≠ 0 && fld r 192 16 = gen && (fld r 189 3 = 3 || fld r 189 3 = 4)

/-- The package address of image offset `o` in half `h`. -/
def leafAddr (h : Bool) (o : Nat) : Nat := 0x040000000000 + o / 2 ^ 38 % 4 * 0x8000000000 + h.toNat * 0x4000000000 + o % 2 ^ 38

/-- The package address of image offset `o` in the trial base. -/
def trialAddr (s : State) (o : Nat) : Option Nat :=
  (s.leaf.trial.extents.find? fun e => e.1 = o / 2 ^ 38 % 4 && e.2.1 = o % 2 ^ 38 / 2 ^ 32).map fun e => e.2.2 + o % 2 ^ 32

/-- The generation that a row group of a core's partition reads (spec/11 R315, R332). -/
def leafGen (s : State) (p grp : Nat) : BitVec 16 :=
  match tableOf s p grp with
  | some t => t.gen
  | none => if s.leaf.lastSelect.contains p then s.leaf.lastTrial else s.leaf.lastGen

/-- A 64-byte unit of the base, decrypted under a base-owner key. -/
def baseUnit (s : State) (k : Option BaseKey) (o : Nat) (bs : List Byte) : List Byte :=
  match k with
  | none => bs
  | some k => xtsDec (overBus s (12 + o / 2 ^ 38 % 4) k.xts) (BitVec.ofNat 128 (o / 64)) bs

/-- The segment of an image offset (spec/11: segment i covers quarter i mod 4). -/
def segmentAt (o : Nat) : Nat := 4 * (o % 2 ^ 38 / 2 ^ 26) + o / 2 ^ 38 % 4

/-- A segment of a half is damaged: DAMAGED counts it once, until the half is installed again (spec/11 R317, R327). -/
def damageSegment (h : Bool) (seg : Nat) (s : State) : State :=
  let r := recOf s h
  let n := (fld r 224 16).toNat
  let seen := s.leaf.damaged.contains (h, seg)
  if seen then s
  else updLeaf (fun l => { l with damaged := l.damaged ++ [(h, seg)] })
    (setRec h (setFld r 224 16 (min (n + 1) 65535)) s)

/-- An uncorrectable read of a half: the counts, DAMAGED and the journal (spec/11 R317). -/
def leafDamage (h : Bool) (seg : Nat) (s : State) : State :=
  updLeaf (fun l => { l with
    uncorrectable := l.uncorrectable + 1,
    lastDamaged := packR 128 [(64, s.time.toNat), (1, h.toNat), (14, seg)] }) (damageSegment h seg s)

/-- The counter block of the leaf controller of quarter `q` (spec/16 Table PC-1). -/
def leafBlockNo (q : Nat) : Nat := 0x9C + q % 4

/-- Count the units that a leaf controller reads for a core of die `die` (spec/16 Table PC-3, events 0x040 and 0x041). -/
def countLeaf (die o n : Nat) (s : State) : State :=
  (List.range n).foldl (fun s i =>
    let q := (o + 64 * i) / 2 ^ 38 % 4
    let s := count (leafBlockNo q) 0x040 1 s
    if die = q then s else count (leafBlockNo q) 0x041 1 s) s

/-- Whole 64-byte units of the base at image offset `o` (a multiple of 64), read for a core of die `die`: whether any is a
block error, the bytes, and the state. -/
def leafUnits (env : ReadEnv) (die : Nat) (gen : BitVec 16) (raw : Bool) (o n : Nat) (s : State) :
    (Bool × List Byte) × State :=
  let key (k : Option BaseKey) : Option BaseKey := if raw then none else k
  match halfOfGen s gen with
  | some h =>
    let s := countLeaf die o n s
    let us := (List.range n).map fun i => o + 64 * i
    let bad := us.filter fun x => env.leafBad.contains (leafAddr h x / 64)
    let bs := us.flatMap fun x => baseUnit s (key (if h then s.cust.base1 else s.cust.base0)) x (memRead s.mem (leafAddr h x) 64)
    ((!bad.isEmpty, bs), bad.foldl (fun s x =>
      count (leafBlockNo (segmentAt x)) 0x043 1 (leafDamage h (segmentAt x) s)) s)
  | none =>
    if (s.leaf.trial.state = 2 || s.leaf.trial.state = 3) && s.leaf.trial.gen = gen && gen ≠ 0 then
      (List.range n).foldl (fun acc i =>
        let x := o + 64 * i
        match trialAddr acc.2 x with
        | none => ((true, acc.1.2 ++ List.replicate 64 0), acc.2)
        | some a =>
          let e := if i = 0 || a % 4096 = 0 then verifyBlock env (a / 4096) acc.2 else (false, acc.2)
          let r := readStored a 64 e.2
          ((acc.1.1 || e.1, acc.1.2 ++ baseUnit e.2 (key e.2.cust.baseTrial) x r.1), r.2))
        ((false, []), countLeaf die o n s)
    else ((true, List.replicate (64 * n) 0), s)

/-- `n` bytes of the base at any image offset. -/
def leafRead (env : ReadEnv) (die : Nat) (gen : BitVec 16) (raw : Bool) (o n : Nat) (s : State) :
    (Bool × List Byte) × State :=
  if n = 0 then ((false, []), s)
  else
    let o0 := o / 64 * 64
    let r := leafUnits env die gen raw o0 ((o + n - o0 + 63) / 64) s
    ((r.1.1, (r.1.2.drop (o - o0)).take n), r.2)

/-! ### Sources (spec/05 R161) -/

/-- Pieces of plaintext in order: the length of each, and its bytes where it is not stale. -/
abbrev Pieces := List (Nat × Option (List Byte))

/-- The two sides of a descriptor pass the window check (spec/01 R17). -/
def sideOk (s : State) (p kind a n : Nat) : Bool :=
  match kind with
  | 0 => a + n ≤ 0x400000
  | 1 => windowOk s p a n
  | 3 => a + n ≤ shareBytes s p
  | _ => true

/-- Read the source of a descriptor of core `g`: the pieces, whether a block error or failed unit was met, and the
state. -/
def readSource (env : ReadEnv) (g : Nat) (d : BitVec 512) (s : State) : (Pieces × Bool) × State :=
  let p := coreOwnerD s g
  let a := tSrc d
  let n := tLen d
  match tSkind d with
  | 0 => (([(n, some (tileRead s g a n))], false), s)
  | 1 =>
    let v := if tCrcv d && !inTileRegion a then verifyRange env a n s else (false, eccRange env a n s)
    let r := if tScry d = 1 then xtsReadAt (tSlot d) a n v.2 else readStored a n v.2
    (([(n, some r.1)], v.1), r.2)
  | 2 =>
    if tScry d = 2 then
      let r := gcmTake s (tSlot d) (tGen d) (n / 64 + 1) 0 n (hostPrefix env.host a (2 * n))
      ((r.1, r.2 ≠ 0), countGcmFail r.2 (countStale (piecesStale r.1) (countHostRead (gcmLen n) s)))
    else
      (match hostRead env.host a n with
        | some bs => (([(n, some bs)], false), countHostRead n s)
        | none => (([(n, some (List.replicate n 0))], true), countGcmFail 1 s))
  | 3 => (([(n, some (caddyRead s (g / 32) p a n))], false), s)
  | _ =>
    let r := leafRead env (g / 32) (leafGen s p (a / 2 ^ 40 % 4)) (tScry d = 0) (a % 2 ^ 40) n s
    (([(n, some r.1.2)], r.1.1), r.2)

/-! ### Destinations -/

/-- Write plaintext bytes at any package address under a slot's key, as whole units. -/
def xtsWriteAny (slot : Nat) (crc : Bool) (a : Nat) (bs : List Byte) (s : State) : State :=
  if a % 64 = 0 && bs.length % 64 = 0 then xtsWrite slot crc a bs s
  else
    let a0 := a / 64 * 64
    let n := (a + bs.length - a0 + 63) / 64 * 64
    let (old, s) := xtsRead slot a0 n s
    xtsWrite slot crc a0 (old.take (a - a0) ++ bs ++ old.drop (a - a0 + bs.length)) s

/-- Write bytes at a package address in tile memory, core after core. -/
def tilesWrite (a : Nat) (bs : List Byte) (s : State) : State :=
  (List.range 128).foldl (fun s g =>
    let lo := max a (tileBase g)
    let n := min (a + bs.length) (tileBase (g + 1)) - lo
    if n = 0 then s else tileWrite g (lo - tileBase g) ((bs.drop (lo - a)).take n) s) s

/-- The parts of a range of package addresses that lie in tile memory, core by core. -/
def tileParts (a n : Nat) : List (Nat × MemRange) :=
  (List.range 128).filterMap fun g =>
    let lo := max a (tileBase g)
    let m := min (a + n) (tileBase (g + 1)) - lo
    if m = 0 then none else some (g, .tile, lo - tileBase g, m)

/-- What the source of a descriptor of core `g` reads of tile memories (spec/03 R90). -/
def sourceTiles (g : Nat) (d : BitVec 512) : List (Nat × MemRange) :=
  match tSkind d with
  | 0 => [(g, .tile, tSrc d, tLen d)]
  | 1 => tileParts (tSrc d) (tLen d)
  | _ => []

/-- A read of tile memories meets an uncorrectable word. -/
def tilesFail (s : State) (rs : List (Nat × MemRange)) : Bool := rs.any fun r => readFails s r.1 [r.2]

/-- The correctable words that a read of tile memories meets. -/
def tilesCorrect (rs : List (Nat × MemRange)) (s : State) : State := rs.foldl (fun s r => correctReads r.1 [r.2] s) s

/-- Write bytes at a package address that is in tile memory or in HBM, logged for partition `p`. -/
def packageWrite (p : Nat) (key : Option Nat) (crc : Bool) (a : Nat) (bs : List Byte) (s : State) : State :=
  if inTileRegion a then tilesWrite a bs s
  else logMem p a bs.length (match key with
    | some slot => xtsWriteAny slot crc a bs s
    | none => writeStored crc a bs s)

/-- The plaintext of whole GCM destination units of 4,096 bytes: none for a unit with a stale byte (spec/13 R384). -/
def destUnits (ps : Pieces) : List (Option (List Byte)) :=
  let all : List (Option Byte) := ps.flatMap fun p => match p.2 with
    | some bs => bs.map some
    | none => List.replicate p.1 none
  (chunk 4096 (all.length / 4096 + 1) all).map fun u => if u.all Option.isSome then some (u.filterMap id) else none

/-- One GCM unit of a transfer's destination stream; none where the encrypting unit has no nonce left. -/
def sealOne (unit slot seq : Nat) (bs : List Byte) (s : State) : Option (List Byte) × State :=
  let k := slotOf s slot
  match k.cur with
  | none => (none, s)
  | some key => match nextNonce unit s with
    | (none, s) => (none, s)
    | (some nonce, s) => (some (gcmUnit (gcmKeyAt s key) nonce seq slot k.gen k.parity bs), s)

/-- Apply `f` to each piece that is not stale, with its offset. -/
def eachPiece (f : Nat → List Byte → State → State) (ps : Pieces) (s : State) : State :=
  (ps.foldl (fun acc p => (acc.1 + p.1, match p.2 with
    | some bs => f acc.1 bs acc.2
    | none => acc.2)) ((0 : Nat), s)).2

/-- Write the destination of a descriptor of core `g`; false where no nonce is left. -/
def writeDest (g : Nat) (d : BitVec 512) (ps : Pieces) (s : State) : Bool × State :=
  let p := coreOwnerD s g
  let a := tDst d
  match tDkind d with
  | 0 => (true, eachPiece (fun o bs => tileWrite g (a + o) bs) ps s)
  | 1 => (true, eachPiece (fun o bs =>
      packageWrite p (if tDcry d = 1 then some (tSlot d) else none) (tCrcw d) (a + o) bs) ps s)
  | 3 => (true, eachPiece (fun o bs => caddyWrite (g / 32) p (a + o) bs) ps s)
  | _ =>
    if tDcry d = 2 then
      (indexed (destUnits ps)).foldl (fun acc u => match u.2 with
        | none => acc
        | some bs => match sealOne g (tSlot d) u.1 bs acc.2 with
          | (none, s) => (false, s)
          | (some unit, s) => (acc.1, hostWrite p (a + 4160 * u.1) unit s)) (true, s)
    else (true, eachPiece (fun o bs => hostWrite p (a + o) bs) ps s)

/-! ### Tile gathers (spec/11 R319 to R321, spec/04 R104 to R108, spec/08 R240) -/

def gWfmt (d : BitVec 512) : Nat := (fld d 508 3).toNat
def gT (d : BitVec 512) : Bool := bit d 507
def gKb (d : BitVec 512) : Nat := (fld d 489 16).toNat
def gNb (d : BitVec 512) : Nat := (fld d 473 16).toNat

/-- The stored block of each tile block in tile order, none for one beyond the tensor: for T = 0 12 block-rows of 16, for
T = 1 16 stored block-rows of 12. -/
def gatherBlocks (d : BitVec 512) : List (Option Nat) :=
  let b0 := (fld d 457 16).toNat
  let a0 := (fld d 441 16).toNat
  let cols := if gT d then 12 else 16
  (List.range 192).map fun j =>
    let r := b0 + j / cols
    let c := a0 + j % cols
    if gKb d ≤ r || gNb d ≤ c then none else some (r * gNb d + c)

/-- What a gather reads for one stored block: codes, scale, count code and used outlier entries. -/
structure StoredBlock where
  codes : List Byte
  scale : Byte
  cnt : Nat
  outliers : List Byte

/-- The bytes of one stored block, as (first image offset, length): codes, scale, counts and the four outlier entries. -/
def blockRanges (d : BitVec 512) (j : Nat) : List (Nat × Nat) :=
  let sz := blockSize (gWfmt d)
  [((fld d 401 40).toNat + j * sz, sz), ((fld d 361 40).toNat + j, 1), ((fld d 321 40).toNat + j / 4, 1),
   ((fld d 281 40).toNat + 12 * j, 12)]

/-- The 64-byte units that a gather reads, each once (spec/11 R321). -/
def gatherUnits (d : BitVec 512) : List Nat :=
  ((gatherBlocks d).filterMap id).foldl (fun us j => (blockRanges d j).foldl (fun us r =>
    (List.range ((r.1 + r.2 - 1) / 64 - r.1 / 64 + 1)).foldl (fun us i =>
      if us.contains (r.1 / 64 + i) then us else us ++ [r.1 / 64 + i]) us) us) []

/-- Bytes of the units read, by image offset. -/
def unitBytes (us : List (Nat × List Byte)) (o n : Nat) : List Byte :=
  (List.range n).map fun i => match us.find? fun u => u.1 = (o + i) / 64 with
    | some u => u.2.getD ((o + i) % 64) 0
    | none => 0

/-- One stored block out of the units read. -/
def storedBlock (d : BitVec 512) (us : List (Nat × List Byte)) (j : Nat) : StoredBlock :=
  let sz := blockSize (gWfmt d)
  let code := bits (((unitBytes us ((fld d 321 40).toNat + j / 4) 1).getD 0 0).toNat) (2 * (j % 4)) 2
  { codes := unitBytes us ((fld d 401 40).toNat + j * sz) sz,
    scale := (unitBytes us ((fld d 361 40).toNat + j) 1).getD 0 0, cnt := code,
    outliers := unitBytes us ((fld d 281 40).toNat + 12 * j) (3 * codeCount code) }

/-- The count table of a tile: four 2-bit codes in a byte. -/
def packCounts : List Nat → List Byte
  | a :: b :: c :: d :: l => BitVec.ofNat 8 (a + 4 * b + 16 * c + 64 * d) :: packCounts l
  | _ => []

/-- A tile gather: the tile and its side data in tile memory. -/
def tileGather (env : ReadEnv) (g : Nat) (d : BitVec 512) (s : State) : State :=
  let gen := leafGen s (coreOwnerD s g) (fld d 505 2).toNat
  let zero : StoredBlock := { codes := List.replicate (blockSize (gWfmt d)) 0, scale := 0, cnt := 0, outliers := [] }
  let r := (gatherUnits d).foldl (fun (acc : (Bool × List (Nat × List Byte)) × State) u =>
    let x := leafUnits env (g / 32) gen false (64 * u) 1 acc.2
    ((acc.1.1 || x.1.1, acc.1.2 ++ [(u, x.1.2)]), x.2)) ((false, []), s)
  let bs := (gatherBlocks d).map fun j => match j with
    | none => zero
    | some j => storedBlock d r.1.2 j
  let side := (bs.map fun b => b.scale) ++ packCounts (bs.map fun b => b.cnt) ++ bs.flatMap fun b => b.outliers
  let s := tileWrite g (64 * (fld d 265 16).toNat) (bs.flatMap fun b => b.codes) r.2
  let s := tileWrite g (64 * (fld d 249 16).toNat) side s
  let s := count (leafBlockNo ((fld d 401 40).toNat / 2 ^ 38)) 0x042 1
    (countMoved g ((bs.flatMap fun b => b.codes).length + side.length) s)
  if r.1.1 then transferError g s else s

/-! ### DMA ops (spec/05 R159 to R161) -/

/-- Blocks of 4 KiB that a transfer of `n` bytes moves. -/
def blockCount (n : Nat) : Nat := (n + 4095) / 4096

/-- Perform one transfer descriptor: none where it goes well, else the program fault code. -/
def transferOne (env : ReadEnv) (g : Nat) (leaf : Bool) (d0 : BitVec 512) (s : State) : Option Nat × State :=
  if leaf && bit d0 511 then
    (if gWfmt d0 ≤ 2 && fld d0 0 249 = 0 then (none, tileGather env g d0 s) else (some 2, s))
  else if !descriptorOk leaf.toNat d0 then (some 2, s)
  else
    let d := withFeed s g d0
    let p := coreOwnerD s g
    if !sideOk s p (tSkind d) (tSrc d) (tLen d) || !sideOk s p (tDkind d) (tDst d) (tLen d) then (some 6, s)
    else if tKeyed d && !pairOk s (tSlot d) (tGen d) then (none, countStale (blockCount (tLen d)) s)
    else
      if tilesFail s (sourceTiles g d) then (some 7, s)
      else
        let r := readSource env g d (countMoved g (tLen d) (tilesCorrect (sourceTiles g d) s))
        let w := writeDest g d r.1.1 r.2
        if !w.1 then (some 2, w.2) else (none, if r.1.2 then transferError g w.2 else w.2)

/-- The descriptors that a transfer op names: 64 bytes each from DADDR, in tile memory. -/
def opDescriptors (s : State) (g : Nat) (w : BitVec 128) : List (BitVec 512) :=
  (List.range (oF w 48 8 + 1)).map fun i => BitVec.ofNat 512 (tileNat s g (64 * oF w 32 16 + 64 * i) 64)

/-- Perform the descriptors in order until one faults. -/
def transferAll (f : BitVec 512 → State → Option Nat × State) : List (BitVec 512) → State → Option Nat × State
  | [], s => (none, s)
  | d :: ds, s => match f d s with
    | (none, s) => transferAll f ds s
    | (some c, s) => (some c, s)

/-- A transfer op ends its start: it runs for `n` more answers, or its fault stops the core. -/
def transferEnd (g : Nat) (q : QOp) (r : Option Nat × State) (n : Nat) : State :=
  match r.1 with
  | none => runFor g q 1 n r.2
  | some 7 => eccAbort g q r.2
  | some c => startFault g q c r.2

/-- The tile memory that a transfer op's descriptors occupy. -/
def descriptorRange (w : BitVec 128) : List (Nat × Nat) := [(64 * oF w 32 16, 64 * (oF w 48 8 + 1))]

/-- A DMA op of core `g` for engine `e` of its die waits for the engine alone. -/
def engineWanted (s : State) (e g : Nat) : Bool :=
  [false, true].any fun b => (starting s g 0x70 b).any fun q => oF q.word 56 4 = e

/-- It is core `g`'s turn at engine `e`: in the order of the die's cores from the one after the core last served, no core
with a waiting op stands before it (spec/05 R159; an op's descriptors are served together). -/
def engineTurn (s : State) (e g : Nat) : Bool :=
  let base := g / 32 * 32
  let last := sget 0 (16 * (g / 32) + e) s.prog.engines % 32
  let place (x : Nat) : Nat := (x % 32 + 31 - last) % 32
  (List.range 32).all fun i => !(place (base + i) < place g) || !engineWanted s e (base + i)

/-- DMA (spec/05 R159). -/
def execDma (core : BitVec 7) (stream : Bool) (env : ReadEnv) (s : State) : Outcome State Fault Refusal :=
  let g := core.toNat
  if !((starting s g 0x70 stream).all fun q => engineTurn s (oF q.word 56 4) g) then done s else
  onOp core stream 0x70 (bringUpsets g env s) fun q s =>
    withReads g q (descriptorRange q.word) s fun s =>
      let e := oF q.word 56 4
      let s := { s with prog := { s.prog with engines := sput 0 (16 * (g / 32) + e) g s.prog.engines } }
      transferEnd g q (transferAll (transferOne env g (e = 8)) (opDescriptors s g q.word) s) 0

end Sys2Proof.Machine
end

