-- ==== Sys2Proof/Machine/Leaf.lean ====
section
/-! DEFINITION. The leaf base store (spec/11): manifests, installs and their chain, the patrol, the release of a RETAINED
half, and the trial base. -/

namespace Sys2Proof.Machine

open Host (Outcome)

/-! ### Manifests (spec/11 R318, R319, Tables LF-2 to LF-4) -/

/-- `n` bytes of a byte list from an offset, as a number. -/
def bytesAt (bs : List Byte) (o n : Nat) : Nat := leNat ((bs.drop o).take n)

def manNseg (m : List Byte) : Nat := bytesAt m 4 4
def manNtens (m : List Byte) : Nat := bytesAt m 8 4
def manKeyId (m : List Byte) : BitVec 128 := BitVec.ofNat 128 (bytesAt m 16 16)

/-- Where the tensor directory and the signature start. -/
def manDir (m : List Byte) : Nat := (0x100 + 32 * manNseg m + 63) / 64 * 64
def manSig (m : List Byte) : Nat := manDir m + 64 * manNtens m

/-- The length of a manifest, signature included. -/
def manLen (m : List Byte) : Nat := manSig m + 3309

/-- The first 16 bytes of the image digest. -/
def manDigest (m : List Byte) : BitVec 128 := fld (Config.shake256 m 256) 0 128

/-- The entry of segment `i`: the SHAKE256 output over its ciphertext. -/
def manEntry (m : List Byte) (i : Nat) : BitVec 256 := BitVec.ofNat 256 (bytesAt m (0x100 + 32 * i) 32)

/-- A segment of 64 MiB agrees with its manifest entry. -/
def segmentGood (m : List Byte) (i : Nat) (bs : List Byte) : Bool :=
  bs.length = 2 ^ 26 && Config.shake256 bs 256 = manEntry m i

/-- A region of `n` bytes at image offset `o`: 4 KiB aligned, in one quarter, and within `nseg` segments. -/
def regionOk (nseg o n : Nat) : Bool :=
  o % 4096 = 0 && o / 2 ^ 38 = (o + n - 1) / 2 ^ 38 && o / 2 ^ 38 < 4 && segmentAt (o + n - 1) < nseg

/-- A tensor directory entry keeps the rules of R319 and the ranges of Table LF-4. -/
def dirOk (nseg : Nat) (e : BitVec 512) : Bool :=
  let kb := (fld e 304 16).toNat
  let nb := (fld e 288 16).toNat
  let w := (fld e 285 3).toNat
  let n := kb * nb
  let c := (fld e 472 40).toNat
  let sc := (fld e 432 40).toNat
  let ct := (fld e 392 40).toNat
  let ol := (fld e 352 40).toNat
  1 ≤ kb && 1 ≤ nb && w ≤ 2 && (fld e 343 8) ≠ 255 &&
  regionOk nseg c (n * (if w = 2 then 52 else 128)) && regionOk nseg sc n && regionOk nseg ct ((n + 3) / 4) &&
  regionOk nseg ol (12 * n) &&
  c / 2 ^ 38 = sc / 2 ^ 38 && c / 2 ^ 38 = ct / 2 ^ 38 && c / 2 ^ 38 = ol / 2 ^ 38

/-- Step 2 of R325: MAGIC, VERSION, the directory rules, and every region within NSEG segments. -/
def manifestForm (m : List Byte) : Bool :=
  bytesAt m 0 2 = 0xB45E && bytesAt m 2 1 = 1 &&
  1 ≤ manNseg m && manNseg m ≤ 16384 && 1 ≤ manNtens m && manNtens m ≤ 65536 && manLen m ≤ m.length &&
  (List.range (manNtens m)).all fun i => dirOk (manNseg m) (BitVec.ofNat 512 (bytesAt m (manDir m + 64 * i) 64))

/-- Step 3 of R325 with a base key record: the signature and KEYID. -/
def manifestSigned (k : Option BaseKey) (m : List Byte) : Bool :=
  match k with
  | none => false
  | some k => manKeyId m = k.keyId &&
      Config.mlDsaVerify k.verify "AQ1224-BASE" (m.take (manSig m)) ((m.drop (manSig m)).take 3309)

/-! ### Halves -/

/-- The base key record of a half. -/
def baseKeyOf (s : State) (h : Bool) : Option BaseKey := if h then s.cust.base1 else s.cust.base0

/-- The manifest of the image that a half holds. -/
def manifestOf (s : State) (h : Bool) : List Byte := if h then s.leaf.man1 else s.leaf.man0

/-- Replace the manifest of a half. -/
def setManifest (h : Bool) (m : List Byte) (s : State) : State :=
  updLeaf (fun l => if h then { l with man1 := m } else { l with man0 := m }) s

/-- The package address of segment `i` of half `h` (spec/11: quarter i mod 4, quarter offset (i >> 2) × 64 MiB). -/
def segmentAddr (h : Bool) (i : Nat) : Nat := leafAddr h (i % 4 * 2 ^ 38 + i / 4 * 2 ^ 26)

/-- A half becomes STAGED, or is activated: the measured event 0x0102 (spec/13 Table CU-5). -/
def measureHalf (h : Bool) (s : State) : State :=
  let r := recOf s h
  measure 1 0x0102 (measData [(16, h.toNat), (16, (fld r 384 128).toNat), (16, (fld r 192 16).toNat)]) s

/-! ### Installs (spec/11 R323 to R326) -/

/-- Fields of Table LF-8. -/
def iSrc (p : BitVec 512) : Nat := (fld p 0 2).toNat
def iHalf (p : BitVec 512) : Bool := bit p 2
def iHaddr (p : BitVec 512) : Nat := (fld p 272 64).toNat
def iPred (p : BitVec 512) : BitVec 16 := fld p 240 16
def iSucc (p : BitVec 512) : BitVec 16 := fld p 256 16
def iStage (p : BitVec 512) : Nat := (fld p 336 48).toNat
def iDigest (p : BitVec 512) : BitVec 128 := fld p 384 128

/-- There is no successor. -/
def iLast (p : BitVec 512) : Bool := iSucc p = 0xFFFF

/-- Apply `f` to the install in progress. -/
def updInstall (f : Install → Install) (s : State) : State :=
  updLeaf (fun l => { l with install := l.install.map f }) s

/-- Send to the successor, where there is one. -/
def toSucc (p : BitVec 512) (x : Packet) (s : State) : State := if iLast p then s else send (.sna (iSucc p)) x s

/-- The place of segment `i` in the staging area, which holds 16 (DESIGN CHOICE, log entry 37: place i mod 16). -/
def stagingPlace (p : BitVec 512) (i : Nat) : Nat := iStage p + i % 16 * 2 ^ 26

/-- An install ends with a status: a half of SRC 0 or 1 returns to EMPTY unless the status is OK, and a failure sends a
break notice to the successor (spec/11 R326). -/
def endInstall (ok : Bool) (status : BitVec 8) (s : State) : State :=
  match s.leaf.install with
  | none => s
  | some i =>
    let h := iHalf i.params
    let s := updLeaf (fun l => { l with install := none, lastStatus := status, lastHalf := h }) s
    if ok then s
    else
      let s := if iSrc i.params = 2 then s else setRec h (emptyRec (recOf s h)) s
      toSucc i.params (.breakNotice status) s

/-- The install forwards one segment for each credit, in index order: from staging, or with SRC 2 from its own half. -/
def forwardSegments : Nat → State → State
  | 0, s => s
  | fuel + 1, s =>
    match s.leaf.install with
    | none => s
    | some i =>
      let n := i.forwarded
      let own := iSrc i.params = 2
      if iLast i.params || i.credits = 0 || i.manifest.isNone || !(if own then n < manNseg (i.manifest.getD []) else i.staged.contains n)
      then s
      else
        let bs := memRead s.mem (if own then segmentAddr (iHalf i.params) n else stagingPlace i.params n) (2 ^ 26)
        let s := send (.sna (iSucc i.params)) (.segment (BitVec.ofNat 14 n) bs) s
        forwardSegments fuel (updInstall (fun i => { i with credits := i.credits - 1, forwarded := n + 1 }) s)

/-- The successor asks for a segment once more (spec/11 R326): it is read from its staging place, or from the half. -/
def resendSegment (n : Nat) (s : State) : State :=
  match s.leaf.install with
  | none => s
  | some i =>
    let staged := i.staged.contains n
    if iLast i.params || i.forwarded ≤ n || !(staged || iSrc i.params = 2 || i.done.contains n) then s
    else
      let bs := memRead s.mem (if staged then stagingPlace i.params n else segmentAddr (iHalf i.params) n) (2 ^ 26)
      send (.sna (iSucc i.params)) (.segment (BitVec.ofNat 14 n) bs) s

/-- The bytes of a delivery to an install (spec/11 R325): with SRC 1 a packet's, with SRC 0 what host memory answers to a
read of at most `n` bytes at `a`, which the module counts. None for a delivery of another source. -/
def delivered (p : BitVec 512) (d : Delivery) (a n : Nat) (s : State) : Option (List Byte × State) :=
  match d, iSrc p with
  | .packet bs, 1 => some (bs, s)
  | .host mem, 0 => let bs := hostPrefix mem a n; some (bs, countHostRead bs.length s)
  | _, _ => none

/-- Segments that are programmed and forwarded leave staging; each free place grants the predecessor a credit. -/
def freeStaging (s : State) : State :=
  match s.leaf.install with
  | none => s
  | some i =>
    let gone (n : Nat) : Bool := i.done.contains n && (iLast i.params || n < i.forwarded)
    let s := (i.staged.filter gone).foldl (fun s _ =>
      if iSrc i.params = 1 then send (.sna (iPred i.params)) .installCredit s else s) s
    updInstall (fun i => { i with staged := i.staged.filter fun n => !gone n }) s

/-- The install ends with OK once every segment is programmed, verified and forwarded: the half record is written and the
half becomes STAGED. With SRC 2, once every segment is forwarded, its own half as it is. -/
def tryFinishInstall (s : State) : State :=
  match s.leaf.install with
  | none => s
  | some i =>
    match i.manifest with
    | none => s
    | some m =>
      let p := i.params
      let h := iHalf p
      let sent := iLast p || i.forwarded = manNseg m
      if iSrc p = 2 then (if sent then endInstall true 0 s else s)
      else if sent && i.done.length = manNseg m then
        let r := setFld (setFld (setFld (recOf s h) 384 128 (manDigest m).toNat) 256 128 (manKeyId m).toNat) 208 16 (manNseg m)
        endInstall true 0 (measureHalf h (setRec h (setRecState r 2) s))
      else s

/-- Forwarding, freed places and the end, after any progress of an install. -/
def installProgress (s : State) : State := tryFinishInstall (freeStaging (forwardSegments 16384 s))

/-- A write of a parameter block to 0x8300:01: the state with the install begun, none where the module refuses it with
CONFIG_REJECTED (spec/11 R324). One install runs at a time; with SRC 2 the half must be STAGED with DIGEST. -/
def beginInstall (p : BitVec 512) (s : State) : Option State :=
  let h := iHalf p
  let st := halfState s h
  let own := iSrc p = 2
  let installs := (fld (recOf s h) 240 16).toNat
  if iSrc p = 3 || fld p 3 237 ≠ 0 || s.leaf.install.isSome || (st ≠ 0 && st ≠ 2) || halfState s (!h) = 1 ||
      2000 ≤ installs || (baseKeyOf s h).isNone then none
  else if own && (st ≠ 2 || fld (recOf s h) 384 128 ≠ iDigest p) then none
  else if !own && (iStage p % 4096 ≠ 0 || !inWindows s 0 (iStage p) (2 ^ 30)) then none
  else
    let i : Install := { params := p, lastData := s.clock, manifest := if own then some (manifestOf s h) else none }
    let s := updLeaf (fun l => { l with install := some i, lastStatus := 0xFF, lastHalf := h, segments := 0 }) s
    if own then some (installProgress (toSucc p (.manifest (manifestOf s h)) s))
    else some (setRec h (setRecState (setFld (recOf s h) 240 16 (min (installs + 1) 65535)) 1) s)

/-- INSTALL_BEGIN (spec/11 R324): a write to 0x8300:01. -/
def execInstallBegin (params : BitVec 512) (s : State) : Outcome State Fault Refusal :=
  done ((beginInstall params s).getD s)

/-- A write of 1 to 0x8300:02 aborts the install; its status code is not stated (a free value, log entry 6). -/
def abortInstall (s : State) : State :=
  if s.leaf.install.isSome then
    let v := fresh 8 s
    endInstall false v.1 v.2
  else s

/-- INSTALL_ABORT (spec/11 R323). -/
def execInstallAbort (s : State) : Outcome State Fault Refusal := done (abortInstall s)

/-- MANIFEST (spec/11 R325 steps 1 to 5): read from HADDR with SRC 0, from the predecessor with SRC 1; checked, verified and forwarded. Nothing is erased before step 3 passes. -/
def execManifest (from_ : Delivery) (s : State) : Outcome State Fault Refusal :=
  match s.leaf.install with
  | none => done s
  | some i =>
    let p := i.params
    let h := iHalf p
    match delivered p from_ (iHaddr p) 0x800000 s, i.manifest with
    | some (data, s), none =>
      let s := updInstall (fun i => { i with lastData := s.clock }) s
      if !manifestForm data then done (endInstall false 0x09 s)
      else
        let m := data.take (manLen data)
        if !manifestSigned (baseKeyOf s h) m || manDigest m ≠ iDigest p then done (endInstall false 0x0B s)
        else
          let s := updLeaf (fun l => { l with damaged := l.damaged.filter fun d => d.1 ≠ h }) s
          let s := setManifest h m (setRec h (setRecState (emptyRec (recOf s h)) 1) s)
          let s := toSucc p (.manifest m) (updInstall (fun i => { i with manifest := some m }) s)
          done (if iSrc p = 1 then (List.range 16).foldl (fun s _ => send (.sna (iPred p)) .installCredit s) s else s)
    | _, _ => done s

/-- SEGMENT_DATA (spec/11 R325 steps 5 and 6, R326): the next segment comes from the predecessor or from the host's image
at HADDR + 8 MiB, is checked in staging, and is forwarded when the successor has a place. A segment whose check fails is
requested once more: from the host by the next delivery, from the predecessor with a request. -/
def execSegmentData (index : BitVec 14) (from_ : Delivery) (s : State) : Outcome State Fault Refusal :=
  match s.leaf.install with
  | none => done s
  | some i =>
    let n := index.toNat
    match i.manifest, delivered i.params from_ (iHaddr i.params + 0x800000 + n * 2 ^ 26) (2 ^ 26) s with
    | none, _ => done s
    | some _, none => done (if from_ = .again then resendSegment n s else s)
    | some m, some (data, t) =>
      if n ≠ i.nextSeg || manNseg m ≤ n || 16 ≤ i.staged.length then done s
      else
        let s := t
        let s := updInstall (fun i => { i with lastData := s.clock }) s
        let s := writeStored false (stagingPlace i.params n) data s
        if segmentGood m n data then
          done (installProgress (updInstall (fun i => { i with nextSeg := n + 1, staged := i.staged ++ [n] }) s))
        else if i.retried.contains n then done (endInstall false 0x07 s)
        else
          let s := updInstall (fun i => { i with retried := i.retried ++ [n] }) s
          done (if iSrc i.params = 1 then send (.sna (iPred i.params)) (.segmentRequest index) s else s)

/-- SEGMENT_PROGRAMMED (spec/11 R317, R325 steps 6 to 8, R326): the segment's area holds what it reads back. -/
def execSegmentProgrammed (index : BitVec 14) (readback : LeafAnswer) (s : State) : Outcome State Fault Refusal :=
  match s.leaf.install with
  | none => done s
  | some i =>
    let n := index.toNat
    match i.manifest with
    | none => done s
    | some m =>
      if !i.staged.contains n || i.done.contains n || readback.bytes.length ≠ 2 ^ 26 then done s
      else
        let s := storeBytes (segmentAddr (iHalf i.params) n) readback.bytes s
        let s := if readback.uncorrectable then leafDamage (iHalf i.params) n s else s
        let s := count (leafBlockNo n) 0x045 (2 ^ 20) s
        if segmentGood m n readback.bytes && !readback.uncorrectable then
          let s := updLeaf (fun l => { l with segments := l.segments + 1 }) s
          done (installProgress (updInstall (fun i => { i with done := i.done ++ [n] }) s))
        else done (endInstall false 0x07 s)

/-- INSTALL_CREDIT (spec/11 R325 step 5): the successor has a free place. -/
def execInstallCredit (s : State) : Outcome State Fault Refusal :=
  done (installProgress (updInstall (fun i => { i with credits := i.credits + 1 }) s))

/-- INSTALL_TIMEOUT (spec/11 R326): no manifest byte or segment for 10 s while one is awaited. -/
def execInstallTimeout (s : State) : Outcome State Fault Refusal :=
  match s.leaf.install with
  | none => done s
  | some i =>
    let waiting := match i.manifest with
      | none => true
      | some m => decide (i.nextSeg < manNseg m)
    onlyIf (iSrc i.params ≠ 2 && waiting) s fun s =>
      endInstall false 0x0C (untilClock (i.lastData + 10000000 * cyclesPerUs) s)

/-- BREAK_NOTICE (spec/11 R326): the successor's install ends with the same status, and the notice goes on. -/
def execBreakNotice (status : BitVec 8) (s : State) : Outcome State Fault Refusal :=
  match s.leaf.install with
  | none => done s
  | some i => onlyIf (iSrc i.params = 1 && status ≠ 0) s (endInstall false status)

/-- LEAF_PATROL (spec/11 R317, R327): a segment of a STAGED, ACTIVE or RETAINED half is read and checked. -/
def execLeafPatrol (half : Bool) (index : BitVec 14) (data : LeafAnswer) (s : State) : Outcome State Fault Refusal :=
  let st := halfState s half
  onlyIf (2 ≤ st && st ≤ 4 && index.toNat < (fld (recOf s half) 208 16).toNat) s fun s =>
    let s := count (leafBlockNo index.toNat) 0x046 1 s
    if data.uncorrectable then leafDamage half index.toNat s
    else if segmentGood (manifestOf s half) index.toNat data.bytes then s
    else damageSegment half index.toNat s

/-! ### Releases (spec/11 R329, R333) -/

/-- A generation is in use at the present boundary: a row group has a table with it, or an admitted request is bound to
it. -/
def genInUse (s : State) (g : BitVec 16) : Bool :=
  (s.ad.tables.any fun e => match e.2 with | some t => t.gen = g | none => false) ||
  s.ad.requests.any fun r => r.steep.isSome && r.baseGen = g

/-- What a released generation takes with it: its descriptors, sequences and tree entries (spec/06 R201, spec/07 R219). -/
def dropGen (g : BitVec 16) (s : State) : State := kvBaseReleased g (invalidateDescs 1 (fun d => dBaseGen d = g) s)

/-- HALF_RELEASE (spec/11 R329). -/
def execHalfRelease (s : State) : Outcome State Fault Refusal :=
  match [false, true].find? fun h => halfState s h = 4 with
  | none => done s
  | some h =>
    let g := fld (recOf s h) 192 16
    onlyIf (atBoundary s && !genInUse s g) s fun s =>
      let s := measureHalf h (setRec h (setRecState (recOf s h) 2) s)
      dropGen g (updLeaf (fun l => { l with retainedGen := 0 }) s)

/-- Trial extents are zeroised and go back to the windows: no trial is left but the count of loads. -/
def returnExtents (s : State) : State :=
  let t := s.leaf.trial
  let s := t.extents.foldl (fun s e =>
    let s := { s with mem := memZero s.mem e.2.2 0x100000000 }
    { s with hbm := { s.hbm with blocks := s.hbm.blocks.filter fun b =>
        b.1 < e.2.2 / 4096 || (e.2.2 + 0x100000000) / 4096 ≤ b.1 } }) s
  updLeaf (fun l => { l with trial := { loads := t.loads } }) s

/-- The measured event of a trial base loaded or released (spec/13 Table CU-5). -/
def measureTrial (s : State) : State :=
  measure 1 0x0103 (measData [(16, s.leaf.trial.digest.toNat), (16, s.leaf.trial.gen.toNat)]) s

/-! ### The trial base (spec/11 R330 to R333) -/

/-- One entry of an extent list: quarter, index, package address; none where a bound or a zero byte is broken. -/
def extentEntry (bs : List Byte) : Option (Nat × Nat × Nat) :=
  let q := bytesAt bs 8 1
  let j := bytesAt bs 9 1
  if q < 4 && j < 32 && bytesAt bs 10 6 = 0 then some (q, j, bytesAt bs 0 8) else none

/-- Two extents do not overlap, and do not hold the same part of the image. -/
def extentsApart (a b : Nat × Nat × Nat) : Bool :=
  (a.2.2 + 0x100000000 ≤ b.2.2 || b.2.2 + 0x100000000 ≤ a.2.2) && (a.1, a.2.1) ≠ (b.1, b.2.1)

/-- The extent that segment `i` needs. -/
def segmentExtent (i : Nat) : Nat × Nat := (i % 4, i / 4 * 2 ^ 26 / 2 ^ 32)

/-- The rules of R330 for an image of `nseg` segments and extents of partition `p`: every extent that the image uses is
listed, and starts at the first byte of a pseudo-channel's user region on a stack of its die. -/
def extentsOk (s : State) (p nseg : Nat) (es : List (Nat × Nat × Nat)) : Bool :=
  nseg ≤ 8192 && decide (es.Pairwise fun a b => extentsApart a b = true) &&
  (es.all fun e => e.2.2 % 4096 = 0 && inWindows s p e.2.2 0x100000000) &&
  (List.range nseg).all fun i => es.any fun e => (e.1, e.2.1) = segmentExtent i &&
    (match hbmStack e.2.2, logicalPc e.2.2 with
     | some st, some l => st / 3 = e.1 && !isLost s st l && pcOffset e.2.2 = 0
     | _, _ => false)

/-- TRIAL_LOAD (opcode 0x60; spec/11 R330, R331): the extents leave the windows, and the copy starts. -/
def execTrialLoad (host : HostMem) (s : State) : Outcome State Fault Refusal :=
  onHead 0x60 s fun c s =>
    let p := c.part.toNat
    let n := bits (cP0 c.word) 0 8
    if (p ≠ 0 && !(cfg s 0x3016 (p + 1)).testBit 0) || s.leaf.trial.state ≠ 0 then finish c.id stNotPermitted 0 0 s
    else if n = 0 || 128 < n then finish c.id stFormat 0 0 s
    else match hostRead host (cAddr1 c.word) (16 * n) with
      | none => finish c.id stChecksum 0 0 (countGcmFail 1 s)
      | some l =>
        let m := hostPrefix host (cAddr0 c.word) 0x800000
        let s := countHostRead (16 * n + m.length) s
        match (chunk 16 n l).mapM extentEntry with
        | none => finish c.id stFormat 0 0 s
        | some es =>
          if m.length < 256 then finish c.id stChecksum 0 0 (countGcmFail 1 s)
          else if !manifestForm m || !extentsOk s p (manNseg m) es then finish c.id stFormat 0 0 s
          else
            let m := m.take (manLen m)
            if !manifestSigned s.cust.baseTrial m then finish c.id stNotPermitted 0 0 s
            else
              takeUp c.id (updLeaf (fun l => { l with trial := { l.trial with
                state := 1, gen := 0, owner := c.part, extents := es, digest := manDigest m,
                addr := cAddr0 c.word, man := m, cmd := some c.id } }) s)

/-- Copy the segments of a trial image; the status of the first failure, none when all are good. -/
def copyTrial (host : HostMem) : List Nat → State → Option Nat × State
  | [], s => (none, s)
  | i :: is, s =>
    match hostRead host (s.leaf.trial.addr + 0x800000 + i * 2 ^ 26) (2 ^ 26), trialAddr s (i % 4 * 2 ^ 38 + i / 4 * 2 ^ 26) with
    | some bs, some a =>
      let s := writeStored true a bs (countHostRead (2 ^ 26) s)
      if segmentGood s.leaf.trial.man i bs then copyTrial host is s else (some stChecksum, s)
    | _, _ => (some stChecksum, countGcmFail 1 s)

/-- TRIAL_LOAD_DONE (spec/11 R331): the trial takes its generation, or its extents are zeroised and returned. -/
def execTrialLoadDone (host : HostMem) (s : State) : Outcome State Fault Refusal :=
  let t := s.leaf.trial
  match t.state, t.cmd with
  | 1, some id =>
    match copyTrial host (List.range (manNseg t.man)) s with
    | (some st, s) => done (finish id st 0 0 (returnExtents s))
    | (none, s) =>
      let n := t.loads % 0x7FFF + 1
      let s := updLeaf (fun l => { l with trial := { l.trial with
        state := 2, gen := BitVec.ofNat 16 (0x8000 + n), loads := n, cmd := none } }) s
      done (finish id stOk 0 (0x8000 + n) (measureTrial s))
  | _, _ => done s

/-- TRIAL_RELEASE (opcode 0x61; spec/11 R333): from the loading partition or partition 0. -/
def execTrialRelease (s : State) : Outcome State Fault Refusal :=
  onHead 0x61 s fun c s =>
    let t := s.leaf.trial
    if (t.state = 1 || t.state = 2) && (c.part = t.owner || c.part = 0) then
      let s := match t.cmd with | some id => finish id stNotPermitted 0 0 s | none => s
      finish c.id stOk 0 0 (updLeaf (fun l => { l with trial := { l.trial with state := 3, cmd := none } }) s)
    else finish c.id stNotPermitted 0 0 s

/-- TRIAL_RELEASE_EFFECT (spec/11 R333, by the rule of R329). -/
def execTrialReleaseEffect (s : State) : Outcome State Fault Refusal :=
  let t := s.leaf.trial
  onlyIf (t.state = 3 && atBoundary s && !genInUse s t.gen) s fun s =>
    if t.gen = 0 then returnExtents s else returnExtents (dropGen t.gen (measureTrial s))

end Sys2Proof.Machine
end

