-- ==== Sys2Proof/Machine/Rules.lean ====
section
/-! DEFINITION. The consistency rules of spec/15 Table OD-11 and the check report. Each rule answers the first entry that breaks
it, in index and then subindex order; where two entries break a rule together, the later one of them (DEDUCED, log entry
40). -/

namespace Sys2Proof.Machine

/-- The state as it would be with the shadow set in force: what the rules examine. -/
def shadowView (s : State) : State := { s with dict := { s.dict with active := s.dict.shadow } }

/-- An entry that breaks a rule: index and subindex. -/
abbrev Broken := Option (Nat × Nat)

/-- The first of a list of entries that `f` finds broken. -/
def firstEntry (es : List (Nat × Nat)) (f : Nat × Nat → Bool) : Broken := es.find? f

/-- The entry `i : p + 1` of every enabled partition that `f` picks, first one. -/
def firstPart (t : State) (i : Nat) (f : Nat → Bool) : Broken :=
  ((List.range 64).find? fun p => partEnabled t p && f p).map fun p => (i, p + 1)

/-- Two half-open ranges, base and length, share an address. -/
def rangesMeet (x y : Nat × Nat) : Bool := x.2 ≠ 0 && y.2 ≠ 0 && x.1 < y.1 + y.2 && y.1 < x.1 + x.2

/-- First number and count of a queue or key slot range. -/
def rangeEntry (t : State) (i p : Nat) : Nat × Nat := let v := cfg t i (p + 1); (bits v 0 13, bits v 16 14)

/-- Enabled partitions before `p`. -/
def partsBefore (t : State) (p : Nat) : List Nat := (List.range p).filter fun q => partEnabled t q

/-- Rule 1 (spec/14 R399): cores, queue ranges and key slot ranges are disjoint. -/
def rule1 (t : State) : Broken :=
  (firstPart t 0x3010 fun p => (partsBefore t p).any fun q => cfg t 0x3010 (p + 1) &&& cfg t 0x3010 (q + 1) ≠ 0).or
  ((firstPart t 0x3011 fun p => (partsBefore t p).any fun q => rangesMeet (rangeEntry t 0x3011 p) (rangeEntry t 0x3011 q)).or
  (firstPart t 0x3012 fun p => (partsBefore t p).any fun q => rangesMeet (rangeEntry t 0x3012 p) (rangeEntry t 0x3012 q)))

/-- Partition `p` holds a core on a die. -/
def onDie (t : State) (p die : Nat) : Bool := partEnabled t p && bits (cfg t 0x3010 (p + 1)) (32 * die) 32 ≠ 0

/-- Rule 2 (spec/14 R399): on each die, the caddy shares of the partitions with cores there sum to at most 64 MiB. -/
def rule2 (t : State) : Broken :=
  firstPart t 0x3013 fun p => (List.range 4).any fun die => onDie t p die &&
    64 < ((List.range (p + 1)).filter fun q => onDie t q die).foldl (fun n q => n + cfg t 0x3013 (q + 1)) 0

/-- Rule 3 (spec/14 R399): fabric shares sum to at most 800 GB/s. -/
def rule3 (t : State) : Broken :=
  firstPart t 0x3014 fun p =>
    800 < ((List.range (p + 1)).filter (partEnabled t)).foldl (fun n q => n + cfg t 0x3014 (q + 1)) 0

/-- A range lies in the user region of one logical pseudo-channel (spec/10 R291). -/
def inUser (w : Nat × Nat) : Bool :=
  match logicalPc w.1 with
  | some l => pcOffset w.1 + w.2 ≤ systemStart l
  | none => false

/-- The windows of the enabled partitions: index, subindex, base and length, in entry order. -/
def allWindows (t : State) : List (Nat × Nat × Nat × Nat) :=
  (List.range 16).flatMap fun w => (List.range 64).filterMap fun p =>
    let v := windowOf t p w
    if partEnabled t p && v.2 ≠ 0 then some (0x3020 + w, p + 1, v) else none

/-- Rule 4 (spec/14 R399, spec/10 R291): windows are disjoint and lie in user regions. -/
def rule4 (t : State) : Broken :=
  let ws := allWindows t
  ((indexed ws).find? fun e => !inUser e.2.2.2 || (ws.take e.1).any fun x => rangesMeet x.2.2 e.2.2.2).map fun e =>
    (e.2.1, e.2.2.1)

/-- Rule 5 (spec/14 R399): the areas of a row group with a capacity. -/
def rule5 (t : State) : Broken :=
  ([0x3040, 0x3041, 0x3042, 0x3043, 0x3048, 0x3049, 0x304A, 0x304B].map fun i => firstPart t i fun p =>
    let cap := cfg t (0x2410 + i % 4) (p + 1)
    let n := 2 * cap * cfg t (i + 4) (p + 1)
    cap ≠ 0 && (n = 0 || !inWindows t p (cfg t i (p + 1)) n)).findSome? id

/-- Rule 6 (spec/14 R399): no bound core, no queue that is not DISABLED and no slot that is not FREE changes partition, and
no partition that is not IDLE is disabled. -/
def rule6 (s t : State) : Broken :=
  let ps := List.range 64
  let hit (i : Nat) (f : Nat → Bool) : Broken := (ps.find? f).map fun p => (i, p + 1)
  (hit 0x3002 fun p => partEnabled s p && !partEnabled t p && (partOf s p).state ≠ .idle).or
  ((hit 0x3010 fun p => s.prog.cores.any fun c => c.2.binding.mode ≠ 0 && coreOwner s c.1 ≠ coreOwner t c.1 &&
      holdsCore s p c.1 ≠ holdsCore t p c.1).or
  ((hit 0x3011 fun p => s.front.queues.any fun q => q.2.state ≠ .disabled && holdsQueue s p q.1 ≠ holdsQueue t p q.1).or
  (hit 0x3012 fun p => s.cust.slots.any fun k => k.2.state ≠ .free && holdsSlot s p k.1 ≠ holdsSlot t p k.1)))

/-- The bytes of a partition's windows. -/
def windowBytes (t : State) (p : Nat) : Nat := (windowsOf t p).foldl (fun n w => n + w.2) 0

/-- Rule 7 (spec/14 Table HQ-6): windows that grow stay within the HBM quota. -/
def rule7 (s t : State) : Broken :=
  firstPart t 0x3404 fun p => windowBytes s p < windowBytes t p && cfg t 0x3404 (p + 1) < usage t p 4

/-- Rule 8 (spec/14 R395): the resource entries that LOCK_INTERFACE froze. -/
def rule8 (s t : State) : Broken :=
  (frozenIndices.map fun i => ((List.range 64).find? fun p =>
    (partOf s p).tdi ≠ .unlocked && cfg s i (p + 1) ≠ cfg t i (p + 1)).map fun p => (i, p + 1)).findSome? id

/-- Bindings in effect and pending: core and binding. -/
def allBindings (s : State) : List (Nat × Binding) :=
  s.prog.cores.flatMap fun c => (c.1, c.2.binding) :: (match c.2.pendingBind with | some b => [(c.1, b)] | none => [])

/-- Rule 9 (spec/05 R139): the step length is the DLEN of every TRAIN binding. -/
def rule9 (s t : State) : Broken :=
  if (allBindings s).any fun e => isTrain e.2 && e.2.dlen.toNat ≠ cfg t 0x4012 1 then some (0x4012, 1) else none

/-- The cycles that a binding needs of its steeps (spec/05 R141). -/
def bindingFits (s : State) (b : Binding) (len steps : Nat) : Bool :=
  (List.range b.dlen.toNat).all fun i =>
    let tail := if isTrain b && i + 1 = steps then 32016 else 4016
    (entryImages (dirEntry s b i)).all fun a =>
      let h := headerAt s a.1
      (fld h 64 32).toNat + (fld h 96 32).toNat + tail ≤ len * cyclesPerUs

/-- Rule 10 (spec/05 R141): the configured steep length holds every bound program. -/
def rule10 (s t : State) : Broken :=
  if (allBindings s).any fun e => (isTrain e.2 || isServe e.2) && !bindingFits s e.2 (cfg t 0x4010 1) (cfg t 0x4012 1)
  then some (0x4010, 1) else none

/-- Rule 11 (spec/07 R209): a KV region lies in its partition's windows. -/
def rule11 (t : State) : Broken :=
  firstPart t 0x2503 fun p => hasRegion t p && !inWindows t p (cfg t 0x2503 (p + 1)) (regionBytes t p)

/-- A partition has a live sequence. -/
def hasSequence (s : State) (p : Nat) : Bool := (kvOf s p).seqs.any fun e => e.2.state ≠ .free

/-- Rule 12 (spec/07 R209): KV settings of a partition with a live sequence stay. -/
def rule12 (s t : State) : Broken :=
  ((List.range 8).map fun j => ((List.range 64).find? fun p =>
    hasSequence s p && cfg s (0x2500 + j) (p + 1) ≠ cfg t (0x2500 + j) (p + 1)).map fun p => (0x2500 + j, p + 1)).findSome? id

/-- Rule 13 (spec/09 R268): update-rule coefficients are finite. -/
def rule13 (t : State) : Broken :=
  firstEntry ((List.range 16).flatMap fun n => (List.range 5).map fun j => (0x5100 + n, j + 1)) fun e =>
    bits (cfg t e.1 e.2) 23 8 = 255

/-- Rule 14 (spec/09 R268): MFMT of a slot that a TRAINING adapter names stays. -/
def rule14 (s t : State) : Broken :=
  firstEntry ((List.range 16).map fun n => (0x5100 + n, 6)) fun e =>
    bits (cfg s e.1 6) 1 1 ≠ bits (cfg t e.1 6) 1 1 &&
      s.ad.descs.any fun d => dAdid d.2 ≠ 0 && dState d.2 = adTraining && 0x5100 + dRule d.2 = e.1

/-- Rule 15 (spec/11 R328): the active half moves to a STAGED half only. -/
def rule15 (s t : State) : Broken :=
  let h := cfg t 0x8310 1
  if h ≠ cfg s 0x8310 1 && halfState s (h = 1) ≠ 2 then some (0x8310, 1) else none

/-- Rule 16 (spec/11 R332): only a partition with the Base Trial privilege selects the trial base. -/
def rule16 (t : State) : Broken :=
  ((List.range 64).find? fun p => cfg t 0x8330 (p + 1) = 1 && !(cfg t 0x3016 (p + 1)).testBit 0).map fun p => (0x8330, p + 1)

/-- The entries of the logical-to-physical table. -/
def tableEntries : List (Nat × Nat) := (List.range 1024).map fun l => (0x7100 + l / 128, l % 128 + 1)

/-- The first entry of the table that the shadow set changes. -/
def tableDiff (s t : State) : Broken := firstEntry tableEntries fun e => cfg s e.1 e.2 ≠ cfg t e.1 e.2

/-- SIDX of steep `e`, the present one or a later one. -/
def sidxAt (s : State) (e : BitVec 64) : Nat := (s.steep.sidx + ahead e s.steep.k) % max 1 (stepLen s)

/-- Rule 17 (spec/12 R348): the table changes at the first steep of a step; of a COMMIT's steep where steeps run. -/
def rule17 (s t : State) (e : Option (BitVec 64)) : Broken :=
  match e with
  | some e => if sidxAt s e ≠ 0 then tableDiff s t else none
  | none => none

/-- Rule 18 (spec/02 R38): the steep masters. -/
def rule18 (t : State) : Broken :=
  let m (r : Nat) : Nat := cfg t 0x4013 r
  if m 1 = 0xFFFF || (snaOfLdn t (m 1)).isNone || snaOfLdn t (m 1) = some 0xFFFF then some (0x4013, 1)
  else if m 2 = m 1 then some (0x4013, 2)
  else if m 3 ≠ 0xFFFF && (m 2 = 0xFFFF || m 3 = m 1 || m 3 = m 2) then some (0x4013, 3)
  else none

/-- Rule 19 (spec/12 R353): the owner of a collective group with members is enabled. -/
def rule19 (t : State) : Broken :=
  firstEntry ((List.range 256).map fun n => (0x7300 + n, 2)) fun e => cfg t e.1 1 ≠ 0 && !partEnabled t (cfg t e.1 2)

/-- Every rule that fails, with its number and entry, lowest rule first (spec/15 R441). -/
def brokenRules (e : Option (BitVec 64)) (s : State) : List (Nat × Nat × Nat) :=
  let t := shadowView s
  [(1, rule1 t), (2, rule2 t), (3, rule3 t), (4, rule4 t), (5, rule5 t), (6, rule6 s t), (7, rule7 s t), (8, rule8 s t),
   (9, rule9 s t), (10, rule10 s t), (11, rule11 t), (12, rule12 s t), (13, rule13 t), (14, rule14 s t), (15, rule15 s t),
   (16, rule16 t), (17, rule17 s t e), (18, rule18 t), (19, rule19 t)].filterMap fun r => r.2.map fun x => (r.1, x)

/-- The check report (spec/15 Table OD-9): STATE, NFAIL, TIME and twelve failures. -/
def reportBits (s : State) (fs : List (Nat × Nat × Nat)) : BitVec 512 :=
  let recs := (indexed (fs.take 12)).foldl (fun n e => n + (65536 * e.2.2.1 + 256 * e.2.2.2 + e.2.1) * 2 ^ (128 + 32 * e.1)) 0
  BitVec.ofNat 512 ((if fs.isEmpty then 2 else 3) + 256 * min fs.length 255 + 2 ^ 32 * (spaporTime s).toNat + recs)

/-- A check ends with its report. -/
def writeReport (fs : List (Nat × Nat × Nat)) (s : State) : State :=
  updDict (fun d => { d with report := reportBits s fs, checking := false }) s

end Sys2Proof.Machine
end

