-- ==== Sys2Proof/Machine/Fab.lean ====
section
/-! DEFINITION. FAB ops and what arrives for them: remote writes and reads (spec/05 R161) and the collective engine
(spec/12 R353, R354). On the wire a keyed payload is one GCM unit for each 4 KiB (log entry 33). -/

namespace Sys2Proof.Machine

open Host (Outcome)

/-- A started op runs, with its descriptors, and awaits `n` answers. -/
def runWith (g : Nat) (q : QOp) (descs : List (BitVec 512)) (n : Nat) (s : State) : State :=
  updCore g (fun k => { k with running := k.running ++
    [{ word := q.word, index := q.index, stream := q.stream, endAt := s.clock + 1, awaiting := n, descs := descs }] }) s

/-! ### FAB.PUT -/

/-- One remote write: module, address, unit, keyed, checksum. -/
structure RemoteWrite where
  ldn : BitVec 10
  addr : Nat
  unit : List Byte
  gcm : Bool
  crc : Bool

/-- The remote writes of one descriptor, or the program fault code. A remote address past the 48 bits of the package's space
fails where it is issued (spec/01 R16). -/
def putOne (env : ReadEnv) (g : Nat) (d0 : BitVec 512) (s : State) : (Option Nat × List RemoteWrite) × State :=
  if !descriptorOk 2 d0 then ((some 2, []), s)
  else
    let d := withFeed s g d0
    if !sideOk s (coreOwnerD s g) (tSkind d) (tSrc d) (tLen d) || 2 ^ 48 < tDst d + tLen d then ((some 6, []), s)
    else if tKeyed d && !pairOk s (tSlot d) (tGen d) then ((none, []), countStale (blockCount (tLen d)) s)
    else if tilesFail s (sourceTiles g d) then ((some 7, []), s)
    else
      let r := readSource env g d (countMoved g (tLen d) (tilesCorrect (sourceTiles g d) s))
      let s := if r.1.2 then transferError g r.2 else r.2
      let one (i : Nat) (u : List Byte) : RemoteWrite :=
        { ldn := tLdn d, addr := tDst d + 4096 * i, unit := u, gcm := tDcry d = 2, crc := tCrcw d }
      (indexed (destUnits r.1.1)).foldl (fun acc u => match u.2 with
        | none => acc
        | some bs =>
          if tDcry d = 2 then
            (match sealOne g (tSlot d) u.1 bs acc.2 with
              | (none, s) => ((some 2, acc.1.2), s)
              | (some unit, s) => ((acc.1.1, acc.1.2 ++ [one u.1 unit]), s))
          else ((acc.1.1, acc.1.2 ++ [one u.1 bs]), acc.2)) ((none, []), s)

/-- The remote writes of all descriptors, in order, until one faults. -/
def putAll (env : ReadEnv) (g : Nat) : List (BitVec 512) → State → (Option Nat × List RemoteWrite) × State
  | [], s => ((none, []), s)
  | d :: ds, s => match putOne env g d s with
    | ((none, ws), s) => let r := putAll env g ds s; ((r.1.1, ws ++ r.1.2), r.2)
    | ((some c, ws), s) => ((some c, ws), s)

/-- FAB.PUT (spec/05 R161). -/
def execFabPut (core : BitVec 7) (stream : Bool) (env : ReadEnv) (s : State) : Outcome State Fault Refusal :=
  let g := core.toNat
  onOp core stream 0x80 (bringUpsets g env s) fun q s =>
    withReads g q (descriptorRange q.word) s fun s =>
      let r := putAll env g (opDescriptors s g q.word) s
      let ws := r.1.2
      let put : PutOp := { core := core, op := q.index, writes := (ws.filter fun w => some w.ldn = (ws.getLast?.map (·.ldn))).length }
      let s := ws.foldl (fun s w => send (.ldn w.ldn)
        (.fabPut (BitVec.ofNat 48 w.addr) w.unit w.gcm w.crc (BitVec.ofNat 7 (oF q.word 56 7))
          (BitVec.ofNat 6 (oF q.word 63 6)) (BitVec.ofNat 4 (if some w.ldn = (ws.getLast?.map (·.ldn)) then oF q.word 69 4 else 0))
          put) s) r.2
      transferEnd g q (r.1.1, s) ws.length

/-! ### FAB.GET -/

/-- The request of one descriptor, or the program fault code: the answers it awaits. -/
def getOne (g : Nat) (op : BitVec 16) (off : Nat) (d : BitVec 512) (s : State) : (Option Nat × Nat) × State :=
  if !descriptorOk 3 d then ((some 2, 0), s)
  else if !sideOk s (coreOwnerD s g) (tDkind d) (tDst d) (tLen d) || 2 ^ 48 < tSrc d + tLen d then ((some 6, 0), s)
  else if tKeyed d && !pairOk s (tSlot d) (tGen d) then ((none, 0), countStale (blockCount (tLen d)) s)
  else ((none, blockCount (tLen d)), send (.ldn (tLdn d)) (.fabGet (BitVec.ofNat 48 (tSrc d)) (BitVec.ofNat 32 (tLen d))
    (tScry d = 2) (BitVec.ofNat 13 (tSlot d)) (tGen d) (BitVec.ofNat 7 g) op (BitVec.ofNat 40 off))
    (countMoved g (tLen d) s))

/-- The requests of all descriptors, in order, until one faults. -/
def getAll (g : Nat) (op : BitVec 16) (n off : Nat) : List (BitVec 512) → State → (Option Nat × Nat) × State
  | [], s => ((none, n), s)
  | d :: ds, s => match getOne g op off d s with
    | ((none, m), s) => getAll g op (n + m) (off + tLen d) ds s
    | ((some c, _), s) => ((some c, n), s)

/-- FAB.GET (spec/05 R161). -/
def execFabGet (core : BitVec 7) (stream : Bool) (s : State) : Outcome State Fault Refusal :=
  let g := core.toNat
  onOp core stream 0x81 s fun q s =>
    withReads g q (descriptorRange q.word) s fun s =>
      let ds := (opDescriptors s g q.word).map fun d => if descriptorOk 3 d then withFeed s g d else d
      let r := getAll g q.index 0 0 ds s
      match r.1.1 with
      | none => runWith g q ds r.1.2 r.2
      | some c => transferEnd g q (some c, r.2) 0

/-! ### FAB.COLL (spec/12 Table FB-8) -/

def gSlot (d : BitVec 512) : Nat := (fld d 323 13).toNat
def gGen (d : BitVec 512) : BitVec 16 := fld d 336 16
def gGroup (d : BitVec 512) : Nat := (fld d 312 8).toNat
def gRoot (d : BitVec 512) : Nat := (fld d 302 10).toNat
def gOp (d : BitVec 512) : Nat := (fld d 299 3).toNat
def gLen (d : BitVec 512) : Nat := (fld d 256 32).toNat
def gSrc (d : BitVec 512) : Nat := 64 * (fld d 176 16).toNat

/-- The destination: a package address, or for DKIND 0 a byte offset in the tile memory of DCORE. -/
def gDst (d : BitVec 512) : Nat := if bit d 291 then (fld d 192 64).toNat else 64 * (fld d 192 64).toNat

/-- The core whose tile memory is the destination for DKIND 0. -/
def gDcore (d : BitVec 512) : Nat := (fld d 292 7).toNat

/-- Bytes that the op writes at its destination. -/
def gSize (s : State) (d : BitVec 512) : Nat :=
  match gOp d with
  | 0 => gLen d
  | 1 => (groupMembers s (gGroup d)).length * gLen d
  | _ => 0

/-- The rank of an LDN in a group. -/
def memberRank (s : State) (group ldn : Nat) : Nat := (groupMembers s group).countP fun l => l < ldn

/-- The descriptor's program fault code, if any (spec/12 R354). Its tile memory addresses are in 64-byte units, so they wrap at
4 MiB (spec/05 R153). -/
def collFault (s : State) (g : Nat) (d : BitVec 512) : Option Nat :=
  let p := coreOwnerD s g
  let member := match ownLdn s with | some l => (groupMembers s (gGroup d)).contains l | none => false
  let lenOk := if gOp d = 2 then gLen d = 0 else gLen d ≠ 0 && gLen d % 64 = 0
  let reserved := fld d 0 176 = 0 && fld d 288 3 = 0 && fld d 320 3 = 0 && fld d 352 160 = 0
  if cfg s (0x7300 + gGroup d) 2 ≠ p || !member || !lenOk || !reserved || 3 ≤ gOp d then some 2
  else if gOp d = 2 then none
  else if bit d 291 && !windowOk s p (gDst d) (gSize s d) then some 2
  else if !bit d 291 && !holdsCore s p (gDcore d) then some 6
  else none

/-- Write collective bytes at a destination. -/
def collWrite (g : Nat) (d : BitVec 512) (o : Nat) (bs : List Byte) (s : State) : State :=
  if bit d 291 then packageWrite (coreOwnerD s g) (some (gSlot d)) false (gDst d + o) bs s
  else tileWrite (gDcore d) (gDst d + o) bs s

/-- Start one collective descriptor whose payload offsets begin at `off`: the answers it awaits, or the program fault
code. -/
def collOne (g off : Nat) (d : BitVec 512) (s : State) : (Option Nat × Nat) × State :=
  match collFault s g d with
  | some c => ((some c, 0), s)
  | none =>
    let me := (ownLdn s).getD 0
    let rank := memberRank s (gGroup d) me
    let others := (groupMembers s (gGroup d)).filter fun l => l ≠ me
    let units := blockCount (gLen d)
    let group := BitVec.ofNat 8 (gGroup d)
    let bs := tileRead s g (gSrc d) (gLen d)
    let source := gOp d = 1 || (gOp d = 0 && gRoot d = me)
    let range : List MemRange := [(.tile, gSrc d, gLen d)]
    if gOp d = 2 then
      ((none, others.length), others.foldl (fun s l =>
        send (.ldn (BitVec.ofNat 10 l)) (.barrier group (BitVec.ofNat 10 rank)) s) s)
    else if !pairOk s (gSlot d) (gGen d) then ((none, 0), countStale units s)
    else if source && readFails s g range then ((some 7, 0), s)
    else if !source then ((none, units), countMoved g (gLen d) s)
    else
      let s := collWrite g d (if gOp d = 1 then rank * gLen d else 0) bs (countMoved g (gLen d) (correctReads g range s))
      let dests : List Dest := if gOp d = 0 then [.tree (BitVec.ofNat 10 me) group]
        else others.map fun l => .ldn (BitVec.ofNat 10 l)
      let r := (indexed (chunk 4096 units bs)).foldl (fun (acc : Option Nat × State) u =>
        match sealOne g (gSlot d) u.1 u.2 acc.2 with
        | (none, s) => (some 2, s)
        | (some unit, s) => (acc.1, dests.foldl (fun s t =>
            send t (.collective group (BitVec.ofNat 10 rank) (BitVec.ofNat 32 (off + 4096 * u.1)) unit) s) s)) (none, s)
      ((r.1, others.length * units), r.2)

/-- Start all collective descriptors, in order, until one faults. -/
def collAll (g n off : Nat) : List (BitVec 512) → State → (Option Nat × Nat) × State
  | [], s => ((none, n), s)
  | d :: ds, s => match collOne g off d s with
    | ((none, m), s) => collAll g (n + m) (off + gLen d) ds s
    | ((some c, _), s) => ((some c, n), s)

/-- FAB.COLL (spec/12 R354). -/
def execFabColl (core : BitVec 7) (stream : Bool) (s : State) : Outcome State Fault Refusal :=
  let g := core.toNat
  onOp core stream 0x82 s fun q s =>
    withReads g q (descriptorRange q.word) s fun s =>
      let ds := opDescriptors s g q.word
      let r := collAll g 0 0 ds s
      match r.1.1 with
      | none => runWith g q ds r.1.2 r.2
      | some c => transferEnd g q (some c, r.2) 0

/-! ### Arrivals -/

/-- The partition, the source and the steep of a packet's header (spec/12 Table FB-5). -/
def netPart (net : BitVec 256) : Nat := (fld net 102 6).toNat
def netSrc (net : BitVec 256) : BitVec 16 := fld net 136 16

/-- The 64-bit steep number that a header's stamp names: one the receiver holds, else the present one. -/
def netSteep (s : State) (net : BitVec 256) : BitVec 64 :=
  let k32 := (fld net 224 32).toNat
  if k32 = (s.steep.k.toNat + 1) % 2 ^ 32 then s.steep.k + 1
  else match s.steep.history.find? fun h => h.1.toNat % 2 ^ 32 = k32 with
    | some h => if k32 = s.steep.k.toNat % 2 ^ 32 then s.steep.k else h.1
    | none => s.steep.k

/-- Acknowledge a packet to its sender. -/
def acknowledge (net : BitVec 256) (s : State) : State :=
  send (.sna (netSrc net)) (.ack (fld net 200 56) (fld net 168 32)) s

/-- Plaintext bytes of a unit on the wire. -/
def unitLen (gcm : Bool) (unit : List Byte) : Nat :=
  if gcm then ((fld (BitVec.ofNat 384 (leNat (unit.take 48))) 188 6).toNat + 1) * 64 else unit.length

/-- The slot, generation and sequence number in a unit's header. -/
def unitSlot (unit : List Byte) : Nat := (fld (BitVec.ofNat 384 (leNat (unit.take 48))) 211 13).toNat
def unitGen (unit : List Byte) : BitVec 16 := fld (BitVec.ofNat 384 (leNat (unit.take 48))) 195 16
def unitSeq (unit : List Byte) : Nat := (fld (BitVec.ofNat 384 (leNat (unit.take 48))) 224 64).toNat

/-- A unit of partition `p` whose tag failed: the count, and the step failure where a TRAIN binding of the partition is
in effect (spec/10 Table HB-4). -/
def unitFailed (p : Nat) (s : State) : State :=
  let s := countGcmFail 1 s
  if hasTrain s p then failStep 3 s else s

/-- One write of a FAB.PUT with credits has landed: whether it is the last of them to land. On the adaptive lane they can
arrive in any order (spec/12 R349), so the module counts them (log entry 68). -/
def putLanded (net : BitVec 256) (put : PutOp) (s : State) : Bool × State :=
  let key := (netSrc net, netSteep s net, put)
  let n := (s.fab.puts.find? fun e => e.1 = key).elim 1 fun e => e.2 + 1
  let others := s.fab.puts.filter fun e => e.1 ≠ key
  (decide (put.writes ≤ n), { s with fab := { s.fab with puts := if put.writes ≤ n then others else others ++ [(key, n)] } })

/-- FAB_WRITE_ARRIVAL (spec/05 R161): the window check at the remote module, the write, its acknowledgement and, when the
last write has landed, the credits. A write that fails its window check is dropped, with no answer and no record: the spec
names none (DESIGN CHOICE, log entry 69). -/
def execFabWriteArrival (net : BitVec 256) (addr : BitVec 48) (unit : List Byte) (gcm crc : Bool) (core : BitVec 7)
    (ctr : BitVec 6) (amount : BitVec 4) (put : PutOp) (s : State) : Outcome State Fault Refusal :=
  let p := netPart net
  let a := addr.toNat
  if !windowOk s p a (unitLen gcm unit) then done s
  else
    let s :=
      if !gcm then packageWrite p none crc a unit s
      else match (gcmOpen s (unitSlot unit) (unitGen unit) (unitSeq unit) unit).1 with
        | none => countStale 1 s
        | some (good, bs) =>
          if !pairOk s (unitSlot unit) (unitGen unit) then countStale 1 s
          else
            let s := packageWrite p (some (unitSlot unit)) crc a bs s
            if good then s else unitFailed p s
    let s := acknowledge net s
    if amount = 0 then done s
    else
      let r := putLanded net put s
      if !r.1 then done r.2
      else if coreOwner r.2 core.toNat ≠ some p then done (dropToken r.2)
      else done (landToken core.toNat ctr (amount.setWidth 16) (netSteep s net) r.2)

/-- FAB_READ_REQUEST (spec/05 R161): the window check at the remote module, and the data in units of 4 KiB; an empty unit
stands for a stale one. A request that fails its window check is dropped without an answer (DESIGN CHOICE, log entry 69). -/
def execFabReadRequest (net : BitVec 256) (addr : BitVec 48) (len : BitVec 32) (gcm : Bool) (slot : BitVec 13)
    (gen : BitVec 16) (replyCore : BitVec 7) (replyOp : BitVec 16) (offset : BitVec 40) (s : State) :
    Outcome State Fault Refusal :=
  let p := netPart net
  let n := len.toNat
  let a := addr.toNat
  let reply (i : Nat) (unit : List Byte) (s : State) : State :=
    send (.sna (netSrc net)) (.readData replyCore replyOp (offset + BitVec.ofNat 40 (4096 * i)) unit) s
  if !windowOk s p a n || n = 0 then done s
  else if gcm && !pairOk s slot.toNat gen then
    done ((List.range (blockCount n)).foldl (fun s i => reply i [] s) (countStale (blockCount n) s))
  else
    let r := if gcm && !inTileRegion a then xtsReadAt slot.toNat a n s else readStored a n s
    done ((indexed (chunk 4096 (blockCount n) r.1)).foldl (fun s u =>
      if gcm then
        (match sealOne 0x3FD slot.toNat u.1 u.2 s with
          | (some unit, s) => reply u.1 unit s
          | (none, s) => s)
      else reply u.1 u.2 s) r.2)

/-- The running op of an index on a core. -/
def runningOp (s : State) (g op code : Nat) : Option RunOp :=
  (coreOf s g).running.find? fun r => r.index.toNat = op && oOp r.word = code

/-- The running op has `n` answers fewer to await. -/
def answered (g : Nat) (op : BitVec 16) (n : Nat) (s : State) : State :=
  updCore g (fun k => { k with running := k.running.map fun r =>
    if r.index = op then { r with awaiting := r.awaiting - n } else r }) s

/-- The descriptor that holds a payload offset, with the offset where it begins. -/
def descAt (len : BitVec 512 → Nat) (off : Nat) : Nat → List (BitVec 512) → Option (BitVec 512 × Nat)
  | _, [] => none
  | b, d :: ds => if b ≤ off && off < b + len d then some (d, b) else descAt len off (b + len d) ds

/-- READ_DATA (spec/05 R161): a unit of FAB.GET data reaches its destination. -/
def execReadData (net : BitVec 256) (core : BitVec 7) (op : BitVec 16) (offset : BitVec 40) (unit : List Byte)
    (s : State) : Outcome State Fault Refusal :=
  let g := core.toNat
  match runningOp s g op.toNat 0x81 with
  | none => done s
  | some r =>
    match descAt tLen offset.toNat 0 r.descs with
    | none => done s
    | some (d, b) =>
      if bit net 108 then done s
      else
        let o := offset.toNat - b
        let d' := setFld d 64 64 (tDst d + o)
        let s :=
          if unit.isEmpty then s
          else if tScry d ≠ 2 then (writeDest g d' [(unit.length, some unit)] s).2
          else if !pairOk s (tSlot d) (tGen d) then countStale 1 s
          else match (gcmOpen s (tSlot d) (tGen d) (o / 4096) unit).1 with
            | none => countStale 1 s
            | some (good, bs) =>
              let s := (writeDest g d' [(bs.length, some bs)] s).2
              if good then s else transferError g (countGcmFail 1 s)
        done (answered g op 1 s)

/-- COLLECTIVE_DATA (spec/12 R354): a unit of a collective, or a BARRIER packet (an empty unit), reaches the op that
awaits it; the member of a BCAST acknowledges. -/
def execCollectiveData (net : BitVec 256) (core : BitVec 7) (op : BitVec 16) (rank : BitVec 10) (offset : BitVec 32)
    (unit : List Byte) (s : State) : Outcome State Fault Refusal :=
  let g := core.toNat
  match runningOp s g op.toNat 0x82 with
  | none => done s
  | some r =>
    if unit.isEmpty then done (if r.descs.any fun d => gOp d = 2 then answered g op 1 s else s)
    else match descAt gLen offset.toNat 0 r.descs with
      | none => done s
      | some (d, b) =>
        let o := offset.toNat - b
        let root := gOp d = 0 && some (gRoot d) = ownLdn s
        if root || 2 ≤ gOp d then done s
        else if !pairOk s (gSlot d) (gGen d) then done (countStale 1 s)
        else
          let at_ := (if gOp d = 1 then rank.toNat * gLen d else 0) + o
          let s := match (gcmOpen s (gSlot d) (gGen d) (o / 4096) unit).1 with
            | none => countStale 1 s
            | some (good, bs) =>
              let s := collWrite g d at_ bs s
              if good then s else transferError g (countGcmFail 1 s)
          let s := if gOp d = 0 then acknowledge net s else s
          done (answered g op 1 s)

/-- ACKNOWLEDGEMENT (spec/09 R264, spec/05 Table SP-8): units of a running transfer op are acknowledged. -/
def execAcknowledgement (core : BitVec 7) (op : BitVec 16) (units : Nat) (s : State) : Outcome State Fault Refusal :=
  let waits := (coreOf s core.toNat).running.any fun r => r.index = op && r.awaiting ≠ 0 &&
    [0x60, 0x61, 0x63, 0x80, 0x82].contains (oOp r.word)
  onlyIf waits s (answered core.toNat op units)

end Sys2Proof.Machine
end

