-- ==== Sys2Proof/Machine/Gradient.lean ====
section
/-! DEFINITION. RED ops and the sender's side of a reduction: gradient windows (spec/08 R242, R243), roll calls (spec/09
R260), contributions (R262, R263), tallies (R267) and the covering of shards by RED.UPD (R270). -/

namespace Sys2Proof.Machine

open Host (Outcome)

/-! ### Sealed payloads with a header of their own (spec/13 R380) -/

/-- Seal bytes under a slot's current key with authenticated data: nonce, epoch, ciphertext and tag; none where the
encrypting unit has no nonce left or the slot no key. -/
def sealWith (unit slot : Nat) (aad bs : List Byte) (s : State) :
    Option (BitVec 96 × Bool × List Byte × BitVec 128) × State :=
  let k := slotOf s slot
  match k.cur with
  | none => (none, s)
  | some root => match nextNonce unit s with
    | (none, s) => (none, s)
    | (some nonce, s) =>
      let key := gcmKeyAt s root
      let ct := gcmCrypt key nonce bs
      (some (nonce, k.parity, ct, Config.gcmTag key nonce aad ct), s)

/-- Open bytes sealed under one root key. -/
def openUnder (s : State) (k : Option (BitVec 256)) (nonce : BitVec 96) (aad ct : List Byte) (tag : BitVec 128) :
    Option (List Byte) :=
  match k with
  | none => none
  | some root =>
    let key := gcmKeyAt s root
    if Config.gcmTag key nonce aad ct = tag then some (gcmCrypt key nonce ct) else none

/-- Open bytes sealed under a slot with an epoch. -/
def openWith (s : State) (slot : Nat) (ep : Bool) (nonce : BitVec 96) (aad ct : List Byte) (tag : BitVec 128) :
    Option (List Byte) := openUnder s (rootKey (slotOf s slot) ep) nonce aad ct tag

/-- Open bytes sealed under a slot without an epoch: the current key, else the previous one. -/
def openAny (s : State) (slot : Nat) (nonce : BitVec 96) (aad ct : List Byte) (tag : BitVec 128) :
    Option (List Byte) :=
  match openUnder s (slotOf s slot).cur nonce aad ct tag with
  | some bs => some bs
  | none => openUnder s (slotOf s slot).prev nonce aad ct tag

/-! ### The attempt and the gradient windows -/

/-- ASTEEP of the present attempt (spec/09 R260). -/
def asteepNow (s : State) : BitVec 32 := BitVec.ofNat 32 s.steep.astart.toNat

/-- The MASK-1 rows of window `w` of a table, each with the ADID of its segment. -/
def maskedRows (t : Table) (w : Nat) : List (BitVec 24 × Row) :=
  (List.range 512).filterMap fun i =>
    let n := 512 * w + i
    match t.rows[n]?, t.segs.find? (fun g => g.row0 ≤ n && n < g.row0 + g.nrows) with
    | some r, some g => if r.mask then some (g.adid, r) else none
    | _, _ => none

/-- The adapters that a window's MASK-1 rows name. -/
def windowAdids (t : Table) (w : Nat) : List (BitVec 24) := ((maskedRows t w).map fun e => e.1).eraseDups

/-- The window is refused (spec/08 R243): its MASK-1 rows name more than one adapter, or for a joint adapter more than one
tenant slot. -/
def windowRefused (s : State) (t : Table) (w : Nat) : Bool :=
  let ids := windowAdids t w
  1 < ids.length || ids.any fun a => match didxOf s a with
    | some i => dCons (descOf s i) && 1 < ((maskedRows t w).map fun e => e.2.tslot).eraseDups.length
    | none => false

/-- The windows of a group. -/
def windowCount (t : Table) : Nat := (t.cap + 511) / 512

/-- W of an adapter on this module: its gradient windows of the step (spec/09 R260). -/
def windowsOfAdapter (s : State) (d : BitVec 1024) : Nat :=
  ((List.range 4).map fun g =>
    if isStepGroup s (dPart d) g then
      (match tableOf s (dPart d) g with
        | none => 0
        | some t => (List.range (windowCount t)).countP fun w =>
            windowAdids t w = [dAdid d] && !windowRefused s t w)
    else 0).foldl (· + ·) 0

/-- The roll calls that this module sends at the first steep of an attempt for the adapters that `f` picks by descriptor
number (spec/09 R260): one packet to each owner, with a record for each adapter of which it owns a shard. -/
def sendRollCalls (f : Nat → Bool) (s : State) : State :=
  match ownLdn s with
  | none => s
  | some me =>
    let recs : List (Nat × BitVec 64) := s.ad.descs.flatMap fun e =>
      let d := e.2
      if f e.1 && dState d = adTraining && isHolder s d me then
        let w := windowsOfAdapter s d
        let owners := ((List.range (mapCount s d)).map fun j => eOldn (mapEntry s d j)).eraseDups
        owners.map fun o => (o, packR 64 [(24, (dAdid d).toNat), (16, w), (24, 0)])
      else []
    ((recs.map fun r => r.1).eraseDups).foldl (fun s o =>
      send (.ldn (BitVec.ofNat 10 o)) (.rollCall (asteepNow s) (BitVec.ofNat 10 me)
        ((recs.filter fun r => r.1 = o).map fun r => r.2)) s) s

/-! ### Reduction descriptors (spec/09 Table RU-4) -/

def rdGamma (d : BitVec 512) : BitVec 32 := fld d 384 32
def rdTaddr (d : BitVec 512) : Nat := (fld d 336 48).toNat
def rdTldn (d : BitVec 512) : Nat := (fld d 326 10).toNat
def rdGnorm (d : BitVec 512) : Bool := bit d 320
def rdTslot (d : BitVec 512) : Nat := (fld d 307 13).toNat
def rdTgen (d : BitVec 512) : BitVec 16 := fld d 291 16
def rdSegslot (d : BitVec 512) : Nat := (fld d 286 2).toNat
def rdWin (d : BitVec 512) : Nat := (fld d 283 3).toNat
def rdTkind (d : BitVec 512) : Nat := (fld d 280 2).toNat
def rdAdid (d : BitVec 512) : BitVec 24 := fld d 256 24
def rdLayer (d : BitVec 512) : Nat := (fld d 244 12).toNat
def rdProj (d : BitVec 512) : Nat := (fld d 240 4).toNat
def rdPart (d : BitVec 512) : Nat := (fld d 238 2).toNat
def rdCol0 (d : BitVec 512) : Nat := (fld d 198 24).toNat
def rdCols (d : BitVec 512) : Nat := (fld d 174 24).toNat + 1
def rdStride (d : BitVec 512) : Nat := 64 * (fld d 158 16).toNat
def rdSaddr (d : BitVec 512) : Nat := 64 * (fld d 142 16).toNat
def rdRow0 (d : BitVec 512) : Nat := (fld d 126 16).toNat
def rdRows (d : BitVec 512) : Nat := (fld d 110 16).toNat + 1

/-- Reserved bits are zero. -/
def rdReserved (d : BitVec 512) : Bool :=
  fld d 416 96 = 0 && fld d 321 5 = 0 && fld d 288 3 = 0 && fld d 282 1 = 0 && fld d 222 16 = 0 && fld d 0 110 = 0

/-- The fields of RED.UPD are zero. -/
def rdUpdZero (d : BitVec 512) : Bool := rdGamma d = 0 && !rdGnorm d && rdAdid d = 0

/-- The contribution header (spec/09 Table RU-5). -/
def contributionHeader (asteep : BitVec 32) (adid : BitVec 24) (layer proj part col nm1 : Nat) (void : Bool)
    (kind slot : Nat) (gen : BitVec 16) (sldn taddr row : Nat) : BitVec 256 :=
  packR 256 [(32, asteep.toNat), (24, adid.toNat), (12, layer), (4, proj), (2, part), (8, 0), (24, col), (11, nm1),
             (1, void.toNat), (2, kind), (13, slot), (16, gen.toNat), (10, sldn), (1, 0), (48, taddr), (16, row), (32, 0)]

/-- A unit to send: the owner, the header, the slot, and the data (none for a void unit). -/
structure RedUnit where
  ldn : Nat
  header : BitVec 256
  slot : Nat
  data : Option (List Byte)

/-- Send one unit of core `g`; false where no nonce is left. -/
def sendUnit (g : Nat) (u : RedUnit) (s : State) : Bool × State :=
  let h := wordBytes u.header
  let put (payload : List Byte) (s : State) : State :=
    send (.ldn (BitVec.ofNat 10 u.ldn)) (.contributionUnit payload) s
  match u.data with
  | none => (true, put h s)
  | some bs => match sealWith g u.slot h bs s with
    | (none, s) => (false, s)
    | (some (nonce, _, ct, tag), s) =>
      (true, put (h ++ wordBytes nonce ++ List.replicate 4 0 ++ ct ++ wordBytes tag) (countMoved g bs.length s))

/-- Send units in order until one finds no nonce left. -/
def sendUnits (g : Nat) : List RedUnit → State → Bool × State
  | [], s => (true, s)
  | u :: us, s => match sendUnit g u s with
    | (true, s) => sendUnits g us s
    | (false, s) => (false, s)

/-! ### RED.ADD to shards -/

/-- Split `n` elements from column `c` into pieces of at most 1,024: column and length. -/
def pieces1024 : Nat → Nat → Nat → List (Nat × Nat)
  | 0, _, _ => []
  | fuel + 1, c, n => if n = 0 then [] else (c, min n 1024) :: pieces1024 fuel (c + min n 1024) (n - 1024)

/-- The units' columns of one source row: the owner, first column and length of each (spec/09 R263). -/
def rowPieces (s : State) (d : BitVec 1024) (r : BitVec 512) : List (Nat × Nat × Nat) :=
  (List.range (mapCount s d)).flatMap fun j =>
    let e := mapEntry s d j
    let lo := max (rdCol0 r) (eCol0 e)
    let hi := min (rdCol0 r + rdCols r) (eCol0 e + eCols e)
    if eLayer e = rdLayer r && eProj e = rdProj r && ePart e = rdPart r && lo < hi then
      (pieces1024 ((hi - lo) / 1024 + 1) lo (hi - lo)).map fun p => (eOldn e, p.1, p.2)
    else []

/-- The source bytes of elements `[o, o + n)` of source row `i`. -/
def sourceBytes (s : State) (g : Nat) (r : BitVec 512) (i o n : Nat) : List Byte :=
  tileRead s g (rdSaddr r + i * rdStride r + 4 * o) (4 * n)

/-- The units of a RED.ADD descriptor with TKIND 0 for adapter `didx` (spec/09 R262, R263). -/
def shardUnits (s : State) (g : Nat) (r : BitVec 512) (didx : Nat) (void : Bool) : List RedUnit :=
  let d := descOf s didx
  (List.range (rdRows r)).flatMap fun i => (rowPieces s d r).map fun p =>
    { ldn := p.1, slot := dSlot d,
      header := contributionHeader (asteepNow s) (dAdid d) (rdLayer r) (rdProj r) (rdPart r) p.2.1 (p.2.2 - 1) void 0
        (dSlot d) (dKgen d) (ownLdnD s % 1024) 0 (rdRow0 r + i),
      data := if void then none else some (sourceBytes s g r i (p.2.1 - rdCol0 r) p.2.2) }

/-- A refused window (spec/08 R243): counted once in an attempt, and its TRAIN requests end with NOT_PERMITTED. -/
def refuseWindow (p grp w : Nat) (s : State) : State :=
  let mark (r : Request) : Request :=
    if r.part.toNat = p && r.grp.toNat = grp && r.job = 0 && r.steep.isSome && r.step = s.steep.step && r.row0 < 512 * w + 512 &&
        512 * w < r.row0 + r.rows then
      { r with ending := some (r.ending.getD (BitVec.ofNat 8 stNotPermitted, 0)) } else r
  if s.red.refused.contains (p, grp, w) then s
  else
    let s := updRed (fun r => { r with refused := r.refused ++ [(p, grp, w)], windowsRefused := r.windowsRefused + 1 }) s
    updAd (fun a => { a with requests := a.requests.map mark }) s

/-- RED.ADD to shards: the units to send, or the program fault code. -/
def addShards (g : Nat) (r : BitVec 512) (s : State) : (Option Nat × List RedUnit) × State :=
  let p := coreOwnerD s g
  let grp := slotGroup s g (rdSegslot r)
  let maxSeg := ((coreOf s g).image.map fun i => hMaxSeg i.header (rdSegslot r)).getD 0
  if maxSeg = 0 then ((some 2, []), s)
  else match tableOf s p grp with
    | none => ((none, []), s)
    | some t =>
      if (maskedRows t (rdWin r)).isEmpty then ((none, []), s)
      else if windowRefused s t (rdWin r) then ((none, []), refuseWindow p grp (rdWin r) s)
      else match (windowAdids t (rdWin r)).head?.bind (didxOf s) with
        | none => ((none, []), s)
        | some i =>
          let d := descOf s i
          let void := (slotOf s (dSlot d)).gen ≠ dKgen d ||
            (maskedRows t (rdWin r)).any fun e => (slotOf s e.2.tslot.toNat).gen ≠ e.2.tgen
          ((none, shardUnits s g r i void), s)

/-! ### Tallies (spec/09 R267) -/

/-- A tally lies in one window of the partition on its module: its program fault code where it does not. Whether a tally
on another module crosses a window there is a free value (log entry 71). -/
def tallyFault (s : State) (p : Nat) (r : BitVec 512) : Option Nat :=
  let n := 4 * rdCols r
  if rdTaddr r % 64 ≠ 0 then some 2
  else if some (rdTldn r) ≠ ownLdn s then (if Config.tallyCrosses p (rdTldn r) (rdTaddr r) n then some 2 else none)
  else if rangeOk s (rdTaddr r) n && (windowsOf s p).any fun w => w.1 ≤ rdTaddr r && rdTaddr r + n ≤ w.1 + w.2 then
    none
  else if (windowsOf s p).any fun w => w.1 < rdTaddr r + n && rdTaddr r < w.1 + w.2 then some 2
  else some 6

/-- A tally op (KIND 1 add, 2 max, 3 zero): the units to send, or the program fault code. -/
def tallyUnits (g kind : Nat) (r : BitVec 512) (s : State) : (Option Nat × List RedUnit) × State :=
  match tallyFault s (coreOwnerD s g) r with
  | some c => ((some c, []), s)
  | none =>
    if !pairOk s (rdTslot r) (rdTgen r) then ((none, []), countStale (blockCount (4 * rdCols r)) s)
    else
      ((none, (pieces1024 (rdCols r / 1024 + 1) 0 (rdCols r)).map fun p =>
        { ldn := rdTldn r, slot := rdTslot r,
          header := contributionHeader 0 0 0 0 0 p.1 (p.2 - 1) false kind (rdTslot r) (rdTgen r) (ownLdnD s % 1024)
            (rdTaddr r) 0,
          data := some (if kind = 3 then [] else sourceBytes s g r 0 p.1 p.2) }), s)

/-! ### RED.ADD, RED.MAX and RED.ZERO -/

/-- The source ranges of a reduction descriptor. -/
def rdRanges (kind : Nat) (r : BitVec 512) : List (Nat × Nat) :=
  if kind = 3 then []
  else if kind ≠ 0 then [(rdSaddr r, 4 * rdCols r)]
  else (List.range (rdRows r)).map fun i => (rdSaddr r + i * rdStride r, 4 * rdCols r)

/-- The units of one descriptor of RED.ADD (`op` 0), RED.MAX (2) or RED.ZERO (3). -/
def redOne (g op : Nat) (r : BitVec 512) (s : State) : (Option Nat × List RedUnit) × State :=
  let kind := if op = 0 && rdTkind r = 1 then 1 else op
  if !rdReserved r || !rdUpdZero r || 2 ≤ rdTkind r || (rdTkind r = 0 && op ≠ 0) then ((some 2, []), s)
  else if readFails s g (tileRanges (rdRanges kind r)) then ((some 7, []), s)
  else
    let s := correctReads g (tileRanges (rdRanges kind r)) s
    if rdTkind r = 0 then addShards g r s else tallyUnits g kind r s

/-- The units of all descriptors, in order, until one faults. -/
def redAll (g op : Nat) : List (BitVec 512) → State → (Option Nat × List RedUnit) × State
  | [], s => ((none, []), s)
  | d :: ds, s => match redOne g op d s with
    | ((none, us), s) => let r := redAll g op ds s; ((r.1.1, us ++ r.1.2), r.2)
    | ((some c, us), s) => ((some c, us), s)

/-- The body of RED.ADD, RED.MAX and RED.ZERO: the units are sent, and the op awaits an acknowledgement of each. -/
def redSend (g op : Nat) (q : QOp) (s : State) : State :=
  withReads g q (descriptorRange q.word) s fun s =>
    if oF q.word 56 4 ≠ 0 then startFault g q 2 s
    else
      let r := redAll g op (opDescriptors s g q.word) s
      let t := sendUnits g r.1.2 r.2
      transferEnd g q ((match r.1.1 with | some c => some c | none => if t.1 then none else some 2), t.2) r.1.2.length

/-- RED.ADD (spec/09 R262, R267). -/
def execRedAdd (core : BitVec 7) (stream : Bool) (s : State) : Outcome State Fault Refusal :=
  onOp core stream 0x60 s (redSend core.toNat 0)

/-- RED.MAX (spec/09 R267). -/
def execRedMax (core : BitVec 7) (stream : Bool) (s : State) : Outcome State Fault Refusal :=
  onOp core stream 0x61 s (redSend core.toNat 2)

/-- RED.ZERO (spec/09 R267). -/
def execRedZero (core : BitVec 7) (stream : Bool) (s : State) : Outcome State Fault Refusal :=
  onOp core stream 0x63 s (redSend core.toNat 3)

/-! ### Shards (spec/09 R261, Table RU-8) -/

/-- Shard `n` of the index. -/
def shardOf (s : State) (n : Nat) : Option Shard := sget none n s.red.shards

/-- Replace shard `n`. -/
def setShard (n : Nat) (x : Shard) (s : State) : State := updRed (fun r => { r with shards := sput none n (some x) r.shards }) s

/-- The elements of a shard. -/
def shardSize (x : Shard) : Nat := x.rows * eCols x.word

/-- The adapter's descriptor of a shard. -/
def shardDesc (s : State) (x : Shard) : BitVec 1024 := descOf s x.didx.toNat

/-- A roll call of the attempt has arrived from an LDN for an adapter. -/
def heardFrom (s : State) (adid : BitVec 24) (l : Nat) : Bool := s.red.rolls.any fun r => r.1 = adid && r.2.1 = l

/-- Roll calls of the attempt have arrived from every holder. -/
def allHeard (s : State) (x : Shard) : Bool := (holders s (shardDesc s x)).all fun l => heardFrom s x.adid l

/-- k of a shard: the sum of W over the holders (spec/09 R261, R269). -/
def shardWindows (s : State) (x : Shard) : Nat :=
  ((s.red.rolls.filter fun r => r.1 = x.adid && isHolder s (shardDesc s x) r.2.1).map fun r => r.2.2).foldl (· + ·) 0

/-- The owner awaits more units of the shard, or an update of it. -/
def isUnfinished (v : ShardState) : Bool := v == .empty || v == .gathering || v == .complete || v == .updating

/-- Each op that covers the shard has one shard fewer to await. -/
def coverAnswered (x : Shard) (s : State) : State :=
  ((x.cover.map fun c => (c.1, c.2.1)).toList ++ x.also).foldl (fun s c => answered c.1.toNat c.2 1 s) s

/-- The stack of an HBM address and the update engine that serves it there, by physical pseudo-channel (spec/10 R289). -/
def placeOf (s : State) (a : Nat) : Nat × Nat :=
  let st := (hbmStack a).getD 0
  (st, physPc (stackOf s st) ((logicalPc a).getD 0))

/-- The counter block of the update engines of an address's stack (spec/16 Table PC-1). -/
def engineBlock (a : Nat) : Nat := 0x90 + (hbmStack a).getD 0

/-- A shard fails (spec/09 R275, R276), with the FAIL bit of its cause. -/
def failShard (n b : Nat) (s : State) : State :=
  match shardOf s n with
  | none => s
  | some x =>
    let s := setShard n { x with state := .failed } s
    let s := failStep b (count (engineBlock (eOaddr x.word)) 0x046 1 (updRed (fun r => { r with failed := r.failed + 1 }) s))
    if isUnfinished x.state then coverAnswered x s else s

/-- Move a shard on through Table RU-8 after an arrival or a cover. -/
def advanceShard (n : Nat) (s : State) : State :=
  match shardOf s n with
  | none => s
  | some x =>
    let e := shardSize x * shardWindows s x
    if (x.state == .empty || x.state == .gathering) && allHeard s x && x.received = e then
      setShard n { x with state := if x.cover.isSome then .updating else .complete } s
    else if x.state == .complete && x.cover.isSome && x.received = e then setShard n { x with state := .updating } s
    else if (isUnfinished x.state || x.state == .keeping) && allHeard s x && e < x.received then failShard n 4 s
    else s

/-- The numbers of the owned shards that `f` picks. -/
def ownedShards (s : State) (f : Shard → Bool) : List Nat :=
  s.red.shards.filterMap fun e => match e.2 with
    | some x => if x.owned && f x then some e.1 else none
    | none => none

/-! ### RED.UPD (spec/09 R270, R271) -/

/-- A RED.UPD covers a shard: an INVALID adapter's shard is skipped. Answers whether the op must wait for it, as an op
does that covers an unfinished shard after another. -/
def coverShard (g : Nat) (op : BitVec 16) (r : BitVec 512) (n : Nat) (s : State) : Bool × State :=
  match shardOf s n with
  | none => (false, s)
  | some x =>
    if !isUnfinished x.state then (false, s)
    else if x.cover.isSome then (true, setShard n { x with also := x.also ++ [(BitVec.ofNat 7 g, op)] } s)
    else if dState (shardDesc s x) = adInvalid then (false, setShard n { x with state := .skipped } s)
    else (true, setShard n { x with cover := some (BitVec.ofNat 7 g, op, rdGamma r, rdGnorm r) } s)

/-- The shards that a RED.UPD descriptor covers, or the program fault code. -/
def coveredShards (s : State) (g rule : Nat) (r : BitVec 512) : Option Nat × List Nat :=
  let p := coreOwnerD s g
  if !rdReserved r || rdTkind r ≠ 0 then (some 2, [])
  else if rdAdid r = 0xFFFFFF then
    if rdLayer r ≠ 0 || rdProj r ≠ 0 || rdPart r ≠ 0 || rdCol0 r ≠ 0 || rdCols r ≠ 1 then (some 2, [])
    else (none, ownedShards s fun x => dPart (shardDesc s x) = p && dRule (shardDesc s x) = rule)
  else match didxFor s p (rdAdid r) with
    | none => (none, [])
    | some i =>
      if dRule (descOf s i) ≠ rule then (some 2, [])
      else (none, ownedShards s fun x => x.didx.toNat = i && eLayer x.word = rdLayer r && eProj x.word = rdProj r &&
        ePart x.word = rdPart r && rdCol0 r ≤ eCol0 x.word && eCol0 x.word + eCols x.word ≤ rdCol0 r + rdCols r)

/-- Cover shards: how many the op must wait for. -/
def coverAll (g : Nat) (op : BitVec 16) (r : BitVec 512) (ns : List Nat) (s : State) : Nat × State :=
  ns.foldl (fun acc n =>
    let c := coverShard g op r n acc.2
    (acc.1 + c.1.toNat, c.2)) (0, s)

/-- Cover by every descriptor, in order, until one faults. -/
def updAll (g rule : Nat) (op : BitVec 16) (n : Nat) : List (BitVec 512) → State → (Option Nat × Nat) × State
  | [], s => ((none, n), s)
  | d :: ds, s => match coveredShards s g rule d with
    | (some c, _) => ((some c, n), s)
    | (none, ns) =>
      let r := coverAll g op d ns s
      updAll g rule op (n + r.1) ds r.2

/-- RED.UPD (spec/09 R270): it completes when each covered shard has been updated, failed or skipped. -/
def execRedUpd (core : BitVec 7) (stream : Bool) (s : State) : Outcome State Fault Refusal :=
  let g := core.toNat
  onOp core stream 0x62 s fun q s =>
    withReads g q (descriptorRange q.word) s fun s =>
      let r := updAll g (oF q.word 56 4) q.index 0 (opDescriptors s g q.word) s
      let s := transferEnd g q (r.1.1, r.2) r.1.2
      (ownedShards s fun x => x.cover.isSome).foldl (fun s n => advanceShard n s) s

end Sys2Proof.Machine
end

