-- ==== Sys2Proof/Machine/Reduce.lean ====
section
/-! DEFINITION. Reduction and update at the owner and the keeper (spec/09): roll calls and contributions (R260 to R267),
the update pipeline (R268 to R274), the dual-path check (R282 to R284) and parameter pushes (R279, R280). -/

namespace Sys2Proof.Machine

open Host (Outcome)

/-! ### Places -/

/-- The generator unit number of the update engine at an address (spec/04 Table NU-6). -/
def engineUnit (s : State) (a : Nat) : Nat := 0x180 + 32 * (placeOf s a).1 + (placeOf s a).2

/-- The encrypting unit number of the update engine at an address (log entry 13). -/
def engineNonce (s : State) (a : Nat) : Nat := 0x200 + 32 * (placeOf s a).1 + (placeOf s a).2

/-- The rounding of an update engine at the FP32 accumulator word of address `a` (spec/04 R115: output word 0). The index of
an INT16 master element is that of its accumulator word in its pseudo-channel (DESIGN CHOICE, log entry 60). -/
def engineRounding (s : State) (a : Nat) : Rm := rounding s true true (engineUnit s a) (4 * (pcOffset a / 4)) (steepOffset s)

/-- Numeric events of an update engine. They belong to no op of a program here: the op index in their latch is 0 (DESIGN
CHOICE, log entry 60). -/
def engineEvents (a : Nat) (classes : List Nat) (part : Nat) (adid : BitVec 24) (s : State) : State :=
  numericEvents classes (engineBlock a) (engineUnit s a) 0 part adid s

/-! ### Atomic adds (spec/09 R265 to R267) -/

/-- FP32 values of a byte list. -/
def words32 (bs : List Byte) : List (BitVec 32) := (chunk 4 (bs.length / 4 + 1) bs).map fun b => BitVec.ofNat 32 (leNat b)

/-- The bytes of FP32 values. -/
def bytes32 (ws : List (BitVec 32)) : List Byte := ws.flatMap fun w => leBytes 4 w.toNat

/-- One element of an atomic op at address `a` (KIND 0 and 1 add, 2 max, 3 zero): the result and its event classes. -/
def atomicOne (s : State) (kind a : Nat) (old new : BitVec 32) : BitVec 32 × List Nat :=
  match kind with
  | 2 => let r := max32 old new; (r, if isNan32 r then [1] else [])
  | 3 => (0, [])
  | _ =>
    let v := (ofFp32 old).add (ofFp32 new)
    let r := toFp32 (engineRounding s a) v
    (r, if overflowed v r then [2] else if isNan32 r then [1] else [])

/-- An atomic op on consecutive elements from address `a` under a slot's key: the controller counts it as atomic adds
with their extra reads, not as a read and a write (spec/16 Table PC-2). -/
def atomicRange (kind part slot a : Nat) (adid : BitVec 24) (news : List (BitVec 32)) (s : State) : State :=
  let obs := s.obs
  let (bs, s) := xtsReadAt slot a (4 * news.length) s
  let rs := (indexed ((words32 bs).zip news)).map fun e => atomicOne s kind (a + 4 * e.1) e.2.1 e.2.2
  let s := packageWrite part (some slot) true a (bytes32 (rs.map fun r => r.1)) s
  let s := countHbm 0x043 a (4 * news.length) (countHbm 0x042 a (4 * news.length) { s with obs := obs })
  engineEvents a (rs.flatMap fun r => r.2) part adid s

/-- The attempt tag of an accumulator block (spec/09 R266): a block of another attempt is zeroed and tagged. -/
def tagBlock (slot b : Nat) (tag : BitVec 32) (s : State) : State :=
  if (blockOf s b).atag = tag then s
  else
    let s := xtsWrite slot true (4096 * b) (List.replicate 4096 0) s
    setBlock b { blockOf s b with atag := tag } s

/-- Add elements into an accumulator, block by block. -/
def accumulate (part slot a : Nat) (adid : BitVec 24) (tag : BitVec 32) (news : List (BitVec 32)) (s : State) : State :=
  let s := (blocksOf (a, 4 * news.length)).foldl (fun s b => tagBlock slot b tag s) s
  atomicRange 0 part slot a adid news s

/-! ### The dual-path store (spec/09 R282, R283) -/

/-- Block `b` of 256 elements of a shard is sampled (spec/09 R282). -/
def isSampled (s : State) (x : Shard) (b : Nat) : Bool :=
  let a := eOaddr x.word
  let k1 := BitVec.ofNat 32 ((ownLdnD s % 1024) * 2 ^ 22 + (0x300 + 32 * (placeOf s a).1 + (placeOf s a).2) * 2 ^ 10)
  let w := (philox s.steep.step k1 (BitVec.ofNat 32 b) (BitVec.ofNat 32 x.adid.toNat) (BitVec.ofNat 32 x.entry) 0).getD 0 0
  w.toNat / 2 ^ (32 - cfg s 0x5030 1) = 0

/-- The first byte of the dual-path store of an address's pseudo-channel (spec/10 Table HB-2). -/
def storeBase (a : Nat) : Nat :=
  let l := (logicalPc a).getD 0
  (hbmStack a).getD 0 * 2 ^ 38 + l * 0x120000000 + systemStart l + 0x2000000

/-- The lowest place of `n` bytes that is free in the 16 MiB store of an address's pseudo-channel. -/
def storePlace (s : State) (a n : Nat) : Option Nat :=
  let lo := storeBase a
  let here := (s.red.copies.filter fun c => lo ≤ c.addr && c.addr < lo + 0x1000000).map fun c => (c.addr, c.data.length)
  (lo :: here.map fun c => c.1 + c.2).find? fun o =>
    o + n ≤ lo + 0x1000000 && here.all fun c => o + n ≤ c.1 || c.1 + c.2 ≤ o

/-- The ciphertext of values in the store, in whole 64-byte units under a slot's current key (spec/13 R379). -/
def storeSeal (s : State) (slot a : Nat) (vals : List (BitVec 32)) : List Byte :=
  let bs := bytes32 vals
  let k := slotOf s slot
  encryptUnits (xtsKeyAt s a (k.cur.getD 0)) k.parity a (bs ++ List.replicate (64 * ((bs.length + 63) / 64) - bs.length) 0)

/-- The values of a copy, decrypted with the key of its epoch. -/
def storeOpen (s : State) (slot : Nat) (c : DualCopy) : List (BitVec 32) :=
  match rootKey (slotOf s slot) c.ep with
  | none => []
  | some k => (words32 ((indexed (chunk 64 (c.data.length / 64 + 1) c.data)).flatMap fun u =>
      xtsDec (xtsKeyAt s c.addr k) (tweakOf c.ep (c.addr + 64 * u.1)) u.2)).take c.count

/-- Copy a unit that touches sampled blocks (spec/09 R283): where the store is full, the block is not checked. -/
def copyUnit (n : Nat) (net : BitVec 256) (e0 : Nat) (vals : List (BitVec 32)) (s : State) : State :=
  match shardOf s n with
  | none => s
  | some x =>
    let blocks := (List.range ((e0 + vals.length - 1) / 256 - e0 / 256 + 1)).map fun i => e0 / 256 + i
    (blocks.filter fun b => isSampled s x b).foldl (fun s b =>
      let lo := max e0 (256 * b)
      let hi := min (e0 + vals.length) (256 * b + 256)
      match storePlace s (eOaddr x.word) (64 * ((4 * (hi - lo) + 63) / 64)) with
      | some o =>
        let slot := dSlot (shardDesc s x)
        let c : DualCopy := { shard := n, block := b, stamp := (fullTime s (fld net 200 56)).getD 0, sna := netSrc net,
                              oseq := fld net 168 32, first := lo, count := hi - lo, addr := o,
                              ep := (slotOf s slot).parity,
                              data := storeSeal s slot o ((vals.drop (lo - e0)).take (hi - lo)) }
        updRed (fun r => { r with copies := r.copies ++ [c] }) s
      | none => match shardOf s n with
        | some y => setShard n { y with copyLost := (y.copyLost ++ [b]).eraseDups } s
        | none => s) s

/-! ### ROLL_CALL and CONTRIBUTION_UNIT -/

/-- ROLL_CALL (spec/09 R260, R261). -/
def execRollCall (ldn : BitVec 10) (asteep : BitVec 32) (records : List (BitVec 64)) (s : State) :
    Outcome State Fault Refusal :=
  onlyIf (asteep == asteepNow s) s fun s =>
    let new := (records.map fun r => ((fld r 40 24 : BitVec 24), ldn.toNat, (fld r 24 16).toNat)).filter fun r =>
      !heardFrom s r.1 ldn.toNat
    let s := updRed (fun r => { r with rolls := r.rolls ++ new }) s
    let mine := ownedShards s fun x => new.any fun r => r.1 = x.adid
    mine.foldl (fun s n => match shardOf s n with
      | none => s
      | some x => advanceShard n (if x.state == .empty then setShard n { x with state := .gathering } s else s)) s

/-- The fields of a contribution header. -/
structure RedHeader where
  asteep : BitVec 32
  adid : BitVec 24
  layer : Nat
  proj : Nat
  part : Nat
  col : Nat
  n : Nat
  void : Bool
  kind : Nat
  slot : Nat
  gen : BitVec 16
  sldn : Nat
  taddr : Nat
  row : Nat

/-- Read a contribution header (spec/09 Table RU-5). -/
def redHeader (h : BitVec 256) : RedHeader :=
  { asteep := fld h 224 32, adid := fld h 200 24, layer := (fld h 188 12).toNat, proj := (fld h 184 4).toNat,
    part := (fld h 182 2).toNat, col := (fld h 150 24).toNat, n := (fld h 139 11).toNat + 1, void := bit h 138,
    kind := (fld h 136 2).toNat, slot := (fld h 123 13).toNat, gen := fld h 107 16, sldn := (fld h 97 10).toNat,
    taddr := (fld h 48 48).toNat, row := (fld h 32 16).toNat }

/-- The data of a payload after its header, decrypted: none where its tag fails. -/
def redData (s : State) (slot : Nat) (payload : List Byte) : Option (List Byte) :=
  let body := payload.drop 32
  let ct := (body.drop 16).take (body.length - 32)
  let tag := BitVec.ofNat 128 (leNat (body.drop (body.length - 16)))
  if body.length < 32 then none
  else openAny s slot (BitVec.ofNat 96 (leNat (body.take 12))) (payload.take 32) ct tag

/-- The owned shards of a header's part that its columns touch. -/
def touchedShards (s : State) (h : RedHeader) : List Nat :=
  ownedShards s fun x => x.adid = h.adid && eLayer x.word = h.layer && eProj x.word = h.proj && ePart x.word = h.part &&
    h.col < eCol0 x.word + eCols x.word && eCol0 x.word < h.col + h.n

/-- Count a dropped unit in the update engines of the shard that it names (`ev` 0x041 under spec/09 R264, 0x042 as stale
generation): a unit that names no shard of this module reaches no engine. -/
def dropUnit (ev : Nat) (h : RedHeader) (s : State) : State :=
  match (touchedShards s h).head?.bind (shardOf s) with
  | some x => count (engineBlock (eOaddr x.word)) ev 1 s
  | none => s

/-- Drop a unit of the present attempt, and the shards that it touches fail (spec/09 R264). -/
def dropAndFail (h : RedHeader) (s : State) : State :=
  let fail (s : State) (n : Nat) : State := match shardOf s n with
    | some x => if isUnfinished x.state || x.state == .keeping then failShard n 4 s else s
    | none => s
  (touchedShards s h).foldl fail (dropUnit 0x041 h (updRed (fun r => { r with dropped := r.dropped + 1 }) s))

/-- Apply one accepted unit to shard `n` (spec/09 R265). -/
def applyUnit (net : BitVec 256) (payload : List Byte) (h : RedHeader) (n : Nat) (x : Shard) (s : State) : State :=
  let x' := { x with received := x.received + h.n, state := if x.state == .empty then .gathering else x.state }
  let s := count (engineBlock (eOaddr x.word)) 0x040 1 (setShard n x' s)
  if !(x.state == .empty || x.state == .gathering) then advanceShard n s
  else if frameLost s x then failShard n 0 s
  else
    let e0 := h.row * eCols x.word + (h.col - eCol0 x.word)
    let d := shardDesc s x
    let s :=
      if h.void then count (engineBlock (eOaddr x.word)) 0x043 1 (updRed (fun r => { r with void := r.void + 1 }) s)
      else match redData s h.slot payload with
        | none => failStep 3 (countGcmFail 1 s)
        | some bs =>
          let vals := (words32 bs).take h.n
          copyUnit n net e0 vals
            (accumulate (dPart d) (dSlot d) (eOaddr x.word + 4 * e0) x.adid h.asteep vals s)
    advanceShard n s

/-- A unit for a shard (KIND 0). -/
def shardUnitIn (net : BitVec 256) (payload : List Byte) (h : RedHeader) (s : State) : State :=
  if !pairOk s h.slot h.gen then dropUnit 0x042 h (updRed (fun r => { r with droppedStale := r.droppedStale + 1 }) s)
  else if h.asteep ≠ asteepNow s then dropUnit 0x041 h (updRed (fun r => { r with dropped := r.dropped + 1 }) s)
  else match didxOf s h.adid with
    | none => updRed (fun r => { r with dropped := r.dropped + 1 }) s
    | some i =>
      if !isHolder s (descOf s i) h.sldn then dropAndFail h s
      else match (touchedShards s h).find? fun n => match shardOf s n with
          | some x => eCol0 x.word ≤ h.col && h.col + h.n ≤ eCol0 x.word + eCols x.word && h.row < x.rows
          | none => false with
        | none => dropAndFail h s
        | some n => match shardOf s n with
          | some x => applyUnit net payload h n x s
          | none => s

/-- A tally unit (KIND 1 to 3; spec/09 R267), in the windows of the sender's partition. -/
def tallyUnitIn (net : BitVec 256) (payload : List Byte) (h : RedHeader) (s : State) : State :=
  let p := netPart net
  let a := h.taddr + 4 * h.col
  if !pairOk s h.slot h.gen then
    count (engineBlock a) 0x042 1 (updRed (fun r => { r with droppedStale := r.droppedStale + 1 }) s)
  else if !(windowsOf s p).any (fun w => w.1 ≤ a && a + 4 * h.n ≤ w.1 + w.2) || !rangeOk s a (4 * h.n) then s
  else match redData s h.slot payload with
    | none => unitFailed p s
    | some bs => atomicRange h.kind p h.slot a 0 (if h.kind = 3 then List.replicate h.n 0 else (words32 bs).take h.n)
        (count (engineBlock a) 0x040 1 s)

/-- CONTRIBUTION_UNIT (spec/09 R264 to R267): every unit is acknowledged, whether it is applied or dropped. -/
def execContributionUnit (net : BitVec 256) (payload : List Byte) (s : State) : Outcome State Fault Refusal :=
  let h := redHeader (BitVec.ofNat 256 (leNat (payload.take 32)))
  let s := acknowledge net s
  done (if h.kind = 0 then shardUnitIn net payload h s else tallyUnitIn net payload h s)

/-! ### Cut-off and straggler notices (spec/09 R271, R285) -/

/-- U of a shard (spec/09 R272). -/
def updateTime (x : Shard) : Nat := 2 * shardSize x + 240

/-- SHARD_CUTOFF (spec/09 R271): a covered shard that is not complete at its cut-off fails, and every steep master hears
of it. -/
def execShardCutoff (shard : BitVec 18) (s : State) : Outcome State Fault Refusal :=
  let n := shard.toNat
  match shardOf s n with
  | none => done s
  | some x =>
    match x.cover with
    | none => done s
    | some c =>
      if !x.owned || !(x.state == .empty || x.state == .gathering) then done s
      else
        let s := untilTime (deadline s c.1.toNat - BitVec.ofNat 64 (8000 + updateTime x)) s
        let missing := ((holders s (shardDesc s x)).find? fun l => !heardFrom s x.adid l).getD 0xFFFF
        let s := failShard n 4 s
        done ((masterLdns s).foldl (fun s m => send (.ldn (BitVec.ofNat 10 m.2))
          (.straggler (asteepNow s) (BitVec.ofNat 10 (ownLdnD s)) (BitVec.ofNat 16 missing)) s) s)

/-- STRAGGLER_NOTICE (spec/09 R285): a master keeps the LDN that a notice of the attempt names. -/
def execStragglerNotice (asteep : BitVec 32) (owner : BitVec 10) (missing : BitVec 16) (s : State) :
    Outcome State Fault Refusal :=
  onlyIf ((ownRank s).isSome && asteep == asteepNow s && missing != 0xFFFF && (snaOfLdn s owner.toNat).isSome) s
    (updMaster fun m => { m with stragglers := m.stragglers ++ [missing.toNat] })

/-! ### The update (spec/09 R268, R269, spec/04 R128, R130) -/

/-- One value with the event classes raised on the way. -/
abbrev Marked := BitVec 32 × List Nat

/-- An FP32 result rounded RNE, with OVERFLOW where a finite result is rounded to an infinity. -/
def marked (v : Val) : Marked := let r := fp32 v; (r, if overflowed v r then [2] else [])

/-- The rule slot of the attempt: coefficient `i` (a1, a2, b1, b2, λ) or flags (5). -/
def ruleAt (s : State) (rule i : Nat) : BitVec 32 := (s.red.rules.getD rule []).getD i 0

/-- What an update writes for one element: master, moment (FP32), image, and the event classes. -/
structure Updated where
  master : Int
  moment : BitVec 32
  skipped : Bool
  image : BitVec 16
  events : List Nat

/-- sign(c) (spec/09 R269). -/
def sign32 (c : BitVec 32) : BitVec 32 :=
  let v := ofFp32 c
  if v.isNan then 0x7FC00000 else if v.isZero then 0 else if Val.zero.lt v then 0x3F800000 else 0xBF800000

/-- Update one element: gradient g, moment m, master p, layer exponent E and rate q, with the rounding of its place. -/
def updateOne (rule : Nat → BitVec 32) (r : Rm) (g m : BitVec 32) (p e : Int) (q : Nat) : Updated :=
  let c1 := marked ((ofFp32 (rule 0)).mul (ofFp32 m))
  let c2 := marked ((ofFp32 (rule 1)).mul (ofFp32 g))
  let c := marked ((ofFp32 c1.1).add (ofFp32 c2.1))
  let d := if (rule 5).getLsbD 0 then sign32 c.1 else c.1
  let m1 := marked ((ofFp32 (rule 2)).mul (ofFp32 m))
  let m2 := marked ((ofFp32 (rule 3)).mul (ofFp32 g))
  let m' := marked ((ofFp32 m1.1).add (ofFp32 m2.1))
  let lp := marked ((ofFp32 (rule 4)).mul ((ofInt p).shift e))
  let dl := marked ((ofFp32 d).add (ofFp32 lp.1))
  let delta := marked ((Val.fin false q 0).mul (ofFp32 dl.1))
  let ev := c1.2 ++ c2.2 ++ c.2 ++ m1.2 ++ m2.2 ++ m'.2 ++ lp.2 ++ dl.2 ++ delta.2
  match ofFp32 delta.1 with
  | .fin neg mag ex =>
    let k := roundAt r mag ex 0
    let p' := if neg then p + k else p - k
    let clamped := if p' < -32767 then -32767 else if 32767 < p' then 32767 else p'
    let mo := if (rule 5).getLsbD 1 then (m'.1, false)
      else let x := clampBf16 (ofFp32 m'.1); (BitVec.ofNat 32 (x.1.toNat * 65536), x.2)
    { master := clamped, moment := mo.1, skipped := false, image := toBf16 ((ofInt clamped).shift e),
      events := ev ++ (if clamped ≠ p' then [4] else []) ++ (if mo.2 then [0] else []) ++
        (if isNan32 mo.1 then [1] else []) ++ (if k = 0 && !(ofFp32 d).isZero then [6] else []) }
  | _ =>
    { master := p, moment := m, skipped := true, image := toBf16 ((ofInt p).shift e),
      events := ev ++ [5] ++ (if isNan32 m then [1] else []) }

/-- The byte offset of a page's moment array (spec/09 R258). -/
def momentOffset (n : Nat) : Nat := 4096 * ((2 * n + 4095) / 4096)

/-- The address of page `r` of a shard's frame on this module. -/
def framePage (x : Shard) (r : Bool) : Nat :=
  let n := shardSize x
  (if x.owned then eOaddr x.word + frameA n else eKaddr x.word) + (if r then frameQ n else 0)

/-- The blocks of one page of a frame. -/
def framePageBlocks (x : Shard) (r : Bool) (mf : Nat) : List Nat :=
  let n := shardSize x
  blocksOf (framePage x r, 2 * n) ++ blocksOf (framePage x r + momentOffset n, mf * n)

/-- Restore the page blocks that fail from the other copy (spec/09 R274): false where a fetch fails. -/
def restoreBlocks (env : ReadEnv) (slot : Nat) : List Nat → State → Bool × State
  | [], s => (true, s)
  | b :: bs, s => match verifyBlock env b s with
    | (false, s) => restoreBlocks env slot bs s
    | (true, s) => match env.other.find? fun e => e.1 = b && e.2.length = 4096 with
      | none => (false, s)
      | some e => restoreBlocks env slot bs
          (xtsWrite slot true (4096 * b) e.2 (count (engineBlock (4096 * b)) 0x04B 1
            (blockRestored (updRed (fun r => { r with restored := r.restored + 1 }) s))))

/-- The accumulator of a shard as FP32 values: a block of another attempt is zeroed and tagged (spec/09 R266). -/
def readAccumulator (x : Shard) (slot : Nat) (tag : BitVec 32) (s : State) : List (BitVec 32) × State :=
  let n := shardSize x
  let a := eOaddr x.word
  let r := (blocksOf (a, 4 * n)).foldl (fun acc b =>
    let v := xtsRead slot (4096 * b) 4096 (tagBlock slot b tag acc.2)
    (acc.1 ++ v.1, v.2)) (([] : List Byte), s)
  ((words32 r.1).take n, r.2)

/-- The layer table entry of a shard: E and q (spec/04 R126, Table NU-8). -/
def layerEntry (s : State) (d : BitVec 1024) (layer : Nat) : Int × Nat :=
  let v := memWord s (dLtab d + 4 * (layer - dLfirst d)) 4
  (sgn 8 (bits v 24 8), bits v 16 8)

/-! ### The dual-path check (spec/09 R284) -/

/-- Twice the exponent shift of a value's bound: |y| × 2^(−12) + k × 2^(−23) × S⁺. -/
def checkLimit (y sp : Val) (k : Nat) : Val := (y.abs.shift (-12)).add ((Val.fin false k 0).mul (sp.shift (-23)))

/-- Element `e` of a checked block fails: `cs` holds the first element and the values of each copy. -/
def elementFails (cs : List (Nat × List (BitVec 32))) (e : Nat) (x : BitVec 32) : Bool :=
  let vs := cs.filterMap fun c => if c.1 ≤ e then (c.2[e - c.1]?).map ofFp32 else none
  let y := vs.foldl (fun a v => toFp64 (a.add v)) Val.zero
  let sp := vs.foldl (fun a v => toFp64 (a.add v.abs)) Val.zero
  let xv := ofFp32 x
  if xv.isNan != y.isNan then true
  else (checkLimit y sp vs.length).lt (xv.add y.neg).abs

/-- Check the sampled blocks of a shard whose accumulator reads `acc`. -/
def dualCheck (n : Nat) (x : Shard) (acc : List (BitVec 32)) (s : State) : State :=
  let blocks := (List.range ((shardSize x + 255) / 256)).filter fun b => isSampled s x b
  let s := blocks.foldl (fun s b =>
    if x.copyLost.contains b then updRed (fun r => { r with unchecked := r.unchecked + 1 }) s
    else
      let cs := canonSort (fun c : DualCopy => (c.stamp.toNat, c.sna.toNat, c.oseq.toNat))
        (s.red.copies.filter fun c => c.shard = n && c.block = b)
      let cs := cs.map fun c => (c.first, storeOpen s (dSlot (shardDesc s x)) c)
      let bad := (List.range 256).any fun i => match acc[256 * b + i]? with
        | some v => elementFails cs (256 * b + i) v
        | none => false
      let blk := engineBlock (eOaddr x.word)
      let s := count blk 0x048 bad.toNat (count blk 0x047 1
        (updRed (fun r => { r with checked := r.checked + 1, dualFails := r.dualFails + bad.toNat }) s))
      match bad, shardOf s n with
      | true, some y => failStep 2 (setShard n { y with dualBad := true } s)
      | _, _ => s) s
  updRed (fun r => { r with copies := r.copies.filter fun c => c.shard ≠ n }) s

/-! ### SHARD_UPDATE -/

/-- The write of an element's compute image at its forward and mirror positions in page `r` (spec/09 R273). -/
def writeImage (d : BitVec 1024) (x : Shard) (r : Bool) (e : Nat) (v : BitVec 16) (s : State) : State :=
  let p := imagePos s d x.word (e / eCols x.word) (eCol0 x.word + e % eCols x.word)
  let put (o : Nat) (s : State) : State := packageWrite (dPart d) (some (dSlot d)) true (dPage d r + o) (wordBytes v) s
  match p.2 with
  | none => put p.1 s
  | some q => put q (put p.1 s)

/-- A write of an update engine (spec/10 R296): each 64-byte unit is a part of its block. -/
def engineWrite (part slot a : Nat) (bs : List Byte) (s : State) : State :=
  (indexed (chunk 64 (bs.length / 64 + 1) bs)).foldl (fun s u => packageWrite part (some slot) true (a + 64 * u.1) u.2 s) s

/-- The authenticated identity of a keeper copy (log entry 33). -/
def keeperAad (adid : BitVec 24) (entry : Nat) : List Byte := wordBytes adid ++ leBytes 2 entry

/-- The update of a shard whose reads are good. Each element rounds under the index of its accumulator word (log entry 60). -/
def runUpdate (n : Nat) (x : Shard) (s : State) : State :=
  let d := shardDesc s x
  let slot := dSlot d
  let size := shardSize x
  let rule := ruleAt s (dRule d)
  let mf := if (rule 5).getLsbD 1 then 4 else 2
  let old := framePage x (dRole d)
  let new := framePage x (!dRole d)
  let (acc, s) := readAccumulator x slot (asteepNow s) s
  let (masters, s) := xtsReadAt slot old (2 * size) s
  let (moments, s) := xtsReadAt slot (old + momentOffset size) (mf * size) s
  let (ex, q) := layerEntry s d (eLayer x.word)
  let k := shardWindows s x
  let grad (v : BitVec 32) : Marked := match x.cover with
    | some (_, _, _, true) => if k = 0 then (0, []) else marked ((ofFp32 v).mul (ofFp32 (fDiv 0x3F800000 (fNat k))))
    | some (_, _, γ, false) => marked ((ofFp32 γ).mul (ofFp32 v))
    | none => (0, [])
  let us := (indexed acc).map fun e =>
    let p := sgn 16 (leNat ((masters.drop (2 * e.1)).take 2))
    let mv := leNat ((moments.drop (mf * e.1)).take mf)
    let m : BitVec 32 := BitVec.ofNat 32 (if mf = 4 then mv else mv * 65536)
    let g := grad e.2
    let u := updateOne rule (engineRounding s (eOaddr x.word + 4 * e.1)) g.1 m p ex q
    { u with events := g.2 ++ u.events }
  let mbytes := us.flatMap fun u => wordBytes (BitVec.ofInt 16 u.master)
  let obytes := us.flatMap fun u => if mf = 4 then leBytes 4 u.moment.toNat else leBytes 2 (u.moment.toNat / 65536)
  let s := dualCheck n x acc s
  let s := engineWrite (dPart d) slot new mbytes s
  let s := engineWrite (dPart d) slot (new + momentOffset size) obytes s
  let s := (indexed us).foldl (fun s u => writeImage d x (!dRole d) u.1 u.2.image s) s
  let s := engineEvents (eOaddr x.word) (us.flatMap fun u => u.events) (dPart d) x.adid s
  let s := count (engineBlock (eOaddr x.word)) 0x044 size s
  let s := match shardOf s n with
    | some y => setShard n { y with state := .keeping } s
    | none => s
  let s := coverAnswered x s
  match sealWith (engineNonce s (eOaddr x.word)) slot (keeperAad x.adid x.entry) (mbytes ++ obytes) s with
  | (none, s) => s
  | (some (nonce, ep, ct, tag), s) => send (.ldn (BitVec.ofNat 10 (eKldn x.word)))
      (.keeperCopy x.adid (BitVec.ofNat 16 x.entry) (BitVec.ofNat 13 slot) (dKgen d) ep nonce ct tag)
      (count (engineBlock (eOaddr x.word)) 0x049 (dataUnits (mbytes ++ obytes).length) s)

/-- SHARD_UPDATE (spec/09 R269 to R274, spec/10 Table HB-4): a covered shard that is complete is updated. -/
def execShardUpdate (shard : BitVec 18) (env : ReadEnv) (s : State) : Outcome State Fault Refusal :=
  let n := shard.toNat
  match shardOf s n with
  | none => done s
  | some x =>
    if !x.owned || x.state ≠ .updating then done s
    else
      let s := readTable env (descPlace x.didx.toNat) (readTable env (shardPlace n) s)
      if s.boot.stopped.isSome then done s
      else
      let d := shardDesc s x
      if dState d = adInvalid then done (coverAnswered x (setShard n { x with state := .skipped } s))
      else if frameLost s x then done (failShard n 0 s)
      else
        let accs := (blocksOf (eOaddr x.word, 4 * shardSize x)).filter fun b => (blockOf s b).atag = asteepNow s
        let v := accs.foldl (fun acc b => let r := verifyBlock env b acc.2; (acc.1 || r.1, r.2)) (false, s)
        if v.1 then done (failStep 3 v.2)
        else
          let mf := if (ruleAt v.2 (dRule d) 5).getLsbD 1 then 4 else 2
          let r := restoreBlocks env (dSlot d) (framePageBlocks x (dRole d) mf) v.2
          if !r.1 then done (failShard n 0 r.2) else done (runUpdate n x r.2)

/-- KEEPER_COPY (spec/09 R274): the keeper writes a shard's new arrays into its page 1 − ROLE and acknowledges. `shard` is
the keeper's own number of the shard. -/
def execKeeperCopy (shard : BitVec 18) (slot : BitVec 13) (gen : BitVec 16) (ep : Bool) (nonce : BitVec 96)
    (ciphertext : List Byte) (tag : BitVec 128) (s : State) : Outcome State Fault Refusal :=
  match shardOf s shard.toNat with
  | none => done s
  | some x =>
    let d := shardDesc s x
    let size := shardSize x
    if x.owned || frameLost s x then done s
    else if !pairOk s slot.toNat gen || slot.toNat ≠ dSlot d then done (countStale 1 s)
    else match openWith s slot.toNat ep nonce (keeperAad x.adid x.entry) ciphertext tag with
      | none => done (unitFailed (dPart d) s)
      | some bs =>
        if bs.length ≠ 4 * size && bs.length ≠ 6 * size then done s
        else
          let a := framePage x (!dRole d)
          let s := packageWrite (dPart d) (some (dSlot d)) true a (bs.take (2 * size)) s
          let s := packageWrite (dPart d) (some (dSlot d)) true (a + momentOffset size) (bs.drop (2 * size)) s
          done (send (.ldn (BitVec.ofNat 10 (eOldn x.word))) (.keeperAck x.adid (BitVec.ofNat 16 x.entry)) s)

/-- KEEPER_ACK (spec/09 R274): the shard becomes KEPT. -/
def execKeeperAck (shard : BitVec 18) (s : State) : Outcome State Fault Refusal :=
  match shardOf s shard.toNat with
  | none => done s
  | some x => done (if x.owned && x.state == .keeping then
      count (engineBlock (eOaddr x.word)) 0x045 1 (setShard shard.toNat { x with state := .kept } s) else s)

/-! ### Parameter pushes (spec/09 R279, R280) -/

/-- The authenticated identity of a push unit (log entry 33). -/
def pushAad (adid : BitVec 24) (stepc : BitVec 32) (offset : Nat) : List Byte :=
  wordBytes adid ++ wordBytes stepc ++ leBytes 6 offset

/-- Push one image unit of an adapter's current page to an LDN. -/
def pushUnit (didx : Nat) (l off : Nat) (s : State) : State :=
  let d := descOf s didx
  let a := dPage d (dRole d) + off
  let (bs, s) := xtsReadAt (dSlot d) a 64 s
  match sealWith (engineNonce s a) (dSlot d) (pushAad (dAdid d) (dStepc d) off) bs s with
  | (none, s) => s
  | (some (nonce, ep, ct, tag), s) => send (.ldn (BitVec.ofNat 10 l))
      (.push (dAdid d) (dStepc d) (BitVec.ofNat 48 off) (BitVec.ofNat 13 (dSlot d)) (dKgen d) ep nonce
        (BitVec.ofNat 512 (leNat ct)) tag) (count (engineBlock a) 0x04A 1 s)

/-- Push the units of the shards that this module owns to every other holder (spec/09 R279): a set multicast reads and
encrypts each unit once for all of them. -/
def pushShards (didx : Nat) (s : State) : State :=
  let d := descOf s didx
  let others := (holders s d).filter fun l => some l ≠ ownLdn s
  let offs := (ownedShards s fun x => x.didx.toNat = didx).flatMap fun n => match shardOf s n with
    | some x => imageUnits s x
    | none => []
  offs.foldl (fun s off =>
    let a := dPage d (dRole d) + off
    let (bs, s) := xtsReadAt (dSlot d) a 64 s
    match sealWith (engineNonce s a) (dSlot d) (pushAad (dAdid d) (dStepc d) off) bs s with
    | (none, s) => s
    | (some (nonce, ep, ct, tag), s) => others.foldl (fun s l => send (.ldn (BitVec.ofNat 10 l))
        (.push (dAdid d) (dStepc d) (BitVec.ofNat 48 off) (BitVec.ofNat 13 (dSlot d)) (dKgen d) ep nonce
          (BitVec.ofNat 512 (leNat ct)) tag) s) (count (engineBlock a) 0x04A 1 s)) s

/-- A restored image block has its last unit: its record describes its bytes again (spec/10 R296, R299; log entry 72). -/
def endRestore (b : Nat) (s : State) : State :=
  blockRestored (setBlock b { blockOf s b with crc := crc64 (blockBytes s b), v := true, bad := false } s)

/-- A unit at a page offset of an adapter has come for the blocks that are being restored. -/
def unitRestored (didx off : Nat) (s : State) : State :=
  let rs := s.ad.restoring.map fun r => if r.1 = didx then (r.1, r.2.1, r.2.2.filter fun o => o ≠ off) else r
  let s := updAd (fun a => { a with restoring := rs.filter fun r => !r.2.2.isEmpty }) s
  (rs.filter fun r => r.2.2.isEmpty).foldl (fun s r => endRestore r.2.1 s) s

/-- PUSH_UNIT (spec/09 R279, R280): a holder writes the unit into its own current page; a unit of another STEPC is
dropped. A caddy block that the unit overwrites is dropped (spec/06 R186). -/
def execPushUnit (adid : BitVec 24) (stepc : BitVec 32) (offset : BitVec 48) (slot : BitVec 13) (gen : BitVec 16)
    (ep : Bool) (nonce : BitVec 96) (ciphertext : BitVec 512) (tag : BitVec 128) (s : State) :
    Outcome State Fault Refusal :=
  match didxOf s adid with
  | none => done s
  | some i =>
    let d := descOf s i
    if stepc ≠ dStepc d then done s
    else if !pairOk s slot.toNat gen || slot.toNat ≠ dSlot d then done (countStale 1 s)
    else match openWith s slot.toNat ep nonce (pushAad adid stepc offset.toNat) (wordBytes ciphertext) tag with
      | none => done (unitFailed (dPart d) s)
      | some bs =>
        let a := dPage d (dRole d) + offset.toNat
        if noAccess s a then done s
        else
        let s := dropStale (fun b => b.slot.toNat = dSlot d && b.addr / 4096 = a / 4096) s
        let s := packageWrite (dPart d) (some (dSlot d)) true a bs s
        done (unitRestored i offset.toNat (updAd (fun c => { c with outstanding := supd 0 i (· - 1) c.outstanding }) s))

/-- Rewrite a shard's image in the current page from its current master page (spec/10 R299, spec/04 R130). -/
def rebuildImage (x : Shard) (s : State) : State :=
  let d := shardDesc s x
  let (masters, s) := xtsReadAt (dSlot d) (framePage x (dRole d)) (2 * shardSize x) s
  let e := (layerEntry s d (eLayer x.word)).1
  (List.range (shardSize x)).foldl (fun s i =>
    let p := sgn 16 (leNat ((masters.drop (2 * i)).take 2))
    writeImage d x (dRole d) i (toBf16 ((ofInt p).shift e)) s) s

/-- RESTORE_REQUEST (spec/10 R299): an owner resends the named units of the shards it owns from its current page; a block
of its own that fails is first rewritten from the masters. -/
def execRestoreRequest (ldn : BitVec 10) (adid : BitVec 24) (offsets : List (BitVec 48)) (s : State) :
    Outcome State Fault Refusal :=
  match didxOf s adid with
  | none => done s
  | some i =>
    let xs := (ownedShards s fun x => x.didx.toNat = i).filterMap (shardOf s)
    let d := descOf s i
    let asked (x : Shard) : List Nat := (imageUnits s x).filter fun o => offsets.any fun q => q.toNat = o
    let s := xs.foldl (fun s x =>
      let bs := ((asked x).map fun o => (dPage d (dRole d) + o) / 4096).eraseDups
      let v := bs.foldl (fun acc b => let r := verifyBlock {} b acc.2; (acc.1 || r.1, r.2)) (false, s)
      if v.1 then bs.foldl (fun s b => if (blockOf s b).bad then endRestore b s else s) (rebuildImage x v.2) else v.2) s
    done ((xs.flatMap asked).foldl (fun s o => pushUnit i ldn.toNat o s) s)

/-! ### Attempts (spec/09 R260, R266, R268, Table RU-8) -/

/-- Latch the rule slots as they stand at an attempt's first steep (spec/09 R268). -/
def latchRules (s : State) : State :=
  updRed (fun r => { r with
    rules := (List.range 16).map fun n => (List.range 6).map fun i => BitVec.ofNat 32 (cfg s (0x5100 + n) (i + 1)) }) s

/-- A new attempt begins: every shard is EMPTY, and the roll calls, copies and refused windows of the last attempt are
gone. -/
def newAttempt (s : State) : State :=
  let fresh (x : Shard) : Shard :=
    { x with state := .empty, received := 0, cover := none, also := [], dualBad := false, copyLost := [] }
  latchRules (updRed (fun r => { r with
    shards := r.shards.map fun e => (e.1, e.2.map fresh), rolls := [], copies := [], refused := [] }) s)

/-- At W(c) of the commit steep, every owned shard of an adapter that is TRAINING and not INVALID must be KEPT or SKIPPED
(spec/09 R275, R276): a shard that waits for its keeper sets FAIL[396], any other FAIL[400]. -/
def failUnkept (s : State) : State :=
  (ownedShards s fun x => dState (shardDesc s x) = adTraining && x.state ≠ .kept && x.state ≠ .skipped &&
    x.state ≠ .failed).foldl (fun s n => match shardOf s n with
      | some x => failShard n (if x.state == .keeping then 0 else 4) s
      | none => s) s

end Sys2Proof.Machine
end

