-- ==== Sys2Proof/Machine/Strain.lean ====
section
/-! DEFINITION. The strainer (spec/07 R220 to R228): GATHER, MASK, APPEND, BLOCK and TRANS. Addresses and strides of a
strain command count 64-byte units of tile memory (spec/05 R154), but for DSADDR, a byte address. -/

namespace Sys2Proof.Machine

open Host (Outcome)

/-! ### Strain commands (spec/07 Table AT-5) -/

def sKbase (w : BitVec 256) : Nat := (fld w 236 20).toNat
def sRow (w : BitVec 256) : Nat := (fld w 224 12).toNat
def sRows (w : BitVec 256) : Nat := (fld w 212 12).toNat + 1
def sLayer (w : BitVec 256) : Nat := (fld w 200 12).toNat
def sHead (w : BitVec 256) : Nat := (fld w 194 6).toNat
def sCols (w : BitVec 256) : Nat := (fld w 182 12).toNat + 1
def sPart (w : BitVec 256) : Nat := (fld w 181 1).toNat
def sOrient (w : BitVec 256) : Bool := bit w 180
def sNsel (w : BitVec 256) : Nat := (fld w 179 1).toNat
def sKsrc (w : BitVec 256) : Bool := bit w 178
def sBf16 (w : BitVec 256) : Bool := bit w 177
def sSstride (w : BitVec 256) : Nat := 64 * (fld w 160 16).toNat
def sSaddr (w : BitVec 256) : Nat := 64 * (fld w 144 16).toNat
def sXaddr (w : BitVec 256) : Nat := 64 * (fld w 128 16).toNat
def sDaddr (w : BitVec 256) : Nat := 64 * (fld w 112 16).toNat
def sDstride (w : BitVec 256) : Nat := 64 * (fld w 96 16).toNat
def sDsaddr (w : BitVec 256) : Nat := (fld w 74 22).toNat

/-- Bytes of a source row. -/
def sRowBytes (w : BitVec 256) (n : Nat) : Nat := if sBf16 w then 2 * n else 4 * n

/-! ### Starting a strain command (spec/07 R222, R227) -/

/-- The row group and the rows of a core's strain list. -/
def strainGroup (s : State) (g : Nat) : Nat := kRowgrp (kvCtlAt s (coreOf s g).binding (entryNow s g))

/-- Batch row `r` of the core's row group, an empty one where there is none. -/
def batchRow (s : State) (g r : Nat) : Row :=
  match tableOf s (coreOwnerD s g) (strainGroup s g) with
  | none => {}
  | some t => t.rows.getD r {}

/-- The rows on which an APPEND acts, as offsets from ROW: those with APP = 1 (spec/07 R225). -/
def appRows (s : State) (g : Nat) (w : BitVec 256) : List Nat :=
  (List.range (sRows w)).filter fun i => (batchRow s g (sRow w + i)).app

/-- Tile memory bytes that a command reads and writes. -/
def strainBytes (s : State) (g : Nat) (w : BitVec 256) : Nat × Nat :=
  let p := coreOwnerD s g
  match (fld w 0 8).toNat with
  | 1 => (0, 24576 + 96)
  | 2 => (0, 2 * sRows w * sCols w)
  | 3 => (2 * (appRows s g w).length * sRowBytes w (kvH s p * kvD s p), 0)
  | 4 => (sRows w * sRowBytes w (sCols w), 24576 + 96)
  | _ => (sRows w * sRowBytes w (sCols w), sCols w * (sRows w + (sRows w + 31) / 32))

/-- The port cycles of a command (spec/07 R227). -/
def strainCycles (s : State) (g : Nat) (w : BitVec 256) : Nat :=
  let b := strainBytes s g w
  (b.1 + 255) / 256 + (b.2 + 255) / 256 + 32

/-- The index under which a running strain command stands among a core's running ops. -/
def strainIndex (i : Nat) : BitVec 16 := BitVec.ofNat 16 (0xC000 + i)

/-- No strain command of the core is running. -/
def strainIdle (k : Core) : Bool := k.running.all fun r => r.index.toNat < 0xC000

/-- The strain command that may start now, if it has strain opcode `op`; the units of Table SP-6 have taken their credits
of the cycle first (spec/07 R222). -/
def strainNow (s : State) (g op : Nat) : Option (BitVec 256) :=
  let k := coreOf s g
  match k.strain[k.strainNext]? with
  | none => none
  | some w =>
    if (fld w 0 8).toNat = op && isLocked s && k.image.isSome && k.faulted.isNone && !k.aborted &&
        k.heldUntil ≤ s.clock && strainIdle k && creditsPresent s.clock (afterHigher s g 6) (w.setWidth 128) &&
        passesDeadline s g (strainCycles s g w) then some w else none

/-- Start the strain command at the list's head: its credits are taken, and it runs. -/
def strainBegin (g : Nat) (w : BitVec 256) (s : State) : State :=
  let o : BitVec 128 := w.setWidth 128
  let d := strainCycles s g w
  let s := count g 0x059 1 (count g 0x05A d s)
  updCore g (fun k =>
    let k := if oWamt o = 0 then k else takeCredit (oWctr o) (oWamt o) k
    { k with strainNext := k.strainNext + 1, running := k.running ++
      [{ word := o, index := strainIndex k.strainNext, stream := false, endAt := s.clock + d, awaiting := 0 }] }) s

/-- A strain row: the command starts and has its effect; an operand out of range is program fault 0x02, and an
uncorrectable word among its source rows aborts the steep. -/
def onStrain (core : BitVec 7) (op : Nat) (ok : State → BitVec 256 → Bool)
    (reads : State → BitVec 256 → List (Nat × Nat)) (s : State) (f : BitVec 256 → State → State) : Outcome State Fault Refusal :=
  let g := core.toNat
  match strainNow s g op with
  | none => done s
  | some w =>
    let i := strainIndex (coreOf s g).strainNext
    let s := strainBegin g w s
    if !ok s w then done (progFault g false i.toNat 2 s)
    else done (withReads g { word := w.setWidth 128, index := i, stream := false, dispatched := 0 } (reads s w) s (f w))

/-- The index of the strain command that started last, for its numeric events, whose latch then shows 0xC000 and above
(DESIGN CHOICE, log entry 60). -/
def strainStarted (s : State) (g : Nat) : BitVec 16 := strainIndex ((coreOf s g).strainNext - 1)

/-! ### Rows (spec/07 R221) -/

/-- A row's request will end with a status. -/
def endRow (s : State) (r : Row) (status : Nat) : State :=
  let mark (q : Request) : Request :=
    if q.queue = r.queue && q.tag = r.tag then { q with ending := some (q.ending.getD (BitVec.ofNat 8 status, 0)) } else q
  updAd (fun a => { a with requests := a.requests.map mark }) s

/-! ### Blocks of 16 × 16 (spec/04 R103, R111) -/

/-- Quantise one block of values to FP8: the codes, the scale byte and the event classes. -/
def quantise (xs : List Val) : List Byte × Byte × List Nat :=
  let e := blockExp roundE4m3 448 xs
  let ys := xs.map fun x => toE4m3 (x.shift (-e))
  (ys.map fun y => y.1, BitVec.ofInt 8 (e + 127),
    (if ys.any fun y => y.2 then [0] else []) ++ (if xs.any fun x => x.isNan then [1] else []))

/-- Element (i, j) of the blocks' order: the 256 positions of a block. -/
def blockIndices : List (Nat × Nat) := (List.range 256).map fun i => (i / 16, i % 16)

/-- A 16 × 16 block transposed. -/
def transposeBlock {α : Type} (d : α) (l : List α) : List α := blockIndices.map fun p => l.getD (16 * p.2 + p.1) d

/-! ### GATHER (spec/07 R204 to R208, R223) -/

/-- Bytes of a block of a page. -/
def pageBlockBytes (s : State) (p : Nat) : Nat := if kvFp4 s p then 128 else 256

/-- The bytes of the head's part of a page that hold channel blocks `lo` to `hi`: offset and length. -/
def partRange (s : State) (p part head lo hi : Nat) : Nat × Nat :=
  let nb := kvD s p / 16
  (pageBlockBytes s p * (part * kvH s p * nb + head * nb + lo), pageBlockBytes s p * (hi + 1 - lo))

/-- A block of a sealed page, from the bytes that hold its channel blocks from `lo` on: its 256 codes in E4M3 and its scale
byte. -/
def pageBlock (s : State) (p : Nat) (page tail : List Byte) (part head lo cb : Nat) : List Byte × Byte :=
  let h := kvH s p
  let nb := kvD s p / 16
  let j := cb - lo
  if kvFp4 s p then
    let codes := (List.range 256).map fun i => bits ((page.getD (128 * j + i / 2) 0).toNat) (4 * (i % 2)) 4
    (codes.map fun c => (toE4m3 (ofFp4 c)).1, tail.getD (part * h * (nb / 2) + head * (nb / 2) + cb / 2) 0)
  else ((page.drop (256 * j)).take 256, tail.getD (part * h + head) 0)

/-- A block of an open buffer, its rows below `n` only. -/
def openBlock (s : State) (p : Nat) (rows : List (List Byte)) (part head cb n : Nat) : List Byte × Byte × List Nat :=
  quantise (blockIndices.map fun t =>
    if n ≤ t.1 then Val.zero
    else
      let o := 2 * (part * kvH s p * kvD s p + head * kvD s p + 16 * cb + t.2)
      ofBf16 (BitVec.ofNat 16 (leNat (((rows.getD t.1 []).drop o).take 2))))

/-- The holder of an open buffer has written the row of a position and a layer (spec/07 R207, R228; log entry 66). -/
def rowWritten (s : State) (p b pos layer : Nat) : Bool := (sget [] b (kvOf s p).written).contains (16 * layer + pos)

/-- What GATHER reads for one page of 16 positions: the blocks asked for, each with codes and side byte. It reads and
verifies the head's part alone, and of an open buffer only rows that the sequence has written. -/
def gatherPage (env : ReadEnv) (g : Nat) (w : BitVec 256) (row : Row) (pg : Nat) (cbs : List Nat) (s : State) :
    List (List Byte × Byte) × State :=
  let p := coreOwnerD s g
  let q := seqOf s p row.seq.toNat
  let n := row.clen.toNat - 16 * pg
  let none_ : List Byte × Byte := (List.replicate 256 0, 0x7F)
  let asked := cbs.map fun cb => decide (16 * cb < kvD s p)
  if n = 0 || row.seq = 0 || isStepGroup s p (strainGroup s g) then (cbs.map fun _ => none_, s)
  else
    let clip (b : List Byte × Byte) : List Byte × Byte := (b.1.take (16 * n) ++ List.replicate (256 - 16 * n) 0, b.2)
    let l := sLayer w
    let c := q.chunks.getD pg 0
    let rec_ := sget {} c (kvOf s p).chunks
    let stale (owner : Bool) (s : State) : List (List Byte × Byte) × State :=
      (cbs.map fun _ => none_, endRow (if owner then { s with prog := { s.prog with kvOwner := s.prog.kvOwner + 1 } }
        else countStale 1 s) row stKeyRevoked)
    let used := cbs.filter fun cb => 16 * cb < kvD s p
    let lo := used.headD 0
    let range := partRange s p (sPart w) (sHead w) lo (used.getLast?.getD 0)
    if c ≠ 0 && rec_.sealed.contains l then
      if rec_.slot ≠ row.tslot || rec_.gen ≠ row.tgen then stale true s
      else if !pairOk s row.tslot.toNat row.tgen then stale false s
      else if used.isEmpty then (cbs.map fun _ => none_, s)
      else
        let a := pageAddr s p c l + range.1
        let v := verifyRange env a range.2 s
        let (page, s) := xtsReadAt row.tslot.toNat a range.2 v.2
        let (tail, s) := xtsReadAt row.tslot.toNat (tailAddr s p c l) (tailBytes s p) s
        let m := tailBytes s p - 8
        let bad := wordBytes (crc64 (tail.take m)) ≠ tail.drop m || env.mismatch.contains (tailAddr s p c l / 4096)
        let s := if bad then { s with prog := { s.prog with kvTail := s.prog.kvTail + 1 } } else s
        let s := if bad || v.1 then endRow s row stChecksum else s
        ((cbs.zip asked).map fun e => if e.2 then clip (pageBlock s p page tail (sPart w) (sHead w) lo e.1) else none_, s)
    else if q.buffer = 0 then (cbs.map fun _ => none_, s)
    else if q.slot ≠ row.tslot || q.gen ≠ row.tgen then stale true s
    else if !pairOk s row.tslot.toNat row.tgen then stale false s
    else
      let size := 4 * kvH s p * kvD s p
      let r := (List.range (min n 16)).foldl (fun (acc : List (List Byte) × State) t =>
        if rowWritten s p q.buffer t l then
          let x := xtsReadAt row.tslot.toNat (openRow acc.2 p q.buffer t l) size acc.2
          (acc.1 ++ [x.1], x.2)
        else (acc.1 ++ [List.replicate size 0], acc.2)) (([] : List (List Byte)), s)
      let bs := (cbs.zip asked).map fun e =>
        if e.2 then openBlock s p r.1 (sPart w) (sHead w) e.1 n else ((none_.1, none_.2, []) : List Byte × Byte × List Nat)
      (bs.map fun b => (b.1, b.2.1), opEvents g 2 (strainStarted s g) (bs.flatMap fun b => b.2.2) r.2)

/-- The strain command that started last waits for its HBM reads as well, for a number of cycles that the spec leaves open
(spec/07 R227; free value, log entry 65). -/
def awaitHbm (g : Nat) (s : State) : State :=
  let v := fresh 16 s
  let i := strainStarted s g
  let wait (r : RunOp) : RunOp := if r.index = i then { r with endAt := r.endAt + v.1.toNat } else r
  updCore g (fun k => { k with running := k.running.map wait }) v.2

/-- GATHER (spec/07 R223, R227). -/
def execGather (core : BitVec 7) (env : ReadEnv) (s : State) : Outcome State Fault Refusal :=
  let g := core.toNat
  let ok (s : State) (w : BitVec 256) : Bool :=
    sLayer w < kvL s (coreOwnerD s g) && sHead w < kvH s (coreOwnerD s g)
  onStrain core 1 ok (fun _ _ => []) (bringUpsets g env s) fun w s =>
    let row := batchRow s g (sRow w)
    let k0 := sKbase w / 16
    let pages := if sOrient w then 12 else 8
    let cbs := if sOrient w then (List.range 8).map fun i => 8 * sNsel w + i else List.range 12
    let r := (List.range pages).foldl (fun (acc : List (List (List Byte × Byte)) × State) i =>
      let x := gatherPage env g w row (k0 + i) cbs acc.2
      (acc.1 ++ [x.1], x.2)) (([] : List (List (List Byte × Byte))), s)
    let at_ (pg j : Nat) : List Byte × Byte := (r.1.getD pg []).getD j ([], 0x7F)
    let blocks := (List.range 96).map fun b =>
      if sOrient w then at_ (b / 8) (b % 8)
      else let x := at_ (b % 8) (b / 8); (transposeBlock 0 x.1, x.2)
    awaitHbm g
      (tileWrite g (sXaddr w) (blocks.map fun b => b.2) (tileWrite g (sDaddr w) (blocks.flatMap fun b => b.1) r.2))

/-! ### MASK (spec/07 R224) -/

/-- Key `j` is visible to a row. -/
def keyVisible (row : Row) (seq : BitVec 20) (p : Nat) : Bool :=
  row.seq ≠ 0 && row.mkind ≠ 3 && seq = row.seq && p < row.clen.toNat &&
    (match row.mkind.toNat with
      | 0 => true
      | 1 => p ≤ row.qpos.toNat
      | _ => row.qpos.toNat < p + row.win.toNat && p ≤ row.qpos.toNat)

/-- MASK (spec/07 R224). -/
def execMask (core : BitVec 7) (s : State) : Outcome State Fault Refusal :=
  let g := core.toNat
  onStrain core 2 (fun _ _ => true) (fun _ _ => []) s fun w s =>
    let key (j : Nat) : BitVec 20 × Nat :=
      if sKsrc w then let k := batchRow s g ((sKbase w + j) % 4096); (k.seq, k.qpos.toNat)
      else ((batchRow s g (sRow w)).seq, sKbase w + j)
    let keys := (List.range (sCols w)).map key
    let rows := (List.range (sRows w)).map fun i =>
      let row := batchRow s g (sRow w + i)
      keys.flatMap fun k => if keyVisible row k.1 k.2 then [0, 0] else ([0x80, 0xFF] : List Byte)
    (indexed rows).foldl (fun s r => tileWrite g (sDaddr w + sDstride w * r.1) r.2 s) s

/-! ### APPEND (spec/07 R206, R225) -/

/-- A source row of `n` elements as values. -/
def sourceVals (s : State) (g : Nat) (bf16 : Bool) (a n : Nat) : List Val :=
  (List.range n).map fun i => if bf16 then ofBf16 (tile16 s g (a + 2 * i)) else ofFp32 (tile32 s g (a + 4 * i))

/-- Seal the page of layer `l` of chunk `c`: the page, the tail, the sealed flag (spec/07 R206), and the numeric event
classes that it raises. -/
def sealPage (p slot c l : Nat) (rows : List (List Byte)) (s : State) : List Nat × State :=
  let h := kvH s p
  let d := kvD s p
  let v (part head ch t : Nat) : Val :=
    ofBf16 (BitVec.ofNat 16 (leNat (((rows.getD t []).drop (2 * (part * h * d + head * d + ch))).take 2)))
  let width := if kvFp4 s p then 32 else d
  let groups := (List.range 2).flatMap fun part => (List.range h).flatMap fun head =>
    (List.range (d / width)).map fun gr => (part, head, gr)
  let exps := groups.map fun e =>
    blockExp (if kvFp4 s p then roundFp4 else roundE4m3) (if kvFp4 s p then 6 else 448)
      ((List.range 16).flatMap fun t => (List.range width).map fun j => v e.1 e.2.1 (width * e.2.2 + j) t)
  let expOf (part head ch : Nat) : Int := exps.getD ((part * h + head) * (d / width) + ch / width) 0
  let codes := (List.range 2).flatMap fun part => (List.range h).flatMap fun head =>
    (List.range (d / 16)).flatMap fun cb => blockIndices.map fun t =>
      (v part head (16 * cb + t.2) t.1).shift (-(expOf part head (16 * cb)))
  let data := if kvFp4 s p then packNibbles (codes.map fun x => (toFp4 x).1) else codes.map fun x => (toE4m3 x).1
  let page := data ++ List.replicate (pageBytes s p - data.length) 0
  let scales := exps.map fun e => (BitVec.ofInt 8 (e + 127) : Byte)
  let body := scales ++ List.replicate (tailBytes s p - 8 - scales.length) 0
  let tail := body ++ wordBytes (crc64 body)
  let s := xtsWriteFor p slot true (pageAddr s p c l) page s
  let s := xtsWriteFor p slot false (tailAddr s p c l) tail s
  let clamps := codes.any fun x => if kvFp4 s p then (toFp4 x).2 else (toE4m3 x).2
  ((if clamps then [0] else []) ++ (if codes.any fun x => x.isNan then [1] else []),
  updKv p (fun k => { k with chunks := supd {} c (fun r => { r with sealed := (l :: r.sealed).eraseDups }) k.chunks }) s)

/-- Append one row: source K and V rows at the given addresses. A page that is sealed is not written again (spec/07 R206).
The numeric event classes stand beside the state. -/
def appendRow (g : Nat) (w : BitVec 256) (row : Row) (ka va : Nat) (s : State) : List Nat × State :=
  let p := coreOwnerD s g
  let q := seqOf s p row.seq.toNat
  let n := kvH s p * kvD s p
  let l := sLayer w
  let pos := row.qpos.toNat % 16
  if !row.app || row.seq = 0 || q.buffer = 0 || isStepGroup s p (strainGroup s g) then ([], s)
  else if !pairOk s row.tslot.toNat row.tgen then ([], countStale 1 s)
  else
    let vals := sourceVals s g (sBf16 w) ka n ++ sourceVals s g (sBf16 w) va n
    let ys := vals.map clampBf16
    let bytes := ys.flatMap fun y => wordBytes y.1
    let padded := bytes ++ List.replicate (openRowBytes s p - bytes.length) 0
    let s := xtsWriteFor p row.tslot.toNat false (openRow s p q.buffer pos l) padded s
    let s := updKv p (fun k => { k with written := supd [] q.buffer (fun (m : List Nat) => ((16 * l + pos) :: m).eraseDups) k.written }) s
    let classes := (if ys.any fun y => y.2 then [0] else []) ++ (if vals.any fun x => x.isNan then [1] else [])
    let c := q.chunks.getD (row.qpos.toNat / 16) 0
    if pos ≠ 15 || c = 0 || (sget {} c (kvOf s p).chunks).sealed.contains l then (classes, s)
    else
      let r := (List.range 16).foldl (fun (acc : List (List Byte) × State) t =>
        let x := xtsReadAt row.tslot.toNat (openRow acc.2 p q.buffer t l) (4 * n) acc.2
        (acc.1 ++ [x.1], x.2)) (([] : List (List Byte)), s)
      let x := sealPage p row.tslot.toNat c l r.1 r.2
      (classes ++ x.1, x.2)

/-- APPEND (spec/07 R225): the rows in batch order, with at most one numeric event of a class. -/
def execAppend (core : BitVec 7) (s : State) : Outcome State Fault Refusal :=
  let g := core.toNat
  let n (s : State) : Nat := kvH s (coreOwnerD s g) * kvD s (coreOwnerD s g)
  let reads (s : State) (w : BitVec 256) : List (Nat × Nat) := (appRows s g w).flatMap fun i =>
    [(sSaddr w + i * sSstride w, sRowBytes w (n s)), (sXaddr w + i * sSstride w, sRowBytes w (n s))]
  onStrain core 3 (fun s w => sLayer w < kvL s (coreOwnerD s g)) reads s fun w s =>
    let r := (List.range (sRows w)).foldl (fun (acc : List Nat × State) i =>
      let x := appendRow g w (batchRow acc.2 g (sRow w + i)) (sSaddr w + i * sSstride w) (sXaddr w + i * sSstride w) acc.2
      (acc.1 ++ x.1, x.2)) ([], s)
    opEvents g 2 (strainStarted r.2 g) r.1.eraseDups r.2

/-! ### BLOCK and TRANS (spec/07 R226) -/

/-- The source rows' ranges. -/
def strainSource (_ : State) (w : BitVec 256) : List (Nat × Nat) :=
  (List.range (sRows w)).map fun i => (sSaddr w + i * sSstride w, sRowBytes w (sCols w))

/-- Source element (row, column), zero outside. -/
def strainElem (s : State) (g : Nat) (w : BitVec 256) (r c : Nat) : Val :=
  if sRows w ≤ r || sCols w ≤ c then Val.zero
  else if sBf16 w then ofBf16 (tile16 s g (sSaddr w + r * sSstride w + 2 * c))
  else ofFp32 (tile32 s g (sSaddr w + r * sSstride w + 4 * c))

/-- BLOCK (spec/07 R226). -/
def execBlock (core : BitVec 7) (s : State) : Outcome State Fault Refusal :=
  let g := core.toNat
  let ok (_ : State) (w : BitVec 256) : Bool :=
    if sOrient w then sRows w ≤ 192 && sCols w ≤ 128 else sRows w ≤ 128 && sCols w ≤ 192
  onStrain core 4 ok strainSource s fun w s =>
    let blocks := (List.range 96).map fun b => quantise (blockIndices.map fun t =>
      let k := 16 * (b / 8) + t.1
      let n := 16 * (b % 8) + t.2
      if sOrient w then strainElem s g w k n else strainElem s g w n k)
    let s := tileWrite g (sDaddr w) (blocks.flatMap fun b => b.1) s
    let s := tileWrite g (sXaddr w) (blocks.map fun b => b.2.1) s
    opEvents g 2 (strainStarted s g) (blocks.flatMap fun b => b.2.2) s

/-- TRANS (spec/07 R226). -/
def execTrans (core : BitVec 7) (s : State) : Outcome State Fault Refusal :=
  let g := core.toNat
  onStrain core 5 (fun _ w => sRows w ≤ 512 && sCols w ≤ 512) strainSource s fun w s =>
    let rows := (List.range (sCols w)).map fun c =>
      (List.range ((sRows w + 31) / 32)).map fun b =>
        quantise ((List.range (min 32 (sRows w - 32 * b))).map fun i => strainElem s g w (32 * b + i) c)
    let s := (indexed rows).foldl (fun s r =>
      tileWrite g (sDsaddr w + sDstride w / 32 * r.1) (r.2.map fun x => x.2.1)
        (tileWrite g (sDaddr w + sDstride w * r.1) (r.2.flatMap fun x => x.1) s)) s
    opEvents g 2 (strainStarted s g) (rows.flatMap fun r => r.flatMap fun x => x.2.2) s

end Sys2Proof.Machine
end

