-- ==== Sys2Proof/Machine/Admission.lean ====
section
/-! DEFINITION. Admission (spec/06 R178 to R189, spec/07 R211 to R213 and R221, spec/14 R413 and R414): SUBMIT, the sort,
segment tables and KV row tables, the caddies' prefetch and fill, and the infusers. -/

namespace Sys2Proof.Machine

open Host (Outcome)

/-! ### The checks of Table AD-5 (spec/06 R179) -/

/-- Status of check 5 for an INVALID adapter. -/
def invalidStatus (d : BitVec 1024) : Nat :=
  match (dReason d).toNat with
  | 1 => stBaseMismatch
  | 2 => stKeyRevoked
  | _ => stAdapterInvalid

/-- The members of a consortium slot that govern admission to steep `k`: those of a rotation import that takes effect by
then, else the slot's own (spec/13 R387). -/
def membersAt (s : State) (slot : Nat) (k : BitVec 64) : List (BitVec 13 × BitVec 16) :=
  match s.cust.imports.find? fun i => i.slot.toNat = slot && i.consortium && ahead i.steep k = 0 with
  | some i => i.members
  | none => (slotOf s slot).members

/-- The job kind is allowed in the adapter's state (Table AD-6); none is ADID 0. -/
def jobAllowed (job : BitVec 2) (step : Bool) (st : Option (BitVec 2)) : Bool :=
  match job.toNat with
  | 0 => st == some adTraining && step
  | 1 => true
  | _ => st == none || st == some adServing

/-- Checks 2 to 7 of Table AD-5 for a request: the first that fails, with its order. At the sort (`sort`) check 3 is not
made again, and the state is that of the coming boundary. -/
def admitCheck (s : State) (sort : Bool) (r : Request) : Option (Nat × Nat) :=
  let p := r.part.toNat
  let step := isStepGroup s p r.grp.toNat
  let own := sort || (slotOf s r.slot.toNat).gen = r.gen
  let gen := bindGen s p
  if r.adid = 0 then
    if !own then some (stKeyRevoked, 3)
    else if gen.isNone then some (stBaseMismatch, 6)
    else if !jobAllowed r.job step none then some (stNotPermitted, 7)
    else none
  else match didxFor s p r.adid with
    | none => some (stAdapterInvalid, 2)
    | some i =>
      let d := descOf s i
      let st := if sort then stateAt s i (s.steep.k + 1) (sidxNext s) else dState d
      if !own || (!sort && (slotOf s (dSlot d)).gen ≠ dKgen d) then some (stKeyRevoked, 3)
      else if dCons d && !(membersAt s (dSlot d) (if sort then s.steep.k + 1 else s.steep.k)).contains (r.slot, r.gen)
        then some (stNotPermitted, 4)
      else if st = adInvalid then some (invalidStatus d, 5)
      else if gen ≠ some (dBaseGen d) then some (stBaseMismatch, 6)
      else if !jobAllowed r.job step (some st) then some (stNotPermitted, 7)
      else none

/-- The request that a SUBMIT describes (spec/14 Table HQ-9). Only a SERVE group carries a sequence (spec/07 R211). -/
def requestOf (s : State) (c : Cmd) : Request :=
  let w := c.word
  let p0 := cP0 w
  let p1 := cP1 w
  let g := (queueOf s c.queue.toNat).group
  { cmd := c.id, queue := c.queue, tag := fld w 8 16, part := c.part, grp := g, stamp := c.stamp, adid := cAdid w,
    slot := BitVec.ofNat 13 (cSlot w), gen := cGen w, rows := bits p0 0 12 + 1, job := BitVec.ofNat 2 (bits p0 12 2),
    mkind := BitVec.ofNat 2 (bits p0 14 2),
    seq := if isStepGroup s c.part.toNat g.toNat then 0 else BitVec.ofNat 20 (bits p1 0 20),
    win := BitVec.ofNat 20 (bits p1 20 20), first := BitVec.ofNat 20 (bits p1 40 20),
    input := cAddr0 w, len := cLen w, result := cAddr1 w, resBytes := bits (cP2 w) 0 32 }

/-- SUBMIT (spec/06 R179, spec/14 R409): the oldest one that has been accepted is checked and becomes a candidate. The
reserved job code is refused as a reserved value, by check 1 of R409. -/
def execSubmit (s : State) : Outcome State Fault Refusal :=
  match s.front.cmds.find? fun c => !c.taken && cOpcode c.word = 1 with
  | none => done s
  | some c =>
    let r := requestOf s c
    let p := r.part.toNat
    if r.job = 3 then done (finish c.id stFormat 1 0 s)
    else if capacity s p r.grp.toNat < r.rows || r.rows * rowBytes s true r < r.resBytes then
      done (finish c.id stFormat 1 0 s)
    else match admitCheck s false r with
      | some e => done (finish c.id e.1 e.2 0 s)
      | none => done (updAd (fun a => { a with requests := a.requests ++ [r] }) (takeUp c.id s))

/-! ### The segment table (spec/06 R181, R183) -/

/-- Rows `[lo, hi)` cut at every multiple of 512. -/
def windowPieces (lo hi : Nat) : List (Nat × Nat) :=
  (List.range ((hi + 511) / 512)).filterMap fun w =>
    let a := max lo (512 * w)
    let b := min hi (512 * w + 512)
    if a < b then some (a, b - a) else none

/-- The adapters of admitted requests: in the order of their first request, ADID 0 last. -/
def adapterOrder (rs : List Request) : List (BitVec 24) :=
  let l := (rs.map fun r => r.adid).eraseDups
  l.filter (· ≠ 0) ++ l.filter (· = 0)

/-- Requests by adapter, in admission order within each. -/
def orderRequests (rs : List Request) : List Request :=
  (adapterOrder rs).flatMap fun a => rs.filter fun r => r.adid = a

/-- Give each request its first row. -/
def placeRows : Nat → List Request → List Request
  | _, [] => []
  | n, r :: rs => { r with row0 := n } :: placeRows (n + r.rows) rs

/-- The rows that requests take. -/
def rowsOf (rs : List Request) : Nat := rs.foldl (fun n r => n + r.rows) 0

/-- The entries of an adapter's rows. -/
def entriesOf (s : State) (placed : List Request) (a : BitVec 24) : List Seg :=
  let mine := placed.filter fun r => r.adid = a
  let lo := (mine.head?.map fun r => r.row0).getD 0
  let i := (didxOf s a).getD 0
  let d := descOf s i
  let kinds : BitVec 2 := if a = 0 then 0 else BitVec.ofNat 2 ((dLowRank d).toNat + 2 * (dScale d).toNat)
  (windowPieces lo (lo + rowsOf mine)).map fun e =>
    { didx := if a = 0 then 0 else BitVec.ofNat 16 i, adid := a, row0 := e.1, nrows := e.2, kinds := kinds }

/-- The entries of a table of capacity `cap` for admitted requests, padding included. -/
def layoutSegs (s : State) (cap : Nat) (rs : List Request) : List Seg :=
  let placed := placeRows 0 (orderRequests rs)
  (adapterOrder rs).flatMap (entriesOf s placed) ++
    (windowPieces (rowsOf rs) cap).map fun e => { row0 := e.1, nrows := e.2 }

/-- No window of a table holds more than `m` entries. -/
def windowsFit (segs : List Seg) (cap m : Nat) : Bool :=
  (List.range ((cap + 511) / 512)).all fun w => (segs.countP fun e => e.row0 / 512 = w) ≤ m

/-- Row `i` of a request that has this rank in admission order (spec/06 Table AD-11, spec/07 R221 and Table AT-4). -/
def rowOfRequest (step : Bool) (rank : Nat) (r : Request) (i : Nat) : Row :=
  let j := i - r.row0
  { queue := r.queue, tag := r.tag, tslot := r.slot, tgen := r.gen, mask := r.job = 0,
    seq := if step then BitVec.ofNat 20 (rank + 1) else r.seq,
    qpos := if step then BitVec.ofNat 20 j else r.first + BitVec.ofNat 20 j,
    clen := if step then BitVec.ofNat 21 r.rows else BitVec.ofNat 21 (r.first.toNat + r.rows),
    win := r.win, mkind := r.mkind, app := !step && r.seq ≠ 0 }

/-- A padding row: the slot and generation of the nearest admitted row before it, zeros in a table without one. -/
def paddingRow (last : Option Request) : Row :=
  match last with
  | some r => { tslot := r.slot, tgen := r.gen }
  | none => {}

/-- The table of a group for the next steep. -/
def buildTable (s : State) (p g : Nat) (gen : BitVec 16) (rs : List Request) : Table :=
  let cap := capacity s p g
  let step := isStepGroup s p g
  let placed := placeRows 0 (orderRequests rs)
  let rank (r : Request) : Nat := (rs.findIdx? fun x => x.cmd = r.cmd).getD 0
  { steep := s.steep.k + 1, step := if step then s.steep.step + 1 else 0, gen := gen, cap := cap, used := rowsOf rs,
    segs := layoutSegs s cap rs,
    rows := (placed.flatMap fun r => (List.range r.rows).map fun j => rowOfRequest step (rank r) r (r.row0 + j)) ++
      List.replicate (cap - rowsOf rs) (paddingRow placed.getLast?) }

/-! ### The sort (spec/06 R180, R199, R200) -/

/-- The module is known to be Locked at the next boundary: it is; or it is in Listen and meets the conditions of an entry
there; or a takeover or a committed table change maps an LDN to it there (spec/02 Table ST-4, spec/12 R348, R358). -/
def lockedNext (s : State) : Bool :=
  match s.steep.engine with
  | .locked => true
  | .listen => s.timeKnown && 2 ≤ s.steep.wavesIn && s.steep.offset.natAbs ≤ 40 && sidxNext s = 0 && (ownLdn s).isSome
  | .standby => (s.fab.effects.any fun e => e.2.1 = s.fab.sna && hasBegun s e.2.2) ||
      (s.dict.commit = some (s.steep.k + 1) &&
        (List.range 1024).any fun l => cfgShadow s (0x7100 + l / 128) (l % 128 + 1) = s.fab.sna.toNat)
  | _ => false

/-- A row group of a running partition that receives a table for the next steep. -/
def groupDue (s : State) (p g : Nat) : Bool :=
  decide ((partOf s p).state = .running) && capacity s p g ≠ 0 && (!isStepGroup s p g || sidxNext s = 0)

/-- The cores of a partition. -/
def coresOf (s : State) (p : Nat) : List Nat := (List.range 128).filter fun c => holdsCore s p c

/-- The address of the image that core `c` runs `j` steeps after the next one, under binding `b`. -/
def imageAhead (s : State) (c : Nat) (b : Binding) (j : Nat) : Nat :=
  let e := dirEntry s b (entryOf b (s.steep.k + 1 + BitVec.ofNat 64 j) ((sidxNext s + j) % stepLen s))
  if pairedNext s c b && dPvalid e then dPprog e else dFprog e

/-- MAXSEG of every slot that uses the group: in the next steep, or for a STEP group in any steep of the step. -/
def segLimits (s : State) (p g : Nat) : List Nat :=
  (coresOf s p).flatMap fun c =>
    (List.range (if isStepGroup s p g then stepLen s else 1)).flatMap fun j =>
      let k := s.steep.k + 1 + BitVec.ofNat 64 j
      let b := bindingAt s c k
      if isTrain b || isServe b then
        let h := headerAt s (imageAhead s c b j)
        let i := entryOf b k ((sidxNext s + j) % stepLen s)
        (List.range 4).filterMap fun n =>
          if hMaxSeg h n ≠ 0 && cRowgrp (slotCtlAt s b i n) = g then some (hMaxSeg h n) else none
      else []

/-- The requests of a group already admitted to the next steep, in admission order. -/
def admittedNext (s : State) (p g : Nat) : List Request :=
  s.ad.requests.filter fun r => r.part.toNat = p && r.grp.toNat = g && r.steep = some (s.steep.k + 1)

/-- Every request admitted to the next steep. -/
def allNext (s : State) : List Request := s.ad.requests.filter fun r => r.steep = some (s.steep.k + 1)

/-- The group stays on its old generation: an admitted request of a SERVE group is bound to another one (spec/06 R200). A
STEP group's requests end at the step start that the sort serves. -/
def pinnedGen (s : State) (p g : Nat) : Option (BitVec 16) :=
  if isStepGroup s p g then none
  else (s.ad.requests.find? fun r => r.part.toNat = p && r.grp.toNat = g && r.steep.isSome &&
    r.steep ≠ some (s.steep.k + 1) && some r.baseGen ≠ bindGen s p).map fun r => r.baseGen

/-- Every layer entry of a TRAINING adapter lies in range (spec/04 R126). -/
def layersOk (s : State) (d : BitVec 1024) : Bool :=
  (List.range (dLcount d)).all fun l =>
    let v := memWord s (dLtab d + 4 * l) 4
    sgn 8 (bits v 24 8) ≤ 112 && bits v 16 8 ≠ 0

/-- What R211 of spec/07 refuses at admission for a request that names a sequence. The status of a request whose sequence
is not open or not its own is NOT_PERMITTED (DESIGN CHOICE, log entry 18). -/
def seqRefusal (s : State) (r : Request) : Option (Nat × Nat) :=
  if r.seq = 0 then none
  else
    let x := seqOf s r.part.toNat r.seq.toNat
    if x.state ≠ .opened || x.slot ≠ r.slot || x.gen ≠ r.gen || x.adid ≠ r.adid then some (stNotPermitted, 0)
    else if bindGen s r.part.toNat ≠ some x.baseGen then some (stBaseMismatch, 0)
    else if r.first.toNat ≠ x.length || 0x100000 < r.first.toNat + r.rows then some (stFormat, 0)
    else none

/-- What the sort refuses a candidate for: a pending DESTROY, the checks of Table AD-5 again, the HOLD test (spec/09
R259), the layer table (spec/04 R126), and the sequence rules. -/
def sortRefusal (s : State) (r : Request) : Option (Nat × Nat) :=
  let p := r.part.toNat
  let i := (didxFor s p r.adid).getD 0
  let d := descOf s i
  if r.adid ≠ 0 && (didxFor s p r.adid).isSome && !(sget [] i s.ad.destroying).isEmpty then some (stAdapterInvalid, 0)
  else match admitCheck s true r with
    | some e => some e
    | none =>
      if r.job = 0 && !((ownLdn s).map fun l => isHolder s d l).getD false then some (stNotPermitted, 0)
      else if r.job = 0 && !layersOk s d then some (stFormat, 0)
      else seqRefusal s r

/-- The request fits: its rows, every window's entries, 4,096 requests and the input limit (spec/06 R180, spec/14
R413). -/
def fits (s : State) (r : Request) : Bool :=
  let p := r.part.toNat
  let g := r.grp.toNat
  let rs := admittedNext s p g ++ [r]
  let cap := capacity s p g
  rowsOf rs ≤ cap && ((segLimits s p g).all fun m => windowsFit (layoutSegs s cap rs) cap m) &&
    (allNext s).length < 4096 && (allNext s).foldl (fun n x => n + x.len) r.len ≤ cfg s 0x3005 1

/-- A sequence's open buffer is shared. -/
def bufferShared (s : State) (p : Nat) (x : Sequence) : Bool := 1 < sget 0 x.buffer (kvOf s p).buffers

/-- The sequence is free for an append in the next steep: no other admitted request names it there, its chunks are free,
and so is a buffer where its own is shared. -/
def kvFits (s : State) (r : Request) : Bool :=
  if r.seq = 0 then true
  else
    let p := r.part.toNat
    let x := seqOf s p r.seq.toNat
    !((allNext s).any fun y => y.part = r.part && y.seq = r.seq) &&
      chunksNeeded x r.first.toNat r.rows ≤ freeChunks s p && (!bufferShared s p x || (freeBuffer s p).isSome)

/-- A candidate leaves with a status. -/
def refuseRequest (r : Request) (status detail : Nat) (s : State) : State :=
  finish r.cmd status detail 0 (updAd (fun a => { a with requests := a.requests.filter fun x => x.cmd ≠ r.cmd }) s)

/-- A skipped request is deferred, and beyond the deferral limit it ends with TIMEOUT (spec/06 R180). -/
def deferRequest (r : Request) (s : State) : State :=
  let s := if r.deferred = 0 then updAd (fun a => { a with deferred := a.deferred + 1 }) s else s
  if cfg s 0x2400 2 < r.deferred + 1 then
    refuseRequest r stTimeout 0 (updAd (fun a => { a with timedOut := a.timedOut + 1 }) s)
  else updRequest r.cmd (fun x => { x with deferred := x.deferred + 1 }) s

/-- The chunks of an admitted append enter its page table, tree entries go while the free chunks are below the watermark,
and a shared open buffer is replaced by a fresh one to copy into (spec/07 R212, R213, R217). -/
def allocKv (r : Request) (s : State) : State :=
  if r.seq = 0 then s
  else
    let p := r.part.toNat
    let q := r.seq.toNat
    let x := seqOf s p q
    let n := chunksNeeded x r.first.toNat r.rows
    let mine := freeNumbers n n 1 (kvOf s p).chunks
    let s := updKv p (fun k => setSeq q { x with chunks := x.chunks ++ mine }
      { k with chunks := mine.foldl (fun m c => sput {} c { refs := 1, slot := r.slot, gen := r.gen } m) k.chunks }) s
    let s := evict p (updRequest r.cmd (fun y => { y with chunks := mine }) s)
    if !bufferShared s p x then s
    else match freeBuffer s p with
      | none => s
      | some b => updKv p (fun k =>
          setSeq q { sget {} q k.seqs with buffer := b }
            { k with buffers := sput 0 b 1 (supd 0 x.buffer (· - 1) k.buffers),
                     written := sput [] b (sget [] x.buffer k.written) k.written,
                     copies := k.copies ++ [(q, x.buffer, b)] }) s

/-- A request is admitted to the next steep. -/
def admitRequest (r : Request) (gen : BitVec 16) (s : State) : State :=
  let step := isStepGroup s r.part.toNat r.grp.toNat
  let s := updRequest r.cmd (fun x => { x with
    steep := some (s.steep.k + 1), baseGen := gen, step := if step then s.steep.step + 1 else x.step }) s
  allocKv r s

/-- The sorter takes one candidate. One of a STEP group that is already deferred ages in the other steeps. -/
def sortOne (r : Request) (s : State) : State :=
  let p := r.part.toNat
  let g := r.grp.toNat
  if !groupDue s p g then
    (if r.deferred ≠ 0 && decide ((partOf s p).state = .running) && capacity s p g ≠ 0 then deferRequest r s else s)
  else match sortRefusal s r with
    | some e => refuseRequest r e.1 e.2 s
    | none =>
      if (pinnedGen s p g).isSome || !fits s r || !kvFits s r then deferRequest r s
      else admitRequest r ((bindGen s p).getD 0) s

/-- Place a group's admitted requests and form its table. -/
def formTable (p g : Nat) (s : State) : State :=
  if !groupDue s p g then s
  else
    let rs := admittedNext s p g
    let gen := (pinnedGen s p g).getD ((bindGen s p).getD 0)
    let t := buildTable s p g gen rs
    let s := (placeRows 0 (orderRequests rs)).foldl (fun s r => updRequest r.cmd (fun x => { x with row0 := r.row0 }) s) s
    updAd (fun a => { a with nextTables := sput none (4 * p + g) (some t) a.nextTables }) s

/-- ADMISSION_SORT (spec/06 R180): once a steep, at its boundary and after a COMMIT that takes effect there. -/
def execAdmissionSort (s : State) : Outcome State Fault Refusal :=
  let k := s.steep.k
  let due := match s.dict.commit with
    | some e => decide (e.toNat ≤ k.toNat)
    | none => false
  if !lockedNext s || s.ad.sorted = some (k + 1) || due || s.steep.decision ≠ 0 then done s
  else
    let cands := s.ad.requests.filter fun r => r.steep.isNone && ahead s.steep.b r.stamp ≠ 0
    let s := updAd (fun a => { a with nextTables := [] }) s
    let s := cands.foldl (fun s r => sortOne r s) s
    let s := (List.range 256).foldl (fun s n => formTable (n / 4) (n % 4) s) s
    done (updAd (fun a => { a with sorted := some (k + 1), published := false, prefetch := [] }) s)

/-! ### The next steep of a core -/

/-- What core `g` runs in the next steep: its binding, directory entry and program header; none for an idle one. -/
def coreNext (s : State) (g : Nat) : Option (Binding × Nat × BitVec 512) :=
  let b := bindingAt s g (s.steep.k + 1)
  if isTrain b || isServe b then
    some (b, entryOf b (s.steep.k + 1) (sidxNext s), headerAt s (nextImageAddr s g b))
  else none

/-! ### The caddies (spec/06 R184 to R186) -/

/-- The blocks that one slot of a core wants: DIDX and block address. -/
def slotBlocks (s : State) (p : Nat) (c : BitVec 256) : List (Nat × Nat) :=
  let layer := (fld c 46 12).toNat
  let proj := (fld c 58 4).toNat
  let tiles (lo n : Nat) : List Nat := (List.range (n + 1)).map fun i => lo + i
  match tableNext s p (cRowgrp c) with
  | none => []
  | some t => t.segs.flatMap fun g =>
      let r := if g.adid = 0 then 0 else passes (dRank (descOf s g.didx.toNat))
      let a := (tiles (fld c 62 8).toNat (fld c 70 8).toNat).flatMap fun kt => (List.range r).filterMap fun pass =>
        aSliceOf s g layer proj kt pass
      let b := (tiles (fld c 78 12).toNat (fld c 90 12).toNat).flatMap fun nt =>
        ((List.range r).filterMap fun pass => bSliceOf s g layer proj nt pass) ++ (scaleSliceOf s g layer proj nt).toList
      ((a ++ b).flatMap blocksOf).map fun x => (g.didx.toNat, 4096 * x)

/-- The prefetch list of a die for the next steep (spec/06 R185). -/
def dieList (s : State) (die : Nat) : List (BitVec 2 × BitVec 16 × Nat) :=
  (((List.range 32).flatMap fun i =>
    let g := 32 * die + i
    match coreNext s g with
    | none => []
    | some x => (List.range 4).flatMap fun n =>
        if hMaxSeg x.2.2 n = 0 then [] else slotBlocks s (coreOwnerD s g) (slotCtlAt s x.1 x.2.1 n)).eraseDups).map
    fun e => (BitVec.ofNat 2 die, BitVec.ofNat 16 e.1, e.2)

/-- CADDY_PREFETCH_LIST (spec/06 R185): at B(k) + 20,000 cycles each die gets its list for steep k + 1, and pins the
resident blocks on it; the pins of earlier steeps end. -/
def execCaddyPrefetchList (s : State) : Outcome State Fault Refusal :=
  onlyIf (s.ad.sorted = some (s.steep.k + 1) && s.ad.prefetch.isEmpty) s fun s =>
    let s := untilTime (s.steep.b + 20000) s
    let l := (List.range 4).flatMap (dieList s)
    let k := s.steep.k
    let pin (die : Nat) (b : CaddyBlock) : CaddyBlock :=
      let wanted := l.any fun e => e.1.toNat = die && e.2.2 = b.addr
      { b with pins := (if wanted then [k + 1] else []) ++ b.pins.filter fun x => x = k }
    let s := (List.range 4).foldl (fun s die => setCaddy die ((caddyOf s die).map (pin die)) s) s
    updAd (fun a => { a with prefetch := l }) s

/-- A resident block of an address under a descriptor's key pair. -/
def caddyHit (s : State) (die : Nat) (d : BitVec 1024) (addr : Nat) : Option CaddyBlock :=
  (caddyOf s die).find? fun b => b.addr = addr && b.slot.toNat = dSlot d && b.kgen = dKgen d

/-- The row groups that the cores of a die serve in the present steep, or in the next one: partition and group. -/
def dieGroups (s : State) (die : Nat) (next : Bool) : List (Nat × Nat) :=
  (List.range 32).flatMap fun i =>
    let g := 32 * die + i
    let gs := if next then
        (match coreNext s g with
        | none => []
        | some x => (List.range 4).filterMap fun n =>
            if hMaxSeg x.2.2 n = 0 then none else some (cRowgrp (slotCtlAt s x.1 x.2.1 n)))
      else steepGroups s g
    gs.map fun n => (coreOwnerD s g, n)

/-- What a block error of a caddy fill on a die does to the rows of steep k, or of steep k + 1, that the block serves:
FAIL[399] for rows of a STEP group, and CHECKSUM for the requests of a SERVE group (spec/10 Table HB-4). -/
def fillFailed (die : Nat) (next : Bool) (adid : BitVec 24) (s : State) : State :=
  let gs := dieGroups s die next
  let k := s.steep.k + (if next then 1 else 0)
  let hit (r : Request) : Bool := r.adid = adid && gs.contains (r.part.toNat, r.grp.toNat) &&
    (r.steep = some k || (r.steep.isSome && isStepGroup s r.part.toNat r.grp.toNat))
  let step (r : Request) : Bool := isStepGroup s r.part.toNat r.grp.toNat
  let mark (r : Request) : Request :=
    if hit r && !step r then { r with ending := some (r.ending.getD (BitVec.ofNat 8 stChecksum, 0)) } else r
  let any := s.ad.requests.any fun r => hit r && step r
  let s := updAd (fun a => { a with requests := a.requests.map mark }) s
  if any then failStep 3 s else s

/-- Restore a failed image block (spec/10 R299): the outstanding count rises by the block's image units that other owners
hold, each owner is asked for its units, and units of this module's own shards are rewritten from their masters. The
block is whole again when the last unit asked for has come. -/
def restoreImage (didx addr : Nat) (s : State) : State :=
  let d := descOf s didx
  let base := dPage d (dRole d)
  let b := addr / 4096
  let inBlock (o : Nat) : Bool := (base + o) / 4096 = b
  let awaited (s : State) : Bool := s.ad.restoring.any fun r => r.1 = didx && r.2.1 = b
  let close (s : State) : State := if awaited s then s else endRestore b s
  if awaited s then s
  else close ((List.range (mapCount s d)).foldl (fun s j =>
    let e := mapEntry s d j
    let x : Shard := { didx := BitVec.ofNat 16 didx, adid := dAdid d, entry := j, word := e,
                       rows := partRows s d (eLayer e) (eProj e) (ePart e), owned := some (eOldn e) = ownLdn s }
    let us := (imageUnits s x).filter inBlock
    if us.isEmpty then s
    else if x.owned then rebuildImage x s
    else send (.ldn (BitVec.ofNat 10 (eOldn e))) (.restoreRequest (dAdid d) (us.map (BitVec.ofNat 48)))
      (updAd (fun a => { a with
        outstanding := supd 0 didx (· + us.length) a.outstanding,
        restoring := match a.restoring.find? fun r => r.1 = didx && r.2.1 = b with
          | some r => a.restoring.erase r ++ [(didx, b, r.2.2 ++ us)]
          | none => a.restoring ++ [(didx, b, us)] }) s)) s)

/-- Put a block into a partition's share of a die's caddy: the lowest free frame, else the frame of its least recently
used unpinned block; none where every block is pinned (spec/06 R185). -/
def allocCaddy (die p : Nat) (b : CaddyBlock) (s : State) : State :=
  let mine := (caddyOf s die).filter fun x => x.part.toNat = p
  let n := shareBytes s p / 4096
  match (List.range n).find? fun f => !(mine.any fun x => x.frame = f) with
  | some f => setCaddy die (caddyOf s die ++ [{ b with frame := f }]) s
  | none =>
    let lru := mine.foldl (fun (o : Option CaddyBlock) x =>
      if x.pins.isEmpty then (match o with
        | none => some x
        | some y => if x.used < y.used then some x else some y) else o) none
    match lru with
    | none => count (0x80 + die) 0x042 1 s
    | some v => count (0x80 + die) 0x043 1
        (setCaddy die ((caddyOf s die).erase v ++ [{ b with frame := v.frame }]) s)

/-- Fill one block of an adapter's image (spec/06 R184): its bytes, and the state. A block error is delivered as read and
not allocated. -/
def fillBlock (env : ReadEnv) (next : Bool) (die didx addr : Nat) (s : State) : List Byte × State :=
  let d := descOf s didx
  let p := dPart d
  let v := verifyBlock env (addr / 4096) s
  let r := xtsRead (dSlot d) addr 4096 v.2
  let s := count (0x80 + die) 0x046 64 r.2
  if v.1 then (r.1, restoreImage didx addr (fillFailed die next (dAdid d) (count (0x80 + die) 0x047 1 s)))
  else
    let wants (l : List (BitVec 2 × BitVec 16 × Nat)) : Bool := l.any fun e => e.1.toNat = die && e.2.2 = addr
    let coming := s.ad.sorted = some (s.steep.k + 1) && wants s.ad.prefetch
    let b : CaddyBlock := {
      addr := addr, part := BitVec.ofNat 6 p, slot := BitVec.ofNat 13 (dSlot d), kgen := dKgen d, data := r.1, frame := 0,
      pins := (if coming then [s.steep.k + 1] else []) ++ (if wants s.ad.prefetchNow then [s.steep.k] else []), used := s.clock }
    (r.1, allocCaddy die p b s)

/-- CADDY_FILL (spec/06 R184, R185; spec/09 R280; spec/10 R297 to R299): a listed block that is not resident, of a settled
adapter whose key is current. -/
def execCaddyFill (die : BitVec 2) (didx : BitVec 16) (addr : BitVec 48) (env : ReadEnv) (s : State) :
    Outcome State Fault Refusal :=
  let i := didx.toNat
  let d := descOf s i
  let a := addr.toNat / 4096 * 4096
  onlyIf (s.ad.prefetch.contains (die, didx, a) && isSettled s i && pairOk s (dSlot d) (dKgen d) &&
    (caddyHit s die.toNat d a).isNone) s fun s => (fillBlock env true die.toNat i a s).2

/-! ### Publication (spec/06 R181, R183, R198; spec/07 R221; spec/08 R244; spec/14 R414) -/

/-- The header of a segment table (Table AD-9). -/
def tableHeader (t : Table) : BitVec 512 :=
  BitVec.ofNat 512 (t.steep.toNat + t.gen.toNat * 2 ^ 64 + t.segs.length * 2 ^ 80 + t.used * 2 ^ 93 + t.cap * 2 ^ 106 +
    t.step.toNat * 2 ^ 128)

/-- The extra-expert slots of a layer that `f` picks. -/
def expertBits (s : State) (layer : Nat) (f : ExpertSlot → Bool) : Nat :=
  (List.range 16).foldl (fun n i => if f (expertOf s layer i) then n + 2 ^ i else n) 0

/-- A segment entry (Table AD-10) for a slot of this layer. -/
def entryWord (s : State) (layer : Nat) (g : Seg) : BitVec 128 :=
  BitVec.ofNat 128 (expertBits s layer (fun x => ownsExpert x g.adid) * 2 ^ 12 +
    expertBits s layer (fun x => holdsExpert x g.adid) * 2 ^ 28 + g.kinds.toNat * 2 ^ 44 + g.nrows * 2 ^ 46 +
    g.row0 * 2 ^ 59 + g.adid.toNat * 2 ^ 72 + g.didx.toNat * 2 ^ 96)

/-- A row record (Table AD-11). -/
def rowRecord (r : Row) : BitVec 64 :=
  packR 64 [(13, r.queue.toNat), (16, r.tag.toNat), (13, r.tslot.toNat), (16, r.tgen.toNat), (5, 0), (1, r.mask.toNat)]

/-- A KV row record (spec/07 Table AT-4). -/
def kvRecord (r : Row) : BitVec 128 :=
  packR 128 [(20, r.seq.toNat), (20, r.qpos.toNat), (21, r.clen.toNat), (20, r.win.toNat), (2, r.mkind.toNat),
    (1, r.app.toNat), (13, r.tslot.toNat), (16, r.tgen.toNat)]

/-- Bytes up to the next 64-byte boundary. -/
def pad64 (bs : List Byte) : List Byte := bs ++ List.replicate ((64 - bs.length % 64) % 64) 0

/-- The four parts of a table region (spec/06 R183). -/
def tableBytes (s : State) (layer : Nat) (t : Table) : List Byte :=
  pad64 (pad64 (wordBytes (tableHeader t) ++ t.segs.flatMap fun g => wordBytes (entryWord s layer g)) ++
    t.rows.flatMap fun r => leBytes 4 (if r.mask then 0x3F800000 else 0)) ++
    t.rows.flatMap fun r => wordBytes (rowRecord r)

/-- Write the tables that core `g` uses in the next steep. -/
def publishCore (g : Nat) (s : State) : State :=
  match coreNext s g with
  | none => s
  | some (b, i, h) =>
    let p := coreOwnerD s g
    let s := (List.range 4).foldl (fun s n =>
      let c := slotCtlAt s b i n
      if hMaxSeg h n = 0 then s
      else match tableNext s p (cRowgrp c) with
        | none => s
        | some t => tileWrite g (hSeg h n) (tableBytes s (fld c 46 12).toNat t) s) s
    let c := kvCtlAt s b i
    if !kValid c then s
    else match tableNext s p (kRowgrp c) with
      | none => s
      | some t => tileWrite g (kRows c) (t.rows.flatMap fun r => wordBytes (kvRecord r)) s

/-- The rows of a request whose input copy is missing are published masked (spec/14 R414). -/
def maskRows (r : Request) (t : Table) : Table :=
  { t with rows := (indexed t.rows).map fun e =>
      if r.row0 ≤ e.1 && e.1 < r.row0 + r.rows then { e.2 with mask := false, seq := 0, mkind := 3, app := false }
      else e.2 }

/-- A request whose input copy has not finished: its rows are masked, and it ends with TIMEOUT, or with the status of its
failed copy. -/
def missCopy (r : Request) (s : State) : State :=
  let s := updRequest r.cmd (fun x => { x with ending := some (x.ending.getD (BitVec.ofNat 8 stTimeout, 0)),
                                               copyFailed := true }) s
  updAd (fun a => { a with
    nextTables := supd none (4 * r.part.toNat + r.grp.toNat) (fun t => t.map (maskRows r)) a.nextTables }) s

/-- Zeros into the input rows of a STEP table's padding entries, under the key of their row records (spec/08 R244). -/
def zeroPadding (p g : Nat) (s : State) : State :=
  match nextTableOf s p g with
  | none => s
  | some t =>
    if !isStepGroup s p g || t.used = 0 || t.cap ≤ t.used then s
    else
      let n := cfg s (0x3044 + g) (p + 1)
      let a := cfg s (0x3040 + g) (p + 1) + (t.step.toNat % 2 * t.cap + t.used) * n
      let slot := ((t.rows[t.used]?).map fun r => r.tslot.toNat).getD 0
      xtsWriteFor p slot true a (List.replicate ((t.cap - t.used) * n) 0) s

/-- TABLE_PUBLISH (spec/06 Table AD-7): at B(k+1) − 4,000 cycles. -/
def execTablePublish (s : State) : Outcome State Fault Refusal :=
  onlyIf (s.ad.sorted = some (s.steep.k + 1) && !s.ad.published) s fun s =>
    let s := untilTime (guardTime s) s
    let s := ((allNext s).filter fun r => !r.copied).foldl (fun s r => missCopy r s) s
    let s := (List.range 256).foldl (fun s n => zeroPadding (n / 4) (n % 4) s) s
    let s := (List.range 128).foldl (fun s g => publishCore g s) s
    updAd (fun a => { a with published := true }) s

/-! ### The infusers (spec/06 R186 to R189) -/

/-- INFUSER_PREFILL (spec/06 R188): from B(k+1) − 2,000 cycles, once the image is fetched, the infuser fills its rings for
the coming steep. -/
def execInfuserPrefill (core : BitVec 7) (s : State) : Outcome State Fault Refusal :=
  let g := core.toNat
  let k := coreOf s g
  onlyIf (boundariesKnown s && k.fetch == .done && !k.prefilling) s fun s =>
    updCore g (fun k => { k with prefilling := true, rings := [], ringPos := [], ringBytes := [], infuserFree := 0 })
      (untilTime (nextB s - 2000) s)

/-- The program that a core's infuser serves: the coming steep's while it pre-fills, else the present one. -/
def infuserProgram (s : State) (g : Nat) : Option (Binding × Nat × Image) :=
  let k := coreOf s g
  if k.prefilling then
    let b := bindingAt s g (s.steep.k + 1)
    k.nextImage.map fun i => (b, entryOf b (s.steep.k + 1) (sidxNext s), i)
  else k.image.map fun i => (k.binding, entryNow s g, i)

/-- The rows of an adapter with a stale caddy block complete with KEY_REVOKED (spec/06 R186, spec/13 R384). -/
def staleRows (adid : BitVec 24) (s : State) : State :=
  let mark (r : Request) : Request :=
    if r.adid = adid && r.steep.isSome then { r with ending := some (r.ending.getD (BitVec.ofNat 8 stKeyRevoked, 0)) }
    else r
  updAd (fun a => { a with requests := a.requests.map mark }) s

/-- One block as the caddy serves it: resident, or read from HBM at that moment. -/
def serveBlock (env : ReadEnv) (next : Bool) (die didx b : Nat) (s : State) : List Byte × State :=
  let d := descOf s didx
  match caddyHit s die d (4096 * b) with
  | some x =>
    let s := setCaddy die ((caddyOf s die).map fun y => if y = x then { y with used := s.clock } else y) s
    (x.data, count (0x80 + die) 0x040 1 s)
  | none => fillBlock env next die didx (4096 * b) (count (0x80 + die) 0x041 1 s)

/-- The bytes of a slice, and the state: zeros where the adapter's key pair is stale, each of its blocks counted. -/
def serveSlice (env : ReadEnv) (next : Bool) (die : Nat) (r : SliceRef) (s : State) : List Byte × State :=
  let d := descOf s r.didx
  if !pairOk s (dSlot d) (dKgen d) then
    let n := (blocksOf (r.addr, r.len)).length
    let s := count (0x80 + die) 0x044 n (updAd (fun a => { a with staleServed := a.staleServed + n }) s)
    (List.replicate r.len 0, staleRows (dAdid d) s)
  else
    let x := (blocksOf (r.addr, r.len)).foldl (fun (acc : List Byte × State) b =>
      let y := serveBlock env next die r.didx b acc.2
      (acc.1 ++ y.1, y.2)) ([], s)
    ((x.1.drop (r.addr % 4096)).take r.len, count (0x80 + die) 0x045 ((r.len + 63) / 64) x.2)

/-- Write bytes into a ring of `n` bytes at offset `o`, wrapping at its end. -/
def ringWrite (g base n o : Nat) (bs : List Byte) (s : State) : State :=
  let head := bs.take (n - o % n)
  tileWrite g base (bs.drop head.length) (tileWrite g (base + o % n) head s)

/-- The ring of a slot, from its slot control entry: address and bytes. -/
def ringOf (c : BitVec 256) (ringB : Bool) : Nat × Nat :=
  if ringB then (64 * (fld c 22 16).toNat, 4096 * (fld c 38 6).toNat) else (64 * (fld c 0 16).toNat, 4096 * (fld c 16 6).toNat)

/-- The adapter's page changes at the boundary to come, or at the one just passed whose commit is not applied yet: a
pre-fill waits, so that the first steep of a step uses the new image (spec/09 R277, R280; DEDUCED, log entry 49). -/
def flipAhead (s : State) (prefilling : Bool) (didx : Nat) : Bool :=
  let committed := match s.steep.wave with
    | some w => isCommitSteep s && (waveFields w).commit = 1
    | none => false
  decide (dState (descOf s didx) = adTraining) && (s.steep.decision = 1 || (prefilling && committed))

/-- The ring space of the slices whose loads have ended is released (spec/06 R187). -/
def releaseSlices (g : Nat) (s : State) : State :=
  let held (l : List RingSlice) : List RingSlice := l.filter fun x => match x.ends with
    | some c => s.clock < c
    | none => true
  updCore g (fun k => { k with rings := smap [] (fun _ l => held l) k.rings }) s

/-- The infuser writes one slice at the end of a ring's list, at 256 bytes per cycle after the one before it (spec/06
R187). -/
def writeSlice (env : ReadEnv) (g key : Nat) (ring : Nat × Nat) (r : SliceRef) (s : State) : State :=
  let v := serveSlice env (coreOf s g).prefilling (g / 32) r s
  let k := coreOf s g
  let s := ringWrite g ring.1 ring.2 (sget 0 key k.ringBytes) v.1 v.2
  let c := max s.clock k.infuserFree + (r.len + 255) / 256
  let x : RingSlice := { op := r.op, seg := r.seg, scale := r.scale, size := r.len, at_ := c,
                         vals := (chunk 2 r.len v.1).map fun w => BitVec.ofNat 16 (leNat w) }
  count g 0x05B 1 (updCore g (fun k => { k with
    rings := supd [] key (fun l => l ++ [x]) k.rings, ringPos := supd 0 key (· + 1) k.ringPos,
    ringBytes := supd 0 key (· + r.len) k.ringBytes, infuserFree := c }) s)

/-- INFUSER_SLICE (spec/06 R187, R188): the next slice of a ring's list, where its space is free and its adapter is
settled (spec/09 R280); the loads that wait for it go on. `env` is what HBM answers for a block that is not resident. -/
def execInfuserSlice (core : BitVec 7) (slot : BitVec 2) (ringB : Bool) (env : ReadEnv) (s : State) : Outcome State Fault Refusal :=
  let g := core.toNat
  let n := slot.toNat
  let s := releaseSlices g (advanceCore g (bringUpsets g env s))
  let k := coreOf s g
  let key := ringKey n ringB
  match infuserProgram s g with
  | none => done s
  | some (b, i, img) =>
    let ring := ringOf (slotCtlAt s b i n) ringB
    match (ringList s g b i img k.prefilling ringB n)[sget 0 key k.ringPos]? with
    | none => done s
    | some r =>
      let held := (sget [] key k.rings).foldl (fun a x => a + x.size) 0
      if !isSettled s r.didx || flipAhead s k.prefilling r.didx || ring.2 < held + r.len then done s
      else
        let s := writeSlice env g key ring r s
        done (if k.prefilling then s else advanceCore g s)

end Sys2Proof.Machine
end

