-- ==== Sys2Proof/Machine/Takeover.lean ====
section
/-! DEFINITION. Commit and abort (spec/09 R277 to R286), and the takeover of a logical device number by a stand-in
(spec/12 R355 to R360, spec/17 R475, R476). -/

namespace Sys2Proof.Machine

open Host (Outcome)

/-! ### Table changes (spec/12 R348, spec/02 Table ST-4) -/

/-- Map an LDN to an SNA. -/
def mapLdn (l sna : Nat) (s : State) : State := setBoth (0x7100 + l / 128) (l % 128 + 1) sna s

/-- The logical-to-physical table has changed at a boundary: the digest goes to the primary, routes are recomputed, and
the steep engine enters or leaves Locked as the table now maps an LDN to this module or none. -/
def tableChanged (s : State) : State :=
  let s := match masterLdns s with
    | m :: _ => if isPrimary s then s else send (.ldn (BitVec.ofNat 10 m.2)) (.tableDigest (tableDigestOf s)) s
    | [] => s
  let s := computeRoutes s
  match s.steep.engine, ownLdn s with
  | .standby, some _ => setEngine .locked 0 s
  | .locked, none => setEngine .standby 0 s
  | _, _ => s

/-! ### Orders (spec/12 R355, R360) -/

/-- Write the takeover record 0x7030:02, with its trace record. The result codes are the model's (DESIGN CHOICE, log entry
35): 0 ordered, 1 effect named, 2 GEN or digests differ, 3 no ready packet, 4 no choice. -/
def takeoverRecord (ldn : BitVec 10) (failed chosen : BitVec 16) (result : Nat) (s : State) : State :=
  let r := packR 128 [(64, s.time.toNat), (10, ldn.toNat), (16, failed.toNat), (16, chosen.toNat), (8, result)]
  trace 0x11 0xFF 0 r (updMaster (fun m => { m with takeoverRec := r }) s)

/-- An SNA that is known and that no LDN maps to is taken to be in Standby (DEDUCED, log entry 35). -/
def isSpare (s : State) (a : Nat) : Bool := (knownSnas s).contains a && !((mappedLdns s).any fun e => e.2 = a)

/-- A module's last link-state record shows this module's active GEN and half digests. -/
def sameBase (s : State) (a : Nat) : Bool :=
  match recordOf s a with
  | some r => r.gen = s.leaf.activeGen && r.digest0 = recDigest s.leaf.rec0 && r.digest1 = recDigest s.leaf.rec1
  | none => false

/-- The LDNs mapped to a board's modules, lowest first, with their SNAs. -/
def boardLdns (s : State) (a : Nat) : List (Nat × Nat) := (mappedLdns s).filter fun e => e.2 / 512 = a / 512

/-- A spare board of the group of SNA `a` that has not been tried: its nine modules are known and in Standby. -/
def spareBoard (s : State) (a : Nat) : Option Nat :=
  (List.range 16).find? fun b => b ≠ snaBoard a && (List.range 9).all fun i =>
    let x := mkSna (snaGroup a) b i
    isSpare s x && !s.steep.master.tried.contains (BitVec.ofNat 16 x)

/-- The orders that move every LDN of a failed board to a spare board's sites 0 to 7, in the order of the LDNs. -/
def boardOrders (s : State) (a : Nat) : List (BitVec 10 × BitVec 16 × BitVec 16) :=
  match spareBoard s a with
  | none => []
  | some b => (indexed ((boardLdns s a).take 8)).map fun e =>
      (BitVec.ofNat 10 e.2.1, BitVec.ofNat 16 e.2.2, BitVec.ofNat 16 (mkSna (snaGroup a) b e.1))

/-- The next choice of R355 for an LDN: the stand-in of its board, else a spare board. -/
def chooseOrders (s : State) (l : Nat) : List (BitVec 10 × BitVec 16 × BitVec 16) :=
  match snaOfLdn s l with
  | none => []
  | some a =>
    let x := mkSna (snaGroup a) (snaBoard a) 8
    if isSpare s x && sameBase s x && !s.steep.master.tried.contains (BitVec.ofNat 16 x) then
      [(BitVec.ofNat 10 l, BitVec.ofNat 16 a, BitVec.ofNat 16 x)]
    else boardOrders s a

/-- A module takes an order: it fences its ports to the failed SNA, drops that SNA's packets from now on and takes the
chosen SNA's again (DEDUCED, log entry 35); the chosen module, in Standby, asks for step 1 of its restore. -/
def takeOrder (ldn : BitVec 10) (failed chosen : BitVec 16) (s : State) : State :=
  if s.steep.master.orders.contains (ldn, failed, chosen) then s
  else
    let s := takeoverRecord ldn failed chosen 0 s
    let s := updMaster (fun m => { m with orders := m.orders ++ [(ldn, failed, chosen)], takeoverState := 1 }) s
    let ports := (List.range 16).filter fun p => (portOf s p).state == .up && (portOf s p).partner = failed
    let s := ports.foldl (fun s p => setPort p .fenced s) s
    let s := { s with fab := { s.fab with fencedSnas := (s.fab.fencedSnas.filter fun a => a ≠ chosen && a ≠ failed) ++ [failed] } }
    let s := if ports.isEmpty then s else computeRoutes s
    if chosen = s.fab.sna && s.steep.engine = .standby then
      let lowest := ((boardLdns s chosen.toNat).map fun e => e.2).filter fun a => a ≠ failed.toNat
      let s := { s with fab := { s.fab with restore := some (ldn, 1), restoreWait := 1, restoredBytes := 0, missingSlots := 0 } }
      match lowest with
      | [] => s
      | a :: l => send (.sna (BitVec.ofNat 16 (l.foldl min a))) (.standInRequest 1 (BitVec.ofNat 64 ldn.toNat)) s
    else s

/-- This master gives orders: it floods them on VL0 and takes them itself. -/
def giveOrders (os : List (BitVec 10 × BitVec 16 × BitVec 16)) (s : State) : State :=
  let s := updMaster (fun m => { m with
    orders := [], acting := some s.clock, ready := [], tried := m.tried ++ os.map (fun o => o.2.2) }) s
  os.foldl (fun s o =>
    takeOrder o.1 o.2.1 o.2.2 (send (.flood none) (.takeoverOrder o.1 o.2.1 o.2.2 s.steep.k) s)) s

/-- Order a stand-in for an LDN, or record that there is no choice. -/
def orderFor (l : Nat) (s : State) : State :=
  match chooseOrders s l with
  | [] =>
    let s := takeoverRecord (BitVec.ofNat 10 l) (BitVec.ofNat 16 ((snaOfLdn s l).getD 0xFFFF)) 0xFFFF 4 s
    updMaster (fun m => { m with orders := [], acting := none, takeoverState := 0 }) s
  | os => giveOrders os s

/-- The orders in force have failed: a takeover fault, and the next choice of R355. -/
def nextChoice (result : Nat) (s : State) : State :=
  match s.steep.master.orders with
  | [] => s
  | o :: _ => orderFor o.1.toNat (takeoverRecord o.1 o.2.1 o.2.2 result s)

/-- TAKEOVER_ORDER (spec/12 R356). -/
def execTakeoverOrder (ldn : BitVec 10) (failed chosen : BitVec 16) (steep : BitVec 64) (s : State) :
    Outcome State Fault Refusal :=
  if s.steep.master.orders.contains (ldn, failed, chosen) then done s
  else done (takeOrder ldn failed chosen (send (.flood none) (.takeoverOrder ldn failed chosen steep) s))

/-- PLANNED_RETURN (spec/17 R476): a write of an LDN and a chosen SNA to 0xA010:03 on the primary master;
one with a reserved bit set is rejected (spec/00 R8). -/
def execPlannedReturn (value : BitVec 32) (s : State) : Outcome State Fault Refusal :=
  let l : BitVec 10 := fld value 0 10
  match snaOfLdn s l.toNat with
  | none => done s
  | some a => onlyIf (isPrimary s && fld value 10 6 == 0) s (giveOrders [(l, BitVec.ofNat 16 a, fld value 16 16)])

/-! ### Restore (spec/17 R475, Table SR-7). The contents of a restore packet's steps are the model's (log entry 35) -/

/-- The state in which the table already maps the LDN that this stand-in restores. -/
def asStandIn (ldn : BitVec 10) (s : State) : State := mapLdn ldn.toNat s.fab.sna.toNat s

/-- The bytes of an extra-expert slot's entry. -/
def expertBytes (x : ExpertSlot) : List Byte :=
  wordBytes x.owner ++ leBytes 2 x.keySlot.toNat ++ wordBytes x.kgen ++ [BitVec.ofNat 8 x.share.toNat] ++
    x.sharers.flatMap fun a => wordBytes a

/-- The entry that those bytes spell. -/
def expertFrom (bs : List Byte) : ExpertSlot :=
  let n (o k : Nat) : Nat := leNat ((bs.drop o).take k)
  { owner := BitVec.ofNat 24 (n 0 3), keySlot := BitVec.ofNat 13 (n 3 2), kgen := BitVec.ofNat 16 (n 5 2),
    share := n 7 1 = 1,
    sharers := (chunk 3 (bs.length - 8) (bs.drop 8)).map fun b => BitVec.ofNat 24 (leNat b) }

/-- An LDN appears in a descriptor's shard map: in HOLD, as an owner or as a keeper. -/
def mapNames (s : State) (d : BitVec 1024) (l : Nat) : Bool :=
  isHolder s d l || (List.range (mapCount s d)).any fun j =>
    eOldn (mapEntry s d j) = l || eKldn (mapEntry s d j) = l

/-- The key of a shard's frames in a restore packet. -/
def frameKey (adid : BitVec 24) (entry : Nat) : BitVec 64 := BitVec.ofNat 64 (adid.toNat * 2 ^ 16 + entry)

/-- Send a sealed copy of a shard's page ROLE master and moment arrays, its failing blocks restored from the other copy
first; a failed fetch fails the shard (spec/09 R274). -/
def sendFrames (env : ReadEnv) (a : BitVec 16) (step : BitVec 8) (key : BitVec 64) (s : State) : State :=
  match didxOf s (fld key 16 24) with
  | none => s
  | some i => match (shardsHere s i).find? fun x => x.entry = (fld key 0 16).toNat with
    | none => s
    | some x =>
      let d := descOf s i
      let size := shardSize x
      let p := framePage x (dRole d)
      let r := restoreBlocks env (dSlot d) (framePageBlocks x (dRole d) 4) s
      if frameLost s x then s
      else if !r.1 then
        (match (s.red.shards.find? fun e => e.2 = some x) with
        | some e => if x.owned then failShard e.1 0 r.2 else r.2
        | none => r.2)
      else
      let s := r.2
      let (m, s) := xtsReadAt (dSlot d) p (2 * size) s
      let (q, s) := xtsReadAt (dSlot d) (p + momentOffset size) (4 * size) s
      match sealWith (engineNonce s p) (dSlot d) (keeperAad x.adid x.entry) (m ++ q) s with
      | (none, s) => s
      | (some (nonce, ep, ct, tag), s) =>
        send (.sna a) (.restore step 1 key (wordBytes nonce ++ [BitVec.ofNat 8 ep.toNat] ++ ct ++ wordBytes tag) true) s

/-- STAND_IN_RESTORE_REQUEST (spec/17 R475): a working module answers from its current pages. -/
def execStandInRestoreRequest (sna : BitVec 16) (ask : RestoreAsk) (key : BitVec 64) (s : State) :
    Outcome State Fault Refusal :=
  let step := ask.step
  let reply (kind : BitVec 8) (k : Nat) (bs : List Byte) (last : Bool) (s : State) : State :=
    send (.sna sna) (.restore step kind (BitVec.ofNat 64 k) bs last) s
  onlyIf (isLocked s) s fun s =>
    match step.toNat with
    | 1 => reply 0 0 [] true (s.ad.experts.foldl (fun s e => reply 1 e.1 (expertBytes e.2) false s) s)
    | 2 =>
      let mine := s.ad.descs.filter fun e => mapNames s e.2 (fld key 0 10).toNat
      reply 0 0 [] true (mine.foldl (fun s e => reply 1 e.1 (wordBytes e.2) false s) s)
    | 5 => sendFrames ask.env sna step key s
    | 6 => sendFrames ask.env sna step key s
    | _ => s

/-- The descriptors that the stand-in has for its LDN. -/
def restored (s : State) (ldn : BitVec 10) : List Nat :=
  (s.ad.descs.filter fun e => mapNames s e.2 ldn.toNat).map fun e => e.1

/-- Ask for the frames of the shards that `f` picks, each from the LDN that `src` names. -/
def askFrames (step : BitVec 8) (f : Shard → Bool) (src : Shard → Nat) (ldn : BitVec 10) (s : State) : State :=
  let xs := ((restored s ldn).flatMap fun i => shardsHere (asStandIn ldn s) i).filter f
  let s := { s with fab := { s.fab with restore := some (ldn, step.toNat), restoreWait := xs.length } }
  xs.foldl (fun s x => send (.ldn (BitVec.ofNat 10 (src x))) (.standInRequest step (frameKey x.adid x.entry)) s) s

/-- Step 7: images of owned shards are rebuilt, and the other owners are asked for theirs. -/
def askImages (ldn : BitVec 10) (s : State) : State :=
  let s := { s with fab := { s.fab with restore := some (ldn, 7), restoreWait := 0 } }
  (restored s ldn).foldl (fun s i =>
    let d := descOf s i
    let t := asStandIn ldn s
    let s := ((shardsHere t i).filter fun x => x.owned).foldl (fun s x => rebuildImage x s) s
    if !isHolder s d ldn.toNat then s
    else
      let s := { s with ad := { s.ad with outstanding := (setOutstanding i t).ad.outstanding } }
      (List.range (mapCount s d)).foldl (fun s j =>
        let e := mapEntry s d j
        if eOldn e = ldn.toNat then s
        else
          let x : Shard := { didx := BitVec.ofNat 16 i, adid := dAdid d, entry := j, word := e,
                             rows := partRows s d (eLayer e) (eProj e) (ePart e), owned := false }
          send (.ldn (BitVec.ofNat 10 (eOldn e)))
            (.restoreRequest (dAdid d) ((imageUnits s x).map (BitVec.ofNat 48))) s) s) s

/-- The stand-in's ready packet, to every master (spec/12 R357). -/
def sendReady (s : State) : State :=
  let s := { s with fab := { s.fab with restore := none } }
  (masterLdns s).foldl (fun s m => send (.ldn (BitVec.ofNat 10 m.2))
    (.standInReady s.leaf.activeGen (recDigest s.leaf.rec0) (recDigest s.leaf.rec1)) s) s

/-- Go on with the restore while its present step awaits nothing: at most the seven steps of Table SR-7. -/
def advanceRestore : Nat → State → State
  | 0, s => s
  | fuel + 1, s =>
    match s.fab.restore with
    | none => s
    | some (ldn, step) =>
      if s.fab.restoreWait ≠ 0 then s
      else match step with
        | 1 =>
          let peers := (mappedLdns s).filter fun e => !s.fab.fencedSnas.contains (BitVec.ofNat 16 e.2)
          let s := { s with fab := { s.fab with restore := some (ldn, 2), restoreWait := peers.length } }
          let s := peers.foldl (fun s e =>
            send (.sna (BitVec.ofNat 16 e.2)) (.standInRequest 2 (BitVec.ofNat 64 ldn.toNat)) s) s
          advanceRestore fuel s
        | 2 =>
          let missing := (restored s ldn).countP fun i => !pairOk s (dSlot (descOf s i)) (dKgen (descOf s i))
          if missing ≠ 0 then { s with fab := { s.fab with missingSlots := missing, restore := none } }
          else
            let xs := ((restored s ldn).filter fun i => dState (descOf s i) = adTraining).flatMap
              fun i => shardsHere (asStandIn ldn s) i
            advanceRestore fuel (askFrames 5 (fun x => x.owned) (fun x => eKldn x.word) ldn (enterShards xs s))
        | 5 => advanceRestore fuel (askFrames 6 (fun x => !x.owned) (fun x => eOldn x.word) ldn s)
        | 6 => advanceRestore fuel (askImages ldn s)
        | _ => if (restored s ldn).all fun i => isSettled s i then sendReady s else s

/-- Take one restored item. -/
def restoreItem (ldn : BitVec 10) (step : Nat) (key : BitVec 64) (bs : List Byte) (s : State) : State :=
  match step with
  | 1 => updAd (fun a => { a with experts := sput {} key.toNat (expertFrom bs) a.experts }) s
  | 2 =>
    let d := BitVec.ofNat 1024 (leNat bs)
    if (didxOf s (dAdid d)).isSome then s else setDesc (firstFree 0 s.ad.descs) d s
  | _ =>
    match didxOf s (fld key 16 24) with
    | none => s
    | some i => match (shardsHere (asStandIn ldn s) i).find? fun x => x.entry = (fld key 0 16).toNat with
      | none => s
      | some x =>
        let d := descOf s i
        let n := bs.length - 29
        let nonce : BitVec 96 := BitVec.ofNat 96 (leNat (bs.take 12))
        let ep := ((bs.drop 12).take 1).any fun b => b ≠ 0
        match openWith s (dSlot d) ep nonce (keeperAad x.adid x.entry) ((bs.drop 13).take n)
            (BitVec.ofNat 128 (leNat (bs.drop (13 + n)))) with
        | none => countGcmFail 1 s
        | some v =>
          let a := framePage x (dRole d)
          let size := shardSize x
          packageWrite (dPart d) (some (dSlot d)) true (a + momentOffset size) (v.drop (2 * size))
            (packageWrite (dPart d) (some (dSlot d)) true a (v.take (2 * size)) s)

/-- The restore rate lets the next item be taken: `n` bytes take their time at the rate of 0x7031:01 (spec/17 R475). -/
def restorePace (n : Nat) (s : State) : State :=
  let s := untilClock s.fab.restoreFree s
  { s with fab := { s.fab with restoreFree := s.clock + 2 * n / cfg s 0x7031 1 } }

/-- RESTORE_DATA (spec/17 R475, Table SR-7): one item of the present step; `kind` 0 carries none, and `last` ends one
module's answer. -/
def execRestoreData (step : BitVec 8) (kind : BitVec 8) (key : BitVec 64) (data : List Byte) (last : Bool) (s : State) :
    Outcome State Fault Refusal :=
  match s.fab.restore with
  | none => done s
  | some (ldn, n) =>
    if n ≠ step.toNat then done s
    else
      let s := if kind = 0 then s else restoreItem ldn n key data (restorePace data.length s)
      let s := { s with fab := { s.fab with
        restoredBytes := s.fab.restoredBytes + data.length,
        restoreWait := if last then s.fab.restoreWait - 1 else s.fab.restoreWait } }
      done (advanceRestore 8 s)

/-! ### Ready, effect and boundary (spec/12 R357, R358) -/

/-- The first commit steep whose wave point lies at least 100 µs ahead. -/
def effectSteep (s : State) : BitVec 64 :=
  let c := s.steep.k + BitVec.ofNat 64 (stepLen s - 1 - s.steep.sidx)
  let late (c : BitVec 64) : Bool := s.time.toInt + 200000 + 32000 ≤ boundaryOf s (c + 1)
  ((List.range 64).map fun i => c + BitVec.ofNat 64 (i * stepLen s)).find? late |>.getD c

/-- A module takes a takeover effect. -/
def takeEffect (moves : List (BitVec 10 × BitVec 16)) (c : BitVec 64) (s : State) : State :=
  moves.foldl (fun s m =>
    let failed := (snaOfLdn s m.1.toNat).getD 0xFFFF
    let s := { s with fab := { s.fab with effects := s.fab.effects ++ [(m.1, m.2, c)] } }
    takeoverRecord m.1 (BitVec.ofNat 16 failed) m.2 1 (updMaster (fun q => { q with takeoverState := 3 }) s)) s

/-- STAND_IN_READY (spec/12 R357): the acting master checks GEN and digests; when every chosen module is ready it floods
one effect packet. -/
def execStandInReady (sna : BitVec 16) (gen : BitVec 16) (digest0 digest1 : BitVec 128) (s : State) :
    Outcome State Fault Refusal :=
  let m := s.steep.master
  if m.acting.isNone || m.takeoverState = 3 || !(m.orders.any fun o => o.2.2 = sna) then done s
  else if gen ≠ s.leaf.activeGen || digest0 ≠ recDigest s.leaf.rec0 || digest1 ≠ recDigest s.leaf.rec1 then
    done (nextChoice 2 s)
  else
    let s := updMaster (fun q => { q with ready := q.ready ++ [sna], takeoverState := 2 }) s
    if m.orders.all fun o => o.2.2 = sna || m.ready.contains o.2.2 then
      let moves := m.orders.map fun o => (o.1, o.2.2)
      let c := effectSteep s
      done (takeEffect moves c (send (.flood none) (.takeoverEffect moves c) s))
    else done s

/-- READY_TIMEOUT (spec/12 R357): 5 s after the order without a ready packet. -/
def execReadyTimeout (s : State) : Outcome State Fault Refusal :=
  match s.steep.master.acting with
  | none => done s
  | some t => onlyIf (!s.steep.master.orders.isEmpty && s.steep.master.takeoverState ≠ 3) s fun s =>
      nextChoice 3 (untilClock (t + 10000000000) s)

/-- TAKEOVER_EFFECT (spec/12 R357): the first copy is held and passed on. -/
def execTakeoverEffect (moves : List (BitVec 10 × BitVec 16)) (commitSteep : BitVec 64) (s : State) :
    Outcome State Fault Refusal :=
  if moves.all fun m => s.fab.effects.contains (m.1, m.2, commitSteep) then done s
  else done (takeEffect moves commitSteep (send (.flood none) (.takeoverEffect moves commitSteep) s))

/-- TAKEOVER_BOUNDARY (spec/12 R358): at B(c+1) the LDNs are mapped to the chosen SNAs, the stand-in enters Locked and
pushes the units of its shards (spec/09 R281), and the next attempt carries REPEAT 0 (spec/09 R286). -/
def execTakeoverBoundary (s : State) : Outcome State Fault Refusal :=
  let due := s.fab.effects.filter fun e => ahead s.steep.k e.2.2 ≠ 0
  onlyIf (!due.isEmpty && boundariesKnown s) s fun s =>
    let was := s.steep.engine
    let s := due.foldl (fun s e => mapLdn e.1.toNat e.2.1.toNat s) s
    let s := { s with fab := { s.fab with effects := s.fab.effects.filter fun e => !due.contains e },
                      steep := { s.steep with rep := 0 } }
    let s := updMaster (fun m => { m with
      orders := [], acting := none, ready := [], tried := [], boards := [], blamed := [], ordered := false,
      takeoverState := 0 }) s
    let s := tableChanged s
    if was = .standby && isLocked s then
      let mine := (s.ad.descs.filter fun e => !(shardsHere s e.1).isEmpty).map fun e => e.1
      sendRollCalls (fun _ => true) (mine.foldl (fun s i => pushShards i s) s)
    else s

/-! ### Commit and abort (spec/09 R277 to R280, R285, R286) -/

/-- The attempt's evidence for blame is done with. -/
def clearEvidence (m : Master) : Master := { m with missing := [], failHard := [], stragglers := [], failSoft := [] }

/-- COMMIT_APPLY (spec/09 R277, R279, R280; spec/06 R186, R194): at B(c+1) every TRAINING descriptor flips ROLE and takes
the step number, its old page leaves the caddies, its holders count the units to come, and its owners push them. -/
def execCommitApply (s : State) : Outcome State Fault Refusal :=
  onlyIf (s.steep.decision = 1) s fun s =>
    let step := s.steep.step - 1
    let ds := s.ad.descs.filter fun e =>
      dState e.2 = adTraining && stateAt s e.1 s.steep.k s.steep.sidx ≠ adInvalid
    let s := ds.foldl (fun s e =>
      let r := !dRole e.2
      let s := dropPage e.2 (dRole e.2) s
      setDesc e.1 (setFld (setBit e.2 33 r) 152 32 step.toNat) s) s
    let s := ds.foldl (fun s e =>
      if ((ownLdn s).map fun l => isHolder s e.2 l).getD false then setOutstanding e.1 s else s) s
    let s := ds.foldl (fun s e => pushShards e.1 s) s
    let s := commitExperts s
    let s := updMaster (fun m => { clearEvidence m with blamed := [], ordered := false }) s
    let s := updRed (fun r => { r with committed := r.committed + 1 }) s
    { s with steep := { s.steep with decision := 0 } }

/-- The lowest of a list of LDNs. -/
def lowest (l : List Nat) : Option Nat :=
  match l with
  | [] => none
  | a :: as => some (as.foldl min a)

/-- The blamed LDN of the aborted attempt (spec/09 Table RU-9). -/
def blame (m : Master) : Option Nat :=
  [m.missing, m.failHard, m.stragglers, m.failSoft].findSome? lowest

/-- The LDN blamed in the most attempts, a tie going to the one blamed in the later attempt (spec/09 R286). -/
def mostBlamed (l : List (Option Nat)) : Option Nat :=
  (l.filterMap id).foldl (fun (b : Option Nat) x => match b with
    | none => some x
    | some y => if l.count (some y) ≤ l.count (some x) then some x else some y) none

/-- Record the blame of the aborted attempt of REPEAT `rep`: attempts 0 to 3, those after the fourth in its place; what an
attempt that this module did not see has left open names no LDN. -/
def recordBlame (rep : Nat) (m : Master) : Master :=
  let before := if rep = 0 then [] else m.blamed.take (min rep 3)
  { clearEvidence m with blamed := before ++ List.replicate (min rep 3 - before.length) none ++ [blame m] }

/-- ABORT_APPLY (spec/09 R278, R285, R286; spec/12 R355, R360): nothing is flipped; each master records the blame, and the
master whose wave was acted on orders a stand-in, or a spare board for a board that has gone. -/
def execAbortApply (s : State) : Outcome State Fault Refusal :=
  onlyIf (s.steep.decision = 2) s fun s =>
    let s := { s with steep := { s.steep with decision := 0 }, red := { s.red with aborted := s.red.aborted + 1 } }
    match ownRank s with
    | none => s
    | some rank =>
      let s := updMaster (recordBlame s.steep.decidedRep) s
      let m := s.steep.master
      let mine := isLocked s && rank = s.steep.decidedBy.toNat && !m.ordered && m.acting.isNone
      if !mine then s
      else match m.boards with
        | b :: _ =>
          let s := updMaster (fun m => { m with ordered := true, boards := [] }) s
          (match boardOrders s (512 * b) with
          | [] => takeoverRecord 0 (BitVec.ofNat 16 (512 * b)) 0xFFFF 4 s
          | os => giveOrders os s)
        | [] =>
          if s.steep.decidedRep < 3 then s
          else match mostBlamed m.blamed with
            | none => s
            | some l => orderFor l (updMaster (fun m => { m with ordered := true }) s)

end Sys2Proof.Machine
end

