-- ==== Sys2Proof/Machine/Boundary.lean ====
section
/-! DEFINITION. What happens in every steep at its fixed times (spec/02 R34 to R53, spec/05 R143): the wave point, the
guard and the boundary; and the changes of adapter state that wait for a boundary. -/

namespace Sys2Proof.Machine

open Host (Outcome)

/-! ### Overrun (spec/02 R48, R51, R52; spec/05 R166) -/

/-- The serving status of a program fault code (spec/05 Table SP-26). -/
def faultStatus (code : Nat) : Nat :=
  match code with
  | 4 => stOverrun
  | 5 => stChecksum
  | 6 => stNotPermitted
  | 7 => stChecksum
  | _ => stFormat

/-- The ops that have run their time and await nothing complete, the pour among them. -/
def settleOps (g : Nat) (s : State) : State :=
  let s := completePour g (recomputePour g s)
  ((coreOf s g).running.filter fun r => r.awaiting = 0 && r.endAt ≤ s.clock).foldl (fun s r => completeOp g r s) s

/-- The program of a core is not complete (spec/05 R148), or a fault has stopped it. -/
def unfinished (k : Core) : Bool :=
  k.faulted.isSome || (k.image.isSome &&
    (!k.running.isEmpty || k.pour.isSome || k.queues.any (fun q => !q.2.isEmpty) ||
      k.next0 < (streamOps k false).length || k.next1 < (streamOps k true).length || k.strainNext < k.strain.length))

/-- The op that an overrun's trace record names: the oldest one that runs, else one that waits, else the next one. -/
def overrunOp (k : Core) : Nat × Bool :=
  match k.running.head? with
  | some r => (r.index.toNat, r.stream)
  | none => match (k.queues.flatMap fun q => q.2).head? with
    | some q => (q.index.toNat, q.stream)
    | none => (k.next0, false)

/-- A steep overrun of a core (spec/02 R51, R52): its ops are aborted; a training program lowers GOOD, and a serving
program's requests end with OVERRUN, or with the status of the core's first program fault. -/
def overrun (g : Nat) (s : State) : State :=
  let k := coreOf s g
  let o := overrunOp k
  let s := updCore g (fun k => { k with aborted := true, running := [], rankRun := none, pour := none, queues := [] }) s
  let s := { s with steep := { s.steep with overruns := s.steep.overruns + 1 } }
  let s := trace 0x04 g (coreOwnerD s g) (BitVec.ofNat 128 (o.1 + 2 ^ 32 * o.2.toNat)) (count g 0x052 1 s)
  if isTrain k.binding then failStep 5 s
  else match k.faulted with
    | some c => failServing g (faultStatus c.toNat) c.toNat s
    | none => failServing g stOverrun 0 s

/-- Overrun every core that `f` picks, among those not aborted yet, whose program is unfinished. -/
def overrunCores (f : Core → Bool) (s : State) : State :=
  (List.range 128).foldl (fun s g =>
    if !f (coreOf s g) || (coreOf s g).aborted then s
    else
      let s := settleOps g s
      if unfinished (coreOf s g) then overrun g s else s) s

/-- GUARD_START (spec/02 R36, R51): from B(k+1) − 4,000 cycles no unit starts an op, and what is unfinished has
overrun. -/
def execGuardStart (s : State) : Outcome State Fault Refusal :=
  onlyIf (boundariesKnown s && !s.steep.guard) s fun s =>
    let s := untilTime (guardTime s) s
    let s := if isLocked s then overrunCores (fun _ => true) s else s
    { s with steep := { s.steep with guard := true } }

/-! ### The wave point (spec/02 R39, R44, R45, R48) -/

/-- Why a stretch condition holds, as WHY codes it. -/
def stretchWhy (s : State) : Nat := 8 * s.steep.condHbm.toNat + 4 * s.steep.condPower.toNat

/-- Change the stretch level (spec/02 R45), and begin the next wave interval. -/
def stretch (s : State) : State :=
  let st := s.steep
  let cond := st.condHbm || st.condPower
  let clear := if cond then 0 else st.clearRun + 1
  let passed := ahead st.k st.lastChange
  let n := if cond && st.stretch < 255 && (st.stretch = 0 || cfg s 0x4011 2 ≤ passed) then st.stretch + 1
    else if 0 < st.stretch && cfg s 0x4011 3 ≤ clear && cfg s 0x4011 3 ≤ passed then st.stretch - 1
    else st.stretch
  let why := stretchWhy s
  let s := { s with steep := { st with
    stretch := n, lastChange := if n = st.stretch then st.lastChange else st.k, clearRun := clear,
    condHbm := false, condPower := false } }
  if n = st.stretch then s else trace 0x08 0xFF 0 (BitVec.ofNat 128 (n + 256 * why)) s

/-- The module's contribution, to each master by minimal route. -/
def contribute (why : Nat) (s : State) : State :=
  match ownLdn s with
  | none => s
  | some l =>
    let st := s.steep
    let req := min (cfg s 0x4010 1 + st.stretch * cfg s 0x4011 1) 4000
    let p := contributionPacket st.k l req (!st.bad) st.fail why st.stretch s.time
    let s := { s with steep := { st with fail := 0, over401 := st.over401 || bit st.fail 5 } }
    let s := (masterLdns s).foldl (fun s m =>
      if m.2 = l then s else send (.ldn (BitVec.ofNat 10 m.2)) (.contribution p) s) s
    if (ownRank s).isSome then takeContribution p s else s

/-- WAVE_POINT (spec/02 R37, R39): at B(k+1) − 32,000 cycles. In a commit steep, ops of a training program still running
have overrun, every owned shard must be KEPT or SKIPPED (spec/09 R276), and a gap in the slot claims is a time or wave
fault (spec/06 R195). -/
def execWavePoint (s : State) : Outcome State Fault Refusal :=
  onlyIf (boundariesKnown s && !s.steep.waved) s fun s =>
    let s := untilTime (waveTime s) s
    let why := stretchWhy s
    let s :=
      if isLocked s then
        if isCommitSteep s then
          let s := failUnkept (overrunCores (fun k => isTrain k.binding) s)
          if s.ad.ahead.isEmpty then s else failStep 1 s
        else s
      else s
    let s := stretch s
    let s := if isLocked s then contribute why s else s
    { s with steep := { s.steep with waved := true } }

/-! ### The requests of the steep that ends (spec/02 R52, spec/14 R414, R415) -/

/-- A request's results are final: it ends with its status, after its output copy where that is a success. -/
def endRequest (status : Nat) (r : Request) (s : State) : State :=
  if r.due || (cmdOf s r.cmd).isNone then s
  else
    let e := r.ending.getD (BitVec.ofNat 8 status, 0)
    let s := updRequest r.cmd (fun x => { x with due := true, ending := some e }) s
    if e.1.toNat = stOk || e.1.toNat = stStepRepeated then s
    else
      let info := if isStepGroup s r.part.toNat r.grp.toNat then r.step.toNat * 2 ^ 32 else 0
      updRequest r.cmd (fun x => { x with due := false })
        (finish r.cmd e.1.toNat e.2.toNat info s)

/-- The serving requests of the steep that ends. A module that was not Locked to its end ran no program to completion:
they end with OVERRUN (DEDUCED, log entry 36). -/
def endServing (s : State) : State :=
  (s.ad.requests.filter fun r => !isStepGroup s r.part.toNat r.grp.toNat && (match r.steep with
    | some k => hasBegun s k
    | none => false)).foldl (fun s r => endRequest (if isLocked s then stOk else stOverrun) r s) s

/-- The requests of the step that commits. -/
def endStep (s : State) : State :=
  (s.ad.requests.filter fun r => isStepGroup s r.part.toNat r.grp.toNat && r.steep.isSome && r.steep ≠ some (s.steep.k + 1) &&
    r.step = s.steep.step).foldl
    (fun s r => endRequest (if s.steep.rep = 0 then stOk else stStepRepeated) r s) s

/-- A request admitted to a steep that its table will not serve is a candidate again (DEDUCED, log entry 36). -/
def returnRequest (r : Request) (s : State) : State :=
  let s := if r.seq = 0 then s else settleSequence r.part.toNat r.seq.toNat false 0 r.chunks s
  updRequest r.cmd (fun x => { x with steep := none, copied := false, copyFailed := false, ending := none, chunks := [] }) s

/-- Put the sorted tables in force (spec/06 R178): `run` where the module runs the coming steep, `abort` where the step
repeats, `first` where a step begins. -/
def swapTables (run abort first : Bool) (s : State) : State :=
  let back := (allNext s).filter fun r => !run || (abort && isStepGroup s r.part.toNat r.grp.toNat)
  let s := back.foldl (fun s r => returnRequest r s) s
  let pick (n : Nat) : Option Table :=
    let step := isStepGroup s (n / 4) (n % 4)
    if !run then (if step then tableOf s (n / 4) (n % 4) else none)
    else if step && (abort || !first) then tableOf s (n / 4) (n % 4)
    else nextTableOf s (n / 4) (n % 4)
  let ts := (List.range 256).foldl (fun m n => sput none n (pick n) m) []
  updAd (fun a => { a with tables := ts, nextTables := [], published := false }) s

/-! ### The boundary (spec/05 R143, R151, R152) -/

/-- A core at a boundary: the op buffer halves swap, and everything of the steep that ends is emptied. -/
def coreBoundary (run : Bool) (k : Core) : Core :=
  let img := if run && k.fetch == .done then k.nextImage else none
  { k with
    image := img, nextImage := none, fetch := .idle,
    strain := if img.isSome then k.nextStrain else [], nextStrain := [], strainNext := 0,
    credits := match img with
      | some i => (indexed i.credits).foldl (fun m e => sput 0 e.1 e.2 m) []
      | none => [],
    creditIn := [], leaving := [], held := [], next0 := 0, next1 := 0, dispatchAt := 0, lastDispatch := true, queues := [], lastStart := [],
    running := [], epi := [], active := none, shadow := none, loadEnd := 0, shadowFree := 0, acc0 := {}, acc1 := {}, rank0 := {},
    rank1 := {}, aActive := [], aShadow := [], rankRun := none, rankSwitch := 0, b0 := [], b1 := [], pour := none,
    upsets := k.upsets.filter fun u => u.mem = .tile, arrayFree := 0, rankFree := 0, vecFree := 0,
    rings := if k.prefilling then k.rings else [], ringPos := if k.prefilling then k.ringPos else [],
    ringBytes := if k.prefilling then k.ringBytes else [], prefilling := false, faulted := none, aborted := false }

/-- One core starts the coming steep: tokens that were held are applied after the initial values, and a core whose image
has not come records program fault 0x04 or 0x05. `bound` is whether its binding for the coming steep is not idle. -/
def startCore (run : Bool) (bound : Nat → Bool) (g : Nat) (s : State) : State :=
  let k := coreOf s g
  let s := setCore s g (coreBoundary run k)
  let s := k.held.foldl (fun s t => addCredit g t.1.toNat t.2.toNat s) s
  if run && bound g && k.fetch != .done then
    progFault g false 0 (if k.fetch == .badCrc then 5 else if k.fetch == .outside then 6 else 4) s
  else s

/-- Whether the wave's order of the steep that ends begins a step anew, and the fields of the coming steep: STEP, SIDX,
REPEAT (spec/02 R47). -/
def nextStep (s : State) (commit : BitVec 2) : BitVec 32 × Nat × Nat :=
  match commit.toNat with
  | 1 => (s.steep.step + 1, 0, 0)
  | 2 => (s.steep.step, 0, min (s.steep.rep + 1) 3)
  | _ => if s.steep.sidx + 1 = stepLen s then (s.steep.step + 1, 0, 0) else (s.steep.step, s.steep.sidx + 1, s.steep.rep)

/-- The repeats in a row that carried FAIL[401], for each partition that trains (spec/05 R165). -/
def countRepeats (commit : BitVec 2) (s : State) : State :=
  if commit = 0 then s
  else (List.range 64).foldl (fun s p =>
    if (partOf s p).state = .absent then s
    else if commit = 1 then updPart p (fun q => { q with repeats := 0 }) s
    else if hasTrain s p then
      updPart p (fun q => { q with repeats := if s.steep.over401 then q.repeats + 1 else 0 }) s
    else s) s

/-- `n` events numbered `ev` in every block (spec/16 Table PC-2, events of all block types). -/
def countAll (ev n : Nat) (s : State) : State :=
  { s with obs := { s.obs with blocks := smap {} (fun _ b => countIn ev n b) s.obs.blocks } }

/-- The blocks' counters and histograms as they stand at the end of the last cycle before the boundary that a snapshot
order names, for the snapshot buffers (spec/16 R454). -/
def freezeBlocks (f : WaveFields) (s : State) : State :=
  if f.snap then
    { s with obs := { s.obs with frozen := some {
        state := 1, id := f.snapId, steep := s.steep.k + 1, time := nextB s, cyc := cycleCount s,
        blocks := s.obs.blocks, hists := s.obs.hists } } }
  else s

/-- A partition leaves over quota in the kinds whose usage is at or below the quota (spec/14 R404). -/
def quotaBoundary (s : State) : State :=
  (List.range 64).foldl (fun s p =>
    if (partOf s p).overBits = 0 then s
    else updPart p (fun q => { q with overBits := q.overBits &&& overNow s p }) s) s

/-- What a master begins a steep with; its latch is true at an attempt's first steep. -/
def masterBoundary (first : Bool) (m : Master) : Master :=
  { m with contributions := [], reduced := false, ownWave := none, latch := m.latch || first }

/-- The steep engine's state in the coming steep (spec/02 Table ST-4): a module in Listen that meets the conditions enters
Locked, or Standby where the table maps no LDN to it. -/
def engineBoundary (s : State) : State :=
  if s.steep.engine = .listen && 2 ≤ s.steep.wavesIn && s.steep.offset.natAbs ≤ 40 && s.steep.sidx = 0 then
    setEngine (if (ownLdn s).isSome then .locked else .standby) 0 s
  else s

/-- Five fresh readings of the local time copies against the FX copy, each within 2 ns (spec/01 R22; free values, log entry
55). -/
def newSkews (s : State) : State :=
  { s with free := s.free + 5,
           steep := { s.steep with skews := (List.range 5).map fun i =>
             ((Config.freeValue (s.free + i) 8).toNat % 9 : Nat) - 4 } }

/-- What the steep that begins reads of the base where a row group has no table: the generation active at B(k − 1), the
trial base loaded then, and the selections of the steep that ends (spec/11 R315, spec/06 R199). -/
def latchBase (s : State) : Leaf :=
  { s.leaf with
    lastGen := s.leaf.activeGen, lastTrial := s.leaf.nowTrial,
    nowTrial := if s.leaf.trial.state = 2 then s.leaf.trial.gen else 0,
    lastSelect := (List.range 64).filter fun p => cfg s 0x8330 (p + 1) = 1 }

/-- The steep counters and lengths of the coming steep. -/
def steepBoundary (f : WaveFields) (s : State) : State :=
  let st := s.steep
  let n := nextStep s f.commit
  { s with steep := { st with
    k := st.k + 1, b := nextB s, len := st.lenNext, lenNext := f.lk2, cfgLen := cfg s 0x4010 1,
    history := ((st.k, st.b, st.len) :: st.history).take 1023, step := n.1, sidx := n.2.1, rep := n.2.2,
    astart := if n.2.1 = 0 then st.k + 1 else st.astart, wave := none, guard := false, waved := false,
    crossedAt := some s.clock, decision := f.commit, decidedRep := st.rep, decidedBy := BitVec.ofNat 2 f.rank,
    fail := if n.2.1 = 0 then 0 else st.fail, bad := st.bad && n.2.1 ≠ 0, over401 := st.over401 && n.2.1 ≠ 0,
    master := masterBoundary (n.2.1 = 0) st.master } }

/-- The steep can end: the module is Locked or Standby, or in Listen with its boundaries known, and holds the steep's
wave; its wave point and its guard have come. -/
def boundaryReady (s : State) : Bool :=
  s.steep.wave.isSome && (match s.steep.engine with
    | .locked => s.steep.waved && s.steep.guard
    | .standby => true
    | .listen => 2 ≤ s.steep.wavesIn
    | _ => false)

/-- STEEP_BOUNDARY (spec/02 R34 to R53, spec/05 R143): steep k ends and steep k + 1 begins. -/
def execSteepBoundary (s : State) : Outcome State Fault Refusal :=
  match s.steep.wave with
  | none => done s
  | some w => onlyIf (boundaryReady s) s fun s =>
      let f := waveFields w
      let s := freezeBlocks f (countAll 3 4000 (untilTime (nextB s) s))
      let run := lockedNext s
      let bound := (List.range 128).map fun g =>
        let b := bindingAt s g (s.steep.k + 1)
        isTrain b || isServe b
      let s := endServing s
      let s := if f.commit = 1 then endStep s else s
      let first := (nextStep s f.commit).2.1 = 0
      let newStep := first && f.commit ≠ 2
      let s := { s with prog := { s.prog with stepModes := if first then stepModesNext s else s.prog.stepModes } }
      let s := swapTables run (f.commit = 2) first (countRepeats f.commit s)
      let s := if f.commit = 0 then s
        else trace 0x09 0xFF 0 (BitVec.ofNat 128 (s.steep.step.toNat + 2 ^ 32 * f.commit.toNat + 2 ^ 34 * s.steep.rep)) s
      let s := engineBoundary (newSkews (steepBoundary f s))
      let s := { s with leaf := latchBase s, fab := { s.fab with share := [] },
                        obs := { s.obs with latches := if newStep then [] else s.obs.latches } }
      let s := quotaBoundary (countAll 2 1 (updAd (fun a => { a with prefetchNow := a.prefetch }) s))
      let s := (List.range 128).foldl (fun s g => startCore run (fun g => bound.getD g false) g s) s
      if first then
        let s := newAttempt s
        if isLocked s then
          sendRollCalls (fun i => stateAt s i s.steep.k s.steep.sidx = adTraining) s
        else s
      else s

/-! ### Adapter states at a boundary (spec/06 R176, R177) -/

/-- ADAPTER_STATE_EFFECT (spec/06 Table AD-4; the shard map checks of spec/09 R259 and the shard quota of spec/14 R403
for a move to TRAINING, with the attempt's roll call of R260). A commit or abort of the same boundary is applied first. -/
def execAdapterStateEffect (didx : BitVec 16) (s : State) : Outcome State Fault Refusal :=
  let i := didx.toNat
  let d := descOf s i
  match sget none i s.ad.pending with
  | none => done s
  | some p =>
    if !boundariesKnown s || s.steep.decision ≠ 0 || !moveDue d p.1 p.2.1 s.steep.k s.steep.sidx then done s
    else
      let s := updAd (fun a => { a with pending := sput none i none a.pending }) s
      let set (s : State) : State := finish p.2.2 stOk 0 0 (setDesc i (setFld (setFld d 24 2 p.1.toNat) 26 2 0) s)
      if p.1 = adTraining then
        let xs := shardsHere s i
        if !shardMapOk s d then done (finish p.2.2 stFormat 0 0 s)
        else if quotaFull s (dPart d) 1 xs.length || 262144 < s.red.shards.length + xs.length then
          done (finish p.2.2 stQuota 0 0 s)
        else
          let s := set (enterShards xs s)
          done (if isLocked s && s.steep.sidx = 0 then sendRollCalls (fun j => j = i) s else s)
      else
        let s := if dState d = adTraining then dropShards i s else s
        done (set (if p.1 = adInvalid then releaseLater (dAdid d) none s else s))


end Sys2Proof.Machine
end

