-- ==== Sys2Proof/Machine/Trace.lean ====
section
/-! DEFINITION. Counter selects and clears, histograms, snapshots and the trace ring (spec/16 R448 to R459), and the
numeric event counts (spec/04 R134). -/

namespace Sys2Proof.Machine

open Host (Outcome)

/-! ### Selects and clears (spec/16 R449, R450, R453) -/

/-- Table PC-2 defines event `ev` for the type of block `b`. -/
def eventDefined (b ev : Nat) : Bool :=
  ev ≤ 0x0B ||
  (if b < 0x80 then 0x40 ≤ ev && ev ≤ 0x5D
   else if b < 0x84 then 0x40 ≤ ev && ev ≤ 0x48
   else if b < 0x90 then 0x40 ≤ ev && ev ≤ 0x4D
   else if b < 0x9C then 0x40 ≤ ev && ev ≤ 0x4C
   else if b < 0xA0 then 0x40 ≤ ev && ev ≤ 0x46
   else if b < 0xB0 then (0x40 ≤ ev && ev ≤ 0x48) || (0x50 ≤ ev && ev ≤ 0x5F)
   else b = 0xB0 && 0x40 ≤ ev && ev ≤ 0x4B)

/-- Apply `f` to a counter block. -/
def updBlock (b : Nat) (f : CounterBlock → CounterBlock) (s : State) : State :=
  { s with obs := { s.obs with blocks := supd {} b f s.obs.blocks } }

/-- Counter `i` starts from 0 with a select; at a boundary it counts that boundary where it selects event 0x002. -/
def startCounter (atBoundary : Bool) (i : Nat) (ev : BitVec 10) (b : CounterBlock) : CounterBlock :=
  { b with sel := sput 0 i ev b.sel, selNext := sput none i none b.selNext,
           ctr := sput 0 i (if atBoundary && ev = 2 then 1 else 0) b.ctr }

/-- Every counter and the overflow register start from 0. -/
def clearCounters (atBoundary : Bool) (b : CounterBlock) : CounterBlock :=
  { b with ovf := 0, clearNext := none,
           ctr := (List.range 8).foldl (fun c i =>
             sput 0 i (if atBoundary && sget 0 i b.sel = 2 then 1 else 0) c) b.ctr }

/-- The engine is in Off or Listen, where a select or clear takes effect at once. -/
def selectsAtOnce (s : State) : Bool := s.steep.engine == .off || s.steep.engine == .listen

/-- A write of a select entry; the event is defined for the block. -/
def writeSelect (b i : Nat) (ev : BitVec 10) (s : State) : State :=
  if selectsAtOnce s then updBlock b (startCounter false i ev) s
  else updBlock b (fun k => { k with selNext := sput none i (some (ev, s.steep.k)) k.selNext }) s

/-- COUNTER_SELECT (spec/16 R449): a write to 0x6100 + block : counter + 1. -/
def execCounterSelect (block : BitVec 8) (counter : BitVec 3) (event : BitVec 16) (s : State) :
    Outcome State Fault Refusal :=
  onlyIf (block.toNat ≤ 0xB0 && eventDefined block.toNat event.toNat) s
    (writeSelect block.toNat counter.toNat (BitVec.ofNat 10 event.toNat))

/-- A write of 1 to the clear command of a block. -/
def writeClear (b : Nat) (s : State) : State :=
  if selectsAtOnce s then updBlock b (clearCounters false) s
  else updBlock b (fun k => { k with clearNext := some s.steep.k }) s

/-- COUNTER_CLEAR (spec/16 R449): a write to 0x6100 + block : 13. -/
def execCounterClear (block : BitVec 8) (s : State) : Outcome State Fault Refusal :=
  onlyIf (block.toNat ≤ 0xB0) s (writeClear block.toNat)

/-- The selects and the clear of one block that were written before steep `k`. -/
def blockBoundary (k : BitVec 64) (b : CounterBlock) : CounterBlock :=
  let due (e : BitVec 64) : Bool := ahead k e ≠ 0
  let b := (match b.clearNext with
    | some e => if due e then clearCounters true b else b
    | none => b)
  (List.range 8).foldl (fun b i => match sget none i b.selNext with
    | some (ev, e) => if due e then startCounter true i ev b else b
    | none => b) b

/-- COUNTER_BOUNDARY (spec/16 R449, R453): pending selects and clears take effect; a snapshot of the boundary holds its own
copy. -/
def execCounterBoundary (s : State) : Outcome State Fault Refusal :=
  let s := { s with obs := { s.obs with blocks := smap {} (fun _ => blockBoundary s.steep.k) s.obs.blocks } }
  match s.obs.histClear with
  | none => done s
  | some e => onlyIf (decide (ahead s.steep.k e ≠ 0)) s fun s =>
      { s with obs := { s.obs with histClear := none, hists := [] } }

/-- A write of 1 to 0x6223:01. -/
def clearHists (s : State) : State := { s with obs := { s.obs with histClear := some s.steep.k } }

/-- HISTOGRAM_CLEAR (spec/16 R453). -/
def execHistogramClear (s : State) : Outcome State Fault Refusal := done (clearHists s)

/-- A write of 1 to 0x5011:10. -/
def clearEvents (s : State) : State := { s with obs := { s.obs with events := [] } }

/-- EVENT_COUNT_CLEAR (spec/04 R134). -/
def execEventCountClear (s : State) : Outcome State Fault Refusal := done (clearEvents s)

/-! ### Snapshots (spec/16 R454 to R456) -/

/-- A slot still being gathered when the next snapshot comes: its block records are STALE and read zero (spec/16 R455; all of
them, since the model gathers a slot in one command: log entry 38). -/
def staleSlot (x : Snapshot) : Snapshot :=
  if x.state = 1 then { x with state := 2, stale := true, blocks := [], hists := [], cyc := 0 } else x

/-- SNAPSHOT_FREEZE (spec/16 R454): the buffers of the boundary's snapshot order go to the next of four slots. -/
def execSnapshotFreeze (s : State) : Outcome State Fault Refusal :=
  match s.obs.frozen with
  | none => done s
  | some x =>
    let i := s.obs.taken % 4
    let o := s.obs
    let slots := smap {} (fun _ => staleSlot) o.slots
    let late := (List.range 4).find? fun j => (sget {} j o.slots).state = 1
    let s := { s with obs := { o with
      frozen := none, taken := o.taken + 1,
      latest := (match late with | some j => BitVec.ofNat 8 j | none => o.latest),
      slots := sput {} i { x with seq := BitVec.ofNat 32 (o.taken + 1) } slots } }
    done (trace 0x10 0xFF 0 (BitVec.ofNat 128 (x.id.toNat + 65536 * i)) s)

/-- SNAPSHOT_GATHER_DONE (spec/16 R454, R455): the slot is COMPLETE. -/
def execSnapshotGatherDone (s : State) : Outcome State Fault Refusal :=
  match (List.range 4).find? fun j => (sget {} j s.obs.slots).state = 1 with
  | none => done s
  | some j =>
    done { s with obs := { s.obs with
      latest := BitVec.ofNat 8 j, slots := supd {} j (fun x => { x with state := 2 }) s.obs.slots } }

/-! ### The trace ring (spec/16 R458, R459) -/

/-- The trace ring's base: the reserved region of the system area of stack 0, logical pseudo-channel 2. -/
def ringBase : Nat := 2 * 0x120000000 + systemStart 2 + 0x3100000

/-- Records that the ring holds. -/
def ringRecords : Nat := 0x200000

/-- The canonical key of a record (spec/02 R56). -/
def recKey (r : TraceRec) : Nat × Nat × Nat := (r.time.toNat, r.sna.toNat, r.oseq.toNat)

/-- A record as it stands in the ring (spec/16 Table PC-8). -/
def recBits (late : Bool) (r : TraceRec) : BitVec 256 :=
  packR 256 [(64, r.time.toNat), (32, r.oseq.toNat), (8, r.type.toNat), (8, r.block.toNat), (6, r.part.toNat),
    (1, late.toNat), (9, 0), (128, r.data.toNat)]

/-- Write one record to the ring, and copy a completed 4 KiB block to the host ring. In stop mode a full ring loses it. -/
def ringWriteRec (late : Bool) (r : TraceRec) (s : State) : State :=
  let o := s.obs
  if cfg s 0x6300 2 = 1 && ringRecords ≤ o.ringCount then { s with obs := { o with lost := o.lost + 1 } }
  else
    let n := o.written
    let a := ringBase + n % ringRecords * 32
    let s := writeStored false a (wordBytes (recBits late r)) s
    let s := { s with obs := { s.obs with
      written := n + 1, ringCount := o.ringCount + 1,
      lastWritten := if late then o.lastWritten else r.time } }
    let h := cfg s 0x6300 6
    let size := bits h 64 32
    if n % 128 = 127 && size ≠ 0 then
      let r := readStored (a / 4096 * 4096) 4096 s
      hostWrite 0 (bits h 0 64 + n / 128 % size * 4096) r.1 r.2
    else s

/-- After space has returned in staging, one LOST record carries the count of dropped records. -/
def lostRecord (s : State) : State :=
  let n := s.obs.dropped
  if n = 0 || 4096 ≤ s.obs.staging.length || !(cfg s 0x6300 1).testBit 0x12 then s
  else trace 0x12 0xFF 0 (BitVec.ofNat 128 n) { s with obs := { s.obs with dropped := 0 } }

/-- TRACE_WRITE (spec/16 R458): the first held record in canonical order, when its hold of 4,000 cycles is over; LATE where
one of a later time is written already. -/
def execTraceWrite (s : State) : Outcome State Fault Refusal :=
  match canonSort recKey s.obs.staging with
  | [] => done s
  | r :: _ =>
    let s := untilClock (r.made + 4000) s
    let s := { s with obs := { s.obs with staging := s.obs.staging.erase r } }
    done (lostRecord (ringWriteRec (decide (ahead s.obs.lastWritten r.time ≠ 0)) r s))

end Sys2Proof.Machine
end

