-- ==== Sys2Proof/Machine/Staging.lean ====
section
/-! DEFINITION. The staged configuration (spec/15 R439 to R444): CHECK, COMMIT, the swap at B(E), and DISCARD. -/

namespace Sys2Proof.Machine

open Host (Outcome)

/-! ### CHECK (spec/15 R441) -/

/-- A check begins: STATE reads 1 until it ends. -/
def startCheck (s : State) : State := updDict (fun d => { d with checking := true, report := 1 }) s

/-- CHECK: a write of 1 to 0xA000:01 by a session. -/
def execCheck (session : BitVec 32) (s : State) : Outcome State Fault Refusal :=
  onlyIf (mayStage s session && s.dict.commit.isNone) s startCheck

/-- CHECK_DONE: the check ends, within 10 ms, and writes its report. -/
def execCheckDone (s : State) : Outcome State Fault Refusal :=
  onlyIf s.dict.checking s fun s => writeReport (brokenRules none s) s

/-! ### The swap (spec/15 R442) -/

/-- A key of the value maps names an RWS entry. -/
def isRwsKey (k : Nat) : Bool :=
  match rowOf (k / 256) (k % 256) with
  | some r => r.access = .rws
  | none => false

/-- The active set with the shadow values of every RWS entry. -/
def swapped (d : Dictionary) : Sparse Nat :=
  (d.active.filter fun e => !isRwsKey e.1).foldl (fun m e => insertKey e.1 e.2 m) d.shadow

/-- The commit status (spec/15 Table OD-10). -/
def statusBits (e : BitVec 64) (rule state : Nat) : BitVec 128 := BitVec.ofNat 128 (e.toNat * 2 ^ 64 + 256 * rule + state)

/-- The next GEN of the leaf store (spec/11 R328). -/
def nextGen (g : BitVec 16) : BitVec 16 := if g = 0 || g = 0x7FFF then 1 else g + 1

/-- The named half becomes ACTIVE under the next generation and the active one RETAINED (spec/11 R328). With no half ACTIVE,
the commit activates the named half where it is STAGED (DEDUCED, log entry 39). -/
def switchHalf (s : State) : State :=
  let h := decide (cfg s 0x8310 1 = 1)
  let old := !h
  if halfState s h ≠ 2 then s
  else
    let was := halfState s old = 3
    let g := if was then fld (recOf s old) 192 16 else s.leaf.activeGen
    let s := if was then setRec old (setRecState (recOf s old) 4) s else s
    let s := setRec h (setRecState (setFld (recOf s h) 192 16 (nextGen g).toNat) 3) s
    measureHalf h (updLeaf (fun l => { l with
      activeGen := nextGen g, retainedGen := if was then g else l.retainedGen }) s)

/-- The bytes of a partition's share of a die's caddy: none without a core there. -/
def dieShare (t : State) (die p : Nat) : Nat := if onDie t p die then shareBytes t p else 0

/-- A byte of the caddies that no resident block holds, under the new shares: the share's offset stays, and what lies beyond
the new share is zeroised (spec/14 R400). -/
def moveCaddyCell (s t : State) (c : Host.Cell) : Option Host.Cell :=
  let die := (c.1 - 0x060020000000) / 0x4000000
  match (List.range 64).find? fun p => caddyAddr s die p 0 ≤ c.1 && c.1 < caddyAddr s die p 0 + shareBytes s p with
  | none => none
  | some p =>
    let o := c.1 - caddyAddr s die p 0
    if o < dieShare t die p then some (caddyAddr t die p o, c.2) else none

/-- The caddies under the shares of a new active set. -/
def resizeCaddies (old s : State) : State :=
  let isCaddy (c : Host.Cell) : Bool := 0x060020000000 ≤ c.1 && c.1 < 0x060030000000
  let cells := (s.mem.filter isCaddy).filterMap (moveCaddyCell old s)
  let s := { s with mem := cells.foldl (fun m c => memStore m c.1 c.2) (s.mem.filter fun c => !isCaddy c) }
  (List.range 4).foldl (fun s die => setCaddy die ((caddyOf s die).filter fun b =>
    4096 * b.frame < dieShare s die b.part.toNat) s) s

/-- A core that leaves a partition is zeroised, and one that changes partition starts its counters from 0 (spec/14 R400,
spec/16 R449). -/
def moveCores (old s : State) : State :=
  (List.range 128).foldl (fun s g =>
    if coreOwner old g = coreOwner s g then s
    else updBlock g (clearCounters true) (if (coreOwner old g).isSome then zeroCore g s else s)) s

/-- A partition that is enabled appears, and one that is disabled is ABSENT; a quota below the usage sets its over-quota bit
(spec/14 R401, R404). -/
def movePartitions (old s : State) : State :=
  (List.range 64).foldl (fun s p =>
    let s := if !partEnabled s p && partEnabled old p then setPartState p .absent s else appear p s
    if overNow s p = 0 then s else updPart p (fun q => { q with overBits := q.overBits ||| overNow s p }) s) s

/-- What a new active set does at once. -/
def swapEffects (old s : State) : State :=
  let s := movePartitions old (resizeCaddies old (moveCores old s))
  let s := if cfg old 0x8310 1 ≠ cfg s 0x8310 1 || (halfState s false ≠ 3 && halfState s true ≠ 3) then switchHalf s else s
  let s := if boundariesKnown s && s.steep.sidx = 0 then latchRules s else s
  if (tableDiff old s).isNone then s
  else
    let s := { s with fab := { s.fab with tableSet := true } }
    if boundariesKnown s then tableChanged s else s

/-- The record of a swap or of a failure at the boundary (spec/16 Table PC-7). -/
def configTrace (rule : Nat) (s : State) : State :=
  trace 0x0F 0xFF 0 (BitVec.ofNat 128 (s.dict.generation + 2 ^ 32 * rule)) s

/-- The rules pass: the active set takes the shadow values. -/
def swapSets (e : BitVec 64) (s : State) : State :=
  let t := updDict (fun d => { d with
    active := swapped d, generation := (d.generation + 1) % 2 ^ 32, commit := none, commitStatus := statusBits e 0 2 }) s
  configTrace 0 (swapEffects s t)

/-- A rule fails at the boundary: nothing changes, and the status records the rule. -/
def failCommit (e : BitVec 64) (rule : Nat) (s : State) : State :=
  configTrace rule (updDict (fun d => { d with commit := none, commitStatus := statusBits e rule 3 }) s)

/-- COMMIT_SWAP (spec/15 R442): at B(E), the rules are evaluated again. -/
def execCommitSwap (s : State) : Outcome State Fault Refusal :=
  match s.dict.commit with
  | none => done s
  | some e =>
    onlyIf (boundariesKnown s && hasBegun s e) s fun s =>
      match brokenRules (some s.steep.k) s with
      | [] => swapSets e s
      | r :: _ => failCommit e r.1 s

/-! ### COMMIT (spec/15 R442, R443) -/

/-- Steeps run for a COMMIT: Locked or Standby. -/
def commitTimed (s : State) : Bool := s.steep.engine == .locked || s.steep.engine == .standby

/-- A COMMIT accepted at `at_`: status and DETAIL, and the state. It runs CHECK first. The DETAIL of a failed CHECK is not stated
(a free value, log entry 6). -/
def commit (at_ : BitVec 64) (e : BitVec 64) (s : State) : (Nat × Nat) × State :=
  let fs := brokenRules none s
  let s := writeReport fs s
  if !fs.isEmpty then
    let v := fresh 8 s
    ((stConfigRejected, v.1.toNat), v.2)
  else if commitTimed s then
    let far := decide (s.steep.k.toNat + 16777216 < e.toNat)
    if !far && !boundary20us s at_ e then ((stTimeout, 9), s)
    else if far || (rule17 s (shadowView s) (some e)).isSome then ((stConfigRejected, 3), s)
    else ((stOk, 0), refetchModes (updDict (fun d => { d with commit := some e, commitStatus := statusBits e 0 1 }) s))
  else if e ≠ 0 then ((stConfigRejected, 3), s)
  else ((stOk, 0), swapSets e s)

/-- COMMIT: a write of E to 0xA000:02 by a session. -/
def execCommit (session : BitVec 32) (steep : BitVec 64) (s : State) : Outcome State Fault Refusal :=
  onlyIf (mayStage s session && s.dict.commit.isNone) s fun s => (commit s.time steep s).2

/-! ### DISCARD (spec/15 Table OD-8) -/

/-- The active set is copied to the shadow set, and a pending COMMIT whose boundary lies at least 20 µs ahead is
cancelled. -/
def discard (s : State) : State :=
  let s := updDict (fun d => { d with shadow := d.active.filter fun e => isRwsKey e.1 }) s
  match s.dict.commit with
  | none => s
  | some e =>
    if atLeast20us s e then updDict (fun d => { d with commit := none, commitStatus := statusBits e 0 4 }) s else s

/-- DISCARD: a write of 1 to 0xA000:03 by a session. -/
def execDiscard (session : BitVec 32) (s : State) : Outcome State Fault Refusal :=
  onlyIf (mayStage s session) s discard

end Sys2Proof.Machine
end

