-- ==== Sys2Proof/Machine/Startup.lean ====
section
/-! DEFINITION. Start-up in eleven stages (spec/17 R464 to R467), the resets (spec/17 R469, spec/18 R493), loss of the
housekeeping rail, and the fault log (spec/17 R479). -/

namespace Sys2Proof.Machine

open Host (Outcome)

/-- Milliseconds in core cycles. -/
def ms (n : Nat) : Nat := n * 1000 * cyclesPerUs

/-! ### Power-up (spec/17 R464 to R467) -/

/-- HOUSEKEEPING_RAIL (spec/13 Table CU-2, spec/17 Table SR-1): the Custody Controller leaves POR for MEASURE. -/
def execHousekeepingRail (s : State) : Outcome State Fault Refusal :=
  onlyIf (s.cust.state == .por) s fun s =>
    updBoot (fun b => { b with stage := 1, stageAt := s.clock, startClock := s.clock }) (updCust (fun c => { c with state := .measure }) s)

/-- The HX rail comes up: the management port and the PCIe link are enabled, so partition 0's function exists. -/
def hxUp (s : State) : State := appear 0 (updBoot (fun b => { b with railHx := true }) s)

/-- MAIN_INPUT_GOOD (spec/18 R482, spec/17 R467): a stopped start-up brings the HX rail up too. -/
def execMainInputGood (s : State) : Outcome State Fault Refusal :=
  let s := updBoot (fun b => { b with mainGood := true }) s
  done (if s.boot.status = 2 && s.boot.stage ≠ 0 then hxUp s else s)

/-- Start-up stops; the HX rail is up once the main input is within its limits (spec/17 R467). -/
def stopStart (cause : Nat) (s : State) : State :=
  let s := startupStop cause 0 s
  if s.boot.mainGood then hxUp s else s

/-- The board EEPROM record of spec/18 Table MP-6 is good: magic, version, zero fields and CRC-64. -/
def boardGood (b : BitVec 512) : Bool :=
  let bs := wordBytes b
  bytesAt bs 0 2 = 0xB0A7 && bytesAt bs 2 1 = 1 && !bit b 31 && bytesAt bs 0x24 20 = 0 &&
  (crc64 (bs.take 0x38)).toNat = bytesAt bs 0x38 8

/-- A stack record is accepted (spec/10 R301). -/
def stackAccepted (listed : List (BitVec 8)) (r : BitVec 256) : Bool :=
  fld r 152 8 = 12 && fld r 144 8 = 32 && fld r 128 16 = 4608 && listed.contains (fld r 120 8)

/-- The record of a stack at 0x8110 with its STATUS: 0 accepted, 1 refused, 3 not read. -/
def stackRecord (id : Identity) (st : Nat) : BitVec 256 :=
  match id.hbmRecs[st]? with
  | none => setFld 0 112 8 3
  | some r => setFld (setFld r 0 120 0) 112 8 (if stackAccepted id.listedRevs r then 0 else 1)

/-- The first row of spec/17 Table SR-2 that stops start-up. -/
def identityFailure (id : Identity) : Option Nat :=
  if !id.eepromGood then some 1
  else if !boardGood id.board then some 2
  else if 8 < id.strap.toNat then some 3
  else if !(List.range 12).all fun st => fld (stackRecord id st) 112 8 = 0 then some 4
  else if !id.leafGood then some 5
  else none

/-- The module's SNA: group and board of the board EEPROM, and the site strap (spec/12 R346). -/
def snaFrom (board : BitVec 8) (site : BitVec 4) : BitVec 16 :=
  BitVec.ofNat 16 (mkSna (fld board 0 3).toNat (fld board 3 4).toNat site.toNat)

/-- Stage 3: the identity memories are read and stored; a failure of Table SR-2 stops start-up. -/
def readIdentity (id : Identity) (s : State) : State :=
  let s := updBoot (fun b => { b with stage := 3, stageAt := s.clock }) s
  let s := (List.range 12).foldl (fun s st => updStack st (fun k => { k with identity := stackRecord id st }) s) s
  match identityFailure id with
  | some row => stopStart row s
  | none =>
    let bs := wordBytes id.board
    let s := updBoot (fun b => { b with
      identified := true, serial := id.serial, mac := id.mac, romId := id.romId, dieRevs := id.dieRevs,
      identityDigest := id.digest, boardSerial := BitVec.ofNat 128 (bytesAt bs 4 16), site := id.strap }) s
    { s with fab := { s.fab with sna := snaFrom (fld id.board 24 8) id.strap,
                                 installed := BitVec.ofNat 128 (bytesAt bs 0x14 16) } }

/-- Stage 4: the rails of HX and FX come up. After a module reset the site strap is read again (spec/18 R491). -/
def stage4 (id : Identity) (s : State) : State :=
  if s.boot.siteAgain && 8 < id.strap.toNat then stopStart 3 s
  else
    let s := if s.boot.siteAgain then
        { s with fab := { s.fab with
          sna := s.fab.sna &&& 0xFE00 ||| BitVec.ofNat 16 (mkSna 0 0 id.strap.toNat) } }
      else s
    hxUp (updBoot (fun b => { b with
      stage := 4, stageAt := s.clock, rails := 1, readyClock := max b.readyClock s.clock, siteAgain := false,
      site := if b.siteAgain then id.strap else b.site }) s)

/-- The rows of a stack that its repair log names, SOFT or HARD, applied again (spec/10 R306). -/
def loggedRows (log : List (Nat × Nat × Nat × Nat × Nat)) (st : Nat) : Sparse Nat :=
  (log.filter fun e => e.1 = st).foldl (fun m e => sput 0 (rowKey e.2.1 e.2.2.1 e.2.2.2.1) e.2.2.2.2 m) []

/-- The hard repairs of a maintenance reset: every logged SOFT entry becomes HARD, stacks in parallel, at most 250 ms
each (spec/10 R306). -/
def hardenLog (s : State) : State :=
  if s.boot.hardRepair then
    let soft := s.hbm.log.filter fun e => e.2.2.2.2 = 2
    let most := (List.range 12).foldl (fun m st => max m (soft.countP fun e => e.1 = st)) 0
    let s := elapse (ms (250 * most)) s
    let s := { s with hbm := { s.hbm with
      log := s.hbm.log.map fun e => (e.1, e.2.1, e.2.2.1, e.2.2.2.1, 3),
      hardRepairs := s.hbm.hardRepairs + soft.length } }
    updBoot (fun b => { b with hardRepair := false })
      (soft.foldl (fun s e => rasEvent e.1 e.2.1 e.2.2.1 e.2.2.2.1 4 s) s)
  else s

/-- Package memory outside the HBM stacks. -/
def outsideHbm (m : Mem) : Mem := m.filter fun c => (hbmStack c.1).isNone

/-- Stage 6 ends: maps and logged repairs are in force, and every block of every stack is zero with V = 1 (spec/17
R465). -/
def zeroFill (s : State) : State :=
  let s := hardenLog s
  let s := (List.range 12).foldl (fun s st => updStack st (fun k => { k with rows := loggedRows s.hbm.log st }) s) s
  { s with mem := outsideHbm s.mem, hbm := { s.hbm with filled := true, blocks := [] } }

/-- Stage 7 ends: the half records give the generations, and the active half (spec/11 R328). -/
def readHalves (s : State) : State :=
  let gen (st : Nat) : BitVec 16 := match [false, true].find? fun h => halfState s h = st with
    | some h => fld (recOf s h) 192 16
    | none => 0
  let s := updLeaf (fun l => { l with activeGen := gen 3, lastGen := gen 3, retainedGen := gen 4 }) s
  setBoth 0x8310 1 (if halfState s true = 3 then 1 else 0) s

/-- A stage begins now. -/
def beginStage (n : Nat) (s : State) : State := updBoot (fun b => { b with stage := n, stageAt := s.clock }) s

/-- A later stage begins, no earlier than its time after T_R, with the rails that Table SR-1 has brought up by then. -/
def enterStage (n t : Nat) (rails : BitVec 10) (s : State) : State :=
  updBoot (fun b => { b with rails := rails }) (beginStage n (untilClock (s.boot.readyClock + ms t) s))

/-- Discovery has left LINKS for FLOOD or a later state. -/
def floodReached (s : State) : Bool :=
  s.fab.discovery == .flood || s.fab.discovery == .routes || s.fab.discovery == .complete

/-- STAGE_ADVANCE (spec/17 R464, R465, R467): the present stage ends as Table SR-1 says, and the next begins. -/
def execStageAdvance (ident : Identity) (s : State) : Outcome State Fault Refusal :=
  if s.boot.status ≠ 0 then done s
  else match s.boot.stage with
  | 1 => onlyIf (s.cust.state != .por) s (beginStage 2)
  | 2 => onlyIf (s.cust.state != .por) s (readIdentity ident)
  | 3 => onlyIf (s.boot.identified && (s.cust.state == .ready || s.cust.state == .sealBroken) && s.boot.mainGood &&
      s.boot.resetL) s (stage4 ident)
  | 4 => done (enterStage 5 20 0x003 s)
  | 5 => done (enterStage 6 40 0x03F s)
  | 6 => done (enterStage 7 400 0x3FF (zeroFill s))
  | 7 => done (if ident.leafGood then enterStage 8 500 0x3FF (readHalves s) else stopStart 5 s)
  | 8 => onlyIf (floodReached s) s (beginStage 9)
  | 9 => onlyIf (s.fab.discovery == .complete) s (beginStage 10)
  | 10 => onlyIf (s.steep.engine == .locked || s.steep.engine == .standby) s
      (updBoot fun b => { b with stage := 11, stageAt := s.clock, status := 1,
                                 timeToReady := (s.clock - b.startClock) / ms 1 })
  | _ => done s

/-- The clock at which the present stage exceeds its limit (spec/17 R467): stages 2 and 3 together 1.5 s, stage 6 400 ms,
stage 7 200 ms, stages 8 and 9 the 10 s and 5 s of Table FB-7, stage 10 the 5 s of a stay in Listen. The wait for the main
input in stage 3, and stages 1, 4, 5 and 11, have none. -/
def stageLimit (s : State) : Option Nat :=
  let b := s.boot
  match b.stage with
  | 2 => some (b.startClock + ms 1500)
  | 3 => if b.identified && s.cust.state ≠ .measure then none else some (b.startClock + ms 1500)
  | 6 => some (b.stageAt + ms 400)
  | 7 => some (b.stageAt + ms 200)
  | 8 => some (b.stageAt + ms 10000)
  | 9 => some (b.stageAt + ms 5000)
  | 10 => some (s.steep.listenAt + ms 5000)
  | _ => none

/-- STAGE_TIMEOUT (spec/17 R467): a stage exceeds its limit, and start-up stops; from Listen, the steep engine is Stopped. A
limit is no row of Table SR-2: the record's cause is what the module reports (not stated: an operand). -/
def execStageTimeout (cause : BitVec 8) (s : State) : Outcome State Fault Refusal :=
  match stageLimit s with
  | none => done s
  | some t => onlyIf (s.boot.status = 0) s fun s =>
    let s := untilClock t s
    stopStart cause.toNat (if s.steep.engine = .listen then setEngine .stopped 6 s else s)

/-! ### Resets (spec/17 R469) -/

/-- A slot not FREE or RETIRED is removed, its scrub satisfied by the fill. -/
def settleSlots (s : State) : State :=
  (s.cust.slots.filter fun e => e.2.state = .scrubbing).foldl (fun s e =>
    setSlot e.1 { (slotOf s e.1) with
      left := [], state := if (slotOf s e.1).gen = 0xFFFF then .retired else .free } s) s

/-- What a stack keeps through a module reset: its map, its pseudo-channels, its repairs and its identity. A fill in
progress starts again (DESIGN CHOICE, log entry 39). -/
def stackKept (k : Stack) : Stack :=
  { map := k.map, losing := k.losing, repairs := k.repairs,
    pcs := k.pcs.map fun e => (e.1, match e.2 with | .draining => .active | .filling => .spare | x => x),
    retireQ := (match k.fill with | some f => [f.1] | none => []) ++ k.retireQ,
    rows := k.rows.filter fun e => e.2 ≠ 1,
    identity := if fld k.identity 112 8 = 2 then setFld k.identity 112 8 0 else k.identity }

/-- The canonical form of the stack's pseudo-channel states: none listed at its state after reset. -/
def tidyPcs (k : Stack) : Stack := { k with pcs := k.pcs.filter fun e => e.2 ≠ pcDefault e.1 }

/-- Package memory in the leaf stacks. -/
def leafMem (m : Mem) : Mem := m.filter fun c => 0x040000000000 ≤ c.1 && c.1 < 0x060000000000

/-- The halves through a module reset: kept, but for an install that ends with it (DEDUCED, log entry 39). -/
def leafKept (l : Leaf) : Leaf :=
  let fix (r : BitVec 512) : BitVec 512 := if fld r 189 3 = 1 then emptyRec r else r
  { rec0 := fix l.rec0, rec1 := fix l.rec1, man0 := l.man0, man1 := l.man1, damaged := l.damaged }

/-- A module reset (spec/17 Table SR-3): every die but the housekeeping domain and the Custody Controller. -/
def moduleReset (s : State) : State :=
  let s := settleSlots (removeAllSlots s)
  let b := s.boot
  { pending := s.pending, clock := s.clock, time := BitVec.ofNat 64 s.clock, free := s.free, out := s.out,
    mem := leafMem s.mem, power := s.power,
    cust := { s.cust with imports := [], removes := [], requests := [] },
    hbm := { stk := (s.hbm.stk.map fun e => (e.1, tidyPcs (stackKept e.2))).filter fun e => e.2 ≠ {}, log := s.hbm.log },
    leaf := leafKept s.leaf,
    fab := { sna := s.fab.sna, installed := s.fab.installed },
    dict := { keys := s.dict.keys },
    obs := { since := s.clock },
    boot := { stage := if b.stage ≤ 1 then b.stage else if b.identified then 3 else 2,
              stageAt := s.clock, readyClock := s.clock, startClock := s.clock, faultLog := b.faultLog, resetL := b.resetL, mainGood := b.mainGood,
              serial := b.serial, boardSerial := b.boardSerial, mac := b.mac, romId := b.romId, dieRevs := b.dieRevs,
              identityDigest := b.identityDigest, identified := b.identified, site := b.site, siteAgain := true } }

/-- MODULE_RESET (spec/17 R469): a write of 1 to 0xA010:01. -/
def execModuleReset (s : State) : Outcome State Fault Refusal := onlyIf (1 ≤ s.boot.stage) s moduleReset

/-- A maintenance reset: a module reset, with the hard repairs before stage 6 ends. -/
def maintenanceReset (s : State) : State := updBoot (fun b => { b with hardRepair := true }) (moduleReset s)

/-- MAINTENANCE_RESET (spec/17 R469): a write of 1 to 0xA010:02. -/
def execMaintenanceReset (s : State) : Outcome State Fault Refusal := onlyIf (1 ≤ s.boot.stage) s maintenanceReset

/-- RESET_PIN (spec/18 R493): RESET_L low for 10 µs. -/
def execResetPin (s : State) : Outcome State Fault Refusal :=
  onlyIf (1 ≤ s.boot.stage) s fun s => updBoot (fun b => { b with resetL := false }) (moduleReset (elapse 20000 s))

/-- RESET_PIN_RELEASE (spec/18 R493): RESET_L rises. -/
def execResetPinRelease (s : State) : Outcome State Fault Refusal := done (updBoot (fun b => { b with resetL := true }) s)

/-- PERST (spec/18 R493): an FLR of the PF, unless RESET_L is low too. -/
def execPerst (s : State) : Outcome State Fault Refusal := onlyIf s.boot.resetL s flrPf

/-- HOUSEKEEPING_RAIL_LOSS (spec/17 Table SR-3, spec/11 Table LF-7): what stands in EEPROM, in fuses and in the leaf stacks
is kept; the number of KEM key pairs drawn is the model's own. -/
def execHousekeepingRailLoss (s : State) : Outcome State Fault Refusal :=
  let s := leafPowerLoss s
  let kept (k : Stack) : Stack :=
    tidyPcs { map := k.map, pcs := (stackKept k).pcs, repairs := k.repairs }
  done { pending := s.pending, free := s.free, out := s.out, mem := leafMem s.mem,
         cust := { stored0 := s.cust.stored0, stored1 := s.cust.stored1, kem := s.cust.kem },
         hbm := { stk := (s.hbm.stk.map fun e => (e.1, kept e.2)).filter fun e => e.2 ≠ {}, log := s.hbm.log },
         leaf := leafKept s.leaf,
         dict := { keys := s.dict.keys },
         boot := { faultLog := s.boot.faultLog, resetL := s.boot.resetL } }

/-! ### The fault log (spec/17 R479) -/

/-- A write of an index to 0xF020:04: the record of that place, oldest first; a place with no record answers a free
value. -/
def readFaultLog (i : Nat) (s : State) : State :=
  match s.boot.faultLog[i]? with
  | some r => updBoot (fun b => { b with faultRead := r }) s
  | none =>
    let v := fresh 128 s
    updBoot (fun b => { b with faultRead := v.1 }) v.2

/-- FAULT_LOG_READ (spec/17 R479). -/
def execFaultLogRead (index : BitVec 32) (s : State) : Outcome State Fault Refusal :=
  onlyIf (index.toNat < 64) s (readFaultLog index.toNat)

end Sys2Proof.Machine
end

