-- ==== Sys2Proof/Machine/Values.lean ====
section
/-! DEFINITION. What a read of a Dictionary entry returns (spec/15 R422 to R425, and the entry table of each chapter):
values least significant byte first, records by spec/00 R499. -/

namespace Sys2Proof.Machine

/-! ### Snapshots and histograms (spec/16 Tables PC-3 to PC-6) -/

/-- A histogram record: kind, instance and 16 bins. -/
def histRecord (kind inst : Nat) (bins : List (BitVec 48)) : List Byte :=
  (List.range 16).flatMap (fun i => leBytes 6 (bins.getD i 0).toNat) ++ leBytes 1 inst ++ leBytes 1 kind ++ leBytes 30 0

/-- Kind, instance and key of the 92 histograms, in the order of a snapshot. -/
def histOrder : List (Nat × Nat × Nat) :=
  (List.range 12).map (fun i => (0, i, i)) ++ (List.range 16).map (fun i => (1, i, 16 + i)) ++
  (List.range 64).map (fun i => (2, i, 64 + i))

/-- A block record of a snapshot. -/
def blockRecord (x : Snapshot) (b : Nat) : List Byte :=
  let k := sget {} b x.blocks
  leBytes 1 b ++ leBytes 1 x.stale.toNat ++ leBytes 1 k.ovf.toNat ++ leBytes 5 0 ++
  (List.range 8).flatMap (fun i => leBytes 6 (sget 0 i k.ctr).toNat) ++ leBytes 8 x.cyc.toNat

/-- A snapshot slot, 23,168 bytes; an empty slot reads zero. -/
def snapshotBytes (s : State) (j : Nat) : List Byte :=
  let x := sget {} j s.obs.slots
  if x.state = 0 then leBytes 23168 0
  else
    let head := leBytes 4 x.id.toNat ++ leBytes 4 x.seq.toNat ++ leBytes 1 j ++ leBytes 8 x.steep.toNat ++
      leBytes 8 x.time.toNat ++ leBytes 1 x.state.toNat ++ leBytes 1 (if x.stale then 177 else 0) ++ leBytes 37 0
    head ++ (List.range 177).flatMap (blockRecord x) ++
      histOrder.flatMap fun h => histRecord h.1 h.2.1 (sget [] h.2.2 x.hists)

/-- A live histogram. -/
def histValue (s : State) (kind inst key : Nat) : List Byte := histRecord kind inst (sget [] key s.obs.hists)

/-! ### Values by chapter; `p` is the subindex less 1 -/

/-- The pending or present select of a counter. -/
def selectOf (b : CounterBlock) (i : Nat) : BitVec 10 :=
  match sget none i b.selNext with
  | some e => e.1
  | none => sget 0 i b.sel

/-- 0x6100 to 0x61B0 (spec/16 Table PC-12). -/
def counterValue (s : State) (b sub : Nat) : List Byte :=
  let k := sget {} b s.obs.blocks
  if sub ≤ 8 then leBytes 2 (selectOf k (sub - 1)).toNat
  else if sub = 9 then leBytes 8 (cycleCount s).toNat
  else if sub ≤ 17 then leBytes 8 (sget 0 (sub - 10) k.ctr).toNat
  else if sub = 18 then leBytes 1 k.ovf.toNat
  else leBytes 1 0

/-- The status record of a key slot (spec/13 Table CU-14). -/
def slotStatus (s : State) (n : Nat) : List Byte :=
  let k := slotOf s n
  wordBytes (packR 64 [(8, slotCode k.state), (16, k.gen.toNat), (1, k.parity.toNat), (6, slotOwnerD s n),
    (32, k.left.length + (k.sweeps.map fun w => w.2.length).foldl (· + ·) 0)])

/-- 0x9000 to 0x9700. -/
def custodyValue (s : State) (i p : Nat) : List Byte :=
  let c := s.cust
  match i, p with
  | 0x9000, 0 => leBytes 1 (match c.state with | .por => 0 | .measure => 1 | .ready => 2 | .sealBroken => 3 | .fault => 4)
  | 0x9000, 1 => wordBytes c.boot
  | 0x9000, _ => wordBytes c.faultRec
  | 0x9100, 0 => Config.identityCerts
  | 0x9100, _ => kemCertificate s
  | 0x9110, 0 => wordBytes c.mr0
  | 0x9110, 1 => wordBytes c.mr1
  | 0x9110, 2 => wordBytes c.mr2
  | 0x9110, _ => wordBytes c.mr3
  | 0x9111, 0 => leBytes 2 c.log.length
  | 0x9111, _ => wordBytes c.logRead
  | 0x9200, _ => c.report
  | 0x9300, 1 => leBytes 2 (c.slots.countP fun e => e.2.state = .rotating)
  | 0x9300, 2 => leBytes 2 (c.slots.countP fun e => e.2.state = .scrubbing)
  | 0x9300, _ => leBytes 8 c.noKeyReads
  | 0x9600, 0 => leBytes 8 c.stale
  | 0x9600, 1 => leBytes 8 c.gcmFails
  | 0x9600, _ => leBytes 8 c.importsRefused
  | 0x9700, j => leBytes 33 (sget 0 j s.dict.keys).toNat
  | i, j => if 0x9400 ≤ i && i ≤ 0x943F then slotStatus s (128 * (i - 0x9400) + j) else leBytes 4 0

/-- 0x1000 and 0x2020 (spec/15 Table OD-14). -/
def identityValue (s : State) (i p : Nat) : List Byte :=
  let b := s.boot
  match i, p with
  | 0x1000, 0 => leBytes 16 (dfltOf 0x1000 1)
  | 0x1000, 1 => wordBytes b.serial
  | 0x1000, 2 => leBytes 2 1
  | 0x1000, 3 => wordBytes b.romId
  | 0x1000, _ => wordBytes b.dieRevs
  | _, 1 => wordBytes s.dict.mgmtLink
  | _, _ => beBytes 6 b.mac.toNat

/-- 0x2400 to 0x2510 (spec/06, spec/07). -/
def servingValue (s : State) (i p : Nat) : List Byte :=
  match i, p with
  | 0x2400, 2 => leBytes 4 (s.ad.descs.countP fun e => dAdid e.2 ≠ 0)
  | 0x2400, 3 => leBytes 8 s.ad.deferred
  | 0x2400, 4 => leBytes 8 s.ad.timedOut
  | 0x2400, _ => leBytes 8 s.ad.staleServed
  | 0x2509, p => leBytes 8 (regionBytes s p)
  | 0x250A, p => leBytes 4 (freeChunks s p)
  | 0x250B, p => leBytes 4 ((kvOf s p).seqs.countP fun e => e.2.state ≠ .free)
  | _, 0 => leBytes 8 s.prog.kvMatches
  | _, 1 => leBytes 8 s.prog.kvCopies
  | _, 2 => leBytes 8 s.prog.kvOwner
  | _, 3 => leBytes 8 s.prog.kvRefused
  | _, 4 => leBytes 8 s.prog.kvEvicted
  | _, _ => leBytes 8 s.prog.kvTail

/-- The code of a TDISP state at 0x3050. -/
def tdiCode : TdiState → Nat
  | .unlocked => 0 | .locked => 1 | .run => 2 | .error => 3

/-- 0x3000 to 0x3420 (spec/14 Table HQ-14). -/
def partitionValue (s : State) (i p : Nat) : List Byte :=
  let q := partOf s p
  match i, p with
  | 0x3000, _ => leBytes 1 (partCode q.state)
  | 0x3001, _ => wordBytes q.gen
  | 0x3050, _ => leBytes 1 (tdiCode q.tdi)
  | 0x3060, _ => leBytes 64 0
  | 0x3061, _ => wordBytes q.logState
  | 0x3063, _ => leBytes 8 q.logOutside
  | 0x3070, 0 => leBytes 8 s.front.doorbellsDropped
  | 0x3070, 1 => leBytes 8 s.front.discarded
  | 0x3070, 2 => leBytes 8 (s.front.queues.countP fun e => e.2.state = .error)
  | 0x3070, _ => leBytes 8 s.front.tlpDropped
  | 0x3420, _ => wordBytes q.overBits
  | i, p => if 0x3410 ≤ i && i ≤ 0x3414 then leBytes 4 (usage s p (i - 0x3410)) else leBytes 1 0

/-- The largest absolute offset of the last second (spec/02 R33). -/
def largestOffset (s : State) : Nat :=
  (s.steep.offsets.filter fun o => s.clock ≤ o.1 + 2000000000).foldl (fun m o => max m o.2) 0

/-- 0x4010 to 0x4054 (spec/02 Table ST-6, spec/05, spec/08). -/
def steepValue (s : State) (i p : Nat) : List Byte :=
  let t := s.steep
  match i, p with
  | 0x4010, 1 => leBytes 2 t.len
  | 0x4010, _ => wordBytes t.k
  | 0x4011, _ => leBytes 1 t.stretch
  | 0x4020, 0 => wordBytes (BitVec.ofInt 64 t.offset)
  | 0x4020, _ => leBytes 8 (largestOffset s)
  | 0x4021, 0 => leBytes 1 (engineCode t.engine)
  | 0x4021, 1 => wordBytes t.faultRec
  | 0x4021, _ => leBytes 8 t.exits
  | 0x4040, 0 => leBytes 8 t.overruns
  | 0x4040, _ => leBytes 8 t.badStamps
  | 0x4050, 0 => wordBytes s.prog.lastFault
  | 0x4050, 1 => leBytes 8 s.prog.faults
  | 0x4050, _ => leBytes 8 s.prog.dropped
  | 0x4052, p => leBytes 4 (partOf s p).repeats
  | 0x4054, _ => leBytes 8 s.red.windowsRefused
  | _, _ => leBytes 2 0

/-- The blamed LDN of an attempt, which the primary master alone holds (spec/09 R285). -/
def blamedOf (s : State) (a : Nat) : Nat :=
  if isPrimary s then (s.steep.master.blamed.getD a none).getD 0xFFFF else 0xFFFF

/-- 0x5011 to 0x5030 (spec/04, spec/09). -/
def reduceValue (s : State) (i p : Nat) : List Byte :=
  let r := s.red
  match i, p with
  | 0x5020, 0 => leBytes 8 r.dropped
  | 0x5020, 1 => leBytes 8 r.droppedStale
  | 0x5020, 3 => leBytes 8 r.failed
  | 0x5020, 4 => leBytes 8 r.dualFails
  | 0x5020, 5 => leBytes 8 r.unchecked
  | 0x5020, 6 => leBytes 8 r.void
  | 0x5020, 7 => leBytes 8 s.ad.outstanding.length
  | 0x5020, 8 => leBytes 8 r.restored
  | 0x5020, 9 => leBytes 8 r.committed
  | 0x5020, _ => leBytes 8 r.aborted
  | 0x5021, p => leBytes 2 (blamedOf s p)
  | 0x5030, _ => leBytes 8 r.checked
  | _, p => if p < 7 then leBytes 8 (sget 0 p s.obs.events).toNat
      else if p = 15 then leBytes 1 0
      else wordBytes (sget 0 (p - 31) s.obs.latches)

/-- 0x6000 to 0x6300 (spec/16 Table PC-12), the trace ring apart. -/
def observeValue (s : State) (i p : Nat) : List Byte :=
  match i, p with
  | 0x6000, _ => leBytes 2 177
  | 0x6200, 0 => leBytes 4 s.obs.taken
  | 0x6200, _ => wordBytes s.obs.latest
  | 0x6210, j => snapshotBytes s j
  | 0x6220, j => histValue s 0 j j
  | 0x6221, j => histValue s 1 j (16 + j)
  | 0x6222, j => histValue s 2 j (64 + j)
  | 0x6300, 2 => leBytes 8 s.obs.written
  | 0x6300, _ => leBytes 8 s.obs.lost
  | i, p => if 0x6100 ≤ i && i ≤ 0x61B0 then counterValue s (i - 0x6100) (p + 1) else leBytes 1 0

/-- The code of a discovery state at 0x7000:03. -/
def discoveryCode : DiscoveryState → Nat
  | .off => 0 | .links => 1 | .flood => 2 | .routes => 3 | .complete => 4 | .alone => 5

/-- 0x7000 to 0x7041 (spec/12, spec/17 Table SR-9). -/
def fabricValue (s : State) (i p : Nat) : List Byte :=
  let f := s.fab
  match i, p with
  | 0x7000, 0 => wordBytes f.sna
  | 0x7000, 1 => leBytes 2 (ownLdnD s)
  | 0x7000, 2 => leBytes 1 (discoveryCode f.discovery)
  | 0x7000, 3 => leBytes 1 f.maxHops
  | 0x7000, _ => leBytes 2 f.records.length
  | 0x7001, r => leBytes 1 (f.masterHops.getD r 0)
  | 0x7010, j => leBytes 1 (portCode (portOf s j).state)
  | 0x7011, j => wordBytes (portOf s j).partner
  | 0x7020, 0 => leBytes 8 f.replayed
  | 0x7020, 1 => leBytes 8 f.discarded
  | 0x7020, 2 => leBytes 8 f.unknown
  | 0x7020, 3 => leBytes 8 f.unreachable
  | 0x7020, 4 => leBytes 8 f.fencedDrops
  | 0x7020, _ => leBytes 8 f.authFails
  | 0x7030, 0 => wordBytes s.steep.master.takeoverState
  | 0x7030, _ => wordBytes s.steep.master.takeoverRec
  | 0x7031, 1 => leBytes 1 ((f.restore.map fun r => r.2).getD 0) ++ leBytes 7 f.restoredBytes
  | 0x7031, _ => leBytes 8 f.missingSlots
  | 0x7040, j => wordBytes (portOf s j).cmisId
  | 0x7041, j => wordBytes (portOf s j).cmisMon
  | _, _ => leBytes 1 0

/-- The LOST logical pseudo-channels of a stack. -/
def lostPcs (s : State) (st : Nat) : List Nat := (List.range 30).filter fun l => isLost s st l

/-- User capacity of a stack in MiB: the user regions of its logical pseudo-channels that are not LOST (spec/10 R311). -/
def stackCapacity (s : State) (st : Nat) : Nat :=
  (((List.range 30).filter fun l => !isLost s st l).map fun l => systemStart l / 2 ^ 20).foldl (· + ·) 0

/-- 0x8100 to 0x8200 (spec/10, spec/01). -/
def hbmValue (s : State) (i p : Nat) : List Byte :=
  let k := stackOf s p
  match i, p with
  | 0x8100, 0 => leBytes 4 (((List.range 12).map (stackCapacity s)).foldl (· + ·) 0)
  | 0x8100, 1 => leBytes 4 (1769472 - 4608 * ((List.range 12).map fun st => (lostPcs s st).length).foldl (· + ·) 0)
  | 0x8100, p => leBytes 4 (stackCapacity s (p - 16))
  | 0x8101, _ => leBytes 1 ((List.range 32).countP fun pc => pcStateOf k pc = .spare)
  | 0x8102, _ => (List.range 30).map fun l => BitVec.ofNat 8 (physPc k l)
  | 0x8103, p => leBytes 4 ((List.range 30).foldl (fun a l => if isLost s p l then a + 2 ^ l else a) 0)
  | 0x8110, _ => wordBytes k.identity
  | 0x8140, _ => wordBytes (BitVec.ofInt 16 k.temp)
  | 0x8141, _ => wordBytes (BitVec.ofInt 16 k.tempMax)
  | 0x8142, _ => leBytes 1 (thermalCode k.thermal)
  | 0x8150, 0 => leBytes 8 s.hbm.cured
  | 0x8150, 1 => leBytes 8 s.hbm.errors
  | 0x8150, 2 => leBytes 8 s.hbm.restored
  | 0x8150, 3 => leBytes 8 s.hbm.softRepairs
  | 0x8150, 4 => leBytes 8 s.hbm.hardRepairs
  | 0x8150, 5 => leBytes 8 s.hbm.retired
  | 0x8150, 6 => leBytes 8 s.hbm.unverifiable
  | 0x8150, _ => wordBytes s.hbm.lastRas
  | 0x8160, _ => leBytes 4 (s.hbm.log.countP fun e => e.2.2.2.2 = 2)
  | 0x8200, 0 => leBytes 4 s.power.avg1
  | 0x8200, 1 => leBytes 4 s.power.avg10
  | _, p => leBytes 4 (s.power.groups.getD (p - 15) 0)

/-- 0x8300 to 0x8340 (spec/11). -/
def leafValue (s : State) (i p : Nat) : List Byte :=
  let l := s.leaf
  match i, p with
  | 0x8300, 0 => wordBytes l.lastStatus ++ leBytes 1 (halfState s l.lastHalf) ++ leBytes 62 0
  | 0x8300, 2 => leBytes 4 l.segments
  | 0x8310, 1 => wordBytes l.activeGen
  | 0x8310, 2 => wordBytes l.retainedGen
  | 0x8310, 16 => wordBytes l.rec0
  | 0x8310, 17 => wordBytes l.rec1
  | 0x8320, 0 => wordBytes l.trial.state
  | 0x8320, 1 => wordBytes l.trial.gen
  | 0x8320, 2 => leBytes 1 l.trial.owner.toNat
  | 0x8340, 0 => leBytes 8 l.uncorrectable
  | 0x8340, 1 => wordBytes l.lastDamaged
  | _, _ => leBytes 1 0

/-- RWS entries whose shadow value differs from the active one (0xA000:05). -/
def stagedCount (s : State) : Nat :=
  let ks := ((s.dict.active ++ s.dict.shadow).map fun e => e.1).eraseDups
  ks.countP fun k => match rowOf (k / 256) (k % 256) with
    | some r => r.access = .rws && cfg s (k / 256) (k % 256) ≠ cfgShadow s (k / 256) (k % 256)
    | none => false

/-- 0xA000 to 0xF020 (spec/15 Tables OD-8 and OD-14, spec/17 Table SR-9). -/
def managementValue (s : State) (i p : Nat) : List Byte :=
  let d := s.dict
  let b := s.boot
  match i, p with
  | 0xA000, 0 => wordBytes d.report
  | 0xA000, 1 => wordBytes d.commitStatus
  | 0xA000, 2 => leBytes 1 0
  | 0xA000, 3 => leBytes 4 ((lockHolder s).getD 0).toNat
  | 0xA000, 4 => leBytes 4 (stagedCount s)
  | 0xA000, _ => leBytes 4 d.generation
  | 0xA010, 2 => leBytes 4 0
  | 0xA010, _ => leBytes 1 0
  | 0xF010, 0 => leBytes 8 d.accepted
  | 0xF010, 1 => leBytes 8 d.tagDrops
  | 0xF010, 2 => leBytes 8 d.seqDrops
  | 0xF010, 3 => leBytes 8 d.fullDrops
  | 0xF010, 4 => leBytes 8 d.notForwarded
  | 0xF010, 5 => leBytes 1 (d.sessions.countP fun x => x.state = .opened)
  | 0xF010, _ => leBytes 8 d.failedExchanges
  | _, 0 => leBytes 1 b.stage ++ wordBytes b.status
  | _, 1 => wordBytes b.lastFault
  | _, 2 => leBytes 1 b.faultLog.length
  | _, 3 => wordBytes b.faultRead
  | _, _ => leBytes 4 b.timeToReady

/-- An entry whose value stands in the active and shadow maps. -/
def isStored (r : EntryRow) (i : Nat) : Bool :=
  r.access = .rws || (r.access = .rw && (i = 0x2020 || i = 0x6300))

/-- The value that a read of an entry returns, all its bytes (spec/15 R424); the trace ring apart. -/
def entryValue (s : State) (r : EntryRow) (i sub : Nat) (shadow : Bool) : List Byte :=
  let p := sub - 1
  if sub = 0 then leBytes 1 (highestSub i)
  else if isStored r i then leBytes r.size (if shadow && r.access = .rws then cfgShadow s i sub else cfg s i sub)
  else if r.access = .wo then leBytes r.size 0
  else if i < 0x2400 then identityValue s i p
  else if i < 0x3000 then servingValue s i p
  else if i < 0x4000 then partitionValue s i p
  else if i < 0x5000 then steepValue s i p
  else if i < 0x6000 then reduceValue s i p
  else if i < 0x7000 then observeValue s i p
  else if i < 0x8000 then fabricValue s i p
  else if i < 0x8300 then hbmValue s i p
  else if i < 0x9000 then leafValue s i p
  else if i < 0xA000 then custodyValue s i p
  else managementValue s i p

/-- `n` bytes of an entry's value from an offset, fewer at its end (spec/15 R427). -/
def entryRead (s : State) (r : EntryRow) (i sub : Nat) (shadow : Bool) (off n : Nat) : List Byte :=
  if i = 0x6300 && sub = 5 then memRead s.mem (ringBase + off) (min n (67108864 - off))
  else ((entryValue s r i sub shadow).drop off).take n

/-- The size of an entry's value. -/
def entrySize (s : State) (r : EntryRow) (i sub : Nat) : Nat :=
  if i = 0x9100 then (custodyValue s i (sub - 1)).length else r.size

end Sys2Proof.Machine
end

