-- ==== Sys2Proof/Machine/Access.lean ====
section
/-! DEFINITION. READ, WRITE and DESCRIBE frames (spec/15 R427 to R434), the check of a written value, and plain register
writes (spec/00 R9, spec/14 R396). -/

namespace Sys2Proof.Machine

open Host (Outcome)

/-! ### Records (spec/15 R427) -/

/-- A record of a READ, WRITE or DESCRIBE body; a request of READ or DESCRIBE carries no value. -/
structure DapRecord where
  idx : Nat
  sub : Nat
  flags : Nat
  off : Nat
  len : Nat
  /-- a flag or a byte of the header that a request leaves zero is not zero -/
  reserved : Bool
  value : List Byte
  deriving DecidableEq, Repr

/-- A byte list padded with zeros to a multiple of 4. -/
def padded (v : List Byte) : List Byte := v ++ leBytes ((4 - v.length % 4) % 4) 0

/-- Parse `n` records, which must fill the body: none where a record is malformed. -/
def parseRecords (withValue : Bool) : Nat → List Byte → Option (List DapRecord)
  | 0, bs => if bs.isEmpty then some [] else none
  | n + 1, bs =>
    let len := bytesAt bs 8 2
    let have_ := if withValue then len else 0
    let size := 12 + (have_ + 3) / 4 * 4
    let v := (bs.drop 12).take have_
    if bs.length < size || (bs.drop 12).take (size - 12) ≠ padded v then none
    else (parseRecords withValue n (bs.drop size)).map fun rs =>
      { idx := bytesAt bs 0 2, sub := bytesAt bs 2 1, flags := bytesAt bs 3 1 % 4, off := bytesAt bs 4 4, len := len,
        reserved := bytesAt bs 10 2 ≠ 0 || 4 ≤ bytesAt bs 3 1, value := v } :: rs

/-- A record of a response. -/
def recordBytes (r : DapRecord) (i sub status type : Nat) (v : List Byte) : List Byte :=
  leBytes 2 i ++ leBytes 1 sub ++ leBytes 1 r.flags ++ leBytes 4 r.off ++ leBytes 2 v.length ++ leBytes 1 status ++
    leBytes 1 type ++ padded v

/-- The records of a request, none where the frame or a record is malformed. -/
def recordsOf (withValue : Bool) (f : Frame) : Option (List DapRecord) :=
  if frameForm f.bytes then parseRecords withValue (dapCount (dapHeader f.bytes)) (dapBody f.bytes) else none

/-- A malformed frame. -/
def malformed (f : Frame) (x : Session) (s : State) : State :=
  answer f x (formFault f.bytes).1 (formFault f.bytes).2 0 [] s

/-! ### READ (spec/15 R424, R427) -/

/-- One record of a READ: status, DETAIL and the response record, its value cut to `room` bytes. A request length of 0 at
offset 0 asks for the whole value. -/
def readOne (s : State) (room : Nat) (r : DapRecord) : Nat × Nat × List Byte :=
  match entryAt r.idx r.sub with
  | none => (stConfigRejected, 1, recordBytes r r.idx r.sub stConfigRejected 0 [])
  | some e =>
    if r.reserved then (stConfigRejected, 4, recordBytes r r.idx r.sub stConfigRejected e.type [])
    else
    let want := if r.len = 0 && r.off = 0 then room else r.len
    let v := entryRead s e r.idx r.sub (r.flags % 2 = 1) r.off (min want room)
    (stOk, 0, recordBytes r r.idx r.sub stOk e.type v)

/-- The records of a READ in order: first failure and body. A response body holds at most 4,096 bytes. -/
def readAll (s : State) : List DapRecord → Nat → (Nat × Nat) × List Byte
  | [], _ => ((stOk, 0), [])
  | r :: rs, used =>
    let room := (4096 - used - 12 * (rs.length + 1)) / 4 * 4
    let a := readOne s room r
    let b := readAll s rs (used + a.2.2.length)
    (if a.1 = stOk then b.1 else (a.1, a.2.1), a.2.2 ++ b.2)

/-- READ (spec/15 R427). -/
def execRead (s : State) : Outcome State Fault Refusal :=
  match nextFrame 0x10 s with
  | none => done s
  | some (f, s) =>
    match takeFrame f s with
    | (.dropped, s) => done s
    | (.accepted x, s) =>
      match recordsOf false f with
      | none => done (malformed f x s)
      | some rs =>
        let a := readAll s rs 0
        done (answer f x a.1.1 a.1.2 rs.length a.2 s)

/-! ### DESCRIBE (spec/15 Table OD-3) -/

/-- The least and the largest value of an entry of types 0x01 to 0x09; of FP32 the finite ones. -/
def entryBounds (e : EntryRow) : Nat × Nat :=
  if e.type ≤ 8 then ((BitVec.ofInt 64 e.lo).toNat, (BitVec.ofInt 64 e.hi).toNat)
  else if e.type = 9 then (0xFF7FFFFF, 0x7F7FFFFF)
  else (0, 0)

/-- The value that DESCRIBE returns for an entry. -/
def describeBits (s : State) (e : EntryRow) (i sub : Nat) : BitVec 256 :=
  let b := entryBounds e
  let small := decide (e.size ≤ 8)
  packR 256 [(64, b.2), (64, b.1), (64, if small then e.dflt else 0), (32, entrySize s e i sub), (8, e.unit),
    (8, accessCode e.access), (8, e.type), (5, 0), (1, e.persist.toNat), (1, (!small).toNat), (1, 1)]

/-- One record of a DESCRIBE: an entry that does not exist has EXISTS 0. -/
def describeOne (s : State) (r : DapRecord) : List Byte :=
  let k := if 2 ≤ r.flags then nextEntry r.idx r.sub else some (r.idx, r.sub)
  if r.reserved then recordBytes r r.idx r.sub stConfigRejected 11 (leBytes 32 0)
  else match k with
  | none => recordBytes r r.idx r.sub stOk 11 (leBytes 32 0)
  | some (i, sub) =>
    match entryAt i sub with
    | none => recordBytes r i sub stOk 11 (leBytes 32 0)
    | some e => recordBytes r i sub stOk 11 (wordBytes (describeBits s e i sub))

/-- DESCRIBE (spec/15 R427, R428). -/
def execDescribe (s : State) : Outcome State Fault Refusal :=
  match nextFrame 0x12 s with
  | none => done s
  | some (f, s) =>
    match takeFrame f s with
    | (.dropped, s) => done s
    | (.accepted x, s) =>
      match recordsOf false f with
      | none => done (malformed f x s)
      | some rs =>
        let bad := rs.any fun r => r.reserved
        done (answer f x (if bad then stConfigRejected else stOk) (if bad then 4 else 0) rs.length
          (rs.flatMap (describeOne s)) s)

/-! ### The check of a value (spec/15 R423, Table OD-5) -/

/-- An SNA of spec/12 R346: site 0 to 8 and zeros in [4:0]. -/
def isSna (v : Nat) : Bool := v % 32 = 0 && v / 32 % 16 ≤ 8

/-- The ranges of entries that a bound and a mask do not give. -/
def extraOk (s : State) (i sub v : Nat) : Bool :=
  if i = 0x2020 then bits v 128 8 ≤ 128
  else if i = 0x2503 || (0x3040 ≤ i && i ≤ 0x304F && i / 4 % 2 = 0) then v % 4096 = 0
  else if 0x3040 ≤ i && i ≤ 0x304F then v = 0 || (64 ≤ v && v % 64 = 0)
  else if i = 0x3011 then v = 0 || (1 ≤ bits v 16 14 && bits v 16 14 ≤ 8192)
  else if i = 0x3012 then bits v 16 14 ≤ 8192
  else if 0x3020 ≤ i && i ≤ 0x302F then bits v 0 16 = 0 && bits v 64 16 = 0
  else if i = 0x4013 then v ≤ 1023 || v = 0xFFFF
  else if i = 0x2502 then bits v 0 3 ≤ 5
  else if 0x6100 ≤ i && i ≤ 0x61B0 && sub ≤ 8 then eventDefined (i - 0x6100) v
  else if i = 0x6300 && sub = 6 then v % 4096 = 0
  else if 0x7100 ≤ i && i ≤ 0x7107 then v = 0xFFFF || isSna v
  else if i = 0x9111 then v < s.cust.log.length
  else if i = 0x9500 then v = 0x5EA10001 || v = 0x5EA10002
  else true

/-- A value within the bounds of types 0x01 to 0x08. -/
def inBounds (e : EntryRow) (v : Nat) : Bool :=
  8 < e.type || (let x : Int := if 5 ≤ e.type then sgn (8 * e.size) v else v; decide (e.lo ≤ x) && decide (x ≤ e.hi))

/-- A write to an entry: the DETAIL of the first of the codes 0x01 to 0x04 that applies, 0 for none. -/
def valueDetail (s : State) (i sub : Nat) (bs : List Byte) : Nat :=
  match entryAt i sub with
  | none => 1
  | some e =>
    let v := leNat bs
    let sized := bs.length = e.size || (i = 0x9200 && bs.length = 64)
    if e.access = .ro then 2
    else if !sized || !inBounds e v then 3
    else if (e.mask.getD v) &&& v ≠ v then 4
    else if !extraOk s i sub v then 3
    else 0

/-- The access code of an entry that exists. -/
def accessAt (i sub : Nat) : Option Access := (entryAt i sub).map fun e => e.access

/-- The entry takes part in staging: RWS entries and the commands of Table OD-8. -/
def staged (i sub : Nat) : Bool := accessAt i sub = some .rws || (i = 0xA000 && sub ≤ 4)

/-- The check of one record of a WRITE: status and DETAIL. -/
def checkRecord (s : State) (x : Session) (r : DapRecord) : Nat × Nat :=
  let v := valueDetail s r.idx r.sub r.value
  let d := if r.reserved && v = 0 then 4 else v
  if d ≠ 0 then (stConfigRejected, d)
  else if staged r.idx r.sub && lockedOut s x.id then (stNotPermitted, 6)
  else if s.dict.commit.isSome && (accessAt r.idx r.sub = some .rws || (r.idx = 0xA000 && r.sub ≤ 2)) then
    (stConfigRejected, 5)
  else (stOk, 0)

/-! ### The effect of a record -/

/-- Store a value by its access code: the shadow value of an RWS entry, an RW value at once, and the bits that a W1C write
clears. -/
def storeValue (i sub v : Nat) (s : State) : State :=
  match accessAt i sub with
  | some .rws => updDict (fun d => { d with shadow := putEntry i sub v d.shadow }) s
  | some .w1c => updBlock (i - 0x6100) (fun b => { b with ovf := b.ovf &&& ~~~(BitVec.ofNat 8 v) }) s
  | some .rw =>
    if i = 0x9700 then updDict (fun d => { d with keys := sput 0 (sub - 1) (BitVec.ofNat 264 v) d.keys }) s
    else if 0x6100 ≤ i && i ≤ 0x61B0 then writeSelect (i - 0x6100) (sub - 1) (BitVec.ofNat 10 v) s
    else
      let s := setCfg i sub v s
      if i = 0x6300 && sub = 2 then { s with obs := { s.obs with ringCount := 0 } } else s
  | _ => s

/-- The next state of an outcome. -/
def nextOf (s : State) (o : Outcome State Fault Refusal) : State :=
  match o with
  | .next t => t
  | _ => s

/-- A command is refused with CONFIG_REJECTED and a DETAIL that the spec does not state (a free value, log entry 6). -/
def refuseCmd (s : State) : (Nat × Nat) × State :=
  let v := fresh 8 s
  ((stConfigRejected, v.1.toNat), v.2)

/-- A command that is accepted. -/
def accepted (s : State) : (Nat × Nat) × State := ((stOk, 0), s)

/-- A command that happens where its condition holds, and is refused elsewhere. -/
def acceptIf (c : Bool) (s : State) (f : State → State) : (Nat × Nat) × State := if c then accepted (f s) else refuseCmd s

/-- A write of `v` to 0x9500:01. -/
def sealWrite (path v : Nat) (s : State) : (Nat × Nat) × State :=
  if s.steep.engine == .locked || s.cust.state != .ready then refuseCmd s
  else if v = 0x5EA10001 then accepted (nextOf s (execSealBreakArm s))
  else match s.cust.armed with
    | some t => acceptIf (s.clock ≤ t + 2000000000) s fun s => nextOf s (execSealBreak (BitVec.ofNat 8 path) s)
    | none => refuseCmd s

/-- The record of a CMD entry acts: status, DETAIL and the state. -/
def runCmd (f : Frame) (x : Session) (r : DapRecord) (s : State) : (Nat × Nat) × State :=
  let v := leNat r.value
  let p := r.sub - 1
  match r.idx, r.sub with
  | 0x3003, _ => accepted (requestReset p s)
  | 0x3060, _ =>
    let w := BitVec.ofNat 512 v
    acceptIf (w = 0 || logParamsOk s w) s fun s => nextOf s (execLogControl (BitVec.ofNat 6 p) w s)
  | 0x3062, _ => accepted (nextOf s (execLogSwap (BitVec.ofNat 6 p) s))
  | 0x4030, _ => acceptIf (isPrimary s) s fun s => nextOf s (execSnapshotRequest (BitVec.ofNat 16 v) s)
  | 0x5011, _ => accepted (clearEvents s)
  | 0x6223, _ => accepted (clearHists s)
  | 0x7015, _ => accepted (resetPort v s)
  | 0x8300, 1 =>
    match beginInstall (BitVec.ofNat 512 v) s with
    | some s => accepted s
    | none => refuseCmd s
  | 0x8300, _ => accepted (abortInstall s)
  | 0x9111, _ => accepted (nextOf s (execEventLogRead (BitVec.ofNat 32 v) s))
  | 0x9200, _ =>
    let slot := if r.value.length = 64 then 0xFFFF else BitVec.ofNat 16 (v / 2 ^ 512)
    acceptIf (custodyServes s) s fun s => nextOf s (execAttestationRequest (BitVec.ofNat 512 v) slot s)
  | 0x9500, _ => sealWrite f.path v s
  | 0xA000, 1 => accepted (startCheck s)
  | 0xA000, 2 => commit f.stamp (BitVec.ofNat 64 v) s
  | 0xA000, 3 => accepted (discard s)
  | 0xA000, 4 => accepted (nextOf s (execStagingLock x.id (v = 1) s))
  | 0xA010, 1 => accepted (moduleReset s)
  | 0xA010, 2 => accepted (maintenanceReset s)
  | 0xA010, _ =>
    acceptIf (isPrimary s && (snaOfLdn s (bits v 0 10)).isSome) s fun s => nextOf s (execPlannedReturn (BitVec.ofNat 32 v) s)
  | 0xF020, _ => accepted (readFaultLog v s)
  | i, _ => accepted (if 0x6100 ≤ i && i ≤ 0x61B0 then writeClear (i - 0x6100) s else s)

/-- A record names a CMD entry. -/
def isCmd (r : DapRecord) : Bool := accessAt r.idx r.sub = some .cmd

/-! ### WRITE (spec/15 R428, R430, R432, R434) -/

/-- The bytes that a SIGNED frame's signature covers: header and body, with ENTRY, STATUS and DETAIL taken as zero. -/
def signedBytes (bs : List Byte) : List Byte :=
  let h := dapHeader bs
  dapHeaderBytes (setFld (setFld (setFld h 160 16 0) 216 8 0) 208 8 0) ++ dapBody bs

/-- The frame is signed by the key that opened the session. -/
def signatureGood (x : Session) (bs : List Byte) : Bool :=
  dapSigned (dapHeader bs) && Config.mlDsaVerify x.publicKey "AQ1224-DAP" (signedBytes bs)
    ((bs.drop (32 + dapBlen (dapHeader bs))).take 3309)

/-- The session may write these records: a signed frame of a write-allowed key, or a guest's write of the key list while no
entry of it is valid. -/
def mayWrite (s : State) (f : Frame) (x : Session) (rs : List DapRecord) : Bool :=
  (x.keyed && x.writeAllowed && signatureGood x f.bytes) ||
  (!x.keyed && !(managerKeys s).any keyValid && rs.all fun r => r.idx = 0x9700)

/-- The key list after the records of a frame. -/
def keysAfter (s : State) (rs : List DapRecord) : List (BitVec 264) :=
  managerKeys (rs.foldl (fun s r => if r.idx = 0x9700 then storeValue r.idx r.sub (leNat r.value) s else s) s)

/-- The list keeps a valid write-allowed entry, or is cleared whole (spec/15 R434). -/
def keysOk (s : State) (rs : List DapRecord) : Bool :=
  !(rs.any fun r => r.idx = 0x9700) || (keysAfter s rs).any keyWrites || (keysAfter s rs).all fun e => !keyValid e

/-- Answer a WRITE: each record with its own status. -/
def answerWrite (f : Frame) (x : Session) (status detail : Nat) (rs : List (DapRecord × Nat)) (s : State) : State :=
  answer f x status detail rs.length
    (rs.flatMap fun r => recordBytes r.1 r.1.idx r.1.sub r.2 (((entryAt r.1.idx r.1.sub).map fun e => e.type).getD 0) []) s

/-- Records that passed the check, applied in order; a CMD record is the last one. A command that is refused leaves nothing
applied, but a COMMIT's check report stands. A module reset acts after the answer. -/
def applyWrite (f : Frame) (x : Session) (rs : List DapRecord) (s : State) : State :=
  let ok := rs.map fun r => (r, stOk)
  let t := (rs.filter fun r => !isCmd r).foldl (fun s r => storeValue r.idx r.sub (leNat r.value) s) s
  match rs.getLast? with
  | none => answerWrite f x stOk 0 [] t
  | some r =>
    if !isCmd r then answerWrite f x stOk 0 ok t
    else if r.idx = 0xA010 && r.sub ≤ 2 then (runCmd f x r (answerWrite f x stOk 0 ok t)).2
    else
      let a := runCmd f x r t
      if a.1.1 = stOk then answerWrite f x stOk 0 ok a.2
      else
        let s := updDict (fun d => { d with report := a.2.dict.report, checking := a.2.dict.checking }) { s with free := a.2.free }
        answerWrite f x a.1.1 a.1.2 (rs.map fun q => (q, if q = r then a.1.1 else stOk)) s

/-- A WRITE's records, checked whole before any takes effect. -/
def writeRecords (f : Frame) (x : Session) (rs : List DapRecord) (s : State) : State :=
  if !mayWrite s f x rs then answerWrite f x stNotPermitted 7 (rs.map fun r => (r, stNotPermitted)) s
  else if (rs.dropLast.any isCmd) || rs.any (fun r => r.off ≠ 0) then malformed f x s
  else
    let cs := rs.map fun r => (r, checkRecord s x r)
    match cs.find? fun c => c.2.1 ≠ stOk with
    | some c => answerWrite f x c.2.1 c.2.2 (cs.map fun c => (c.1, c.2.1)) s
    | none =>
      if !keysOk s rs then
        answerWrite f x stConfigRejected 3 (rs.map fun r => (r, if r.idx = 0x9700 then stConfigRejected else stOk)) s
      else applyWrite f x rs s

/-- WRITE (spec/15 R430). -/
def execWrite (s : State) : Outcome State Fault Refusal :=
  match nextFrame 0x11 s with
  | none => done s
  | some (f, s) =>
    match takeFrame f s with
    | (.dropped, s) => done s
    | (.accepted x, s) =>
      match recordsOf true f with
      | none => done (malformed f x s)
      | some rs => done (writeRecords f x rs s)

/-! ### Plain register writes (spec/00 R9, spec/14 R396, Tables HQ-2 and HQ-3, spec/15 Table OD-7) -/

/-- One byte of a function's control page: ASQ, ACQ, ASIZE and AVEC alone are stored. -/
def ctrlByte (o : Nat) (v : Byte) (q : Partition) : Partition :=
  if 0x008 ≤ o && o < 0x010 then { q with asq := setFld q.asq (8 * (o - 0x008)) 8 v.toNat }
  else if 0x010 ≤ o && o < 0x018 then { q with acq := setFld q.acq (8 * (o - 0x010)) 8 v.toNat }
  else if 0x018 ≤ o && o < 0x01C then { q with asize := setFld q.asize (8 * (o - 0x018)) 8 v.toNat }
  else if 0x024 ≤ o && o < 0x028 then { q with avec := setFld q.avec (8 * (o - 0x024)) 8 v.toNat &&& 0x1FF }
  else q

/-- One byte of the MSI-X table. -/
def msixByte (o : Nat) (v : Byte) (q : Partition) : Partition :=
  { q with msix := supd 0 (o / 16) (fun e => setFld e (8 * (o % 16)) 8 v.toNat) q.msix }

/-- A vector of the MSI-X table that is no longer masked sends its pending message. -/
def msixPend (p n : Nat) (s : State) : State :=
  let q := partOf s p
  if bit q.msixPending n && !bit (sget 0 n q.msix) 96 then
    sendMsix p (BitVec.ofNat 8 n) (updPart p (fun q => { q with msixPending := setBit q.msixPending n false }) s)
  else s

/-- One byte written to BAR0 of function `p`. A reserved or read-only offset drops it. -/
def barByte (p o : Nat) (v : Byte) (s : State) : State :=
  if 0x10000 ≤ o && o < 0x11000 then updPart p (ctrlByte (o - 0x10000) v) s
  else if 0x20000 ≤ o && o < 0x21000 then updPart p (msixByte (o - 0x20000) v) s
  else if p = 0 && 0x100008 ≤ o && o < 0x10000C then
    updDict (fun d => { d with mvec := setFld d.mvec (8 * (o - 0x100008)) 8 v.toNat &&& 0x1FF }) s
  else if p = 0 && 0x101000 ≤ o && o < 0x102040 then
    updDict (fun d => { d with req := sput 0 (o - 0x101000) v d.req }) s
  else s

/-- An aligned access of 4 or 8 bytes to BAR0. -/
def barWrite (p o : Nat) (bs : List Byte) (s : State) : State :=
  if (bs.length = 4 || bs.length = 8) && o % bs.length = 0 then
    let s := (indexed bs).foldl (fun s e => barByte p (o + e.1) e.2 s) s
    if 0x20000 ≤ o && o < 0x21000 then msixPend p ((o - 0x20000) / 16) s else s
  else s

/-- A written entry with no behaviour of its own: RWS entries while no COMMIT is pending, W1C entries, and the RW entries but
for the counter selects and the key list, which have rows of their own. -/
def entryWrite (i sub : Nat) (bs : List Byte) (s : State) : State :=
  let plain := match accessAt i sub with
    | some .rws => s.dict.commit.isNone
    | some .w1c => true
    | some .rw => i = 0x2020 || i = 0x6300
    | _ => false
  if plain && valueDetail s i sub bs = 0 then storeValue i sub (leNat bs) s else s

/-- REGISTER_WRITE (spec/00 R9): `target` names an entry by index [23:8] and subindex [7:0], or with bit 31 an offset [20:0] in
BAR0 of function [29:24]. -/
def execRegisterWrite (target : BitVec 32) (value : List Byte) (s : State) : Outcome State Fault Refusal :=
  let t := target.toNat
  done (if bit target 31 then
      let p := bits t 24 6
      if (partOf s p).state = .absent then s else barWrite p (bits t 0 21) value s
    else entryWrite (bits t 8 16) (bits t 0 8) value s)

end Sys2Proof.Machine
end

