-- ==== Sys2Proof/Machine/Bar0.lean ====
section
/-! DEFINITION. Reads of BAR0 (spec/14 R396, Tables HQ-2 and HQ-3; spec/15 Table OD-7; spec/16 R461, Table PC-9), and the
transaction layer packets that ask for them (spec/14 R394). What a doorbell or a write-only field reads as, and that an
access that is not aligned gets no answer, is the model's (log entry 77). -/

namespace Sys2Proof.Machine

open Host (Outcome)

/-! ### The counter window (spec/16 Table PC-9) -/

/-- The `i`-th lowest-numbered core that a partition holds. -/
def heldCore (s : State) (p i : Nat) : Option Nat := ((List.range 128).filter fun g => holdsCore s p g)[i]?

/-- A core slot: core number, CYC, counters and selects, 128 bytes. -/
def coreSlot (g : Nat) (cyc : BitVec 64) (k : CounterBlock) : List Byte :=
  leBytes 8 (g + 128) ++ leBytes 8 cyc.toNat ++
  (List.range 8).flatMap (fun i => leBytes 8 (sget 0 i k.ctr).toNat) ++
  (List.range 8).flatMap (fun i => leBytes 2 (sget 0 i k.sel).toNat) ++ leBytes 32 0

/-- The latest COMPLETE snapshot, with its slot. -/
def latestSnapshot (s : State) : Option (Nat × Snapshot) :=
  let j := s.obs.latest.toNat
  if (sget {} j s.obs.slots).state = 2 then some (j, sget {} j s.obs.slots) else none

/-- The 128 bytes of the window that hold offset `o`. -/
def windowPart (s : State) (p o : Nat) : List Byte :=
  let zero := leBytes 128 0
  if o < 0x4000 then
    (match heldCore s p (o / 128) with
    | some g => coreSlot g (cycleCount s) (sget {} g s.obs.blocks)
    | none => zero)
  else if o / 128 = 0x80 then (List.range 16).flatMap fun i => leBytes 8 ((sget [] (64 + p) s.obs.hists).getD i 0).toNat
  else match latestSnapshot s with
    | none => zero
    | some (j, x) =>
      if o / 128 = 0x81 then leBytes 4 x.id.toNat ++ leBytes 4 j ++ leBytes 8 x.steep.toNat ++ leBytes 112 0
      else if 0x8000 ≤ o && o < 0xC000 then
        (match heldCore s p ((o - 0x8000) / 128) with
        | some g => coreSlot g x.cyc (sget {} g x.blocks)
        | none => zero)
      else zero

/-- The counter window of a partition reads zero without counter access. -/
def counterWindow (s : State) (p o n : Nat) : List Byte :=
  if cfg s 0x3015 (p + 1) = 1 then ((windowPart s p o).drop (o % 128)).take n else leBytes n 0

/-! ### The other ranges -/

/-- The doorbells of a queue: the submission tail and the completion head as last written, zero outside the function's
range. -/
def doorbell (s : State) (p q : Nat) : List Byte :=
  let r := queueRange s p
  if r.1 ≤ q && q < r.1 + r.2 then leBytes 4 (queueOf s q).tail ++ leBytes 4 (queueOf s q).cqHead else leBytes 8 0

/-- STATUS of a function's control page. -/
def ctrlStatus (s : State) (p : Nat) : Nat :=
  let q := partOf s p
  let r := queueRange s p
  let failed := (List.range r.2).any fun i => (queueOf s (r.1 + i)).state = .error
  q.ready.toNat + 2 * (decide (q.state = .resetting)).toNat + 4 * failed.toNat + 8 * (q.overBits ≠ 0 : Bool).toNat +
    16 * s.boot.shutdown.toNat

/-- The function control page (Table HQ-3). -/
def ctrlPage (s : State) (p : Nat) : List Byte :=
  let q := partOf s p
  leBytes 8 (p + 65536 * q.gen.toNat) ++ wordBytes q.asq ++ wordBytes q.acq ++ wordBytes q.asize ++
    leBytes 4 q.enable.toNat ++ leBytes 4 (ctrlStatus s p) ++ wordBytes q.avec ++ wordBytes s.steep.k ++ wordBytes q.qerr

/-- MSTAT of the PF mailbox. -/
def mailboxStatus (s : State) : Nat :=
  s.dict.busy.toNat + 2 * s.dict.response.toNat + 4 * s.dict.lenError.toNat + 65536 * s.dict.respLen.toNat

/-- `n` bytes at offset `o` of BAR0 of function `p`, `o` a multiple of `n`: a reserved offset reads zero. -/
def barRead (s : State) (p o n : Nat) : List Byte :=
  let cut (bs : List Byte) (base : Nat) : List Byte := ((bs ++ leBytes n 0).drop (o - base)).take n
  if o < 0x10000 then cut (doorbell s p (o / 8)) (o / 8 * 8)
  else if o < 0x10038 then cut (ctrlPage s p) 0x10000
  else if 0x20000 ≤ o && o < 0x21000 then cut (wordBytes (sget 0 ((o - 0x20000) / 16) (partOf s p).msix)) (o / 16 * 16)
  else if 0x21000 ≤ o && o < 0x21020 then cut (wordBytes (partOf s p).msixPending) 0x21000
  else if 0x40000 ≤ o && o < 0x50000 then counterWindow s p (o - 0x40000) n
  else if p ≠ 0 then leBytes n 0
  else if o / 16 = 0x10000 then cut (leBytes 4 0 ++ leBytes 4 (mailboxStatus s) ++ wordBytes s.dict.mvec) 0x100000
  else if 0x101000 ≤ o && o < 0x102040 then (List.range n).map fun i => sget 0 (o - 0x101000 + i) s.dict.req
  else if 0x103000 ≤ o && o < 0x104040 then cut s.dict.rsp 0x103000
  else leBytes n 0

/-- TLP_RECEIVE (spec/14 R394, R396, Table HQ-5): a function whose partition is ABSENT answers nothing; a TDI in RUN takes only
TLPs of its stream with the T bit. A packet that is taken and is an aligned read of 4 or 8 bytes of BAR0 is answered. -/
def execTlpReceive (fn : BitVec 6) (ideStream : Bool) (tlp : Tlp) (s : State) : Outcome State Fault Refusal :=
  let q := partOf s fn.toNat
  onlyIf (decide (q.state ≠ .absent)) s fun s =>
    if q.tdi = .run && !(ideStream && q.ide.isSome && tlp.tBit) then
      count 0xB0 0x048 1 (updFront (fun f => { f with tlpDropped := f.tlpDropped + 1 }) s)
    else
      let s := count 0xB0 0x040 1 s
      match tlp.read with
      | none => s
      | some (o, n) =>
        if (n = 4 || n = 8) && o.toNat % n = 0 then
          emit (.readCompletion fn o (barRead s fn.toNat o.toNat n)) (count 0xB0 0x041 1 s)
        else s

end Sys2Proof.Machine
end

