-- ==== Sys2Proof/Machine/Power.lean ====
section
/-! DEFINITION. Input power (spec/01 R27, R28): the averages, the stretch condition, the halved issue rate of the matrix
cores, and the orderly stop. -/

namespace Sys2Proof.Machine

open Host (Outcome)

/-! ### The issue rate (spec/01 R27) -/

/-- A clock that lies ahead, once the rate at which rows and chunks are issued halves (or is whole again) at `now`. -/
def repaced (halved : Bool) (now c : Nat) : Nat :=
  if c ≤ now then c else if halved then now + 2 * (c - now) else now + (c - now + 1) / 2

/-- The same for a clock that comes `n` cycles after an issue. -/
def repacedAfter (halved : Bool) (now n c : Nat) : Nat := if c ≤ now + n then c else repaced halved now (c - n) + n

/-- A running op: the array, the rank lane and the vector unit issue at the new rate; loads and transfers keep theirs. -/
def repacedOp (halved : Bool) (now : Nat) (r : RunOp) : RunOp :=
  match opUnit (oOp r.word) with
  | 0 => if oOp r.word = 0x11 then { r with endAt := repaced halved now r.endAt } else r
  | 1 => { r with endAt := repaced halved now r.endAt }
  | 3 => { r with endAt := repacedAfter halved now (vecRate r.word).2 r.endAt }
  | _ => r

/-- A bank whose rows still come: a row is final 200 cycles after it enters (spec/03 R63). -/
def repacedBank (halved : Bool) (now : Nat) (b : Bank) : Bank :=
  { b with chain := b.chain.map fun c => { c with finals := c.finals.map (repacedAfter halved now 200) } }

/-- A core whose issue rate changes at `now`. -/
def repacedCore (halved : Bool) (now : Nat) (k : Core) : Core :=
  let at_ := repaced halved now
  let bank := repacedBank halved now
  { k with
    arrayFree := at_ k.arrayFree, rankFree := at_ k.rankFree, vecFree := at_ k.vecFree, shadowFree := at_ k.shadowFree,
    running := k.running.map (repacedOp halved now), acc0 := bank k.acc0, acc1 := bank k.acc1,
    rank0 := bank k.rank0, rank1 := bank k.rank1,
    rankRun := k.rankRun.map fun r => { r with rowFrom := at_ r.rowFrom },
    pour := k.pour.map fun p => { p with rowFrom := at_ p.rowFrom, endAt := repacedAfter halved now 16 p.endAt } }

/-- The issue rate of all matrix cores halves, or is whole again, at once. -/
def halveCores (halved : Bool) (s : State) : State :=
  { s with prog := { s.prog with cores := smap {} (fun _ k => repacedCore halved s.clock k) s.prog.cores } }

/-! ### The measurement (spec/01 R27, R28) -/

/-- The average of the newest `n` samples of 10 µs in whole watts, of those present where there are fewer (DESIGN CHOICE,
log entry 56). -/
def averageOf (n : Nat) (l : List Nat) : Nat :=
  let m := l.take n
  if m.isEmpty then 0 else m.foldl (· + ·) 0 / m.length

/-- The average of the newest `n` samples is above `w`, or below it, exactly. -/
def averageAbove (w n : Nat) (l : List Nat) : Bool := w * (l.take n).length < (l.take n).foldl (· + ·) 0
def averageBelow (w n : Nat) (l : List Nat) : Bool := (l.take n).foldl (· + ·) 0 < w * (l.take n).length

/-- POWER_SAMPLE (spec/01 R27, R28; spec/02 R44): the input power of 10 µs. The 1 ms average above 2,600 W halves the
issue rate at once until the 1 ms average falls below 2,400 W; above 2,600 W for 10 ms it is an environment violation. A
10 ms average above 2,400 W is a stretch condition. -/
def execPowerSample (watts : Nat) (groups : List Nat) (s : State) : Outcome State Fault Refusal :=
  let p := s.power
  let l := (watts :: p.samples).take 1000
  let a1 := averageOf 100 l
  let a10 := averageOf 1000 l
  let high := averageAbove 2600 100 l
  let above := if high then p.above + 1 else 0
  let halved := high || (p.halved && !averageBelow 2400 100 l)
  let newGroups := 99 ≤ p.sinceGroups
  let s := { (if halved = p.halved then s else halveCores halved s) with
    power := { samples := l, avg1 := a1, avg10 := a10, groups := if newGroups then groups else p.groups,
               halved := halved, above := above, sinceGroups := if newGroups then 0 else p.sinceGroups + 1 },
    steep := { s.steep with condPower := s.steep.condPower || averageAbove 2400 1000 l } }
  if 1000 ≤ above then done (orderlyStop 2 2 0xFF a1 s) else done s

end Sys2Proof.Machine
end

