-- ==== Sys2Proof/Machine/Dispatch.lean ====
section
/-! DEFINITION. Which meaning each command has: one arm per constructor of `Instr`. -/

namespace Sys2Proof.Machine

/-- The effect of one command on everything but the queue. -/
def exec (i : Instr) (s : State) : Host.Outcome State Fault Refusal :=
  match i with
  | .steepBoundary => Sys2Proof.Machine.execSteepBoundary s
  | .guardStart => Sys2Proof.Machine.execGuardStart s
  | .wavePoint => Sys2Proof.Machine.execWavePoint s
  | .contribution pkt => Sys2Proof.Machine.execContribution pkt s
  | .gatherDeadline => Sys2Proof.Machine.execGatherDeadline s
  | .backupWaveFlood => Sys2Proof.Machine.execBackupWaveFlood s
  | .wave port pkt => Sys2Proof.Machine.execWave port pkt s
  | .waveDeadline => Sys2Proof.Machine.execWaveDeadline s
  | .timeSync => Sys2Proof.Machine.execTimeSync s
  | .timeSyncReceive port roundTrip asymmetry partner => Sys2Proof.Machine.execTimeSyncReceive port roundTrip asymmetry partner s
  | .listenNoWaveRecord => Sys2Proof.Machine.execListenNoWaveRecord s
  | .listenTimeout => Sys2Proof.Machine.execListenTimeout s
  | .founding => Sys2Proof.Machine.execFounding s
  | .snapshotRequest id => Sys2Proof.Machine.execSnapshotRequest id s
  | .tableDigest sna digest primaryTable => Sys2Proof.Machine.execTableDigest sna digest primaryTable s
  | .powerSample watts groups => Sys2Proof.Machine.execPowerSample watts groups s
  | .programFetch core => Sys2Proof.Machine.execProgramFetch core s
  | .programFetchDone core env => Sys2Proof.Machine.execProgramFetchDone core env s
  | .opDispatch core stream => Sys2Proof.Machine.execOpDispatch core stream s
  | .mmaLoad core stream => Sys2Proof.Machine.execMmaLoad core stream s
  | .mmaRun core stream => Sys2Proof.Machine.execMmaRun core stream s
  | .rankRun core stream => Sys2Proof.Machine.execRankRun core stream s
  | .epiSet0 core stream => Sys2Proof.Machine.execEpiSet0 core stream s
  | .epiSet1 core stream => Sys2Proof.Machine.execEpiSet1 core stream s
  | .epiSet2 core stream => Sys2Proof.Machine.execEpiSet2 core stream s
  | .pour core stream => Sys2Proof.Machine.execPour core stream s
  | .pourRecompute core => Sys2Proof.Machine.execPourRecompute core s
  | .pourComplete core => Sys2Proof.Machine.execPourComplete core s
  | .vecEw core stream => Sys2Proof.Machine.execVecEw core stream s
  | .vecCvt core stream => Sys2Proof.Machine.execVecCvt core stream s
  | .vecRow core stream => Sys2Proof.Machine.execVecRow core stream s
  | .redAdd core stream => Sys2Proof.Machine.execRedAdd core stream s
  | .redMax core stream => Sys2Proof.Machine.execRedMax core stream s
  | .redUpd core stream => Sys2Proof.Machine.execRedUpd core stream s
  | .redZero core stream => Sys2Proof.Machine.execRedZero core stream s
  | .dma core stream env => Sys2Proof.Machine.execDma core stream env s
  | .fabPut core stream env => Sys2Proof.Machine.execFabPut core stream env s
  | .fabGet core stream => Sys2Proof.Machine.execFabGet core stream s
  | .fabColl core stream => Sys2Proof.Machine.execFabColl core stream s
  | .syncWait core stream => Sys2Proof.Machine.execSyncWait core stream s
  | .syncSend core stream => Sys2Proof.Machine.execSyncSend core stream s
  | .syncTime core stream => Sys2Proof.Machine.execSyncTime core stream s
  | .mark core stream => Sys2Proof.Machine.execMark core stream s
  | .halt core stream => Sys2Proof.Machine.execHalt core stream s
  | .opComplete core op => Sys2Proof.Machine.execOpComplete core op s
  | .token core ctr amount steep part remote => Sys2Proof.Machine.execToken core ctr amount steep part remote s
  | .gather core env => Sys2Proof.Machine.execGather core env s
  | .mask core => Sys2Proof.Machine.execMask core s
  | .append core => Sys2Proof.Machine.execAppend core s
  | .block core => Sys2Proof.Machine.execBlock core s
  | .trans core => Sys2Proof.Machine.execTrans core s
  | .admissionSort => Sys2Proof.Machine.execAdmissionSort s
  | .caddyPrefetchList => Sys2Proof.Machine.execCaddyPrefetchList s
  | .caddyFill die didx addr env => Sys2Proof.Machine.execCaddyFill die didx addr env s
  | .inputCopy queue tag host => Sys2Proof.Machine.execInputCopy queue tag host s
  | .kvCopyOnWrite part seq => Sys2Proof.Machine.execKvCopyOnWrite part seq s
  | .tablePublish => Sys2Proof.Machine.execTablePublish s
  | .infuserPrefill core => Sys2Proof.Machine.execInfuserPrefill core s
  | .infuserSlice core slot ringB env => Sys2Proof.Machine.execInfuserSlice core slot ringB env s
  | .outputCopy queue tag => Sys2Proof.Machine.execOutputCopy queue tag s
  | .completionWrite ring => Sys2Proof.Machine.execCompletionWrite ring s
  | .doorbell fn queue head value => Sys2Proof.Machine.execDoorbell fn queue head value s
  | .commandFetch answer => Sys2Proof.Machine.execCommandFetch answer s
  | .submit => Sys2Proof.Machine.execSubmit s
  | .queueCreate => Sys2Proof.Machine.execQueueCreate s
  | .queueDelete => Sys2Proof.Machine.execQueueDelete s
  | .bind => Sys2Proof.Machine.execBind s
  | .bindEffect core => Sys2Proof.Machine.execBindEffect core s
  | .adapterCreate host => Sys2Proof.Machine.execAdapterCreate host s
  | .adapterRead => Sys2Proof.Machine.execAdapterRead s
  | .adapterState => Sys2Proof.Machine.execAdapterState s
  | .adapterStateEffect didx => Sys2Proof.Machine.execAdapterStateEffect didx s
  | .adapterDestroy => Sys2Proof.Machine.execAdapterDestroy s
  | .adapterDestroyFree didx => Sys2Proof.Machine.execAdapterDestroyFree didx s
  | .adapterClaim => Sys2Proof.Machine.execAdapterClaim s
  | .slotClaimPacket stamp sna seq adid layer slot keySlot kgen share => Sys2Proof.Machine.execSlotClaimPacket stamp sna seq adid layer slot keySlot kgen share s
  | .adapterRelease => Sys2Proof.Machine.execAdapterRelease s
  | .kvOpen host => Sys2Proof.Machine.execKvOpen host s
  | .kvFork => Sys2Proof.Machine.execKvFork s
  | .kvClose => Sys2Proof.Machine.execKvClose s
  | .kvCloseFree part seq => Sys2Proof.Machine.execKvCloseFree part seq s
  | .kvRead => Sys2Proof.Machine.execKvRead s
  | .keyImport host => Sys2Proof.Machine.execKeyImport host s
  | .keyImportEffect slot => Sys2Proof.Machine.execKeyImportEffect slot s
  | .keyRemove => Sys2Proof.Machine.execKeyRemove s
  | .keyRemoveEffect slot => Sys2Proof.Machine.execKeyRemoveEffect slot s
  | .keySweep => Sys2Proof.Machine.execKeySweep s
  | .sweepBlock slot => Sys2Proof.Machine.execSweepBlock slot s
  | .rotationCutover slot => Sys2Proof.Machine.execRotationCutover slot s
  | .scrubBlock slot => Sys2Proof.Machine.execScrubBlock slot s
  | .scrubComplete slot => Sys2Proof.Machine.execScrubComplete slot s
  | .trialLoad host => Sys2Proof.Machine.execTrialLoad host s
  | .trialLoadDone host => Sys2Proof.Machine.execTrialLoadDone host s
  | .trialRelease => Sys2Proof.Machine.execTrialRelease s
  | .trialReleaseEffect => Sys2Proof.Machine.execTrialReleaseEffect s
  | .functionEnable fn => Sys2Proof.Machine.execFunctionEnable fn s
  | .functionDisable fn => Sys2Proof.Machine.execFunctionDisable fn s
  | .ctrlReset fn => Sys2Proof.Machine.execCtrlReset fn s
  | .partitionResetCmd part => Sys2Proof.Machine.execPartitionResetCmd part s
  | .flr fn => Sys2Proof.Machine.execFlr fn s
  | .vfEnableClear => Sys2Proof.Machine.execVfEnableClear s
  | .partitionResetEffect part => Sys2Proof.Machine.execPartitionResetEffect part s
  | .logControl part value => Sys2Proof.Machine.execLogControl part value s
  | .logSwap part => Sys2Proof.Machine.execLogSwap part s
  | .logBoundary => Sys2Proof.Machine.execLogBoundary s
  | .lockInterface fn => Sys2Proof.Machine.execLockInterface fn s
  | .stopInterface fn => Sys2Proof.Machine.execStopInterface fn s
  | .interfaceReport fn => Sys2Proof.Machine.execInterfaceReport fn s
  | .doeCustodyExchange fn message => Sys2Proof.Machine.execDoeCustodyExchange fn message s
  | .tlpReceive fn ideStream tlp => Sys2Proof.Machine.execTlpReceive fn ideStream tlp s
  | .rollCall ldn asteep records => Sys2Proof.Machine.execRollCall ldn asteep records s
  | .contributionUnit net payload => Sys2Proof.Machine.execContributionUnit net payload s
  | .acknowledgement core op units => Sys2Proof.Machine.execAcknowledgement core op units s
  | .shardCutoff shard => Sys2Proof.Machine.execShardCutoff shard s
  | .stragglerNotice asteep owner missing => Sys2Proof.Machine.execStragglerNotice asteep owner missing s
  | .shardUpdate shard env => Sys2Proof.Machine.execShardUpdate shard env s
  | .keeperCopy shard slot gen ep nonce ciphertext tag => Sys2Proof.Machine.execKeeperCopy shard slot gen ep nonce ciphertext tag s
  | .keeperAck shard => Sys2Proof.Machine.execKeeperAck shard s
  | .commitApply => Sys2Proof.Machine.execCommitApply s
  | .abortApply => Sys2Proof.Machine.execAbortApply s
  | .pushUnit adid stepc offset slot gen ep nonce ciphertext tag => Sys2Proof.Machine.execPushUnit adid stepc offset slot gen ep nonce ciphertext tag s
  | .restoreRequest ldn adid offsets => Sys2Proof.Machine.execRestoreRequest ldn adid offsets s
  | .patrolRead addr env => Sys2Proof.Machine.execPatrolRead addr env s
  | .temperatureRead stack reading => Sys2Proof.Machine.execTemperatureRead stack reading s
  | .rowRepair stack pc bank row => Sys2Proof.Machine.execRowRepair stack pc bank row s
  | .pcFill stack => Sys2Proof.Machine.execPcFill stack s
  | .fillComplete stack => Sys2Proof.Machine.execFillComplete stack s
  | .fillFailure stack => Sys2Proof.Machine.execFillFailure stack s
  | .logicalPcLost stack => Sys2Proof.Machine.execLogicalPcLost stack s
  | .installBegin params => Sys2Proof.Machine.execInstallBegin params s
  | .installAbort => Sys2Proof.Machine.execInstallAbort s
  | .manifest from_ => Sys2Proof.Machine.execManifest from_ s
  | .segmentData index from_ => Sys2Proof.Machine.execSegmentData index from_ s
  | .segmentProgrammed index readback => Sys2Proof.Machine.execSegmentProgrammed index readback s
  | .installCredit => Sys2Proof.Machine.execInstallCredit s
  | .installTimeout => Sys2Proof.Machine.execInstallTimeout s
  | .breakNotice status => Sys2Proof.Machine.execBreakNotice status s
  | .leafPatrol half index data => Sys2Proof.Machine.execLeafPatrol half index data s
  | .halfRelease => Sys2Proof.Machine.execHalfRelease s
  | .downExit port signal => Sys2Proof.Machine.execDownExit port signal s
  | .fecLock port goodErrorRatio => Sys2Proof.Machine.execFecLock port goodErrorRatio s
  | .trainingTimeout port => Sys2Proof.Machine.execTrainingTimeout port s
  | .linkSessionExchange port partnerSna certs nonce closing => Sys2Proof.Machine.execLinkSessionExchange port partnerSna certs nonce closing s
  | .keyingTimeout port failed => Sys2Proof.Machine.execKeyingTimeout port failed s
  | .hello port sna partnerPort digest => Sys2Proof.Machine.execHello port sna partnerPort digest s
  | .helloResend port => Sys2Proof.Machine.execHelloResend port s
  | .linkDegrade port lockLost uncorrectable replays => Sys2Proof.Machine.execLinkDegrade port lockLost uncorrectable replays s
  | .portReset port => Sys2Proof.Machine.execPortReset port s
  | .linkFrame port header net payload tag fecClean => Sys2Proof.Machine.execLinkFrame port header net payload tag fecClean s
  | .replayTimeout port => Sys2Proof.Machine.execReplayTimeout port s
  | .rekey port receive key => Sys2Proof.Machine.execRekey port receive key s
  | .creditFrame port => Sys2Proof.Machine.execCreditFrame port s
  | .packetRoute port own => Sys2Proof.Machine.execPacketRoute port own s
  | .fabWriteArrival net addr unit gcm crc core ctr amount put => Sys2Proof.Machine.execFabWriteArrival net addr unit gcm crc core ctr amount put s
  | .fabReadRequest net addr len gcm slot gen replyCore replyOp offset => Sys2Proof.Machine.execFabReadRequest net addr len gcm slot gen replyCore replyOp offset s
  | .readData net core op offset unit => Sys2Proof.Machine.execReadData net core op offset unit s
  | .collectiveData net core op rank offset unit => Sys2Proof.Machine.execCollectiveData net core op rank offset unit s
  | .discoveryStart => Sys2Proof.Machine.execDiscoveryStart s
  | .linksDone => Sys2Proof.Machine.execLinksDone s
  | .linksTimeout => Sys2Proof.Machine.execLinksTimeout s
  | .linkStateRecord sna ports gen digest0 digest1 identity => Sys2Proof.Machine.execLinkStateRecord sna ports gen digest0 digest1 identity s
  | .floodQuiet => Sys2Proof.Machine.execFloodQuiet s
  | .routeCompute => Sys2Proof.Machine.execRouteCompute s
  | .linkStateRefresh => Sys2Proof.Machine.execLinkStateRefresh s
  | .takeoverOrder ldn failed chosen steep => Sys2Proof.Machine.execTakeoverOrder ldn failed chosen steep s
  | .restoreData step kind key data last => Sys2Proof.Machine.execRestoreData step kind key data last s
  | .standInReady sna gen digest0 digest1 => Sys2Proof.Machine.execStandInReady sna gen digest0 digest1 s
  | .readyTimeout => Sys2Proof.Machine.execReadyTimeout s
  | .takeoverEffect moves commitSteep => Sys2Proof.Machine.execTakeoverEffect moves commitSteep s
  | .takeoverBoundary => Sys2Proof.Machine.execTakeoverBoundary s
  | .plannedReturn value => Sys2Proof.Machine.execPlannedReturn value s
  | .cmisPoll port monitors alarms => Sys2Proof.Machine.execCmisPoll port monitors alarms s
  | .cmisInterrupt alarms => Sys2Proof.Machine.execCmisInterrupt alarms s
  | .housekeepingRail => Sys2Proof.Machine.execHousekeepingRail s
  | .measureComplete passed boot identityRecord romRecord => Sys2Proof.Machine.execMeasureComplete passed boot identityRecord romRecord s
  | .custodyFault cause => Sys2Proof.Machine.execCustodyFault cause s
  | .custodyRequestTimeout => Sys2Proof.Machine.execCustodyRequestTimeout s
  | .attestationRequest nonce slot => Sys2Proof.Machine.execAttestationRequest nonce slot s
  | .eventLogRead index => Sys2Proof.Machine.execEventLogRead index s
  | .sealBreakArm => Sys2Proof.Machine.execSealBreakArm s
  | .sealBreak path => Sys2Proof.Machine.execSealBreak path s
  | .mgmtDatagram source port udpPort checksumGood fragment ipBytes frame => Sys2Proof.Machine.execMgmtDatagram source port udpPort checksumGood fragment ipBytes frame s
  | .neighborSolicitation source target => Sys2Proof.Machine.execNeighborSolicitation source target s
  | .echoRequest source target data => Sys2Proof.Machine.execEchoRequest source target data s
  | .mailboxGo length => Sys2Proof.Machine.execMailboxGo length s
  | .xchg => Sys2Proof.Machine.execXchg s
  | .close => Sys2Proof.Machine.execClose s
  | .read => Sys2Proof.Machine.execRead s
  | .write => Sys2Proof.Machine.execWrite s
  | .describe => Sys2Proof.Machine.execDescribe s
  | .sessionIdleTimeout session => Sys2Proof.Machine.execSessionIdleTimeout session s
  | .exchangeTimeout session => Sys2Proof.Machine.execExchangeTimeout session s
  | .registerWrite target value => Sys2Proof.Machine.execRegisterWrite target value s
  | .managerKeyListWrite session sub value => Sys2Proof.Machine.execManagerKeyListWrite session sub value s
  | .check session => Sys2Proof.Machine.execCheck session s
  | .checkDone => Sys2Proof.Machine.execCheckDone s
  | .commit session steep => Sys2Proof.Machine.execCommit session steep s
  | .commitSwap => Sys2Proof.Machine.execCommitSwap s
  | .discard session => Sys2Proof.Machine.execDiscard session s
  | .stagingLock session take => Sys2Proof.Machine.execStagingLock session take s
  | .stagingLockTimeout => Sys2Proof.Machine.execStagingLockTimeout s
  | .counterSelect block counter event => Sys2Proof.Machine.execCounterSelect block counter event s
  | .counterClear block => Sys2Proof.Machine.execCounterClear block s
  | .counterBoundary => Sys2Proof.Machine.execCounterBoundary s
  | .histogramClear => Sys2Proof.Machine.execHistogramClear s
  | .eventCountClear => Sys2Proof.Machine.execEventCountClear s
  | .snapshotFreeze => Sys2Proof.Machine.execSnapshotFreeze s
  | .snapshotGatherDone => Sys2Proof.Machine.execSnapshotGatherDone s
  | .traceWrite => Sys2Proof.Machine.execTraceWrite s
  | .mainInputGood => Sys2Proof.Machine.execMainInputGood s
  | .stageAdvance ident => Sys2Proof.Machine.execStageAdvance ident s
  | .stageTimeout cause => Sys2Proof.Machine.execStageTimeout cause s
  | .moduleReset => Sys2Proof.Machine.execModuleReset s
  | .maintenanceReset => Sys2Proof.Machine.execMaintenanceReset s
  | .resetPin => Sys2Proof.Machine.execResetPin s
  | .perst => Sys2Proof.Machine.execPerst s
  | .environmentViolation cause reading => Sys2Proof.Machine.execEnvironmentViolation cause reading s
  | .faultLogRead index => Sys2Proof.Machine.execFaultLogRead index s
  | .housekeepingRailLoss => Sys2Proof.Machine.execHousekeepingRailLoss s
  | .resetPinRelease => Sys2Proof.Machine.execResetPinRelease s
  | .vfEnableSet => Sys2Proof.Machine.execVfEnableSet s
  | .startInterface fn => Sys2Proof.Machine.execStartInterface fn s
  | .vfBarOrMemorySpaceChange fn => Sys2Proof.Machine.execVfBarOrMemorySpaceChange fn s
  | .managementLinkChange link => Sys2Proof.Machine.execManagementLinkChange link s
  | .pcieLinkChange rate width => Sys2Proof.Machine.execPcieLinkChange rate width s
  | .forwardedResponse frame => Sys2Proof.Machine.execForwardedResponse frame s
  | .standInRestoreRequest sna ask key => Sys2Proof.Machine.execStandInRestoreRequest sna ask key s

end Sys2Proof.Machine
end

