-- ==== Sys2Proof/Safety.lean ====
section
/-! DEFINITION. What a safe state is, in the terms the statements use. -/

namespace Sys2Proof.Machine

/-- The invariant of every reachable state: package memory and the collections of cores, partitions, queues, key slots,
ports, adapter descriptors and their pending moves, and stacks are in their canonical form, so that equal contents are equal data. -/
def State.inv (s : State) : Bool :=
  memWf s.mem && sparseWf {} s.prog.cores && sparseWf {} s.front.parts && sparseWf {} s.front.queues &&
    sparseWf {} s.cust.slots && sparseWf {} s.fab.ports && sparseWf 0 s.ad.descs && sparseWf none s.ad.pending &&
    sparseWf {} s.hbm.stk

/-- The time that a module reads after it has waited for `t`: `t`, or the present time where that is later. -/
def waited (s : State) (t : BitVec 64) : BitVec 64 := if ahead t s.time = 0 then s.time else t

/-- What no command but a reset touches while the engine moves: package memory, stacks, keys, Dictionary and start-up. -/
def Quiet (s t : State) : Prop :=
  t.pending = s.pending ∧ t.mem = s.mem ∧ t.hbm = s.hbm ∧ t.cust = s.cust ∧ t.dict = s.dict ∧ t.boot = s.boot ∧
    t.power = s.power

/-- An op has started on core `g`: it is among the running ops, to end at a clock and to await a number of answers. -/
def Running (t : State) (g : Nat) (q : QOp) (endAt awaiting : Nat) : Prop :=
  ∃ r ∈ (coreOf t g).running, r.word = q.word ∧ r.index = q.index ∧ r.stream = q.stream ∧ r.endAt = endAt ∧
    r.awaiting = awaiting

/-- What the start of an op on core `g` leaves unchanged: every other core, and everything but memory, the cores, the
observation unit and the originator sequence numbers. -/
def CoreFrame (s t : State) (g : Nat) : Prop :=
  t = { s with mem := t.mem, obs := t.obs, prog := { s.prog with cores := t.prog.cores },
               steep := { s.steep with oseq := t.steep.oseq } } ∧
    ∀ i, i ≠ g → coreOf t i = coreOf s i

/-- Every byte outside the tile memory of core `g` reads as before. -/
def OnlyTile (s t : State) (g : Nat) : Prop :=
  ∀ a, a < tileBase g ∨ tileBase g + 0x400000 ≤ a → memByte t.mem a = memByte s.mem a

/-- Queue command `id` has completed: it was accepted and is so no longer, and its completion, with its tag and queue,
a status, a detail and an information word, waits to be written. -/
def Completed (s t : State) (id status detail info : Nat) : Prop :=
  cmdOf t id = none ∧ ∃ c r, cmdOf s id = some c ∧ r ∈ t.front.ready ∧ r.cmd = id ∧ r.tag = fld c.word 8 16 ∧
    r.queue = c.queue ∧ r.status = BitVec.ofNat 8 status ∧ r.detail = BitVec.ofNat 8 detail ∧
    r.info = BitVec.ofNat 64 info

/-- Key import `id` is refused with a status and the number of a check of Table CU-10: it is counted, and nothing is pending
that was not. -/
def ImportRefused (s t : State) (id status order : Nat) : Prop :=
  Completed s t id status order 0 ∧ t.cust.imports = s.cust.imports ∧
    t.cust.importsRefused = s.cust.importsRefused + 1

/-- A unit has taken up queue command `id`, which completes later. -/
def TakenUp (s t : State) (id : Nat) : Prop :=
  t.front.ready = s.front.ready ∧
    t.front.cmds = s.front.cmds.map fun c => if c.id = id then { c with taken := true } else c

/-- The front end's accepted commands and completions, and nothing else of the block, may have changed. -/
def OnlyFront (s t : State) : Prop :=
  t = { s with front := { s.front with cmds := t.front.cmds, ready := t.front.ready } }

/-- Spapor port `p` is in a state, and no other port, nor any unit beside the fabric, has changed. -/
def PortMoved (s t : State) (p : Nat) (st : PortState) : Prop :=
  (portOf t p).state = st ∧ (∀ i, i ≠ p → portOf t i = portOf s i) ∧ t.mem = s.mem ∧ t.cust = s.cust ∧
    t.prog = s.prog ∧ t.front = s.front ∧ t.ad = s.ad ∧ t.dict = s.dict ∧ t.boot = s.boot

/-- The clock after the module has waited for the clock value `c`. -/
def clockAfter (s : State) (c : Nat) : Nat := max s.clock c

/-- The oldest frame that waits in the Dictionary unit is `f`, of operation `op`, with `fs` behind it, and the open session
`x` accepts it: `body` is the frame without its tag, the tag is the one that the session's key gives, and SEQ is new. -/
def FrameArrives (s : State) (f : Frame) (fs : List Frame) (op : Nat) (x : Session) (body : List Byte) : Prop :=
  s.dict.frames = f :: fs ∧ dapOp (dapHeader f.bytes) = op ∧
    sessionOf s (dapSession (dapHeader f.bytes)) = some x ∧ serves s x = true ∧
    f.bytes = body ++ dapTagOf x.kmac "AQ1224-DAP-REQ" body ∧ 32 ≤ body.length ∧
    x.seq.toNat < (dapSeq (dapHeader f.bytes)).toNat

/-- The state once session `x` has accepted frame `f`: the frame has left the queue, the session keeps it with its SEQ and
the clock, it is counted, and the staging lock is renewed where the session holds it. -/
def frameTaken (s : State) (f : Frame) (fs : List Frame) (x : Session) : State :=
  { s with dict := { s.dict with
      frames := fs, accepted := s.dict.accepted + 1,
      sessions := s.dict.sessions.map fun y => if y.id = x.id
        then { y with seq := dapSeq (dapHeader f.bytes), lastFrame := f.bytes, lastGood := s.clock } else y,
      lock := if lockHolder s = some x.id then some (x.id, s.clock) else s.dict.lock } }

/-- The state in which the head op `q` of a unit of core `g` has left its queue and taken its credits, at its start. -/
def started (g : Nat) (q : QOp) (s : State) : State := takeOp g q s

/-- The same once the single-bit errors in the ranges that the op reads are corrected (spec/03 R90). -/
def startedReading (g : Nat) (q : QOp) (rs : List MemRange) (s : State) : State := correctReads g rs (takeOp g q s)

end Sys2Proof.Machine
end

