-- ==== Sys2Proof/Certificates/Slice0/Obligations.lean ====
section
/-! DEFINITION. The statements for the provers. -/

open Sys2Proof Sys2Proof.Machine

/-! ### The queue, reset and the invariant (spec/01, spec/10) -/

/-- For every command c and every state s whose queue is c followed by cs, one step of s answers exactly what exec answers for c on s with the queue cs (spec/00_scope.md, spec/INDEX.md). -/
def Obligations.StepRunsFrontCommand : Prop :=
  ∀ (c : Instr) (cs : List Instr) (s : State), s.pending = c :: cs → step s = exec c { s with pending := cs }

/-- With an empty queue a step passes one core cycle of 0.5 ns: the clock advances by 1, the time by 1 and by what slewing gains or loses in that cycle, at most one cycle in 10,000 of those since the last gain and never more than the correction that is left, and by exactly 1 with nothing to slew; memory, cores, keys, ports and interfaces are as before. That a cycle passes on an empty queue is the model's choice (log entry 9) (spec/02_steeps_and_time.md R29, spec/02_steeps_and_time.md R31). -/
def Obligations.IdleStepPassesOneCycle : Prop :=
  ∀ s : State, s.pending = [] → ∃ t, ∃ g : Int, step s = .next t ∧ t.clock = s.clock + 1 ∧
    t.time = s.time + BitVec.ofNat 64 (1 + g).toNat ∧ t.slew.left = s.slew.left - g ∧
    g.natAbs * 10000 ≤ s.slew.phase + 1 ∧ g.natAbs ≤ s.slew.left.natAbs ∧ (s.slew.left = 0 → t.time = s.time + 1) ∧
    t = { s with clock := t.clock, time := t.time, slew := t.slew, obs := t.obs }

/-- At reset package memory (addresses rise strictly and no listed byte is zero) and the collections of cores, partitions, queues, key slots, ports, adapter descriptors, their pending moves and stacks are in their canonical form (spec/10_hbm_memory.md R465, spec/01_architecture.md R16). -/
def Obligations.InvariantAtReset : Prop :=
  State.reset.inv = true

/-- From every state whose package memory and collections of cores, partitions, queues, key slots, ports, adapter descriptors, pending moves and stacks are in their canonical form, whatever its queue, a step that answers a next state leaves all of them in it: no command of the table writes them but through the operations that keep the form (spec/01_architecture.md R16, spec/10_hbm_memory.md R465). -/
def Obligations.InvariantKeptByStep : Prop :=
  ∀ s t : State, s.inv = true → step s = .next t → t.inv = true

/-- For every command of the table and every state, exec answers a next state (the block has no fault and no refusal: a failure of the module is a status, a record or a state), and the queue of waiting commands is as it was (spec/00_scope.md, spec/INDEX.md). -/
def Obligations.CommandsLeaveTheQueue : Prop :=
  ∀ (c : Instr) (s : State), ∃ t, exec c s = .next t ∧ t.pending = s.pending

/-- At reset the steep engine is Off with no exits from Locked, the stretch level is 0, every port is DOWN with partner 0xFFFF, discovery is OFF, the Custody Controller is in POR with every key slot FREE at generation 1, both half records are EMPTY, every queue is DISABLED, every partition is ABSENT, no session is open, the staging lock is free and no command waits. Only values that the spec gives are stated here (spec/02_steeps_and_time.md Table ST-4, spec/12_spapor_fabric.md Table FB-3, spec/13_custody_and_security.md Table CU-2, spec/14_host_partitions_queues.md, spec/11_leaf_base_store.md Table LF-1). -/
def Obligations.ResetValuesOfTheSpec : Prop :=
  State.reset.steep.engine = .off ∧ State.reset.steep.exits = 0 ∧ State.reset.steep.stretch = 0 ∧
  (∀ p, (portOf State.reset p).state = .down ∧ (portOf State.reset p).partner = 0xFFFF) ∧
  State.reset.fab.discovery = .off ∧ State.reset.cust.state = .por ∧
  (∀ n, (slotOf State.reset n).state = .free ∧ (slotOf State.reset n).gen = 1 ∧ (slotOf State.reset n).cur = none) ∧
  fld State.reset.leaf.rec0 189 3 = 0 ∧ fld State.reset.leaf.rec1 189 3 = 0 ∧
  (∀ q, (queueOf State.reset q).state = .disabled) ∧ (∀ p, (partOf State.reset p).state = .absent) ∧
  State.reset.dict.sessions = [] ∧ State.reset.dict.lock = none ∧ State.reset.pending = []

/-! ### Steeps and the wave (spec/02) -/

/-- Where a module holds the wave of its present steep, and is Locked with its wave point and guard come, in Standby, or in Listen with its boundaries known, STEEP_BOUNDARY answers a next state at B(k+1) or later: the steep number is one higher, the new boundary is B(k) + L(k), the length is the agreed L(k+1), the length after it is L(k+2) of the wave, no wave is held, and neither guard nor wave point has come. A commit order of 1 ends the step, one of 2 repeats it with REPEAT one higher (3 at most), and no order goes on to the next SIDX. Memory, stacks, keys, Dictionary, start-up and queue of commands are unchanged. Where the steep cannot end yet, STEEP_BOUNDARY changes nothing (spec/02_steeps_and_time.md R34, spec/02_steeps_and_time.md R47, spec/02_steeps_and_time.md R53). -/
def Obligations.SteepBoundaryBeginsNextSteep : Prop :=
  (∀ (s : State) (w : BitVec 512), s.steep.wave = some w → boundaryReady s = true →
    ∃ t, exec .steepBoundary s = .next t ∧ t.time = waited s (nextB s) ∧
      t.steep.k = s.steep.k + 1 ∧ t.steep.b = s.steep.b + BitVec.ofNat 64 (s.steep.len * 2000) ∧
      t.steep.len = s.steep.lenNext ∧ t.steep.lenNext = (waveFields w).lk2 ∧ t.steep.wave = none ∧
      t.steep.guard = false ∧ t.steep.waved = false ∧ t.steep.decision = (waveFields w).commit ∧
      (s.steep.engine ≠ .listen → t.steep.engine = s.steep.engine) ∧
      ((waveFields w).commit = 1 → t.steep.step = s.steep.step + 1 ∧ t.steep.sidx = 0 ∧ t.steep.rep = 0) ∧
      ((waveFields w).commit = 2 →
        t.steep.step = s.steep.step ∧ t.steep.sidx = 0 ∧ t.steep.rep = min (s.steep.rep + 1) 3) ∧
      ((waveFields w).commit = 0 → s.steep.sidx + 1 ≠ stepLen s →
        t.steep.step = s.steep.step ∧ t.steep.sidx = s.steep.sidx + 1 ∧ t.steep.rep = s.steep.rep) ∧
      Quiet s t) ∧
  (∀ s : State, boundaryReady s = false → exec .steepBoundary s = .next s)

/-- WAVE_POINT, with boundaries known and the wave point not come, waits for W(k) = B(k+1) - 32,000 cycles. The stretch level n rises by 1 with a stretch condition (when n is 0 or the raise interval has passed, up to 255), falls by 1 after the release intervals, and else stays. A Locked module with an LDN sends each other master a contribution that carries min(L_cfg + n x increment, 4,000 us), GOOD and FAIL: outside a commit steep those of the steep so far. GUARD_START waits for B(k+1) - 4,000 cycles. Where every core has ended its program it changes nothing else. Where a core is left with ops that have not started, they are aborted: a training program sets FAIL[401] and lowers GOOD, and the requests of a serving program's row groups end with OVERRUN unless they have a status already (spec/02_steeps_and_time.md R37, spec/02_steeps_and_time.md R39, spec/02_steeps_and_time.md R44, spec/02_steeps_and_time.md R45, spec/02_steeps_and_time.md R51). -/
def Obligations.WavePointContributesAndStretches : Prop :=
  (∀ s : State, boundariesKnown s = true → s.steep.waved = false →
    ∃ t, exec .wavePoint s = .next t ∧ t.steep.waved = true ∧
      ((s.steep.engine = .locked → isCommitSteep s = false) → t.time = waited s (nextB s - 32000) ∧ Quiet s t) ∧
      t.steep.stretch =
        (if (s.steep.condHbm || s.steep.condPower) && s.steep.stretch < 255 &&
            (s.steep.stretch = 0 || cfg s 0x4011 2 ≤ ahead s.steep.k s.steep.lastChange) then s.steep.stretch + 1
         else if 0 < s.steep.stretch &&
            cfg s 0x4011 3 ≤ (if s.steep.condHbm || s.steep.condPower then 0 else s.steep.clearRun + 1) &&
            cfg s 0x4011 3 ≤ ahead s.steep.k s.steep.lastChange then s.steep.stretch - 1
         else s.steep.stretch) ∧
      (s.steep.engine = .locked → ∀ l, ownLdn s = some l → t.steep.fail = 0 ∧ ∃ (good : Bool) (fail : BitVec 6),
        (s.steep.bad = true → good = false) ∧
        (isCommitSteep s = false → good = !s.steep.bad ∧ fail = s.steep.fail) ∧ ∀ m ∈ masterLdns s, m.2 ≠ l →
          Out.packet (.ldn (BitVec.ofNat 10 m.2)) (.contribution (contributionPacket s.steep.k l
            (min (cfg s 0x4010 1 + t.steep.stretch * cfg s 0x4011 1) 4000) good fail
            (stretchWhy s) t.steep.stretch t.time)) ∈ t.out)) ∧
  (∀ s : State, boundariesKnown s = true → s.steep.guard = false →
    (s.steep.engine = .locked → ∀ g < 128, unfinished (coreOf s g) = false ∧ (coreOf s g).running = [] ∧
      (coreOf s g).pour = none ∧ (coreOf s g).rankRun = none) →
    ∃ t, exec .guardStart s = .next t ∧ t.steep.guard = true ∧ t.time = waited s (nextB s - 4000) ∧
      t = { s with clock := t.clock, time := t.time, slew := t.slew, obs := t.obs,
                   steep := { s.steep with guard := true } }) ∧
  (∀ (s : State) (g : Nat), s.steep.engine = .locked → s.steep.guard = false → g < 128 →
    unfinished (coreOf s g) = true → (coreOf s g).aborted = false →
    (∀ i < 128, (coreOf s i).running = [] ∧ (coreOf s i).pour = none ∧ (coreOf s i).rankRun = none ∧
      (i ≠ g → unfinished (coreOf s i) = false)) →
    ∃ t, exec .guardStart s = .next t ∧ t.steep.guard = true ∧ t.time = waited s (nextB s - 4000) ∧ Quiet s t ∧
      (coreOf t g).aborted = true ∧ (coreOf t g).queues = [] ∧ t.steep.overruns = s.steep.overruns + 1 ∧
      (∀ i, i ≠ g → coreOf t i = coreOf s i) ∧
      (isTrain (coreOf s g).binding = true → t.steep.fail = setBit s.steep.fail 5 true ∧ t.steep.bad = true ∧
        t.ad = s.ad) ∧
      (isTrain (coreOf s g).binding = false → t.steep.fail = s.steep.fail ∧ t.steep.bad = s.steep.bad ∧
        ((coreOf s g).faulted = none → ∀ r ∈ s.ad.requests, some r.part.toNat = coreOwner s g →
          r.steep = some s.steep.k → (steepGroups s g).contains r.grp.toNat = true →
          isStepGroup s r.part.toNat r.grp.toNat = false →
          { r with ending := some (r.ending.getD (BitVec.ofNat 8 stOverrun, 0)) } ∈ t.ad.requests)))

/-- At a Locked master, of any rank, that has not reduced, the first CONTRIBUTION of an LDN for the present steep that comes by W(k) + 3.5 us is kept; one of another steep, one that comes later, and one at any other module changes nothing. GATHER_DEADLINE at a Locked master after its wave point waits for W(k) + 3.5 us and holds its own wave: L(k+2) is at least the configured length and every requested one, step-good holds only if no mapped LDN is missing, every contribution is GOOD and the latch was true, and a commit steep orders a commit when it holds and an abort when not. The primary floods that wave at once, a backup sends nothing. BACKUP_WAVE_FLOOD at a Locked backup 1, at W(k) + 7.5 us without a wave of rank 0, and at a Locked backup 2, at W(k) + 11.5 us without one of rank 0 or 1, floods its own wave on every port, and holds it as the steep's wave where it has none. A SNAPSHOT_REQUEST is accepted by the primary alone (spec/02_steeps_and_time.md R38, spec/02_steeps_and_time.md R41, spec/02_steeps_and_time.md R43, spec/02_steeps_and_time.md R47, spec/02_steeps_and_time.md R50). -/
def Obligations.MastersGatherAndReduce : Prop :=
  (∀ (s : State) (pkt : BitVec 512),
    (s.steep.engine = .locked → (ownRank s).isSome = true → fld pkt 504 8 = 0x22 → s.steep.master.reduced = false →
      ahead s.time (gatherTime s) = 0 → fld pkt 432 64 = s.steep.k →
      (∀ q ∈ s.steep.master.contributions, fld q 416 16 ≠ fld pkt 416 16) →
      ∃ t, exec (.contribution pkt) s = .next t ∧
        t.steep.master.contributions = s.steep.master.contributions ++ [pkt] ∧
        t = { s with steep := { s.steep with master := t.steep.master } }) ∧
    (s.steep.engine ≠ .locked ∨ ownRank s = none ∨ fld pkt 504 8 ≠ 0x22 ∨ fld pkt 432 64 ≠ s.steep.k ∨
      ahead s.time (gatherTime s) ≠ 0 ∨ s.steep.master.reduced = true → exec (.contribution pkt) s = .next s)) ∧
  (∀ (s : State) (r : Nat), s.steep.engine = .locked → ownRank s = some r → s.steep.waved = true →
    s.steep.master.reduced = false →
    ∃ t f, exec .gatherDeadline s = .next t ∧ t.steep.master.reduced = true ∧
      t.steep.master.ownWave = some (wavePacket f) ∧ f.rank = r ∧ f.steep = s.steep.k ∧ cfg s 0x4010 1 ≤ f.lk2 ∧
      (∀ p ∈ s.steep.master.contributions, (fld p 403 13).toNat ≤ f.lk2) ∧
      (f.good = true → s.steep.master.latch = true ∧ (∀ p ∈ s.steep.master.contributions, bit p 402 = true) ∧
        ∀ e ∈ mappedLdns s, ∃ p ∈ s.steep.master.contributions, (fld p 416 16).toNat = e.1) ∧
      f.commit = (if isCommitSteep s then (if f.good then 1 else 2) else 0) ∧ Quiet s t ∧
      (r ≠ 0 → t.out = s.out ∧ t.time = waited s (gatherTime s)) ∧
      (r = 0 → s.steep.seen.contains ((waveFields (wavePacket f)).steep,
          BitVec.ofNat 2 (waveFields (wavePacket f)).rank) = false →
        t.out = s.out ++ [.packet (.flood none) (.wave (wavePacket f))])) ∧
  (∀ (s : State) (r : Nat) (p : BitVec 512), s.steep.engine = .locked → ownRank s = some r → r = 1 ∨ r = 2 →
    s.steep.master.ownWave = some p → (waveFields p).rank = r → (waveFields p).steep = s.steep.k →
    s.steep.seen.contains (s.steep.k, 0) = false → s.steep.seen.contains (s.steep.k, BitVec.ofNat 2 r) = false →
    (r = 2 → s.steep.seen.contains (s.steep.k, 1) = false) →
    ∃ t, exec .backupWaveFlood s = .next t ∧ Out.packet (.flood none) (.wave p) ∈ t.out ∧
      t.time = waited s (nextB s - 32000 + (if r = 1 then 15000 else 23000)) ∧ Quiet s t ∧
      (s.steep.wave = none → ahead t.time (waveDeadlineTime s) = 0 → t.steep.wave = some p)) ∧
  (∀ (s : State) (id : BitVec 16),
    (isPrimary s = true → ∃ t, exec (.snapshotRequest id) s = .next t ∧
      t.steep.master.snapReq = some (id, s.clock) ∧ t = { s with steep := { s.steep with master := t.steep.master } }) ∧
    (isPrimary s = false → exec (.snapshotRequest id) s = .next s))

/-- The first copy of a wave of a steep and rank is forwarded on every port but the one it came by; a second copy changes nothing, and in Off and Stopped the first does nothing more. A Locked or Standby module holds the first wave of its present steep that comes by the wave deadline B(k+1) - 1 us; a first wave after it, or before it a wave of another rank that differs in L(k+2), step-good, commit order, repeat count or snapshot order, puts the engine into Listen with the fault reason 1 or 2, and counts an exit from Locked. In Listen with Spapor time the first wave names the steep. WAVE_DEADLINE waits for the deadline: a Locked or Standby module without a wave enters Listen with reason 1, one with a wave stays, and Listen loses its run of waves (spec/02_steeps_and_time.md R40, spec/02_steeps_and_time.md R42, spec/02_steeps_and_time.md R53). -/
def Obligations.WavesAreForwardedOnceAndActedOn : Prop :=
  (∀ (s : State) (port : Option (BitVec 4)) (p : BitVec 512), fld p 504 8 = 0x21 →
    (s.steep.seen.contains ((waveFields p).steep, BitVec.ofNat 2 (waveFields p).rank) = true →
      exec (.wave port p) s = .next s) ∧
    (s.steep.seen.contains ((waveFields p).steep, BitVec.ofNat 2 (waveFields p).rank) = false →
      ∃ t, exec (.wave port p) s = .next t ∧ t.out = s.out ++ [.packet (.flood port) (.wave p)] ∧
        t.steep.seen.contains ((waveFields p).steep, BitVec.ofNat 2 (waveFields p).rank) = true ∧ Quiet s t ∧
        (s.steep.engine = .off ∨ s.steep.engine = .stopped →
          t = { s with out := t.out, steep := { s.steep with seen := t.steep.seen } }) ∧
        (s.steep.engine = .listen → s.timeKnown = true → s.steep.wavesIn = 0 → s.steep.wave = none →
          ahead s.time ((waveFields p).bk2 - BitVec.ofNat 64 (cfg s 0x4010 1 * 2000) - 2000) = 0 →
          t.steep.k = (waveFields p).steep ∧ t.steep.wavesIn = 1 ∧ t.steep.wave = some p ∧
            t.steep.lenNext = (waveFields p).lk2 ∧ t.steep.engine = .listen) ∧
        (s.steep.engine = .locked ∨ s.steep.engine = .standby → (waveFields p).steep = s.steep.k →
          (s.steep.wave = none → ahead s.time (nextB s - 2000) = 0 →
            t.steep.wave = some p ∧ t.steep.engine = s.steep.engine) ∧
          (s.steep.wave = none → ahead s.time (nextB s - 2000) ≠ 0 → t.steep.engine = .listen ∧
            t.steep.exits = s.steep.exits + (if s.steep.engine = .locked then 1 else 0) ∧
            t.steep.faultRec = packR 128 [(64, s.time.toNat), (8, 1)]) ∧
          (∀ q, s.steep.wave = some q → wavesAgree (waveFields q) (waveFields p) = false →
            ahead (nextB s - 2000) s.time ≠ 0 → t.steep.engine = .listen ∧
              t.steep.exits = s.steep.exits + (if s.steep.engine = .locked then 1 else 0) ∧
              t.steep.faultRec = packR 128 [(64, s.time.toNat), (8, 2)])))) ∧
  (∀ s : State, s.steep.engine = .locked ∨ s.steep.engine = .standby →
    (s.steep.wave = none → ∃ t, exec .waveDeadline s = .next t ∧ t.steep.engine = .listen ∧
      t.steep.exits = s.steep.exits + (if s.steep.engine = .locked then 1 else 0) ∧ t.time = waited s (nextB s - 2000) ∧
      t.steep.faultRec = packR 128 [(64, t.time.toNat), (8, 1)] ∧ Quiet s t ∧ t.out = s.out) ∧
    (∀ w, s.steep.wave = some w → ∃ t, exec .waveDeadline s = .next t ∧ t.steep.engine = s.steep.engine ∧
      t.steep.wave = some w ∧ Quiet s t ∧ t.out = s.out)) ∧
  (∀ s : State, s.steep.engine = .listen → s.timeKnown = true → s.steep.wavesIn ≠ 0 → s.steep.wave = none →
    ∃ t, exec .waveDeadline s = .next t ∧ t.steep.engine = .listen ∧ t.steep.wavesIn = 0 ∧ Quiet s t ∧ t.out = s.out)

/-- TIME_SYNC, no earlier than 10 us after the last one, sends a time-sync packet with the module's time on every port in UP and changes nothing else but the count of exchanges. TIME_SYNC_RECEIVE keeps half the round trip less the asymmetry as the port's link delay; off the reference path it changes nothing else. On it, in Locked, in Standby, and in Listen once the time has been set, the time itself stays and the offset from the reference is what is left to slew, at most 1 cycle in 10,000; an offset over 20 ns (40 half-nanoseconds) twice in a row puts a Locked or Standby engine into Listen with reason 3, and otherwise the engine stays. In Listen before the time has been set it is set by a step. That the asymmetry is subtracted, with its sign, is the model's choice (log entry 48) (spec/02_steeps_and_time.md R30, spec/02_steeps_and_time.md R31, spec/02_steeps_and_time.md R33). -/
def Obligations.TimeSyncSlewsAndLeaves : Prop :=
  (∀ s : State, ∃ t, exec .timeSync s = .next t ∧
    t.clock = (match s.steep.syncSent with | some c => clockAfter s (c + 20000) | none => s.clock) ∧
    (∀ p, p < 16 → (sget {} p s.fab.ports).state = .up →
      Out.packet (.port (BitVec.ofNat 4 p)) (.timeSync t.time) ∈ t.out) ∧
    t = { s with clock := t.clock, time := t.time, slew := t.slew, obs := t.obs,
                 steep := { s.steep with syncs := s.steep.syncs + 1, syncSent := some t.clock }, out := t.out }) ∧
  (∀ (s : State) (port : BitVec 4) (trip : Nat) (asym : Int) (a : SyncAnswer),
    sparseWf 0 s.steep.delays = true ∨ ((trip / 2 : Nat) : Int) - asym ≠ 0 →
    ∃ t, exec (.timeSyncReceive port trip asym a) s = .next t ∧
      sget 0 port.toNat t.steep.delays = ((trip / 2 : Nat) : Int) - asym ∧ Quiet s t ∧ t.out = s.out ∧
      (referencePort a.senders s ≠ some port.toNat →
        t = { s with steep := { s.steep with delays := t.steep.delays } }) ∧
      (referencePort a.senders s = some port.toNat →
        (s.steep.engine = .locked ∨ s.steep.engine = .standby ∨ s.steep.engine = .listen ∧ s.steep.stepped = true →
          t.time = s.time ∧ t.clock = s.clock ∧ t.slew.left = t.steep.offset ∧
          t.steep.offset = (a.time + BitVec.ofInt 64 (((trip / 2 : Nat) : Int) - asym) - s.time).toInt ∧
          t.steep.engine = (if 40 < t.steep.offset.natAbs ∧ 1 ≤ s.steep.offRun then .listen else s.steep.engine) ∧
          (s.steep.engine = .locked → t.steep.engine = .listen → t.steep.exits = s.steep.exits + 1)) ∧
        (s.steep.engine = .listen → s.steep.stepped = false → t.timeKnown = true ∧ t.steep.stepped = true ∧
          t.time = a.time + BitVec.ofInt 64 (((trip / 2 : Nat) : Int) - asym) ∧ t.steep.engine = .listen)))

/-- In Listen, 100 ms after the last wave the first LISTEN_NO_WAVE_RECORD writes the fault record with reason 5; LISTEN_TIMEOUT, no earlier than 5 s after the entry, stops the engine with reason 6, and a start-up that has not ended stops with FAULT_L low. FOUNDING at the primary, in Listen with discovery COMPLETE, no wave and no Spapor time, gives the module Spapor time no earlier than 50 ms after the entry, floods the founding wave of steep -2, and ends 24,600 cycles before time 0. TABLE_DIGEST at the primary answers with its own digest; a Locked module whose digest differs from the primary's leaves Locked (spec/02_steeps_and_time.md R53, spec/17_start_reset_recovery.md R467, spec/17_start_reset_recovery.md R468, spec/12_spapor_fabric.md R348). -/
def Obligations.ListenAndFoundingTimers : Prop :=
  (∀ s : State, s.steep.engine = .listen → s.steep.quietRec = false →
    ∃ t, exec .listenNoWaveRecord s = .next t ∧ t.steep.quietRec = true ∧ t.steep.engine = .listen ∧
      s.steep.lastWave + 200000000 ≤ t.clock ∧ t.steep.faultRec = packR 128 [(64, t.time.toNat), (8, 5)] ∧
      Quiet s t ∧ t.out = s.out) ∧
  (∀ s : State, s.steep.engine = .listen →
    ∃ t, exec .listenTimeout s = .next t ∧ t.steep.engine = .stopped ∧ s.steep.listenAt + 10000000000 ≤ t.clock ∧
      t.steep.faultRec = packR 128 [(64, t.time.toNat), (8, 6)] ∧ t.mem = s.mem ∧ t.cust = s.cust ∧ t.out = s.out ∧
      (s.boot.status = 0 → t.boot.status = 2 ∧ t.boot.faultL = false) ∧ (s.boot.status ≠ 0 → t.boot = s.boot)) ∧
  (∀ s : State, s.steep.engine = .listen → s.timeKnown = false → isPrimary s = true → s.fab.discovery = .complete →
    s.steep.wavesIn = 0 → s.steep.seen = [] →
    ∃ t, exec .founding s = .next t ∧ t.timeKnown = true ∧ s.steep.listenAt + 100000000 ≤ t.clock ∧
      t.time = BitVec.ofInt 64 (-24600) ∧
      Out.packet (.flood none) (.wave (foundingWave s (-2))) ∈ t.out ∧ t.mem = s.mem ∧ t.cust = s.cust) ∧
  (∀ (s : State) (sna : BitVec 16) (d : BitVec 64) (tab : List (BitVec 16)),
    (isPrimary s = true → exec (.tableDigest sna d tab) s =
      .next { s with out := s.out ++ [.packet (.sna sna) (.tableDigest (tableDigestOf s))] }) ∧
    (d = tableDigestOf s → isPrimary s = false → exec (.tableDigest sna d tab) s = .next s) ∧
    (∀ m ms, isPrimary s = false → masterLdns s = m :: ms → snaOfLdn s m.2 = some sna.toNat → d ≠ tableDigestOf s →
      s.steep.engine = .locked →
      ∃ t, exec (.tableDigest sna d tab) s = .next t ∧ t.steep.engine = .listen ∧
        t.steep.exits = s.steep.exits + 1 ∧ t.mem = s.mem ∧ t.cust = s.cust ∧ t.out = s.out ∧
        (tab.length = 1024 → t.fab.digestBad = false) ∧ (tab.length ≠ 1024 → t.fab.digestBad = true)))

/-- POWER_SAMPLE takes the newest of at most 1,000 samples of 10 us, and the averages of the newest 100 and of all of them; the power of the block groups is taken with every hundredth sample. A 1 ms average above 2,600 W halves the issue rate at once, and the rate stays halved until that average is below 2,400 W. A 10 ms average above 2,400 W is a stretch condition. Where the 1 ms average has not been above 2,600 W for 10 ms, nothing but the power, the condition and the cores whose rate changes is changed; where it has, the module makes an orderly stop. The averages of fewer samples than 100 or 1,000 are those of the samples present, which is the model's choice (log entry 56) (spec/01_architecture.md R27, spec/01_architecture.md R28, spec/02_steeps_and_time.md R44, spec/17_start_reset_recovery.md R472). -/
def Obligations.PowerSamplesHalveTheIssueRate : Prop :=
  ∀ (s : State) (w : Nat) (groups : List Nat),
    ∃ t, exec (.powerSample w groups) s = .next t ∧ t.power.samples = (w :: s.power.samples).take 1000 ∧
      t.power.avg1 = averageOf 100 t.power.samples ∧ t.power.avg10 = averageOf 1000 t.power.samples ∧
      t.power.groups = (if 99 ≤ s.power.sinceGroups then groups else s.power.groups) ∧
      (averageAbove 2600 100 t.power.samples = true → t.power.halved = true) ∧
      (averageBelow 2400 100 t.power.samples = true → t.power.halved = false) ∧
      (averageAbove 2600 100 t.power.samples = false → averageBelow 2400 100 t.power.samples = false →
        t.power.halved = s.power.halved) ∧
      (averageAbove 2600 100 t.power.samples = false ∨ s.power.above < 999 →
        t.steep.condPower = (s.steep.condPower || averageAbove 2400 1000 t.power.samples) ∧
        t = { s with power := t.power, steep := { s.steep with condPower := t.steep.condPower }, prog := t.prog } ∧
        (t.power.halved = s.power.halved → t.prog = s.prog) ∧
        (t.power.halved ≠ s.power.halved → t.prog = (halveCores t.power.halved s).prog)) ∧
      (averageAbove 2600 100 t.power.samples = true → 999 ≤ s.power.above → s.boot.stopped = none →
        t.boot.stopped = some t.clock ∧ t.boot.shutdown = true ∧ t.boot.faultL = false)

/-! ### Matrix cores (spec/03, spec/05) -/

/-- An array op that starts (head of its unit's queue, waits present, resources free, deadline passed) and keeps its operand rules has left its queue and runs. MMA_LOAD that meets no uncorrectable word fills the shadow weight set with the codes and side data at its operands and completes its load after the cycles of the format; one that meets such a word aborts every op of its core with program fault 7. MMA_RUN gives its accumulator bank the chain it opens or continues, one FP32 row for each activation row, final at the pace of the issue rate, and with NEW makes the shadow tile the active one. RANK_RUN opens or continues the chain of its rank bank; where its rows lie under one segment whose slice is in the ring, A is loaded in 96 cycles and the rows enter at once after it. The other bank, every other core, memory and every other part of the module are unchanged (spec/03_matrix_core.md R62, spec/03_matrix_core.md R67, spec/03_matrix_core.md R68, spec/03_matrix_core.md R70, spec/03_matrix_core.md R71, spec/03_matrix_core.md R90, spec/05_steep_programs.md R145). -/
def Obligations.ArrayOpsLoadAndRun : Prop :=
  (∀ (s : State) (core : BitVec 7) (stream : Bool) (q : QOp) (side : List Byte) (rs : List MemRange), s.inv = true →
    starting s core.toNat 0x10 stream = some q → opRuleOk q.word = true →
    side = sideData s core.toNat (64 * oF q.word 48 16) (oF q.word 64 3) →
    rs = tileRanges [(64 * oF q.word 32 16, tileSize (oF q.word 64 3)), (64 * oF q.word 48 16, side.length)] →
    (readFails s core.toNat rs = false →
      (side.take (12 * blockCols (oF q.word 64 3))).any (badScale (oB q.word 67)) = false →
      ∃ t, exec (.mmaLoad core stream) s = .next t ∧
        (coreOf t core.toNat).shadow = some {
          wfmt := BitVec.ofNat 3 (oF q.word 64 3), scl := oB q.word 67, t := oB q.word 68,
          codes := tileRead s core.toNat (64 * oF q.word 32 16) (tileSize (oF q.word 64 3)), side := side } ∧
        (coreOf t core.toNat).loadEnd = s.clock + loadCycles (oF q.word 64 3) side ∧
        (coreOf t core.toNat).active = (coreOf s core.toNat).active ∧
        Running t core.toNat q (coreOf t core.toNat).loadEnd 0 ∧ t.mem = s.mem ∧ CoreFrame s t core.toNat) ∧
    (readFails s core.toNat rs = true →
      ∃ t, exec (.mmaLoad core stream) s = .next t ∧ (coreOf t core.toNat).faulted = some 7 ∧
        (coreOf t core.toNat).aborted = true ∧ (coreOf t core.toNat).running = [] ∧ (coreOf t core.toNat).pour = none ∧
        t.mem = s.mem ∧ (∀ i, i ≠ core.toNat → coreOf t i = coreOf s i) ∧
        (isTrain (coreOf s core.toNat).binding = true → t.steep.bad = true ∧ t.steep.fail = setBit s.steep.fail 0 true))) ∧
  (∀ (s : State) (core : BitVec 7) (stream : Bool) (q : QOp) (x : WeightTile), s.inv = true →
    starting s core.toNat 0x11 stream = some q → opRuleOk q.word = true → (coreOf s core.toNat).upsets = [] →
    runTile (coreOf s core.toNat) q.word = some x → modeOk x.wfmt.toNat (oB q.word 100) = true →
    chainOk (accOf (coreOf s core.toNat) (oB q.word 101)) (oB q.word 102) (oF q.word 82 10) = true →
    ∃ t, exec (.mmaRun core stream) s = .next t ∧
      (∃ c, (accOf (coreOf t core.toNat) (oB q.word 101)).chain = some c ∧ c.rows = oF q.word 82 10 ∧
        c.cols = 16 * blockCols x.wfmt.toNat ∧ c.last = oB q.word 103 ∧
        c.finals = (List.range (oF q.word 82 10)).map fun i =>
          s.clock + pace s * rowCycles (some x) (oB q.word 100) * (i + 1) + 199) ∧
      (accOf (coreOf t core.toNat) (oB q.word 101)).vals = (List.range (oF q.word 82 10)).map (fun i =>
        (mmaRow (started core.toNat q s) core.toNat q.word x (outliersOf x)
          ((accOf (coreOf s core.toNat) (oB q.word 101)).vals.getD i [])
          (coreOffset s core.toNat + pace s * rowCycles (some x) (oB q.word 100) * (i + 1) + 199) i).map fun y => y.1) ∧
      accOf (coreOf t core.toNat) (!oB q.word 101) = accOf (coreOf s core.toNat) (!oB q.word 101) ∧
      (coreOf t core.toNat).active = (if oB q.word 104 then (coreOf s core.toNat).shadow
        else (coreOf s core.toNat).active) ∧
      Running t core.toNat q (s.clock + pace s * rowCycles (some x) (oB q.word 100) * oF q.word 82 10) 0 ∧
      t.mem = s.mem ∧ CoreFrame s t core.toNat) ∧
  (∀ (s : State) (core : BitVec 7) (stream : Bool) (q : QOp), s.inv = true →
    starting s core.toNat 0x20 stream = some q → opRuleOk q.word = true → (coreOf s core.toNat).upsets = [] →
    chainOk (rankOf (coreOf s core.toNat) (oB q.word 101)) (oB q.word 102) (oF q.word 82 10) = true →
    ∃ t, exec (.rankRun core stream) s = .next t ∧
      (∃ c, (rankOf (coreOf t core.toNat) (oB q.word 101)).chain = some c ∧ c.rows = oF q.word 82 10 ∧ c.cols = 64 ∧
        c.last = oB q.word 103) ∧
      rankOf (coreOf t core.toNat) (!oB q.word 101) = rankOf (coreOf s core.toNat) (!oB q.word 101) ∧
      t.mem = s.mem ∧ CoreFrame s t core.toNat ∧
      (∀ (g : Option Nat) (xs : List RingSlice) (e : Nat),
        rankPieces s core.toNat q.word = [{ seg := g, row := 0, rows := oF q.word 82 10 }] →
        pieceSlices s core.toNat q { seg := g, row := 0, rows := oF q.word 82 10 } = some xs →
        e = max s.clock
          (max (if oB q.word 102 then s.clock else (coreOf s core.toNat).rankSwitch) (arrival xs) + 96) →
        (coreOf t core.toNat).rankRun = none ∧ (coreOf t core.toNat).aActive = aSetOf (sliceOf xs false) ∧
        (coreOf t core.toNat).rankFree = e + max (pace s * oF q.word 82 10) 96 ∧
        Running t core.toNat q (coreOf t core.toNat).rankFree 0 ∧
        (rankOf (coreOf t core.toNat) (oB q.word 101)).vals.take (oF q.word 82 10) =
          (List.range (oF q.word 82 10)).map fun i =>
            (rankRow s core.toNat q.word (aSetOf (sliceOf xs false))
              ((if oB q.word 102 then [] else (rankOf (coreOf s core.toNat) (oB q.word 101)).vals).getD i [])
              (coreOffset s core.toNat + (e - s.clock) + pace s * i + 200) i).map fun y => y.1))

/-- EPI_SET0 that starts makes its slot valid with S and ALPHA 1.0, EOUT, ACT and STADDR of its word and every address of EPI.SET2 zero. EPI_SET1 and EPI_SET2 on a valid slot change ALPHA and S, or the five addresses, and nothing else of the slot. POUR on a valid slot latches the slot and starts the pour; where its one piece is final and its slices are in the ring, its rows are formed at once. POUR_RECOMPUTE of a pour whose rows are all read, that saturated, has not recomputed and ends before its deadline marks the recompute and its later end. POUR_COMPLETE of a pour whose passes are over writes the status record at STADDR and ends the pour; it releases the accumulator bank from the next cycle on unless KEEP is set (spec/05_steep_programs.md R156, spec/03_matrix_core.md R79, spec/03_matrix_core.md R80, spec/03_matrix_core.md R81, spec/03_matrix_core.md R82, spec/03_matrix_core.md R83). -/
def Obligations.EpilogueSlotsAndPours : Prop :=
  (∀ (s : State) (core : BitVec 7) (stream : Bool) (q : QOp), s.inv = true →
    starting s core.toNat 0x30 stream = some q → opRuleOk q.word = true →
    ∃ t e, exec (.epiSet0 core stream) s = .next t ∧
      epiOf (coreOf t core.toNat) (epiIndex s core.toNat q.stream (oF q.word 32 3)) = e ∧ e.valid = true ∧
      e.s = 0x3F800000 ∧ e.alpha = 0x3F800000 ∧ e.eout = BitVec.ofNat 8 (oF q.word 67 8) ∧
      e.act = BitVec.ofNat 3 (oF q.word 75 3) ∧ e.staddr = BitVec.ofNat 20 (oF q.word 85 20) ∧
      e.baddr = 0 ∧ e.vaddr = 0 ∧ e.zaddr = 0 ∧ e.zstride = 0 ∧ e.zfmt = false ∧
      Running t core.toNat q (s.clock + 1) 0 ∧ t.mem = s.mem ∧ CoreFrame s t core.toNat) ∧
  (∀ (s : State) (core : BitVec 7) (stream : Bool) (q : QOp) (e : EpiSlot), s.inv = true →
    starting s core.toNat 0x31 stream = some q → opRuleOk q.word = true →
    epiOf (coreOf s core.toNat) (epiIndex s core.toNat q.stream (oF q.word 32 3)) = e → e.valid = true →
    ∃ t, exec (.epiSet1 core stream) s = .next t ∧
      epiOf (coreOf t core.toNat) (epiIndex s core.toNat q.stream (oF q.word 32 3)) =
        { e with alpha := BitVec.ofNat 32 (oF q.word 35 32), s := BitVec.ofNat 32 (oF q.word 67 32) } ∧
      Running t core.toNat q (s.clock + 1) 0 ∧ t.mem = s.mem ∧ CoreFrame s t core.toNat) ∧
  (∀ (s : State) (core : BitVec 7) (stream : Bool) (q : QOp) (e : EpiSlot), s.inv = true →
    starting s core.toNat 0x32 stream = some q → opRuleOk q.word = true →
    epiOf (coreOf s core.toNat) (epiIndex s core.toNat q.stream (oF q.word 32 3)) = e → e.valid = true →
    ∃ t, exec (.epiSet2 core stream) s = .next t ∧
      epiOf (coreOf t core.toNat) (epiIndex s core.toNat q.stream (oF q.word 32 3)) =
        { e with baddr := BitVec.ofNat 16 (oF q.word 35 16), vaddr := BitVec.ofNat 16 (oF q.word 51 16),
                 zaddr := BitVec.ofNat 16 (oF q.word 67 16), zstride := BitVec.ofNat 12 (oF q.word 83 12),
                 zfmt := oB q.word 95 } ∧
      Running t core.toNat q (s.clock + 1) 0 ∧ t.mem = s.mem ∧ CoreFrame s t core.toNat) ∧
  (∀ (s : State) (core : BitVec 7) (stream : Bool) (q : QOp) (e : EpiSlot), s.inv = true →
    starting s core.toNat 0x40 stream = some q → opRuleOk q.word = true → (coreOf s core.toNat).upsets = [] →
    epiOf (coreOf s core.toNat) (epiIndex s core.toNat q.stream (oF q.word 32 3)) = e → e.valid = true →
    ∃ t p, exec (.pour core stream) s = .next t ∧ (coreOf t core.toNat).pour = some p ∧ p.op = q ∧ p.slot = e ∧
      p.pieces = pourPieces s core.toNat q.word e ∧ p.recomputed = false ∧ t.mem = s.mem ∧ CoreFrame s t core.toNat ∧
      (∀ (x : Piece) (f : List Nat) (sl : List RingSlice), (coreOf s core.toNat).rankRun = none →
        pourPieces s core.toNat q.word e = [x] → pieceFinals s core.toNat { p with left := [x], out := [] } x = some f →
        pieceSlices s core.toNat q x = some sl →
        p.left = [] ∧ p.saturated = saturations p (slotEout e) ∧ s.clock + 16 ≤ p.endAt ∧
        p.out = (List.range x.rows).map fun i => pourRow s core.toNat p
          (if pourLoads e then bSetOf (sliceOf sl false) else (coreOf s core.toNat).b0) (sliceOf sl true) (x.row + i))) ∧
  (∀ (s : State) (core : BitVec 7) (p : Pour), s.inv = true → (coreOf s core.toNat).upsets = [] →
    (coreOf s core.toNat).pour = some p → p.left = [] → p.saturated ≠ 0 → p.recomputed = false →
    inTime s core.toNat p.endAt = true →
    ∃ t p', exec (.pourRecompute core) s = .next t ∧ (coreOf t core.toNat).pour = some p' ∧
      p' = { p with recomputed := true, clamped := p'.clamped, endAt := p.endAt + recomputeCycles s p } ∧
      (p'.clamped = true ↔ saturations p (max (slotEout p.slot - cfg s 0x5010 1) (-120)) ≠ 0) ∧
      t.clock = max s.clock p.endAt ∧ t.mem = s.mem ∧ t.out = s.out ∧ ∀ i, i ≠ core.toNat → coreOf t i = coreOf s i) ∧
  (∀ (s : State) (core : BitVec 7) (p : Pour), s.inv = true → (coreOf s core.toNat).upsets = [] →
    (coreOf s core.toNat).pour = some p → p.left = [] → p.saturated = 0 ∨ p.recomputed = true →
    inTime s core.toNat p.endAt = true →
    ∃ t, exec (.pourComplete core) s = .next t ∧ (coreOf t core.toNat).pour = none ∧ t.clock = max s.clock p.endAt ∧
      tile32 t core.toNat (4 * p.slot.staddr.toNat) = statusRecord p (pourEout s p) ∧
      (oSamt p.op.word = 0 → t.out = s.out ∧ t.prog.tokens = s.prog.tokens) ∧
      (oB p.op.word 37 = false → accOf (coreOf t core.toNat) (oB p.op.word 35) = { freeAt := t.clock + 1 }) ∧
      OnlyTile s t core.toNat ∧ ∀ i, i ≠ core.toNat → coreOf t i = coreOf s i)

/-- A vector op that starts, keeps its operand rules and meets no uncorrectable word answers a next state in which it runs for its minimum duration, and the vector unit is taken for its issue cycles at the pace of the issue rate. VEC_EW writes, row by row at the destination stride, each element's function of its operands, BF16 results clamped; VEC_CVT the converted rows and then their block scales; VEC_ROW, from its destination upwards, the results of its rows in order. No byte outside the tile memory of the core changes, and no other core (spec/03_matrix_core.md R85, spec/03_matrix_core.md R86, spec/03_matrix_core.md R87, spec/04_numerics.md R112, spec/05_steep_programs.md R157, spec/05_steep_programs.md R158). -/
def Obligations.VectorOpsWriteTheirRows : Prop :=
  (∀ (s : State) (core : BitVec 7) (stream : Bool) (q : QOp) (n : Nat), s.inv = true →
    starting s core.toNat 0x50 stream = some q → opRuleOk q.word = true →
    readFails s core.toNat (tileRanges (vecReads q.word)) = false → n = (vecShape q.word).2 →
    ∃ t : State, exec (.vecEw core stream) s = .next t ∧
      t.mem = (writeRows core.toNat (64 * oF q.word 69 16) (rowStride n (if oB q.word 117 then 16 else 32))
        ((List.range (vecShape q.word).1).map fun r =>
          (encodeElems (oB q.word 117) ((List.range n).map fun c =>
            (ewFn (vecRm s core.toNat (oB q.word 118) ((n + (vecRate q.word).1 - 1) / (vecRate q.word).1)
                (vecRate q.word).1 r c) (oB q.word 119) (oF q.word 32 5)
              (vecElem s core.toNat (oB q.word 115) (64 * oF q.word 37 16 +
                r * rowStride n (if oB q.word 115 then 16 else 32) + (if oB q.word 115 then 2 else 4) * c))
              (ewB s core.toNat q.word n r c)
              (vecElem s core.toNat (oB q.word 117) (64 * oF q.word 69 16 +
                r * rowStride n (if oB q.word 117 then 16 else 32) + (if oB q.word 117 then 2 else 4) * c))).1)).1)
        s).mem ∧
      (coreOf t core.toNat).vecFree = s.clock + pace s * vecIssue q.word ∧
      Running t core.toNat q (s.clock + opDur s core.toNat q.word) 0 ∧
      OnlyTile s t core.toNat ∧ CoreFrame s t core.toNat) ∧
  (∀ (s : State) (core : BitVec 7) (stream : Bool) (q : QOp) (n : Nat) (exps : List Int) (u : State), s.inv = true →
    starting s core.toNat 0x51 stream = some q → opRuleOk q.word = true →
    readFails s core.toNat (tileRanges (vecReads q.word)) = false → n = (vecShape q.word).2 →
    exps = (if 2 ≤ oF q.word 35 3 then cvtExps (oF q.word 38 2) (vecShape q.word).1 n (oF q.word 35 3 = 3)
      (cvtSrc s core.toNat q.word n) else []) →
    u = writeRows core.toNat (64 * oF q.word 56 16) (rowStride n (cvtBits (oF q.word 35 3)))
      ((List.range (vecShape q.word).1).map fun r =>
        (cvtRow q.word n r exps (cvtSrc s core.toNat q.word n)).1) s →
    ∃ t : State, exec (.vecCvt core stream) s = .next t ∧
      t.mem = (if exps.isEmpty then u
        else tileWrite core.toNat (oF q.word 72 22) (exps.map fun e => BitVec.ofInt 8 (e + 127)) u).mem ∧
      (coreOf t core.toNat).vecFree = s.clock + pace s * vecIssue q.word ∧
      Running t core.toNat q (s.clock + opDur s core.toNat q.word) 0 ∧
      OnlyTile s t core.toNat ∧ CoreFrame s t core.toNat) ∧
  (∀ (s : State) (core : BitVec 7) (stream : Bool) (q : QOp) (n : Nat), s.inv = true →
    starting s core.toNat 0x52 stream = some q → opRuleOk q.word = true →
    readFails s core.toNat (tileRanges (vecReads q.word)) = false → n = (vecShape q.word).2 →
    ∃ t : State, exec (.vecRow core stream) s = .next t ∧
      t.mem = (tileWrite core.toNat (64 * oF q.word 51 16) ((List.range (vecShape q.word).1).flatMap fun r =>
        (rowFn (oF q.word 32 3) (oB q.word 97)
          (fun c i => vecRm s core.toNat (oB q.word 96) ((n + 255) / 256) 256 r (256 * c + i))
          ((List.range n).map fun c => vecElem s core.toNat (oB q.word 95) (64 * oF q.word 35 16 +
            r * rowStride n (if oB q.word 95 then 16 else 32) + (if oB q.word 95 then 2 else 4) * c))).flatMap
              fun x => wordBytes x.1) s).mem ∧
      (coreOf t core.toNat).vecFree = s.clock + pace s * vecIssue q.word ∧
      Running t core.toNat q (s.clock + opDur s core.toNat q.word) 0 ∧
      OnlyTile s t core.toNat ∧ CoreFrame s t core.toNat)

/-- A control op that starts has left its queue and taken its credits. SYNC_WAIT runs 1 cycle; SYNC_TIME runs until its cycle offset within the steep as its core reads it, 1 cycle at least; HALT ends its stream and runs nothing. SYNC_SEND with one send puts the credits under way to the counter that the send map entry names: of its own core, of another core, or in a token packet to another module, for the present steep. MARK, with its record type enabled and room in staging, leaves one trace record more, and two more with SAMPLE. OP_COMPLETE of a started op that awaits nothing and ends by its deadline removes it from the running ops, no earlier than its end; one that ends later stays. TOKEN under way, the oldest between its cores with its contents, for the present steep adds its amount to the counter; one for a later steep is held, one for an earlier steep dropped and counted. A remote token of a partition that does not hold the core is dropped and counted (spec/05_steep_programs.md R149, spec/05_steep_programs.md R150, spec/05_steep_programs.md R151, spec/05_steep_programs.md R162, spec/01_architecture.md R13, spec/02_steeps_and_time.md R51). -/
def Obligations.ControlOpsAndCredits : Prop :=
  (∀ (s : State) (core : BitVec 7) (stream : Bool) (q : QOp), s.inv = true →
    starting s core.toNat 0x90 stream = some q →
    ∃ t, exec (.syncWait core stream) s = .next t ∧ Running t core.toNat q (s.clock + 1) 0 ∧ t.mem = s.mem ∧
      (extraWaits q.word = [(0, 0), (0, 0), (0, 0)] → oWamt q.word < creditOf (coreOf s core.toNat) (oWctr q.word) →
        creditOf (coreOf t core.toNat) (oWctr q.word) =
          creditOf (coreOf s core.toNat) (oWctr q.word) - oWamt q.word) ∧ CoreFrame s t core.toNat) ∧
  (∀ (s : State) (core : BitVec 7) (stream : Bool) (q : QOp) (img : Image) (m : BitVec 32), s.inv = true →
    starting s core.toNat 0x91 stream = some q → (coreOf s core.toNat).image = some img → oSamt q.word ≠ 0 →
    oF q.word 38 4 = 0 → oF q.word 48 4 = 0 → oF q.word 58 4 = 0 → m = img.sendMap.getD (oSctr q.word) 0 →
    ∃ t, exec (.syncSend core stream) s = .next t ∧
      t = { s with obs := t.obs, out := t.out, prog := { s.prog with cores := t.prog.cores, tokens := t.prog.tokens } } ∧
      (fld m 30 2 = 0 ∨ fld m 30 2 = 1 → t.out = s.out ∧ t.prog.tokens = s.prog.tokens ++
        [{ source := core, core := if fld m 30 2 = 0 then core else fld m 13 7, ctr := fld m 7 6,
           amount := BitVec.ofNat 16 (oSamt q.word), steep := s.steep.k }]) ∧
      (fld m 30 2 = 2 → t.prog.tokens = s.prog.tokens ∧ t.out = s.out ++ [.packet (.ldn (fld m 20 10))
        (.token (fld m 20 10) (fld m 13 7) (fld m 7 6) (BitVec.ofNat 4 (oSamt q.word)) s.steep.k)])) ∧
  (∀ (s : State) (core : BitVec 7) (stream : Bool) (q : QOp), s.inv = true →
    starting s core.toNat 0x92 stream = some q →
    ∃ t, exec (.syncTime core stream) s = .next t ∧
      Running t core.toNat q (s.clock + max 1 (oF q.word 32 24 - coreOffset s core.toNat)) 0 ∧ t.mem = s.mem ∧
      CoreFrame s t core.toNat) ∧
  (∀ (s : State) (core : BitVec 7) (stream : Bool) (q : QOp), s.inv = true →
    starting s core.toNat 0xA0 stream = some q →
    ∃ t, exec (.mark core stream) s = .next t ∧ Running t core.toNat q (s.clock + 1) 0 ∧ t.mem = s.mem ∧
      ((cfg s 0x6300 1).testBit 1 = true → (oB q.word 48 = true → (cfg s 0x6300 1).testBit 2 = true) →
        s.obs.staging.length + 2 < 4096 →
        ∃ r rs, t.obs.staging = s.obs.staging ++ r :: rs ∧ r.type = 1 ∧ r.time = s.time ∧
          r.block = BitVec.ofNat 8 core.toNat ∧ fld r.data 0 16 = BitVec.ofNat 16 (oF q.word 32 16) ∧
          fld r.data 16 16 = q.index ∧ rs.length = (if oB q.word 48 then 2 else 0) ∧ ∀ x ∈ rs, x.type = 2) ∧
      CoreFrame s t core.toNat) ∧
  (∀ (s : State) (core : BitVec 7) (stream : Bool) (q : QOp), s.inv = true →
    starting s core.toNat 0xF0 stream = some q →
    ∃ t, exec (.halt core stream) s = .next t ∧ t = started core.toNat q s ∧
      (coreOf t core.toNat).running = (coreOf s core.toNat).running ∧ t.mem = s.mem ∧ CoreFrame s t core.toNat) ∧
  (∀ (s : State) (core : BitVec 7) (op : BitVec 16) (r : RunOp), s.inv = true →
    ((coreOf s core.toNat).running.find? fun r => r.index = op && r.awaiting = 0) = some r →
    (inTime s core.toNat r.endAt = true → ∃ t, exec (.opComplete core op) s = .next t ∧
      (coreOf t core.toNat).running = (coreOf s core.toNat).running.erase r ∧ t.clock = max s.clock r.endAt ∧
      (oSamt r.word = 0 → t.out = s.out ∧ t.prog.tokens = s.prog.tokens) ∧
      t.mem = s.mem ∧ ∀ i, i ≠ core.toNat → coreOf t i = coreOf s i) ∧
    (inTime s core.toNat r.endAt = false → exec (.opComplete core op) s = .next s)) ∧
  (∀ (s : State) (core : BitVec 7) (ctr : BitVec 6) (n : BitVec 16) (k : BitVec 64) (part : BitVec 6) (x : Token),
    s.inv = true → nextToken s core ctr n k = some x →
    ∃ t, exec (.token core ctr n k part false) s = .next t ∧
      t.prog.tokens = s.prog.tokens.erase x ∧ t.mem = s.mem ∧ t.out = s.out ∧
      (k = s.steep.k → n ≠ 0 → creditOf (coreOf s core.toNat) ctr.toNat + n.toNat ≤ 65535 →
        creditOf (coreOf t core.toNat) ctr.toNat = creditOf (coreOf s core.toNat) ctr.toNat + n.toNat) ∧
      (ahead k s.steep.k ≠ 0 → (coreOf t core.toNat).held = (coreOf s core.toNat).held ++ [(ctr, n)]) ∧
      (ahead s.steep.k k ≠ 0 → t.prog.dropped = s.prog.dropped + 1 ∧ t.prog.cores = s.prog.cores)) ∧
  (∀ (s : State) (core : BitVec 7) (ctr : BitVec 6) (n : BitVec 16) (k : BitVec 64) (part : BitVec 6), s.inv = true →
    (coreOwner s core.toNat ≠ some part.toNat → ∃ t, exec (.token core ctr n k part true) s = .next t ∧
      t = { s with prog := { s.prog with dropped := s.prog.dropped + 1 } }) ∧
    (coreOwner s core.toNat = some part.toNat → k = s.steep.k → n ≠ 0 →
      creditOf (coreOf s core.toNat) ctr.toNat + n.toNat ≤ 65535 →
      ∃ t, exec (.token core ctr n k part true) s = .next t ∧ t.prog.tokens = s.prog.tokens ∧ t.mem = s.mem ∧
        creditOf (coreOf t core.toNat) ctr.toNat = creditOf (coreOf s core.toNat) ctr.toNat + n.toNat))

/-- BIND of a core that the partition holds, of any mode, whose entries pass every check (none for mode 0), with a steep at least 20 us ahead, leaves the binding of its fields pending, a binding whose first steep has begun in effect, and completes with success; one that names a core of another partition completes with NOT_PERMITTED and binds nothing. BIND_EFFECT puts a pending binding in effect in its first steep or a later one, and before it changes nothing. PROGRAM_FETCH of an idle fetch with a TRAIN or SERVE binding of the next steep begins the fetch at B(k) + 16 cycles as the core's die reads it or later. PROGRAM_FETCH_DONE inside the partition's windows whose blocks verify leaves the image and its strain list in the idle half, one with a bad block leaves no image. OP_DISPATCH of a Locked module takes the next op of the stream, in turn with the other one, to the queue of its unit; an op that fails its decode check stops the core with fault 1 (spec/05_steep_programs.md R137, spec/05_steep_programs.md R138, spec/05_steep_programs.md R140, spec/05_steep_programs.md R142, spec/05_steep_programs.md R143, spec/05_steep_programs.md R144, spec/05_steep_programs.md R166). -/
def Obligations.BindingFetchAndDispatch : Prop :=
  (∀ (s : State) (c : Cmd) (b : Binding) (g : Nat), s.inv = true → headCmd s 0x20 = some c →
    g = bits (cP0 c.word) 0 7 → holdsCore s c.part.toNat g = true →
    b = { mode := BitVec.ofNat 2 (bits (cP0 c.word) 8 2), dir := BitVec.ofNat 48 (cAddr0 c.word),
          dlen := BitVec.ofNat 16 (bits (cP0 c.word) 16 16), first := cSteep c.word,
          slotMap := BitVec.ofNat 48 (cP1 c.word), kvMap := BitVec.ofNat 48 (cP2 c.word) } →
    bits (cP0 c.word) 8 2 ≠ 3 →
    (bits (cP0 c.word) 8 2 ≠ 0 → b.dlen.toNat ≠ 0 ∧ b.dir.toNat % 16 = 0 ∧
      (bits (cP0 c.word) 8 2 = 1 → b.dlen.toNat = stepLen s) ∧ ∀ i < b.dlen.toNat,
        entryWindows s c.part.toNat b i = true ∧ checkEntry s c.part.toNat b (cSteep c.word) i = none) →
    boundariesKnown s = true → atLeast20us s (cSteep c.word) = true →
    ∃ t, exec .bind s = .next t ∧ (coreOf t g).pendingBind = some b ∧
      (coreOf t g).binding = (settleBind s (coreOf s g)).binding ∧ Completed s t c.id 0 0 0 ∧ t.mem = s.mem ∧
      ∀ i, i ≠ g → coreOf t i = coreOf s i) ∧
  (∀ (s : State) (c : Cmd), headCmd s 0x20 = some c → holdsCore s c.part.toNat (bits (cP0 c.word) 0 7) = false →
    ∃ t, exec .bind s = .next t ∧ Completed s t c.id 0x0B 0 0 ∧ t.prog = s.prog) ∧
  (∀ (s : State) (core : BitVec 7) (b : Binding), s.inv = true → (coreOf s core.toNat).pendingBind = some b →
    (hasBegun s b.first = true → ∃ t, exec (.bindEffect core) s = .next t ∧
      coreOf t core.toNat = { coreOf s core.toNat with binding := b, pendingBind := none } ∧
      t = { s with prog := { s.prog with cores := t.prog.cores } } ∧
      ∀ i, i ≠ core.toNat → coreOf t i = coreOf s i) ∧
    (hasBegun s b.first = false → exec (.bindEffect core) s = .next s)) ∧
  (∀ (s : State) (core : BitVec 7), s.inv = true → boundariesKnown s = true → (coreOf s core.toNat).fetch = .idle →
    isServe (bindingAt s core.toNat (s.steep.k + 1)) = true ∨ isTrain (bindingAt s core.toNat (s.steep.k + 1)) = true →
    ∃ t, exec (.programFetch core) s = .next t ∧ coreOf t core.toNat = { coreOf s core.toNat with
        fetch := .fetching, paired := pairedNext s core.toNat (bindingAt s core.toNat (s.steep.k + 1)) } ∧
      t.time = waited s (dieClock s core.toNat (s.steep.b + 16)) ∧ t.mem = s.mem ∧ t.out = s.out ∧ t.steep = s.steep ∧
      ∀ i, i ≠ core.toNat → coreOf t i = coreOf s i) ∧
  (∀ (s : State) (core : BitVec 7) (env : ReadEnv) (a n l : Nat) (c : BitVec 256) (r r' : Bool × State), s.inv = true →
    (coreOf s core.toNat).fetch = .fetching →
    a = nextImageAddr s core.toNat (bindingAt s core.toNat (s.steep.k + 1)) →
    c = kvCtlAt s (bindingAt s core.toNat (s.steep.k + 1))
      (entryOf (bindingAt s core.toNat (s.steep.k + 1)) (s.steep.k + 1) (sidxNext s)) →
    n = imageBytes (headerAt s a) → l = (if kValid c then 32 * kNcmd c else 0) →
    windowOk s (coreOwnerD s core.toNat) a 64 = true → windowOk s (coreOwnerD s core.toNat) a n = true →
    (l ≠ 0 → windowOk s (coreOwnerD s core.toNat) (kSlist c) l = true) →
    r = verifyRange env a n (bringUpsets core.toNat env s) → r' = verifyRange env (kSlist c) l r.2 →
    ∃ t, exec (.programFetchDone core env) s = .next t ∧ t.mem = s.mem ∧
      (coreOf t core.toNat).image = (coreOf s core.toNat).image ∧
      (r.1 = false → r'.1 = false → (coreOf t core.toNat).fetch = .done ∧
        (coreOf t core.toNat).nextImage = some (imageAt s a) ∧ (coreOf t core.toNat).nextStrain = strainList s c) ∧
      (r.1 = true ∨ r'.1 = true → (coreOf t core.toNat).fetch = .badCrc ∧
        (coreOf t core.toNat).nextImage = (coreOf s core.toNat).nextImage)) ∧
  (∀ (s u : State) (core : BitVec 7) (stream : Bool) (w : BitVec 128), s.inv = true → isLocked s = true →
    (coreOf s core.toNat).faulted = none → (coreOf s core.toNat).aborted = false →
    (∀ b, (coreOf s core.toNat).pendingBind = some b → hasBegun s b.first = false) →
    (coreOf s core.toNat).heldUntil ≤ s.clock →
    u = untilClock (coreOf s core.toNat).dispatchAt (untilTime (dieClock s core.toNat (s.steep.b + 16)) s) →
    stream ≠ (coreOf s core.toNat).lastDispatch ∨
      dispatchable u.clock (coreOf s core.toNat) (!stream) = none →
    dispatchable u.clock (coreOf s core.toNat) stream = some w →
    (decodeOk w = true → ∃ t q, exec (.opDispatch core stream) s = .next t ∧ q.word = w ∧ q.stream = stream ∧
      q.dispatched = t.clock ∧ t.clock = u.clock ∧ t.time = u.time ∧
      sget [] (opUnit (oOp w)) (coreOf t core.toNat).queues =
        sget [] (opUnit (oOp w)) (coreOf s core.toNat).queues ++ [q] ∧
      streamNext (coreOf t core.toNat) stream = streamNext (coreOf s core.toNat) stream + 1 ∧
      streamNext (coreOf t core.toNat) (!stream) = streamNext (coreOf s core.toNat) (!stream) ∧
      (coreOf t core.toNat).dispatchAt = t.clock + 1 ∧
      (coreOf t core.toNat).lastDispatch = stream ∧ t.mem = s.mem ∧ ∀ i, i ≠ core.toNat → coreOf t i = coreOf s i) ∧
    (decodeOk w = false → ∃ t, exec (.opDispatch core stream) s = .next t ∧ (coreOf t core.toNat).faulted = some 1 ∧
      t.prog.faults = s.prog.faults + 1 ∧ t.mem = s.mem))

/-- A transfer op that starts (a DMA op in its core's turn at the engine) and whose descriptors lie in words without uncorrectable error performs its descriptors in order. Where none faults it runs: DMA awaits nothing and leaves the memory that its descriptors leave; FAB_PUT sends one write packet for each unit, in order, with the credits on those to the module of the last one, and awaits an acknowledgement of each; FAB_GET and FAB_COLL keep their descriptors and await the answers counted. Where a descriptor faults with a code other than 7 the core stops with a program fault of that code (spec/05_steep_programs.md R159, spec/05_steep_programs.md R161, spec/12_spapor_fabric.md R354, spec/05_steep_programs.md R148, spec/05_steep_programs.md R166). -/
def Obligations.TransferOpsMoveAndSend : Prop :=
  (∀ (s u v : State) (core : BitVec 7) (stream : Bool) (env : ReadEnv) (q : QOp) (rs : List MemRange) (x : Option Nat),
    s.inv = true → starting s core.toNat 0x70 stream = some q →
    starting (bringUpsets core.toNat env s) core.toNat 0x70 stream = some q →
    engineTurn s (oF q.word 56 4) core.toNat = true → opRuleOk q.word = true →
    rs = tileRanges (descriptorRange q.word) → readFails (bringUpsets core.toNat env s) core.toNat rs = false →
    v = startedReading core.toNat q rs (bringUpsets core.toNat env s) →
    transferAll (transferOne env core.toNat (oF q.word 56 4 = 8)) (opDescriptors s core.toNat q.word)
      { v with prog := { v.prog with
          engines := sput 0 (16 * (core.toNat / 32) + oF q.word 56 4) core.toNat s.prog.engines } } = (x, u) →
    (x = none → ∃ t, exec (.dma core stream env) s = .next t ∧ Running t core.toNat q (u.clock + 1) 0 ∧ t.mem = u.mem ∧
      t.out = u.out ∧ t = { u with prog := { u.prog with cores := t.prog.cores } }) ∧
    (∀ c, x = some c → c ≠ 7 → exec (.dma core stream env) s = .next (startFault core.toNat q c u))) ∧
  (∀ (s u v : State) (core : BitVec 7) (stream : Bool) (env : ReadEnv) (q : QOp) (rs : List MemRange) (x : Option Nat)
    (ws : List RemoteWrite), s.inv = true →
    starting (bringUpsets core.toNat env s) core.toNat 0x80 stream = some q →
    rs = tileRanges (descriptorRange q.word) → readFails (bringUpsets core.toNat env s) core.toNat rs = false →
    v = startedReading core.toNat q rs (bringUpsets core.toNat env s) →
    putAll env core.toNat (opDescriptors s core.toNat q.word) v = ((x, ws), u) →
    ∃ t put, exec (.fabPut core stream env) s = .next t ∧ t.mem = u.mem ∧ put.core = core ∧ put.op = q.index ∧
      t.out = u.out ++ ws.map (fun w => Out.packet (.ldn w.ldn) (.fabPut (BitVec.ofNat 48 w.addr) w.unit w.gcm w.crc
        (BitVec.ofNat 7 (oF q.word 56 7)) (BitVec.ofNat 6 (oF q.word 63 6))
        (BitVec.ofNat 4 (if some w.ldn = ws.getLast?.map (fun l => l.ldn) then oF q.word 69 4 else 0)) put)) ∧
      (x = none → Running t core.toNat q (u.clock + 1) ws.length) ∧
      (∀ c, x = some c → c ≠ 7 → (coreOf t core.toNat).faulted = some (BitVec.ofNat 8 c) ∧
        t.prog.faults = u.prog.faults + 1)) ∧
  (∀ (s u v : State) (core : BitVec 7) (stream : Bool) (q : QOp) (rs : List MemRange) (ds : List (BitVec 512)) (n : Nat)
    (x : Option Nat), s.inv = true → starting s core.toNat 0x81 stream = some q →
    rs = tileRanges (descriptorRange q.word) → readFails s core.toNat rs = false → v = startedReading core.toNat q rs s →
    ds = (opDescriptors s core.toNat q.word).map (fun d => if descriptorOk 3 d then withFeed s core.toNat d else d) →
    getAll core.toNat q.index 0 0 ds v = ((x, n), u) →
    (x = none → ∃ t, exec (.fabGet core stream) s = .next t ∧ Running t core.toNat q (u.clock + 1) n ∧ t.out = u.out ∧
      (∃ r ∈ (coreOf t core.toNat).running, r.index = q.index ∧ r.descs = ds) ∧ t.mem = s.mem) ∧
    (∀ c, x = some c → c ≠ 7 → exec (.fabGet core stream) s = .next (startFault core.toNat q c u))) ∧
  (∀ (s u v : State) (core : BitVec 7) (stream : Bool) (q : QOp) (rs : List MemRange) (n : Nat) (x : Option Nat),
    s.inv = true → starting s core.toNat 0x82 stream = some q →
    rs = tileRanges (descriptorRange q.word) → readFails s core.toNat rs = false → v = startedReading core.toNat q rs s →
    collAll core.toNat 0 0 (opDescriptors s core.toNat q.word) v = ((x, n), u) →
    (x = none → ∃ t, exec (.fabColl core stream) s = .next t ∧ Running t core.toNat q (u.clock + 1) n ∧ t.out = u.out ∧
      (∃ r ∈ (coreOf t core.toNat).running, r.index = q.index ∧ r.descs = opDescriptors s core.toNat q.word) ∧
      t.mem = u.mem) ∧
    (∀ c, x = some c → c ≠ 7 → exec (.fabColl core stream) s = .next (startFault core.toNat q c u)))

/-- A reduction op that starts, with its RULE field zero (RED_ADD, RED_MAX, RED_ZERO), whose descriptors lie in words without uncorrectable error and do not fault, and whose units all find a nonce, sends its units in order and runs until each is acknowledged; one with another RULE stops its core with program fault 2. RED_UPD whose descriptors do not fault covers the unfinished shards they name and, where none of them can move on yet, runs until each covered one has been updated, failed or skipped. No byte of memory changes (spec/09_reduction_and_update.md R262, spec/09_reduction_and_update.md R263, spec/09_reduction_and_update.md R267, spec/09_reduction_and_update.md R270). -/
def Obligations.ReductionOpsSendTheirUnits : Prop :=
  (∀ (s u v w : State) (core : BitVec 7) (stream : Bool) (q : QOp) (rs : List MemRange) (us : List RedUnit),
    s.inv = true → starting s core.toNat 0x60 stream = some q → oF q.word 56 4 = 0 →
    rs = tileRanges (descriptorRange q.word) → readFails s core.toNat rs = false → w = startedReading core.toNat q rs s →
    redAll core.toNat 0 (opDescriptors s core.toNat q.word) w = ((none, us), u) →
    sendUnits core.toNat us u = (true, v) →
    ∃ t, exec (.redAdd core stream) s = .next t ∧ Running t core.toNat q (v.clock + 1) us.length ∧ t.out = v.out ∧
      t.mem = s.mem ∧ t = { v with prog := { v.prog with cores := t.prog.cores } }) ∧
  (∀ (s u v w : State) (core : BitVec 7) (stream : Bool) (q : QOp) (rs : List MemRange) (us : List RedUnit),
    s.inv = true → starting s core.toNat 0x61 stream = some q → oF q.word 56 4 = 0 →
    rs = tileRanges (descriptorRange q.word) → readFails s core.toNat rs = false → w = startedReading core.toNat q rs s →
    redAll core.toNat 2 (opDescriptors s core.toNat q.word) w = ((none, us), u) →
    sendUnits core.toNat us u = (true, v) →
    ∃ t, exec (.redMax core stream) s = .next t ∧ Running t core.toNat q (v.clock + 1) us.length ∧ t.out = v.out ∧
      t.mem = s.mem ∧ t = { v with prog := { v.prog with cores := t.prog.cores } }) ∧
  (∀ (s u v w : State) (core : BitVec 7) (stream : Bool) (q : QOp) (rs : List MemRange) (us : List RedUnit),
    s.inv = true → starting s core.toNat 0x63 stream = some q → oF q.word 56 4 = 0 →
    rs = tileRanges (descriptorRange q.word) → readFails s core.toNat rs = false → w = startedReading core.toNat q rs s →
    redAll core.toNat 3 (opDescriptors s core.toNat q.word) w = ((none, us), u) →
    sendUnits core.toNat us u = (true, v) →
    ∃ t, exec (.redZero core stream) s = .next t ∧ Running t core.toNat q (v.clock + 1) us.length ∧ t.out = v.out ∧
      t.mem = s.mem ∧ t = { v with prog := { v.prog with cores := t.prog.cores } }) ∧
  (∀ (s : State) (core : BitVec 7) (stream : Bool) (q : QOp) (op : Nat) (i : Instr), s.inv = true →
    (op, i) ∈ [(0x60, Instr.redAdd core stream), (0x61, Instr.redMax core stream), (0x63, Instr.redZero core stream)] →
    starting s core.toNat op stream = some q → oF q.word 56 4 ≠ 0 →
    readFails s core.toNat (tileRanges (descriptorRange q.word)) = false →
    ∃ t, exec i s = .next t ∧ (coreOf t core.toNat).faulted = some 2 ∧ t.mem = s.mem ∧ t.out = s.out) ∧
  (∀ (s u v : State) (core : BitVec 7) (stream : Bool) (q : QOp) (rs : List MemRange) (n : Nat), s.inv = true →
    starting s core.toNat 0x62 stream = some q → rs = tileRanges (descriptorRange q.word) →
    readFails s core.toNat rs = false → v = startedReading core.toNat q rs s →
    updAll core.toNat (oF q.word 56 4) q.index 0 (opDescriptors s core.toNat q.word) v = ((none, n), u) →
    ∃ t, exec (.redUpd core stream) s = .next t ∧ t.mem = s.mem ∧ t.out = s.out ∧ t.cust = s.cust ∧ t.ad = s.ad ∧
      ((∀ i x, shardOf u i = some x → x.cover.isSome = true →
          (x.state = .empty ∨ x.state = .gathering) ∧ allHeard u x = false) →
        Running t core.toNat q (u.clock + 1) n ∧ t.red = u.red))

/-! ### Attention, adapters and admission (spec/06, spec/07) -/

/-- The strain command at the head of a core's list that may start takes its place among the running ops for its port cycles, and the list goes on to the next one; operands out of range are program fault 2. GATHER, which waits for its HBM reads as well, writes its blocks at its data address and their 96 side bytes, all zeros with neutral scales for a padding row; MASK writes for each row and key +0 where the key is visible and the BF16 lowest pattern FF80 where it is not; BLOCK writes 96 quantised blocks and their scales; TRANS its transposed rows in groups of 32 with their scales: each changes no byte outside its core's tile memory. APPEND whose rows append nothing changes no memory; one row that appends, at a position that does not end a page, writes its K and V values, padded to the row of the open buffer, under the tenant's slot, and the row counts as written (spec/07_attention_and_kv_cache.md R222, spec/07_attention_and_kv_cache.md R223, spec/07_attention_and_kv_cache.md R224, spec/07_attention_and_kv_cache.md R225, spec/07_attention_and_kv_cache.md R226, spec/07_attention_and_kv_cache.md R227). -/
def Obligations.StrainCommandsWriteTileMemory : Prop :=
  (∀ (s : State) (core : BitVec 7) (env : ReadEnv) (w : BitVec 256), s.inv = true →
    strainNow s core.toNat 1 = some w → sLayer w < kvL s (coreOwnerD s core.toNat) →
    sHead w < kvH s (coreOwnerD s core.toNat) →
    ∃ (t u : State) (codes side : List Byte), exec (.gather core env) s = .next t ∧
      side.length = 96 ∧ u.mem = s.mem ∧
      t.mem = (tileWrite core.toNat (sXaddr w) side (tileWrite core.toNat (sDaddr w) codes u)).mem ∧
      ((batchRow s core.toNat (sRow w)).seq = 0 → codes = List.replicate 24576 0 ∧ side = List.replicate 96 0x7F) ∧
      (coreOf t core.toNat).strainNext = (coreOf s core.toNat).strainNext + 1 ∧
      (∃ r ∈ (coreOf t core.toNat).running, r.index = strainIndex (coreOf s core.toNat).strainNext ∧
        s.clock + strainCycles s core.toNat w ≤ r.endAt) ∧ OnlyTile s t core.toNat ∧ t.out = s.out) ∧
  (∀ (s : State) (core : BitVec 7) (w : BitVec 256) (key : Nat → BitVec 20 × Nat), s.inv = true →
    strainNow s core.toNat 2 = some w →
    (key = fun j => if sKsrc w
      then ((batchRow s core.toNat ((sKbase w + j) % 4096)).seq, (batchRow s core.toNat ((sKbase w + j) % 4096)).qpos.toNat)
      else ((batchRow s core.toNat (sRow w)).seq, sKbase w + j)) →
    ∃ t, exec (.mask core) s = .next t ∧
      (coreOf t core.toNat).strainNext = (coreOf s core.toNat).strainNext + 1 ∧
      (∃ r ∈ (coreOf t core.toNat).running, r.index = strainIndex (coreOf s core.toNat).strainNext ∧
        r.endAt = s.clock + strainCycles s core.toNat w) ∧
      t.mem = ((List.range (sRows w)).foldl (fun u i => tileWrite core.toNat (sDaddr w + sDstride w * i)
        ((List.range (sCols w)).flatMap fun j =>
          if keyVisible (batchRow s core.toNat (sRow w + i)) (key j).1 (key j).2 then [0x00, 0x00] else [0x80, 0xFF])
        u) s).mem ∧ OnlyTile s t core.toNat ∧ CoreFrame s t core.toNat) ∧
  (∀ (s : State) (core : BitVec 7) (w : BitVec 256) (n : Nat), s.inv = true → strainNow s core.toNat 3 = some w →
    sLayer w < kvL s (coreOwnerD s core.toNat) →
    n = kvH s (coreOwnerD s core.toNat) * kvD s (coreOwnerD s core.toNat) →
    readFails s core.toNat (tileRanges ((appRows s core.toNat w).flatMap fun i =>
      [(sSaddr w + i * sSstride w, sRowBytes w n), (sXaddr w + i * sSstride w, sRowBytes w n)])) = false →
    ∃ t, exec (.append core) s = .next t ∧
      (coreOf t core.toNat).strainNext = (coreOf s core.toNat).strainNext + 1 ∧
      (∃ r ∈ (coreOf t core.toNat).running, r.index = strainIndex (coreOf s core.toNat).strainNext ∧
        r.endAt = s.clock + strainCycles s core.toNat w) ∧ t.out = s.out ∧
      (appRows s core.toNat w = [] → t.mem = s.mem) ∧
      (∀ row q, sRows w = 1 → row = batchRow s core.toNat (sRow w) → q = seqOf s (coreOwnerD s core.toNat) row.seq.toNat →
        row.app = true → row.seq ≠ 0 → q.buffer ≠ 0 →
        isStepGroup s (coreOwnerD s core.toNat) (strainGroup s core.toNat) = false →
        pairOk s row.tslot.toNat row.tgen = true → row.qpos.toNat % 16 ≠ 15 →
        rowWritten t (coreOwnerD s core.toNat) q.buffer (row.qpos.toNat % 16) (sLayer w) = true ∧
        ∃ padded : List Byte, t.mem = (xtsWriteFor (coreOwnerD s core.toNat) row.tslot.toNat false
          (openRow s (coreOwnerD s core.toNat) q.buffer (row.qpos.toNat % 16) (sLayer w)) padded s).mem ∧
          padded.take (4 * n) =
            ((sourceVals s core.toNat (sBf16 w) (sSaddr w) n ++
              sourceVals s core.toNat (sBf16 w) (sXaddr w) n).map clampBf16).flatMap fun y => wordBytes y.1)) ∧
  (∀ (s : State) (core : BitVec 7) (w : BitVec 256) (q : Nat → List Byte × Byte × List Nat), s.inv = true →
    strainNow s core.toNat 4 = some w →
    readFails s core.toNat (tileRanges (strainSource s w)) = false →
    (if sOrient w then sRows w ≤ 192 && sCols w ≤ 128 else sRows w ≤ 128 && sCols w ≤ 192) = true →
    (q = fun b => quantise (blockIndices.map fun x =>
      if sOrient w then strainElem s core.toNat w (16 * (b / 8) + x.1) (16 * (b % 8) + x.2)
      else strainElem s core.toNat w (16 * (b % 8) + x.2) (16 * (b / 8) + x.1))) →
    ∃ t : State, exec (.block core) s = .next t ∧
      t.mem = (tileWrite core.toNat (sXaddr w) ((List.range 96).map fun b => (q b).2.1)
        (tileWrite core.toNat (sDaddr w) ((List.range 96).flatMap fun b => (q b).1) s)).mem ∧
      (coreOf t core.toNat).strainNext = (coreOf s core.toNat).strainNext + 1 ∧
      (∃ r ∈ (coreOf t core.toNat).running, r.index = strainIndex (coreOf s core.toNat).strainNext ∧
        r.endAt = s.clock + strainCycles s core.toNat w) ∧ OnlyTile s t core.toNat ∧ CoreFrame s t core.toNat) ∧
  (∀ (s : State) (core : BitVec 7) (w : BitVec 256) (q : Nat → Nat → List Byte × Byte × List Nat), s.inv = true →
    strainNow s core.toNat 5 = some w →
    readFails s core.toNat (tileRanges (strainSource s w)) = false → sRows w ≤ 512 → sCols w ≤ 512 →
    (q = fun c b => quantise ((List.range (min 32 (sRows w - 32 * b))).map fun i =>
      strainElem s core.toNat w (32 * b + i) c)) →
    ∃ t, exec (.trans core) s = .next t ∧
      (coreOf t core.toNat).strainNext = (coreOf s core.toNat).strainNext + 1 ∧
      (∃ r ∈ (coreOf t core.toNat).running, r.index = strainIndex (coreOf s core.toNat).strainNext ∧
        r.endAt = s.clock + strainCycles s core.toNat w) ∧
      t.mem = ((List.range (sCols w)).foldl (fun u c =>
        tileWrite core.toNat (sDsaddr w + sDstride w / 32 * c) ((List.range ((sRows w + 31) / 32)).map fun b => (q c b).2.1)
          (tileWrite core.toNat (sDaddr w + sDstride w * c) ((List.range ((sRows w + 31) / 32)).flatMap fun b => (q c b).1)
            u)) s).mem ∧
      OnlyTile s t core.toNat ∧ CoreFrame s t core.toNat) ∧
  (∀ (s : State) (core : BitVec 7) (env : ReadEnv) (w : BitVec 256) (c : Instr), s.inv = true →
    (c = .gather core env ∧ strainNow s core.toNat 1 = some w ∧ (kvL s (coreOwnerD s core.toNat) ≤ sLayer w ∨
        kvH s (coreOwnerD s core.toNat) ≤ sHead w)) ∨
      (c = .append core ∧ strainNow s core.toNat 3 = some w ∧ kvL s (coreOwnerD s core.toNat) ≤ sLayer w) ∨
      (c = .block core ∧ strainNow s core.toNat 4 = some w ∧
        (if sOrient w then 192 < sRows w ∨ 128 < sCols w else 128 < sRows w ∨ 192 < sCols w)) ∨
      (c = .trans core ∧ strainNow s core.toNat 5 = some w ∧ (512 < sRows w ∨ 512 < sCols w)) →
    ∃ t, exec c s = .next t ∧ (coreOf t core.toNat).faulted = some 2 ∧ t.mem = s.mem ∧ t.out = s.out)

/-- ADMISSION_SORT, once for the next steep, with no COMMIT that takes effect by then still to be carried out, forms a table for every row group that is due, for steep k + 1 and with the group's capacity, and changes no memory. CADDY_PREFETCH_LIST gives each die its list and pins every resident block on it. CADDY_FILL of a listed block that verifies, with a frame free, makes it resident with its plaintext, and pins it for the steep whose list it is on; after a block error no caddy holds a block that it did not hold. TABLE_PUBLISH, no earlier than the guard, publishes once, and a request of the next steep whose input copy is missing has its end decided. INFUSER_PREFILL empties the rings for the coming steep; INFUSER_SLICE appends the next slice of the ring's list once the loads that could go on have gone on, zeros for a stale key pair, counted (spec/06_adapters.md R180, spec/06_adapters.md R181, spec/06_adapters.md R183, spec/06_adapters.md R185, spec/06_adapters.md R188, spec/14_host_partitions_queues.md R414). -/
def Obligations.AdmissionSortsPublishesAndFeeds : Prop :=
  (∀ s : State, lockedNext s = true → s.ad.sorted ≠ some (s.steep.k + 1) →
    (∀ e, s.dict.commit = some e → s.steep.k.toNat < e.toNat) → s.steep.decision = 0 → s.inv = true →
    ∃ t, exec .admissionSort s = .next t ∧ t.ad.sorted = some (s.steep.k + 1) ∧ t.ad.published = false ∧
      t.ad.prefetch = [] ∧ t.mem = s.mem ∧ t.out = s.out ∧ t.prog.cores = s.prog.cores ∧ t.cust = s.cust ∧
      ∀ p g, p < 64 → g < 4 → groupDue s p g = true →
        ∃ tab, nextTableOf t p g = some tab ∧ tab.steep = s.steep.k + 1 ∧ tab.cap = capacity s p g) ∧
  (∀ s : State, s.ad.sorted = some (s.steep.k + 1) → s.ad.prefetch = [] →
    ∃ t, exec .caddyPrefetchList s = .next t ∧ t.time = waited s (s.steep.b + 20000) ∧ t.mem = s.mem ∧ t.out = s.out ∧
      t.ad.prefetch = (List.range 4).flatMap (dieList (untilTime (s.steep.b + 20000) s)) ∧
      ∀ die, die < 4 → (caddyOf t die).length = (caddyOf s die).length ∧
        ∀ b ∈ caddyOf t die, (∃ e ∈ t.ad.prefetch, e.1.toNat = die ∧ e.2.2 = b.addr) → (s.steep.k + 1) ∈ b.pins) ∧
  (∀ (s : State) (die : BitVec 2) (didx : BitVec 16) (addr : BitVec 48) (env : ReadEnv) (f : Nat),
    s.ad.prefetch.contains (die, didx, addr.toNat / 4096 * 4096) = true → isSettled s didx.toNat = true →
    pairOk s (dSlot (descOf s didx.toNat)) (dKgen (descOf s didx.toNat)) = true →
    caddyHit s die.toNat (descOf s didx.toNat) (addr.toNat / 4096 * 4096) = none →
    (verifyBlock env (addr.toNat / 4096 * 4096 / 4096) s).1 = false →
    ((List.range (shareBytes s (dPart (descOf s didx.toNat)) / 4096)).find? fun f =>
      !(((caddyOf s die.toNat).filter fun x => x.part.toNat = dPart (descOf s didx.toNat)).any fun x => x.frame = f)) =
        some f →
    ∃ t b, exec (.caddyFill die didx addr env) s = .next t ∧ caddyOf t die.toNat = caddyOf s die.toNat ++ [b] ∧
      b.addr = addr.toNat / 4096 * 4096 ∧ b.frame = f ∧
      (s.ad.sorted = some (s.steep.k + 1) → (s.steep.k + 1) ∈ b.pins) ∧
      b.data = (xtsRead (dSlot (descOf s didx.toNat)) (addr.toNat / 4096 * 4096) 4096
        (verifyBlock env (addr.toNat / 4096 * 4096 / 4096) s).2).1 ∧ t.mem = s.mem ∧ t.out = s.out) ∧
  (∀ (s : State) (die : BitVec 2) (didx : BitVec 16) (addr : BitVec 48) (env : ReadEnv),
    s.ad.prefetch.contains (die, didx, addr.toNat / 4096 * 4096) = true → isSettled s didx.toNat = true →
    pairOk s (dSlot (descOf s didx.toNat)) (dKgen (descOf s didx.toNat)) = true →
    caddyHit s die.toNat (descOf s didx.toNat) (addr.toNat / 4096 * 4096) = none →
    (verifyBlock env (addr.toNat / 4096 * 4096 / 4096) s).1 = true →
    ∃ t, exec (.caddyFill die didx addr env) s = .next t ∧ (∀ d, ∀ b ∈ caddyOf t d, b ∈ caddyOf s d) ∧
      t.prog.cores = s.prog.cores ∧ t.cust = s.cust) ∧
  (∀ s : State, s.ad.sorted = some (s.steep.k + 1) → s.ad.published = false →
    ∃ t, exec .tablePublish s = .next t ∧ t.ad.published = true ∧ t.time = waited s (nextB s - 4000) ∧ t.out = s.out ∧
      t.front.cmds = s.front.cmds ∧
      ∀ r ∈ t.ad.requests, r.steep = some (s.steep.k + 1) → r.copied = false →
        r.copyFailed = true ∧ r.ending.isSome = true) ∧
  (∀ (s : State) (core : BitVec 7), boundariesKnown s = true → (coreOf s core.toNat).fetch = .done →
    (coreOf s core.toNat).prefilling = false →
    ∃ t, exec (.infuserPrefill core) s = .next t ∧ (coreOf t core.toNat).prefilling = true ∧
      (coreOf t core.toNat).rings = [] ∧ (coreOf t core.toNat).ringPos = [] ∧
      (coreOf t core.toNat).image = (coreOf s core.toNat).image ∧ t.time = waited s (nextB s - 2000) ∧
      t.mem = s.mem ∧ t.out = s.out) ∧
  (∀ (s u : State) (core : BitVec 7) (slot : BitVec 2) (ringB : Bool) (env : ReadEnv) (b : Binding) (i : Nat) (img : Image)
      (r : SliceRef), s.inv = true → u = releaseSlices core.toNat (advanceCore core.toNat (bringUpsets core.toNat env s)) →
    infuserProgram u core.toNat = some (b, i, img) →
    (ringList u core.toNat b i img (coreOf u core.toNat).prefilling ringB slot.toNat)[
      sget 0 (ringKey slot.toNat ringB) (coreOf u core.toNat).ringPos]? = some r →
    isSettled u r.didx = true → flipAhead u (coreOf u core.toNat).prefilling r.didx = false →
    (sget [] (ringKey slot.toNat ringB) (coreOf u core.toNat).rings).foldl (fun a x => a + x.size) 0 + r.len ≤
      (ringOf (slotCtlAt u b i slot.toNat) ringB).2 →
    ∃ t xs x, exec (.infuserSlice core slot ringB env) s = .next t ∧
      sget [] (ringKey slot.toNat ringB) (coreOf t core.toNat).rings = xs ++ [x] ∧
      xs.length = (sget [] (ringKey slot.toNat ringB) (coreOf u core.toNat).rings).length ∧
      x.op = r.op ∧ x.seg = r.seg ∧ x.scale = r.scale ∧ x.size = r.len ∧
      sget 0 (ringKey slot.toNat ringB) (coreOf t core.toNat).ringPos =
        sget 0 (ringKey slot.toNat ringB) (coreOf u core.toNat).ringPos + 1 ∧
      ((coreOf u core.toNat).prefilling = true →
        xs = sget [] (ringKey slot.toNat ringB) (coreOf u core.toNat).rings ∧
        x.at_ = max u.clock (coreOf u core.toNat).infuserFree + (r.len + 255) / 256 ∧
        (coreOf t core.toNat).infuserFree = x.at_) ∧
      (pairOk u (dSlot (descOf u r.didx)) (dKgen (descOf u r.didx)) = false →
        (∀ v ∈ x.vals, v = 0) ∧ t.ad.staleServed = u.ad.staleServed + (blocksOf (r.addr, r.len)).length ∧ OnlyTile s t core.toNat))

/-- INPUT_COPY of a request admitted to the next steep, before the guard, under a current key pair, whose length fits its rows, leaves the plaintext, where every unit opens, padded with zeros, at the rows of its input area under the tenant's slot, and marks the request copied; a stale key pair or a stale unit ends it with KEY_REVOKED, a unit that does not open with CHECKSUM, a length beyond its rows with FORMAT, and no byte of memory changes; from the guard on nothing is copied. OUTPUT_COPY of a due request writes the sealed results, none for a length of 0, to the host, and its command completes with its status; under a stale key pair it completes with KEY_REVOKED, with no key left to seal with CHECKSUM, and after its partition's generation has moved with its status, and nothing is written. KV_COPY_ON_WRITE takes one copy off the list and counts it, and with no filled row changes no memory (spec/14_host_partitions_queues.md R413, spec/14_host_partitions_queues.md R414, spec/14_host_partitions_queues.md R415, spec/07_attention_and_kv_cache.md R213). -/
def Obligations.CopiesOfInputsOutputsAndBuffers : Prop :=
  (∀ (s u v : State) (queue : BitVec 13) (tag : BitVec 16) (host : HostMem) (r : Request) (res : Bool × Bool × List Byte),
    (s.ad.requests.find? fun r => r.queue = queue && r.tag = tag && r.steep = some (s.steep.k + 1) && !r.copied &&
      !r.copyFailed) = some r →
    u = untilTime (s.steep.b + 20000) s → ahead (guardTime u) u.time ≠ 0 →
    r.len ≤ r.rows * rowBytes s false r → pairOk s r.slot.toNat r.gen = true →
    gcmFetch host r.input r.len r.slot.toNat r.gen u = (res, v) →
    ∃ t, exec (.inputCopy queue tag host) s = .next t ∧ t.out = s.out ∧ t.front.cmds = s.front.cmds ∧
      if res.1 || res.2.1 then t.mem = s.mem ∧ ∃ x ∈ t.ad.requests, x.cmd = r.cmd ∧ x.copyFailed = true ∧
        (r.ending = none → x.ending = some (if res.1 then 0x05 else 0x07, 0))
      else t.mem = (xtsWriteFor r.part.toNat r.slot.toNat true (rowAddr s false r r.row0)
          (res.2.2 ++ List.replicate (r.rows * rowBytes s false r - res.2.2.length) 0) v).mem ∧
        ∃ x ∈ t.ad.requests, x.cmd = r.cmd ∧ x.copied = true ∧ x.tag = tag) ∧
  (∀ (s u : State) (queue : BitVec 13) (tag : BitVec 16) (host : HostMem) (r : Request),
    (s.ad.requests.find? fun r => r.queue = queue && r.tag = tag && r.steep = some (s.steep.k + 1) && !r.copied &&
      !r.copyFailed) = some r →
    u = untilTime (s.steep.b + 20000) s →
    (ahead (guardTime u) u.time = 0 → exec (.inputCopy queue tag host) s = .next u) ∧
    (ahead (guardTime u) u.time ≠ 0 →
      r.rows * rowBytes s false r < r.len ∨ pairOk s r.slot.toNat r.gen = false →
      ∃ t, exec (.inputCopy queue tag host) s = .next t ∧ t.mem = s.mem ∧
        ∃ x ∈ t.ad.requests, x.cmd = r.cmd ∧ x.copyFailed = true ∧ x.copied = r.copied ∧
          (r.ending = none → x.ending = some (if r.rows * rowBytes s false r < r.len then 0x09 else 0x05, 0)))) ∧
  (∀ (s u v : State) (queue : BitVec 13) (tag : BitVec 16) (r : Request) (c : Cmd) (bytes : List Byte)
      (units : Option (List Byte)) (st info : Nat),
    (s.ad.requests.find? fun r => r.queue = queue && r.tag = tag && r.due && (cmdOf s r.cmd).isSome) = some r →
    cmdOf s r.cmd = some c → st = ((r.ending.map fun e => e.1.toNat).getD 0) →
    info = r.resBytes + (if isStepGroup s r.part.toNat r.grp.toNat then r.step.toNat * 2 ^ 32 else 0) →
    xtsReadAt r.slot.toNat (rowAddr s true r r.row0) r.resBytes s = (bytes, u) →
    gcmSeal 0x3FE r.slot.toNat (bytes ++ List.replicate ((64 - r.resBytes % 64) % 64) 0) u = (units, v) →
    ∃ t, exec (.outputCopy queue tag) s = .next t ∧
      ((partOf s r.part.toNat).logState = 0 → t.mem = s.mem) ∧
      if c.pgen ≠ (partOf s r.part.toNat).gen then Completed s t r.cmd st 0 info ∧ t.out = s.out
      else if pairOk s r.slot.toNat r.gen = false then Completed s t r.cmd 0x05 0 0 ∧ t.out = s.out
      else match units with
        | none => Completed s t r.cmd 0x07 0 0 ∧ t.out = s.out
        | some bs => Completed s t r.cmd st 0 info ∧
          t.out = s.out ++ (if r.resBytes = 0 then []
            else [.hostWrite (BitVec.ofNat 6 r.part.toNat) r.result bs])) ∧
  (∀ (s : State) (part : BitVec 6) (seq : BitVec 20) (e : Nat × Nat × Nat),
    ((kvOf s part.toNat).copies.find? fun e => e.1 = seq.toNat) = some e →
    ∃ t, exec (.kvCopyOnWrite part seq) s = .next t ∧ t.prog.kvCopies = s.prog.kvCopies + 1 ∧
      ((seqOf s part.toNat seq.toNat).length % 16 = 0 → t.mem = s.mem ∧
        (s.inv = true → (kvOf t part.toNat).copies = (kvOf s part.toNat).copies.erase e)) ∧
      t.time = waited s (s.steep.b + 20000) ∧ t.out = s.out)

/-! ### Host, partitions and queues (spec/14) -/

/-- DOORBELL of an ACTIVE queue of the function sets the tail to a value below the ring size, or the completion head to a value within what was written, and any other value puts the queue into ERROR; one of a DISABLED queue or of a queue that the function does not hold is dropped and counted. COMMAND_FETCH takes the command that the host answers from the ring of the next queue: the head moves on by one, and the command is accepted where it passes the checks of R409, and completes at once with the check's status and number where it fails one; an answer with an error puts the queue into ERROR. QUEUE_CREATE makes a DISABLED queue of the partition ACTIVE with the given rings, and refuses another queue and weight 0; QUEUE_DELETE of a queue with nothing accepted and nothing to complete makes it DISABLED, and waits where there is something; the admin queue is refused. SUBMIT that passes the admission checks becomes a candidate request of its queue's row group, and completes with the status of the check that it fails. COMPLETION_WRITE of a queue with room writes the 32-byte completion with the phase bit at the completion tail, which moves on by one; where the host answers that write with an error, the queue enters ERROR with cause 4; a completion of an earlier generation is discarded and counted (spec/14_host_partitions_queues.md R405, spec/14_host_partitions_queues.md R406, spec/14_host_partitions_queues.md R407, spec/14_host_partitions_queues.md R409, spec/14_host_partitions_queues.md R410). -/
def Obligations.QueuesFetchAndComplete : Prop :=
  (∀ (s : State) (fn : BitVec 6) (q : BitVec 13) (v : BitVec 32) (k : Queue), (partOf s fn.toNat).state ≠ .absent →
    k = queueOf s q.toNat →
    (holdsQueue s fn.toNat q.toNat = true → k.state = .active →
      (∃ t, exec (.doorbell fn q false v) s = .next t ∧ t.mem = s.mem ∧ t.out = s.out ∧
        if v.toNat < k.sqSize then queueOf t q.toNat = { k with tail := v.toNat } ∧ t.front.parts = s.front.parts
        else (queueOf t q.toNat).state = .error) ∧
      (∃ t, exec (.doorbell fn q true v) s = .next t ∧ t.mem = s.mem ∧ t.out = s.out ∧
        if v.toNat < k.cqSize ∧ (v.toNat + k.cqSize - k.cqHead) % k.cqSize ≤ (k.cqTail + k.cqSize - k.cqHead) % k.cqSize
        then queueOf t q.toNat = { k with cqHead := v.toNat } ∧ t.front.parts = s.front.parts
        else (queueOf t q.toNat).state = .error)) ∧
    (holdsQueue s fn.toNat q.toNat = false ∨ k.state = .disabled → ∀ head, ∃ t, exec (.doorbell fn q head v) s = .next t ∧
      t.front = { s.front with doorbellsDropped := s.front.doorbellsDropped + 1 } ∧ t.mem = s.mem)) ∧
  (∀ (s : State) (w : BitVec 512) (q p : Nat), s.boot.shutdown = false → s.boot.pcieWidth ≠ 0 →
    nextQueue s = some q → queueOwner s q = some p → s.inv = true →
    (frontCheck s p q w = none → ∃ t c, exec (.commandFetch (some w)) s = .next t ∧ t.front.cmds = s.front.cmds ++ [c] ∧
      c.word = w ∧ c.id = s.front.nextId ∧ c.queue = BitVec.ofNat 13 q ∧ c.stamp = s.time ∧ c.taken = false ∧
      t.front.nextId = s.front.nextId + 1 ∧
      (queueOf t q).head = ((queueOf s q).head + 1) % (queueOf s q).sqSize ∧ t.mem = s.mem ∧ t.out = s.out) ∧
    (∀ order status, frontCheck s p q w = some (order, status) →
      ∃ t r, exec (.commandFetch (some w)) s = .next t ∧ cmdOf t s.front.nextId = none ∧
        t.front.ready = s.front.ready ++ [r] ∧ r.cmd = s.front.nextId ∧ r.status = BitVec.ofNat 8 status ∧
        r.detail = BitVec.ofNat 8 order ∧ t.mem = s.mem ∧ t.out = s.out) ∧
    (∃ t, exec (.commandFetch none) s = .next t ∧ (queueOf t q).state = .error ∧ t.front.cmds = s.front.cmds ∧
      (partOf t p).qerr = BitVec.ofNat 64 (q + 2 ^ 16 * 4 + 2 ^ 32 * (s.steep.k.toNat % 2 ^ 32)))) ∧
  (∀ (s : State) (c : Cmd) (q : Nat), headCmd s 0x10 = some c → q = bits (cP0 c.word) 0 13 →
    ∃ t, exec .queueCreate s = .next t ∧ t.mem = s.mem ∧ t.out = s.out ∧
      if holdsQueue s c.part.toNat q = false ∨ (queueOf s q).state ≠ .disabled then Completed s t c.id 0x0B 0 0
      else if bits (cP1 c.word) 32 8 = 0 then Completed s t c.id 0x09 0 0
      else if cAddr0 c.word % 4096 ≠ 0 ∨ cAddr1 c.word % 4096 ≠ 0 ∨ bits (cP1 c.word) 0 16 = 0 ∨
          bits (cP1 c.word) 16 16 = 0 then Completed s t c.id 0x09 0 0 ∧ (queueOf t q).state = .error
      else Completed s t c.id 0 0 0 ∧ (queueOf t q).state = .active ∧
        (queueOf t q).sq = cAddr0 c.word ∧ (queueOf t q).cq = cAddr1 c.word ∧ (queueOf t q).phase = true ∧
        (queueOf t q).sqSize = bits (cP1 c.word) 0 16 + 1 ∧ (queueOf t q).cqSize = bits (cP1 c.word) 16 16 + 1) ∧
  (∀ (s : State) (c : Cmd) (q : Nat), s.inv = true → headCmd s 0x11 = some c → q = bits (cP0 c.word) 0 13 →
    ∃ t, exec .queueDelete s = .next t ∧ (∀ i, i ≠ q → queueOf t i = queueOf s i) ∧ t.mem = s.mem ∧ t.out = s.out ∧
      if holdsQueue s c.part.toNat q = false ∨ q = (queueRange s c.part.toNat).1 ∨ (queueOf s q).state = .disabled ∨
          (queueOf s q).deleting ≠ none then Completed s t c.id 0x0B 0 0 ∧ queueOf t q = queueOf s q
      else if (∀ x ∈ s.front.cmds, x.queue.toNat ≠ q) ∧ (∀ x ∈ s.front.ready, x.queue.toNat ≠ q) then
        Completed s t c.id 0 0 0 ∧ (queueOf t q).state = .disabled
      else TakenUp s t c.id ∧ queueOf t q = { queueOf s q with deleting := some c.id }) ∧
  (∀ (s : State) (c : Cmd), (s.front.cmds.find? fun c => !c.taken && cOpcode c.word = 1) = some c →
    ∃ t, exec .submit s = .next t ∧ t.mem = s.mem ∧ t.out = s.out ∧
      if (requestOf s c).job = 3 ∨ capacity s c.part.toNat (requestOf s c).grp.toNat < (requestOf s c).rows ∨
          (requestOf s c).rows * rowBytes s true (requestOf s c) < (requestOf s c).resBytes then
        Completed s t c.id 0x09 1 0 ∧ t.ad = s.ad
      else match admitCheck s false (requestOf s c) with
        | some e => Completed s t c.id e.1 e.2 0 ∧ t.ad = s.ad
        | none => t.ad.requests = s.ad.requests ++ [requestOf s c] ∧
          (requestOf s c).rows = bits (cP0 c.word) 0 12 + 1 ∧ (requestOf s c).adid = cAdid c.word ∧
          (requestOf s c).grp = (queueOf s c.queue.toNat).group ∧ (requestOf s c).stamp = c.stamp ∧ TakenUp s t c.id) ∧
  (∀ (s : State) (queue : BitVec 13) (failed : Bool) (r : Compl) (k : Queue),
    (s.front.ready.find? fun r => r.queue = queue && r.copied) = some r → k = queueOf s queue.toNat → k.deleting = none →
    (r.pgen = (partOf s r.part.toNat).gen → k.state ≠ .disabled → (k.cqTail + 1) % k.cqSize ≠ k.cqHead →
      s.boot.pcieWidth ≠ 0 → failed = false →
      ∃ t, exec (.completionWrite ⟨queue, failed⟩) s = .next t ∧
        Out.hostWrite (BitVec.ofNat 6 r.part.toNat) (k.cq + 32 * k.cqTail)
          (wordBytes (complWord r s.time k.phase)) ∈ t.out ∧
        (queueOf t queue.toNat).cqTail = (k.cqTail + 1) % k.cqSize ∧
        (queueOf t queue.toNat).phase = (if k.cqTail + 1 = k.cqSize then !k.phase else k.phase) ∧
        t.front.ready = s.front.ready.erase r) ∧
    (r.pgen = (partOf s r.part.toNat).gen → k.state ≠ .disabled → (k.cqTail + 1) % k.cqSize ≠ k.cqHead →
      s.boot.pcieWidth ≠ 0 → failed = true →
      ∃ t, exec (.completionWrite ⟨queue, failed⟩) s = .next t ∧ t.out = s.out ∧
        (queueOf t queue.toNat) = { k with state := .error } ∧ t.front.ready = s.front.ready.erase r ∧
        (r.part.toNat < 64 → fld (partOf t r.part.toNat).qerr 16 8 = 4 ∧
          fld (partOf t r.part.toNat).qerr 0 13 = queue)) ∧
    (r.pgen = (partOf s r.part.toNat).gen →
      k.state = .disabled ∨ (k.cqTail + 1) % k.cqSize = k.cqHead ∨ s.boot.pcieWidth = 0 →
      exec (.completionWrite ⟨queue, failed⟩) s = .next s) ∧
    (r.pgen ≠ (partOf s r.part.toNat).gen → ∃ t, exec (.completionWrite ⟨queue, failed⟩) s = .next t ∧
      t.front.discarded = s.front.discarded + 1 ∧ t.front.ready = s.front.ready.erase r ∧ t.mem = s.mem ∧ t.out = s.out))

/-- FUNCTION_ENABLE of an IDLE function with aligned admin rings of two entries or more makes the partition RUNNING and its admin queue ACTIVE; with other rings it stays IDLE and QERR says so. FUNCTION_DISABLE, CTRL_RESET, PARTITION_RESET_CMD and an FLR of a virtual function each request the reset of a RUNNING or IDLE partition (of an IDLE one: log entry 23): it is RESETTING from that clock, and a TDI in RUN goes to ERROR; every other partition is as before, and a partition that is ABSENT or RESETTING stays so. An FLR of the physical function and VF_ENABLE_CLEAR clear VF Enable and request the reset of every RUNNING VF; VF_ENABLE_SET makes every enabled ABSENT one IDLE. PARTITION_RESET_EFFECT, at a steep boundary at least 20 us after the request at which no TRAIN binding of the partition is inside a step, takes the partition's generation one higher, disables every queue of its range, and leaves its cores idle with tile memory zero; at any other time it changes nothing (spec/14_host_partitions_queues.md R397, spec/14_host_partitions_queues.md R400, spec/14_host_partitions_queues.md R417, spec/14_host_partitions_queues.md R418). -/
def Obligations.PartitionsEnableAndReset : Prop :=
  (∀ (s : State) (fn : BitVec 6) (q : Partition), s.inv = true → q = partOf s fn.toNat → q.state = .idle →
    ∃ t, exec (.functionEnable fn) s = .next t ∧ (partOf t fn.toNat).enable = true ∧
      (∀ i, i ≠ fn.toNat → partOf t i = partOf s i) ∧ Quiet s t ∧ t.out = s.out ∧
      if q.asq.toNat % 4096 = 0 ∧ q.acq.toNat % 4096 = 0 ∧ 1 ≤ bits q.asize.toNat 0 16 ∧ 1 ≤ bits q.asize.toNat 16 16 then
        (partOf t fn.toNat).state = .running ∧ (partOf t fn.toNat).ready = true ∧
        (queueOf t (queueRange s fn.toNat).1).state = .active ∧
        (queueOf t (queueRange s fn.toNat).1).sqSize = bits q.asize.toNat 0 16 + 1 ∧
        (queueOf t (queueRange s fn.toNat).1).sq = q.asq.toNat
      else (partOf t fn.toNat).state = .idle ∧ t.front.queues = s.front.queues ∧ (partOf t fn.toNat).qerr =
        BitVec.ofNat 64 ((queueRange s fn.toNat).1 + 2 ^ 16 * 1 + 2 ^ 32 * (s.steep.k.toNat % 2 ^ 32))) ∧
  (∀ (s : State) (fn : BitVec 6), s.inv = true →
    ((partOf s fn.toNat).state = .running ∨ (partOf s fn.toNat).state = .idle →
      ∃ t, exec (.functionDisable fn) s = .next t ∧ exec (.ctrlReset fn) s = .next t ∧
        exec (.partitionResetCmd fn) s = .next t ∧ (fn ≠ 0 → exec (.flr fn) s = .next t) ∧
        (partOf t fn.toNat).state = .resetting ∧ (partOf t fn.toNat).resetAt = some s.clock ∧
        (partOf t fn.toNat).gen = (partOf s fn.toNat).gen ∧
        ((partOf s fn.toNat).tdi = .run → (partOf t fn.toNat).tdi = .error) ∧
        (∀ i, i ≠ fn.toNat → partOf t i = partOf s i) ∧ t.front.queues = s.front.queues ∧ Quiet s t ∧ t.out = s.out) ∧
    ((partOf s fn.toNat).state = .absent ∨ (partOf s fn.toNat).state = .resetting →
      exec (.functionDisable fn) s = .next s ∧ exec (.ctrlReset fn) s = .next s ∧
        exec (.partitionResetCmd fn) s = .next s ∧ (fn ≠ 0 → exec (.flr fn) s = .next s))) ∧
  (∀ s : State, s.inv = true →
    (∃ t, exec (.flr 0) s = .next t ∧ t.boot.vfEnable = false ∧
      (∀ p, p < 64 → (partOf s p).state = .running → (partOf t p).state = .resetting) ∧ t.mem = s.mem ∧ t.out = s.out) ∧
    (s.boot.vfEnable = true → ∃ t, exec .vfEnableClear s = .next t ∧ t.boot.vfEnable = false ∧
      partOf t 0 = partOf s 0 ∧
      (∀ p, 1 ≤ p → p < 64 → (partOf s p).state = .running → (partOf t p).state = .resetting) ∧
      t.mem = s.mem ∧ t.out = s.out) ∧
    ((partOf s 0).state ≠ .absent → ∃ t, exec .vfEnableSet s = .next t ∧ t.boot.vfEnable = true ∧
      partOf t 0 = partOf s 0 ∧
      (∀ p, 1 ≤ p → p < 64 → (partOf s p).state = .absent → partEnabled s p = true → (partOf t p).state = .idle) ∧
      t.mem = s.mem ∧ t.out = s.out)) ∧
  (∀ (s : State) (part : BitVec 6) (c : Nat), s.inv = true → (partOf s part.toNat).resetAt = some c →
    (atBoundary s = true → c + 40000 ≤ s.clock → s.steep.sidx = 0 ∨ hasTrain s part.toNat = false →
      ∃ t, exec (.partitionResetEffect part) s = .next t ∧
        (partOf t part.toNat).gen = (partOf s part.toNat).gen + 1 ∧ (partOf t part.toNat).resetAt = none ∧
        (partOf t part.toNat).enable = false ∧
        (∀ q, holdsQueue s part.toNat q = true → (queueOf t q).state = .disabled) ∧
        (∀ q, holdsQueue s part.toNat q = false → queueOf t q = queueOf s q) ∧
        (∀ g, g < 128 → holdsCore s part.toNat g = true →
          (coreOf t g).binding = {} ∧ (coreOf t g).image = none ∧ (coreOf t g).running = [] ∧
          ∀ a, tileBase g ≤ a → a < tileBase g + 0x400000 → memByte t.mem a = 0) ∧
        (∀ g, g < 128 → holdsCore s part.toNat g = false → coreOf t g = coreOf s g) ∧
        t.cust = s.cust ∧ t.hbm = s.hbm ∧ t.dict = s.dict ∧ t.out = s.out) ∧
    (atBoundary s = false ∨ s.clock < c + 40000 ∨ (s.steep.sidx ≠ 0 ∧ hasTrain s part.toNat = true) →
      exec (.partitionResetEffect part) s = .next s))

/-- A virtual function that exists moves from CONFIG_UNLOCKED to CONFIG_LOCKED, from there to RUN, and from any state back to CONFIG_UNLOCKED; in RUN a change of its BAR or memory space makes it ERROR; every other partition is as before. INTERFACE_REPORT puts the function's report on the interface and changes nothing else. TLP_RECEIVE of an ABSENT partition does nothing; in RUN it drops and counts a TLP outside the IDE stream or without the T bit; of any other TLP an aligned read of 4 or 8 bytes of BAR0 is answered with the bytes that stand there, zeros in the counter window of a partition without counter access. DOE_CUSTODY_EXCHANGE in READY answers the 32-byte opening with the certificates, the KEM certificate and a nonce, and a message of 1,088 bytes with a signature, the IDE key being set from the exchange's key material. PCIE_LINK_CHANGE sets the trained rate and width (spec/14_host_partitions_queues.md R392, spec/14_host_partitions_queues.md R394, spec/14_host_partitions_queues.md R395, spec/13_custody_and_security.md R374). -/
def Obligations.InterfacesLockStartAndStop : Prop :=
  (∀ (s : State) (fn : BitVec 6), s.inv = true → isTdi s fn.toNat = true →
    ((partOf s fn.toNat).tdi = .unlocked → ∃ t, exec (.lockInterface fn) s = .next t ∧
      partOf t fn.toNat = { partOf s fn.toNat with tdi := .locked } ∧
      t = { s with front := { s.front with parts := t.front.parts } } ∧
      ∀ i, i ≠ fn.toNat → partOf t i = partOf s i) ∧
    ((partOf s fn.toNat).tdi = .locked → ∃ t, exec (.startInterface fn) s = .next t ∧
      partOf t fn.toNat = { partOf s fn.toNat with tdi := .run } ∧
      t = { s with front := { s.front with parts := t.front.parts } } ∧
      ∀ i, i ≠ fn.toNat → partOf t i = partOf s i) ∧
    (∃ t, exec (.stopInterface fn) s = .next t ∧
      partOf t fn.toNat = { partOf s fn.toNat with tdi := .unlocked } ∧
      t = { s with front := { s.front with parts := t.front.parts } } ∧
      ∀ i, i ≠ fn.toNat → partOf t i = partOf s i) ∧
    ((partOf s fn.toNat).tdi = .run → ∃ t, exec (.vfBarOrMemorySpaceChange fn) s = .next t ∧
      partOf t fn.toNat = { partOf s fn.toNat with tdi := .error } ∧
      t = { s with front := { s.front with parts := t.front.parts } } ∧
      ∀ i, i ≠ fn.toNat → partOf t i = partOf s i) ∧
    (∃ t bs, exec (.interfaceReport fn) s = .next t ∧ t = { s with out := s.out ++ [.report fn bs] })) ∧
  (∀ (s : State) (fn : BitVec 6) (ide : Bool) (tlp : Tlp),
    ((partOf s fn.toNat).state = .absent → exec (.tlpReceive fn ide tlp) s = .next s) ∧
    ((partOf s fn.toNat).state ≠ .absent → ∃ t, exec (.tlpReceive fn ide tlp) s = .next t ∧
      t = { s with obs := t.obs, out := t.out, front := { s.front with tlpDropped := t.front.tlpDropped } } ∧
      if (partOf s fn.toNat).tdi = .run ∧ (ide && (partOf s fn.toNat).ide.isSome && tlp.tBit) = false then
        t.front.tlpDropped = s.front.tlpDropped + 1 ∧ t.out = s.out
      else t.front.tlpDropped = s.front.tlpDropped ∧
        (tlp.read = none → t.out = s.out) ∧
        ∀ o n, tlp.read = some (o, n) →
          ((n = 4 ∨ n = 8) ∧ o.toNat % n = 0 → ∃ bs, t.out = s.out ++ [.readCompletion fn o bs] ∧
            bs = barRead (count 0xB0 0x040 1 s) fn.toNat o.toNat n ∧
            (0x40000 ≤ o.toNat → o.toNat < 0x50000 → cfg s 0x3015 (fn.toNat + 1) ≠ 1 → bs = List.replicate n 0)) ∧
          (¬((n = 4 ∨ n = 8) ∧ o.toNat % n = 0) → t.out = s.out))) ∧
  (∀ (s : State) (fn : BitVec 6) (m : List Byte), s.inv = true → fnExists s fn.toNat = true → s.boot.railHx = true →
    s.cust.state = .ready →
    (m.length = 32 → ∃ t a, exec (.doeCustodyExchange fn m) s = .next t ∧ t.out = s.out ++ [.doe fn a] ∧
      (partOf t fn.toNat).doe = m ++ a ∧ t.free = s.free + 1 ∧ t.cust = s.cust ∧ t.mem = s.mem) ∧
    (1088 ≤ m.length → (partOf s fn.toNat).doe ≠ [] → ∃ t a, exec (.doeCustodyExchange fn m) s = .next t ∧
      t.out = s.out ++ [.doe fn a] ∧ (partOf t fn.toNat).doe = [] ∧
      (partOf t fn.toNat).ide = some (fld (okmOf (Config.mlKemDecap s.cust.kem (m.take 1088))
        ((partOf s fn.toNat).doe ++ m.take 1088)) 768 256) ∧ t.cust = s.cust ∧ t.mem = s.mem)) ∧
  (∀ (s : State) (rate width : Nat), width ≤ 16 → rate ≤ 64 → (partOf s 0).state ≠ .absent →
    ∃ t, exec (.pcieLinkChange rate width) s = .next t ∧ t.boot.pcieWidth = width ∧
      (width ≠ 0 → t.boot.pcieRate = rate) ∧ (width = 0 → t.boot.pcieRate = 0) ∧
      t = { s with boot := { s.boot with pcieRate := t.boot.pcieRate, pcieWidth := t.boot.pcieWidth } })

/-- LOG_CONTROL with a well-formed parameter block, or with 0, leaves a start or a stop pending, and LOG_SWAP of a running log a swap; at LOG_BOUNDARY, at a steep boundary, a pending start puts the log in force on bitmaps 0, a pending stop ends it, and else a pending swap changes between the pairs of bitmaps; away from a boundary it changes nothing. Nothing but the partitions' logs changes (spec/14_host_partitions_queues.md R419, spec/14_host_partitions_queues.md R420). -/
def Obligations.DirtyLogsStartSwapAndStop : Prop :=
  (∀ (s : State) (part : BitVec 6) (v : BitVec 512), s.inv = true →
    (v = 0 → ∃ t, exec (.logControl part v) s = .next t ∧ (partOf t part.toNat).logNext = some none ∧
      t = { s with front := { s.front with parts := t.front.parts } } ∧ ∀ i, i ≠ part.toNat → partOf t i = partOf s i) ∧
    (v ≠ 0 → logParamsOk s v = true → ∃ t, exec (.logControl part v) s = .next t ∧
      (partOf t part.toNat).logNext = some (some v) ∧
      t = { s with front := { s.front with parts := t.front.parts } } ∧ ∀ i, i ≠ part.toNat → partOf t i = partOf s i) ∧
    (v ≠ 0 → logParamsOk s v = false → exec (.logControl part v) s = .next s)) ∧
  (∀ (s : State) (part : BitVec 6), s.inv = true →
    ∃ t, exec (.logSwap part) s = .next t ∧ (partOf t part.toNat).logSwap = decide ((partOf s part.toNat).logState ≠ 0) ∧
      t = { s with front := { s.front with parts := t.front.parts } } ∧ ∀ i, i ≠ part.toNat → partOf t i = partOf s i) ∧
  (∀ s : State, s.inv = true →
    (atBoundary s = false → exec .logBoundary s = .next s) ∧
    (atBoundary s = true → ∃ t, exec .logBoundary s = .next t ∧ t = { s with front := { s.front with parts := t.front.parts } } ∧
      ∀ p, (∀ v, (partOf s p).logNext = some (some v) → (partOf t p).logState = 1 ∧ (partOf t p).logParams = v ∧
          (partOf t p).logNext = none) ∧
        ((partOf s p).logNext = some none → (partOf t p).logState = 0 ∧ (partOf t p).logNext = none) ∧
        ((partOf s p).logNext = none → (partOf s p).logSwap = true →
          (partOf t p).logState = (if (partOf s p).logState = 1 then 2 else 1) ∧ (partOf t p).logSwap = false) ∧
        ((partOf s p).logNext = none → (partOf s p).logSwap = false → partOf t p = partOf s p)))

/-- ADAPTER_CREATE whose image passes every check enters it, FROZEN, at the lowest free entry (log entry 2), with the creating partition, and completes with success and the entry number; every other descriptor is as before; the first check that fails gives the status, and no descriptor changes. ADAPTER_READ reads the module tables and writes the descriptor to the host, unless both copies of its block fail, which stops the module. ADAPTER_STATE of an allowed move at least 20 us ahead is pending until its boundary, in place of one that was pending, whose command completes; a move that Table AD-4 does not have completes with NOT_PERMITTED, one too near with TIMEOUT. ADAPTER_STATE_EFFECT of a due move sets the state, clears the reason, ends the pending entry and completes the command; a move to TRAINING also enters this module's shards, or ends with FORMAT where the shard map fails its checks and with QUOTA beyond the shard quota. ADAPTER_DESTROY waits; ADAPTER_DESTROY_FREE, with no admitted row naming the adapter, frees the entry, drops its shards and completes the command; a pending move ends with ADAPTER_INVALID. An adapter that the partition has not created completes each command with ADAPTER_INVALID (spec/06_adapters.md R170, spec/06_adapters.md R172, spec/06_adapters.md R176, spec/06_adapters.md R177, spec/10_hbm_memory.md R298, spec/14_host_partitions_queues.md R500). -/
def Obligations.AdaptersAreCreatedReadMovedAndDestroyed : Prop :=
  (∀ (s : State) (host : HostMem) (c : Cmd), s.inv = true → headCmd s 0x30 = some c →
    (hostRead host (cAddr0 c.word) 128 = none → ∃ t, exec (.adapterCreate host) s = .next t ∧
      Completed s t c.id 0x07 0 0 ∧ t.ad = s.ad ∧ t.mem = s.mem) ∧
    (∀ (bs : List Byte) (d : BitVec 1024) (i : Nat), hostRead host (cAddr0 c.word) 128 = some bs →
      d = BitVec.ofNat 1024 (leNat bs) → i = firstFree 0 s.ad.descs →
      ∃ t, exec (.adapterCreate host) s = .next t ∧
        t = { s with front := { s.front with cmds := t.front.cmds, ready := t.front.ready },
                     ad := { s.ad with descs := t.ad.descs }, obs := t.obs } ∧
        if holdsSlot s c.part.toNat (dSlot d) = false then Completed s t c.id 0x0B 3 0 ∧ t.ad = s.ad
        else if dAdid d = 0 ∨ didxOf s (dAdid d) ≠ none ∨ (dLowRank d || dScale d || dExpert d) = false ∨
            dPage d false % 4096 ≠ 0 ∨ dPage d true % 4096 ≠ 0 ∨ d &&& ~~~descMask ≠ 0 then
          Completed s t c.id 0x09 0 0 ∧ t.ad = s.ad
        else if quotaFull s c.part.toNat 0 1 = true ∨ 65536 ≤ i then Completed s t c.id 0x04 0 0 ∧ t.ad = s.ad
        else if (slotOf s (dSlot d)).gen ≠ dKgen d then Completed s t c.id 0x05 0 0 ∧ t.ad = s.ad
        else if genKnown s (dBaseGen d) = false then Completed s t c.id 0x02 0 0 ∧ t.ad = s.ad
        else Completed s t c.id 0 0 i ∧ descOf t i = setFld (setFld d 24 2 1) 51 6 c.part.toNat ∧
          ∀ j, j ≠ i → descOf t j = descOf s j)) ∧
  (∀ (s u : State) (c : Cmd) (i : Nat), headCmd s 0x31 = some c →
    (if c.part.toNat = 0 then didxOf s (cAdid c.word) else didxFor s c.part.toNat (cAdid c.word)) = some i →
    u = readTable {} (descPlace i) s →
    (u.boot.stopped = none → ∃ t, exec .adapterRead s = .next t ∧ Completed s t c.id 0 0 0 ∧
      Out.hostWrite (BitVec.ofNat 6 c.part.toNat) (cAddr0 c.word) (wordBytes (descOf s i)) ∈ t.out ∧ t.ad = s.ad ∧
      t.cust = s.cust ∧ ((partOf s c.part.toNat).logState = 0 → t.mem = u.mem)) ∧
    (u.boot.stopped ≠ none → exec .adapterRead s = .next u)) ∧
  (∀ (s : State) (c : Cmd) (i : Nat) (new : BitVec 2), headCmd s 0x32 = some c →
    didxFor s c.part.toNat (cAdid c.word) = some i → new = BitVec.ofNat 2 (cP0 c.word) →
    (moveOk (dState (descOf s i)) new = true → boundariesKnown s = true → atLeast20us s (cSteep c.word) = true →
      ∃ t, exec .adapterState s = .next t ∧ sget none i t.ad.pending = some (new, cSteep c.word, c.id) ∧
        (sget none i s.ad.pending = none → TakenUp s t c.id) ∧
        (∀ p, sget none i s.ad.pending = some p → cmdOf s p.2.2 ≠ none → Completed s t p.2.2 0 0 1) ∧
        t = { s with front := { s.front with cmds := t.front.cmds, ready := t.front.ready },
                     ad := { s.ad with pending := t.ad.pending } }) ∧
    (moveOk (dState (descOf s i)) new = false ∨ boundariesKnown s = false →
      ∃ t, exec .adapterState s = .next t ∧ Completed s t c.id 0x0B 0 0 ∧ OnlyFront s t) ∧
    (moveOk (dState (descOf s i)) new = true → boundariesKnown s = true → atLeast20us s (cSteep c.word) = false →
      ∃ t, exec .adapterState s = .next t ∧ Completed s t c.id 0x0C 0 0 ∧ OnlyFront s t)) ∧
  (∀ (s : State) (didx : BitVec 16) (new : BitVec 2) (e : BitVec 64) (id : Nat) (d : BitVec 1024) (full : Bool),
    s.inv = true →
    sget none didx.toNat s.ad.pending = some (new, e, id) → d = descOf s didx.toNat → boundariesKnown s = true →
    s.steep.decision = 0 → moveDue d new e s.steep.k s.steep.sidx = true → cmdOf s id ≠ none →
    full = (quotaFull s (dPart d) 1 (shardsHere s didx.toNat).length ||
      decide (262144 < s.red.shards.length + (shardsHere s didx.toNat).length)) →
    ∃ t, exec (.adapterStateEffect didx) s = .next t ∧ sget none didx.toNat t.ad.pending = none ∧
      (∀ j, j ≠ didx.toNat → descOf t j = descOf s j) ∧ t.mem = s.mem ∧ t.cust = s.cust ∧
      (new ≠ adTraining ∨ isLocked s = false ∨ s.steep.sidx ≠ 0 → t.out = s.out ∧ t.steep = s.steep) ∧
      if new ≠ adTraining then
        Completed s t id 0 0 0 ∧ descOf t didx.toNat = setFld (setFld d 24 2 new.toNat) 26 2 0
      else if shardMapOk s d = false then Completed s t id 0x09 0 0 ∧ t.ad.descs = s.ad.descs ∧ t.red = s.red
      else if full = true then Completed s t id 0x04 0 0 ∧ t.ad.descs = s.ad.descs ∧ t.red = s.red
      else Completed s t id 0 0 0 ∧ descOf t didx.toNat = setFld (setFld d 24 2 2) 26 2 0 ∧
        t.red = (enterShards (shardsHere s didx.toNat) s).red) ∧
  (∀ (s : State) (c : Cmd) (i : Nat), headCmd s 0x33 = some c → didxFor s c.part.toNat (cAdid c.word) = some i →
    ∃ t, exec .adapterDestroy s = .next t ∧ TakenUp s t c.id ∧
      sget [] i t.ad.destroying = sget [] i s.ad.destroying ++ [c.id] ∧
      t = { s with front := { s.front with cmds := t.front.cmds },
                   ad := { s.ad with releases := s.ad.releases ++ [(cAdid c.word, none)],
                                     destroying := t.ad.destroying } }) ∧
  (∀ (s : State) (didx : BitVec 16), s.inv = true → sget [] didx.toNat s.ad.destroying ≠ [] →
    (adapterNamed s (dAdid (descOf s didx.toNat)) = false →
      ∃ t, exec (.adapterDestroyFree didx) s = .next t ∧ descOf t didx.toNat = 0 ∧
        (∀ j, j ≠ didx.toNat → descOf t j = descOf s j) ∧ sget none didx.toNat t.ad.pending = none ∧
        (∀ id ∈ sget [] didx.toNat s.ad.destroying, cmdOf s id ≠ none →
          (∀ p, sget none didx.toNat s.ad.pending = some p → p.2.2 ≠ id) → Completed s t id 0 0 0) ∧
        (∀ p, sget none didx.toNat s.ad.pending = some p → cmdOf s p.2.2 ≠ none → Completed s t p.2.2 0x0A 0 0) ∧
        (∀ e ∈ t.red.shards, ∀ x, e.2 = some x → x.didx ≠ didx) ∧ t.mem = s.mem ∧ t.out = s.out ∧ t.cust = s.cust) ∧
    (adapterNamed s (dAdid (descOf s didx.toNat)) = true → exec (.adapterDestroyFree didx) s = .next s)) ∧
  (∀ (s : State) (c : Cmd) (op : Nat) (x : Instr), headCmd s op = some c →
    ((op = 0x31 ∧ x = .adapterRead ∧ c.part ≠ 0) ∨ (op = 0x32 ∧ x = .adapterState) ∨ (op = 0x33 ∧ x = .adapterDestroy) ∨
      (op = 0x34 ∧ x = .adapterClaim) ∨ (op = 0x35 ∧ x = .adapterRelease)) →
    didxFor s c.part.toNat (cAdid c.word) = none →
    ∃ t, exec x s = .next t ∧ Completed s t c.id 0x0A 0 0 ∧ OnlyFront s t)

/-- ADAPTER_CLAIM for a layer of an adapter that has extra experts holds a claim stamped with the time, this module's SNA and the next claim sequence number, floods it, and waits for the commit that decides it. SLOT_CLAIM_PACKET from another module, with a sequence number not seen yet, is held and passed on; in turn, its number becomes the last one without a gap before it, and beyond a missing number it is kept aside; a copy already seen, or one of this module's own, changes nothing. ADAPTER_RELEASE of such a layer is noted for the next commit and completes. A claim or a release of any other layer completes with FORMAT. Nothing else changes (spec/06_adapters.md R195, spec/06_adapters.md R197, spec/14_host_partitions_queues.md R410). -/
def Obligations.ExpertSlotClaimsAndReleases : Prop :=
  (∀ (s : State) (c : Cmd) (i layer slot : Nat) (d : BitVec 1024), headCmd s 0x34 = some c →
    didxFor s c.part.toNat (cAdid c.word) = some i → layer = bits (cP0 c.word) 0 12 → slot = bits (cP0 c.word) 16 4 →
    d = descOf s i →
    (claimOk d layer = true → ∃ (t : State) (x : Claim), exec .adapterClaim s = .next t ∧ TakenUp s t c.id ∧
      x = { stamp := s.time, sna := s.fab.sna, seq := s.ad.claimSeq + 1, adid := cAdid c.word,
            layer := BitVec.ofNat 12 layer, slot := BitVec.ofNat 4 slot, keySlot := BitVec.ofNat 13 (dSlot d),
            kgen := dKgen d, share := dShare d, cmd := some c.id } ∧
      t = { s with front := { s.front with cmds := t.front.cmds },
                   ad := { s.ad with claims := s.ad.claims ++ [x], claimSeq := s.ad.claimSeq + 1 },
                   out := s.out ++ [.packet (.flood none)
                     (.slotClaim x.stamp x.sna x.seq x.adid x.layer x.slot x.keySlot x.kgen x.share)] }) ∧
    (claimOk d layer = false → ∃ t, exec .adapterClaim s = .next t ∧ Completed s t c.id 0x09 0 0 ∧ OnlyFront s t)) ∧
  (∀ (s : State) (stamp : BitVec 64) (sna : BitVec 16) (seq : BitVec 32) (adid : BitVec 24) (layer : BitVec 12)
      (slot : BitVec 4) (keySlot : BitVec 13) (kgen : BitVec 16) (share : Bool),
    (sna ≠ s.fab.sna → (sget 0 sna.toNat s.ad.lastClaim).toNat < seq.toNat → s.ad.ahead.contains (sna, seq) = false →
      ∃ t : State, exec (.slotClaimPacket stamp sna seq adid layer slot keySlot kgen share) s = .next t ∧
        (s.ad.ahead.contains (sna, 0) = false →
          ∀ j, j ≠ sna.toNat → sget 0 j t.ad.lastClaim = sget 0 j s.ad.lastClaim) ∧
        (s.ad.ahead = [] → seq = sget 0 sna.toNat s.ad.lastClaim + 1 →
          sget 0 sna.toNat t.ad.lastClaim = seq ∧ t.ad.ahead = []) ∧
        (sget 0 sna.toNat s.ad.lastClaim ≠ 0 → (sget 0 sna.toNat s.ad.lastClaim).toNat + 1 < seq.toNat →
          s.ad.ahead.contains (sna, sget 0 sna.toNat s.ad.lastClaim + 1) = false →
          sget 0 sna.toNat t.ad.lastClaim = sget 0 sna.toNat s.ad.lastClaim ∧ t.ad.ahead = (sna, seq) :: s.ad.ahead) ∧
        t = { s with ad := { s.ad with
                claims := s.ad.claims ++ [{ stamp := stamp, sna := sna, seq := seq, adid := adid, layer := layer,
                                            slot := slot, keySlot := keySlot, kgen := kgen, share := share, cmd := none }],
                lastClaim := t.ad.lastClaim, ahead := t.ad.ahead },
                     out := s.out ++ [.packet (.flood none) (.slotClaim stamp sna seq adid layer slot keySlot kgen share)] }) ∧
    (sna = s.fab.sna ∨ seq.toNat ≤ (sget 0 sna.toNat s.ad.lastClaim).toNat ∨ s.ad.ahead.contains (sna, seq) = true →
      exec (.slotClaimPacket stamp sna seq adid layer slot keySlot kgen share) s = .next s)) ∧
  (∀ (s : State) (c : Cmd) (i layer : Nat), headCmd s 0x35 = some c →
    didxFor s c.part.toNat (cAdid c.word) = some i → layer = bits (cP0 c.word) 0 12 →
    (claimOk (descOf s i) layer = true → ∃ t, exec .adapterRelease s = .next t ∧ Completed s t c.id 0 0 0 ∧
      t = { s with front := { s.front with cmds := t.front.cmds, ready := t.front.ready },
                   ad := { s.ad with releases := s.ad.releases ++ [(cAdid c.word,
                     some (BitVec.ofNat 12 layer, BitVec.ofNat 4 (bits (cP0 c.word) 16 4)))] } }) ∧
    (claimOk (descOf s i) layer = false → ∃ t, exec .adapterRelease s = .next t ∧ Completed s t c.id 0x09 0 0 ∧
      OnlyFront s t))

/-- KV_OPEN that passes its checks makes the lowest free handle an open sequence under the tenant's slot, generation and base generation with a fresh open buffer; with no prompt it is empty, and with a prompt its page table is the chunks that the prompt's hashes match in the tree and its length 16 positions for each, while a prompt whose units fail ends with CHECKSUM, or, stale, with KEY_REVOKED. KV_FORK of an open sequence makes a second handle with its whole chunks and its open buffer shared. KV_CLOSE of an open or INVALID sequence with no close waiting waits; of a free or closing one it completes with NOT_PERMITTED. KV_CLOSE_FREE with no admitted request naming the sequence frees it and its buffer use and completes the KV.CLOSE. A check that fails gives KV_OPEN and KV_FORK its status and leaves the cache as it was. KV_READ completes with the state and the length. Every other sequence is as before, and memory is unchanged. The lowest free handle and buffer are the model's choice (log entry 18) (spec/07_attention_and_kv_cache.md R210, spec/07_attention_and_kv_cache.md R213, spec/07_attention_and_kv_cache.md R214, spec/07_attention_and_kv_cache.md R215, spec/07_attention_and_kv_cache.md R218, spec/14_host_partitions_queues.md R403). -/
def Obligations.SequencesAreOpenedForkedClosedAndRead : Prop :=
  (∀ (s : State) (host : HostMem) (c : Cmd) (p h b : Nat) (gen : BitVec 16), s.inv = true → headCmd s 0x40 = some c →
    p = c.part.toNat → (cAdid c.word = 0 ∨ didxFor s p (cAdid c.word) ≠ none) →
    (slotOf s (cSlot c.word)).gen = cGen c.word → bindGen s p = some gen → freeHandle s p = some h →
    freeBuffer s p = some b → quotaFull s p 2 1 = false →
    (cLen c.word = 0 → (cfg s 0x2500 (p + 1) ≠ 0 ∨ cAddr0 c.word = 0) →
      ∃ t, exec (.kvOpen host) s = .next t ∧ Completed s t c.id 0 0 h ∧
        seqOf t p h = { state := .opened, slot := BitVec.ofNat 13 (cSlot c.word), gen := cGen c.word,
                        adid := cAdid c.word, baseGen := gen, buffer := b } ∧
        (∀ q, q ≠ h → seqOf t p q = seqOf s p q) ∧ sget 0 b (kvOf t p).buffers = 1 ∧
        (kvOf t p).chunks = (kvOf s p).chunks ∧ (∀ i, i ≠ p → partOf t i = partOf s i) ∧
        t.mem = s.mem ∧ t.out = s.out ∧ t.cust = s.cust ∧ t.ad = s.ad) ∧
    (cfg s 0x2500 (p + 1) ≠ 0 → cLen c.word ≠ 0 →
      ∀ (r : Bool × Bool × List Byte) (key : BitVec 256), r =
        (gcmFetch host (cAddr0 c.word) (cLen c.word) (cSlot c.word) (cGen c.word) s).1 →
      (slotOf s (cSlot c.word)).cur = some key →
      ∃ t, exec (.kvOpen host) s = .next t ∧ (∀ q, q ≠ h → seqOf t p q = seqOf s p q) ∧
        (∀ i, i ≠ p → partOf t i = partOf s i) ∧ t.mem = s.mem ∧ t.out = s.out ∧ t.ad = s.ad ∧
        if r.2.1 then Completed s t c.id 0x07 0 0 ∧ kvOf t p = kvOf s p
        else if r.1 then Completed s t c.id 0x05 0 0 ∧ kvOf t p = kvOf s p
        else (seqOf t p h).state = .opened ∧ (seqOf t p h).buffer = b ∧
          (seqOf t p h).chunks = matchTree (BitVec.ofNat 13 (cSlot c.word)) (cGen c.word) (kvOf s p).tree
            (promptHashes (kvHashKey key) (cAdid c.word) gen (kvFp4 s p) 0
              ((chunk 64 (cLen c.word / 64) r.2.2).filter fun x => x.length = 64)) ∧
          (seqOf t p h).length = 16 * (seqOf t p h).chunks.length ∧
          Completed s t c.id 0 0 (h + (seqOf t p h).length * 2 ^ 20))) ∧
  (∀ (s : State) (host : HostMem) (c : Cmd) (p : Nat), headCmd s 0x40 = some c → p = c.part.toNat →
    (cfg s 0x2500 (p + 1) = 0 ∧ (cLen c.word ≠ 0 ∨ cAddr0 c.word ≠ 0)) ∨
      (cAdid c.word ≠ 0 ∧ didxFor s p (cAdid c.word) = none) ∨ (slotOf s (cSlot c.word)).gen ≠ cGen c.word ∨
      bindGen s p = none ∨ freeHandle s p = none ∨ freeBuffer s p = none ∨ quotaFull s p 2 1 = true →
    ∃ t, exec (.kvOpen host) s = .next t ∧ OnlyFront s t ∧ Completed s t c.id
      (if cfg s 0x2500 (p + 1) = 0 ∧ (cLen c.word ≠ 0 ∨ cAddr0 c.word ≠ 0) then 0x09
       else if cAdid c.word ≠ 0 ∧ didxFor s p (cAdid c.word) = none then 0x0A
       else if (slotOf s (cSlot c.word)).gen ≠ cGen c.word then 0x05
       else if bindGen s p = none then 0x02 else 0x04) 0 0) ∧
  (∀ (s : State) (c : Cmd), headCmd s 0x41 = some c →
    (seqOf s c.part.toNat (bits (cP1 c.word) 0 20)).state ≠ .opened ∨ freeHandle s c.part.toNat = none ∨
      quotaFull s c.part.toNat 2 1 = true →
    ∃ t, exec .kvFork s = .next t ∧ OnlyFront s t ∧ Completed s t c.id
      (if (seqOf s c.part.toNat (bits (cP1 c.word) 0 20)).state ≠ .opened then 0x0B else 0x04) 0 0) ∧
  (∀ (s : State) (c : Cmd) (p h : Nat) (x : Sequence), s.inv = true → headCmd s 0x41 = some c → p = c.part.toNat →
    x = seqOf s p (bits (cP1 c.word) 0 20) → x.state = .opened → freeHandle s p = some h →
    quotaFull s p 2 1 = false →
    ∃ t, exec .kvFork s = .next t ∧ Completed s t c.id 0 0 h ∧
      seqOf t p h = { x with chunks := x.chunks.take (x.length / 16) } ∧
      (∀ q, q ≠ h → seqOf t p q = seqOf s p q) ∧
      sget 0 x.buffer (kvOf t p).buffers = sget 0 x.buffer (kvOf s p).buffers + 1 ∧
      (∀ i, i ≠ p → partOf t i = partOf s i) ∧ t.mem = s.mem ∧ t.out = s.out ∧ t.cust = s.cust) ∧
  (∀ (s : State) (c : Cmd) (p q : Nat) (x : Sequence), s.inv = true → headCmd s 0x42 = some c → p = c.part.toNat →
    q = bits (cP1 c.word) 0 20 → x = seqOf s p q →
    (x.closing = none → x.state = .opened ∨ x.state = .invalid → ∃ t, exec .kvClose s = .next t ∧ TakenUp s t c.id ∧
      seqOf t p q = { x with state := (if x.state = .opened then .closing else .invalid), closing := some c.id } ∧
      (∀ j, j ≠ q → seqOf t p j = seqOf s p j) ∧ (∀ i, i ≠ p → partOf t i = partOf s i) ∧ t.mem = s.mem ∧
      t.out = s.out) ∧
    (x.closing ≠ none ∨ x.state = .free ∨ x.state = .closing → ∃ t, exec .kvClose s = .next t ∧
      Completed s t c.id 0x0B 0 0 ∧ OnlyFront s t)) ∧
  (∀ (s : State) (part : BitVec 6) (seq : BitVec 20) (x : Sequence) (id : Nat), s.inv = true →
    x = seqOf s part.toNat seq.toNat → x.closing = some id → seqNamed s part.toNat seq.toNat = false →
    cmdOf s id ≠ none →
    ∃ t, exec (.kvCloseFree part seq) s = .next t ∧ Completed s t id 0 0 0 ∧
      (kvOf t part.toNat).seqs = sput {} seq.toNat {} (kvOf s part.toNat).seqs ∧
      (kvOf t part.toNat).buffers = supd 0 x.buffer (· - 1) (kvOf s part.toNat).buffers ∧
      (∀ i, i ≠ part.toNat → partOf t i = partOf s i) ∧ t.mem = s.mem ∧ t.out = s.out ∧ t.cust = s.cust) ∧
  (∀ (s : State) (c : Cmd) (x : Sequence), headCmd s 0x43 = some c →
    x = seqOf s c.part.toNat (bits (cP1 c.word) 0 20) →
    ∃ t, exec .kvRead s = .next t ∧ OnlyFront s t ∧
      Completed s t c.id 0 0 ((match x.state with | .free => 0 | .opened => 1 | .closing => 2 | .invalid => 3) +
        x.length * 2 ^ 20))

/-! ### Custody and security (spec/13) -/

/-- KEY_IMPORT completes with the status and the number of the first check of Table CU-10 that its blob fails, and counts the refusal; a root key or a consortium's key that passes, at least 20 us ahead and within the quota, is pending with its opened root key and its members; a base key takes effect at once. Neither changes a slot or a byte of memory. KEY_IMPORT_EFFECT at B(E), in the order of acceptance, puts the key into the slot: LOADED for a first key; for a rotation ROTATING with the other epoch bit and the old key kept as the previous one; the generation is unchanged, the receipt is written to the host, and every other slot is as before; where the slot has changed meanwhile, checks 4 and 5 refuse it. KEY_REMOVE of the slot's generation at least 20 us ahead is pending, too near it completes with TIMEOUT, and of another generation with KEY_REVOKED. KEY_REMOVE_EFFECT makes the slot SCRUBBING with no key and the next generation, holding at 0xFFFF; the descriptors of the removed generation become INVALID, and the caddies hold zeros for the slot (spec/13_custody_and_security.md R376, spec/13_custody_and_security.md R377, spec/13_custody_and_security.md R383, spec/13_custody_and_security.md R387, spec/13_custody_and_security.md R388, spec/14_host_partitions_queues.md R500). -/
def Obligations.KeysAreImportedAndRemoved : Prop :=
  (∀ (s : State) (host : HostMem) (c : Cmd) (p : Nat), headCmd s 0x50 = some c → p = c.part.toNat →
    (hostRead host (cAddr0 c.word) (cLen c.word) = none → ∃ t, exec (.keyImport host) s = .next t ∧
      Completed s t c.id 0x07 0 0 ∧ t.cust.slots = s.cust.slots ∧ t.cust.imports = s.cust.imports ∧ t.mem = s.mem) ∧
    (∀ (blob : List Byte) (h : BitVec 512), hostRead host (cAddr0 c.word) (cLen c.word) = some blob →
      h = BitVec.ofNat 512 (leNat (blob.take 64)) →
      ∃ t, exec (.keyImport host) s = .next t ∧ t.cust.slots = s.cust.slots ∧ t.mem = s.mem ∧ t.out = s.out ∧
        if blobForm h (cLen c.word) (cSteep c.word) = false then ImportRefused s t c.id 0x09 1
        else if s.cust.state ≠ .ready ∨ bKemd h ≠ kemDigest s then ImportRefused s t c.id 0x0B 2
        else if (bKind h ≤ 1 ∧ holdsSlot s p (bSlot h) = false) ∨ ((bKind h = 2 ∨ bKind h = 3) ∧ p ≠ 0) ∨
            (bKind h = 4 ∧ (cfg s 0x3016 (p + 1)).testBit 0 = false) then ImportRefused s t c.id 0x0B 3
        else if bKind h ≤ 1 ∧ bKgen h ≠ (slotOf s (bSlot h)).gen then ImportRefused s t c.id 0x05 4
        else if (bKind h ≤ 1 ∧ slotModeOk (slotOf s (bSlot h)) (bMode h) = false) ∨
            ((bKind h = 2 ∨ bKind h = 3) ∧ halfState s (decide (bKind h = 3)) ≠ 0 ∧
              halfState s (decide (bKind h = 3)) ≠ 2) then ImportRefused s t c.id 0x0B 5
        else match openBlob s h blob with
          | none => ImportRefused s t c.id 0x0B 6
          | some m =>
            if bKind h = 1 ∧ ∃ e ∈ chunk 40 16 (m.drop 32), memberVerifies s (bSlot h) (keyOfBytes m) e = false then
              ImportRefused s t c.id 0x0B 7
            else if 2 ≤ bKind h then
              Completed s t c.id 0 0 0 ∧ t.cust.imports = s.cust.imports ∧
              (t.cust.base0, t.cust.base1, t.cust.baseTrial) = (match bKind h with
                | 2 => (some { keyId := bKeyId h, xts := BitVec.ofNat 512 (leNat (m.take 64)), verify := m.drop 64 },
                        s.cust.base1, s.cust.baseTrial)
                | 3 => (s.cust.base0, some { keyId := bKeyId h, xts := BitVec.ofNat 512 (leNat (m.take 64)),
                                             verify := m.drop 64 }, s.cust.baseTrial)
                | _ => (s.cust.base0, s.cust.base1, some { keyId := bKeyId h, xts := BitVec.ofNat 512 (leNat (m.take 64)),
                                                           verify := m.drop 64 })) ∧
              ∃ nonce : BitVec 96, (t.cust.stored0, t.cust.stored1) = (match bKind h with
                | 2 => (sealRecord nonce { keyId := bKeyId h, xts := BitVec.ofNat 512 (leNat (m.take 64)),
                                           verify := m.drop 64 }, s.cust.stored1)
                | 3 => (s.cust.stored0, sealRecord nonce { keyId := bKeyId h, xts := BitVec.ofNat 512 (leNat (m.take 64)),
                                                           verify := m.drop 64 })
                | _ => (s.cust.stored0, s.cust.stored1))
            else if boundariesKnown s = false then ImportRefused s t c.id 0x0B 0
            else if atLeast20us s (cSteep c.word) = false then ImportRefused s t c.id 0x0C 0
            else if bMode h = false ∧ quotaFull s p 3 1 = true then ImportRefused s t c.id 0x04 0
            else TakenUp s t c.id ∧ ∃ i : PendingImport, t.cust.imports = s.cust.imports ++ [i] ∧
              i.slot = BitVec.ofNat 13 (bSlot h) ∧ i.kgen = bKgen h ∧ i.mode = bMode h ∧ i.steep = cSteep c.word ∧
              i.key = BitVec.ofNat 256 (leNat (m.take 32)) ∧ i.consortium = decide (bKind h = 1) ∧
              i.receipt = cAddr1 c.word ∧ i.cmd = c.id ∧
              i.members.length = (if bKind h = 1 then (chunk 40 16 (m.drop 32)).length else 0))) ∧
  (∀ (s : State) (slot : BitVec 13) (i : PendingImport) (k : KeySlot), s.inv = true →
    (s.cust.imports.find? fun i => i.slot = slot && hasBegun s i.steep) = some i →
    k = slotOf s slot.toNat → boundariesKnown s = true → firstDue s slot i.cmd = true → cmdOf s i.cmd ≠ none →
    ∃ t, exec (.keyImportEffect slot) s = .next t ∧ (∀ n, n ≠ slot.toNat → slotOf t n = slotOf s n) ∧
      t.cust.imports = s.cust.imports.erase i ∧ t.ad = s.ad ∧
      if i.kgen ≠ k.gen then Completed s t i.cmd 0x05 4 0 ∧ slotOf t slot.toNat = k
      else if slotModeOk k i.mode = false then Completed s t i.cmd 0x0B 5 0 ∧ slotOf t slot.toNat = k
      else Completed s t i.cmd 0 0 0 ∧
        (slotOf t slot.toNat).cur = some i.key ∧ (slotOf t slot.toNat).gen = k.gen ∧
        (slotOf t slot.toNat).state = (if i.mode then .rotating else .loaded) ∧
        (slotOf t slot.toNat).parity = (if i.mode then !k.parity else k.parity) ∧
        (slotOf t slot.toNat).prev = (if i.mode then k.cur else none) ∧
        (slotOf t slot.toNat).members = i.members ∧
        Out.hostWrite (BitVec.ofNat 6 (partOfCmd s i.cmd)) i.receipt
          (receiptOf s slot.toNat (slotOf t slot.toNat) i.key i.steep) ∈ t.out) ∧
  (∀ (s : State) (c : Cmd), headCmd s 0x51 = some c →
    ∃ t, exec .keyRemove s = .next t ∧ t.cust.slots = s.cust.slots ∧ t.mem = s.mem ∧ t.out = s.out ∧
      if (slotOf s (cSlot c.word)).gen ≠ cGen c.word then Completed s t c.id 0x05 0 0 ∧ t.cust.removes = s.cust.removes
      else if boundariesKnown s = false then Completed s t c.id 0x0B 0 0 ∧ t.cust.removes = s.cust.removes
      else if atLeast20us s (cSteep c.word) = false then Completed s t c.id 0x0C 0 0 ∧ t.cust.removes = s.cust.removes
      else TakenUp s t c.id ∧ t.cust.removes = s.cust.removes ++ [{
        slot := BitVec.ofNat 13 (cSlot c.word), gen := cGen c.word, steep := cSteep c.word, cmd := c.id }]) ∧
  (∀ (s : State) (slot : BitVec 13) (r : PendingRemove) (k : KeySlot), s.inv = true →
    (s.cust.removes.find? fun r => r.slot = slot && hasBegun s r.steep) = some r →
    k = slotOf s slot.toNat → boundariesKnown s = true → firstDue s slot r.cmd = true → cmdOf s r.cmd ≠ none →
    ∃ t, exec (.keyRemoveEffect slot) s = .next t ∧ (∀ n, n ≠ slot.toNat → slotOf t n = slotOf s n) ∧
      cmdOf t r.cmd = none ∧ t.cust.removes = s.cust.removes.erase r ∧ t.mem = s.mem ∧ t.out = s.out ∧
      if r.gen ≠ k.gen then Completed s t r.cmd 0x05 0 0 ∧ slotOf t slot.toNat = k
      else if k.state ≠ .loaded ∧ k.state ≠ .rotating then Completed s t r.cmd 0x0B 0 0 ∧ slotOf t slot.toNat = k
      else (slotOf t slot.toNat).state = .scrubbing ∧
        (slotOf t slot.toNat).gen = (if k.gen = 0xFFFF then k.gen else k.gen + 1) ∧
        (slotOf t slot.toNat).cur = none ∧ (slotOf t slot.toNat).prev = none ∧
        (k.sweeps = [] → s.ad.pending = [] → Completed s t r.cmd 0 0 0) ∧
        (∀ d, dSlot (descOf s d) = slot.toNat → dAdid (descOf s d) ≠ 0 →
          dKgen (descOf s d) ≠ (slotOf t slot.toNat).gen → dState (descOf t d) = adInvalid) ∧
        (∀ die, die < 4 → ∀ b ∈ caddyOf t die, b.slot = slot → b.data = List.replicate 4096 0))

/-- KEY_SWEEP of whole blocks of a ROTATING slot adds its blocks to the slot's walk and waits, and of no block completes at once; of a misaligned range it completes with FORMAT, of a slot not ROTATING with NOT_PERMITTED. SWEEP_BLOCK takes the next block off the walk, or, after it, off the ranges of KEY.SWEEP, whose command completes with its last block: a block that carries the current epoch keeps its bytes; any other is decrypted under its own epoch's key and stands encrypted under the current key, every byte outside it and outside the dirty logs unchanged. It and SCRUB_BLOCK wait until the share 0x9300:01 lets the next 4,096 bytes be taken. ROTATION_CUTOVER at a steep boundary with nothing left to sweep, 1,024 steeps after the rotation, makes the slot LOADED with no previous key and drops its tree entries; earlier it changes nothing. SCRUB_BLOCK writes zeros over the next block and over nothing else. SCRUB_COMPLETE with nothing left makes the slot FREE, or RETIRED at generation 0xFFFF. Every other slot is as before (spec/13_custody_and_security.md R382, spec/13_custody_and_security.md R385, spec/07_attention_and_kv_cache.md R219). -/
def Obligations.KeysSweepScrubAndCutOver : Prop :=
  (∀ (s : State) (c : Cmd) (n : Nat), s.inv = true → headCmd s 0x52 = some c → n = cSlot c.word →
    ∃ t, exec .keySweep s = .next t ∧
      if cAddr1 c.word % 4096 ≠ 0 ∨ cLen c.word % 4096 ≠ 0 then Completed s t c.id 0x09 0 0 ∧ OnlyFront s t
      else if (slotOf s n).state ≠ .rotating then Completed s t c.id 0x0B 0 0 ∧ OnlyFront s t
      else if cLen c.word = 0 then Completed s t c.id 0 0 0 ∧ OnlyFront s t
      else TakenUp s t c.id ∧
        slotOf t n = { slotOf s n with
          sweeps := (slotOf s n).sweeps ++ [(c.id, rangeBlocks (cAddr1 c.word) (cLen c.word))] } ∧
        (∀ i, i ≠ n → slotOf t i = slotOf s i) ∧
        t = { s with front := { s.front with cmds := t.front.cmds }, cust := { s.cust with slots := t.cust.slots } }) ∧
  (∀ (s : State) (slot : BitVec 13) (k : KeySlot) (b : Nat) (key : BitVec 256), s.inv = true →
    k = slotOf s slot.toNat → k.state = .rotating → k.cur = some key →
    (∃ bs, k.left = b :: bs) ∨ (k.left = [] ∧ ∃ id bs ws, k.sweeps = (id, b :: bs) :: ws) →
    ∃ t, exec (.sweepBlock slot) s = .next t ∧
      (∀ bs, k.left = b :: bs → slotOf t slot.toNat = { k with left := bs } ∧ t.front = s.front) ∧
      (∀ id bs ws, k.left = [] → k.sweeps = (id, b :: bs) :: ws →
        slotOf t slot.toNat = { k with sweeps := if bs.isEmpty then ws else (id, bs) :: ws } ∧
        (bs = [] → cmdOf s id ≠ none → Completed s t id 0 0 0)) ∧
      (∀ n, n ≠ slot.toNat → slotOf t n = slotOf s n) ∧ t.out = s.out ∧ t.ad = s.ad ∧
      t.clock = clockAfter s s.cust.sweepFree ∧ t.cust.sweepFree = t.clock + 8192 / cfg s 0x9300 1 ∧
      ((blockOf s b).ep = k.parity → t.mem = s.mem ∧ t.hbm = s.hbm) ∧
      ((blockOf s b).ep ≠ k.parity → noAccess s (4096 * b) = false → inTrial s (4096 * b) = false →
        (∀ p, (partOf s p).logState = 0) →
        memRead t.mem (4096 * b) 4096 = encryptUnits (xtsKeyAt s (4096 * b) key) k.parity (4096 * b)
          (xtsRead slot.toNat (4096 * b) 4096 (verifyBlock {} b (sweepPace s)).2).1 ∧
        ∀ a, a < 4096 * b ∨ 4096 * b + 4096 ≤ a → memByte t.mem a = memByte s.mem a)) ∧
  (∀ (s : State) (slot : BitVec 13) (k : KeySlot), s.inv = true → k = slotOf s slot.toNat →
    (atBoundary s = true → k.state = .rotating → k.left = [] → k.sweeps = [] → 1024 ≤ ahead s.steep.k k.since →
      ∃ t, exec (.rotationCutover slot) s = .next t ∧ slotOf t slot.toNat = { k with state := .loaded, prev := none } ∧
        (∀ n, n ≠ slot.toNat → slotOf t n = slotOf s n) ∧
        (∀ p, p < 64 → ∀ e ∈ (kvOf t p).tree, e.slot ≠ slot) ∧ t.mem = s.mem ∧ t.out = s.out) ∧
    (atBoundary s = false ∨ k.state ≠ .rotating ∨ k.left ≠ [] ∨ k.sweeps ≠ [] ∨ ahead s.steep.k k.since < 1024 →
      exec (.rotationCutover slot) s = .next s)) ∧
  (∀ (s : State) (slot : BitVec 13) (k : KeySlot) (b : Nat) (bs : List Nat), s.inv = true →
    k = slotOf s slot.toNat → k.state = .scrubbing → k.left = b :: bs →
    ∃ t, exec (.scrubBlock slot) s = .next t ∧ slotOf t slot.toNat = { k with left := bs } ∧
      (∀ n, n ≠ slot.toNat → slotOf t n = slotOf s n) ∧ t.out = s.out ∧ t.front = s.front ∧ t.ad = s.ad ∧
      t.clock = clockAfter s s.cust.sweepFree ∧ t.cust.sweepFree = t.clock + 8192 / cfg s 0x9300 1 ∧
      (noAccess s (4096 * b) = false → inTrial s (4096 * b) = false → (∀ p, (partOf s p).logState = 0) →
        memRead t.mem (4096 * b) 4096 = List.replicate 4096 0 ∧
        ∀ a, a < 4096 * b ∨ 4096 * b + 4096 ≤ a → memByte t.mem a = memByte s.mem a)) ∧
  (∀ (s : State) (slot : BitVec 13) (k : KeySlot), s.inv = true → k = slotOf s slot.toNat → k.state = .scrubbing →
    k.left = [] →
    ∃ t, exec (.scrubComplete slot) s = .next t ∧
      slotOf t slot.toNat = { k with state := if k.gen = 0xFFFF then .retired else .free } ∧
      (∀ n, n ≠ slot.toNat → slotOf t n = slotOf s n) ∧ t.mem = s.mem ∧ t.out = s.out)

/-- MEASURE_COMPLETE that passed makes the Custody Controller READY with the boot value, a new KEM key pair, the halves' stored base keys, as they open under the storage key, and fresh wrap keys of the AES paths; one that failed makes it FAULT. CUSTODY_FAULT in READY zeroises every key and makes the controller FAULT; a module not yet stopped stops in order, with its engine Stopped unless it is Off, and its tile memories and caddies zero. CUSTODY_REQUEST_TIMEOUT ends the oldest waiting request with TIMEOUT, 100 ms after its arrival. ATTESTATION_REQUEST counts a report and presents its 4,096 bytes; EVENT_LOG_READ presents the record of its index. SEAL_BREAK_ARM notes the clock; SEAL_BREAK within 1 s of it, not Locked and READY, makes every key slot RETIRED with no key, the tile memories and caddies zero, every port leave UP and every IDE stream stop, ends every KEY.SWEEP that waits, and makes the controller SEAL_BROKEN with a new KEM key pair and the scan chains open; every other byte of memory is unchanged. Otherwise it changes nothing (spec/13_custody_and_security.md R368, spec/13_custody_and_security.md R369, spec/13_custody_and_security.md R372, spec/13_custody_and_security.md R373, spec/13_custody_and_security.md R390). -/
def Obligations.EvidenceCustodyFaultAndSealBreak : Prop :=
  (∀ (s : State) (boot : BitVec 32) (identity rom : BitVec 384), s.cust.state = .measure →
    (boot ≠ 0 → ∃ t, exec (.measureComplete true boot identity rom) s = .next t ∧ t.cust.state = .ready ∧
      t.cust.boot = boot ∧ t.cust.kem = s.cust.kem + 1 ∧ t.cust.base0 = openRecord s.cust.stored0 ∧
      t.cust.base1 = openRecord s.cust.stored1 ∧ t.cust.slots = s.cust.slots ∧
      t.cust.wraps = (List.range 17).map (fun i => Config.freeValue (s.free + i) 256) ∧
      (s.cust.log.length + 2 ≤ 4096 → t.cust.log.length = s.cust.log.length + 2) ∧
      t = { s with cust := t.cust, free := s.free + 17, boot := { s.boot with readyClock := s.clock } }) ∧
    exec (.measureComplete true 0 identity rom) s = .next s ∧
    (∃ t, exec (.measureComplete false boot identity rom) s = .next t ∧ t.cust.state = .fault)) ∧
  (∀ (nonce : BitVec 96) (r : BaseKey), openRecord (sealRecord nonce r) = some r) ∧
  (∀ (s : State) (cause : BitVec 8), s.inv = true →
    (s.cust.state = .ready → ∃ t, exec (.custodyFault cause) s = .next t ∧ t.cust.state = .fault ∧
      t.cust.base0 = none ∧ t.cust.base1 = none ∧ t.cust.baseTrial = none ∧
      (∀ n, (slotOf t n).cur = none ∧ (slotOf t n).prev = none) ∧ t.dict.active = s.dict.active ∧
      t.cust.faultRec = packR 128 [(64, t.time.toNat), (8, cause.toNat)] ∧
      (s.boot.stopped = none → t.steep.engine = (if s.steep.engine = .off then .off else .stopped) ∧
        t.boot.stopped = some s.clock ∧ t.boot.shutdown = true ∧ t.boot.faultL = false ∧ t.front.cmds = [] ∧
        ∀ a, tileBase 0 ≤ a → a < 0x060030000000 → memByte t.mem a = 0)) ∧
    (s.cust.state ≠ .ready → exec (.custodyFault cause) s = .next s)) ∧
  (∀ (s : State) (clk : Nat) (id : Option Nat) (rest : List (Nat × Option Nat)), s.cust.requests = (clk, id) :: rest →
    ∃ t, exec .custodyRequestTimeout s = .next t ∧ (∀ i, id = some i → cmdOf s i ≠ none → Completed s t i 0x0C 0 0) ∧
      t.cust = { s.cust with requests := rest } ∧ t.clock = clockAfter s (clk + 200000000) ∧ t.mem = s.mem ∧
      t.out = s.out ∧ t.ad = s.ad) ∧
  (∀ (s : State) (nonce : BitVec 512) (slot : BitVec 16), custodyServes s = true →
    ∃ (t : State), exec (.attestationRequest nonce slot) s = .next t ∧ t.cust.report.length = 4096 ∧
      t.cust.report = attestationReport { s with cust := { s.cust with reports := s.cust.reports + 1 } } nonce slot.toNat ∧
      t = { s with cust := { s.cust with reports := s.cust.reports + 1, report := t.cust.report } }) ∧
  (∀ (s : State) (index : BitVec 32),
    ∃ t, exec (.eventLogRead index) s = .next t ∧ t = { s with cust := { s.cust with logRead := t.cust.logRead } } ∧
      ∀ r, s.cust.log[index.toNat]? = some r → t.cust.logRead = r) ∧
  (∀ s : State, s.steep.engine ≠ .locked → s.cust.state = .ready →
    ∃ t, exec .sealBreakArm s = .next t ∧ t = { s with cust := { s.cust with armed := some s.clock } }) ∧
  (∀ (s : State) (path : BitVec 8), s.inv = true →
    (∀ clk, s.cust.armed = some clk → s.steep.engine ≠ .locked → s.cust.state = .ready → s.clock ≤ clk + 2000000000 →
      ∃ t, exec (.sealBreak path) s = .next t ∧ t.cust.state = .sealBroken ∧ t.cust.scanOpen = true ∧
        t.cust.armed = none ∧ t.cust.kem = s.cust.kem + 1 ∧
        t.cust.base0 = none ∧ t.cust.base1 = none ∧ t.cust.baseTrial = none ∧
        (∀ n, n < 8192 → (slotOf t n).state = .retired ∧ (slotOf t n).cur = none ∧ (slotOf t n).prev = none ∧
          (slotOf t n).gen = (slotOf s n).gen) ∧
        (∀ p, p < 16 → (portOf t p).state ≠ .up) ∧ (∀ p, p < 64 → (partOf t p).ide = none) ∧
        (∀ a, tileBase 0 ≤ a → a < 0x060030000000 → memByte t.mem a = 0) ∧
        (∀ a, a < tileBase 0 ∨ 0x060030000000 ≤ a → memByte t.mem a = memByte s.mem a) ∧
        (∀ e ∈ s.cust.slots, ∀ w ∈ e.2.sweeps, cmdOf t w.1 = none) ∧
        t.dict.active = s.dict.active ∧ t.boot = s.boot) ∧
    (s.cust.armed = none ∨ s.steep.engine = .locked ∨ s.cust.state ≠ .ready ∨
        (∃ clk, s.cust.armed = some clk ∧ clk + 2000000000 < s.clock) → exec (.sealBreak path) s = .next s))

/-! ### The Spapor fabric (spec/12) -/

/-- The moves of Table FB-3, each of one port, every other port and every unit beside the fabric unchanged. A port in DOWN whose partner is installed and whose optical module fits enters TRAINING at once on a signal, else 100 ms after it entered DOWN, and no earlier than its hold-off; any other port stays DOWN. TRAINING goes to KEYING with FEC lock, or to DOWN after 500 ms. KEYING sends its messages of the custody exchange; where the partner's certificates and signature are good it installs the key of each direction, restarts the sequence numbers, sends a HELLO and enters CHECKING; a failed exchange, a controller that is not READY, or 50 ms goes to DOWN with a hold-off of 1 s. CHECKING goes to UP on the partner that Table FB-2 names, else to MISWIRED, and to DOWN where the HELLO's identity is not that of the exchange; MISWIRED leaves for UP on a right HELLO, ignores a wrong one, and sends a HELLO every 100 ms. A degraded UP port enters TRAINING, a third time within 10 s FAILED; one that is not degraded stays. PORT_RESET puts the port into DOWN with no keys and nothing to replay (spec/12_spapor_fabric.md R337, spec/12_spapor_fabric.md R338, spec/12_spapor_fabric.md R339, spec/12_spapor_fabric.md R341, spec/13_custody_and_security.md R374, spec/17_start_reset_recovery.md R469). -/
def Obligations.PortsTrainKeyCheckAndReset : Prop :=
  (∀ (s : State) (port : BitVec 4) (q : Port), s.inv = true → q = portOf s port.toNat →
    (q.state = .down → s.fab.discovery ≠ .off → q.absent = false → q.noApplication = false →
      port.toNat ∈ expectedPorts s → s.boot.stopped = none →
      ∀ signal : Bool, ∃ t, exec (.downExit port signal) s = .next t ∧
        PortMoved s t port.toNat .training ∧ (portOf t port.toNat).since = t.clock ∧
        t.clock = if signal then clockAfter s q.holdOff else max (clockAfter s q.holdOff) (q.since + 200000000)) ∧
    (q.state ≠ .down ∨ s.fab.discovery = .off ∨ q.absent = true ∨ q.noApplication = true ∨
        port.toNat ∉ expectedPorts s ∨ s.boot.stopped ≠ none →
      ∀ signal : Bool, exec (.downExit port signal) s = .next s) ∧
    (q.state = .training → ∃ t, exec (.fecLock port true) s = .next t ∧ PortMoved s t port.toNat .keying ∧
      t.clock = s.clock) ∧
    exec (.fecLock port false) s = .next s ∧
    (q.state = .training → ∃ t, exec (.trainingTimeout port) s = .next t ∧ PortMoved s t port.toNat .down ∧
      t.clock = clockAfter s (q.since + 1000000000)) ∧
    (q.state = .keying → ∀ (partner : BitVec 16) (certs : List Byte) (nonce : BitVec 256) (c : Closing),
      ∃ t, exec (.linkSessionExchange port partner certs nonce c) s = .next t ∧
        (s.cust.state = .ready → t.free = s.free + 2 ∧
          ∀ m ∈ linkMessages s partner certs nonce c, Out.packet (.port port) (.custody m) ∈ t.out) ∧
        (∀ tx rx, s.cust.state = .ready → linkKeys s partner certs nonce c = some (tx, rx) →
          PortMoved s t port.toNat .checking ∧ (portOf t port.toNat).partner = partner ∧
          (portOf t port.toNat).partnerDigest = Config.certDigest certs ∧
          (portOf t port.toNat).txKey = some tx ∧ (portOf t port.toNat).rxKey = some rx ∧
          (portOf t port.toNat).txSeq = 0 ∧ (portOf t port.toNat).rxSeq = 0xFFF ∧ (portOf t port.toNat).replay = [] ∧
          Out.packet (.port port) (.hello s.fab.sna port s.boot.boardSerial s.boot.identityDigest) ∈ t.out) ∧
        (s.cust.state ≠ .ready ∨ linkKeys s partner certs nonce c = none →
          PortMoved s t port.toNat .down ∧ (portOf t port.toNat).holdOff = s.clock + 2000000000)) ∧
    (q.state = .keying → ∀ failed : Bool, ∃ t, exec (.keyingTimeout port failed) s = .next t ∧
      PortMoved s t port.toNat .down ∧ (portOf t port.toNat).holdOff = t.clock + 2000000000 ∧
      t.clock = if failed then s.clock else clockAfter s (q.since + 100000000)) ∧
    (∀ (sna : BitVec 16) (pp : BitVec 4) (digest : BitVec 256),
      (q.state = .checking → ∃ t, exec (.hello port sna pp digest) s = .next t ∧ t.clock = s.clock ∧
        PortMoved s t port.toNat
          (if digest ≠ q.partnerDigest then .down
           else if partnerOf s.fab.sna.toNat port.toNat = some (sna.toNat, pp.toNat) then .up else .miswired) ∧
        (digest = q.partnerDigest → (portOf t port.toNat).partner = sna) ∧
        (digest ≠ q.partnerDigest → (portOf t port.toNat).holdOff = s.clock + 2000000000)) ∧
      (q.state = .miswired → partnerOf s.fab.sna.toNat port.toNat = some (sna.toNat, pp.toNat) →
        digest = q.partnerDigest → ∃ t, exec (.hello port sna pp digest) s = .next t ∧ PortMoved s t port.toNat .up) ∧
      (q.state = .miswired → partnerOf s.fab.sna.toNat port.toNat ≠ some (sna.toNat, pp.toNat) ∨ digest ≠ q.partnerDigest →
        exec (.hello port sna pp digest) s = .next s)) ∧
    (q.state = .miswired → ∃ t, exec (.helloResend port) s = .next t ∧ PortMoved s t port.toNat .miswired ∧
      Out.packet (.port port) (.hello s.fab.sna port s.boot.boardSerial s.boot.identityDigest) ∈ t.out ∧
      t.clock = clockAfter s (q.helloAt + 200000000) ∧ (portOf t port.toNat).helloAt = t.clock) ∧
    (q.state = .up → ∀ (lost : Bool) (bad replays : Nat), ∃ t, exec (.linkDegrade port lost bad replays) s = .next t ∧
      t.clock = s.clock ∧
      PortMoved s t port.toNat
        (if lost = true ∨ 16 < bad ∨ 8 ≤ replays ∨ (∃ f ∈ q.replay, 8 ≤ f.replays) then
          (if ((s.clock :: q.trainings).filter fun c => s.clock ≤ c + 20000000000).length < 3 then .training else .failed)
         else .up)) ∧
    (∃ t, exec (.portReset (port.setWidth 8)) s = .next t ∧ PortMoved s t port.toNat .down ∧
      (portOf t port.toNat).txKey = none ∧ (portOf t port.toNat).rxKey = none ∧ (portOf t port.toNat).replay = [] ∧
      (portOf t port.toNat).trainings = [] ∧ (portOf t port.toNat).partner = 0xFFFF ∧ t.clock = s.clock))

/-- A LINK_FRAME of an UP port that is out of sequence or not clean is answered with one frame that carries NAK, the last accepted LSEQ as its ACK, and changes nothing that has been accepted; one in sequence whose tag verifies takes the LSEQ on and, where it is not empty, is decrypted into the inbox; one whose tag fails, or whose phase has no key, is counted and not accepted, and a second one within 1 s takes the port DOWN with a fault. In ALONE, or on a port not UP, a frame changes nothing. REPLAY_TIMEOUT resends every stored frame, as stored and in order, 10 us after the last acknowledgement. REKEY flips the sender's key phase to the new key, or keeps the receiver's old key for 1 ms. CREDIT_FRAME returns every owed credit, that of each lane and pool in an empty frame of its own. CMIS_POLL of an optical port stores its identity, monitors and alarms, or marks it absent, and records a fault of one with no fitting application; CMIS_INTERRUPT stores the alarms of every port. No other port changes (spec/12_spapor_fabric.md R340, spec/12_spapor_fabric.md R341, spec/12_spapor_fabric.md R342, spec/12_spapor_fabric.md R345, spec/12_spapor_fabric.md R362, spec/18_module_physical.md R492). -/
def Obligations.FramesAreAcceptedReplayedAndCredited : Prop :=
  (∀ (s : State) (port : BitVec 4) (q : Port) (header : BitVec 64) (net : BitVec 256) (payload : List Byte)
      (tag : BitVec 128) (clean : Bool), s.inv = true → q = portOf s port.toNat →
    (q.state ≠ .up ∨ s.fab.discovery = .alone → exec (.linkFrame port header net payload tag clean) s = .next s) ∧
    (q.state = .up → s.fab.discovery ≠ .alone → clean = false ∨ fld header 52 12 ≠ q.rxSeq + 1 →
      ∃ t, exec (.linkFrame port header net payload tag clean) s = .next t ∧ t.fab.inbox = s.fab.inbox ∧
        (portOf t port.toNat).rxSeq = q.rxSeq ∧ (∀ i, i ≠ port.toNat → portOf t i = portOf s i) ∧ t.mem = s.mem ∧
        (q.txKey = none → t.out = s.out) ∧
        (q.txKey ≠ none → ∃ h g, t.out = s.out ++ [.frame port h 0 [] g] ∧ bit h 39 = true ∧ fld h 40 12 = q.rxSeq ∧
          fld h 52 12 = q.txSeq)) ∧
    (q.state = .up → s.fab.discovery ≠ .alone → clean = true → fld header 52 12 = q.rxSeq + 1 →
      ∃ t, exec (.linkFrame port header net payload tag true) s = .next t ∧
        (∀ i, i ≠ port.toNat → portOf t i = portOf s i) ∧ t.mem = s.mem ∧ t.cust = s.cust ∧
        (∀ (key : BitVec 256) (n : BitVec 64) (nonce : BitVec 96), rxKeyOf s q (bit header 38) = some (key, n) →
          nonce = frameNonce (q.partner.toNat < s.fab.sna.toNat) (bit header 38) n →
          Config.gcmTag key nonce (wordBytes header ++ wordBytes net) payload = tag →
          t.fab.inbox = s.fab.inbox ++ (if net = 0 ∧ payload = [] then [] else [(port, net, gcmCrypt key nonce payload)]) ∧
          (portOf t port.toNat).rxSeq = q.rxSeq + 1 ∧ (portOf t port.toNat).state = .up ∧ t.fab.authFails = s.fab.authFails) ∧
        ((∀ (key : BitVec 256) (n : BitVec 64), rxKeyOf s q (bit header 38) = some (key, n) →
            Config.gcmTag key (frameNonce (q.partner.toNat < s.fab.sna.toNat) (bit header 38) n)
              (wordBytes header ++ wordBytes net) payload ≠ tag) →
          t.fab.inbox = s.fab.inbox ∧ t.fab.authFails = s.fab.authFails + 1 ∧
          (q.tagFail = none → (portOf t port.toNat).state = .up ∧ (portOf t port.toNat).tagFail = some s.clock) ∧
          (∀ c, q.tagFail = some c → s.clock ≤ c + 2000000000 → (portOf t port.toNat).state = .down ∧
            (portOf t port.toNat).rxKey = none ∧ t.fab.faults = s.fab.faults ++ [.authentication port.toNat])))) ∧
  (∀ (s : State) (port : BitVec 4) (q : Port), s.inv = true → q = portOf s port.toNat → q.state = .up → q.replay ≠ [] →
    ∃ t, exec (.replayTimeout port) s = .next t ∧ t.clock = clockAfter s (q.lastAck + 20000) ∧
      t.out = s.out ++ q.replay.map (fun f => .frame port f.header f.net f.payload f.tag) ∧
      (portOf t port.toNat).replay = q.replay.map (fun f => { f with replays := f.replays + 1 }) ∧
      (portOf t port.toNat).lastAck = t.clock ∧ PortMoved s t port.toNat .up) ∧
  (∀ (s : State) (port : BitVec 4) (q : Port) (key : BitVec 256), s.inv = true → q = portOf s port.toNat →
    q.state = .up →
    (∃ t, exec (.rekey port true key) s = .next t ∧ PortMoved s t port.toNat .up ∧
      portOf t port.toNat = { q with oldRxKey := q.rxKey.map fun k => (k, s.clock + 2000000), oldRxCount := q.rxInPhase,
                                     rxKey := some key, rxPhase := !q.rxPhase, rxInPhase := 0 }) ∧
    (∃ t, exec (.rekey port false key) s = .next t ∧ PortMoved s t port.toNat .up ∧
      portOf t port.toNat = { q with txKey := some key, kph := !q.kph, sentInPhase := 0, phaseSince := t.clock } ∧
      (2 ^ 32 ≤ q.sentInPhase.toNat → t.clock = s.clock) ∧
      (q.sentInPhase.toNat < 2 ^ 32 → t.clock = clockAfter s (q.phaseSince + 172800000000000))) ∧
    (q.txKey ≠ none → ∃ t, exec (.creditFrame port) s = .next t ∧ (portOf t port.toNat).owed = [] ∧
      t.out.length = s.out.length + q.owed.length ∧
      (∀ i e, q.owed[i]? = some e → ∃ h g, t.out[s.out.length + i]? = some (.frame port h 0 [] g) ∧ bit h 39 = false ∧
        fld h 35 3 = BitVec.ofNat 3 (e.1 / 8) ∧ fld h 32 3 = BitVec.ofNat 3 (e.1 % 8) ∧ fld h 16 16 = BitVec.ofNat 16 e.2) ∧
      PortMoved s t port.toNat .up) ∧
    (q.txKey = none → exec (.creditFrame port) s = .next s)) ∧
  (∀ (s : State) (port : BitVec 4) (q : Port) (alarms : BitVec 32), s.inv = true → q = portOf s port.toNat →
    (8 ≤ port.toNat → ∀ m : CmisAnswer, ∃ t, exec (.cmisPoll port (some m) alarms) s = .next t ∧
      PortMoved s t port.toNat q.state ∧ t.out = s.out ∧
      portOf t port.toNat = { q with cmisId := m.identity, cmisMon := m.monitors, cmisAlarm := alarms, absent := false,
                                     noApplication := !m.application } ∧
      t.fab.faults = s.fab.faults ++
        (if m.application = false ∧ q.noApplication = false then [.application port.toNat] else [])) ∧
    (8 ≤ port.toNat → ∃ t, exec (.cmisPoll port none alarms) s = .next t ∧ PortMoved s t port.toNat q.state ∧
      t.out = s.out ∧ portOf t port.toNat = { q with absent := true }) ∧
    (port.toNat < 8 → ∀ m, exec (.cmisPoll port m alarms) s = .next s)) ∧
  (∀ (s : State) (alarms : List (BitVec 32)), s.inv = true →
    ∃ t, exec (.cmisInterrupt alarms) s = .next t ∧ t = { s with fab := { s.fab with ports := t.fab.ports } } ∧
      (∀ i a, alarms[i]? = some a → i < 16 → portOf t i = { portOf s i with cmisAlarm := a }) ∧
      (∀ i, (alarms.length ≤ i ∨ 16 ≤ i) → portOf t i = portOf s i))

/-- The moves of Table FB-7. DISCOVERY_START in stage 8 leaves OFF for LINKS. LINKS_DONE with every expected port UP floods the module's record and enters FLOOD at once, with some UP 2 s after LINKS began; LINKS_TIMEOUT with none UP after 10 s enters ALONE with a fault, and start-up stops. A new LINK_STATE_RECORD of another module is kept and relayed, every other module's record unchanged. FLOOD_QUIET enters ROUTES 200 ms after the last new record, or 5 s after FLOOD began with a fault that names the modules whose records are incomplete. ROUTE_COMPUTE makes the routes: a port leads to a module exactly where it lies on a minimal route there; it enters COMPLETE, and a steep engine in Off enters Listen. LINK_STATE_REFRESH floods the record again 1 s after the last time (spec/12_spapor_fabric.md R347, spec/12_spapor_fabric.md R348, spec/12_spapor_fabric.md R349, spec/12_spapor_fabric.md R351, spec/02_steeps_and_time.md R33). -/
def Obligations.DiscoveryFloodsAndComputesRoutes : Prop :=
  (∀ s : State, (s.fab.discovery = .off → 8 ≤ s.boot.stage → s.boot.status ≠ 2 → ∃ t, exec .discoveryStart s = .next t ∧
      t.fab.discovery = .links ∧ t.fab.discoverySince = s.clock ∧
      t = { s with fab := { s.fab with discovery := t.fab.discovery, discoverySince := t.fab.discoverySince } }) ∧
    (s.fab.discovery ≠ .off ∨ s.boot.stage < 8 ∨ s.boot.status = 2 → exec .discoveryStart s = .next s)) ∧
  (∀ s : State, s.fab.discovery = .links →
    ((∀ p ∈ expectedPorts s, (portOf s p).state = .up) → ∃ t, exec .linksDone s = .next t ∧
      t = { s with fab := { s.fab with discovery := .flood, discoverySince := s.clock, lastRecord := s.clock },
                   out := s.out ++ [.packet (.flood none) (.linkState s.fab.sna (ownLinkState s).ports
                     s.leaf.activeGen (recDigest s.leaf.rec0) (recDigest s.leaf.rec1) s.boot.identityDigest)] }) ∧
    ((∃ p ∈ expectedPorts s, (portOf s p).state ≠ .up) → upPorts s ≠ [] → ∃ t, exec .linksDone s = .next t ∧
      t.fab.discovery = .flood ∧ t.clock = clockAfter s (s.fab.discoverySince + 4000000000) ∧
      t.fab.lastRecord = t.clock ∧ t.fab.ports = s.fab.ports ∧ t.mem = s.mem) ∧
    ((∃ p ∈ expectedPorts s, (portOf s p).state ≠ .up) → upPorts s = [] → exec .linksDone s = .next s) ∧
    (expectedPorts s ≠ [] → upPorts s = [] → ∃ t, exec .linksTimeout s = .next t ∧ t.fab.discovery = .alone ∧
      t.boot.status = 2 ∧ t.boot.faultL = false ∧ t.fab.faults = s.fab.faults ++ [.alone] ∧
      t.clock = clockAfter s (s.fab.discoverySince + 20000000000) ∧ t.mem = s.mem)) ∧
  (∀ (s : State) (sna : BitVec 16) (ports : BitVec 64) (gen : BitVec 16) (d0 d1 : BitVec 128) (ident : BitVec 256)
      (r : LinkState), r = { ports := ports, gen := gen, digest0 := d0, digest1 := d1, identity := ident } →
    (s.fab.discovery ≠ .off → s.fab.discovery ≠ .alone → sna ≠ s.fab.sna → recordOf s sna.toNat ≠ some r →
      ∃ t, exec (.linkStateRecord sna ports gen d0 d1 ident) s = .next t ∧
        recordOf t sna.toNat = some r ∧ (∀ a, a ≠ sna.toNat → recordOf t a = recordOf s a) ∧
        t = { s with fab := { s.fab with records := t.fab.records, lastRecord := s.clock },
                     out := s.out ++ [.packet (.flood none) (.linkState sna ports gen d0 d1 ident)] }) ∧
    (s.fab.discovery = .off ∨ s.fab.discovery = .alone ∨ sna = s.fab.sna ∨ recordOf s sna.toNat = some r →
      exec (.linkStateRecord sna ports gen d0 d1 ident) s = .next s)) ∧
  (∀ s : State, s.fab.discovery = .flood → ∃ t, exec .floodQuiet s = .next t ∧ t.fab.discovery = .routes ∧
    t.fab.discoverySince = t.clock ∧
    (s.fab.lastRecord + 400000000 ≤ s.fab.discoverySince + 10000000000 →
      t.clock = clockAfter s (s.fab.lastRecord + 400000000) ∧ t.fab.faults = s.fab.faults) ∧
    (s.fab.discoverySince + 10000000000 < s.fab.lastRecord + 400000000 →
      t.clock = clockAfter s (s.fab.discoverySince + 10000000000) ∧
      t.fab.faults = s.fab.faults ++ [.incomplete (incompleteSnas s)]) ∧
    t.mem = s.mem ∧ t.out = s.out ∧ t.fab.ports = s.fab.ports) ∧
  (∀ s : State, (s.fab.discovery = .routes ∨ s.fab.discovery = .complete) →
    ∃ t, exec .routeCompute s = .next t ∧ t.fab.discovery = .complete ∧
      (∀ d p, d ∈ knownSnas s → d ≠ s.fab.sna.toNat → p < 16 → (sget 0 d t.fab.routes).getLsbD p =
        (minimalPorts s (distancesTo s d) s.fab.sna.toNat).contains p) ∧
      (s.fab.discovery = .routes → s.steep.engine = .off → t.steep.engine = .listen) ∧
      (s.fab.discovery = .complete → t.steep = s.steep ∧ t.dict = s.dict) ∧ t.mem = s.mem ∧ t.out = s.out ∧
      t.fab.ports = s.fab.ports ∧ t.clock = s.clock) ∧
  (∀ s : State, s.fab.discovery = .complete → ∃ t, exec .linkStateRefresh s = .next t ∧
    t.clock = clockAfter s (s.fab.refreshedAt + 2000000000) ∧ t.fab = { s.fab with refreshedAt := t.clock } ∧
    t.out = s.out ++ [.packet (.flood none) (.linkState s.fab.sna (ownLinkState s).ports
      s.leaf.activeGen (recDigest s.leaf.rec0) (recDigest s.leaf.rec1) s.boot.identityDigest)] ∧ t.mem = s.mem)

/-- PACKET_ROUTE takes the oldest packet of the lane whose turn it is, VL0 first, off a port's inbox and owes its credits back: from a fenced module it is dropped and counted; of an unknown type likewise; for this module, one with a stamp that fits no steep is dropped and counted; for another module, with a route, it leaves by the chosen port with one more hop, into that port's replay buffer; with none it is counted as unreachable; a multicast packet leaves by each port of its tree. A packet of the module's own leaves with the module's SNA in its header. FAB_WRITE_ARRIVAL within the partition's windows writes exactly its bytes and acknowledges, and its credits land with the last write that lands; outside them it changes nothing (log entry 69). FAB_READ_REQUEST within the windows answers in units of 4 KiB and changes no memory. READ_DATA for a running FAB.GET writes the unit at its place and takes one from what the op awaits, as do the units and the barrier packets of COLLECTIVE_DATA, and ACKNOWLEDGEMENT for its count (spec/12_spapor_fabric.md R340, spec/12_spapor_fabric.md R344, spec/12_spapor_fabric.md R345, spec/12_spapor_fabric.md R349, spec/12_spapor_fabric.md R354, spec/05_steep_programs.md R161, spec/01_architecture.md R17, spec/01_architecture.md R20, spec/02_steeps_and_time.md R55). -/
def Obligations.PacketsRouteAndRemoteAccessesAnswer : Prop :=
  (∀ (s : State) (port : BitVec 4), lanesReady port s = [] → exec (.packetRoute port none) s = .next s) ∧
  (∀ (s : State) (port : BitVec 4) (v lane frames dst hops : Nat) (e : BitVec 4 × BitVec 256 × List Byte) (u : State),
    s.inv = true → s.fab.discovery ≠ .alone →
    nextLane s (portOf s port.toNat) ((lanesReady port s).map fun r => r.1) = some (v, lane, frames) →
    ((lanesReady port s).find? fun r => r.1 = v) = some (v, e, u) →
    dst = (fld e.2.1 152 16).toNat → hops = (fld e.2.1 109 3).toNat →
    ∃ t, exec (.packetRoute port none) s = .next t ∧ e.1 = port ∧ (fld e.2.1 112 3).toNat = v ∧
      ((lanesReady port s).any (fun r => r.1 = 0) = true → v = 0) ∧
      t.fab.inbox = s.fab.inbox.erase e ∧ (portOf t port.toNat).lane = lane ∧ (portOf t port.toNat).laneFrames = frames ∧
      sget 0 (8 * v + hops) (portOf t port.toNat).owed =
        sget 0 (8 * v + hops) (portOf u port.toNat).owed + frameUnits e.2.2.length ∧ t.mem = s.mem ∧
      if s.fab.fencedSnas.contains (fld e.2.1 136 16) then
        t.fab.fencedDrops = s.fab.fencedDrops + 1 ∧ t.out = s.out
      else if typeVl (fld e.2.1 128 8).toNat = none then t.fab.unknown = s.fab.unknown + 1 ∧ t.out = s.out
      else if bit e.2.1 108 then t.out.length = s.out.length +
        ((treePorts s (fld e.2.1 92 10).toNat (fld e.2.1 84 8).toNat).filter fun p => p ≠ port.toNat).length
      else if dst = s.fab.sna.toNat then t.out = s.out ∧
        (fullTime s (fld e.2.1 200 56) = none → s.timeKnown = true → t.steep.badStamps = s.steep.badStamps + 1)
      else if 6 ≤ hops then t.fab.unreachable = s.fab.unreachable + 1 ∧ t.out = s.out
      else match choosePort s v (hops + 1) (candidates s dst) with
        | none => t.fab.unreachable = s.fab.unreachable + 1 ∧ t.out = s.out
        | some q => (∀ i, i ≠ q → i ≠ port.toNat → portOf t i = portOf s i) ∧ ∃ f : SentFrame, f.net = hopped e.2.1 ∧
          (portOf t q).replay = (portOf s q).replay ++ [f] ∧ f.lseq = (portOf s q).txSeq ∧
          (portOf t q).txSeq = (portOf s q).txSeq + 1 ∧ f.payload.length = e.2.2.length ∧
          t.out = s.out ++ [.frame (BitVec.ofNat 4 q) f.header f.net f.payload f.tag]) ∧
  (∀ (s : State) (port : BitVec 4) (net : BitVec 256) (payload : List Byte) (h : BitVec 256 × State) (q : Nat),
    s.inv = true → s.fab.discovery ≠ .alone → h = ownHeader net payload s → s.fab.fencedSnas.contains s.fab.sna = false →
    typeVl (fld net 128 8).toNat ≠ none → bit net 108 = false → fld net 152 16 ≠ s.fab.sna →
    (countsShare (fld net 128 8).toNat && decide (fabricAllowance s (netPart net) <
      sget 0 (netPart net) s.fab.share + (8 + 32 + payload.length + 16))) = false →
    choosePort s (fld h.1 112 3).toNat 0 (candidates s (fld net 152 16).toNat) = some q →
    canSend (portOf s q) (fld h.1 112 3).toNat 0 payload.length = true →
    ∃ (t : State) (f : SentFrame), exec (.packetRoute port (some (net, payload))) s = .next t ∧ f.net = h.1 ∧
      fld f.net 136 16 = s.fab.sna ∧ fld f.net 152 16 = fld net 152 16 ∧ fld f.net 128 8 = fld net 128 8 ∧
      (portOf t q).replay = (portOf s q).replay ++ [f] ∧ f.lseq = (portOf s q).txSeq ∧
      t.out = s.out ++ [.frame (BitVec.ofNat 4 q) f.header f.net f.payload f.tag] ∧
      t.fab.inbox = s.fab.inbox ∧ PortMoved s t q .up) ∧
  (∀ (s : State) (net : BitVec 256) (addr : BitVec 48) (unit : List Byte) (gcm crc : Bool) (core : BitVec 7)
      (ctr : BitVec 6) (amount : BitVec 4) (put : PutOp) (n : Nat), s.inv = true →
    n = ((s.fab.puts.find? fun e => e.1 = (netSrc net, netSteep s net, put)).elim 1 fun e => e.2 + 1) →
    (windowOk s (netPart net) addr.toNat (unitLen gcm unit) = true →
      ∃ t, exec (.fabWriteArrival net addr unit gcm crc core ctr amount put) s = .next t ∧
        Out.packet (.sna (fld net 136 16)) (.ack (fld net 200 56) (fld net 168 32)) ∈ t.out ∧
        (inTileRegion addr.toNat = false →
          t.prog = (if amount = 0 ∨ n < put.writes then s.prog
            else if coreOwner s core.toNat = some (netPart net) then
              (landToken core.toNat ctr (amount.setWidth 16) (netSteep s net) s).prog
            else (dropToken s).prog) ∨ gcm = true) ∧
        (gcm = false → inTileRegion addr.toNat = false → (partOf s (netPart net)).logState = 0 →
          (∀ a, addr.toNat ≤ a → a < addr.toNat + unit.length → noAccess s a = false ∧ inTrial s a = false) →
          memRead t.mem addr.toNat unit.length = unit ∧
          (∀ a, a < addr.toNat ∨ addr.toNat + unit.length ≤ a → memByte t.mem a = memByte s.mem a)) ∧
        (∀ bs, gcm = true → (gcmOpen s (unitSlot unit) (unitGen unit) (unitSeq unit) unit).1 = some (true, bs) →
          pairOk s (unitSlot unit) (unitGen unit) = true →
          t.mem = (packageWrite (netPart net) (some (unitSlot unit)) crc addr.toNat bs s).mem)) ∧
    (windowOk s (netPart net) addr.toNat (unitLen gcm unit) = false →
      exec (.fabWriteArrival net addr unit gcm crc core ctr amount put) s = .next s)) ∧
  (∀ (s : State) (net : BitVec 256) (addr : BitVec 48) (len : BitVec 32) (slot : BitVec 13) (gen : BitVec 16)
      (core : BitVec 7) (op : BitVec 16) (offset : BitVec 40),
    (windowOk s (netPart net) addr.toNat len.toNat = true → len ≠ 0 →
      (∃ t, exec (.fabReadRequest net addr len false slot gen core op offset) s = .next t ∧ t = { s with
        obs := t.obs
        out := s.out ++ (indexed (chunk 4096 (blockCount len.toNat) (memRead s.mem addr.toNat len.toNat))).map fun u =>
          .packet (.sna (fld net 136 16)) (.readData core op (offset + BitVec.ofNat 40 (4096 * u.1)) u.2) }) ∧
      (pairOk s slot.toNat gen = false → ∃ t, exec (.fabReadRequest net addr len true slot gen core op offset) s = .next t ∧
        t.mem = s.mem ∧ t.out = s.out ++ (List.range (blockCount len.toNat)).map fun i =>
          .packet (.sna (fld net 136 16)) (.readData core op (offset + BitVec.ofNat 40 (4096 * i)) [])) ∧
      (∀ (bs unit : List Byte) (u v : State), pairOk s slot.toNat gen = true → inTileRegion addr.toNat = false →
        len.toNat ≤ 4096 → xtsReadAt slot.toNat addr.toNat len.toNat s = (bs, u) →
        sealOne 0x3FD slot.toNat 0 bs u = (some unit, v) →
        ∃ t, exec (.fabReadRequest net addr len true slot gen core op offset) s = .next t ∧ t.mem = s.mem ∧
          t.out = s.out ++ [.packet (.sna (fld net 136 16)) (.readData core op offset unit)])) ∧
    (windowOk s (netPart net) addr.toNat len.toNat = false ∨ len = 0 →
      ∀ gcm, exec (.fabReadRequest net addr len gcm slot gen core op offset) s = .next s)) ∧
  (∀ (s : State) (net : BitVec 256) (core : BitVec 7) (op : BitVec 16) (offset : BitVec 40) (unit : List Byte)
      (r : RunOp) (d : BitVec 512) (b : Nat), s.inv = true → runningOp s core.toNat op.toNat 0x81 = some r →
    descAt tLen offset.toNat 0 r.descs = some (d, b) → bit net 108 = false →
    ∃ t, exec (.readData net core op offset unit) s = .next t ∧
      (∃ x ∈ (coreOf t core.toNat).running, x = { r with awaiting := r.awaiting - 1 }) ∧
      (unit = [] → t.mem = s.mem) ∧
      (unit ≠ [] → tScry d ≠ 2 →
        t.mem = (writeDest core.toNat (setFld d 64 64 (tDst d + (offset.toNat - b))) [(unit.length, some unit)] s).2.mem) ∧
      (unit ≠ [] → tScry d = 2 → pairOk s (tSlot d) (tGen d) = false → t.mem = s.mem) ∧
      (∀ bs, unit ≠ [] → tScry d = 2 → pairOk s (tSlot d) (tGen d) = true →
        (gcmOpen s (tSlot d) (tGen d) ((offset.toNat - b) / 4096) unit).1 = some (true, bs) →
        t.mem = (writeDest core.toNat (setFld d 64 64 (tDst d + (offset.toNat - b))) [(bs.length, some bs)] s).2.mem)) ∧
  (∀ (s : State) (net : BitVec 256) (core : BitVec 7) (op : BitVec 16) (rank : BitVec 10) (offset : BitVec 32)
      (r : RunOp), s.inv = true → runningOp s core.toNat op.toNat 0x82 = some r →
    ((r.descs.any fun d => gOp d = 2) = true →
      ∃ t, exec (.collectiveData net core op rank offset []) s = .next t ∧
        (coreOf t core.toNat).running = (coreOf s core.toNat).running.map (fun x =>
          if x.index = op then { x with awaiting := x.awaiting - 1 } else x) ∧
        CoreFrame s t core.toNat ∧ t.mem = s.mem ∧ t.obs = s.obs) ∧
    (∀ (unit bs : List Byte) (d : BitVec 512) (b : Nat), unit ≠ [] → descAt gLen offset.toNat 0 r.descs = some (d, b) →
      gOp d < 2 → gOp d ≠ 0 ∨ some (gRoot d) ≠ ownLdn s → pairOk s (gSlot d) (gGen d) = true →
      (gcmOpen s (gSlot d) (gGen d) ((offset.toNat - b) / 4096) unit).1 = some (true, bs) →
      ∃ t, exec (.collectiveData net core op rank offset unit) s = .next t ∧
        t.mem = (collWrite core.toNat d ((if gOp d = 1 then rank.toNat * gLen d else 0) + (offset.toNat - b)) bs s).mem ∧
        (∃ x ∈ (coreOf t core.toNat).running, x = { r with awaiting := r.awaiting - 1 }) ∧
        (gOp d = 0 → Out.packet (.sna (fld net 136 16)) (.ack (fld net 200 56) (fld net 168 32)) ∈ t.out))) ∧
  (∀ (s : State) (core : BitVec 7) (op : BitVec 16) (units : Nat) (r : RunOp), s.inv = true →
    r ∈ (coreOf s core.toNat).running → r.index = op → r.awaiting ≠ 0 →
    oOp r.word ∈ [0x60, 0x61, 0x63, 0x80, 0x82] →
    ∃ t, exec (.acknowledgement core op units) s = .next t ∧
      (coreOf t core.toNat).running = (coreOf s core.toNat).running.map (fun x =>
        if x.index = op then { x with awaiting := x.awaiting - units } else x) ∧
      CoreFrame s t core.toNat ∧ t.mem = s.mem ∧ t.obs = s.obs)

/-! ### Reduction, update and takeover (spec/09, spec/12, spec/17) -/

/-- A ROLL_CALL of the present attempt enters each record not yet heard of its LDN, and an owned EMPTY shard of its adapter leaves EMPTY; of another attempt it changes nothing. Every CONTRIBUTION_UNIT is acknowledged. A unit for a shard under a stale key, or of another attempt, or for an adapter not held here, is dropped and counted with memory unchanged; so is one that is not from a holder or fits no owned shard, and the shards it touches fail; any other counts its elements as received and, while the shard gathers, adds its values to the accumulator, a void unit none; a shard on a LOST pseudo-channel fails. A tally acts on its elements within a window of the sender's partition, and nothing outside one. SHARD_CUTOFF of a covered shard not complete fails it at its cut-off time with FAIL[400], and tells every steep master; of any other shard it changes nothing. STRAGGLER_NOTICE of the attempt is kept by a master, and by no other module. KEEPER_ACK makes a shard that awaits its keeper KEPT, and leaves any other as it is (spec/09_reduction_and_update.md R260, spec/09_reduction_and_update.md R261, spec/09_reduction_and_update.md R264, spec/09_reduction_and_update.md R265, spec/09_reduction_and_update.md R271, spec/09_reduction_and_update.md R274, spec/09_reduction_and_update.md R285). -/
def Obligations.RollCallsContributionsAndCutoff : Prop :=
  (∀ (s : State) (ldn : BitVec 10) (asteep : BitVec 32) (records : List (BitVec 64))
      (new : List (BitVec 24 × Nat × Nat)),
    new = (records.map fun r => (fld r 40 24, ldn.toNat, (fld r 24 16).toNat)).filter (fun r =>
      !heardFrom s r.1 ldn.toNat) →
    (asteep = asteepNow s → ∃ t, exec (.rollCall ldn asteep records) s = .next t ∧ t.red.rolls = s.red.rolls ++ new ∧
      (∀ n x, shardOf s n = some x → x.owned = true → x.state = .empty → (∃ r ∈ new, r.1 = x.adid) →
        ∃ y, shardOf t n = some y ∧ y.state ≠ .empty ∧ y.received = x.received) ∧
      t.mem = s.mem ∧ t.out = s.out ∧ t.ad = s.ad) ∧
    (asteep ≠ asteepNow s → exec (.rollCall ldn asteep records) s = .next s)) ∧
  (∀ (s : State) (net : BitVec 256) (payload : List Byte) (h : RedHeader),
    h = redHeader (BitVec.ofNat 256 (leNat (payload.take 32))) →
    ∃ t, exec (.contributionUnit net payload) s = .next t ∧
      Out.packet (.sna (fld net 136 16)) (.ack (fld net 200 56) (fld net 168 32)) ∈ t.out ∧
      (if h.kind = 0 then
        if pairOk s h.slot h.gen = false then t = { s with
          red := { s.red with droppedStale := s.red.droppedStale + 1 }, out := t.out, obs := t.obs }
        else if h.asteep ≠ asteepNow s then t = { s with
          red := { s.red with dropped := s.red.dropped + 1 }, out := t.out, obs := t.obs }
        else match didxOf s h.adid with
          | none => t = { s with red := { s.red with dropped := s.red.dropped + 1 }, out := t.out }
          | some i =>
            match (if isHolder s (descOf s i) h.sldn then (touchedShards s h).find? fun n => match shardOf s n with
                | some x => eCol0 x.word ≤ h.col && h.col + h.n ≤ eCol0 x.word + eCols x.word && h.row < x.rows
                | none => false else none) with
            | none => t.red.dropped = s.red.dropped + 1 ∧ t.mem = s.mem ∧
                ∀ n ∈ touchedShards s h, ∀ x, shardOf s n = some x → ∃ y, shardOf t n = some y ∧
                  isUnfinished y.state = false ∧ y.state ≠ .keeping
            | some n => ∀ x, shardOf s n = some x →
                (∃ y, shardOf t n = some y ∧ y.received = x.received + h.n) ∧
                if (x.state ≠ .empty ∧ x.state ≠ .gathering) then t.mem = s.mem
                else if frameLost s x = true then
                  t.mem = s.mem ∧ ∃ y, shardOf t n = some y ∧ y.state = .failed
                else if h.void = true then t.mem = s.mem ∧ t.red.void = s.red.void + 1
                else match redData s h.slot payload with
                  | none => t.mem = s.mem ∧ bit t.steep.fail 3 = true
                  | some bs => t.mem = (accumulate (dPart (shardDesc s x)) (dSlot (shardDesc s x))
                      (eOaddr x.word + 4 * (h.row * eCols x.word + (h.col - eCol0 x.word))) x.adid h.asteep
                      ((words32 bs).take h.n) s).mem
      else
        if pairOk s h.slot h.gen = false then t.mem = s.mem ∧
          t.red = { s.red with droppedStale := s.red.droppedStale + 1 }
        else t.red = s.red ∧
          if ((windowsOf s (netPart net)).any fun w => w.1 ≤ h.taddr + 4 * h.col &&
              h.taddr + 4 * h.col + 4 * h.n ≤ w.1 + w.2) = false ∨
              rangeOk s (h.taddr + 4 * h.col) (4 * h.n) = false then t.mem = s.mem
          else match redData s h.slot payload with
            | none => t.mem = s.mem ∧ t.cust.gcmFails = s.cust.gcmFails + 1
            | some bs => t.mem = (atomicRange h.kind (netPart net) h.slot (h.taddr + 4 * h.col) 0
                (if h.kind = 3 then List.replicate h.n 0 else (words32 bs).take h.n) s).mem)) ∧
  (∀ (s : State) (shard : BitVec 18) (x : Shard) (c : BitVec 7 × BitVec 16 × BitVec 32 × Bool),
    shardOf s shard.toNat = some x → x.cover = some c → x.owned = true → (x.state = .empty ∨ x.state = .gathering) →
    ∃ t, exec (.shardCutoff shard) s = .next t ∧ shardOf t shard.toNat = some { x with state := .failed } ∧
      (∀ n, n ≠ shard.toNat → shardOf t n = shardOf s n) ∧ bit t.steep.fail 4 = true ∧ t.steep.bad = true ∧
      t.time = waited s (deadline s c.1.toNat - BitVec.ofNat 64 (8000 + updateTime x)) ∧
      (∀ m ∈ masterLdns s, Out.packet (.ldn (BitVec.ofNat 10 m.2)) (.straggler (asteepNow s)
        (BitVec.ofNat 10 (ownLdnD s)) (BitVec.ofNat 16 (((holders s (shardDesc s x)).find? fun l =>
          !heardFrom s x.adid l).getD 0xFFFF))) ∈ t.out) ∧ t.mem = s.mem) ∧
  (∀ (s : State) (shard : BitVec 18), (∀ x, shardOf s shard.toNat = some x → x.cover = none ∨ x.owned = false ∨
    (x.state ≠ .empty ∧ x.state ≠ .gathering)) → exec (.shardCutoff shard) s = .next s) ∧
  (∀ (s : State) (asteep : BitVec 32) (owner : BitVec 10) (missing : BitVec 16), ownRank s ≠ none →
    asteep = asteepNow s → missing ≠ 0xFFFF → snaOfLdn s owner.toNat ≠ none →
    exec (.stragglerNotice asteep owner missing) s = .next { s with steep := { s.steep with master :=
      { s.steep.master with stragglers := s.steep.master.stragglers ++ [missing.toNat] } } }) ∧
  (∀ (s : State) (asteep : BitVec 32) (owner : BitVec 10) (missing : BitVec 16), ownRank s = none ∨
    asteep ≠ asteepNow s ∨ missing = 0xFFFF ∨ snaOfLdn s owner.toNat = none →
    exec (.stragglerNotice asteep owner missing) s = .next s) ∧
  (∀ (s : State) (shard : BitVec 18) (x : Shard), shardOf s shard.toNat = some x →
    (x.owned = true → x.state = .keeping → ∃ t, exec (.keeperAck shard) s = .next t ∧
      shardOf t shard.toNat = some { x with state := .kept } ∧
      (∀ n, n ≠ shard.toNat → shardOf t n = shardOf s n) ∧
      t = { s with red := { s.red with shards := t.red.shards }, obs := t.obs }) ∧
    (x.owned = false ∨ x.state ≠ .keeping → exec (.keeperAck shard) s = .next s)) ∧
  (∀ (s : State) (shard : BitVec 18), shardOf s shard.toNat = none → exec (.keeperAck shard) s = .next s)

/-- SHARD_UPDATE of an owned UPDATING shard first reads the module tables, the other stack's copy where a block fails (both: the module stops). If the accumulator and page verify, it updates every element from its gradient, moment and master as R269 says, writes the new masters and moments into page 1 - ROLE and the images at their positions there, and awaits its keeper; of an INVALID adapter it skips the shard; with a block error in the accumulator it sets FAIL[399] and leaves the shard; where a pseudo-channel is LOST or a page block cannot be restored the shard fails. KEEPER_COPY that opens under the adapter's slot writes the keeper's page 1 - ROLE and acknowledges; any other writes nothing. PUSH_UNIT of the descriptor's STEPC that opens writes the unit into the current page and lowers the adapter's outstanding count; any other writes nothing. RESTORE_REQUEST pushes every named unit of the shards owned here; where their blocks verify memory is unchanged, else the shard's image is first rebuilt from its masters (spec/09_reduction_and_update.md R266, spec/09_reduction_and_update.md R269, spec/09_reduction_and_update.md R273, spec/09_reduction_and_update.md R274, spec/09_reduction_and_update.md R279, spec/09_reduction_and_update.md R280, spec/10_hbm_memory.md R298, spec/10_hbm_memory.md R299, spec/10_hbm_memory.md R310, spec/04_numerics.md R130). -/
def Obligations.ShardsUpdateKeepPushAndRestore : Prop :=
  (∀ (s : State) (shard : BitVec 18) (env : ReadEnv),
    (∀ x, shardOf s shard.toNat = some x → x.owned = false ∨ x.state ≠ .updating) →
    exec (.shardUpdate shard env) s = .next s) ∧
  (∀ (s s0 : State) (shard : BitVec 18) (env : ReadEnv) (x : Shard) (d : BitVec 1024), shardOf s shard.toNat = some x →
    x.owned = true → x.state = .updating →
    s0 = readTable env (descPlace x.didx.toNat) (readTable env (shardPlace shard.toNat) s) → d = shardDesc s0 x →
    (s0.boot.stopped ≠ none → exec (.shardUpdate shard env) s = .next s0) ∧
    (s0.boot.stopped = none → dState d = adInvalid → ∃ t, exec (.shardUpdate shard env) s = .next t ∧
      (∃ y, shardOf t shard.toNat = some y ∧ y.state = .skipped) ∧ t.mem = s0.mem ∧ t.out = s0.out) ∧
    (s0.boot.stopped = none → dState d ≠ adInvalid → frameLost s0 x = true → ∃ t, exec (.shardUpdate shard env) s = .next t ∧
      (∃ y, shardOf t shard.toNat = some y ∧ y.state = .failed) ∧ t.mem = s0.mem ∧ t.out = s0.out) ∧
    (∀ v r : Bool × State, s0.boot.stopped = none → dState d ≠ adInvalid → frameLost s0 x = false →
      v = (((blocksOf (eOaddr x.word, 4 * shardSize x)).filter fun b => (blockOf s0 b).atag = asteepNow s0).foldl
        (fun acc b => (acc.1 || (verifyBlock env b acc.2).1, (verifyBlock env b acc.2).2)) (false, s0)) →
      r = restoreBlocks env (dSlot d) (framePageBlocks x (dRole d)
        (if (ruleAt v.2 (dRule d) 5).getLsbD 1 then 4 else 2)) v.2 →
      (v.1 = true → ∃ t, exec (.shardUpdate shard env) s = .next t ∧ shardOf t shard.toNat = some x ∧
        bit t.steep.fail 3 = true ∧ t.mem = s0.mem) ∧
      (v.1 = false → r.1 = false → ∃ t, exec (.shardUpdate shard env) s = .next t ∧
        (∃ y, shardOf t shard.toNat = some y ∧ y.state = .failed) ∧ t.mem = r.2.mem) ∧
      (v.1 = false → r.1 = true →
        ∀ (mf size old new : Nat) (rule : Nat → BitVec 32) (acc : List (BitVec 32) × State)
          (masters moments : List Byte × State) (grad : BitVec 32 → BitVec 32) (us : List Updated),
        rule = ruleAt r.2 (dRule d) → mf = (if (rule 5).getLsbD 1 then 4 else 2) → size = shardSize x →
        old = framePage x (dRole d) → new = framePage x (!dRole d) →
        acc = readAccumulator x (dSlot d) (asteepNow r.2) r.2 →
        masters = xtsReadAt (dSlot d) old (2 * size) acc.2 →
        moments = xtsReadAt (dSlot d) (old + momentOffset size) (mf * size) masters.2 →
        grad = (fun v => match x.cover with
          | some (_, _, _, true) => if shardWindows r.2 x = 0 then 0
              else fp32 ((ofFp32 v).mul (ofFp32 (fDiv 0x3F800000 (fNat (shardWindows r.2 x)))))
          | some (_, _, γ, false) => fp32 ((ofFp32 γ).mul (ofFp32 v))
          | none => 0) →
        us = (indexed acc.1).map (fun e => updateOne rule (engineRounding r.2 (eOaddr x.word + 4 * e.1)) (grad e.2)
          (BitVec.ofNat 32 (if mf = 4 then leNat ((moments.1.drop (mf * e.1)).take mf)
            else leNat ((moments.1.drop (mf * e.1)).take mf) * 65536))
          (sgn 16 (leNat ((masters.1.drop (2 * e.1)).take 2)))
          (layerEntry moments.2 d (eLayer x.word)).1 (layerEntry moments.2 d (eLayer x.word)).2) →
        ∃ t, exec (.shardUpdate shard env) s = .next t ∧
          (∃ y, shardOf t shard.toNat = some y ∧ y.state = .keeping) ∧
          t.mem = ((indexed us).foldl (fun s u => writeImage d x (!dRole d) u.1 u.2.image s)
            (engineWrite (dPart d) (dSlot d) (new + momentOffset size)
              (us.flatMap fun u => if mf = 4 then leBytes 4 u.moment.toNat else leBytes 2 (u.moment.toNat / 65536))
              (engineWrite (dPart d) (dSlot d) new
                (us.flatMap fun u => wordBytes (BitVec.ofInt 16 u.master)) moments.2))).mem))) ∧
  (∀ (s : State) (shard : BitVec 18) (slot : BitVec 13) (gen : BitVec 16) (ep : Bool) (nonce : BitVec 96)
      (ct : List Byte) (tag : BitVec 128),
    (shardOf s shard.toNat = none → exec (.keeperCopy shard slot gen ep nonce ct tag) s = .next s) ∧
    (∀ (x : Shard) (d : BitVec 1024) (size : Nat), shardOf s shard.toNat = some x → d = shardDesc s x →
      size = shardSize x →
      (x.owned = true ∨ frameLost s x = true → exec (.keeperCopy shard slot gen ep nonce ct tag) s = .next s) ∧
      (x.owned = false → frameLost s x = false → pairOk s slot.toNat gen = false ∨ slot.toNat ≠ dSlot d →
        exec (.keeperCopy shard slot gen ep nonce ct tag) s =
          .next { s with cust := { s.cust with stale := s.cust.stale + 1 } }) ∧
      (x.owned = false → frameLost s x = false → pairOk s slot.toNat gen = true → slot.toNat = dSlot d →
        ∃ t, exec (.keeperCopy shard slot gen ep nonce ct tag) s = .next t ∧ t.red = s.red ∧
          match openWith s slot.toNat ep nonce (keeperAad x.adid x.entry) ct tag with
          | none => t.mem = s.mem ∧ t.out = s.out ∧ t.cust.gcmFails = s.cust.gcmFails + 1
          | some bs =>
            if bs.length ≠ 4 * size ∧ bs.length ≠ 6 * size then t = s
            else t.mem = (packageWrite (dPart d) (some (dSlot d)) true (framePage x (!dRole d) + momentOffset size)
                (bs.drop (2 * size)) (packageWrite (dPart d) (some (dSlot d)) true (framePage x (!dRole d))
                  (bs.take (2 * size)) s)).mem ∧
              t.out = s.out ++ [.packet (.ldn (BitVec.ofNat 10 (eOldn x.word)))
                (.keeperAck x.adid (BitVec.ofNat 16 x.entry))]))) ∧
  (∀ (s : State) (adid : BitVec 24) (stepc : BitVec 32) (offset : BitVec 48) (slot : BitVec 13) (gen : BitVec 16)
      (ep : Bool) (nonce : BitVec 96) (ct : BitVec 512) (tag : BitVec 128),
    (didxOf s adid = none → exec (.pushUnit adid stepc offset slot gen ep nonce ct tag) s = .next s) ∧
    (∀ (i : Nat) (d : BitVec 1024), didxOf s adid = some i → d = descOf s i →
      (stepc ≠ dStepc d → exec (.pushUnit adid stepc offset slot gen ep nonce ct tag) s = .next s) ∧
      (stepc = dStepc d → pairOk s slot.toNat gen = false ∨ slot.toNat ≠ dSlot d →
        exec (.pushUnit adid stepc offset slot gen ep nonce ct tag) s =
          .next { s with cust := { s.cust with stale := s.cust.stale + 1 } }) ∧
      (stepc = dStepc d → pairOk s slot.toNat gen = true → slot.toNat = dSlot d →
        ∃ t, exec (.pushUnit adid stepc offset slot gen ep nonce ct tag) s = .next t ∧ t.red = s.red ∧ t.out = s.out ∧
          match openWith s slot.toNat ep nonce (pushAad adid stepc offset.toNat) (wordBytes ct) tag with
          | none => t.mem = s.mem ∧ t.ad = s.ad ∧ t.cust.gcmFails = s.cust.gcmFails + 1
          | some bs => if noAccess s (dPage d (dRole d) + offset.toNat) = true then t = s
            else t.mem = (packageWrite (dPart d) (some (dSlot d)) true (dPage d (dRole d) + offset.toNat) bs s).mem ∧
              t.ad.outstanding = supd 0 i (· - 1) s.ad.outstanding ∧ t.ad.descs = s.ad.descs))) ∧
  (∀ (s : State) (ldn : BitVec 10) (adid : BitVec 24) (offsets : List (BitVec 48)), didxOf s adid = none →
    exec (.restoreRequest ldn adid offsets) s = .next s) ∧
  (∀ (s : State) (ldn : BitVec 10) (adid : BitVec 24) (offsets : List (BitVec 48)) (i : Nat) (d : BitVec 1024)
      (xs : List Shard) (asked : Shard → List Nat), didxOf s adid = some i → d = descOf s i →
    xs = (ownedShards s fun x => x.didx.toNat = i).filterMap (shardOf s) →
    asked = (fun x => (imageUnits s x).filter fun o => offsets.any fun q => q.toNat = o) →
    ∃ t, exec (.restoreRequest ldn adid offsets) s = .next t ∧ t.red = s.red ∧
      ((∀ o ∈ xs.flatMap asked, (verifyBlock {} ((dPage d (dRole d) + o) / 4096) s).1 = false) →
        (slotOf s (dSlot d)).cur ≠ none → (∀ u, sget 0 u s.cust.nonces + (xs.flatMap asked).length ≤ 2 ^ 41) →
        t.mem = s.mem ∧ t.ad = s.ad ∧ t.out.length = s.out.length + (xs.flatMap asked).length ∧
        ∀ o ∈ xs.flatMap asked, ∃ nonce ep ct tag, Out.packet (.ldn ldn) (.push (dAdid d) (dStepc d) (BitVec.ofNat 48 o)
          (BitVec.ofNat 13 (dSlot d)) (dKgen d) ep nonce ct tag) ∈ t.out) ∧
      (∀ x v, xs = [x] → v = (((asked x).map fun o => (dPage d (dRole d) + o) / 4096).eraseDups.foldl
          (fun acc b => (acc.1 || (verifyBlock {} b acc.2).1, (verifyBlock {} b acc.2).2)) (false, s)) → v.1 = true →
        t.mem = (rebuildImage x v.2).mem))

/-- COMMIT_APPLY of a decided commit flips ROLE of every TRAINING descriptor that no change makes INVALID at this boundary and sets its STEPC to the step that has ended, leaves every other descriptor as it is, applies the releases of the extra-expert slots, counts one commit, clears the evidence of blame and the decision, and changes no memory. ABORT_APPLY of a decided abort flips nothing, counts one abort, and on a master records the attempt's blame at the place of its REPEAT; memory is unchanged. Without such a decision neither changes anything (spec/09_reduction_and_update.md R277, spec/09_reduction_and_update.md R278, spec/09_reduction_and_update.md R279, spec/06_adapters.md R197, spec/09_reduction_and_update.md R285). -/
def Obligations.CommitFlipsAndAbortKeeps : Prop :=
  (∀ s : State, s.inv = true → s.steep.decision = 1 →
    ∃ t, exec .commitApply s = .next t ∧
      (∀ i, dState (descOf s i) = adTraining → stateAt s i s.steep.k s.steep.sidx ≠ adInvalid → descOf t i =
        setFld (setBit (descOf s i) 33 (!dRole (descOf s i))) 152 32 (s.steep.step - 1).toNat) ∧
      (∀ i, dState (descOf s i) ≠ adTraining ∨ stateAt s i s.steep.k s.steep.sidx = adInvalid →
        descOf t i = descOf s i) ∧
      t.red.committed = s.red.committed + 1 ∧ t.steep.decision = 0 ∧ t.ad.releases = [] ∧
      t.steep.master.blamed = [] ∧ t.steep.master.missing = [] ∧ t.steep.master.stragglers = [] ∧
      t.mem = s.mem ∧ t.red.shards = s.red.shards) ∧
  (∀ s : State, s.steep.decision = 2 →
    ∃ t, exec .abortApply s = .next t ∧ t.ad = s.ad ∧ t.red = { s.red with aborted := s.red.aborted + 1 } ∧
      t.steep.decision = 0 ∧ t.mem = s.mem ∧ t.cust = s.cust ∧
      (ownRank s ≠ none → s.steep.decidedRep ≤ s.steep.master.blamed.length → s.steep.decidedRep ≤ 3 →
        t.steep.master.blamed =
          s.steep.master.blamed.take s.steep.decidedRep ++ [blame s.steep.master]) ∧
      (ownRank s ≠ none → s.steep.master.blamed.length < s.steep.decidedRep → s.steep.decidedRep ≤ 3 →
        t.steep.master.blamed = s.steep.master.blamed ++
          List.replicate (s.steep.decidedRep - s.steep.master.blamed.length) none ++ [blame s.steep.master]) ∧
      (ownRank s ≠ none → 3 < s.steep.decidedRep → t.steep.master.blamed = (recordBlame 3 s.steep.master).blamed) ∧
      (ownRank s = none → t = { s with steep := { s.steep with decision := 0 },
                                       red := { s.red with aborted := s.red.aborted + 1 } })) ∧
  (∀ s : State, (s.steep.decision ≠ 1 → exec .commitApply s = .next s) ∧
    (s.steep.decision ≠ 2 → exec .abortApply s = .next s))

/-- A new TAKEOVER_ORDER is flooded on and held, its failed SNA is fenced, and every port that is UP to it becomes FENCED, other ports unchanged; a held one changes nothing. A Locked module answers STAND_IN_RESTORE_REQUEST of step 1 with its extra-expert slots, of step 2 with the descriptors that name the LDN, of 5 and 6 with the shard's arrays sealed; any other changes nothing. RESTORE_DATA of the present step enters its item, once the restore rate 0x7031:01 lets it be taken, and the last of the whole restore sends the ready packet to every master; of another step it changes nothing. The last STAND_IN_READY that matches the base floods one effect for all orders; an earlier one is noted; one that does not match makes the next choice. READY_TIMEOUT 5 s after the orders makes the next choice, or ends them with none left. A new TAKEOVER_EFFECT is held and flooded on. TAKEOVER_BOUNDARY maps each LDN due to its chosen SNA, ends the orders and clears REPEAT. PLANNED_RETURN on the primary orders the move; elsewhere, or with a reserved bit set, it changes nothing. The contents of a restore answer and the result codes are the model's choice (notes/assumptions/35.md) (spec/12_spapor_fabric.md R355, spec/12_spapor_fabric.md R356, spec/12_spapor_fabric.md R357, spec/12_spapor_fabric.md R358, spec/17_start_reset_recovery.md R475, spec/17_start_reset_recovery.md R476). -/
def Obligations.TakeoverOrdersReadyAndEffect : Prop :=
  (∀ (s : State) (ldn : BitVec 10) (failed chosen : BitVec 16) (steep : BitVec 64), s.inv = true →
    (s.steep.master.orders.contains (ldn, failed, chosen) = false →
      ∃ t, exec (.takeoverOrder ldn failed chosen steep) s = .next t ∧
        t.steep.master.orders = s.steep.master.orders ++ [(ldn, failed, chosen)] ∧ t.steep.master.takeoverState = 1 ∧
        failed ∈ t.fab.fencedSnas ∧ Out.packet (.flood none) (.takeoverOrder ldn failed chosen steep) ∈ t.out ∧
        (∀ p, p < 16 → (portOf s p).state = .up → (portOf s p).partner = failed → (portOf t p).state = .fenced) ∧
        (∀ p, (portOf s p).state ≠ .up ∨ (portOf s p).partner ≠ failed → portOf t p = portOf s p) ∧ t.mem = s.mem) ∧
    (s.steep.master.orders.contains (ldn, failed, chosen) = true →
      exec (.takeoverOrder ldn failed chosen steep) s = .next s)) ∧
  (∀ (s : State) (sna : BitVec 16) (ask : RestoreAsk) (key : BitVec 64),
    (isLocked s = false ∨ ask.step ∉ [1, 2, 5, 6] → exec (.standInRestoreRequest sna ask key) s = .next s) ∧
    (isLocked s = true → ask.step = 1 → exec (.standInRestoreRequest sna ask key) s = .next { s with out := (s.out ++
      s.ad.experts.map (fun e => .packet (.sna sna) (.restore 1 1 (BitVec.ofNat 64 e.1) (expertBytes e.2) false)) ++
      [.packet (.sna sna) (.restore 1 0 0 [] true)]) }) ∧
    (isLocked s = true → ask.step = 2 → exec (.standInRestoreRequest sna ask key) s = .next { s with out := (s.out ++
      (s.ad.descs.filter fun e => mapNames s e.2 (fld key 0 10).toNat).map (fun e =>
        .packet (.sna sna) (.restore 2 1 (BitVec.ofNat 64 e.1) (wordBytes e.2) false)) ++
      [.packet (.sna sna) (.restore 2 0 0 [] true)]) }) ∧
    (isLocked s = true → ask.step = 5 ∨ ask.step = 6 → ∃ t, exec (.standInRestoreRequest sna ask key) s = .next t ∧
      ∀ i x d r, didxOf s (fld key 16 24) = some i →
        ((shardsHere s i).find? fun x => x.entry = (fld key 0 16).toNat) = some x → d = descOf s i →
        r = restoreBlocks ask.env (dSlot d) (framePageBlocks x (dRole d) 4) s →
        if frameLost s x = true then t = s
        else t.mem = r.2.mem ∧ (r.1 = true → (slotOf s (dSlot d)).cur ≠ none → (∀ u, sget 0 u s.cust.nonces < 2 ^ 41) →
          ∃ nonce ep ct tag, Out.packet (.sna sna) (.restore ask.step 1 key
            (wordBytes (nonce : BitVec 96) ++ [BitVec.ofNat 8 (ep : Bool).toNat] ++ ct ++ wordBytes (tag : BitVec 128)) true) ∈
            t.out))) ∧
  (∀ (s : State) (step kind : BitVec 8) (key : BitVec 64) (data : List Byte) (last : Bool),
    s.fab.restore = none → exec (.restoreData step kind key data last) s = .next s) ∧
  (∀ (s : State) (ldn : BitVec 10) (n : Nat) (step : BitVec 8) (key : BitVec 64) (data : List Byte),
    s.fab.restore = some (ldn, n) →
    (n ≠ step.toNat → ∀ kind last, exec (.restoreData step kind key data last) s = .next s) ∧
    (n = step.toNat → s.fab.restoreWait ≠ 0 → exec (.restoreData step 0 key data false) s = .next { s with
      fab := { s.fab with restoredBytes := s.fab.restoredBytes + data.length } }) ∧
    (n = step.toNat → 2 ≤ s.fab.restoreWait → exec (.restoreData step 0 key data true) s = .next { s with
      fab := { s.fab with restoredBytes := s.fab.restoredBytes + data.length,
                          restoreWait := s.fab.restoreWait - 1 } }) ∧
    (n = 1 → s.fab.restoreWait ≠ 0 → ∃ t, exec (.restoreData 1 1 key data false) s = .next t ∧
      t.ad.experts = sput {} key.toNat (expertFrom data) s.ad.experts ∧
      t.clock = clockAfter s s.fab.restoreFree ∧ t = { s with
        clock := t.clock, time := t.time, slew := t.slew, obs := t.obs, ad := { s.ad with experts := t.ad.experts },
        fab := { s.fab with restoredBytes := s.fab.restoredBytes + data.length,
                            restoreFree := t.clock + 2 * data.length / cfg s 0x7031 1 } }) ∧
    (n = 2 → s.fab.restoreWait ≠ 0 → didxOf s (dAdid (BitVec.ofNat 1024 (leNat data))) = none →
      BitVec.ofNat 1024 (leNat data) ≠ 0 → ∃ t, exec (.restoreData 2 1 key data false) s = .next t ∧
      descOf t (firstFree 0 s.ad.descs) = BitVec.ofNat 1024 (leNat data) ∧
      (∀ i, i ≠ firstFree 0 s.ad.descs → descOf t i = descOf s i) ∧ t.mem = s.mem ∧ t.out = s.out) ∧
    (∀ kind i x d, n = step.toNat → 5 ≤ n → kind ≠ 0 → s.fab.restoreWait ≠ 0 → didxOf s (fld key 16 24) = some i →
      ((shardsHere (asStandIn ldn s) i).find? fun x => x.entry = (fld key 0 16).toNat) = some x → d = descOf s i →
      ∃ t, exec (.restoreData step kind key data false) s = .next t ∧ t.out = s.out ∧ t.red = s.red ∧
        match openWith s (dSlot d) ((data.drop 12).take 1 |>.any fun b => b ≠ 0) (BitVec.ofNat 96 (leNat (data.take 12)))
            (keeperAad x.adid x.entry) ((data.drop 13).take (data.length - 29))
            (BitVec.ofNat 128 (leNat (data.drop (13 + (data.length - 29))))) with
        | none => t.mem = s.mem ∧ t.cust.gcmFails = s.cust.gcmFails + 1
        | some v => t.mem = (packageWrite (dPart d) (some (dSlot d)) true
            (framePage x (dRole d) + momentOffset (shardSize x)) (v.drop (2 * shardSize x))
            (packageWrite (dPart d) (some (dSlot d)) true (framePage x (dRole d)) (v.take (2 * shardSize x)) s)).mem) ∧
    (n = step.toNat → n = 7 → s.fab.restoreWait = 0 → ((restored s ldn).all fun i => isSettled s i) = true →
      ∀ last, ∃ t, exec (.restoreData step 0 key data last) s = .next t ∧ t.fab.restore = none ∧ t.mem = s.mem ∧
        t.out = s.out ++ (masterLdns s).map (fun m => .packet (.ldn (BitVec.ofNat 10 m.2))
          (.standInReady s.leaf.activeGen (recDigest s.leaf.rec0) (recDigest s.leaf.rec1))))) ∧
  (∀ (s : State) (sna gen : BitVec 16) (d0 d1 : BitVec 128) (m : Master), m = s.steep.master → m.acting ≠ none →
    m.takeoverState ≠ 3 → (m.orders.any fun o => o.2.2 = sna) = true → gen = s.leaf.activeGen →
    d0 = recDigest s.leaf.rec0 → d1 = recDigest s.leaf.rec1 →
    ((m.orders.all fun o => o.2.2 = sna || m.ready.contains o.2.2) = true →
      ∃ t, exec (.standInReady sna gen d0 d1) s = .next t ∧ t.steep.master.takeoverState = 3 ∧
        t.fab.effects = s.fab.effects ++ m.orders.map (fun o => (o.1, o.2.2, effectSteep s)) ∧
        t.out = s.out ++ [.packet (.flood none)
          (.takeoverEffect (m.orders.map fun o => (o.1, o.2.2)) (effectSteep s))] ∧ t.mem = s.mem) ∧
    ((m.orders.all fun o => o.2.2 = sna || m.ready.contains o.2.2) = false →
      exec (.standInReady sna gen d0 d1) s = .next { s with steep := { s.steep with master :=
        { m with ready := m.ready ++ [sna], takeoverState := 2 } } })) ∧
  (∀ (s : State) (sna gen : BitVec 16) (d0 d1 : BitVec 128) (m : Master), m = s.steep.master →
    (m.acting = none ∨ m.takeoverState = 3 ∨ (m.orders.any fun o => o.2.2 = sna) = false →
      exec (.standInReady sna gen d0 d1) s = .next s) ∧
    (m.acting ≠ none → m.takeoverState ≠ 3 → (m.orders.any fun o => o.2.2 = sna) = true →
      gen ≠ s.leaf.activeGen ∨ d0 ≠ recDigest s.leaf.rec0 ∨ d1 ≠ recDigest s.leaf.rec1 →
      ∃ t, exec (.standInReady sna gen d0 d1) s = .next t ∧ t.mem = s.mem ∧
        ∀ o os, m.orders = o :: os →
          (chooseOrders s o.1.toNat = [] → t.steep.master.orders = [] ∧ t.steep.master.acting = none ∧
            t.out = s.out) ∧
          (chooseOrders s o.1.toNat ≠ [] → t.steep.master.acting = some s.clock ∧
            ∀ x ∈ chooseOrders s o.1.toNat, x ∈ t.steep.master.orders ∧
              Out.packet (.flood none) (.takeoverOrder x.1 x.2.1 x.2.2 s.steep.k) ∈ t.out))) ∧
  (∀ s : State, s.steep.master.acting = none ∨ s.steep.master.orders = [] ∨ s.steep.master.takeoverState = 3 →
    exec .readyTimeout s = .next s) ∧
  (∀ (s : State) (clk : Nat) (o : BitVec 10 × BitVec 16 × BitVec 16) (os : List (BitVec 10 × BitVec 16 × BitVec 16)),
    s.steep.master.acting = some clk → s.steep.master.orders = o :: os → s.steep.master.takeoverState ≠ 3 →
    ∃ t, exec .readyTimeout s = .next t ∧ t.clock = clockAfter s (clk + 10000000000) ∧ t.mem = s.mem ∧
      (chooseOrders s o.1.toNat = [] → t.steep.master.orders = [] ∧ t.steep.master.acting = none ∧
        t.steep.master.takeoverState = 0 ∧ t.out = s.out) ∧
      (chooseOrders s o.1.toNat ≠ [] → t.steep.master.acting = some t.clock ∧
        ∀ x ∈ chooseOrders s o.1.toNat, x ∈ t.steep.master.orders ∧
          Out.packet (.flood none) (.takeoverOrder x.1 x.2.1 x.2.2 s.steep.k) ∈ t.out)) ∧
  (∀ (s : State) (moves : List (BitVec 10 × BitVec 16)) (c : BitVec 64),
    ((moves.all fun m => s.fab.effects.contains (m.1, m.2, c)) = false →
      ∃ t, exec (.takeoverEffect moves c) s = .next t ∧
        t.fab.effects = s.fab.effects ++ moves.map (fun m => (m.1, m.2, c)) ∧
        t.out = s.out ++ [.packet (.flood none) (.takeoverEffect moves c)] ∧ t.steep.master.takeoverState = 3 ∧
        t.mem = s.mem) ∧
    ((moves.all fun m => s.fab.effects.contains (m.1, m.2, c)) = true →
      exec (.takeoverEffect moves c) s = .next s)) ∧
  (∀ (s : State) (due : List (BitVec 10 × BitVec 16 × BitVec 64)),
    due = s.fab.effects.filter (fun e => ahead s.steep.k e.2.2 ≠ 0) →
    (due = [] ∨ boundariesKnown s = false → exec .takeoverBoundary s = .next s) ∧
    (due ≠ [] → boundariesKnown s = true → ∃ t, exec .takeoverBoundary s = .next t ∧
      (∀ e ∈ due, (∀ f ∈ due, f.1 = e.1 → f.2.1 = e.2.1) →
        cfg t (0x7100 + e.1.toNat / 128) (e.1.toNat % 128 + 1) = e.2.1.toNat) ∧
      (∀ e ∈ due, e ∉ t.fab.effects) ∧ t.steep.rep = 0 ∧ t.steep.master.orders = [] ∧
      t.steep.master.acting = none ∧ t.steep.master.takeoverState = 0 ∧ t.mem = s.mem)) ∧
  (∀ (s : State) (value : BitVec 32),
    (snaOfLdn s (fld value 0 10).toNat = none ∨ isPrimary s = false ∨ fld value 10 6 ≠ (0 : BitVec 6) →
      exec (.plannedReturn value) s = .next s) ∧
    (∀ a, snaOfLdn s (fld value 0 10).toNat = some a → isPrimary s = true → fld value 10 6 = (0 : BitVec 6) →
      ∃ t, exec (.plannedReturn value) s = .next t ∧ t.steep.master.acting = some s.clock ∧
        (fld value 0 10, BitVec.ofNat 16 a, fld value 16 16) ∈ t.steep.master.orders ∧
        Out.packet (.flood none) (.takeoverOrder (fld value 0 10) (BitVec.ofNat 16 a) (fld value 16 16) s.steep.k) ∈
          t.out ∧ t.mem = s.mem))

/-! ### HBM and the leaf base store (spec/10, spec/11) -/

/-- PATROL_READ of a valid block records where it is; where the stored bytes disagree with the checksum the block becomes BAD, counted and journalled, and memory is unchanged; of any other block it changes nothing. TEMPERATURE_READ below 105 C stores the reading and the largest so far and moves the stack as Table HB-6 says, a reading of 85 C or more being a stretch condition; at 105 C or more the stack trips and the module stops. A third failed read in a row makes a NORMAL or WARM stack HOT, 1 ms of failed reads a HOT one TRIP. ROW_REPAIR makes a REPAIRING row SOFT and logs it; with the log full its pseudo-channel is retired; any other row is left. PC_FILL gives the oldest waiting retirement the lowest spare, to be filled, its old pseudo-channel draining, or with no spare marks it to be lost. FILL_COMPLETE at a boundary after the fill maps the logical pseudo-channel to the new one and retires the old. FILL_FAILURE retires the spare and takes the next, or loses the pseudo-channel with none left. LOGICAL_PC_LOST at a boundary unmaps it and clears its addresses, and no other byte. Without the state that it needs, and the last and FILL_COMPLETE between boundaries, each changes nothing (spec/10_hbm_memory.md R300, spec/10_hbm_memory.md R302, spec/10_hbm_memory.md R305, spec/10_hbm_memory.md R307, spec/10_hbm_memory.md R308, spec/10_hbm_memory.md R309, spec/10_hbm_memory.md R310). -/
def Obligations.StacksPatrolRepairFillAndLose : Prop :=
  (∀ (s : State) (addr : BitVec 48) (env : ReadEnv) (b : Nat) (r : BlockRec), b = addr.toNat / 4096 → r = blockOf s b →
    hbmStack addr.toNat ≠ none → addrOk s addr.toNat = true → r.v = true → r.bad = false →
    (stackOf s (blockStack b)).thermal ≠ .trip →
    ∃ t, exec (.patrolRead addr env) s = .next t ∧ t.hbm.patrolAt = b ∧ t.mem = s.mem ∧ t.out = s.out ∧
      t.cust = s.cust ∧ t.prog = s.prog ∧ t.ad = s.ad ∧
      (crc64 (blockBytes s b) ≠ r.crc → (blockOf t b).bad = true ∧ t.hbm.errors = s.hbm.errors + 1 ∧
        t.hbm.journal = s.hbm.journal ++ [4096 * b]) ∧
      (crc64 (blockBytes s b) = r.crc → b ∉ env.mismatch → blockOf t b = r ∧ t.hbm.errors = s.hbm.errors)) ∧
  (∀ (s : State) (addr : BitVec 48) (env : ReadEnv) (b : Nat), b = addr.toNat / 4096 →
    hbmStack addr.toNat = none ∨ addrOk s addr.toNat = false ∨ (blockOf s b).v = false ∨ (blockOf s b).bad = true ∨
      (stackOf s (blockStack b)).thermal = .trip → exec (.patrolRead addr env) s = .next s) ∧
  (∀ (s : State) (stack : BitVec 4) (k : Stack), s.inv = true → k = stackOf s stack.toNat → stack.toNat < 12 →
    (∀ r : Int, r < 105 ∨ k.thermal = .trip → ∃ t, exec (.temperatureRead stack (some r)) s = .next t ∧
      (stackOf t stack.toNat).temp = r ∧
      (stackOf t stack.toNat).tempMax = (if k.tempRead then max k.tempMax r else r) ∧
      (stackOf t stack.toNat).thermal =
        thermalNext k.thermal (if r < exitBelow k.thermal then k.below + 1 else 0) r ∧
      t.steep.condHbm = (s.steep.condHbm || decide (85 ≤ r)) ∧
      (∀ i, i ≠ stack.toNat → stackOf t i = stackOf s i) ∧ t.mem = s.mem ∧ t.out = s.out ∧ t.boot = s.boot) ∧
    (∀ r : Int, 105 ≤ r → k.thermal ≠ .trip → s.boot.stopped = none →
      ∃ t, exec (.temperatureRead stack (some r)) s = .next t ∧
      (stackOf t stack.toNat).thermal = .trip ∧ t.boot.stopped = some s.clock ∧ t.boot.shutdown = true ∧
      t.steep.engine = (if s.steep.engine = .off then .off else .stopped)) ∧
    ((k.thermal = .normal ∨ k.thermal = .warm) → ∃ t, exec (.temperatureRead stack none) s = .next t ∧
      (stackOf t stack.toNat).thermal = (if 3 ≤ k.failedReads + 1 then .hot else k.thermal) ∧
      (∀ i, i ≠ stack.toNat → stackOf t i = stackOf s i) ∧ t.mem = s.mem ∧ t.out = s.out ∧ t.boot = s.boot) ∧
    ((k.thermal = .trip ∨ (k.thermal = .hot ∧ s.clock < k.lastRead + 2000000)) →
      ∃ t, exec (.temperatureRead stack none) s = .next t ∧
      stackOf t stack.toNat = { k with failedReads := k.failedReads + 1, below := 0 } ∧
      t = { s with hbm := { s.hbm with stk := t.hbm.stk } } ∧ ∀ i, i ≠ stack.toNat → stackOf t i = stackOf s i) ∧
    (k.thermal = .hot → k.lastRead + 2000000 ≤ s.clock → s.boot.stopped = none →
      ∃ t, exec (.temperatureRead stack none) s = .next t ∧ (stackOf t stack.toNat).thermal = .trip ∧
        t.boot.stopped = some s.clock ∧ t.boot.shutdown = true)) ∧
  (∀ (s : State) (stack : BitVec 4), 12 ≤ stack.toNat → ∀ r, exec (.temperatureRead stack r) s = .next s) ∧
  (∀ (s : State) (stack : BitVec 4) (pc : BitVec 5) (bank : BitVec 6) (row : BitVec 17), s.inv = true →
    sget 0 (rowKey pc.toNat bank.toNat row.toNat) (stackOf s stack.toNat).rows = 1 → s.hbm.log.length < 1024 →
    ∃ t, exec (.rowRepair stack pc bank row) s = .next t ∧
      sget 0 (rowKey pc.toNat bank.toNat row.toNat) (stackOf t stack.toNat).rows = 2 ∧
      t.hbm.log = s.hbm.log ++ [(stack.toNat, pc.toNat, bank.toNat, row.toNat, 2)] ∧
      t.hbm.softRepairs = s.hbm.softRepairs + 1 ∧ (∀ i, i ≠ stack.toNat → stackOf t i = stackOf s i) ∧
      t.mem = s.mem ∧ t.out = s.out) ∧
  (∀ (s : State) (stack : BitVec 4) (pc : BitVec 5) (bank : BitVec 6) (row : BitVec 17) (k : Stack), s.inv = true →
    k = stackOf s stack.toNat →
    (sget 0 (rowKey pc.toNat bank.toNat row.toNat) k.rows ≠ 1 → exec (.rowRepair stack pc bank row) s = .next s) ∧
    (sget 0 (rowKey pc.toNat bank.toNat row.toNat) k.rows = 1 → 1024 ≤ s.hbm.log.length →
      ∃ t, exec (.rowRepair stack pc bank row) s = .next t ∧
        (stackOf t stack.toNat).rows = sput 0 (rowKey pc.toNat bank.toNat row.toNat) 0 k.rows ∧
        t.hbm.log = s.hbm.log ∧ t.mem = s.mem ∧ t.out = s.out ∧
        (∀ i, i ≠ stack.toNat → stackOf t i = stackOf s i) ∧
        ∀ l, ((List.range 30).find? fun l => physPc k l = pc.toNat) = some l → l ∉ k.retireQ → l ∉ k.losing →
          (∀ f, k.fill = some f → f.1 ≠ l) → (stackOf t stack.toNat).retireQ = k.retireQ ++ [l])) ∧
  (∀ (s : State) (stack : BitVec 4) (k : Stack), s.inv = true → k = stackOf s stack.toNat →
    (∀ (l : Nat) (rest : List Nat), k.fill = none → k.retireQ = l :: rest →
      (∀ sp, lowestSpare k = some sp → ∃ t, exec (.pcFill stack) s = .next t ∧
        (stackOf t stack.toNat).fill = some (l, physPc k l, sp, s.clock) ∧ (stackOf t stack.toNat).retireQ = rest ∧
        pcStateOf (stackOf t stack.toNat) sp = .filling ∧
        (physPc k l ≠ sp → pcStateOf (stackOf t stack.toNat) (physPc k l) = .draining) ∧
        t = { s with hbm := { s.hbm with stk := t.hbm.stk } } ∧ ∀ i, i ≠ stack.toNat → stackOf t i = stackOf s i) ∧
      (lowestSpare k = none → ∃ t, exec (.pcFill stack) s = .next t ∧ (stackOf t stack.toNat).fill = none ∧
        (stackOf t stack.toNat).losing = k.losing ++ [l] ∧
        pcStateOf (stackOf t stack.toNat) (physPc k l) = .retired ∧
        t = { s with hbm := { s.hbm with stk := t.hbm.stk } } ∧ ∀ i, i ≠ stack.toNat → stackOf t i = stackOf s i)) ∧
    (k.fill ≠ none ∨ k.retireQ = [] → exec (.pcFill stack) s = .next s) ∧
    (k.fill = none → exec (.fillComplete stack) s = .next s ∧ exec (.fillFailure stack) s = .next s) ∧
    (∀ l old new start : Nat, k.fill = some (l, old, new, start) →
      (atBoundary s = false ∨ s.clock < start + fillCycles s → exec (.fillComplete stack) s = .next s) ∧
      (atBoundary s = true → start + fillCycles s ≤ s.clock → 30 ≤ new → new < 32 → old ≠ new →
        ∃ t, exec (.fillComplete stack) s = .next t ∧ physPc (stackOf t stack.toNat) l = new ∧
          (stackOf t stack.toNat).fill = none ∧ pcStateOf (stackOf t stack.toNat) old = .retired ∧
          pcStateOf (stackOf t stack.toNat) new = .active ∧
          (stackOf t stack.toNat).map = (setPhys l (BitVec.ofNat 8 new) k).map ∧ t.mem = s.mem ∧ t.out = s.out ∧
          ∀ i, i ≠ stack.toNat → stackOf t i = stackOf s i) ∧
      (∀ sp, lowestSpare (setPcState new .retired k) = some sp → old ≠ sp →
        ∃ t, exec (.fillFailure stack) s = .next t ∧
          (stackOf t stack.toNat).fill = some (l, old, sp, s.clock) ∧
          pcStateOf (stackOf t stack.toNat) sp = .filling ∧ pcStateOf (stackOf t stack.toNat) old = .draining ∧
          t.hbm.retired = s.hbm.retired + 1 ∧ t.mem = s.mem ∧ t.out = s.out ∧
          ∀ i, i ≠ stack.toNat → stackOf t i = stackOf s i) ∧
      (lowestSpare (setPcState new .retired k) = none → ∃ t, exec (.fillFailure stack) s = .next t ∧
          (stackOf t stack.toNat).fill = none ∧ (stackOf t stack.toNat).losing = k.losing ++ [l] ∧
          pcStateOf (stackOf t stack.toNat) old = .retired ∧
          t.hbm.retired = s.hbm.retired + 1 ∧ t.mem = s.mem ∧ t.out = s.out ∧
          ∀ i, i ≠ stack.toNat → stackOf t i = stackOf s i)) ∧
    (k.losing = [] ∨ atBoundary s = false → exec (.logicalPcLost stack) s = .next s) ∧
    (∀ (l : Nat) (rest : List Nat), k.losing = l :: rest → atBoundary s = true →
      ∃ t, exec (.logicalPcLost stack) s = .next t ∧
      physPc (stackOf t stack.toNat) l = 0xFF ∧ (stackOf t stack.toNat).losing = rest ∧
      (∀ a, (pcRange stack.toNat l).1 ≤ a → a < (pcRange stack.toNat l).1 + (pcRange stack.toNat l).2 →
        memByte t.mem a = 0) ∧
      (∀ a, a < (pcRange stack.toNat l).1 ∨ (pcRange stack.toNat l).1 + (pcRange stack.toNat l).2 ≤ a →
        memByte t.mem a = memByte s.mem a) ∧ t.out = s.out ∧ t.cust = s.cust ∧
      ∀ i, i ≠ stack.toNat → stackOf t i = stackOf s i))

/-- INSTALL_BEGIN with source 0 or 1 that meets R324 makes the half INSTALLING with one install more and the install the one in progress; with source 2 it sends the half's own manifest on and leaves the half as it is; a block that R324 refuses changes nothing. INSTALL_ABORT, a MANIFEST of a wrong form (FORMAT) or with a wrong signature or digest (NOT_PERMITTED), 10 s with no manifest or segment that is awaited (TIMEOUT) and a BREAK_NOTICE to an install from a predecessor each end it: a half that it wrote is EMPTY, and the successor gets a break notice with the status; the code of an abort is a free value (notes/assumptions/6.md). A good MANIFEST, from the host with source 0 and from the predecessor with source 1, is kept with the half and sent on, and a predecessor gets 16 credits. INSTALL_CREDIT lets the next segment go to the successor, from staging or from the half with source 2. LEAF_PATROL of a segment that fails its digest marks it damaged, one that the stack reports as uncorrectable is counted and journalled too. HALF_RELEASE at a boundary of a RETAINED half that nothing uses makes it STAGED and its descriptors INVALID. Without what it needs each changes nothing. Memory is unchanged by each (spec/11_leaf_base_store.md R317, spec/11_leaf_base_store.md R323, spec/11_leaf_base_store.md R324, spec/11_leaf_base_store.md R325, spec/11_leaf_base_store.md R326, spec/11_leaf_base_store.md R327, spec/11_leaf_base_store.md R329). -/
def Obligations.InstallsBeginAndEnd : Prop :=
  (∀ (s : State) (p : BitVec 512) (h : Bool), h = iHalf p →
    (iSrc p = 3 ∨ fld p 3 237 ≠ 0 ∨ s.leaf.install ≠ none ∨ (halfState s h ≠ 0 ∧ halfState s h ≠ 2) ∨
      halfState s (!h) = 1 ∨ 2000 ≤ (fld (recOf s h) 240 16).toNat ∨ baseKeyOf s h = none ∨
      (iSrc p = 2 ∧ (halfState s h ≠ 2 ∨ fld (recOf s h) 384 128 ≠ iDigest p)) ∨
      (iSrc p ≠ 2 ∧ (iStage p % 4096 ≠ 0 ∨ inWindows s 0 (iStage p) (2 ^ 30) = false)) →
      exec (.installBegin p) s = .next s) ∧
    (iSrc p ≠ 3 → fld p 3 237 = 0 → s.leaf.install = none → (halfState s h = 0 ∨ halfState s h = 2) →
      halfState s (!h) ≠ 1 → (fld (recOf s h) 240 16).toNat < 2000 → baseKeyOf s h ≠ none →
      (iSrc p ≠ 2 → iStage p % 4096 = 0 → inWindows s 0 (iStage p) (2 ^ 30) = true →
        ∃ t, exec (.installBegin p) s = .next t ∧
        t.leaf.install = some { params := p, lastData := s.clock, manifest := none } ∧ halfState t h = 1 ∧
        (fld (recOf t h) 240 16).toNat = (fld (recOf s h) 240 16).toNat + 1 ∧ recOf t (!h) = recOf s (!h) ∧
        t.leaf.lastStatus = 0xFF ∧ t = { s with leaf := t.leaf }) ∧
      (iSrc p = 2 → halfState s h = 2 → fld (recOf s h) 384 128 = iDigest p → iLast p = false →
        manNseg (manifestOf s h) ≠ 0 → ∃ t, exec (.installBegin p) s = .next t ∧
        t.leaf.install = some { params := p, lastData := s.clock, manifest := some (manifestOf s h) } ∧
        recOf t h = recOf s h ∧ recOf t (!h) = recOf s (!h) ∧ t.mem = s.mem ∧
        t.out = s.out ++ [.packet (.sna (iSucc p)) (.manifest (manifestOf s h))]))) ∧
  (∀ (s : State) (i : Install) (p : BitVec 512) (h : Bool) (Ends : State → BitVec 8 → Prop),
    s.leaf.install = some i → p = i.params → h = iHalf p →
    Ends = (fun t status => t.leaf.install = none ∧ t.leaf.lastStatus = status ∧ t.leaf.lastHalf = h ∧
      halfState t h = (if iSrc p = 2 then halfState s h else 0) ∧ recOf t (!h) = recOf s (!h) ∧ t.mem = s.mem ∧
      t.cust = s.cust ∧ t.front = s.front ∧
      t.out = s.out ++ (if iLast p then [] else [.packet (.sna (iSucc p)) (.breakNotice status)])) →
    (∃ t, exec .installAbort s = .next t ∧ Ends t (Config.freeValue s.free 8)) ∧
    (iSrc p ≠ 2 → (∀ m, i.manifest = some m → i.nextSeg < manNseg m) → ∃ t, exec .installTimeout s = .next t ∧
      Ends t 0x0C ∧ t.clock = clockAfter s (i.lastData + 20000000000)) ∧
    (iSrc p = 2 ∨ (∃ m, i.manifest = some m ∧ manNseg m ≤ i.nextSeg) → exec .installTimeout s = .next s) ∧
    (∀ status : BitVec 8, (iSrc p = 1 → status ≠ 0 → ∃ t, exec (.breakNotice status) s = .next t ∧ Ends t status) ∧
      (iSrc p ≠ 1 ∨ status = 0 → exec (.breakNotice status) s = .next s)) ∧
    (∀ d : Delivery, i.manifest ≠ none ∨ delivered p d (iHaddr p) 0x800000 s = none →
      exec (.manifest d) s = .next s) ∧
    (∀ (d : Delivery) (x : List Byte × State) (m : List Byte), i.manifest = none →
      delivered p d (iHaddr p) 0x800000 s = some x → m = x.1.take (manLen x.1) →
      ∃ t, exec (.manifest d) s = .next t ∧
        if manifestForm x.1 = false then Ends t 0x09
        else if manifestSigned (baseKeyOf s h) m = false ∨ manDigest m ≠ iDigest p then Ends t 0x0B
        else manifestOf t h = m ∧ halfState t h = 1 ∧ t.mem = s.mem ∧
          t.leaf.install = some { i with manifest := some m, lastData := s.clock } ∧
          t.out = s.out ++ (if iLast p then [] else [.packet (.sna (iSucc p)) (.manifest m)]) ++
            (if iSrc p = 1 then List.replicate 16 (.packet (.sna (iPred p)) .installCredit) else [])) ∧
    (i.manifest = none → i.staged = [] → exec .installCredit s = .next { s with leaf := { s.leaf with
      install := some { i with credits := i.credits + 1 } } }) ∧
    (∃ t, exec .installCredit s = .next t ∧ t.mem = s.mem ∧
      ∀ m, i.manifest = some m → iLast p = false →
        (if iSrc p = 2 then i.forwarded < manNseg m else i.staged.contains i.forwarded = true) →
        Out.packet (.sna (iSucc p)) (.segment (BitVec.ofNat 14 i.forwarded)
          (memRead s.mem (if iSrc p = 2 then segmentAddr h i.forwarded else stagingPlace p i.forwarded) (2 ^ 26))) ∈
          t.out)) ∧
  (∀ s : State, s.leaf.install = none → exec .installAbort s = .next s ∧ exec .installTimeout s = .next s ∧
    exec .installCredit s = .next s ∧ (∀ status, exec (.breakNotice status) s = .next s) ∧
    ∀ d, exec (.manifest d) s = .next s) ∧
  (∀ (s : State) (half : Bool) (index : BitVec 14) (a : LeafAnswer),
    (halfState s half < 2 ∨ 4 < halfState s half ∨ (fld (recOf s half) 208 16).toNat ≤ index.toNat →
      exec (.leafPatrol half index a) s = .next s) ∧
    (2 ≤ halfState s half → halfState s half ≤ 4 → index.toNat < (fld (recOf s half) 208 16).toNat →
      ∃ t, exec (.leafPatrol half index a) s = .next t ∧ t.mem = s.mem ∧ t.out = s.out ∧
        if a.uncorrectable = false ∧ segmentGood (manifestOf s half) index.toNat a.bytes = true then t.leaf = s.leaf
        else (half, index.toNat) ∈ t.leaf.damaged ∧ halfState t half = halfState s half ∧
          recOf t (!half) = recOf s (!half) ∧
          t.leaf.uncorrectable = s.leaf.uncorrectable + a.uncorrectable.toNat ∧
          (a.uncorrectable = true → t.leaf.lastDamaged =
            packR 128 [(64, s.time.toNat), (1, half.toNat), (14, index.toNat)]))) ∧
  (∀ s : State, ([false, true].find? fun h => halfState s h = 4) = none → exec .halfRelease s = .next s) ∧
  (∀ (s : State) (h : Bool) (g : BitVec 16), s.inv = true → ([false, true].find? fun h => halfState s h = 4) = some h →
    g = fld (recOf s h) 192 16 →
    (atBoundary s = false ∨ genInUse s g = true → exec .halfRelease s = .next s) ∧
    (atBoundary s = true → genInUse s g = false →
      ∃ t, exec .halfRelease s = .next t ∧ halfState t h = 2 ∧ t.leaf.retainedGen = 0 ∧ recOf t (!h) = recOf s (!h) ∧
      (∀ i, dBaseGen (descOf s i) = g → dAdid (descOf s i) ≠ 0 → dState (descOf t i) = adInvalid) ∧
      (∀ i, dBaseGen (descOf s i) ≠ g → descOf t i = descOf s i) ∧ t.mem = s.mem ∧ t.out = s.out))

/-- SEGMENT_DATA with the next segment of an install, from its predecessor or from the host's image, puts it into its staging place; where its digest agrees the next index moves on, a first failure is requested again, of a predecessor by a packet, a second ends the install with CHECKSUM; as the successor's request it sends a segment once more. SEGMENT_PROGRAMMED stores what the segment's area reads back, every other byte unchanged; a digest that disagrees or an uncorrectable read ends the install with CHECKSUM, and the last good segment of an install with no successor makes the half STAGED with the image's digest. TRIAL_LOAD without the permission or with a trial base present completes with NOT_PERMITTED, with no or too many extents with FORMAT, with an unanswered read with CHECKSUM; else a manifest and extents that pass the checks and the signature make it LOADING. TRIAL_LOAD_DONE ends it with a generation of 0x8000 and the load's number, or with the failure's status, its extents zeroed and no trial. TRIAL_RELEASE by the loading partition or partition 0 makes the trial RELEASING, a load in progress ending with NOT_PERMITTED; of others NOT_PERMITTED. TRIAL_RELEASE_EFFECT at a boundary with nothing using it zeroes its extents and leaves no trial. Without what it needs each changes nothing (spec/11_leaf_base_store.md R317, spec/11_leaf_base_store.md R325, spec/11_leaf_base_store.md R326, spec/11_leaf_base_store.md R330, spec/11_leaf_base_store.md R331, spec/11_leaf_base_store.md R333). -/
def Obligations.SegmentsAreProgrammedAndTrialsLoad : Prop :=
  (∀ (s : State) (index : BitVec 14), s.leaf.install = none → (∀ d, exec (.segmentData index d) s = .next s) ∧
    ∀ a, exec (.segmentProgrammed index a) s = .next s) ∧
  (∀ (s : State) (i : Install) (p : BitVec 512) (h : Bool) (index : BitVec 14), s.leaf.install = some i →
    p = i.params → h = iHalf p →
    (i.manifest = none → (∀ d, exec (.segmentData index d) s = .next s) ∧
      ∀ a, exec (.segmentProgrammed index a) s = .next s) ∧
    (∀ m, i.manifest = some m →
      (if iLast p = true ∨ i.forwarded ≤ index.toNat ∨
          (i.staged.contains index.toNat = false ∧ iSrc p ≠ 2 ∧ i.done.contains index.toNat = false) then
        exec (.segmentData index .again) s = .next s
      else exec (.segmentData index .again) s = .next { s with out := (s.out ++ [.packet (.sna (iSucc p))
        (.segment (BitVec.ofNat 14 index.toNat) (memRead s.mem (if i.staged.contains index.toNat then
          stagingPlace p index.toNat else segmentAddr h index.toNat) (2 ^ 26)))]) }) ∧
      (∀ (d : Delivery) (x : List Byte × State),
        delivered p d (iHaddr p + 0x800000 + index.toNat * 2 ^ 26) (2 ^ 26) s = some x →
        (index.toNat ≠ i.nextSeg ∨ manNseg m ≤ index.toNat ∨ 16 ≤ i.staged.length →
          exec (.segmentData index d) s = .next s) ∧
        (index.toNat = i.nextSeg → index.toNat < manNseg m → i.staged.length < 16 → i.done.length ≠ manNseg m →
          ∃ t, exec (.segmentData index d) s = .next t ∧
            t.mem = (writeStored false (stagingPlace p index.toNat) x.1 s).mem ∧
            if segmentGood m index.toNat x.1 then ∃ j, t.leaf.install = some j ∧ j.nextSeg = index.toNat + 1
            else if i.retried.contains index.toNat then t.leaf.install = none ∧ t.leaf.lastStatus = 0x07
            else t.leaf.install = some { i with retried := i.retried ++ [index.toNat], lastData := s.clock } ∧
              t.out = s.out ++ (if iSrc p = 1 then [.packet (.sna (iPred p)) (.segmentRequest index)] else []))) ∧
      (∀ d : Delivery, d ≠ .again → delivered p d (iHaddr p + 0x800000 + index.toNat * 2 ^ 26) (2 ^ 26) s = none →
        exec (.segmentData index d) s = .next s) ∧
      (∀ a : LeafAnswer,
        (i.staged.contains index.toNat = false ∨ i.done.contains index.toNat = true ∨ a.bytes.length ≠ 2 ^ 26 →
          exec (.segmentProgrammed index a) s = .next s) ∧
        (s.inv = true → iSrc p ≠ 2 → i.staged.contains index.toNat = true → i.done.contains index.toNat = false →
          a.bytes.length = 2 ^ 26 → ∃ t, exec (.segmentProgrammed index a) s = .next t ∧
          memRead t.mem (segmentAddr h index.toNat) (2 ^ 26) = a.bytes ∧
          (∀ b, b < segmentAddr h index.toNat ∨ segmentAddr h index.toNat + 2 ^ 26 ≤ b →
            memByte t.mem b = memByte s.mem b) ∧ recOf t (!h) = recOf s (!h) ∧
          if segmentGood m index.toNat a.bytes = true ∧ a.uncorrectable = false then
            t.leaf.segments = s.leaf.segments + 1 ∧
              (iLast p = true → i.done.length + 1 = manNseg m → t.leaf.install = none ∧ t.leaf.lastStatus = 0 ∧
                halfState t h = 2 ∧ fld (recOf t h) 384 128 = manDigest m ∧
                (fld (recOf t h) 208 16).toNat = manNseg m % 65536)
          else t.leaf.install = none ∧ t.leaf.lastStatus = 0x07 ∧ halfState t h = 0)))) ∧
  (∀ (s : State) (host : HostMem), headCmd s 0x60 = none → exec (.trialLoad host) s = .next s) ∧
  (∀ (s : State) (host : HostMem) (c : Cmd) (n : Nat), headCmd s 0x60 = some c → n = bits (cP0 c.word) 0 8 →
    (s.leaf.trial.state ≠ 0 ∨ (c.part ≠ 0 ∧ (cfg s 0x3016 (c.part.toNat + 1)).testBit 0 = false) →
      ∃ t, exec (.trialLoad host) s = .next t ∧ Completed s t c.id 0x0B 0 0 ∧ OnlyFront s t) ∧
    (s.leaf.trial.state = 0 → (c.part = 0 ∨ (cfg s 0x3016 (c.part.toNat + 1)).testBit 0 = true) →
      ∃ t, exec (.trialLoad host) s = .next t ∧ t.mem = s.mem ∧ t.out = s.out ∧
        if n = 0 ∨ 128 < n then Completed s t c.id 0x09 0 0 ∧ t.leaf = s.leaf
        else match hostRead host (cAddr1 c.word) (16 * n) with
          | none => Completed s t c.id 0x07 0 0 ∧ t.leaf = s.leaf
          | some l => match (chunk 16 n l).mapM extentEntry with
            | none => Completed s t c.id 0x09 0 0 ∧ t.leaf = s.leaf
            | some es =>
              if (hostPrefix host (cAddr0 c.word) 0x800000).length < 256 then
                Completed s t c.id 0x07 0 0 ∧ t.leaf = s.leaf
              else if !manifestForm (hostPrefix host (cAddr0 c.word) 0x800000) ||
                  !extentsOk s c.part.toNat (manNseg (hostPrefix host (cAddr0 c.word) 0x800000)) es then
                Completed s t c.id 0x09 0 0 ∧ t.leaf = s.leaf
              else ∀ m, m = (hostPrefix host (cAddr0 c.word) 0x800000).take
                  (manLen (hostPrefix host (cAddr0 c.word) 0x800000)) →
                if !manifestSigned s.cust.baseTrial m then Completed s t c.id 0x0B 0 0 ∧ t.leaf = s.leaf
                else TakenUp s t c.id ∧ t.leaf.trial.state = 1 ∧ t.leaf.trial.owner = c.part ∧
                  t.leaf.trial.extents = es ∧ t.leaf.trial.man = m ∧ t.leaf.trial.cmd = some c.id ∧
                  t.leaf.trial.addr = cAddr0 c.word)) ∧
  (∀ (s : State) (host : HostMem), s.leaf.trial.state ≠ 1 ∨ s.leaf.trial.cmd = none →
    exec (.trialLoadDone host) s = .next s) ∧
  (∀ (s : State) (host : HostMem) (id : Nat), s.inv = true → s.leaf.trial.state = 1 → s.leaf.trial.cmd = some id →
    cmdOf s id ≠ none →
    ∃ t, exec (.trialLoadDone host) s = .next t ∧
      match copyTrial host (List.range (manNseg s.leaf.trial.man)) s with
      | (some status, _) => Completed s t id status 0 0 ∧ t.leaf.trial = { loads := s.leaf.trial.loads } ∧
          ∀ e ∈ s.leaf.trial.extents, ∀ a, e.2.2 ≤ a → a < e.2.2 + 0x100000000 → memByte t.mem a = 0
      | (none, u) => Completed s t id 0 0 (0x8000 + (s.leaf.trial.loads % 0x7FFF + 1)) ∧ t.leaf.trial.state = 2 ∧
          t.leaf.trial.gen = BitVec.ofNat 16 (0x8000 + (s.leaf.trial.loads % 0x7FFF + 1)) ∧
          t.leaf.trial.loads = s.leaf.trial.loads % 0x7FFF + 1 ∧ t.mem = u.mem) ∧
  (∀ s : State, headCmd s 0x61 = none → exec .trialRelease s = .next s) ∧
  (∀ (s : State) (c : Cmd), headCmd s 0x61 = some c →
    ((s.leaf.trial.state = 1 ∨ s.leaf.trial.state = 2) → (c.part = s.leaf.trial.owner ∨ c.part = 0) →
      ∃ t, exec .trialRelease s = .next t ∧
        (∀ id, s.leaf.trial.cmd = some id → id ≠ c.id → cmdOf s id ≠ none → Completed s t id 0x0B 0 0) ∧
        (s.leaf.trial.cmd ≠ some c.id → Completed s t c.id 0 0 0) ∧
        t.leaf = { s.leaf with trial := { s.leaf.trial with state := 3, cmd := none } } ∧ t.mem = s.mem ∧ t.out = s.out) ∧
    ((s.leaf.trial.state ≠ 1 ∧ s.leaf.trial.state ≠ 2) ∨ (c.part ≠ s.leaf.trial.owner ∧ c.part ≠ 0) →
      ∃ t, exec .trialRelease s = .next t ∧ Completed s t c.id 0x0B 0 0 ∧ OnlyFront s t)) ∧
  (∀ s : State, s.leaf.trial.state ≠ 3 ∨ atBoundary s = false ∨ genInUse s s.leaf.trial.gen = true →
    exec .trialReleaseEffect s = .next s) ∧
  (∀ s : State, s.inv = true → s.leaf.trial.state = 3 → atBoundary s = true →
    genInUse s s.leaf.trial.gen = false →
    ∃ t, exec .trialReleaseEffect s = .next t ∧ t.leaf.trial = { loads := s.leaf.trial.loads } ∧
      (∀ e ∈ s.leaf.trial.extents, ∀ a, e.2.2 ≤ a → a < e.2.2 + 0x100000000 → memByte t.mem a = 0) ∧
      (∀ a, (∀ e ∈ s.leaf.trial.extents, a < e.2.2 ∨ e.2.2 + 0x100000000 ≤ a) → memByte t.mem a = memByte s.mem a) ∧
      t.out = s.out)

/-! ### The Object Dictionary (spec/15) -/

/-- With HX powered and the link up, a MGMT_DATAGRAM with a good checksum, unfragmented, for port 46,496 and within the length limits, whose frame is local or for this module, joins the management queue, or is dropped and counted where 64 frames wait; a frame for another module is sent on to it on VL1, or counted where no route leads there; any other datagram changes nothing. NEIGHBOR_SOLICITATION and ECHO_REQUEST for an address of the port are answered, and for another change nothing. MANAGEMENT_LINK_CHANGE sets the link to one of its three states. MAILBOX_GO of a good length takes that many bytes of the request buffer as a frame, as a datagram's, and sets BUSY; while BUSY it sets the length error and nothing else; with a bad length it sets the length error and takes no frame. FORWARDED_RESPONSE returns the response once on the path that its request came by; one that answers no request changes nothing (spec/15_object_dictionary.md R436, spec/15_object_dictionary.md R437, spec/15_object_dictionary.md R438, spec/15_object_dictionary.md R429, spec/17_start_reset_recovery.md R467). -/
def Obligations.ManagementPathsTakeFrames : Prop :=
  (∀ (s u v : State) (path src : Nat) (frame : List Byte) (h : BitVec 256), h = dapHeader frame →
    u = (if path = 0 then s
      else { s with dict := { s.dict with busy := true, response := false, lenError := false } }) →
    v = (if dapLocal h = true ∨ dapTarget h = s.fab.sna.toNat then
        if 64 ≤ (s.dict.frames.countP fun f => f.path = path) then { u with dict := { u.dict with
          fullDrops := u.dict.fullDrops + 1, busy := if path = 1 then false else u.dict.busy } }
        else { u with dict := { u.dict with
          frames := u.dict.frames ++ [{ path := path, bytes := frame, stamp := s.time, source := src }] } }
      else if s.fab.discovery = .complete ∧ candidates s (dapTarget h) ≠ [] then
        { u with
          out := (u.out ++ [.packet (.sna (BitVec.ofNat 16 (dapTarget h)))
            (.dap (withHeader (setFld h 160 16 s.fab.sna.toNat) frame))]),
          dict := { u.dict with
            forwarded := (List.drop (u.dict.forwarded.length - 255) (u.dict.forwarded ++
              [(dapTarget h, (dapSession h).toNat, (dapSeq h).toNat, path, src)])) } }
      else { u with dict := { u.dict with
        notForwarded := u.dict.notForwarded + 1, busy := if path = 1 then false else u.dict.busy } }) →
    answers s = true →
    (∀ (source : BitVec 128) (port : BitVec 16) (ipBytes : Nat), path = 0 → s.dict.mgmtLink ≠ 0 → ipBytes ≤ 9000 →
      32 ≤ frame.length → frame.length ≤ 4160 → src = source.toNat * 65536 + port.toNat →
      exec (.mgmtDatagram source port 46496 true false ipBytes frame) s = .next v) ∧
    (∀ length : BitVec 32, path = 1 → s.dict.busy = false → 32 ≤ length.toNat → length.toNat ≤ 4160 → src = 0 →
      frame = (List.range length.toNat).map (fun i => sget 0 i s.dict.req) →
      exec (.mailboxGo length) s = .next v)) ∧
  (∀ (s : State) (source : BitVec 128) (port udp : BitVec 16) (good fragment : Bool) (ipBytes : Nat) (frame : List Byte),
    answers s = false ∨ s.dict.mgmtLink = 0 ∨ udp ≠ 46496 ∨ good = false ∨ fragment = true ∨ 9000 < ipBytes ∨
      frame.length < 32 ∨ 4160 < frame.length →
    exec (.mgmtDatagram source port udp good fragment ipBytes frame) s = .next s) ∧
  (∀ (s : State) (source target : BitVec 128) (data : List Byte),
    (answers s = true → s.dict.mgmtLink ≠ 0 → isOwnAddress s target = true →
      exec (.neighborSolicitation source target) s =
        .next { s with out := s.out ++ [.neighborAdvertisement source target] } ∧
      exec (.echoRequest source target data) s = .next { s with out := s.out ++ [.echoReply source data] }) ∧
    (answers s = false ∨ s.dict.mgmtLink = 0 ∨ isOwnAddress s target = false →
      exec (.neighborSolicitation source target) s = .next s ∧ exec (.echoRequest source target data) s = .next s)) ∧
  (∀ (s : State) (link : BitVec 8),
    (link.toNat ≤ 2 → exec (.managementLinkChange link) s = .next { s with dict := { s.dict with mgmtLink := link } }) ∧
    (2 < link.toNat → exec (.managementLinkChange link) s = .next s)) ∧
  (∀ (s : State) (length : BitVec 32),
    (answers s = false → exec (.mailboxGo length) s = .next s) ∧
    (answers s = true → s.dict.busy = true →
      exec (.mailboxGo length) s = .next { s with dict := { s.dict with lenError := true } }) ∧
    (answers s = true → s.dict.busy = false → (length.toNat < 32 ∨ 4160 < length.toNat) →
      exec (.mailboxGo length) s = .next { s with dict := { s.dict with lenError := true, response := false } })) ∧
  (∀ (s : State) (frame : List Byte) (r : Option (Nat × Nat × Nat × Nat × Nat)),
    r = (s.dict.forwarded.find? fun e => e.1 = dapTarget (dapHeader frame) &&
      e.2.1 = (dapSession (dapHeader frame)).toNat && e.2.2.1 = (dapSeq (dapHeader frame)).toNat) →
    (r = none → exec (.forwardedResponse frame) s = .next s) ∧
    (∀ e, r = some e →
      (e.2.2.2.1 = 0 → exec (.forwardedResponse frame) s = .next { s with
        dict := { s.dict with forwarded := s.dict.forwarded.erase e },
        out := s.out ++ [.dapResponse 0 e.2.2.2.2 frame] }) ∧
      (e.2.2.2.1 = 1 → ∃ t, exec (.forwardedResponse frame) s = .next t ∧ t.dict.rsp = frame ∧ t.dict.busy = false ∧
        t.dict.response = true ∧ Out.dapResponse 1 e.2.2.2.2 frame ∈ t.out ∧
        t.dict.forwarded = s.dict.forwarded.erase e ∧ t.dict.active = s.dict.active ∧ t.mem = s.mem) ∧
      (2 ≤ e.2.2.2.1 → exec (.forwardedResponse frame) s = .next { s with
        dict := { s.dict with forwarded := s.dict.forwarded.erase e },
        out := s.out ++ [.packet (.sna (BitVec.ofNat 16 e.2.2.2.2)) (.dap frame)] })))

/-- An XCHG frame with a first fragment of message 1 opens a session in EXCHANGING under the next id; with 16 sessions it is refused with QUOTA, and one of a wrong form or out of turn is answered so. A whole message 1 from a listed key, or by the mailbox, is answered and else ends the exchange; a whole message 3 that verifies opens the session with the key that both ends derive, and else ends it. A frame whose session does not accept it is dropped and counted, and the third failed tag within 1 s ends the session; one that it accepts is counted, and READ and DESCRIBE answer its records and change nothing but the session and the answer; a WRITE whose checks pass, where the session may write, stores every value by its access and runs a command last, and in any other case changes no value; CLOSE ends the session and releases the staging lock that it holds. SESSION_IDLE_TIMEOUT ends an open session 600 s after its last good frame, or at once after three tag failures within 1 s; EXCHANGE_TIMEOUT ends an exchange 1 s after its start and counts it. STAGING_LOCK takes or releases the lock, and does nothing for a session that may not stage; STAGING_LOCK_TIMEOUT releases it 10 s after the holder's last frame. With no frame or no such session each changes nothing (spec/15_object_dictionary.md R427, spec/15_object_dictionary.md R428, spec/15_object_dictionary.md R430, spec/15_object_dictionary.md R431, spec/15_object_dictionary.md R432, spec/15_object_dictionary.md R433, spec/15_object_dictionary.md R434, spec/15_object_dictionary.md R435, spec/15_object_dictionary.md R440, spec/00_scope.md R8). -/
def Obligations.SessionsOpenCloseReadWriteDescribe : Prop :=
  (∀ s : State, s.dict.frames = [] → exec .xchg s = .next s ∧ exec .read s = .next s ∧ exec .write s = .next s ∧
    exec .describe s = .next s ∧ exec .close s = .next s) ∧
  (∀ (s u : State) (f : Frame) (fs : List Frame) (body : List Byte) (frag : Nat × Nat × List Byte), s.dict.frames = f :: fs →
    dapOp (dapHeader f.bytes) = 1 → u = { s with dict := { s.dict with frames := fs } } → body = dapBody f.bytes →
    frag = ((body.getD 1 0).toNat, (body.getD 2 0).toNat, body.drop 8) →
    (frameForm f.bytes = false →
      exec .xchg s = .next (respond f none (formFault f.bytes).1 (formFault f.bytes).2 0 [] u).2) ∧
    (frameForm f.bytes = true → body.length < 8 ∨ (body.drop 3).take 5 ≠ [0, 0, 0, 0, 0] ∨
        ((body.getD 0 0).toNat ≠ 1 ∧ ((body.getD 0 0).toNat ≠ 3 ∨ exchangeOf s f 3 = none)) →
      exec .xchg s = .next (respond f none stFormat 0x08 0 [] u).2) ∧
    (frameForm f.bytes = true → 8 ≤ body.length → (body.drop 3).take 5 = [0, 0, 0, 0, 0] →
      (body.getD 0 0 = 1 → exchangeOf s f 1 = none → 16 ≤ s.dict.sessions.length →
        ∃ t, exec .xchg s = .next t ∧ t.dict.sessions = s.dict.sessions ∧ t.dict.frames = fs ∧ t.mem = s.mem ∧
          (f.path = 0 → Out.dapResponse 0 f.source (respond f none stQuota 0x0A 0 [] s).1 ∈ t.out)) ∧
      (body.getD 0 0 = 1 → exchangeOf s f 1 = none → s.dict.sessions.length < 16 →
        ∃ t, exec .xchg s = .next t ∧ t.dict.sessionCount = s.dict.sessionCount + 1 ∧ t.dict.frames = fs ∧
          t.mem = s.mem ∧ (reassemble [frag] = none → t.out = s.out ∧
          ∃ x, t.dict.sessions = s.dict.sessions ++ [x] ∧ x.id = BitVec.ofNat 32 (s.dict.sessionCount + 1) ∧
            x.state = .exchanging ∧ x.path = f.path ∧ x.source = f.source ∧ x.started = s.clock ∧
            x.fragments = [frag])) ∧
      (∀ x, exchangeOf s f (body.getD 0 0).toNat = some x →
        (body.getD 0 0 = 1 ∨ body.getD 0 0 = 3 → reassemble (x.fragments ++ [frag]) = none →
          exec .xchg s = .next (updSession x.id (fun x => { x with fragments := x.fragments ++ [frag] }) u)) ∧
        (∀ msg, reassemble (x.fragments ++ [frag]) = some msg → body.getD 0 0 = 1 →
          ∃ t, exec .xchg s = .next t ∧ t.mem = s.mem ∧ t.dict.frames = fs ∧
            if (listedKey s (msg.drop 32) = none ∧ f.path ≠ 1) ∨
                (s.cust.state ≠ .ready ∧ s.cust.state ≠ .sealBroken) ∨ (msg.length ≠ 32 ∧ msg.length ≠ 1984) then
              sessionOf t x.id = none ∧ t.dict.failedExchanges = s.dict.failedExchanges + 1
            else ∃ y, sessionOf t x.id = some y ∧ y.keyed = (listedKey s (msg.drop 32)).isSome ∧
              y.writeAllowed = ((listedKey s (msg.drop 32)).map keyWrites).getD false ∧
              y.publicKey = msg.drop 32 ∧ y.fragments = []) ∧
        (∀ msg, reassemble (x.fragments ++ [frag]) = some msg → body.getD 0 0 = 3 →
          ∃ t, exec .xchg s = .next t ∧ t.mem = s.mem ∧ t.dict.frames = fs ∧
            if 1088 ≤ msg.length ∧ ((x.publicKey = [] ∧ msg.drop 1088 = []) ∨ (x.publicKey ≠ [] ∧
                Config.mlDsaVerify x.publicKey "AQ1224-SESS" (wordBytes (transcriptHash (x.transcript ++ msg.take 1088)))
                  (msg.drop 1088) = true)) then
              ∃ y, sessionOf t x.id = some y ∧ y.state = .opened ∧ y.lastGood = s.clock ∧ y.kmac =
                fld (okmOf (Config.mlKemDecap s.cust.kem (msg.take 1088)) (x.transcript ++ msg.take 1088)) 512 256
            else sessionOf t x.id = none ∧ t.dict.failedExchanges = s.dict.failedExchanges + 1)))) ∧
  (∀ (s u t : State) (f : Frame) (fs : List Frame) (h : BitVec 256), s.dict.frames = f :: fs → h = dapHeader f.bytes →
    u = { s with dict := { s.dict with frames := fs } } →
    ((∀ x, sessionOf s (dapSession h) = some x → serves s x = false) ∧
        t = dropFrame f { u with dict := { u.dict with tagDrops := u.dict.tagDrops + 1 } }) ∨
      (∃ x, sessionOf s (dapSession h) = some x ∧ serves s x = true ∧
        if f.bytes.length < 64 ∨
            dapTag f.bytes ≠ dapTagOf x.kmac "AQ1224-DAP-REQ" (f.bytes.take (f.bytes.length - 32)) then
          t = dropFrame f (updDict (fun d => { d with tagDrops := d.tagDrops + 1 })
            (match x.tagFails with
            | a :: b :: l => if s.clock ≤ b + 2000000000 then endSession x.id u
                else updSession x.id (fun x => { x with tagFails := [s.clock, a, b] }) u
            | l => updSession x.id (fun x => { x with tagFails := s.clock :: l }) u))
        else if dapSeq h = x.seq ∧ f.bytes = x.lastFrame then
          t = deliver f.path f.source x.lastResponse (updSession x.id (fun x => { x with lastGood := s.clock }) u)
        else (dapSeq h).toNat ≤ x.seq.toNat ∧
          t = dropFrame f { u with dict := { u.dict with seqDrops := u.dict.seqDrops + 1 } }) →
    (dapOp h = 0x10 → exec .read s = .next t) ∧ (dapOp h = 0x11 → exec .write s = .next t) ∧
    (dapOp h = 0x12 → exec .describe s = .next t) ∧ (dapOp h = 0x02 → exec .close s = .next t)) ∧
  (∀ (s u : State) (f : Frame) (fs : List Frame) (x : Session) (body : List Byte), u = frameTaken s f fs x →
    (FrameArrives s f fs 0x10 x body →
      (recordsOf false f = none → exec .read s = .next (malformed f x u)) ∧
      ∀ rs, recordsOf false f = some rs →
        exec .read s = .next (answer f x (readAll u rs 0).1.1 (readAll u rs 0).1.2 rs.length (readAll u rs 0).2 u)) ∧
    (FrameArrives s f fs 0x12 x body →
      (recordsOf false f = none → exec .describe s = .next (malformed f x u)) ∧
      ∀ rs, recordsOf false f = some rs →
        exec .describe s = .next (answer f x (if rs.any (fun r => r.reserved) then stConfigRejected else stOk)
          (if rs.any (fun r => r.reserved) then 4 else 0) rs.length (rs.flatMap (describeOne u)) u)) ∧
    (FrameArrives s f fs 0x02 x body →
      (frameForm f.bytes = false →
        exec .close s = .next (answer f x (formFault f.bytes).1 (formFault f.bytes).2 0 [] u)) ∧
      (frameForm f.bytes = true → ∃ t, exec .close s = .next t ∧
        sessionOf t x.id = none ∧ t.dict.accepted = s.dict.accepted + 1 ∧
        (∀ c, s.dict.lock = some (x.id, c) → t.dict.lock = none) ∧ t.dict.active = s.dict.active ∧
        t.dict.shadow = s.dict.shadow ∧ t.mem = s.mem ∧
        (f.path = 0 → Out.dapResponse 0 f.source (respond f (some x.kmac) 0 0 0 [] s).1 ∈ t.out))) ∧
    (FrameArrives s f fs 0x11 x body →
      (recordsOf true f = none → exec .write s = .next (malformed f x u)) ∧
      ∀ rs v, recordsOf true f = some rs →
        v = (rs.filter fun r => !isCmd r).foldl (fun s r => storeValue r.idx r.sub (leNat r.value) s) u →
        (mayWrite u f x rs = false ∨ (∃ r ∈ rs.dropLast, isCmd r = true) ∨ (∃ r ∈ rs, r.off ≠ 0) ∨
            (∃ r ∈ rs, (checkRecord u x r).1 ≠ stOk) ∨ keysOk u rs = false →
          ∃ t, exec .write s = .next t ∧ t.dict.active = s.dict.active ∧ t.dict.shadow = s.dict.shadow ∧
            t.dict.keys = s.dict.keys ∧ t.dict.accepted = s.dict.accepted + 1 ∧ t.obs = s.obs ∧ t.mem = s.mem ∧
            t.cust = s.cust ∧ t.steep = s.steep) ∧
        (mayWrite u f x rs = true → (∀ r ∈ rs.dropLast, isCmd r = false) → (∀ r ∈ rs, r.off = 0) →
          (∀ r ∈ rs, (checkRecord u x r).1 = stOk) → keysOk u rs = true →
          ((∀ r ∈ rs, isCmd r = false) → ∃ t, exec .write s = .next t ∧ t.dict.active = v.dict.active ∧
            t.dict.shadow = v.dict.shadow ∧ t.dict.keys = v.dict.keys ∧ t.obs = v.obs ∧
            t.dict.accepted = s.dict.accepted + 1 ∧ t.mem = s.mem ∧ t.cust = s.cust ∧ t.steep = s.steep) ∧
          (∀ r, rs.getLast? = some r → isCmd r = true → r.idx = 0xA010 → r.sub ≤ 2 →
            exec .write s = .next (runCmd f x r (answerWrite f x stOk 0 (rs.map fun r => (r, stOk)) v)).2) ∧
          (∀ r a, rs.getLast? = some r → isCmd r = true → ¬(r.idx = 0xA010 ∧ r.sub ≤ 2) → a = runCmd f x r v →
            ∃ t, exec .write s = .next t ∧
              if a.1.1 = stOk then t.mem = a.2.mem ∧ t.steep = a.2.steep ∧ t.fab = a.2.fab ∧ t.leaf = a.2.leaf ∧
                t.cust = a.2.cust ∧ t.front = a.2.front ∧ t.obs = a.2.obs ∧ t.dict.active = a.2.dict.active ∧
                t.dict.shadow = a.2.dict.shadow ∧ t.dict.commit = a.2.dict.commit
              else t.mem = s.mem ∧ t.steep = s.steep ∧ t.fab = s.fab ∧ t.leaf = s.leaf ∧ t.cust = s.cust ∧
                t.front = s.front ∧ t.obs = s.obs ∧ t.dict.active = s.dict.active ∧ t.dict.shadow = s.dict.shadow ∧
                t.dict.commit = s.dict.commit)))) ∧
  (∀ (s : State) (id : BitVec 32),
    ((∀ x, sessionOf s id = some x → x.state ≠ .opened) → exec (.sessionIdleTimeout id) s = .next s) ∧
    ((∀ x, sessionOf s id = some x → x.state ≠ .exchanging) → exec (.exchangeTimeout id) s = .next s)) ∧
  (∀ (s : State) (id : BitVec 32) (x : Session), sessionOf s id = some x →
    (x.state = .opened → ∃ t, exec (.sessionIdleTimeout id) s = .next t ∧
      sessionOf t id = none ∧ t.mem = s.mem ∧ t.out = s.out ∧ t.dict.active = s.dict.active ∧
      ((∀ a b c l, x.tagFails = a :: b :: c :: l → c + 2000000000 < a) →
        t.clock = clockAfter s (x.lastGood + 1200000000000)) ∧
      (∀ a b c l, x.tagFails = a :: b :: c :: l → a ≤ c + 2000000000 → t.clock = s.clock)) ∧
    (x.state = .exchanging → ∃ t, exec (.exchangeTimeout id) s = .next t ∧ sessionOf t id = none ∧
      t.dict.failedExchanges = s.dict.failedExchanges + 1 ∧ t.clock = clockAfter s (x.started + 2000000000) ∧
      t.mem = s.mem ∧ t.out = s.out ∧ t.dict.active = s.dict.active)) ∧
  (∀ (s : State) (id : BitVec 32),
    (mayStage s id = true →
      exec (.stagingLock id true) s = .next { s with dict := { s.dict with lock := some (id, s.clock) } } ∧
      exec (.stagingLock id false) s = .next { s with dict := { s.dict with lock := none } }) ∧
    (mayStage s id = false → ∀ b, exec (.stagingLock id b) s = .next s)) ∧
  (∀ s : State, s.dict.lock = none → exec .stagingLockTimeout s = .next s) ∧
  (∀ (s : State) (l : BitVec 32 × Nat), s.dict.lock = some l → ∃ t, exec .stagingLockTimeout s = .next t ∧
    t.dict = { s.dict with lock := none } ∧ t.clock = clockAfter s (l.2 + 20000000000) ∧ t.mem = s.mem ∧ t.out = s.out)

/-- CHECK by a session that may stage, with no COMMIT pending, begins a check, and CHECK_DONE writes the report of the rules on the shadow set. COMMIT reports likewise; in Locked or Standby for a steep in time, with no rule broken, it is pending; in another state of the engine, for steep 0, it swaps at once; else it changes only the report. COMMIT_SWAP at its boundary gives every RWS entry its shadow value where no rule is broken, one generation on, and else changes no value and records the rule. DISCARD makes the shadow set the active one and cancels a COMMIT at least 20 us ahead. REGISTER_WRITE of a good value to an RWS entry stages it, to an RW entry with no row of its own sets it at once, to a W1C entry clears the bits written; to a function's ASQ it stores the eight bytes; of a bad value, to any other entry, to an absent function or unaligned it changes nothing. MANAGER_KEY_LIST_WRITE stores the entry where the session may write it and a valid write-allowed entry, or none valid, remains. In any other case each changes nothing (spec/15_object_dictionary.md R434, spec/15_object_dictionary.md R441, spec/15_object_dictionary.md R442, spec/15_object_dictionary.md R443, spec/00_scope.md R9, spec/14_host_partitions_queues.md R396). -/
def Obligations.StagedConfigurationChecksCommitsAndSwaps : Prop :=
  (∀ (s : State) (id : BitVec 32),
    (mayStage s id = true → s.dict.commit = none → exec (.check id) s =
      .next { s with dict := { s.dict with checking := true, report := 1 } }) ∧
    (mayStage s id = false ∨ s.dict.commit ≠ none → exec (.check id) s = .next s ∧
      ∀ e, exec (.commit id e) s = .next s) ∧
    (mayStage s id = false → exec (.discard id) s = .next s)) ∧
  (∀ s : State, (s.dict.checking = true → exec .checkDone s = .next { s with dict := { s.dict with
      report := reportBits s (brokenRules none s), checking := false } }) ∧
    (s.dict.checking = false → exec .checkDone s = .next s)) ∧
  (∀ (s : State) (id : BitVec 32) (e : BitVec 64), mayStage s id = true → s.dict.commit = none →
    ∃ t, exec (.commit id e) s = .next t ∧ t.dict.shadow = s.dict.shadow ∧ t.dict.checking = false ∧
      t.dict.report = reportBits s (brokenRules none s) ∧
      if s.steep.engine = .locked ∨ s.steep.engine = .standby then
        t.dict.active = s.dict.active ∧ t.mem = s.mem ∧ t.out = s.out ∧
          t.dict.commit = if brokenRules none s = [] ∧ rule17 s (shadowView s) (some e) = none ∧
            boundary20us s s.time e = true ∧ e.toNat ≤ s.steep.k.toNat + 16777216 then some e else none
      else t.dict.commit = none ∧ if brokenRules none s = [] ∧ e = 0 then
          t.dict.generation = (s.dict.generation + 1) % 2 ^ 32 ∧ t.dict.commitStatus = statusBits 0 0 2 ∧
            ∀ i sub, sub < 256 → accessAt i sub = some .rws → cfg t i sub = cfgShadow s i sub
        else t.dict.active = s.dict.active ∧ t.mem = s.mem ∧ t.out = s.out) ∧
  (∀ s : State, (∀ e, s.dict.commit = some e → boundariesKnown s = false ∨ hasBegun s e = false) →
    exec .commitSwap s = .next s) ∧
  (∀ (s : State) (e : BitVec 64), s.dict.commit = some e → boundariesKnown s = true → hasBegun s e = true →
    ∃ t, exec .commitSwap s = .next t ∧ t.dict.commit = none ∧ t.dict.shadow = s.dict.shadow ∧
      match brokenRules (some s.steep.k) s with
      | [] => t.dict.generation = (s.dict.generation + 1) % 2 ^ 32 ∧ t.dict.commitStatus = statusBits e 0 2 ∧
          ∀ i sub, sub < 256 → accessAt i sub = some .rws → cfg t i sub = cfgShadow s i sub
      | r :: _ => t.dict.generation = s.dict.generation ∧ t.dict.commitStatus = statusBits e r.1 3 ∧
          t.dict.active = s.dict.active ∧ t.mem = s.mem) ∧
  (∀ (s : State) (id : BitVec 32), mayStage s id = true → ∃ t, exec (.discard id) s = .next t ∧
    t.dict.active = s.dict.active ∧
    (∀ i sub, sub < 256 → accessAt i sub = some .rws → cfgShadow t i sub = cfg s i sub) ∧
    t.dict.commit = (match s.dict.commit with
      | none => none
      | some e => if atLeast20us s e then none else some e) ∧
    t = { s with dict := { s.dict with shadow := t.dict.shadow, commit := t.dict.commit,
                                       commitStatus := t.dict.commitStatus } }) ∧
  (∀ (s : State) (i : BitVec 16) (sub : BitVec 8) (value : List Byte) (target : BitVec 32),
    target = BitVec.ofNat 32 (256 * i.toNat + sub.toNat) →
    (accessAt i.toNat sub.toNat = some .rws → s.dict.commit = none → valueDetail s i.toNat sub.toNat value = 0 →
      ∃ t, exec (.registerWrite target value) s = .next t ∧
        cfgShadow t i.toNat sub.toNat = leNat value ∧ t.dict.active = s.dict.active ∧
        t = { s with dict := { s.dict with shadow := t.dict.shadow } }) ∧
    (accessAt i.toNat sub.toNat = some .rw → i = 0x2020 ∨ i = 0x6300 → valueDetail s i.toNat sub.toNat value = 0 →
      ∃ t, exec (.registerWrite target value) s = .next t ∧ cfg t i.toNat sub.toNat = leNat value ∧
        t = { s with dict := { s.dict with active := t.dict.active },
                     obs := { s.obs with ringCount := if i = 0x6300 ∧ sub = 2 then 0 else s.obs.ringCount } }) ∧
    (accessAt i.toNat sub.toNat = some .w1c → valueDetail s i.toNat sub.toNat value = 0 →
      exec (.registerWrite target value) s = .next { s with obs := { s.obs with
        blocks := supd {} (i.toNat - 0x6100) (fun b => { b with ovf := b.ovf &&& ~~~(BitVec.ofNat 8 (leNat value)) })
          s.obs.blocks } }) ∧
    (valueDetail s i.toNat sub.toNat value ≠ 0 ∨
      (accessAt i.toNat sub.toNat = some .rws ∧ s.dict.commit ≠ none) ∨
      (accessAt i.toNat sub.toNat = some .rw ∧ i ≠ 0x2020 ∧ i ≠ 0x6300) ∨
      accessAt i.toNat sub.toNat = some .cmd ∨ accessAt i.toNat sub.toNat = some .wo →
      exec (.registerWrite target value) s = .next s)) ∧
  (∀ (s : State) (fn : BitVec 6) (value : BitVec 64), s.inv = true → (partOf s fn.toNat).state ≠ .absent →
    ∃ t, exec (.registerWrite (BitVec.ofNat 32 (0x80000000 + 0x1000000 * fn.toNat + 0x10008)) (wordBytes value)) s =
      .next t ∧ partOf t fn.toNat = { partOf s fn.toNat with asq := value } ∧
      t = { s with front := { s.front with parts := t.front.parts } } ∧
      ∀ i, i ≠ fn.toNat → partOf t i = partOf s i) ∧
  (∀ (s : State) (fn : BitVec 6) (o : BitVec 21) (value : List Byte),
    (partOf s fn.toNat).state = .absent ∨ (value.length ≠ 4 ∧ value.length ≠ 8) ∨ o.toNat % value.length ≠ 0 →
    exec (.registerWrite (BitVec.ofNat 32 (0x80000000 + 0x1000000 * fn.toNat + o.toNat)) value) s = .next s) ∧
  (∀ (s : State) (id : BitVec 32) (sub : BitVec 8) (value : BitVec 264) (new : Sparse (BitVec 264)) (may : Prop),
    new = sput 0 (sub.toNat - 1) value s.dict.keys →
    may = ((∃ x, sessionOf s id = some x ∧ serves s x = true ∧
          (x.writeAllowed = true ∨ (x.keyed = false ∧ (managerKeys s).any keyValid = false))) ∧
        1 ≤ sub.toNat ∧ sub.toNat ≤ 8 ∧ fld value 258 6 = (0 : BitVec 6) ∧
        ((∃ j, j < 8 ∧ keyWrites (sget 0 j new) = true) ∨ ∀ j, j < 8 → keyValid (sget 0 j new) = false)) →
    (may → exec (.managerKeyListWrite id sub value) s = .next { s with dict := { s.dict with keys := new } }) ∧
    (¬may → exec (.managerKeyListWrite id sub value) s = .next s))

/-! ### Counters, snapshots and the trace (spec/16, spec/04) -/

/-- In Off and Listen a select of a defined event sets the counter to 0 with the new event at once, and a clear sets every counter and the overflow register of the block to 0; in any other engine state both wait, with the steep of their write, and nothing else of the block changes. Every other block is as before. A select of an event that the block's type does not define, and a select or clear of no block, changes nothing. HISTOGRAM_CLEAR waits for the boundary; EVENT_COUNT_CLEAR clears the event counts and nothing else. At COUNTER_BOUNDARY a select or clear of an earlier steep takes effect (a counter of event 0x002 counts that boundary), a block with none, or with one of the present steep, is unchanged, and a waiting histogram clear of an earlier steep leaves every histogram empty (spec/16_performance_counters.md R449, spec/16_performance_counters.md R453, spec/04_numerics.md R134). -/
def Obligations.CountersSelectClearAndBoundary : Prop :=
  (∀ (s : State) (block : BitVec 8) (i : BitVec 3) (ev : BitVec 16) (b : CounterBlock),
    sparseWf {} s.obs.blocks = true → b = sget {} block.toNat s.obs.blocks → block.toNat ≤ 0xB0 →
    (eventDefined block.toNat ev.toNat = false → exec (.counterSelect block i ev) s = .next s) ∧
    (eventDefined block.toNat ev.toNat = true →
      ∃ t, exec (.counterSelect block i ev) s = .next t ∧ t = { s with obs := { s.obs with blocks := t.obs.blocks } } ∧
        (∀ j, j ≠ block.toNat → sget {} j t.obs.blocks = sget {} j s.obs.blocks) ∧
        (s.steep.engine = .off ∨ s.steep.engine = .listen → sget {} block.toNat t.obs.blocks =
          { b with sel := sput 0 i.toNat (BitVec.ofNat 10 ev.toNat) b.sel, selNext := sput none i.toNat none b.selNext,
                   ctr := sput 0 i.toNat 0 b.ctr }) ∧
        (s.steep.engine ≠ .off → s.steep.engine ≠ .listen → sget {} block.toNat t.obs.blocks =
          { b with selNext := sput none i.toNat (some (BitVec.ofNat 10 ev.toNat, s.steep.k)) b.selNext })) ∧
    ∃ t, exec (.counterClear block) s = .next t ∧ t = { s with obs := { s.obs with blocks := t.obs.blocks } } ∧
      (∀ j, j ≠ block.toNat → sget {} j t.obs.blocks = sget {} j s.obs.blocks) ∧
      (s.steep.engine = .off ∨ s.steep.engine = .listen → sparseWf 0 b.ctr = true →
        (sget {} block.toNat t.obs.blocks).ovf = 0 ∧ (sget {} block.toNat t.obs.blocks).sel = b.sel ∧
        ∀ n, n < 8 → sget 0 n (sget {} block.toNat t.obs.blocks).ctr = 0) ∧
      (s.steep.engine ≠ .off → s.steep.engine ≠ .listen →
        sget {} block.toNat t.obs.blocks = { b with clearNext := some s.steep.k })) ∧
  (∀ (s : State) (block : BitVec 8), 0xB0 < block.toNat → exec (.counterClear block) s = .next s ∧
    ∀ i ev, exec (.counterSelect block i ev) s = .next s) ∧
  (∀ s : State, exec .histogramClear s = .next { s with obs := { s.obs with histClear := some s.steep.k } } ∧
    exec .eventCountClear s = .next { s with obs := { s.obs with events := [] } }) ∧
  (∀ s : State, sparseWf {} s.obs.blocks = true → ∃ t, exec .counterBoundary s = .next t ∧
    t = { s with obs := { s.obs with blocks := t.obs.blocks, histClear := t.obs.histClear, hists := t.obs.hists } } ∧
    (∀ j (b : CounterBlock), b = sget {} j s.obs.blocks →
      (b.clearNext = none → b.selNext = [] → sget {} j t.obs.blocks = b) ∧
      (∀ e, b.clearNext = some e → b.selNext = [] → ahead s.steep.k e = 0 → sget {} j t.obs.blocks = b) ∧
      (∀ n (ev : BitVec 10) (e : BitVec 64), b.clearNext = none → b.selNext = [(n, some (ev, e))] →
        ahead s.steep.k e = 0 → sget {} j t.obs.blocks = b) ∧
      (∀ e, b.clearNext = some e → b.selNext = [] → ahead s.steep.k e ≠ 0 → sparseWf 0 b.ctr = true →
        (sget {} j t.obs.blocks).ovf = 0 ∧ (sget {} j t.obs.blocks).clearNext = none ∧
        (sget {} j t.obs.blocks).sel = b.sel ∧
        ∀ n, n < 8 → sget 0 n (sget {} j t.obs.blocks).ctr = if sget 0 n b.sel = 2 then 1 else 0) ∧
      (∀ n (ev : BitVec 10) (e : BitVec 64), b.clearNext = none → n < 8 → b.selNext = [(n, some (ev, e))] →
        ahead s.steep.k e ≠ 0 → sget {} j t.obs.blocks =
          { b with sel := sput 0 n ev b.sel, selNext := [], ctr := sput 0 n (if ev = 2 then 1 else 0) b.ctr })) ∧
    (s.obs.histClear = none → t.obs.hists = s.obs.hists ∧ t.obs.histClear = none) ∧
    (∀ e, s.obs.histClear = some e → ahead s.steep.k e = 0 →
      t.obs.hists = s.obs.hists ∧ t.obs.histClear = some e) ∧
    (∀ e, s.obs.histClear = some e → ahead s.steep.k e ≠ 0 → t.obs.hists = [] ∧ t.obs.histClear = none))

/-- SNAPSHOT_FREEZE puts what the buffers hold into the next of the four slots with the number of snapshots taken, leaves every other slot as it was, and marks the records of a slot that is still being gathered STALE and zero and that slot COMPLETE; with no order it changes nothing. SNAPSHOT_GATHER_DONE makes the slot that is being gathered COMPLETE and the latest. TRACE_WRITE takes the first held record in canonical order once its hold of 4,000 cycles is over, and stores its 32 bytes at the next place of the ring, LATE where a record of a later time is stored already; the last of a 4 KiB block sends the block to the host ring; in stop mode a full ring loses it and stores nothing; a count of dropped records goes into one LOST record; with no record held it changes nothing (spec/16_performance_counters.md R454, spec/16_performance_counters.md R455, spec/16_performance_counters.md R458, spec/16_performance_counters.md R459). -/
def Obligations.SnapshotsAndTraceRecordsAreWritten : Prop :=
  (∀ s : State, s.obs.frozen = none → exec .snapshotFreeze s = .next s) ∧
  (∀ (s : State) (x : Snapshot), s.obs.frozen = some x → sparseWf {} s.obs.slots = true →
    ∃ t, exec .snapshotFreeze s = .next t ∧ t.obs.frozen = none ∧ t.obs.taken = s.obs.taken + 1 ∧
      sget {} (s.obs.taken % 4) t.obs.slots = { x with seq := BitVec.ofNat 32 (s.obs.taken + 1) } ∧
      (∀ j, j ≠ s.obs.taken % 4 → (sget {} j s.obs.slots).state ≠ 1 → sget {} j t.obs.slots = sget {} j s.obs.slots) ∧
      (∀ j, j ≠ s.obs.taken % 4 → (sget {} j s.obs.slots).state = 1 → sget {} j t.obs.slots =
        { sget {} j s.obs.slots with state := 2, stale := true, blocks := [], hists := [], cyc := 0 }) ∧
      t = { s with obs := t.obs, steep := { s.steep with oseq := t.steep.oseq } } ∧ t.obs.blocks = s.obs.blocks) ∧
  (∀ (s : State) (j : Nat), sparseWf {} s.obs.slots = true → j < 4 → (sget {} j s.obs.slots).state = 1 →
    (∀ i, i < j → (sget {} i s.obs.slots).state ≠ 1) →
    ∃ t, exec .snapshotGatherDone s = .next t ∧ t.obs.latest = BitVec.ofNat 8 j ∧
      sget {} j t.obs.slots = { sget {} j s.obs.slots with state := 2 } ∧
      (∀ i, i ≠ j → sget {} i t.obs.slots = sget {} i s.obs.slots) ∧
      t = { s with obs := { s.obs with latest := t.obs.latest, slots := t.obs.slots } }) ∧
  (∀ s : State, (∀ i, i < 4 → (sget {} i s.obs.slots).state ≠ 1) → exec .snapshotGatherDone s = .next s) ∧
  (∀ s : State, s.obs.staging = [] → exec .traceWrite s = .next s) ∧
  (∀ (s : State) (r : TraceRec) (a : Nat), r ∈ s.obs.staging → a = ringBase + s.obs.written % 2097152 * 32 →
    (∀ q ∈ s.obs.staging, q = r ∨ canonLt (recKey r) (recKey q) = true) →
    ∃ t, exec .traceWrite s = .next t ∧ t.clock = clockAfter s (r.made + 4000) ∧ t.cust = s.cust ∧ t.prog = s.prog ∧
      (s.obs.dropped = 0 ∨ (cfg s 0x6300 1).testBit 0x12 = false ∨ 4096 ≤ (s.obs.staging.erase r).length →
        t.obs.staging = s.obs.staging.erase r ∧ t.obs.dropped = s.obs.dropped) ∧
      (s.obs.dropped ≠ 0 → (cfg s 0x6300 1).testBit 0x12 = true → (s.obs.staging.erase r).length < 4096 →
        t.obs.dropped = 0 ∧ ∃ q, t.obs.staging = s.obs.staging.erase r ++ [q] ∧ q.type = 0x12 ∧
          q.data = BitVec.ofNat 128 s.obs.dropped) ∧
      (cfg s 0x6300 2 ≠ 1 ∨ s.obs.ringCount < 2097152 →
        t.obs.written = s.obs.written + 1 ∧ t.obs.lost = s.obs.lost ∧
        (∀ w, w = writeStored false a (wordBytes (recBits (decide (ahead s.obs.lastWritten r.time ≠ 0)) r)) s →
          (s.obs.written % 128 ≠ 127 ∨ bits (cfg s 0x6300 6) 64 32 = 0 → t.mem = w.mem ∧ t.out = s.out) ∧
          (s.obs.written % 128 = 127 → bits (cfg s 0x6300 6) 64 32 ≠ 0 → ∀ x, x = hostWrite 0
            (bits (cfg s 0x6300 6) 0 64 + s.obs.written / 128 % bits (cfg s 0x6300 6) 64 32 * 4096)
            (memRead w.mem (a / 4096 * 4096) 4096) w → t.mem = x.mem ∧ t.out = x.out))) ∧
      (cfg s 0x6300 2 = 1 → 2097152 ≤ s.obs.ringCount →
        t.obs.written = s.obs.written ∧ t.obs.lost = s.obs.lost + 1 ∧ t.mem = s.mem ∧ t.out = s.out))

/-! ### Start-up, resets and pins (spec/17, spec/18) -/

/-- HOUSEKEEPING_RAIL in POR begins stage 1 and MEASURE, and does nothing later. MAIN_INPUT_GOOD is noted, and brings HX up where start-up has stopped. STAGE_ADVANCE does nothing once start-up is done or stopped; it goes from stage 1 to 2 out of POR, reads the identity memories into stage 3 or stops with the row of Table SR-2 that failed, waits in stage 3 for the Custody Controller, the main input and RESET_L, brings HX up with stage 4 (after a module reset with the site strap read again), and begins stages 5, 6, 7 and 8 no earlier than T_R + 20, 40, 400 and 500 ms, after the hard repairs that are pending, with every HBM byte zero from stage 7 on and all other memory kept; stages 9, 10 and 11 follow discovery and the steep engine, and stage 11 reads done. Each brings up the rails of Table SR-1. STAGE_TIMEOUT waits for the limit of the stage (2 and 3 together 1.5 s, 6 400 ms, 7 200 ms, 8 and 9 those of Table FB-7, 10 the 5 s of R53), stops start-up with its cause, every rail but HX off, and drives FAULT_L low; in a stage with no limit it does nothing (spec/17_start_reset_recovery.md R464, spec/17_start_reset_recovery.md R465, spec/17_start_reset_recovery.md R467, spec/18_module_physical.md R482). -/
def Obligations.StartUpRunsItsStages : Prop :=
  (∀ s : State, exec .housekeepingRail s = .next (if s.cust.state = .por then
    { s with boot := { s.boot with stage := 1, stageAt := s.clock, startClock := s.clock }, cust := { s.cust with state := .measure } }
    else s)) ∧
  (∀ s : State, (s.boot.status ≠ 2 ∨ s.boot.stage = 0 →
      exec .mainInputGood s = .next { s with boot := { s.boot with mainGood := true } }) ∧
    (s.boot.status = 2 → s.boot.stage ≠ 0 → ∃ t, exec .mainInputGood s = .next t ∧ t.boot.mainGood = true ∧
      t.boot.railHx = true ∧ t.boot.status = 2 ∧ t.mem = s.mem ∧ t.cust = s.cust ∧ t.dict = s.dict)) ∧
  (∀ (s : State) (id : Identity), s.boot.status ≠ 0 → exec (.stageAdvance id) s = .next s) ∧
  (∀ (s : State) (id : Identity), s.boot.status = 0 → s.boot.stage = 1 → s.cust.state ≠ .por →
    exec (.stageAdvance id) s = .next { s with boot := { s.boot with stage := 2, stageAt := s.clock } }) ∧
  (∀ (s : State) (id : Identity), s.boot.status = 0 → s.boot.stage = 2 → s.cust.state ≠ .por →
    ∃ t, exec (.stageAdvance id) s = .next t ∧ t.boot.stage = 3 ∧ t.mem = s.mem ∧ t.cust = s.cust ∧ t.dict = s.dict ∧
      match identityFailure id with
      | none => t.boot.status = 0 ∧ t.boot.identified = true ∧ t.boot.serial = id.serial ∧ t.boot.mac = id.mac ∧
          t.fab.sna = snaFrom (fld id.board 24 8) id.strap
      | some row => t.boot.status = 2 ∧ t.boot.faultL = false ∧ t.boot.identified = s.boot.identified ∧
          fld t.boot.lastFault 56 8 = 1 ∧ fld t.boot.lastFault 48 8 = BitVec.ofNat 8 row) ∧
  (∀ (s : State) (id : Identity), s.boot.status = 0 → s.boot.stage = 3 → s.boot.siteAgain = false →
    (s.boot.identified = true → (s.cust.state = .ready ∨ s.cust.state = .sealBroken) → s.boot.mainGood = true →
      s.boot.resetL = true → ∃ t, exec (.stageAdvance id) s = .next t ∧ t.boot.stage = 4 ∧ t.boot.railHx = true ∧
        t.boot.rails = 0x001 ∧ t.boot.status = 0 ∧ t.clock = s.clock ∧ t.mem = s.mem ∧ t.cust = s.cust) ∧
    ((s.boot.mainGood = false ∨ s.boot.resetL = false) → exec (.stageAdvance id) s = .next s)) ∧
  (∀ (s : State) (id : Identity), s.boot.status = 0 → s.boot.stage = 3 →
    (s.boot.identified = false ∨ (s.cust.state ≠ .ready ∧ s.cust.state ≠ .sealBroken) ∨ s.boot.mainGood = false ∨
      s.boot.resetL = false → exec (.stageAdvance id) s = .next s) ∧
    (s.boot.siteAgain = true → s.boot.identified = true → (s.cust.state = .ready ∨ s.cust.state = .sealBroken) →
      s.boot.mainGood = true → s.boot.resetL = true → ∃ t, exec (.stageAdvance id) s = .next t ∧ t.mem = s.mem ∧
        t.cust = s.cust ∧ t.boot.railHx = true ∧
        if 8 < id.strap.toNat then t.boot.stage = 3 ∧ t.boot.status = 2 ∧ fld t.boot.lastFault 48 8 = 3
        else t.boot.stage = 4 ∧ t.boot.status = 0 ∧ t.boot.siteAgain = false ∧ t.boot.site = id.strap ∧
          fld t.fab.sna 9 7 = (fld s.fab.sna 9 7 : BitVec 7) ∧ fld t.fab.sna 0 9 = BitVec.ofNat 9 (32 * id.strap.toNat))) ∧
  (∀ (s : State) (id : Identity), s.boot.status = 0 →
    ((s.boot.stage = 1 ∨ s.boot.stage = 2) → s.cust.state = .por → exec (.stageAdvance id) s = .next s) ∧
    (s.boot.stage = 8 → floodReached s = false → exec (.stageAdvance id) s = .next s) ∧
    (s.boot.stage = 9 → s.fab.discovery ≠ .complete → exec (.stageAdvance id) s = .next s) ∧
    (s.boot.stage = 10 → s.steep.engine ≠ .locked → s.steep.engine ≠ .standby →
      exec (.stageAdvance id) s = .next s) ∧
    (s.boot.stage = 0 ∨ 10 < s.boot.stage → exec (.stageAdvance id) s = .next s)) ∧
  (∀ (s : State) (id : Identity) (soft : Nat → Nat) (wait : Nat), s.inv = true → s.boot.status = 0 →
    4 ≤ s.boot.stage → s.boot.stage ≤ 7 → (s.boot.stage = 7 → id.leafGood = true) →
    soft = (fun st => s.hbm.log.countP fun e => e.2.2.2.2 = 2 && e.1 = st) →
    wait = (if s.boot.stage = 6 ∧ s.boot.hardRepair = true then
      500000000 * (List.range 12).foldl (fun m st => max m (soft st)) 0 else 0) →
    ∃ t, exec (.stageAdvance id) s = .next t ∧ t.boot.stage = s.boot.stage + 1 ∧ t.boot.status = 0 ∧ t.cust = s.cust ∧
      t.clock = max (s.clock + wait) (s.boot.readyClock + (match s.boot.stage with
        | 4 => 20 | 5 => 40 | 6 => 400 | _ => 500) * 2000000) ∧
      t.boot.rails = (match s.boot.stage with | 4 => 0x003 | 5 => 0x03F | _ => 0x3FF) ∧ t.boot.stageAt = t.clock ∧
      (s.boot.stage = 6 → s.boot.hardRepair = true → t.boot.hardRepair = false ∧ ∀ e ∈ t.hbm.log, e.2.2.2.2 = 3) ∧
      ∀ a, memByte t.mem a = if s.boot.stage = 6 ∧ hbmStack a ≠ none then 0 else memByte s.mem a) ∧
  (∀ (s : State) (id : Identity), s.boot.status = 0 → s.boot.stage = 7 → id.leafGood = false →
    ∃ t, exec (.stageAdvance id) s = .next t ∧ t.boot.stage = 7 ∧ t.boot.status = 2 ∧ t.boot.faultL = false ∧
      fld t.boot.lastFault 48 8 = 5) ∧
  (∀ (s : State) (id : Identity), s.boot.status = 0 →
    (s.boot.stage = 8 → (s.fab.discovery = .flood ∨ s.fab.discovery = .routes ∨ s.fab.discovery = .complete) →
      exec (.stageAdvance id) s = .next { s with boot := { s.boot with stage := 9, stageAt := s.clock } }) ∧
    (s.boot.stage = 9 → s.fab.discovery = .complete →
      exec (.stageAdvance id) s = .next { s with boot := { s.boot with stage := 10, stageAt := s.clock } }) ∧
    (s.boot.stage = 10 → (s.steep.engine = .locked ∨ s.steep.engine = .standby) → exec (.stageAdvance id) s = .next
      { s with boot := { s.boot with
          stage := 11, stageAt := s.clock, status := 1, timeToReady := (s.clock - s.boot.startClock) / 2000000 } }) ∧
    (s.boot.stage = 10 → s.steep.engine = .listen → exec (.stageAdvance id) s = .next s)) ∧
  (∀ (s : State) (cause : BitVec 8), s.boot.status ≠ 0 ∨ s.boot.stage < 2 ∨ 10 < s.boot.stage ∨ s.boot.stage = 4 ∨
      s.boot.stage = 5 ∨ (s.boot.stage = 3 ∧ s.boot.identified = true ∧ s.cust.state ≠ .measure) →
    exec (.stageTimeout cause) s = .next s) ∧
  (∀ (s : State) (cause : BitVec 8) (limit : Nat), s.boot.status = 0 →
    (s.boot.stage = 2 ∧ limit = s.boot.startClock + 3000000000) ∨
    (s.boot.stage = 3 ∧ (s.boot.identified = false ∨ s.cust.state = .measure) ∧ limit = s.boot.startClock + 3000000000) ∨
    (s.boot.stage = 6 ∧ limit = s.boot.stageAt + 800000000) ∨ (s.boot.stage = 7 ∧ limit = s.boot.stageAt + 400000000) ∨
    (s.boot.stage = 8 ∧ limit = s.boot.stageAt + 20000000000) ∨ (s.boot.stage = 9 ∧ limit = s.boot.stageAt + 10000000000) ∨
    (s.boot.stage = 10 ∧ limit = s.steep.listenAt + 10000000000) →
    ∃ t, exec (.stageTimeout cause) s = .next t ∧ t.clock = clockAfter s limit ∧
      t.boot.status = 2 ∧ t.boot.stage = s.boot.stage ∧ t.boot.faultL = false ∧ t.boot.rails = 0 ∧
      t.steep.engine = (if s.steep.engine = .listen then .stopped else s.steep.engine) ∧
      fld t.boot.lastFault 56 8 = 1 ∧ fld t.boot.lastFault 48 8 = cause ∧ t.boot.lastFault ∈ t.boot.faultLog ∧
      (s.boot.mainGood = true → t.boot.railHx = true) ∧ t.mem = s.mem ∧ t.cust = s.cust ∧ t.dict = s.dict)

/-- A module reset keeps the bytes of the leaf stacks and no other byte of memory, takes the steep engine, cores, queues, partitions, adapters, reduction and Dictionary to what they are at reset (manager keys apart), and returns to the first stage that it repeats; the Custody Controller's state, boot value, KEM count and MR0, MR1 and MR3 are kept, every key slot not FREE or RETIRED is removed with its generation one higher (0xFFFF at most) and is FREE, or RETIRED at 0xFFFF, and every other slot is kept; a half being installed is EMPTY, any other as it was. A maintenance reset is a module reset with the hard repairs pending; the reset pin is one 20,000 cycles later with RESET_L low, and its release sets the line high alone. Loss of the housekeeping rail keeps the leaf bytes, the stored base keys, manager keys and fault log, empties a half being installed, and stages a retained half (spec/17_start_reset_recovery.md R469, spec/17_start_reset_recovery.md R465, spec/18_module_physical.md R493). -/
def Obligations.ResetsClearAndKeep : Prop :=
  (∀ s : State, s.inv = true → 1 ≤ s.boot.stage → ∃ t, exec .moduleReset s = .next t ∧ t.pending = s.pending ∧
    (∀ a, memByte t.mem a = if 0x040000000000 ≤ a ∧ a < 0x060000000000 then memByte s.mem a else 0) ∧
    t.steep = State.reset.steep ∧ t.prog = State.reset.prog ∧ t.front = State.reset.front ∧ t.ad = State.reset.ad ∧
    t.red = State.reset.red ∧ t.dict = { State.reset.dict with keys := s.dict.keys } ∧ t.timeKnown = false ∧
    t.boot.status = 0 ∧ t.boot.faultLog = s.boot.faultLog ∧ t.boot.stopped = none ∧
    t.boot.stage = (if s.boot.stage = 1 then 1 else if s.boot.identified then 3 else 2) ∧
    t.cust.state = s.cust.state ∧ t.cust.boot = s.cust.boot ∧ t.cust.kem = s.cust.kem ∧ t.cust.mr0 = s.cust.mr0 ∧
    t.cust.mr1 = s.cust.mr1 ∧ t.cust.mr3 = s.cust.mr3 ∧ t.cust.nonces = s.cust.nonces ∧ t.power = s.power ∧
    (∀ h, recOf t h = if halfState s h = 1 then emptyRec (recOf s h) else recOf s h) ∧
    (∀ n, (slotOf s n).state = .free ∨ (slotOf s n).state = .retired → slotOf t n = slotOf s n) ∧
    (∀ n (g : BitVec 16), (slotOf s n).state ≠ .free → (slotOf s n).state ≠ .retired →
      g = (if (slotOf s n).gen = 0xFFFF then 0xFFFF else (slotOf s n).gen + 1) →
      slotOf t n = { state := if g = 0xFFFF then .retired else .free, gen := g, parity := (slotOf s n).parity }) ∧
    exec .maintenanceReset s = .next { t with boot := { t.boot with hardRepair := true } }) ∧
  (∀ s : State, 1 ≤ s.boot.stage → ∃ t, exec .moduleReset (elapse 20000 s) = .next t ∧
    exec .resetPin s = .next { t with boot := { t.boot with resetL := false } } ∧ t.clock = s.clock + 20000) ∧
  (∀ s : State, s.boot.stage = 0 → exec .moduleReset s = .next s ∧ exec .maintenanceReset s = .next s ∧
    exec .resetPin s = .next s) ∧
  (∀ s : State, exec .resetPinRelease s = .next { s with boot := { s.boot with resetL := true } }) ∧
  (∀ s : State, s.inv = true → ∃ t, exec .housekeepingRailLoss s = .next t ∧ t.pending = s.pending ∧
    (∀ a, memByte t.mem a = if 0x040000000000 ≤ a ∧ a < 0x060000000000 then memByte s.mem a else 0) ∧
    t.boot = { State.reset.boot with faultLog := s.boot.faultLog, resetL := s.boot.resetL } ∧
    t.cust = { State.reset.cust with stored0 := s.cust.stored0, stored1 := s.cust.stored1, kem := s.cust.kem } ∧
    t.dict = { State.reset.dict with keys := s.dict.keys } ∧ t.steep = State.reset.steep ∧
    t.front = State.reset.front ∧ t.ad = State.reset.ad ∧ t.clock = 0 ∧
    ∀ h : Bool, (halfState s h = 1 → halfState t h = 0) ∧ (halfState s h = 4 → halfState t h = 2) ∧
      (halfState s h ≠ 1 → halfState s h ≠ 4 → recOf t h = recOf s h))

/-- An environment violation of a cause of Table SR-5, where no stop is in force, is an orderly stop: the steep engine, where it is not Off, is Stopped, no accepted command is left, each completes with SHUTDOWN while the PCIe link is up, every key slot not FREE or RETIRED holds no key and is SCRUBBING, every port is DOWN, the fault record with cause and reading ends the fault log, FAULT_L is low and the rails of the other dies are off. A second cause changes nothing, but that an input voltage outside its limits is noted; no other cause changes anything. PERST_L low with RESET_L high resets every partition that is not ABSENT and clears VF Enable; with RESET_L low it does nothing. FAULT_LOG_READ of a place that holds a record reads it; an index above 63 does nothing; a place without a record reads a free value (the spec states none) (spec/17_start_reset_recovery.md R472, spec/17_start_reset_recovery.md R473, spec/14_host_partitions_queues.md R412, spec/18_module_physical.md R493, spec/17_start_reset_recovery.md R479). -/
def Obligations.ViolationsStopTheModule : Prop :=
  (∀ (s : State) (cause : BitVec 8) (reading : BitVec 16), 1 ≤ cause.toNat → cause.toNat ≤ 9 →
    (s.boot.stopped = none → s.inv = true → ∃ t, exec (.environmentViolation cause reading) s = .next t ∧
      t.steep.engine = (if s.steep.engine = .off then .off else .stopped) ∧ t.front.cmds = [] ∧ t.boot.stopped = some s.clock ∧ t.boot.shutdown = true ∧
      t.boot.faultL = false ∧ t.boot.rails = 0 ∧ t.boot.railHx = s.boot.railHx ∧
      fld t.boot.lastFault 48 8 = cause ∧ fld t.boot.lastFault 16 16 = reading ∧
      t.boot.faultLog.getLast? = some t.boot.lastFault ∧ t.boot.faultLog.length ≤ 64 ∧
      (s.boot.pcieWidth ≠ 0 → ∀ c ∈ s.front.cmds, ∃ r ∈ t.front.ready, r.cmd = c.id ∧ r.status = 0x0D) ∧
      (∀ n, (slotOf s n).state ≠ .free → (slotOf s n).state ≠ .retired → (slotOf t n).state = .scrubbing ∧
        (slotOf t n).cur = none ∧ (slotOf t n).prev = none) ∧
      (∀ p, p < 16 → (portOf t p).state = .down)) ∧
    (∀ c, s.boot.stopped = some c → exec (.environmentViolation cause reading) s = .next (if cause = 1 then
      { s with boot := { s.boot with mainGood := false } } else s))) ∧
  (∀ (s : State) (cause : BitVec 8) (reading : BitVec 16), cause = 0 ∨ 9 < cause.toNat →
    exec (.environmentViolation cause reading) s = .next s) ∧
  (∀ s : State, s.inv = true → (s.boot.resetL = false → exec .perst s = .next s) ∧
    (s.boot.resetL = true → ∃ t, exec .perst s = .next t ∧ t.boot.vfEnable = false ∧ t.mem = s.mem ∧ t.cust = s.cust ∧
      (∀ p, p < 64 → (partOf s p).state ≠ .absent → (partOf t p).state = .resetting) ∧
      (∀ p, p < 64 → (partOf s p).state = .idle ∨ (partOf s p).state = .running →
        (partOf t p).resetAt = some s.clock ∧ (partOf t p).tdi ≠ .run) ∧
      (∀ p, (partOf s p).state = .absent → partOf t p = partOf s p))) ∧
  (∀ (s : State) (i : BitVec 32), (64 ≤ i.toNat → exec (.faultLogRead i) s = .next s) ∧
    (∀ r, i.toNat < 64 → s.boot.faultLog[i.toNat]? = some r →
      exec (.faultLogRead i) s = .next { s with boot := { s.boot with faultRead := r } }) ∧
    (i.toNat < 64 → s.boot.faultLog[i.toNat]? = none → ∃ v : BitVec 128,
      exec (.faultLogRead i) s = .next { s with free := s.free + 1, boot := { s.boot with faultRead := v } }))

/-! ### Rules of the whole block (spec/02, spec/13, spec/14, spec/16) -/

/-- In every state in which boundaries are known and the wave point of the present steep k has not come, whatever any entry of the Dictionary holds, WAVE_POINT answers a next state at the time B(k+1) - 32,000 cycles, or at the present time where that is later; replacing both sets of Dictionary entries by any others, for the same B(k+1), changes that time in nothing. 32,000 cycles of 0.5 ns are 16 µs (spec/02_steeps_and_time.md R37). -/
def Obligations.WavePointIsFixedBeforeTheBoundary : Prop :=
  (∀ (s : State) (d : Dictionary), boundariesKnown s = true → s.steep.waved = false →
    ∃ t u, exec .wavePoint s = .next t ∧ t.time = waited s (nextB s - 32000) ∧ t.steep.waved = true ∧
      exec .wavePoint { s with dict := d } = .next u ∧ u.time = t.time) ∧
  32000 = 16 * cyclesPerUs

/-- A short stamp has 56 bits: [55:24] is the low 32 bits of the steep number, and [23:0] is the cycle offset of the present time from the steep's boundary, exactly, at every time of a steep of at most 8,000,000 cycles, since such an offset is below 2^24. A full stamp is the 64-bit Spapor time: it is what an event's record carries as its time (spec/02_steeps_and_time.md R54). -/
def Obligations.StampsHoldSteepAndOffset : Prop :=
  (∀ s : State, s.steep.b.toNat ≤ s.time.toNat → s.time.toNat < s.steep.b.toNat + s.steep.len * cyclesPerUs →
    s.steep.len * cyclesPerUs ≤ 8000000 →
    fld (shortStamp s) 24 32 = BitVec.ofNat 32 s.steep.k.toNat ∧
    (fld (shortStamp s) 0 24).toNat = s.time.toNat - s.steep.b.toNat ∧
    s.time.toNat - s.steep.b.toNat < 2 ^ 24) ∧
  (∀ (s : State) (ty block part : Nat) (data : BitVec 128), (cfg s 0x6300 1).testBit ty = true →
    s.obs.staging.length < 4096 → ∃ r, (trace ty block part data s).obs.staging = s.obs.staging ++ [r] ∧
      r.time = s.time ∧ r.data = data)

/-- A write of 1 to 0x6223:01 leaves every histogram as it is until the boundary; at the boundary after it every histogram reads zero. At the reset boundary of partition p the histogram of p reads zero, and every other histogram is as before (spec/16_performance_counters.md R453). -/
def Obligations.HistogramsClearAtTheBoundary : Prop :=
  (∀ s u : State, ∃ t, exec .histogramClear s = .next t ∧ t.obs.hists = s.obs.hists ∧
    (u.obs = t.obs → ahead u.steep.k s.steep.k ≠ 0 → ∃ v, exec .counterBoundary u = .next v ∧
      ∀ h, sget [] h v.obs.hists = [])) ∧
  (∀ (s : State) (p : BitVec 6) (c : Nat), (partOf s p.toNat).resetAt = some c → atBoundary s = true →
    c + 40000 ≤ s.clock → s.steep.sidx = 0 → sparseWf [] s.obs.hists = true →
    ∃ t, exec (.partitionResetEffect p) s = .next t ∧ sget [] (64 + p.toNat) t.obs.hists = [] ∧
      ∀ h, h ≠ 64 + p.toNat → sget [] h t.obs.hists = sget [] h s.obs.hists)

/-- When the module begins an orderly stop, of any class, cause, block and reading, every accepted and uncompleted command is completed with SHUTDOWN as long as the PCIe link is up, with no cycle passed (within 10 ms), and no accepted command is left; STATUS[4] is set, and from then on COMMAND_FETCH fetches no command whatever the host answers and changes nothing (spec/14_host_partitions_queues.md R412). -/
def Obligations.OrderlyStopCompletesEveryCommand : Prop :=
  ∀ (s : State) (cls cause block value : Nat), s.boot.stopped = none →
    (orderlyStop cls cause block value s).front.cmds = [] ∧
    (orderlyStop cls cause block value s).clock = s.clock ∧
    (orderlyStop cls cause block value s).boot.shutdown = true ∧
    (s.boot.pcieWidth ≠ 0 → ∀ c ∈ s.front.cmds, ∃ r ∈ (orderlyStop cls cause block value s).front.ready,
      r.cmd = c.id ∧ r.status = 0x0D) ∧
    ∀ (t : State) (answer : Option (BitVec 512)), t.boot.shutdown = true → exec (.commandFetch answer) t = .next t

/-- For every command and every state, the stretch level after it is the one before it, but where the command is WAVE_POINT, after which it is the same, one higher or one lower, and where the command resets the module, after which it is 0 with the engine Off (spec/02_steeps_and_time.md R45, spec/17_start_reset_recovery.md R469). -/
def Obligations.StretchChangesAtWavePointsAlone : Prop :=
  ∀ (c : Instr) (s t : State), exec c s = .next t →
    t.steep.stretch = s.steep.stretch ∨
    (c = .wavePoint ∧ (t.steep.stretch = s.steep.stretch + 1 ∨ t.steep.stretch + 1 = s.steep.stretch)) ∨
    (t.steep.stretch = 0 ∧ t.steep.engine = .off)

/-- For every command and every state, the steep engine is in the same state after the command, or has moved along one row of Table ST-4: from Off to Listen; from Listen to Locked, Standby, Stopped or Off; between Locked and Standby; from Locked or Standby to Listen, Stopped or Off; from Stopped to Off. A command that takes the engine from Locked to Listen, Standby or Stopped raises the count of exits from Locked (spec/02_steeps_and_time.md R53, spec/17_start_reset_recovery.md R473, spec/17_start_reset_recovery.md R469). -/
def Obligations.EngineMovesAsItsTable : Prop :=
  ∀ (c : Instr) (s t : State), exec c s = .next t →
    (t.steep.engine = s.steep.engine ∨
      (s.steep.engine, t.steep.engine) ∈ ([(.off, .listen), (.listen, .locked), (.listen, .standby),
        (.listen, .stopped), (.listen, .off), (.locked, .standby), (.standby, .locked), (.locked, .listen),
        (.standby, .listen), (.locked, .stopped), (.standby, .stopped), (.locked, .off), (.standby, .off),
        (.stopped, .off)] : List (EngineState × EngineState))) ∧
    (s.steep.engine = .locked → t.steep.engine ≠ .locked → t.steep.engine ≠ .off → s.steep.exits < t.steep.exits)

/-- For every command, every state in the invariant and every key slot n, the slot's current key after the command is the one before it, or none, or the command is KEY_IMPORT_EFFECT of slot n and the key is that of an import held for slot n (spec/13_custody_and_security.md R368, spec/13_custody_and_security.md R376, spec/13_custody_and_security.md R383). -/
def Obligations.KeysEnterSlotsByImportAlone : Prop :=
  ∀ (c : Instr) (s t : State) (n : Nat), s.inv = true → exec c s = .next t →
    (slotOf t n).cur = (slotOf s n).cur ∨ (slotOf t n).cur = none ∨
    ∃ slot, c = .keyImportEffect slot ∧ slot.toNat = n ∧ ∃ i ∈ s.cust.imports, i.slot = slot ∧ (slotOf t n).cur = some i.key
end

