-- ==== Sys2Proof/Laws/Blocks.lean ====
section
/-! SUPPORT. The laws of block checksums and verification: a block of zeros has the checksum 0 that an unlisted record of
filled memory holds, so a read of untouched memory verifies. -/

namespace Sys2Proof.Machine

/-- The checksum of zeros is 0, the value that the zero fill leaves in a record (spec/10 R294, R465). -/
theorem crc64_zeros (n : Nat) : crc64 (List.replicate n 0) = 0 := by
  have h : crcByte 0 0 = 0 := by decide
  induction n with
  | zero => rfl
  | succ n ih =>
    rw [List.replicate_succ]
    show List.foldl crcByte (crcByte 0 0) (List.replicate n 0) = 0
    rw [h]
    exact ih

/-- A block of memory that lists nothing holds zeros. -/
theorem blockBytes_empty (s : State) (b : Nat) (h : s.mem = []) : blockBytes s b = List.replicate 4096 0 := by
  simp only [blockBytes, memRead, h, memByte, sget]
  rw [List.map_const', List.length_range]

/-- In memory that lists nothing, every block whose record is that of the zero fill and that a controller can reach
verifies. -/
theorem verifyBlock_untouched (env : ReadEnv) (b : Nat) (s : State) (hm : s.mem = []) (hr : blockOf s b = { v := true })
    (he : env.mismatch = []) (hn : noAccess s (4096 * b) = false) : (verifyBlock env b s).1 = false := by
  have hc : crc64 (blockBytes s b) = 0 := by rw [blockBytes_empty s b hm, crc64_zeros]
  simp only [verifyBlock, hr, hc, he, hn]
  simp only [Bool.not_true, List.contains_nil, Bool.false_or, ne_eq, not_true_eq_false, decide_false, if_false,
    Bool.false_eq_true]
  split <;> rfl

end Sys2Proof.Machine
end

