-- ==== Sys2Proof/Laws/Crypto.lean ====
section
/-! SUPPORT. The laws of byte strings and of GCM units: a number's bytes spell it, and a unit whose tag was made under a key
opens under it. -/

namespace Sys2Proof.Machine

@[simp] theorem leBytes_length (n v : Nat) : (leBytes n v).length = n := by
  induction n generalizing v with
  | zero => rfl
  | succ n ih => simp [leBytes, ih]

/-- The bytes of a number spell its value modulo their range. -/
theorem leNat_leBytes (n v : Nat) : leNat (leBytes n v) = v % 256 ^ n := by
  induction n generalizing v with
  | zero => simp [leBytes, leNat, Nat.mod_one]
  | succ n ih =>
    simp only [leBytes, leNat, ih, BitVec.toNat_ofNat]
    have h := Nat.mod_mul (x := v) (a := 256) (b := 256 ^ n)
    rw [← Nat.pow_succ'] at h
    exact h.symm

/-- A unit of a header for this slot, generation and place, with the tag that the key gives, opens to its plaintext
(spec/13 R380). -/
theorem gcmOpen_sealed {s : State} {slot seq : Nat} {gen : BitVec 16} {k : BitVec 256} {hd ct : List Byte}
    (hl : hd.length = 48) (hc : ct.length = ((fld (BitVec.ofNat 384 (leNat hd)) 188 6).toNat + 1) * 64)
    (hs : (fld (BitVec.ofNat 384 (leNat hd)) 211 13).toNat = slot) (hg : fld (BitVec.ofNat 384 (leNat hd)) 195 16 = gen)
    (hk : rootKey (slotOf s slot) (bit (BitVec.ofNat 384 (leNat hd)) 194) = some k)
    (hq : (fld (BitVec.ofNat 384 (leNat hd)) 224 64).toNat = seq) (h0 : fld (BitVec.ofNat 384 (leNat hd)) 0 188 = 0) :
    (gcmOpen s slot gen seq
      (hd ++ leBytes 16 (Config.gcmTag (gcmKeyAt s k) (fld (BitVec.ofNat 384 (leNat hd)) 288 96) hd ct).toNat ++ ct)).1 =
      some (true, gcmCrypt (gcmKeyAt s k) (fld (BitVec.ofNat 384 (leNat hd)) 288 96) ct) := by
  generalize ht : Config.gcmTag (gcmKeyAt s k) (fld (BitVec.ofNat 384 (leNat hd)) 288 96) hd ct = tag
  have h1 : (hd ++ leBytes 16 tag.toNat ++ ct).take 48 = hd := by
    rw [List.append_assoc, ← hl, List.take_left']; rfl
  have h2 : ((hd ++ leBytes 16 tag.toNat ++ ct).drop 48).take 16 = leBytes 16 tag.toNat := by
    rw [List.append_assoc, ← hl, List.drop_left' rfl, List.take_left' (leBytes_length 16 _)]
  have h3 : (hd ++ leBytes 16 tag.toNat ++ ct).drop 64 = ct := List.drop_left' (by simp [hl])
  have h4 : BitVec.ofNat 128 (leNat (leBytes 16 tag.toNat)) = tag := by
    rw [leNat_leBytes, Nat.mod_eq_of_lt (by simpa using tag.isLt)]; simp
  have h5 : ct.take (((fld (BitVec.ofNat 384 (leNat hd)) 188 6).toNat + 1) * 64) = ct := List.take_of_length_le hc.le
  simp only [gcmOpen, h1, h2, h3, h4, h5]
  simp [hs, hg, hk, hq, h0, ht, ← hc]

end Sys2Proof.Machine
end

