-- ==== Sys2Proof/Laws/Memory.lean ====
section
/-! SUPPORT. The laws of sparse maps and of package memory: a read after a write, a write leaves every other entry
alone, and every operation keeps the canonical form. -/

namespace Sys2Proof.Machine

/-- The keys of a sparse map rise strictly. -/
abbrev keysRise {α : Type} (m : Sparse α) : Prop := m.Pairwise fun x y => x.1 < y.1

/-- A read after a write of a value other than the default gives that value, whatever the map. -/
theorem sget_sput_self {α : Type} [DecidableEq α] (d : α) (k : Nat) (v : α) (hv : v ≠ d) (m : Sparse α) :
    sget d k (sput d k v m) = v := by
  induction m with
  | nil => simp [sput, sget, hv]
  | cons e m ih =>
    obtain ⟨j, w⟩ := e
    unfold sput
    by_cases h1 : k = j
    · simp [h1, hv, sget]
    · by_cases h2 : k < j
      · simp [h1, h2, hv, sget]
      · simp [h1, h2, sget, ih]

/-- Below every key of a map whose keys rise, the map reads as the default. -/
theorem sget_below {α : Type} (d : α) (k : Nat) (m : Sparse α) (h : ∀ e ∈ m, k < e.1) : sget d k m = d := by
  cases m with
  | nil => rfl
  | cons e m =>
    obtain ⟨j, w⟩ := e
    have := h (j, w) (by simp)
    have h1 : k ≠ j := by simp at this; omega
    simp at this
    simp [sget, h1, this]

/-- A read after a write gives the value written, where the keys rise. -/
theorem sget_sput_same {α : Type} [DecidableEq α] (d : α) (k : Nat) (v : α) (m : Sparse α) (hm : keysRise m) :
    sget d k (sput d k v m) = v := by
  by_cases hv : v = d
  · subst hv
    induction m with
    | nil => simp [sput, sget]
    | cons e m ih =>
      obtain ⟨j, w⟩ := e
      have hm' := List.pairwise_cons.mp hm
      unfold sput
      by_cases h1 : k = j
      · subst h1
        simp only [if_true]
        exact sget_below _ _ _ fun e he => hm'.1 e he
      · by_cases h2 : k < j
        · simp [h1, h2, sget]
        · simp [h1, h2, sget, ih hm'.2]
  · exact sget_sput_self d k v hv m

/-- A write leaves every other entry as it was, where the keys rise. -/
theorem sget_sput_other {α : Type} [DecidableEq α] (d : α) (k i : Nat) (v : α) (m : Sparse α) (hm : keysRise m)
    (hi : i ≠ k) : sget d i (sput d k v m) = sget d i m := by
  induction m with
  | nil => by_cases hv : v = d <;> simp [sput, sget, hv, hi]
  | cons e m ih =>
    obtain ⟨j, w⟩ := e
    have hm' := List.pairwise_cons.mp hm
    unfold sput
    by_cases h1 : k = j
    · subst h1
      by_cases hv : v = d
      · simp only [if_true, hv]
        by_cases h2 : i < k
        · rw [sget_below d i m fun e he => Nat.lt_trans h2 (hm'.1 e he)]
          simp [sget, hi, h2]
        · simp [sget, hi, h2]
      · simp [hv, sget, hi]
    · by_cases h2 : k < j
      · by_cases hv : v = d
        · simp [h1, h2, hv]
        · by_cases h3 : i < k
          · have h4 : i ≠ j := by omega
            have h5 : i < j := by omega
            simp [h1, h2, hv, sget, hi, h3, h4, h5]
          · simp [h1, h2, hv, sget, hi, h3]
      · by_cases h3 : i = j
        · simp [h1, h2, sget, h3]
        · simp [h1, h2, sget, h3, ih hm'.2]

/-- Every entry of a map after a write was there before or is the one written. -/
theorem mem_sput {α : Type} [DecidableEq α] (d : α) (k : Nat) (v : α) (m : Sparse α) (e : Nat × α)
    (he : e ∈ sput d k v m) : e ∈ m ∨ (e = (k, v) ∧ v ≠ d) := by
  induction m with
  | nil =>
    by_cases hv : v = d
    · simp [sput, hv] at he
    · simp [sput, hv] at he; exact .inr ⟨he, hv⟩
  | cons x m ih =>
    obtain ⟨j, w⟩ := x
    unfold sput at he
    by_cases h1 : k = j
    · subst h1
      by_cases hv : v = d
      · simp [hv] at he; exact .inl (.tail _ he)
      · simp [hv] at he; rcases he with rfl | he
        · exact .inr ⟨rfl, hv⟩
        · exact .inl (.tail _ he)
    · by_cases h2 : k < j
      · by_cases hv : v = d
        · simp [h1, h2, hv] at he; exact .inl (by simpa using he)
        · simp [h1, h2, hv] at he; rcases he with rfl | he
          · exact .inr ⟨rfl, hv⟩
          · exact .inl (by simpa using he)
      · simp [h1, h2] at he; rcases he with rfl | he
        · exact .inl (by simp)
        · rcases ih he with h | h
          · exact .inl (.tail _ h)
          · exact .inr h

/-- A write keeps the keys rising. -/
theorem keysRise_sput {α : Type} [DecidableEq α] (d : α) (k : Nat) (v : α) (m : Sparse α) (hm : keysRise m) :
    keysRise (sput d k v m) := by
  induction m with
  | nil => by_cases hv : v = d <;> simp [sput, hv, keysRise]
  | cons e m ih =>
    obtain ⟨j, w⟩ := e
    have hm' := List.pairwise_cons.mp hm
    unfold sput
    by_cases h1 : k = j
    · subst h1
      by_cases hv : v = d
      · simp only [if_true, hv]; exact hm'.2
      · simp only [if_true, hv, if_false]; exact List.pairwise_cons.mpr ⟨hm'.1, hm'.2⟩
    · by_cases h2 : k < j
      · by_cases hv : v = d
        · simp only [h1, h2, hv, if_true, if_false]; exact hm
        · simp only [h1, h2, hv, if_true, if_false]
          refine List.pairwise_cons.mpr ⟨?_, hm⟩
          intro e he
          rcases List.mem_cons.mp he with rfl | he
          · exact h2
          · exact Nat.lt_trans h2 (hm'.1 e he)
      · simp only [h1, h2, if_false]
        refine List.pairwise_cons.mpr ⟨?_, ih hm'.2⟩
        intro e he
        rcases mem_sput d k v m e he with h | ⟨rfl, -⟩
        · exact hm'.1 e h
        · simp only; omega

theorem sparseWf_iff {α : Type} [DecidableEq α] (d : α) (m : Sparse α) :
    sparseWf d m = true ↔ keysRise m ∧ ∀ e ∈ m, e.2 ≠ d := by
  simp [sparseWf, keysRise]

/-- A write keeps the canonical form of a sparse map. -/
theorem sparseWf_sput {α : Type} [DecidableEq α] (d : α) (k : Nat) (v : α) (m : Sparse α) (hm : sparseWf d m = true) :
    sparseWf d (sput d k v m) = true := by
  rw [sparseWf_iff] at hm ⊢
  refine ⟨keysRise_sput d k v m hm.1, fun e he => ?_⟩
  rcases mem_sput d k v m e he with h | ⟨rfl, h⟩
  · exact hm.2 e h
  · exact h

/-- Leaving entries out keeps the canonical form. -/
theorem sparseWf_filter {α : Type} [DecidableEq α] (d : α) (p : Nat × α → Bool) (m : Sparse α)
    (hm : sparseWf d m = true) : sparseWf d (m.filter p) = true := by
  rw [sparseWf_iff] at hm ⊢
  exact ⟨hm.1.filter _, fun e he => hm.2 e (List.mem_filter.mp he).1⟩

/-! ### Package memory -/

theorem memWf_store (m : Mem) (a : Nat) (v : Byte) (hm : memWf m = true) : memWf (memStore m a v) = true :=
  sparseWf_sput _ _ _ _ hm

theorem memWf_write (m : Mem) (a : Nat) (vs : List Byte) (hm : memWf m = true) : memWf (memWrite m a vs) = true := by
  induction vs generalizing m a with
  | nil => exact hm
  | cons v vs ih => exact ih _ _ (memWf_store m a v hm)

theorem memWf_zero (m : Mem) (a n : Nat) (hm : memWf m = true) : memWf (memZero m a n) = true :=
  sparseWf_filter _ _ _ hm

theorem memWf_filter (m : Mem) (p : Nat × Byte → Bool) (hm : memWf m = true) : memWf (m.filter p) = true :=
  sparseWf_filter _ _ _ hm

theorem memWf_nil : memWf [] = true := by decide

/-- A byte read after its store is the byte stored. -/
theorem memByte_store_same (m : Mem) (a : Nat) (v : Byte) (hm : memWf m = true) : memByte (memStore m a v) a = v :=
  sget_sput_same _ _ _ _ ((sparseWf_iff _ _).mp hm).1

/-- A store leaves every other byte as it was. -/
theorem memByte_store_other (m : Mem) (a b : Nat) (v : Byte) (hm : memWf m = true) (h : b ≠ a) :
    memByte (memStore m a v) b = memByte m b :=
  sget_sput_other _ _ _ _ _ ((sparseWf_iff _ _).mp hm).1 h

/-- A write of several bytes leaves every byte outside them as it was. -/
theorem memByte_write_other (m : Mem) (a b : Nat) (vs : List Byte) (hm : memWf m = true)
    (h : b < a ∨ a + vs.length ≤ b) : memByte (memWrite m a vs) b = memByte m b := by
  induction vs generalizing m a with
  | nil => rfl
  | cons v vs ih =>
    simp only [List.length_cons] at h
    rw [memWrite, ih _ _ (memWf_store m a v hm) (by omega), memByte_store_other m a b v hm (by omega)]

/-- A write of several bytes is read back. -/
theorem memByte_write_same (m : Mem) (a i : Nat) (vs : List Byte) (hm : memWf m = true) (h : i < vs.length) :
    memByte (memWrite m a vs) (a + i) = vs[i] := by
  induction vs generalizing m a i with
  | nil => simp at h
  | cons v vs ih =>
    cases i with
    | zero =>
      rw [memWrite, memByte_write_other _ _ _ _ (memWf_store m a v hm) (.inl (by omega))]
      exact memByte_store_same m a v hm
    | succ i =>
      have := ih (memStore m a v) (a + 1) i (memWf_store m a v hm) (by simpa using h)
      rw [memWrite, show a + (i + 1) = a + 1 + i by omega, this]; rfl

/-- A map whose keys rise reads as the default wherever no entry is listed. -/
theorem sget_unlisted {α : Type} (d : α) (k : Nat) (m : Sparse α) (h : ∀ e ∈ m, e.1 ≠ k) : sget d k m = d := by
  induction m with
  | nil => rfl
  | cons e m ih =>
    obtain ⟨j, w⟩ := e
    have h1 : k ≠ j := fun hk => h (j, w) (by simp) hk.symm
    unfold sget
    split
    · contradiction
    · split
      · rfl
      · exact ih fun e he => h e (List.mem_cons_of_mem _ he)

/-- Leaving out entries with other keys leaves an entry as it was. -/
theorem sget_filter_kept {α : Type} (d : α) (k : Nat) (p : Nat × α → Bool) (m : Sparse α) (hm : keysRise m)
    (hp : ∀ v, p (k, v) = true) : sget d k (m.filter p) = sget d k m := by
  induction m with
  | nil => rfl
  | cons e m ih =>
    obtain ⟨j, w⟩ := e
    have hm' := List.pairwise_cons.mp hm
    by_cases h1 : k = j
    · subst h1; simp [hp, sget]
    · by_cases hpj : p (j, w) = true
      · simp only [List.filter_cons, hpj, if_true, sget, h1, if_false, ih hm'.2]
      · rw [List.filter_cons_of_neg hpj, ih hm'.2]
        simp only [sget, h1, if_false]
        split
        · rename_i h2
          exact sget_below d k m fun e he => Nat.lt_trans h2 (hm'.1 e he)
        · rfl

/-- Zeroing bytes leaves every byte outside them as it was. -/
theorem memByte_zero_other (m : Mem) (a n b : Nat) (hm : memWf m = true) (h : b < a ∨ a + n ≤ b) :
    memByte (memZero m a n) b = memByte m b :=
  sget_filter_kept _ _ _ _ ((sparseWf_iff _ _).mp hm).1 (by intro v; simp; exact h)

/-- Zeroed bytes read as 0. -/
theorem memByte_zero_same (m : Mem) (a n b : Nat) (h1 : a ≤ b) (h2 : b < a + n) : memByte (memZero m a n) b = 0 := by
  apply sget_unlisted
  intro e he hk
  have := (List.mem_filter.mp he).2
  simp at this
  omega

end Sys2Proof.Machine
end

