-- ==== Sys2Proof/Laws/State.lean ====
section
/-! SUPPORT. What each update of the state leaves unchanged and what it writes: one lemma per field per update, so that no
later proof unfolds a record update. -/

namespace Sys2Proof.Machine

/-! ### emit -/

@[simp] theorem emit_pending (o : Out) (s : State) : (emit o s).pending = s.pending := rfl
@[simp] theorem emit_clock (o : Out) (s : State) : (emit o s).clock = s.clock := rfl
@[simp] theorem emit_time (o : Out) (s : State) : (emit o s).time = s.time := rfl
@[simp] theorem emit_timeKnown (o : Out) (s : State) : (emit o s).timeKnown = s.timeKnown := rfl
@[simp] theorem emit_slew (o : Out) (s : State) : (emit o s).slew = s.slew := rfl
@[simp] theorem emit_free (o : Out) (s : State) : (emit o s).free = s.free := rfl
@[simp] theorem emit_mem (o : Out) (s : State) : (emit o s).mem = s.mem := rfl
@[simp] theorem emit_power (o : Out) (s : State) : (emit o s).power = s.power := rfl
@[simp] theorem emit_steep (o : Out) (s : State) : (emit o s).steep = s.steep := rfl
@[simp] theorem emit_prog (o : Out) (s : State) : (emit o s).prog = s.prog := rfl
@[simp] theorem emit_ad (o : Out) (s : State) : (emit o s).ad = s.ad := rfl
@[simp] theorem emit_front (o : Out) (s : State) : (emit o s).front = s.front := rfl
@[simp] theorem emit_red (o : Out) (s : State) : (emit o s).red = s.red := rfl
@[simp] theorem emit_hbm (o : Out) (s : State) : (emit o s).hbm = s.hbm := rfl
@[simp] theorem emit_leaf (o : Out) (s : State) : (emit o s).leaf = s.leaf := rfl
@[simp] theorem emit_fab (o : Out) (s : State) : (emit o s).fab = s.fab := rfl
@[simp] theorem emit_cust (o : Out) (s : State) : (emit o s).cust = s.cust := rfl
@[simp] theorem emit_dict (o : Out) (s : State) : (emit o s).dict = s.dict := rfl
@[simp] theorem emit_obs (o : Out) (s : State) : (emit o s).obs = s.obs := rfl
@[simp] theorem emit_boot (o : Out) (s : State) : (emit o s).boot = s.boot := rfl

/-! ### send -/

@[simp] theorem send_pending (d : Dest) (p : Packet) (s : State) : (send d p s).pending = s.pending := rfl
@[simp] theorem send_clock (d : Dest) (p : Packet) (s : State) : (send d p s).clock = s.clock := rfl
@[simp] theorem send_time (d : Dest) (p : Packet) (s : State) : (send d p s).time = s.time := rfl
@[simp] theorem send_timeKnown (d : Dest) (p : Packet) (s : State) : (send d p s).timeKnown = s.timeKnown := rfl
@[simp] theorem send_slew (d : Dest) (p : Packet) (s : State) : (send d p s).slew = s.slew := rfl
@[simp] theorem send_free (d : Dest) (p : Packet) (s : State) : (send d p s).free = s.free := rfl
@[simp] theorem send_mem (d : Dest) (p : Packet) (s : State) : (send d p s).mem = s.mem := rfl
@[simp] theorem send_power (d : Dest) (p : Packet) (s : State) : (send d p s).power = s.power := rfl
@[simp] theorem send_steep (d : Dest) (p : Packet) (s : State) : (send d p s).steep = s.steep := rfl
@[simp] theorem send_prog (d : Dest) (p : Packet) (s : State) : (send d p s).prog = s.prog := rfl
@[simp] theorem send_ad (d : Dest) (p : Packet) (s : State) : (send d p s).ad = s.ad := rfl
@[simp] theorem send_front (d : Dest) (p : Packet) (s : State) : (send d p s).front = s.front := rfl
@[simp] theorem send_red (d : Dest) (p : Packet) (s : State) : (send d p s).red = s.red := rfl
@[simp] theorem send_hbm (d : Dest) (p : Packet) (s : State) : (send d p s).hbm = s.hbm := rfl
@[simp] theorem send_leaf (d : Dest) (p : Packet) (s : State) : (send d p s).leaf = s.leaf := rfl
@[simp] theorem send_fab (d : Dest) (p : Packet) (s : State) : (send d p s).fab = s.fab := rfl
@[simp] theorem send_cust (d : Dest) (p : Packet) (s : State) : (send d p s).cust = s.cust := rfl
@[simp] theorem send_dict (d : Dest) (p : Packet) (s : State) : (send d p s).dict = s.dict := rfl
@[simp] theorem send_obs (d : Dest) (p : Packet) (s : State) : (send d p s).obs = s.obs := rfl
@[simp] theorem send_boot (d : Dest) (p : Packet) (s : State) : (send d p s).boot = s.boot := rfl

/-! ### elapse -/

@[simp] theorem elapse_pending (n : Nat) (s : State) : (elapse n s).pending = s.pending := rfl
@[simp] theorem elapse_timeKnown (n : Nat) (s : State) : (elapse n s).timeKnown = s.timeKnown := rfl
@[simp] theorem elapse_free (n : Nat) (s : State) : (elapse n s).free = s.free := rfl
@[simp] theorem elapse_mem (n : Nat) (s : State) : (elapse n s).mem = s.mem := rfl
@[simp] theorem elapse_power (n : Nat) (s : State) : (elapse n s).power = s.power := rfl
@[simp] theorem elapse_steep (n : Nat) (s : State) : (elapse n s).steep = s.steep := rfl
@[simp] theorem elapse_prog (n : Nat) (s : State) : (elapse n s).prog = s.prog := rfl
@[simp] theorem elapse_ad (n : Nat) (s : State) : (elapse n s).ad = s.ad := rfl
@[simp] theorem elapse_front (n : Nat) (s : State) : (elapse n s).front = s.front := rfl
@[simp] theorem elapse_red (n : Nat) (s : State) : (elapse n s).red = s.red := rfl
@[simp] theorem elapse_hbm (n : Nat) (s : State) : (elapse n s).hbm = s.hbm := rfl
@[simp] theorem elapse_leaf (n : Nat) (s : State) : (elapse n s).leaf = s.leaf := rfl
@[simp] theorem elapse_fab (n : Nat) (s : State) : (elapse n s).fab = s.fab := rfl
@[simp] theorem elapse_cust (n : Nat) (s : State) : (elapse n s).cust = s.cust := rfl
@[simp] theorem elapse_dict (n : Nat) (s : State) : (elapse n s).dict = s.dict := rfl
@[simp] theorem elapse_boot (n : Nat) (s : State) : (elapse n s).boot = s.boot := rfl
@[simp] theorem elapse_out (n : Nat) (s : State) : (elapse n s).out = s.out := rfl

/-! ### untilTime -/

@[simp] theorem untilTime_pending (t : BitVec 64) (s : State) : (untilTime t s).pending = s.pending := rfl
@[simp] theorem untilTime_timeKnown (t : BitVec 64) (s : State) : (untilTime t s).timeKnown = s.timeKnown := rfl
@[simp] theorem untilTime_free (t : BitVec 64) (s : State) : (untilTime t s).free = s.free := rfl
@[simp] theorem untilTime_mem (t : BitVec 64) (s : State) : (untilTime t s).mem = s.mem := rfl
@[simp] theorem untilTime_power (t : BitVec 64) (s : State) : (untilTime t s).power = s.power := rfl
@[simp] theorem untilTime_steep (t : BitVec 64) (s : State) : (untilTime t s).steep = s.steep := rfl
@[simp] theorem untilTime_prog (t : BitVec 64) (s : State) : (untilTime t s).prog = s.prog := rfl
@[simp] theorem untilTime_ad (t : BitVec 64) (s : State) : (untilTime t s).ad = s.ad := rfl
@[simp] theorem untilTime_front (t : BitVec 64) (s : State) : (untilTime t s).front = s.front := rfl
@[simp] theorem untilTime_red (t : BitVec 64) (s : State) : (untilTime t s).red = s.red := rfl
@[simp] theorem untilTime_hbm (t : BitVec 64) (s : State) : (untilTime t s).hbm = s.hbm := rfl
@[simp] theorem untilTime_leaf (t : BitVec 64) (s : State) : (untilTime t s).leaf = s.leaf := rfl
@[simp] theorem untilTime_fab (t : BitVec 64) (s : State) : (untilTime t s).fab = s.fab := rfl
@[simp] theorem untilTime_cust (t : BitVec 64) (s : State) : (untilTime t s).cust = s.cust := rfl
@[simp] theorem untilTime_dict (t : BitVec 64) (s : State) : (untilTime t s).dict = s.dict := rfl
@[simp] theorem untilTime_boot (t : BitVec 64) (s : State) : (untilTime t s).boot = s.boot := rfl
@[simp] theorem untilTime_out (t : BitVec 64) (s : State) : (untilTime t s).out = s.out := rfl

/-! ### untilClock -/

@[simp] theorem untilClock_pending (c : Nat) (s : State) : (untilClock c s).pending = s.pending := rfl
@[simp] theorem untilClock_timeKnown (c : Nat) (s : State) : (untilClock c s).timeKnown = s.timeKnown := rfl
@[simp] theorem untilClock_free (c : Nat) (s : State) : (untilClock c s).free = s.free := rfl
@[simp] theorem untilClock_mem (c : Nat) (s : State) : (untilClock c s).mem = s.mem := rfl
@[simp] theorem untilClock_power (c : Nat) (s : State) : (untilClock c s).power = s.power := rfl
@[simp] theorem untilClock_steep (c : Nat) (s : State) : (untilClock c s).steep = s.steep := rfl
@[simp] theorem untilClock_prog (c : Nat) (s : State) : (untilClock c s).prog = s.prog := rfl
@[simp] theorem untilClock_ad (c : Nat) (s : State) : (untilClock c s).ad = s.ad := rfl
@[simp] theorem untilClock_front (c : Nat) (s : State) : (untilClock c s).front = s.front := rfl
@[simp] theorem untilClock_red (c : Nat) (s : State) : (untilClock c s).red = s.red := rfl
@[simp] theorem untilClock_hbm (c : Nat) (s : State) : (untilClock c s).hbm = s.hbm := rfl
@[simp] theorem untilClock_leaf (c : Nat) (s : State) : (untilClock c s).leaf = s.leaf := rfl
@[simp] theorem untilClock_fab (c : Nat) (s : State) : (untilClock c s).fab = s.fab := rfl
@[simp] theorem untilClock_cust (c : Nat) (s : State) : (untilClock c s).cust = s.cust := rfl
@[simp] theorem untilClock_dict (c : Nat) (s : State) : (untilClock c s).dict = s.dict := rfl
@[simp] theorem untilClock_boot (c : Nat) (s : State) : (untilClock c s).boot = s.boot := rfl
@[simp] theorem untilClock_out (c : Nat) (s : State) : (untilClock c s).out = s.out := rfl

/-! ### setCore -/

@[simp] theorem setCore_pending (s : State) (c : Nat) (k : Core) : (setCore s c k).pending = s.pending := rfl
@[simp] theorem setCore_clock (s : State) (c : Nat) (k : Core) : (setCore s c k).clock = s.clock := rfl
@[simp] theorem setCore_time (s : State) (c : Nat) (k : Core) : (setCore s c k).time = s.time := rfl
@[simp] theorem setCore_timeKnown (s : State) (c : Nat) (k : Core) : (setCore s c k).timeKnown = s.timeKnown := rfl
@[simp] theorem setCore_slew (s : State) (c : Nat) (k : Core) : (setCore s c k).slew = s.slew := rfl
@[simp] theorem setCore_free (s : State) (c : Nat) (k : Core) : (setCore s c k).free = s.free := rfl
@[simp] theorem setCore_mem (s : State) (c : Nat) (k : Core) : (setCore s c k).mem = s.mem := rfl
@[simp] theorem setCore_power (s : State) (c : Nat) (k : Core) : (setCore s c k).power = s.power := rfl
@[simp] theorem setCore_steep (s : State) (c : Nat) (k : Core) : (setCore s c k).steep = s.steep := rfl
@[simp] theorem setCore_ad (s : State) (c : Nat) (k : Core) : (setCore s c k).ad = s.ad := rfl
@[simp] theorem setCore_front (s : State) (c : Nat) (k : Core) : (setCore s c k).front = s.front := rfl
@[simp] theorem setCore_red (s : State) (c : Nat) (k : Core) : (setCore s c k).red = s.red := rfl
@[simp] theorem setCore_hbm (s : State) (c : Nat) (k : Core) : (setCore s c k).hbm = s.hbm := rfl
@[simp] theorem setCore_leaf (s : State) (c : Nat) (k : Core) : (setCore s c k).leaf = s.leaf := rfl
@[simp] theorem setCore_fab (s : State) (c : Nat) (k : Core) : (setCore s c k).fab = s.fab := rfl
@[simp] theorem setCore_cust (s : State) (c : Nat) (k : Core) : (setCore s c k).cust = s.cust := rfl
@[simp] theorem setCore_dict (s : State) (c : Nat) (k : Core) : (setCore s c k).dict = s.dict := rfl
@[simp] theorem setCore_obs (s : State) (c : Nat) (k : Core) : (setCore s c k).obs = s.obs := rfl
@[simp] theorem setCore_boot (s : State) (c : Nat) (k : Core) : (setCore s c k).boot = s.boot := rfl
@[simp] theorem setCore_out (s : State) (c : Nat) (k : Core) : (setCore s c k).out = s.out := rfl

/-! ### updCore -/

@[simp] theorem updCore_pending (c : Nat) (f : Core → Core) (s : State) : (updCore c f s).pending = s.pending := rfl
@[simp] theorem updCore_clock (c : Nat) (f : Core → Core) (s : State) : (updCore c f s).clock = s.clock := rfl
@[simp] theorem updCore_time (c : Nat) (f : Core → Core) (s : State) : (updCore c f s).time = s.time := rfl
@[simp] theorem updCore_timeKnown (c : Nat) (f : Core → Core) (s : State) : (updCore c f s).timeKnown = s.timeKnown := rfl
@[simp] theorem updCore_slew (c : Nat) (f : Core → Core) (s : State) : (updCore c f s).slew = s.slew := rfl
@[simp] theorem updCore_free (c : Nat) (f : Core → Core) (s : State) : (updCore c f s).free = s.free := rfl
@[simp] theorem updCore_mem (c : Nat) (f : Core → Core) (s : State) : (updCore c f s).mem = s.mem := rfl
@[simp] theorem updCore_power (c : Nat) (f : Core → Core) (s : State) : (updCore c f s).power = s.power := rfl
@[simp] theorem updCore_steep (c : Nat) (f : Core → Core) (s : State) : (updCore c f s).steep = s.steep := rfl
@[simp] theorem updCore_ad (c : Nat) (f : Core → Core) (s : State) : (updCore c f s).ad = s.ad := rfl
@[simp] theorem updCore_front (c : Nat) (f : Core → Core) (s : State) : (updCore c f s).front = s.front := rfl
@[simp] theorem updCore_red (c : Nat) (f : Core → Core) (s : State) : (updCore c f s).red = s.red := rfl
@[simp] theorem updCore_hbm (c : Nat) (f : Core → Core) (s : State) : (updCore c f s).hbm = s.hbm := rfl
@[simp] theorem updCore_leaf (c : Nat) (f : Core → Core) (s : State) : (updCore c f s).leaf = s.leaf := rfl
@[simp] theorem updCore_fab (c : Nat) (f : Core → Core) (s : State) : (updCore c f s).fab = s.fab := rfl
@[simp] theorem updCore_cust (c : Nat) (f : Core → Core) (s : State) : (updCore c f s).cust = s.cust := rfl
@[simp] theorem updCore_dict (c : Nat) (f : Core → Core) (s : State) : (updCore c f s).dict = s.dict := rfl
@[simp] theorem updCore_obs (c : Nat) (f : Core → Core) (s : State) : (updCore c f s).obs = s.obs := rfl
@[simp] theorem updCore_boot (c : Nat) (f : Core → Core) (s : State) : (updCore c f s).boot = s.boot := rfl
@[simp] theorem updCore_out (c : Nat) (f : Core → Core) (s : State) : (updCore c f s).out = s.out := rfl

/-! ### fresh -/

@[simp] theorem fresh_pending (w : Nat) (s : State) : ((fresh w s).2).pending = s.pending := rfl
@[simp] theorem fresh_clock (w : Nat) (s : State) : ((fresh w s).2).clock = s.clock := rfl
@[simp] theorem fresh_time (w : Nat) (s : State) : ((fresh w s).2).time = s.time := rfl
@[simp] theorem fresh_timeKnown (w : Nat) (s : State) : ((fresh w s).2).timeKnown = s.timeKnown := rfl
@[simp] theorem fresh_slew (w : Nat) (s : State) : ((fresh w s).2).slew = s.slew := rfl
@[simp] theorem fresh_mem (w : Nat) (s : State) : ((fresh w s).2).mem = s.mem := rfl
@[simp] theorem fresh_power (w : Nat) (s : State) : ((fresh w s).2).power = s.power := rfl
@[simp] theorem fresh_steep (w : Nat) (s : State) : ((fresh w s).2).steep = s.steep := rfl
@[simp] theorem fresh_prog (w : Nat) (s : State) : ((fresh w s).2).prog = s.prog := rfl
@[simp] theorem fresh_ad (w : Nat) (s : State) : ((fresh w s).2).ad = s.ad := rfl
@[simp] theorem fresh_front (w : Nat) (s : State) : ((fresh w s).2).front = s.front := rfl
@[simp] theorem fresh_red (w : Nat) (s : State) : ((fresh w s).2).red = s.red := rfl
@[simp] theorem fresh_hbm (w : Nat) (s : State) : ((fresh w s).2).hbm = s.hbm := rfl
@[simp] theorem fresh_leaf (w : Nat) (s : State) : ((fresh w s).2).leaf = s.leaf := rfl
@[simp] theorem fresh_fab (w : Nat) (s : State) : ((fresh w s).2).fab = s.fab := rfl
@[simp] theorem fresh_cust (w : Nat) (s : State) : ((fresh w s).2).cust = s.cust := rfl
@[simp] theorem fresh_dict (w : Nat) (s : State) : ((fresh w s).2).dict = s.dict := rfl
@[simp] theorem fresh_obs (w : Nat) (s : State) : ((fresh w s).2).obs = s.obs := rfl
@[simp] theorem fresh_boot (w : Nat) (s : State) : ((fresh w s).2).boot = s.boot := rfl
@[simp] theorem fresh_out (w : Nat) (s : State) : ((fresh w s).2).out = s.out := rfl

/-! ### stamp -/

@[simp] theorem stamp_pending (u : Nat) (s : State) : ((stamp u s).2).pending = s.pending := rfl
@[simp] theorem stamp_clock (u : Nat) (s : State) : ((stamp u s).2).clock = s.clock := rfl
@[simp] theorem stamp_time (u : Nat) (s : State) : ((stamp u s).2).time = s.time := rfl
@[simp] theorem stamp_timeKnown (u : Nat) (s : State) : ((stamp u s).2).timeKnown = s.timeKnown := rfl
@[simp] theorem stamp_slew (u : Nat) (s : State) : ((stamp u s).2).slew = s.slew := rfl
@[simp] theorem stamp_free (u : Nat) (s : State) : ((stamp u s).2).free = s.free := rfl
@[simp] theorem stamp_mem (u : Nat) (s : State) : ((stamp u s).2).mem = s.mem := rfl
@[simp] theorem stamp_power (u : Nat) (s : State) : ((stamp u s).2).power = s.power := rfl
@[simp] theorem stamp_prog (u : Nat) (s : State) : ((stamp u s).2).prog = s.prog := rfl
@[simp] theorem stamp_ad (u : Nat) (s : State) : ((stamp u s).2).ad = s.ad := rfl
@[simp] theorem stamp_front (u : Nat) (s : State) : ((stamp u s).2).front = s.front := rfl
@[simp] theorem stamp_red (u : Nat) (s : State) : ((stamp u s).2).red = s.red := rfl
@[simp] theorem stamp_hbm (u : Nat) (s : State) : ((stamp u s).2).hbm = s.hbm := rfl
@[simp] theorem stamp_leaf (u : Nat) (s : State) : ((stamp u s).2).leaf = s.leaf := rfl
@[simp] theorem stamp_fab (u : Nat) (s : State) : ((stamp u s).2).fab = s.fab := rfl
@[simp] theorem stamp_cust (u : Nat) (s : State) : ((stamp u s).2).cust = s.cust := rfl
@[simp] theorem stamp_dict (u : Nat) (s : State) : ((stamp u s).2).dict = s.dict := rfl
@[simp] theorem stamp_obs (u : Nat) (s : State) : ((stamp u s).2).obs = s.obs := rfl
@[simp] theorem stamp_boot (u : Nat) (s : State) : ((stamp u s).2).boot = s.boot := rfl
@[simp] theorem stamp_out (u : Nat) (s : State) : ((stamp u s).2).out = s.out := rfl

/-! ### count -/

@[simp] theorem count_pending (b ev n : Nat) (s : State) : (count b ev n s).pending = s.pending := rfl
@[simp] theorem count_clock (b ev n : Nat) (s : State) : (count b ev n s).clock = s.clock := rfl
@[simp] theorem count_time (b ev n : Nat) (s : State) : (count b ev n s).time = s.time := rfl
@[simp] theorem count_timeKnown (b ev n : Nat) (s : State) : (count b ev n s).timeKnown = s.timeKnown := rfl
@[simp] theorem count_slew (b ev n : Nat) (s : State) : (count b ev n s).slew = s.slew := rfl
@[simp] theorem count_free (b ev n : Nat) (s : State) : (count b ev n s).free = s.free := rfl
@[simp] theorem count_mem (b ev n : Nat) (s : State) : (count b ev n s).mem = s.mem := rfl
@[simp] theorem count_power (b ev n : Nat) (s : State) : (count b ev n s).power = s.power := rfl
@[simp] theorem count_steep (b ev n : Nat) (s : State) : (count b ev n s).steep = s.steep := rfl
@[simp] theorem count_prog (b ev n : Nat) (s : State) : (count b ev n s).prog = s.prog := rfl
@[simp] theorem count_ad (b ev n : Nat) (s : State) : (count b ev n s).ad = s.ad := rfl
@[simp] theorem count_front (b ev n : Nat) (s : State) : (count b ev n s).front = s.front := rfl
@[simp] theorem count_red (b ev n : Nat) (s : State) : (count b ev n s).red = s.red := rfl
@[simp] theorem count_hbm (b ev n : Nat) (s : State) : (count b ev n s).hbm = s.hbm := rfl
@[simp] theorem count_leaf (b ev n : Nat) (s : State) : (count b ev n s).leaf = s.leaf := rfl
@[simp] theorem count_fab (b ev n : Nat) (s : State) : (count b ev n s).fab = s.fab := rfl
@[simp] theorem count_cust (b ev n : Nat) (s : State) : (count b ev n s).cust = s.cust := rfl
@[simp] theorem count_dict (b ev n : Nat) (s : State) : (count b ev n s).dict = s.dict := rfl
@[simp] theorem count_boot (b ev n : Nat) (s : State) : (count b ev n s).boot = s.boot := rfl
@[simp] theorem count_out (b ev n : Nat) (s : State) : (count b ev n s).out = s.out := rfl

/-! ### The counting operations of HBM, the transfer unit and the host -/

/-- Counting an HBM access changes the counters alone. -/
theorem countHbm_only (ev a n : Nat) (s : State) : countHbm ev a n s = { s with obs := (countHbm ev a n s).obs } := by
  unfold countHbm
  split <;> rfl

@[simp] theorem countHbm_pending (ev a n : Nat) (s : State) : (countHbm ev a n s).pending = s.pending := by
  rw [countHbm_only]
@[simp] theorem countHbm_clock (ev a n : Nat) (s : State) : (countHbm ev a n s).clock = s.clock := by
  rw [countHbm_only]
@[simp] theorem countHbm_time (ev a n : Nat) (s : State) : (countHbm ev a n s).time = s.time := by
  rw [countHbm_only]
@[simp] theorem countHbm_timeKnown (ev a n : Nat) (s : State) : (countHbm ev a n s).timeKnown = s.timeKnown := by
  rw [countHbm_only]
@[simp] theorem countHbm_slew (ev a n : Nat) (s : State) : (countHbm ev a n s).slew = s.slew := by
  rw [countHbm_only]
@[simp] theorem countHbm_free (ev a n : Nat) (s : State) : (countHbm ev a n s).free = s.free := by
  rw [countHbm_only]
@[simp] theorem countHbm_mem (ev a n : Nat) (s : State) : (countHbm ev a n s).mem = s.mem := by
  rw [countHbm_only]
@[simp] theorem countHbm_power (ev a n : Nat) (s : State) : (countHbm ev a n s).power = s.power := by
  rw [countHbm_only]
@[simp] theorem countHbm_steep (ev a n : Nat) (s : State) : (countHbm ev a n s).steep = s.steep := by
  rw [countHbm_only]
@[simp] theorem countHbm_prog (ev a n : Nat) (s : State) : (countHbm ev a n s).prog = s.prog := by
  rw [countHbm_only]
@[simp] theorem countHbm_ad (ev a n : Nat) (s : State) : (countHbm ev a n s).ad = s.ad := by
  rw [countHbm_only]
@[simp] theorem countHbm_front (ev a n : Nat) (s : State) : (countHbm ev a n s).front = s.front := by
  rw [countHbm_only]
@[simp] theorem countHbm_red (ev a n : Nat) (s : State) : (countHbm ev a n s).red = s.red := by
  rw [countHbm_only]
@[simp] theorem countHbm_hbm (ev a n : Nat) (s : State) : (countHbm ev a n s).hbm = s.hbm := by
  rw [countHbm_only]
@[simp] theorem countHbm_leaf (ev a n : Nat) (s : State) : (countHbm ev a n s).leaf = s.leaf := by
  rw [countHbm_only]
@[simp] theorem countHbm_fab (ev a n : Nat) (s : State) : (countHbm ev a n s).fab = s.fab := by
  rw [countHbm_only]
@[simp] theorem countHbm_cust (ev a n : Nat) (s : State) : (countHbm ev a n s).cust = s.cust := by
  rw [countHbm_only]
@[simp] theorem countHbm_dict (ev a n : Nat) (s : State) : (countHbm ev a n s).dict = s.dict := by
  rw [countHbm_only]
@[simp] theorem countHbm_boot (ev a n : Nat) (s : State) : (countHbm ev a n s).boot = s.boot := by
  rw [countHbm_only]
@[simp] theorem countHbm_out (ev a n : Nat) (s : State) : (countHbm ev a n s).out = s.out := by
  rw [countHbm_only]

@[simp] theorem countMoved_pending (g n : Nat) (s : State) : (countMoved g n s).pending = s.pending := rfl
@[simp] theorem countMoved_clock (g n : Nat) (s : State) : (countMoved g n s).clock = s.clock := rfl
@[simp] theorem countMoved_time (g n : Nat) (s : State) : (countMoved g n s).time = s.time := rfl
@[simp] theorem countMoved_timeKnown (g n : Nat) (s : State) : (countMoved g n s).timeKnown = s.timeKnown := rfl
@[simp] theorem countMoved_slew (g n : Nat) (s : State) : (countMoved g n s).slew = s.slew := rfl
@[simp] theorem countMoved_free (g n : Nat) (s : State) : (countMoved g n s).free = s.free := rfl
@[simp] theorem countMoved_mem (g n : Nat) (s : State) : (countMoved g n s).mem = s.mem := rfl
@[simp] theorem countMoved_power (g n : Nat) (s : State) : (countMoved g n s).power = s.power := rfl
@[simp] theorem countMoved_steep (g n : Nat) (s : State) : (countMoved g n s).steep = s.steep := rfl
@[simp] theorem countMoved_prog (g n : Nat) (s : State) : (countMoved g n s).prog = s.prog := rfl
@[simp] theorem countMoved_ad (g n : Nat) (s : State) : (countMoved g n s).ad = s.ad := rfl
@[simp] theorem countMoved_front (g n : Nat) (s : State) : (countMoved g n s).front = s.front := rfl
@[simp] theorem countMoved_red (g n : Nat) (s : State) : (countMoved g n s).red = s.red := rfl
@[simp] theorem countMoved_hbm (g n : Nat) (s : State) : (countMoved g n s).hbm = s.hbm := rfl
@[simp] theorem countMoved_leaf (g n : Nat) (s : State) : (countMoved g n s).leaf = s.leaf := rfl
@[simp] theorem countMoved_fab (g n : Nat) (s : State) : (countMoved g n s).fab = s.fab := rfl
@[simp] theorem countMoved_cust (g n : Nat) (s : State) : (countMoved g n s).cust = s.cust := rfl
@[simp] theorem countMoved_dict (g n : Nat) (s : State) : (countMoved g n s).dict = s.dict := rfl
@[simp] theorem countMoved_boot (g n : Nat) (s : State) : (countMoved g n s).boot = s.boot := rfl
@[simp] theorem countMoved_out (g n : Nat) (s : State) : (countMoved g n s).out = s.out := rfl

@[simp] theorem countHostRead_pending (n : Nat) (s : State) : (countHostRead n s).pending = s.pending := rfl
@[simp] theorem countHostRead_clock (n : Nat) (s : State) : (countHostRead n s).clock = s.clock := rfl
@[simp] theorem countHostRead_time (n : Nat) (s : State) : (countHostRead n s).time = s.time := rfl
@[simp] theorem countHostRead_timeKnown (n : Nat) (s : State) : (countHostRead n s).timeKnown = s.timeKnown := rfl
@[simp] theorem countHostRead_slew (n : Nat) (s : State) : (countHostRead n s).slew = s.slew := rfl
@[simp] theorem countHostRead_free (n : Nat) (s : State) : (countHostRead n s).free = s.free := rfl
@[simp] theorem countHostRead_mem (n : Nat) (s : State) : (countHostRead n s).mem = s.mem := rfl
@[simp] theorem countHostRead_power (n : Nat) (s : State) : (countHostRead n s).power = s.power := rfl
@[simp] theorem countHostRead_steep (n : Nat) (s : State) : (countHostRead n s).steep = s.steep := rfl
@[simp] theorem countHostRead_prog (n : Nat) (s : State) : (countHostRead n s).prog = s.prog := rfl
@[simp] theorem countHostRead_ad (n : Nat) (s : State) : (countHostRead n s).ad = s.ad := rfl
@[simp] theorem countHostRead_front (n : Nat) (s : State) : (countHostRead n s).front = s.front := rfl
@[simp] theorem countHostRead_red (n : Nat) (s : State) : (countHostRead n s).red = s.red := rfl
@[simp] theorem countHostRead_hbm (n : Nat) (s : State) : (countHostRead n s).hbm = s.hbm := rfl
@[simp] theorem countHostRead_leaf (n : Nat) (s : State) : (countHostRead n s).leaf = s.leaf := rfl
@[simp] theorem countHostRead_fab (n : Nat) (s : State) : (countHostRead n s).fab = s.fab := rfl
@[simp] theorem countHostRead_cust (n : Nat) (s : State) : (countHostRead n s).cust = s.cust := rfl
@[simp] theorem countHostRead_dict (n : Nat) (s : State) : (countHostRead n s).dict = s.dict := rfl
@[simp] theorem countHostRead_boot (n : Nat) (s : State) : (countHostRead n s).boot = s.boot := rfl
@[simp] theorem countHostRead_out (n : Nat) (s : State) : (countHostRead n s).out = s.out := rfl

/-- A plain read of package memory gives its bytes and changes the counters alone. -/
theorem readStored_eq (a n : Nat) (s : State) : readStored a n s = (memRead s.mem a n, countHbm 0x040 a n s) := rfl

/-! ### setCfg -/

@[simp] theorem setCfg_pending (i j v : Nat) (s : State) : (setCfg i j v s).pending = s.pending := rfl
@[simp] theorem setCfg_clock (i j v : Nat) (s : State) : (setCfg i j v s).clock = s.clock := rfl
@[simp] theorem setCfg_time (i j v : Nat) (s : State) : (setCfg i j v s).time = s.time := rfl
@[simp] theorem setCfg_timeKnown (i j v : Nat) (s : State) : (setCfg i j v s).timeKnown = s.timeKnown := rfl
@[simp] theorem setCfg_slew (i j v : Nat) (s : State) : (setCfg i j v s).slew = s.slew := rfl
@[simp] theorem setCfg_free (i j v : Nat) (s : State) : (setCfg i j v s).free = s.free := rfl
@[simp] theorem setCfg_mem (i j v : Nat) (s : State) : (setCfg i j v s).mem = s.mem := rfl
@[simp] theorem setCfg_power (i j v : Nat) (s : State) : (setCfg i j v s).power = s.power := rfl
@[simp] theorem setCfg_steep (i j v : Nat) (s : State) : (setCfg i j v s).steep = s.steep := rfl
@[simp] theorem setCfg_prog (i j v : Nat) (s : State) : (setCfg i j v s).prog = s.prog := rfl
@[simp] theorem setCfg_ad (i j v : Nat) (s : State) : (setCfg i j v s).ad = s.ad := rfl
@[simp] theorem setCfg_front (i j v : Nat) (s : State) : (setCfg i j v s).front = s.front := rfl
@[simp] theorem setCfg_red (i j v : Nat) (s : State) : (setCfg i j v s).red = s.red := rfl
@[simp] theorem setCfg_hbm (i j v : Nat) (s : State) : (setCfg i j v s).hbm = s.hbm := rfl
@[simp] theorem setCfg_leaf (i j v : Nat) (s : State) : (setCfg i j v s).leaf = s.leaf := rfl
@[simp] theorem setCfg_fab (i j v : Nat) (s : State) : (setCfg i j v s).fab = s.fab := rfl
@[simp] theorem setCfg_cust (i j v : Nat) (s : State) : (setCfg i j v s).cust = s.cust := rfl
@[simp] theorem setCfg_obs (i j v : Nat) (s : State) : (setCfg i j v s).obs = s.obs := rfl
@[simp] theorem setCfg_boot (i j v : Nat) (s : State) : (setCfg i j v s).boot = s.boot := rfl
@[simp] theorem setCfg_out (i j v : Nat) (s : State) : (setCfg i j v s).out = s.out := rfl

/-! ### setBoth -/

@[simp] theorem setBoth_pending (i j v : Nat) (s : State) : (setBoth i j v s).pending = s.pending := rfl
@[simp] theorem setBoth_clock (i j v : Nat) (s : State) : (setBoth i j v s).clock = s.clock := rfl
@[simp] theorem setBoth_time (i j v : Nat) (s : State) : (setBoth i j v s).time = s.time := rfl
@[simp] theorem setBoth_timeKnown (i j v : Nat) (s : State) : (setBoth i j v s).timeKnown = s.timeKnown := rfl
@[simp] theorem setBoth_slew (i j v : Nat) (s : State) : (setBoth i j v s).slew = s.slew := rfl
@[simp] theorem setBoth_free (i j v : Nat) (s : State) : (setBoth i j v s).free = s.free := rfl
@[simp] theorem setBoth_mem (i j v : Nat) (s : State) : (setBoth i j v s).mem = s.mem := rfl
@[simp] theorem setBoth_power (i j v : Nat) (s : State) : (setBoth i j v s).power = s.power := rfl
@[simp] theorem setBoth_steep (i j v : Nat) (s : State) : (setBoth i j v s).steep = s.steep := rfl
@[simp] theorem setBoth_prog (i j v : Nat) (s : State) : (setBoth i j v s).prog = s.prog := rfl
@[simp] theorem setBoth_ad (i j v : Nat) (s : State) : (setBoth i j v s).ad = s.ad := rfl
@[simp] theorem setBoth_front (i j v : Nat) (s : State) : (setBoth i j v s).front = s.front := rfl
@[simp] theorem setBoth_red (i j v : Nat) (s : State) : (setBoth i j v s).red = s.red := rfl
@[simp] theorem setBoth_hbm (i j v : Nat) (s : State) : (setBoth i j v s).hbm = s.hbm := rfl
@[simp] theorem setBoth_leaf (i j v : Nat) (s : State) : (setBoth i j v s).leaf = s.leaf := rfl
@[simp] theorem setBoth_fab (i j v : Nat) (s : State) : (setBoth i j v s).fab = s.fab := rfl
@[simp] theorem setBoth_cust (i j v : Nat) (s : State) : (setBoth i j v s).cust = s.cust := rfl
@[simp] theorem setBoth_obs (i j v : Nat) (s : State) : (setBoth i j v s).obs = s.obs := rfl
@[simp] theorem setBoth_boot (i j v : Nat) (s : State) : (setBoth i j v s).boot = s.boot := rfl
@[simp] theorem setBoth_out (i j v : Nat) (s : State) : (setBoth i j v s).out = s.out := rfl

/-! ### updStack -/

@[simp] theorem updStack_pending (i : Nat) (f : Stack → Stack) (s : State) : (updStack i f s).pending = s.pending := rfl
@[simp] theorem updStack_clock (i : Nat) (f : Stack → Stack) (s : State) : (updStack i f s).clock = s.clock := rfl
@[simp] theorem updStack_time (i : Nat) (f : Stack → Stack) (s : State) : (updStack i f s).time = s.time := rfl
@[simp] theorem updStack_timeKnown (i : Nat) (f : Stack → Stack) (s : State) : (updStack i f s).timeKnown = s.timeKnown := rfl
@[simp] theorem updStack_slew (i : Nat) (f : Stack → Stack) (s : State) : (updStack i f s).slew = s.slew := rfl
@[simp] theorem updStack_free (i : Nat) (f : Stack → Stack) (s : State) : (updStack i f s).free = s.free := rfl
@[simp] theorem updStack_mem (i : Nat) (f : Stack → Stack) (s : State) : (updStack i f s).mem = s.mem := rfl
@[simp] theorem updStack_power (i : Nat) (f : Stack → Stack) (s : State) : (updStack i f s).power = s.power := rfl
@[simp] theorem updStack_steep (i : Nat) (f : Stack → Stack) (s : State) : (updStack i f s).steep = s.steep := rfl
@[simp] theorem updStack_prog (i : Nat) (f : Stack → Stack) (s : State) : (updStack i f s).prog = s.prog := rfl
@[simp] theorem updStack_ad (i : Nat) (f : Stack → Stack) (s : State) : (updStack i f s).ad = s.ad := rfl
@[simp] theorem updStack_front (i : Nat) (f : Stack → Stack) (s : State) : (updStack i f s).front = s.front := rfl
@[simp] theorem updStack_red (i : Nat) (f : Stack → Stack) (s : State) : (updStack i f s).red = s.red := rfl
@[simp] theorem updStack_leaf (i : Nat) (f : Stack → Stack) (s : State) : (updStack i f s).leaf = s.leaf := rfl
@[simp] theorem updStack_fab (i : Nat) (f : Stack → Stack) (s : State) : (updStack i f s).fab = s.fab := rfl
@[simp] theorem updStack_cust (i : Nat) (f : Stack → Stack) (s : State) : (updStack i f s).cust = s.cust := rfl
@[simp] theorem updStack_dict (i : Nat) (f : Stack → Stack) (s : State) : (updStack i f s).dict = s.dict := rfl
@[simp] theorem updStack_obs (i : Nat) (f : Stack → Stack) (s : State) : (updStack i f s).obs = s.obs := rfl
@[simp] theorem updStack_boot (i : Nat) (f : Stack → Stack) (s : State) : (updStack i f s).boot = s.boot := rfl
@[simp] theorem updStack_out (i : Nat) (f : Stack → Stack) (s : State) : (updStack i f s).out = s.out := rfl

/-! ### updPart -/

@[simp] theorem updPart_pending (p : Nat) (f : Partition → Partition) (s : State) : (updPart p f s).pending = s.pending := rfl
@[simp] theorem updPart_clock (p : Nat) (f : Partition → Partition) (s : State) : (updPart p f s).clock = s.clock := rfl
@[simp] theorem updPart_time (p : Nat) (f : Partition → Partition) (s : State) : (updPart p f s).time = s.time := rfl
@[simp] theorem updPart_timeKnown (p : Nat) (f : Partition → Partition) (s : State) : (updPart p f s).timeKnown = s.timeKnown := rfl
@[simp] theorem updPart_slew (p : Nat) (f : Partition → Partition) (s : State) : (updPart p f s).slew = s.slew := rfl
@[simp] theorem updPart_free (p : Nat) (f : Partition → Partition) (s : State) : (updPart p f s).free = s.free := rfl
@[simp] theorem updPart_mem (p : Nat) (f : Partition → Partition) (s : State) : (updPart p f s).mem = s.mem := rfl
@[simp] theorem updPart_power (p : Nat) (f : Partition → Partition) (s : State) : (updPart p f s).power = s.power := rfl
@[simp] theorem updPart_steep (p : Nat) (f : Partition → Partition) (s : State) : (updPart p f s).steep = s.steep := rfl
@[simp] theorem updPart_prog (p : Nat) (f : Partition → Partition) (s : State) : (updPart p f s).prog = s.prog := rfl
@[simp] theorem updPart_ad (p : Nat) (f : Partition → Partition) (s : State) : (updPart p f s).ad = s.ad := rfl
@[simp] theorem updPart_red (p : Nat) (f : Partition → Partition) (s : State) : (updPart p f s).red = s.red := rfl
@[simp] theorem updPart_hbm (p : Nat) (f : Partition → Partition) (s : State) : (updPart p f s).hbm = s.hbm := rfl
@[simp] theorem updPart_leaf (p : Nat) (f : Partition → Partition) (s : State) : (updPart p f s).leaf = s.leaf := rfl
@[simp] theorem updPart_fab (p : Nat) (f : Partition → Partition) (s : State) : (updPart p f s).fab = s.fab := rfl
@[simp] theorem updPart_cust (p : Nat) (f : Partition → Partition) (s : State) : (updPart p f s).cust = s.cust := rfl
@[simp] theorem updPart_dict (p : Nat) (f : Partition → Partition) (s : State) : (updPart p f s).dict = s.dict := rfl
@[simp] theorem updPart_obs (p : Nat) (f : Partition → Partition) (s : State) : (updPart p f s).obs = s.obs := rfl
@[simp] theorem updPart_boot (p : Nat) (f : Partition → Partition) (s : State) : (updPart p f s).boot = s.boot := rfl
@[simp] theorem updPart_out (p : Nat) (f : Partition → Partition) (s : State) : (updPart p f s).out = s.out := rfl

/-! ### updKv -/

@[simp] theorem updKv_pending (p : Nat) (f : Kv → Kv) (s : State) : (updKv p f s).pending = s.pending := rfl
@[simp] theorem updKv_clock (p : Nat) (f : Kv → Kv) (s : State) : (updKv p f s).clock = s.clock := rfl
@[simp] theorem updKv_time (p : Nat) (f : Kv → Kv) (s : State) : (updKv p f s).time = s.time := rfl
@[simp] theorem updKv_timeKnown (p : Nat) (f : Kv → Kv) (s : State) : (updKv p f s).timeKnown = s.timeKnown := rfl
@[simp] theorem updKv_slew (p : Nat) (f : Kv → Kv) (s : State) : (updKv p f s).slew = s.slew := rfl
@[simp] theorem updKv_free (p : Nat) (f : Kv → Kv) (s : State) : (updKv p f s).free = s.free := rfl
@[simp] theorem updKv_mem (p : Nat) (f : Kv → Kv) (s : State) : (updKv p f s).mem = s.mem := rfl
@[simp] theorem updKv_power (p : Nat) (f : Kv → Kv) (s : State) : (updKv p f s).power = s.power := rfl
@[simp] theorem updKv_steep (p : Nat) (f : Kv → Kv) (s : State) : (updKv p f s).steep = s.steep := rfl
@[simp] theorem updKv_prog (p : Nat) (f : Kv → Kv) (s : State) : (updKv p f s).prog = s.prog := rfl
@[simp] theorem updKv_ad (p : Nat) (f : Kv → Kv) (s : State) : (updKv p f s).ad = s.ad := rfl
@[simp] theorem updKv_red (p : Nat) (f : Kv → Kv) (s : State) : (updKv p f s).red = s.red := rfl
@[simp] theorem updKv_hbm (p : Nat) (f : Kv → Kv) (s : State) : (updKv p f s).hbm = s.hbm := rfl
@[simp] theorem updKv_leaf (p : Nat) (f : Kv → Kv) (s : State) : (updKv p f s).leaf = s.leaf := rfl
@[simp] theorem updKv_fab (p : Nat) (f : Kv → Kv) (s : State) : (updKv p f s).fab = s.fab := rfl
@[simp] theorem updKv_cust (p : Nat) (f : Kv → Kv) (s : State) : (updKv p f s).cust = s.cust := rfl
@[simp] theorem updKv_dict (p : Nat) (f : Kv → Kv) (s : State) : (updKv p f s).dict = s.dict := rfl
@[simp] theorem updKv_obs (p : Nat) (f : Kv → Kv) (s : State) : (updKv p f s).obs = s.obs := rfl
@[simp] theorem updKv_boot (p : Nat) (f : Kv → Kv) (s : State) : (updKv p f s).boot = s.boot := rfl
@[simp] theorem updKv_out (p : Nat) (f : Kv → Kv) (s : State) : (updKv p f s).out = s.out := rfl

/-! ### updFront -/

@[simp] theorem updFront_pending (f : Front → Front) (s : State) : (updFront f s).pending = s.pending := rfl
@[simp] theorem updFront_clock (f : Front → Front) (s : State) : (updFront f s).clock = s.clock := rfl
@[simp] theorem updFront_time (f : Front → Front) (s : State) : (updFront f s).time = s.time := rfl
@[simp] theorem updFront_timeKnown (f : Front → Front) (s : State) : (updFront f s).timeKnown = s.timeKnown := rfl
@[simp] theorem updFront_slew (f : Front → Front) (s : State) : (updFront f s).slew = s.slew := rfl
@[simp] theorem updFront_free (f : Front → Front) (s : State) : (updFront f s).free = s.free := rfl
@[simp] theorem updFront_mem (f : Front → Front) (s : State) : (updFront f s).mem = s.mem := rfl
@[simp] theorem updFront_power (f : Front → Front) (s : State) : (updFront f s).power = s.power := rfl
@[simp] theorem updFront_steep (f : Front → Front) (s : State) : (updFront f s).steep = s.steep := rfl
@[simp] theorem updFront_prog (f : Front → Front) (s : State) : (updFront f s).prog = s.prog := rfl
@[simp] theorem updFront_ad (f : Front → Front) (s : State) : (updFront f s).ad = s.ad := rfl
@[simp] theorem updFront_red (f : Front → Front) (s : State) : (updFront f s).red = s.red := rfl
@[simp] theorem updFront_hbm (f : Front → Front) (s : State) : (updFront f s).hbm = s.hbm := rfl
@[simp] theorem updFront_leaf (f : Front → Front) (s : State) : (updFront f s).leaf = s.leaf := rfl
@[simp] theorem updFront_fab (f : Front → Front) (s : State) : (updFront f s).fab = s.fab := rfl
@[simp] theorem updFront_cust (f : Front → Front) (s : State) : (updFront f s).cust = s.cust := rfl
@[simp] theorem updFront_dict (f : Front → Front) (s : State) : (updFront f s).dict = s.dict := rfl
@[simp] theorem updFront_obs (f : Front → Front) (s : State) : (updFront f s).obs = s.obs := rfl
@[simp] theorem updFront_boot (f : Front → Front) (s : State) : (updFront f s).boot = s.boot := rfl
@[simp] theorem updFront_out (f : Front → Front) (s : State) : (updFront f s).out = s.out := rfl

/-! ### updQueue -/

@[simp] theorem updQueue_pending (q : Nat) (f : Queue → Queue) (s : State) : (updQueue q f s).pending = s.pending := rfl
@[simp] theorem updQueue_clock (q : Nat) (f : Queue → Queue) (s : State) : (updQueue q f s).clock = s.clock := rfl
@[simp] theorem updQueue_time (q : Nat) (f : Queue → Queue) (s : State) : (updQueue q f s).time = s.time := rfl
@[simp] theorem updQueue_timeKnown (q : Nat) (f : Queue → Queue) (s : State) : (updQueue q f s).timeKnown = s.timeKnown := rfl
@[simp] theorem updQueue_slew (q : Nat) (f : Queue → Queue) (s : State) : (updQueue q f s).slew = s.slew := rfl
@[simp] theorem updQueue_free (q : Nat) (f : Queue → Queue) (s : State) : (updQueue q f s).free = s.free := rfl
@[simp] theorem updQueue_mem (q : Nat) (f : Queue → Queue) (s : State) : (updQueue q f s).mem = s.mem := rfl
@[simp] theorem updQueue_power (q : Nat) (f : Queue → Queue) (s : State) : (updQueue q f s).power = s.power := rfl
@[simp] theorem updQueue_steep (q : Nat) (f : Queue → Queue) (s : State) : (updQueue q f s).steep = s.steep := rfl
@[simp] theorem updQueue_prog (q : Nat) (f : Queue → Queue) (s : State) : (updQueue q f s).prog = s.prog := rfl
@[simp] theorem updQueue_ad (q : Nat) (f : Queue → Queue) (s : State) : (updQueue q f s).ad = s.ad := rfl
@[simp] theorem updQueue_red (q : Nat) (f : Queue → Queue) (s : State) : (updQueue q f s).red = s.red := rfl
@[simp] theorem updQueue_hbm (q : Nat) (f : Queue → Queue) (s : State) : (updQueue q f s).hbm = s.hbm := rfl
@[simp] theorem updQueue_leaf (q : Nat) (f : Queue → Queue) (s : State) : (updQueue q f s).leaf = s.leaf := rfl
@[simp] theorem updQueue_fab (q : Nat) (f : Queue → Queue) (s : State) : (updQueue q f s).fab = s.fab := rfl
@[simp] theorem updQueue_cust (q : Nat) (f : Queue → Queue) (s : State) : (updQueue q f s).cust = s.cust := rfl
@[simp] theorem updQueue_dict (q : Nat) (f : Queue → Queue) (s : State) : (updQueue q f s).dict = s.dict := rfl
@[simp] theorem updQueue_obs (q : Nat) (f : Queue → Queue) (s : State) : (updQueue q f s).obs = s.obs := rfl
@[simp] theorem updQueue_boot (q : Nat) (f : Queue → Queue) (s : State) : (updQueue q f s).boot = s.boot := rfl
@[simp] theorem updQueue_out (q : Nat) (f : Queue → Queue) (s : State) : (updQueue q f s).out = s.out := rfl

/-! ### updAd -/

@[simp] theorem updAd_pending (f : Adapters → Adapters) (s : State) : (updAd f s).pending = s.pending := rfl
@[simp] theorem updAd_clock (f : Adapters → Adapters) (s : State) : (updAd f s).clock = s.clock := rfl
@[simp] theorem updAd_time (f : Adapters → Adapters) (s : State) : (updAd f s).time = s.time := rfl
@[simp] theorem updAd_timeKnown (f : Adapters → Adapters) (s : State) : (updAd f s).timeKnown = s.timeKnown := rfl
@[simp] theorem updAd_slew (f : Adapters → Adapters) (s : State) : (updAd f s).slew = s.slew := rfl
@[simp] theorem updAd_free (f : Adapters → Adapters) (s : State) : (updAd f s).free = s.free := rfl
@[simp] theorem updAd_mem (f : Adapters → Adapters) (s : State) : (updAd f s).mem = s.mem := rfl
@[simp] theorem updAd_power (f : Adapters → Adapters) (s : State) : (updAd f s).power = s.power := rfl
@[simp] theorem updAd_steep (f : Adapters → Adapters) (s : State) : (updAd f s).steep = s.steep := rfl
@[simp] theorem updAd_prog (f : Adapters → Adapters) (s : State) : (updAd f s).prog = s.prog := rfl
@[simp] theorem updAd_front (f : Adapters → Adapters) (s : State) : (updAd f s).front = s.front := rfl
@[simp] theorem updAd_red (f : Adapters → Adapters) (s : State) : (updAd f s).red = s.red := rfl
@[simp] theorem updAd_hbm (f : Adapters → Adapters) (s : State) : (updAd f s).hbm = s.hbm := rfl
@[simp] theorem updAd_leaf (f : Adapters → Adapters) (s : State) : (updAd f s).leaf = s.leaf := rfl
@[simp] theorem updAd_fab (f : Adapters → Adapters) (s : State) : (updAd f s).fab = s.fab := rfl
@[simp] theorem updAd_cust (f : Adapters → Adapters) (s : State) : (updAd f s).cust = s.cust := rfl
@[simp] theorem updAd_dict (f : Adapters → Adapters) (s : State) : (updAd f s).dict = s.dict := rfl
@[simp] theorem updAd_obs (f : Adapters → Adapters) (s : State) : (updAd f s).obs = s.obs := rfl
@[simp] theorem updAd_boot (f : Adapters → Adapters) (s : State) : (updAd f s).boot = s.boot := rfl
@[simp] theorem updAd_out (f : Adapters → Adapters) (s : State) : (updAd f s).out = s.out := rfl

/-! ### setDesc -/

@[simp] theorem setDesc_pending (d : Nat) (w : BitVec 1024) (s : State) : (setDesc d w s).pending = s.pending := rfl
@[simp] theorem setDesc_clock (d : Nat) (w : BitVec 1024) (s : State) : (setDesc d w s).clock = s.clock := rfl
@[simp] theorem setDesc_time (d : Nat) (w : BitVec 1024) (s : State) : (setDesc d w s).time = s.time := rfl
@[simp] theorem setDesc_timeKnown (d : Nat) (w : BitVec 1024) (s : State) : (setDesc d w s).timeKnown = s.timeKnown := rfl
@[simp] theorem setDesc_slew (d : Nat) (w : BitVec 1024) (s : State) : (setDesc d w s).slew = s.slew := rfl
@[simp] theorem setDesc_free (d : Nat) (w : BitVec 1024) (s : State) : (setDesc d w s).free = s.free := rfl
@[simp] theorem setDesc_mem (d : Nat) (w : BitVec 1024) (s : State) : (setDesc d w s).mem = s.mem := rfl
@[simp] theorem setDesc_power (d : Nat) (w : BitVec 1024) (s : State) : (setDesc d w s).power = s.power := rfl
@[simp] theorem setDesc_steep (d : Nat) (w : BitVec 1024) (s : State) : (setDesc d w s).steep = s.steep := rfl
@[simp] theorem setDesc_prog (d : Nat) (w : BitVec 1024) (s : State) : (setDesc d w s).prog = s.prog := rfl
@[simp] theorem setDesc_front (d : Nat) (w : BitVec 1024) (s : State) : (setDesc d w s).front = s.front := rfl
@[simp] theorem setDesc_red (d : Nat) (w : BitVec 1024) (s : State) : (setDesc d w s).red = s.red := rfl
@[simp] theorem setDesc_hbm (d : Nat) (w : BitVec 1024) (s : State) : (setDesc d w s).hbm = s.hbm := rfl
@[simp] theorem setDesc_leaf (d : Nat) (w : BitVec 1024) (s : State) : (setDesc d w s).leaf = s.leaf := rfl
@[simp] theorem setDesc_fab (d : Nat) (w : BitVec 1024) (s : State) : (setDesc d w s).fab = s.fab := rfl
@[simp] theorem setDesc_cust (d : Nat) (w : BitVec 1024) (s : State) : (setDesc d w s).cust = s.cust := rfl
@[simp] theorem setDesc_dict (d : Nat) (w : BitVec 1024) (s : State) : (setDesc d w s).dict = s.dict := rfl
@[simp] theorem setDesc_obs (d : Nat) (w : BitVec 1024) (s : State) : (setDesc d w s).obs = s.obs := rfl
@[simp] theorem setDesc_boot (d : Nat) (w : BitVec 1024) (s : State) : (setDesc d w s).boot = s.boot := rfl
@[simp] theorem setDesc_out (d : Nat) (w : BitVec 1024) (s : State) : (setDesc d w s).out = s.out := rfl

/-! ### updRequest -/

@[simp] theorem updRequest_pending (cmd : Nat) (f : Request → Request) (s : State) : (updRequest cmd f s).pending = s.pending := rfl
@[simp] theorem updRequest_clock (cmd : Nat) (f : Request → Request) (s : State) : (updRequest cmd f s).clock = s.clock := rfl
@[simp] theorem updRequest_time (cmd : Nat) (f : Request → Request) (s : State) : (updRequest cmd f s).time = s.time := rfl
@[simp] theorem updRequest_timeKnown (cmd : Nat) (f : Request → Request) (s : State) : (updRequest cmd f s).timeKnown = s.timeKnown := rfl
@[simp] theorem updRequest_slew (cmd : Nat) (f : Request → Request) (s : State) : (updRequest cmd f s).slew = s.slew := rfl
@[simp] theorem updRequest_free (cmd : Nat) (f : Request → Request) (s : State) : (updRequest cmd f s).free = s.free := rfl
@[simp] theorem updRequest_mem (cmd : Nat) (f : Request → Request) (s : State) : (updRequest cmd f s).mem = s.mem := rfl
@[simp] theorem updRequest_power (cmd : Nat) (f : Request → Request) (s : State) : (updRequest cmd f s).power = s.power := rfl
@[simp] theorem updRequest_steep (cmd : Nat) (f : Request → Request) (s : State) : (updRequest cmd f s).steep = s.steep := rfl
@[simp] theorem updRequest_prog (cmd : Nat) (f : Request → Request) (s : State) : (updRequest cmd f s).prog = s.prog := rfl
@[simp] theorem updRequest_front (cmd : Nat) (f : Request → Request) (s : State) : (updRequest cmd f s).front = s.front := rfl
@[simp] theorem updRequest_red (cmd : Nat) (f : Request → Request) (s : State) : (updRequest cmd f s).red = s.red := rfl
@[simp] theorem updRequest_hbm (cmd : Nat) (f : Request → Request) (s : State) : (updRequest cmd f s).hbm = s.hbm := rfl
@[simp] theorem updRequest_leaf (cmd : Nat) (f : Request → Request) (s : State) : (updRequest cmd f s).leaf = s.leaf := rfl
@[simp] theorem updRequest_fab (cmd : Nat) (f : Request → Request) (s : State) : (updRequest cmd f s).fab = s.fab := rfl
@[simp] theorem updRequest_cust (cmd : Nat) (f : Request → Request) (s : State) : (updRequest cmd f s).cust = s.cust := rfl
@[simp] theorem updRequest_dict (cmd : Nat) (f : Request → Request) (s : State) : (updRequest cmd f s).dict = s.dict := rfl
@[simp] theorem updRequest_obs (cmd : Nat) (f : Request → Request) (s : State) : (updRequest cmd f s).obs = s.obs := rfl
@[simp] theorem updRequest_boot (cmd : Nat) (f : Request → Request) (s : State) : (updRequest cmd f s).boot = s.boot := rfl
@[simp] theorem updRequest_out (cmd : Nat) (f : Request → Request) (s : State) : (updRequest cmd f s).out = s.out := rfl

/-! ### updPort -/

@[simp] theorem updPort_pending (p : Nat) (f : Port → Port) (s : State) : (updPort p f s).pending = s.pending := rfl
@[simp] theorem updPort_clock (p : Nat) (f : Port → Port) (s : State) : (updPort p f s).clock = s.clock := rfl
@[simp] theorem updPort_time (p : Nat) (f : Port → Port) (s : State) : (updPort p f s).time = s.time := rfl
@[simp] theorem updPort_timeKnown (p : Nat) (f : Port → Port) (s : State) : (updPort p f s).timeKnown = s.timeKnown := rfl
@[simp] theorem updPort_slew (p : Nat) (f : Port → Port) (s : State) : (updPort p f s).slew = s.slew := rfl
@[simp] theorem updPort_free (p : Nat) (f : Port → Port) (s : State) : (updPort p f s).free = s.free := rfl
@[simp] theorem updPort_mem (p : Nat) (f : Port → Port) (s : State) : (updPort p f s).mem = s.mem := rfl
@[simp] theorem updPort_power (p : Nat) (f : Port → Port) (s : State) : (updPort p f s).power = s.power := rfl
@[simp] theorem updPort_steep (p : Nat) (f : Port → Port) (s : State) : (updPort p f s).steep = s.steep := rfl
@[simp] theorem updPort_prog (p : Nat) (f : Port → Port) (s : State) : (updPort p f s).prog = s.prog := rfl
@[simp] theorem updPort_ad (p : Nat) (f : Port → Port) (s : State) : (updPort p f s).ad = s.ad := rfl
@[simp] theorem updPort_front (p : Nat) (f : Port → Port) (s : State) : (updPort p f s).front = s.front := rfl
@[simp] theorem updPort_red (p : Nat) (f : Port → Port) (s : State) : (updPort p f s).red = s.red := rfl
@[simp] theorem updPort_hbm (p : Nat) (f : Port → Port) (s : State) : (updPort p f s).hbm = s.hbm := rfl
@[simp] theorem updPort_leaf (p : Nat) (f : Port → Port) (s : State) : (updPort p f s).leaf = s.leaf := rfl
@[simp] theorem updPort_cust (p : Nat) (f : Port → Port) (s : State) : (updPort p f s).cust = s.cust := rfl
@[simp] theorem updPort_dict (p : Nat) (f : Port → Port) (s : State) : (updPort p f s).dict = s.dict := rfl
@[simp] theorem updPort_obs (p : Nat) (f : Port → Port) (s : State) : (updPort p f s).obs = s.obs := rfl
@[simp] theorem updPort_boot (p : Nat) (f : Port → Port) (s : State) : (updPort p f s).boot = s.boot := rfl
@[simp] theorem updPort_out (p : Nat) (f : Port → Port) (s : State) : (updPort p f s).out = s.out := rfl

/-! ### updBoot -/

@[simp] theorem updBoot_pending (f : Startup → Startup) (s : State) : (updBoot f s).pending = s.pending := rfl
@[simp] theorem updBoot_clock (f : Startup → Startup) (s : State) : (updBoot f s).clock = s.clock := rfl
@[simp] theorem updBoot_time (f : Startup → Startup) (s : State) : (updBoot f s).time = s.time := rfl
@[simp] theorem updBoot_timeKnown (f : Startup → Startup) (s : State) : (updBoot f s).timeKnown = s.timeKnown := rfl
@[simp] theorem updBoot_slew (f : Startup → Startup) (s : State) : (updBoot f s).slew = s.slew := rfl
@[simp] theorem updBoot_free (f : Startup → Startup) (s : State) : (updBoot f s).free = s.free := rfl
@[simp] theorem updBoot_mem (f : Startup → Startup) (s : State) : (updBoot f s).mem = s.mem := rfl
@[simp] theorem updBoot_power (f : Startup → Startup) (s : State) : (updBoot f s).power = s.power := rfl
@[simp] theorem updBoot_steep (f : Startup → Startup) (s : State) : (updBoot f s).steep = s.steep := rfl
@[simp] theorem updBoot_prog (f : Startup → Startup) (s : State) : (updBoot f s).prog = s.prog := rfl
@[simp] theorem updBoot_ad (f : Startup → Startup) (s : State) : (updBoot f s).ad = s.ad := rfl
@[simp] theorem updBoot_front (f : Startup → Startup) (s : State) : (updBoot f s).front = s.front := rfl
@[simp] theorem updBoot_red (f : Startup → Startup) (s : State) : (updBoot f s).red = s.red := rfl
@[simp] theorem updBoot_hbm (f : Startup → Startup) (s : State) : (updBoot f s).hbm = s.hbm := rfl
@[simp] theorem updBoot_leaf (f : Startup → Startup) (s : State) : (updBoot f s).leaf = s.leaf := rfl
@[simp] theorem updBoot_fab (f : Startup → Startup) (s : State) : (updBoot f s).fab = s.fab := rfl
@[simp] theorem updBoot_cust (f : Startup → Startup) (s : State) : (updBoot f s).cust = s.cust := rfl
@[simp] theorem updBoot_dict (f : Startup → Startup) (s : State) : (updBoot f s).dict = s.dict := rfl
@[simp] theorem updBoot_obs (f : Startup → Startup) (s : State) : (updBoot f s).obs = s.obs := rfl
@[simp] theorem updBoot_out (f : Startup → Startup) (s : State) : (updBoot f s).out = s.out := rfl

/-! ### updLeaf -/

@[simp] theorem updLeaf_pending (f : Leaf → Leaf) (s : State) : (updLeaf f s).pending = s.pending := rfl
@[simp] theorem updLeaf_clock (f : Leaf → Leaf) (s : State) : (updLeaf f s).clock = s.clock := rfl
@[simp] theorem updLeaf_time (f : Leaf → Leaf) (s : State) : (updLeaf f s).time = s.time := rfl
@[simp] theorem updLeaf_timeKnown (f : Leaf → Leaf) (s : State) : (updLeaf f s).timeKnown = s.timeKnown := rfl
@[simp] theorem updLeaf_slew (f : Leaf → Leaf) (s : State) : (updLeaf f s).slew = s.slew := rfl
@[simp] theorem updLeaf_free (f : Leaf → Leaf) (s : State) : (updLeaf f s).free = s.free := rfl
@[simp] theorem updLeaf_mem (f : Leaf → Leaf) (s : State) : (updLeaf f s).mem = s.mem := rfl
@[simp] theorem updLeaf_power (f : Leaf → Leaf) (s : State) : (updLeaf f s).power = s.power := rfl
@[simp] theorem updLeaf_steep (f : Leaf → Leaf) (s : State) : (updLeaf f s).steep = s.steep := rfl
@[simp] theorem updLeaf_prog (f : Leaf → Leaf) (s : State) : (updLeaf f s).prog = s.prog := rfl
@[simp] theorem updLeaf_ad (f : Leaf → Leaf) (s : State) : (updLeaf f s).ad = s.ad := rfl
@[simp] theorem updLeaf_front (f : Leaf → Leaf) (s : State) : (updLeaf f s).front = s.front := rfl
@[simp] theorem updLeaf_red (f : Leaf → Leaf) (s : State) : (updLeaf f s).red = s.red := rfl
@[simp] theorem updLeaf_hbm (f : Leaf → Leaf) (s : State) : (updLeaf f s).hbm = s.hbm := rfl
@[simp] theorem updLeaf_fab (f : Leaf → Leaf) (s : State) : (updLeaf f s).fab = s.fab := rfl
@[simp] theorem updLeaf_cust (f : Leaf → Leaf) (s : State) : (updLeaf f s).cust = s.cust := rfl
@[simp] theorem updLeaf_dict (f : Leaf → Leaf) (s : State) : (updLeaf f s).dict = s.dict := rfl
@[simp] theorem updLeaf_obs (f : Leaf → Leaf) (s : State) : (updLeaf f s).obs = s.obs := rfl
@[simp] theorem updLeaf_boot (f : Leaf → Leaf) (s : State) : (updLeaf f s).boot = s.boot := rfl
@[simp] theorem updLeaf_out (f : Leaf → Leaf) (s : State) : (updLeaf f s).out = s.out := rfl

/-! ### setRec -/

@[simp] theorem setRec_pending (h : Bool) (r : BitVec 512) (s : State) : (setRec h r s).pending = s.pending := rfl
@[simp] theorem setRec_clock (h : Bool) (r : BitVec 512) (s : State) : (setRec h r s).clock = s.clock := rfl
@[simp] theorem setRec_time (h : Bool) (r : BitVec 512) (s : State) : (setRec h r s).time = s.time := rfl
@[simp] theorem setRec_timeKnown (h : Bool) (r : BitVec 512) (s : State) : (setRec h r s).timeKnown = s.timeKnown := rfl
@[simp] theorem setRec_slew (h : Bool) (r : BitVec 512) (s : State) : (setRec h r s).slew = s.slew := rfl
@[simp] theorem setRec_free (h : Bool) (r : BitVec 512) (s : State) : (setRec h r s).free = s.free := rfl
@[simp] theorem setRec_mem (h : Bool) (r : BitVec 512) (s : State) : (setRec h r s).mem = s.mem := rfl
@[simp] theorem setRec_power (h : Bool) (r : BitVec 512) (s : State) : (setRec h r s).power = s.power := rfl
@[simp] theorem setRec_steep (h : Bool) (r : BitVec 512) (s : State) : (setRec h r s).steep = s.steep := rfl
@[simp] theorem setRec_prog (h : Bool) (r : BitVec 512) (s : State) : (setRec h r s).prog = s.prog := rfl
@[simp] theorem setRec_ad (h : Bool) (r : BitVec 512) (s : State) : (setRec h r s).ad = s.ad := rfl
@[simp] theorem setRec_front (h : Bool) (r : BitVec 512) (s : State) : (setRec h r s).front = s.front := rfl
@[simp] theorem setRec_red (h : Bool) (r : BitVec 512) (s : State) : (setRec h r s).red = s.red := rfl
@[simp] theorem setRec_hbm (h : Bool) (r : BitVec 512) (s : State) : (setRec h r s).hbm = s.hbm := rfl
@[simp] theorem setRec_fab (h : Bool) (r : BitVec 512) (s : State) : (setRec h r s).fab = s.fab := rfl
@[simp] theorem setRec_cust (h : Bool) (r : BitVec 512) (s : State) : (setRec h r s).cust = s.cust := rfl
@[simp] theorem setRec_dict (h : Bool) (r : BitVec 512) (s : State) : (setRec h r s).dict = s.dict := rfl
@[simp] theorem setRec_obs (h : Bool) (r : BitVec 512) (s : State) : (setRec h r s).obs = s.obs := rfl
@[simp] theorem setRec_boot (h : Bool) (r : BitVec 512) (s : State) : (setRec h r s).boot = s.boot := rfl
@[simp] theorem setRec_out (h : Bool) (r : BitVec 512) (s : State) : (setRec h r s).out = s.out := rfl

/-! ### updCust -/

@[simp] theorem updCust_pending (f : Custody → Custody) (s : State) : (updCust f s).pending = s.pending := rfl
@[simp] theorem updCust_clock (f : Custody → Custody) (s : State) : (updCust f s).clock = s.clock := rfl
@[simp] theorem updCust_time (f : Custody → Custody) (s : State) : (updCust f s).time = s.time := rfl
@[simp] theorem updCust_timeKnown (f : Custody → Custody) (s : State) : (updCust f s).timeKnown = s.timeKnown := rfl
@[simp] theorem updCust_slew (f : Custody → Custody) (s : State) : (updCust f s).slew = s.slew := rfl
@[simp] theorem updCust_free (f : Custody → Custody) (s : State) : (updCust f s).free = s.free := rfl
@[simp] theorem updCust_mem (f : Custody → Custody) (s : State) : (updCust f s).mem = s.mem := rfl
@[simp] theorem updCust_power (f : Custody → Custody) (s : State) : (updCust f s).power = s.power := rfl
@[simp] theorem updCust_steep (f : Custody → Custody) (s : State) : (updCust f s).steep = s.steep := rfl
@[simp] theorem updCust_prog (f : Custody → Custody) (s : State) : (updCust f s).prog = s.prog := rfl
@[simp] theorem updCust_ad (f : Custody → Custody) (s : State) : (updCust f s).ad = s.ad := rfl
@[simp] theorem updCust_front (f : Custody → Custody) (s : State) : (updCust f s).front = s.front := rfl
@[simp] theorem updCust_red (f : Custody → Custody) (s : State) : (updCust f s).red = s.red := rfl
@[simp] theorem updCust_hbm (f : Custody → Custody) (s : State) : (updCust f s).hbm = s.hbm := rfl
@[simp] theorem updCust_leaf (f : Custody → Custody) (s : State) : (updCust f s).leaf = s.leaf := rfl
@[simp] theorem updCust_fab (f : Custody → Custody) (s : State) : (updCust f s).fab = s.fab := rfl
@[simp] theorem updCust_dict (f : Custody → Custody) (s : State) : (updCust f s).dict = s.dict := rfl
@[simp] theorem updCust_obs (f : Custody → Custody) (s : State) : (updCust f s).obs = s.obs := rfl
@[simp] theorem updCust_boot (f : Custody → Custody) (s : State) : (updCust f s).boot = s.boot := rfl
@[simp] theorem updCust_out (f : Custody → Custody) (s : State) : (updCust f s).out = s.out := rfl

/-! ### updDict -/

@[simp] theorem updDict_pending (f : Dictionary → Dictionary) (s : State) : (updDict f s).pending = s.pending := rfl
@[simp] theorem updDict_clock (f : Dictionary → Dictionary) (s : State) : (updDict f s).clock = s.clock := rfl
@[simp] theorem updDict_time (f : Dictionary → Dictionary) (s : State) : (updDict f s).time = s.time := rfl
@[simp] theorem updDict_timeKnown (f : Dictionary → Dictionary) (s : State) : (updDict f s).timeKnown = s.timeKnown := rfl
@[simp] theorem updDict_slew (f : Dictionary → Dictionary) (s : State) : (updDict f s).slew = s.slew := rfl
@[simp] theorem updDict_free (f : Dictionary → Dictionary) (s : State) : (updDict f s).free = s.free := rfl
@[simp] theorem updDict_mem (f : Dictionary → Dictionary) (s : State) : (updDict f s).mem = s.mem := rfl
@[simp] theorem updDict_power (f : Dictionary → Dictionary) (s : State) : (updDict f s).power = s.power := rfl
@[simp] theorem updDict_steep (f : Dictionary → Dictionary) (s : State) : (updDict f s).steep = s.steep := rfl
@[simp] theorem updDict_prog (f : Dictionary → Dictionary) (s : State) : (updDict f s).prog = s.prog := rfl
@[simp] theorem updDict_ad (f : Dictionary → Dictionary) (s : State) : (updDict f s).ad = s.ad := rfl
@[simp] theorem updDict_front (f : Dictionary → Dictionary) (s : State) : (updDict f s).front = s.front := rfl
@[simp] theorem updDict_red (f : Dictionary → Dictionary) (s : State) : (updDict f s).red = s.red := rfl
@[simp] theorem updDict_hbm (f : Dictionary → Dictionary) (s : State) : (updDict f s).hbm = s.hbm := rfl
@[simp] theorem updDict_leaf (f : Dictionary → Dictionary) (s : State) : (updDict f s).leaf = s.leaf := rfl
@[simp] theorem updDict_fab (f : Dictionary → Dictionary) (s : State) : (updDict f s).fab = s.fab := rfl
@[simp] theorem updDict_cust (f : Dictionary → Dictionary) (s : State) : (updDict f s).cust = s.cust := rfl
@[simp] theorem updDict_obs (f : Dictionary → Dictionary) (s : State) : (updDict f s).obs = s.obs := rfl
@[simp] theorem updDict_boot (f : Dictionary → Dictionary) (s : State) : (updDict f s).boot = s.boot := rfl
@[simp] theorem updDict_out (f : Dictionary → Dictionary) (s : State) : (updDict f s).out = s.out := rfl

/-! ### updSession -/

@[simp] theorem updSession_pending (i : BitVec 32) (f : Session → Session) (s : State) : (updSession i f s).pending = s.pending := rfl
@[simp] theorem updSession_clock (i : BitVec 32) (f : Session → Session) (s : State) : (updSession i f s).clock = s.clock := rfl
@[simp] theorem updSession_time (i : BitVec 32) (f : Session → Session) (s : State) : (updSession i f s).time = s.time := rfl
@[simp] theorem updSession_timeKnown (i : BitVec 32) (f : Session → Session) (s : State) : (updSession i f s).timeKnown = s.timeKnown := rfl
@[simp] theorem updSession_slew (i : BitVec 32) (f : Session → Session) (s : State) : (updSession i f s).slew = s.slew := rfl
@[simp] theorem updSession_free (i : BitVec 32) (f : Session → Session) (s : State) : (updSession i f s).free = s.free := rfl
@[simp] theorem updSession_mem (i : BitVec 32) (f : Session → Session) (s : State) : (updSession i f s).mem = s.mem := rfl
@[simp] theorem updSession_power (i : BitVec 32) (f : Session → Session) (s : State) : (updSession i f s).power = s.power := rfl
@[simp] theorem updSession_steep (i : BitVec 32) (f : Session → Session) (s : State) : (updSession i f s).steep = s.steep := rfl
@[simp] theorem updSession_prog (i : BitVec 32) (f : Session → Session) (s : State) : (updSession i f s).prog = s.prog := rfl
@[simp] theorem updSession_ad (i : BitVec 32) (f : Session → Session) (s : State) : (updSession i f s).ad = s.ad := rfl
@[simp] theorem updSession_front (i : BitVec 32) (f : Session → Session) (s : State) : (updSession i f s).front = s.front := rfl
@[simp] theorem updSession_red (i : BitVec 32) (f : Session → Session) (s : State) : (updSession i f s).red = s.red := rfl
@[simp] theorem updSession_hbm (i : BitVec 32) (f : Session → Session) (s : State) : (updSession i f s).hbm = s.hbm := rfl
@[simp] theorem updSession_leaf (i : BitVec 32) (f : Session → Session) (s : State) : (updSession i f s).leaf = s.leaf := rfl
@[simp] theorem updSession_fab (i : BitVec 32) (f : Session → Session) (s : State) : (updSession i f s).fab = s.fab := rfl
@[simp] theorem updSession_cust (i : BitVec 32) (f : Session → Session) (s : State) : (updSession i f s).cust = s.cust := rfl
@[simp] theorem updSession_obs (i : BitVec 32) (f : Session → Session) (s : State) : (updSession i f s).obs = s.obs := rfl
@[simp] theorem updSession_boot (i : BitVec 32) (f : Session → Session) (s : State) : (updSession i f s).boot = s.boot := rfl
@[simp] theorem updSession_out (i : BitVec 32) (f : Session → Session) (s : State) : (updSession i f s).out = s.out := rfl

/-! ### updBlock -/

@[simp] theorem updBlock_pending (b : Nat) (f : CounterBlock → CounterBlock) (s : State) : (updBlock b f s).pending = s.pending := rfl
@[simp] theorem updBlock_clock (b : Nat) (f : CounterBlock → CounterBlock) (s : State) : (updBlock b f s).clock = s.clock := rfl
@[simp] theorem updBlock_time (b : Nat) (f : CounterBlock → CounterBlock) (s : State) : (updBlock b f s).time = s.time := rfl
@[simp] theorem updBlock_timeKnown (b : Nat) (f : CounterBlock → CounterBlock) (s : State) : (updBlock b f s).timeKnown = s.timeKnown := rfl
@[simp] theorem updBlock_slew (b : Nat) (f : CounterBlock → CounterBlock) (s : State) : (updBlock b f s).slew = s.slew := rfl
@[simp] theorem updBlock_free (b : Nat) (f : CounterBlock → CounterBlock) (s : State) : (updBlock b f s).free = s.free := rfl
@[simp] theorem updBlock_mem (b : Nat) (f : CounterBlock → CounterBlock) (s : State) : (updBlock b f s).mem = s.mem := rfl
@[simp] theorem updBlock_power (b : Nat) (f : CounterBlock → CounterBlock) (s : State) : (updBlock b f s).power = s.power := rfl
@[simp] theorem updBlock_steep (b : Nat) (f : CounterBlock → CounterBlock) (s : State) : (updBlock b f s).steep = s.steep := rfl
@[simp] theorem updBlock_prog (b : Nat) (f : CounterBlock → CounterBlock) (s : State) : (updBlock b f s).prog = s.prog := rfl
@[simp] theorem updBlock_ad (b : Nat) (f : CounterBlock → CounterBlock) (s : State) : (updBlock b f s).ad = s.ad := rfl
@[simp] theorem updBlock_front (b : Nat) (f : CounterBlock → CounterBlock) (s : State) : (updBlock b f s).front = s.front := rfl
@[simp] theorem updBlock_red (b : Nat) (f : CounterBlock → CounterBlock) (s : State) : (updBlock b f s).red = s.red := rfl
@[simp] theorem updBlock_hbm (b : Nat) (f : CounterBlock → CounterBlock) (s : State) : (updBlock b f s).hbm = s.hbm := rfl
@[simp] theorem updBlock_leaf (b : Nat) (f : CounterBlock → CounterBlock) (s : State) : (updBlock b f s).leaf = s.leaf := rfl
@[simp] theorem updBlock_fab (b : Nat) (f : CounterBlock → CounterBlock) (s : State) : (updBlock b f s).fab = s.fab := rfl
@[simp] theorem updBlock_cust (b : Nat) (f : CounterBlock → CounterBlock) (s : State) : (updBlock b f s).cust = s.cust := rfl
@[simp] theorem updBlock_dict (b : Nat) (f : CounterBlock → CounterBlock) (s : State) : (updBlock b f s).dict = s.dict := rfl
@[simp] theorem updBlock_boot (b : Nat) (f : CounterBlock → CounterBlock) (s : State) : (updBlock b f s).boot = s.boot := rfl
@[simp] theorem updBlock_out (b : Nat) (f : CounterBlock → CounterBlock) (s : State) : (updBlock b f s).out = s.out := rfl

/-! ### updRed -/

@[simp] theorem updRed_pending (f : Reduction → Reduction) (s : State) : (updRed f s).pending = s.pending := rfl
@[simp] theorem updRed_clock (f : Reduction → Reduction) (s : State) : (updRed f s).clock = s.clock := rfl
@[simp] theorem updRed_time (f : Reduction → Reduction) (s : State) : (updRed f s).time = s.time := rfl
@[simp] theorem updRed_timeKnown (f : Reduction → Reduction) (s : State) : (updRed f s).timeKnown = s.timeKnown := rfl
@[simp] theorem updRed_slew (f : Reduction → Reduction) (s : State) : (updRed f s).slew = s.slew := rfl
@[simp] theorem updRed_free (f : Reduction → Reduction) (s : State) : (updRed f s).free = s.free := rfl
@[simp] theorem updRed_mem (f : Reduction → Reduction) (s : State) : (updRed f s).mem = s.mem := rfl
@[simp] theorem updRed_power (f : Reduction → Reduction) (s : State) : (updRed f s).power = s.power := rfl
@[simp] theorem updRed_steep (f : Reduction → Reduction) (s : State) : (updRed f s).steep = s.steep := rfl
@[simp] theorem updRed_prog (f : Reduction → Reduction) (s : State) : (updRed f s).prog = s.prog := rfl
@[simp] theorem updRed_ad (f : Reduction → Reduction) (s : State) : (updRed f s).ad = s.ad := rfl
@[simp] theorem updRed_front (f : Reduction → Reduction) (s : State) : (updRed f s).front = s.front := rfl
@[simp] theorem updRed_hbm (f : Reduction → Reduction) (s : State) : (updRed f s).hbm = s.hbm := rfl
@[simp] theorem updRed_leaf (f : Reduction → Reduction) (s : State) : (updRed f s).leaf = s.leaf := rfl
@[simp] theorem updRed_fab (f : Reduction → Reduction) (s : State) : (updRed f s).fab = s.fab := rfl
@[simp] theorem updRed_cust (f : Reduction → Reduction) (s : State) : (updRed f s).cust = s.cust := rfl
@[simp] theorem updRed_dict (f : Reduction → Reduction) (s : State) : (updRed f s).dict = s.dict := rfl
@[simp] theorem updRed_obs (f : Reduction → Reduction) (s : State) : (updRed f s).obs = s.obs := rfl
@[simp] theorem updRed_boot (f : Reduction → Reduction) (s : State) : (updRed f s).boot = s.boot := rfl
@[simp] theorem updRed_out (f : Reduction → Reduction) (s : State) : (updRed f s).out = s.out := rfl

/-! ### setShard -/

@[simp] theorem setShard_pending (n : Nat) (x : Shard) (s : State) : (setShard n x s).pending = s.pending := rfl
@[simp] theorem setShard_clock (n : Nat) (x : Shard) (s : State) : (setShard n x s).clock = s.clock := rfl
@[simp] theorem setShard_time (n : Nat) (x : Shard) (s : State) : (setShard n x s).time = s.time := rfl
@[simp] theorem setShard_timeKnown (n : Nat) (x : Shard) (s : State) : (setShard n x s).timeKnown = s.timeKnown := rfl
@[simp] theorem setShard_slew (n : Nat) (x : Shard) (s : State) : (setShard n x s).slew = s.slew := rfl
@[simp] theorem setShard_free (n : Nat) (x : Shard) (s : State) : (setShard n x s).free = s.free := rfl
@[simp] theorem setShard_mem (n : Nat) (x : Shard) (s : State) : (setShard n x s).mem = s.mem := rfl
@[simp] theorem setShard_power (n : Nat) (x : Shard) (s : State) : (setShard n x s).power = s.power := rfl
@[simp] theorem setShard_steep (n : Nat) (x : Shard) (s : State) : (setShard n x s).steep = s.steep := rfl
@[simp] theorem setShard_prog (n : Nat) (x : Shard) (s : State) : (setShard n x s).prog = s.prog := rfl
@[simp] theorem setShard_ad (n : Nat) (x : Shard) (s : State) : (setShard n x s).ad = s.ad := rfl
@[simp] theorem setShard_front (n : Nat) (x : Shard) (s : State) : (setShard n x s).front = s.front := rfl
@[simp] theorem setShard_hbm (n : Nat) (x : Shard) (s : State) : (setShard n x s).hbm = s.hbm := rfl
@[simp] theorem setShard_leaf (n : Nat) (x : Shard) (s : State) : (setShard n x s).leaf = s.leaf := rfl
@[simp] theorem setShard_fab (n : Nat) (x : Shard) (s : State) : (setShard n x s).fab = s.fab := rfl
@[simp] theorem setShard_cust (n : Nat) (x : Shard) (s : State) : (setShard n x s).cust = s.cust := rfl
@[simp] theorem setShard_dict (n : Nat) (x : Shard) (s : State) : (setShard n x s).dict = s.dict := rfl
@[simp] theorem setShard_obs (n : Nat) (x : Shard) (s : State) : (setShard n x s).obs = s.obs := rfl
@[simp] theorem setShard_boot (n : Nat) (x : Shard) (s : State) : (setShard n x s).boot = s.boot := rfl
@[simp] theorem setShard_out (n : Nat) (x : Shard) (s : State) : (setShard n x s).out = s.out := rfl

/-! ### updMaster -/

@[simp] theorem updMaster_pending (f : Master → Master) (s : State) : (updMaster f s).pending = s.pending := rfl
@[simp] theorem updMaster_clock (f : Master → Master) (s : State) : (updMaster f s).clock = s.clock := rfl
@[simp] theorem updMaster_time (f : Master → Master) (s : State) : (updMaster f s).time = s.time := rfl
@[simp] theorem updMaster_timeKnown (f : Master → Master) (s : State) : (updMaster f s).timeKnown = s.timeKnown := rfl
@[simp] theorem updMaster_slew (f : Master → Master) (s : State) : (updMaster f s).slew = s.slew := rfl
@[simp] theorem updMaster_free (f : Master → Master) (s : State) : (updMaster f s).free = s.free := rfl
@[simp] theorem updMaster_mem (f : Master → Master) (s : State) : (updMaster f s).mem = s.mem := rfl
@[simp] theorem updMaster_power (f : Master → Master) (s : State) : (updMaster f s).power = s.power := rfl
@[simp] theorem updMaster_prog (f : Master → Master) (s : State) : (updMaster f s).prog = s.prog := rfl
@[simp] theorem updMaster_ad (f : Master → Master) (s : State) : (updMaster f s).ad = s.ad := rfl
@[simp] theorem updMaster_front (f : Master → Master) (s : State) : (updMaster f s).front = s.front := rfl
@[simp] theorem updMaster_red (f : Master → Master) (s : State) : (updMaster f s).red = s.red := rfl
@[simp] theorem updMaster_hbm (f : Master → Master) (s : State) : (updMaster f s).hbm = s.hbm := rfl
@[simp] theorem updMaster_leaf (f : Master → Master) (s : State) : (updMaster f s).leaf = s.leaf := rfl
@[simp] theorem updMaster_fab (f : Master → Master) (s : State) : (updMaster f s).fab = s.fab := rfl
@[simp] theorem updMaster_cust (f : Master → Master) (s : State) : (updMaster f s).cust = s.cust := rfl
@[simp] theorem updMaster_dict (f : Master → Master) (s : State) : (updMaster f s).dict = s.dict := rfl
@[simp] theorem updMaster_obs (f : Master → Master) (s : State) : (updMaster f s).obs = s.obs := rfl
@[simp] theorem updMaster_boot (f : Master → Master) (s : State) : (updMaster f s).boot = s.boot := rfl
@[simp] theorem updMaster_out (f : Master → Master) (s : State) : (updMaster f s).out = s.out := rfl

/-! ### setBlock -/

@[simp] theorem setBlock_pending (b : Nat) (r : BlockRec) (s : State) : (setBlock b r s).pending = s.pending := rfl
@[simp] theorem setBlock_clock (b : Nat) (r : BlockRec) (s : State) : (setBlock b r s).clock = s.clock := rfl
@[simp] theorem setBlock_time (b : Nat) (r : BlockRec) (s : State) : (setBlock b r s).time = s.time := rfl
@[simp] theorem setBlock_timeKnown (b : Nat) (r : BlockRec) (s : State) : (setBlock b r s).timeKnown = s.timeKnown := rfl
@[simp] theorem setBlock_slew (b : Nat) (r : BlockRec) (s : State) : (setBlock b r s).slew = s.slew := rfl
@[simp] theorem setBlock_free (b : Nat) (r : BlockRec) (s : State) : (setBlock b r s).free = s.free := rfl
@[simp] theorem setBlock_mem (b : Nat) (r : BlockRec) (s : State) : (setBlock b r s).mem = s.mem := rfl
@[simp] theorem setBlock_power (b : Nat) (r : BlockRec) (s : State) : (setBlock b r s).power = s.power := rfl
@[simp] theorem setBlock_steep (b : Nat) (r : BlockRec) (s : State) : (setBlock b r s).steep = s.steep := rfl
@[simp] theorem setBlock_prog (b : Nat) (r : BlockRec) (s : State) : (setBlock b r s).prog = s.prog := rfl
@[simp] theorem setBlock_ad (b : Nat) (r : BlockRec) (s : State) : (setBlock b r s).ad = s.ad := rfl
@[simp] theorem setBlock_front (b : Nat) (r : BlockRec) (s : State) : (setBlock b r s).front = s.front := rfl
@[simp] theorem setBlock_red (b : Nat) (r : BlockRec) (s : State) : (setBlock b r s).red = s.red := rfl
@[simp] theorem setBlock_leaf (b : Nat) (r : BlockRec) (s : State) : (setBlock b r s).leaf = s.leaf := rfl
@[simp] theorem setBlock_fab (b : Nat) (r : BlockRec) (s : State) : (setBlock b r s).fab = s.fab := rfl
@[simp] theorem setBlock_cust (b : Nat) (r : BlockRec) (s : State) : (setBlock b r s).cust = s.cust := rfl
@[simp] theorem setBlock_dict (b : Nat) (r : BlockRec) (s : State) : (setBlock b r s).dict = s.dict := rfl
@[simp] theorem setBlock_obs (b : Nat) (r : BlockRec) (s : State) : (setBlock b r s).obs = s.obs := rfl
@[simp] theorem setBlock_boot (b : Nat) (r : BlockRec) (s : State) : (setBlock b r s).boot = s.boot := rfl
@[simp] theorem setBlock_out (b : Nat) (r : BlockRec) (s : State) : (setBlock b r s).out = s.out := rfl

/-! ### setDiscovery -/

@[simp] theorem setDiscovery_pending (d : DiscoveryState) (s : State) : (setDiscovery d s).pending = s.pending := rfl
@[simp] theorem setDiscovery_clock (d : DiscoveryState) (s : State) : (setDiscovery d s).clock = s.clock := rfl
@[simp] theorem setDiscovery_time (d : DiscoveryState) (s : State) : (setDiscovery d s).time = s.time := rfl
@[simp] theorem setDiscovery_timeKnown (d : DiscoveryState) (s : State) : (setDiscovery d s).timeKnown = s.timeKnown := rfl
@[simp] theorem setDiscovery_slew (d : DiscoveryState) (s : State) : (setDiscovery d s).slew = s.slew := rfl
@[simp] theorem setDiscovery_free (d : DiscoveryState) (s : State) : (setDiscovery d s).free = s.free := rfl
@[simp] theorem setDiscovery_mem (d : DiscoveryState) (s : State) : (setDiscovery d s).mem = s.mem := rfl
@[simp] theorem setDiscovery_power (d : DiscoveryState) (s : State) : (setDiscovery d s).power = s.power := rfl
@[simp] theorem setDiscovery_steep (d : DiscoveryState) (s : State) : (setDiscovery d s).steep = s.steep := rfl
@[simp] theorem setDiscovery_prog (d : DiscoveryState) (s : State) : (setDiscovery d s).prog = s.prog := rfl
@[simp] theorem setDiscovery_ad (d : DiscoveryState) (s : State) : (setDiscovery d s).ad = s.ad := rfl
@[simp] theorem setDiscovery_front (d : DiscoveryState) (s : State) : (setDiscovery d s).front = s.front := rfl
@[simp] theorem setDiscovery_red (d : DiscoveryState) (s : State) : (setDiscovery d s).red = s.red := rfl
@[simp] theorem setDiscovery_hbm (d : DiscoveryState) (s : State) : (setDiscovery d s).hbm = s.hbm := rfl
@[simp] theorem setDiscovery_leaf (d : DiscoveryState) (s : State) : (setDiscovery d s).leaf = s.leaf := rfl
@[simp] theorem setDiscovery_cust (d : DiscoveryState) (s : State) : (setDiscovery d s).cust = s.cust := rfl
@[simp] theorem setDiscovery_dict (d : DiscoveryState) (s : State) : (setDiscovery d s).dict = s.dict := rfl
@[simp] theorem setDiscovery_obs (d : DiscoveryState) (s : State) : (setDiscovery d s).obs = s.obs := rfl
@[simp] theorem setDiscovery_boot (d : DiscoveryState) (s : State) : (setDiscovery d s).boot = s.boot := rfl
@[simp] theorem setDiscovery_out (d : DiscoveryState) (s : State) : (setDiscovery d s).out = s.out := rfl

/-! ### failStep -/

@[simp] theorem failStep_pending (b : Nat) (s : State) : (failStep b s).pending = s.pending := rfl
@[simp] theorem failStep_clock (b : Nat) (s : State) : (failStep b s).clock = s.clock := rfl
@[simp] theorem failStep_time (b : Nat) (s : State) : (failStep b s).time = s.time := rfl
@[simp] theorem failStep_timeKnown (b : Nat) (s : State) : (failStep b s).timeKnown = s.timeKnown := rfl
@[simp] theorem failStep_slew (b : Nat) (s : State) : (failStep b s).slew = s.slew := rfl
@[simp] theorem failStep_free (b : Nat) (s : State) : (failStep b s).free = s.free := rfl
@[simp] theorem failStep_mem (b : Nat) (s : State) : (failStep b s).mem = s.mem := rfl
@[simp] theorem failStep_power (b : Nat) (s : State) : (failStep b s).power = s.power := rfl
@[simp] theorem failStep_prog (b : Nat) (s : State) : (failStep b s).prog = s.prog := rfl
@[simp] theorem failStep_ad (b : Nat) (s : State) : (failStep b s).ad = s.ad := rfl
@[simp] theorem failStep_front (b : Nat) (s : State) : (failStep b s).front = s.front := rfl
@[simp] theorem failStep_red (b : Nat) (s : State) : (failStep b s).red = s.red := rfl
@[simp] theorem failStep_hbm (b : Nat) (s : State) : (failStep b s).hbm = s.hbm := rfl
@[simp] theorem failStep_leaf (b : Nat) (s : State) : (failStep b s).leaf = s.leaf := rfl
@[simp] theorem failStep_fab (b : Nat) (s : State) : (failStep b s).fab = s.fab := rfl
@[simp] theorem failStep_cust (b : Nat) (s : State) : (failStep b s).cust = s.cust := rfl
@[simp] theorem failStep_dict (b : Nat) (s : State) : (failStep b s).dict = s.dict := rfl
@[simp] theorem failStep_obs (b : Nat) (s : State) : (failStep b s).obs = s.obs := rfl
@[simp] theorem failStep_boot (b : Nat) (s : State) : (failStep b s).boot = s.boot := rfl
@[simp] theorem failStep_out (b : Nat) (s : State) : (failStep b s).out = s.out := rfl

/-! ### faultRecord -/

@[simp] theorem faultRecord_pending (cls cause blk v : Nat) (s : State) : (faultRecord cls cause blk v s).pending = s.pending := by
  unfold faultRecord; dsimp only
@[simp] theorem faultRecord_clock (cls cause blk v : Nat) (s : State) : (faultRecord cls cause blk v s).clock = s.clock := by
  unfold faultRecord; dsimp only
@[simp] theorem faultRecord_time (cls cause blk v : Nat) (s : State) : (faultRecord cls cause blk v s).time = s.time := by
  unfold faultRecord; dsimp only
@[simp] theorem faultRecord_timeKnown (cls cause blk v : Nat) (s : State) : (faultRecord cls cause blk v s).timeKnown = s.timeKnown := by
  unfold faultRecord; dsimp only
@[simp] theorem faultRecord_slew (cls cause blk v : Nat) (s : State) : (faultRecord cls cause blk v s).slew = s.slew := by
  unfold faultRecord; dsimp only
@[simp] theorem faultRecord_free (cls cause blk v : Nat) (s : State) : (faultRecord cls cause blk v s).free = s.free := by
  unfold faultRecord; dsimp only
@[simp] theorem faultRecord_mem (cls cause blk v : Nat) (s : State) : (faultRecord cls cause blk v s).mem = s.mem := by
  unfold faultRecord; dsimp only
@[simp] theorem faultRecord_power (cls cause blk v : Nat) (s : State) : (faultRecord cls cause blk v s).power = s.power := by
  unfold faultRecord; dsimp only
@[simp] theorem faultRecord_steep (cls cause blk v : Nat) (s : State) : (faultRecord cls cause blk v s).steep = s.steep := by
  unfold faultRecord; dsimp only
@[simp] theorem faultRecord_prog (cls cause blk v : Nat) (s : State) : (faultRecord cls cause blk v s).prog = s.prog := by
  unfold faultRecord; dsimp only
@[simp] theorem faultRecord_ad (cls cause blk v : Nat) (s : State) : (faultRecord cls cause blk v s).ad = s.ad := by
  unfold faultRecord; dsimp only
@[simp] theorem faultRecord_front (cls cause blk v : Nat) (s : State) : (faultRecord cls cause blk v s).front = s.front := by
  unfold faultRecord; dsimp only
@[simp] theorem faultRecord_red (cls cause blk v : Nat) (s : State) : (faultRecord cls cause blk v s).red = s.red := by
  unfold faultRecord; dsimp only
@[simp] theorem faultRecord_hbm (cls cause blk v : Nat) (s : State) : (faultRecord cls cause blk v s).hbm = s.hbm := by
  unfold faultRecord; dsimp only
@[simp] theorem faultRecord_leaf (cls cause blk v : Nat) (s : State) : (faultRecord cls cause blk v s).leaf = s.leaf := by
  unfold faultRecord; dsimp only
@[simp] theorem faultRecord_fab (cls cause blk v : Nat) (s : State) : (faultRecord cls cause blk v s).fab = s.fab := by
  unfold faultRecord; dsimp only
@[simp] theorem faultRecord_cust (cls cause blk v : Nat) (s : State) : (faultRecord cls cause blk v s).cust = s.cust := by
  unfold faultRecord; dsimp only
@[simp] theorem faultRecord_dict (cls cause blk v : Nat) (s : State) : (faultRecord cls cause blk v s).dict = s.dict := by
  unfold faultRecord; dsimp only
@[simp] theorem faultRecord_obs (cls cause blk v : Nat) (s : State) : (faultRecord cls cause blk v s).obs = s.obs := by
  unfold faultRecord; dsimp only
@[simp] theorem faultRecord_out (cls cause blk v : Nat) (s : State) : (faultRecord cls cause blk v s).out = s.out := by
  unfold faultRecord; dsimp only

/-! ### What they write -/

@[simp] theorem emit_out (o : Out) (s : State) : (emit o s).out = s.out ++ [o] := rfl
@[simp] theorem send_out (d : Dest) (p : Packet) (s : State) : (send d p s).out = s.out ++ [.packet d p] := rfl
@[simp] theorem elapse_clock (n : Nat) (s : State) : (elapse n s).clock = s.clock + n := rfl
@[simp] theorem elapse_time (n : Nat) (s : State) :
    (elapse n s).time = s.time + BitVec.ofNat 64 (n + slewIn n s.slew).toNat := rfl
theorem untilTime_time (t : BitVec 64) (s : State) : (untilTime t s).time = s.time + BitVec.ofNat 64 (ahead t s.time) := rfl
@[simp] theorem fresh_free (w : Nat) (s : State) : (fresh w s).2.free = s.free + 1 := rfl
@[simp] theorem fresh_value (w : Nat) (s : State) : (fresh w s).1 = Config.freeValue s.free w := rfl
@[simp] theorem updBoot_boot (f : Startup → Startup) (s : State) : (updBoot f s).boot = f s.boot := rfl
@[simp] theorem updLeaf_leaf (f : Leaf → Leaf) (s : State) : (updLeaf f s).leaf = f s.leaf := rfl
@[simp] theorem updCust_cust (f : Custody → Custody) (s : State) : (updCust f s).cust = f s.cust := rfl
@[simp] theorem updDict_dict (f : Dictionary → Dictionary) (s : State) : (updDict f s).dict = f s.dict := rfl
@[simp] theorem updAd_ad (f : Adapters → Adapters) (s : State) : (updAd f s).ad = f s.ad := rfl
@[simp] theorem updFront_front (f : Front → Front) (s : State) : (updFront f s).front = f s.front := rfl
@[simp] theorem updRed_red (f : Reduction → Reduction) (s : State) : (updRed f s).red = f s.red := rfl
@[simp] theorem updMaster_steep (f : Master → Master) (s : State) :
    (updMaster f s).steep = { s.steep with master := f s.steep.master } := rfl

/-- Time that a command waits for: it never runs back. -/
theorem elapse_clock_le (n : Nat) (s : State) : s.clock ≤ (elapse n s).clock := Nat.le_add_right _ _

theorem untilClock_clock (c : Nat) (s : State) : (untilClock c s).clock = max s.clock c := by
  simp only [untilClock, elapse_clock]; omega

/-! ### Trace records and numeric events: what they can change -/

@[simp] theorem trace_pending (ty b p : Nat) (d : BitVec 128) (s : State) : (trace ty b p d s).pending = s.pending := by
  unfold trace
  split
  · dsimp only; split <;> rfl
  · rfl
@[simp] theorem trace_clock (ty b p : Nat) (d : BitVec 128) (s : State) : (trace ty b p d s).clock = s.clock := by
  unfold trace
  split
  · dsimp only; split <;> rfl
  · rfl
@[simp] theorem trace_time (ty b p : Nat) (d : BitVec 128) (s : State) : (trace ty b p d s).time = s.time := by
  unfold trace
  split
  · dsimp only; split <;> rfl
  · rfl
@[simp] theorem trace_timeKnown (ty b p : Nat) (d : BitVec 128) (s : State) : (trace ty b p d s).timeKnown = s.timeKnown := by
  unfold trace
  split
  · dsimp only; split <;> rfl
  · rfl
@[simp] theorem trace_slew (ty b p : Nat) (d : BitVec 128) (s : State) : (trace ty b p d s).slew = s.slew := by
  unfold trace
  split
  · dsimp only; split <;> rfl
  · rfl
@[simp] theorem trace_free (ty b p : Nat) (d : BitVec 128) (s : State) : (trace ty b p d s).free = s.free := by
  unfold trace
  split
  · dsimp only; split <;> rfl
  · rfl
@[simp] theorem trace_mem (ty b p : Nat) (d : BitVec 128) (s : State) : (trace ty b p d s).mem = s.mem := by
  unfold trace
  split
  · dsimp only; split <;> rfl
  · rfl
@[simp] theorem trace_power (ty b p : Nat) (d : BitVec 128) (s : State) : (trace ty b p d s).power = s.power := by
  unfold trace
  split
  · dsimp only; split <;> rfl
  · rfl
@[simp] theorem trace_prog (ty b p : Nat) (d : BitVec 128) (s : State) : (trace ty b p d s).prog = s.prog := by
  unfold trace
  split
  · dsimp only; split <;> rfl
  · rfl
@[simp] theorem trace_ad (ty b p : Nat) (d : BitVec 128) (s : State) : (trace ty b p d s).ad = s.ad := by
  unfold trace
  split
  · dsimp only; split <;> rfl
  · rfl
@[simp] theorem trace_front (ty b p : Nat) (d : BitVec 128) (s : State) : (trace ty b p d s).front = s.front := by
  unfold trace
  split
  · dsimp only; split <;> rfl
  · rfl
@[simp] theorem trace_red (ty b p : Nat) (d : BitVec 128) (s : State) : (trace ty b p d s).red = s.red := by
  unfold trace
  split
  · dsimp only; split <;> rfl
  · rfl
@[simp] theorem trace_hbm (ty b p : Nat) (d : BitVec 128) (s : State) : (trace ty b p d s).hbm = s.hbm := by
  unfold trace
  split
  · dsimp only; split <;> rfl
  · rfl
@[simp] theorem trace_leaf (ty b p : Nat) (d : BitVec 128) (s : State) : (trace ty b p d s).leaf = s.leaf := by
  unfold trace
  split
  · dsimp only; split <;> rfl
  · rfl
@[simp] theorem trace_fab (ty b p : Nat) (d : BitVec 128) (s : State) : (trace ty b p d s).fab = s.fab := by
  unfold trace
  split
  · dsimp only; split <;> rfl
  · rfl
@[simp] theorem trace_cust (ty b p : Nat) (d : BitVec 128) (s : State) : (trace ty b p d s).cust = s.cust := by
  unfold trace
  split
  · dsimp only; split <;> rfl
  · rfl
@[simp] theorem trace_dict (ty b p : Nat) (d : BitVec 128) (s : State) : (trace ty b p d s).dict = s.dict := by
  unfold trace
  split
  · dsimp only; split <;> rfl
  · rfl
@[simp] theorem trace_boot (ty b p : Nat) (d : BitVec 128) (s : State) : (trace ty b p d s).boot = s.boot := by
  unfold trace
  split
  · dsimp only; split <;> rfl
  · rfl
@[simp] theorem trace_out (ty b p : Nat) (d : BitVec 128) (s : State) : (trace ty b p d s).out = s.out := by
  unfold trace
  split
  · dsimp only; split <;> rfl
  · rfl

@[simp] theorem numericEvent_pending (c b u o p : Nat) (a : BitVec 24) (s : State) :
    (numericEvent c b u o p a s).pending = s.pending := by
  unfold numericEvent; dsimp only; split <;> simp
@[simp] theorem numericEvent_clock (c b u o p : Nat) (a : BitVec 24) (s : State) :
    (numericEvent c b u o p a s).clock = s.clock := by
  unfold numericEvent; dsimp only; split <;> simp
@[simp] theorem numericEvent_time (c b u o p : Nat) (a : BitVec 24) (s : State) :
    (numericEvent c b u o p a s).time = s.time := by
  unfold numericEvent; dsimp only; split <;> simp
@[simp] theorem numericEvent_timeKnown (c b u o p : Nat) (a : BitVec 24) (s : State) :
    (numericEvent c b u o p a s).timeKnown = s.timeKnown := by
  unfold numericEvent; dsimp only; split <;> simp
@[simp] theorem numericEvent_slew (c b u o p : Nat) (a : BitVec 24) (s : State) :
    (numericEvent c b u o p a s).slew = s.slew := by
  unfold numericEvent; dsimp only; split <;> simp
@[simp] theorem numericEvent_free (c b u o p : Nat) (a : BitVec 24) (s : State) :
    (numericEvent c b u o p a s).free = s.free := by
  unfold numericEvent; dsimp only; split <;> simp
@[simp] theorem numericEvent_mem (c b u o p : Nat) (a : BitVec 24) (s : State) :
    (numericEvent c b u o p a s).mem = s.mem := by
  unfold numericEvent; dsimp only; split <;> simp
@[simp] theorem numericEvent_power (c b u o p : Nat) (a : BitVec 24) (s : State) :
    (numericEvent c b u o p a s).power = s.power := by
  unfold numericEvent; dsimp only; split <;> simp
@[simp] theorem numericEvent_prog (c b u o p : Nat) (a : BitVec 24) (s : State) :
    (numericEvent c b u o p a s).prog = s.prog := by
  unfold numericEvent; dsimp only; split <;> simp
@[simp] theorem numericEvent_ad (c b u o p : Nat) (a : BitVec 24) (s : State) :
    (numericEvent c b u o p a s).ad = s.ad := by
  unfold numericEvent; dsimp only; split <;> simp
@[simp] theorem numericEvent_front (c b u o p : Nat) (a : BitVec 24) (s : State) :
    (numericEvent c b u o p a s).front = s.front := by
  unfold numericEvent; dsimp only; split <;> simp
@[simp] theorem numericEvent_red (c b u o p : Nat) (a : BitVec 24) (s : State) :
    (numericEvent c b u o p a s).red = s.red := by
  unfold numericEvent; dsimp only; split <;> simp
@[simp] theorem numericEvent_hbm (c b u o p : Nat) (a : BitVec 24) (s : State) :
    (numericEvent c b u o p a s).hbm = s.hbm := by
  unfold numericEvent; dsimp only; split <;> simp
@[simp] theorem numericEvent_leaf (c b u o p : Nat) (a : BitVec 24) (s : State) :
    (numericEvent c b u o p a s).leaf = s.leaf := by
  unfold numericEvent; dsimp only; split <;> simp
@[simp] theorem numericEvent_fab (c b u o p : Nat) (a : BitVec 24) (s : State) :
    (numericEvent c b u o p a s).fab = s.fab := by
  unfold numericEvent; dsimp only; split <;> simp
@[simp] theorem numericEvent_cust (c b u o p : Nat) (a : BitVec 24) (s : State) :
    (numericEvent c b u o p a s).cust = s.cust := by
  unfold numericEvent; dsimp only; split <;> simp
@[simp] theorem numericEvent_dict (c b u o p : Nat) (a : BitVec 24) (s : State) :
    (numericEvent c b u o p a s).dict = s.dict := by
  unfold numericEvent; dsimp only; split <;> simp
@[simp] theorem numericEvent_boot (c b u o p : Nat) (a : BitVec 24) (s : State) :
    (numericEvent c b u o p a s).boot = s.boot := by
  unfold numericEvent; dsimp only; split <;> simp
@[simp] theorem numericEvent_out (c b u o p : Nat) (a : BitVec 24) (s : State) :
    (numericEvent c b u o p a s).out = s.out := by
  unfold numericEvent; dsimp only; split <;> simp

end Sys2Proof.Machine
end

