-- ==== Sys2Proof/WellFormed.lean ====
section
/-! DEFINITION. Which operands a command may carry where their Lean types admit more than the block's interfaces do: stack
numbers 0 to 11 (spec/10), banks 0 to 47 (spec/10 R292), ports 0 to 15 (spec/12), payloads of at most 4,160 bytes (spec/12
Table FB-5), segments of 64 MiB (spec/11), counter blocks 0x00 to 0xB0 and 10-bit events (spec/16), and the ranges of the
entries that a command writes. The commands' meanings are total: they need no check made here. -/

namespace Sys2Proof

/-- The operands of a command lie in the ranges that the spec gives them. -/
def WellFormed : Instr → Bool
  | .steepBoundary | .guardStart | .wavePoint | .contribution _ | .gatherDeadline | .backupWaveFlood
  | .wave _ _ | .waveDeadline | .timeSync | .timeSyncReceive _ _ _ _ | .listenNoWaveRecord | .listenTimeout
  | .founding | .snapshotRequest _ => true
  | .tableDigest _ _ table => table.length ≤ 1024
  | .powerSample _ groups => groups.length ≤ 10
  | .programFetch _ | .programFetchDone _ _ | .opDispatch _ _ | .mmaLoad _ _ | .mmaRun _ _ | .rankRun _ _
  | .epiSet0 _ _ | .epiSet1 _ _ | .epiSet2 _ _ | .pour _ _ | .pourRecompute _ | .pourComplete _ | .vecEw _ _
  | .vecCvt _ _ | .vecRow _ _ | .redAdd _ _ | .redMax _ _ | .redUpd _ _ | .redZero _ _ | .dma _ _ _
  | .fabPut _ _ _ | .fabGet _ _ | .fabColl _ _ | .syncWait _ _ | .syncSend _ _ | .syncTime _ _ | .mark _ _
  | .halt _ _ | .opComplete _ _ | .token _ _ _ _ _ _ | .gather _ _ | .mask _ | .append _ | .block _
  | .trans _ | .admissionSort | .caddyPrefetchList => true
  | .caddyFill _ _ addr _ => addr.toNat % 4096 = 0
  | .inputCopy _ _ _ | .kvCopyOnWrite _ _ | .tablePublish | .infuserPrefill _ | .infuserSlice _ _ _ _
  | .outputCopy _ _ | .completionWrite _ | .doorbell _ _ _ _ | .commandFetch _ | .submit | .queueCreate
  | .queueDelete | .bind | .bindEffect _ | .adapterCreate _ | .adapterRead | .adapterState
  | .adapterStateEffect _ | .adapterDestroy | .adapterDestroyFree _ | .adapterClaim
  | .slotClaimPacket _ _ _ _ _ _ _ _ _ | .adapterRelease | .kvOpen _ | .kvFork | .kvClose | .kvCloseFree _ _
  | .kvRead | .keyImport _ | .keyImportEffect _ | .keyRemove | .keyRemoveEffect _ | .keySweep
  | .sweepBlock _ | .rotationCutover _ | .scrubBlock _ | .scrubComplete _ | .trialLoad _ | .trialLoadDone _
  | .trialRelease | .trialReleaseEffect | .functionEnable _ | .functionDisable _ | .ctrlReset _
  | .partitionResetCmd _ | .flr _ | .vfEnableClear | .partitionResetEffect _ | .logControl _ _ | .logSwap _
  | .logBoundary | .lockInterface _ | .stopInterface _ | .interfaceReport _ => true
  | .doeCustodyExchange _ message => message.length = 32 || 1088 ≤ message.length
  | .tlpReceive _ _ _ | .rollCall _ _ _ => true
  | .contributionUnit _ payload => payload.length ≤ 4160
  | .acknowledgement _ _ _ | .shardCutoff _ | .stragglerNotice _ _ _ | .shardUpdate _ _ => true
  | .keeperCopy _ _ _ _ _ ciphertext _ => ciphertext.length ≤ 4096
  | .keeperAck _ | .commitApply | .abortApply | .pushUnit _ _ _ _ _ _ _ _ _ | .restoreRequest _ _ _
  | .patrolRead _ _ => true
  | .temperatureRead stack _ => stack.toNat < 12
  | .rowRepair stack _ bank _ => stack.toNat < 12 && bank.toNat < 48
  | .pcFill stack => stack.toNat < 12
  | .fillComplete stack => stack.toNat < 12
  | .fillFailure stack => stack.toNat < 12
  | .logicalPcLost stack => stack.toNat < 12
  | .installBegin _ | .installAbort | .manifest _ => true
  | .segmentData _ (.packet bytes) => bytes.length = 2 ^ 26
  | .segmentData _ _ => true
  | .segmentProgrammed _ readback => readback.bytes.length = 2 ^ 26
  | .installCredit | .installTimeout | .breakNotice _ => true
  | .leafPatrol _ _ data => data.bytes.length = 2 ^ 26
  | .halfRelease | .downExit _ _ | .fecLock _ _ | .trainingTimeout _ | .linkSessionExchange _ _ _ _ _
  | .keyingTimeout _ _ | .hello _ _ _ _ | .helloResend _ | .linkDegrade _ _ _ _ => true
  | .portReset port => port.toNat < 16
  | .linkFrame _ _ _ payload _ _ => payload.length ≤ 4160
  | .replayTimeout _ | .rekey _ _ _ | .creditFrame _ | .packetRoute _ _ => true
  | .fabWriteArrival _ _ unit _ _ _ _ _ _ => unit.length ≤ 4160
  | .fabReadRequest _ _ _ _ _ _ _ _ _ => true
  | .readData _ _ _ _ unit => unit.length ≤ 4160
  | .collectiveData _ _ _ _ _ unit => unit.length ≤ 4160
  | .discoveryStart | .linksDone | .linksTimeout | .linkStateRecord _ _ _ _ _ _ | .floodQuiet
  | .routeCompute | .linkStateRefresh | .takeoverOrder _ _ _ _ | .restoreData _ _ _ _ _
  | .standInReady _ _ _ _ | .readyTimeout => true
  | .takeoverEffect moves _ => !moves.isEmpty
  | .takeoverBoundary => true
  | .plannedReturn value => value.toNat / 1024 % 64 = 0
  | .cmisPoll _ _ _ => true
  | .cmisInterrupt alarms => alarms.length ≤ 16
  | .housekeepingRail | .measureComplete _ _ _ _ | .custodyFault _ | .custodyRequestTimeout
  | .attestationRequest _ _ => true
  | .eventLogRead index => index.toNat < 4096
  | .sealBreakArm => true
  | .sealBreak path => path.toNat ≤ 2
  | .mgmtDatagram _ _ _ _ _ ipBytes frame => frame.length ≤ ipBytes
  | .neighborSolicitation _ _ | .echoRequest _ _ _ | .mailboxGo _ | .xchg | .close | .read | .write
  | .describe | .sessionIdleTimeout _ | .exchangeTimeout _ => true
  | .registerWrite target value => !value.isEmpty && (!target.getLsbD 31 || value.length = 4 || value.length = 8)
  | .managerKeyListWrite _ sub value => 1 ≤ sub.toNat && sub.toNat ≤ 8 && value.toNat < 2 ^ 258
  | .check _ | .checkDone | .commit _ _ | .commitSwap | .discard _ | .stagingLock _ _ | .stagingLockTimeout => true
  | .counterSelect block _ event => block.toNat ≤ 0xB0 && event.toNat < 1024
  | .counterClear block => block.toNat ≤ 0xB0
  | .counterBoundary | .histogramClear | .eventCountClear | .snapshotFreeze | .snapshotGatherDone
  | .traceWrite | .mainInputGood | .stageAdvance _ | .stageTimeout _ | .moduleReset | .maintenanceReset
  | .resetPin | .perst | .environmentViolation _ _ => true
  | .faultLogRead index => index.toNat < 64
  | .housekeepingRailLoss | .resetPinRelease | .vfEnableSet | .startInterface _
  | .vfBarOrMemorySpaceChange _ => true
  | .managementLinkChange link => link.toNat ≤ 2
  | .pcieLinkChange rate width => rate ≤ 64 && width ≤ 16
  | .forwardedResponse _ | .standInRestoreRequest _ _ _ => true

end Sys2Proof
end

