-- ==== Sys2Proof/Tests/Slice0.lean ====
section
/-! SUPPORT. Tests on small states, ill-formed commands that the check refuses, and for every statement states and operands
that meet its hypotheses. -/

set_option Elab.async false

namespace Sys2Proof.Machine

open Host (Outcome)

/-! ### Small states -/

/-- LDN 0 to 2 mapped to sites 0 to 2 of board 0 of group 0. -/
def ldnTable : Sparse Nat := [(0x710001, 0x00), (0x710002, 0x20), (0x710003, 0x40)]

/-- A Locked module at SNA `sna` in steep 6 (the first of a step), 5 µs after its boundary. -/
def lockedAt (sna : BitVec 16) : State :=
  { clock := 3010000, time := 3010000, timeKnown := true, fab := { sna := sna, discovery := .complete },
    dict := { active := ldnTable, shadow := ldnTable },
    steep := { engine := .locked, k := 6, b := 3000000, len := 250, lenNext := 250 } }

/-- A wave of the present steep, of a rank. -/
def waveOf (rank : Nat) (good : Bool) : BitVec 512 :=
  wavePacket { rank := rank, steep := 6, bk2 := 4000000, lk2 := 250, good := good, commit := 0, rep := 0, snap := false,
               snapId := 0, step := 1, sidx := 0, maxLdn := 2, missing := 0 }

/-- An op word from its fields `(lowest bit, width, value)`. -/
def opOf (l : List (Nat × Nat × Nat)) : BitVec 128 := l.foldl (fun w f => setFld w f.1 f.2.1 f.2.2) 0

/-- A program image of no ops. -/
def image0 : Image := { header := 0, credits := [], sendMap := [], consts := [], ops0 := [], ops1 := [] }

/-- A Locked module whose core 0 is `k`, with an image. -/
def coreWith (k : Core) : State :=
  { lockedAt 0x40 with prog := { cores := [(0, { k with image := some image0 })] } }

/-- An op of stream 0, dispatched at clock 0. -/
def qop (w : BitVec 128) : QOp := { word := w, index := 0, stream := false, dispatched := 0 }

/-- Core 0 as `k`, with one op in its unit's queue. -/
def queued (w : BitVec 128) (k : Core) : State := coreWith { k with queues := [(opUnit (oOp w), [qop w])] }

/-- A loaded FP8 tile of zeros without side data. -/
def tile0 : WeightTile := { wfmt := 3, scl := false, t := false, codes := [], side := [] }

/-- A pour of EPI slot 0. -/
def pour0 : Pour :=
  { op := qop (opOf [(0, 8, 0x40), (38, 10, 16)]), slot := {}, left := [], pieces := [], loadFrom := 0, rowFrom := 0,
    bank := false, out := [], endAt := 0, raised := [], saturated := 0, recomputed := false, clamped := false }

/-- A Dictionary value in the active set. -/
def withCfg (i sub v : Nat) (s : State) : State :=
  { s with dict := { s.dict with active := sput 0 (256 * i + sub) v s.dict.active } }

/-- Words of a core's tile memory. -/
def withMem (m : Mem) (s : State) : State := { s with mem := m }

/-- A host command word of an opcode from its fields `(lowest bit, width, value)`. -/
def cmdOfs (op : Nat) (l : List (Nat × Nat × Nat)) : BitVec 512 := l.foldl (fun w f => setFld w f.1 f.2.1 f.2.2) (BitVec.ofNat 512 op)

/-- An accepted command of partition `p`, on queue 1. -/
def cmdFor (p : BitVec 6) (w : BitVec 512) : Cmd :=
  { id := 7, queue := 1, part := p, word := w, stamp := 0, pgen := 0, sqhead := 0, at_ := 0, taken := false }

/-- A state whose one accepted command is `c`. -/
def withCmd (c : Cmd) (s : State) : State := { s with front := { s.front with cmds := [c] } }

/-- An accepted command of partition 0 on a Locked module. -/
def cmdState (w : BitVec 512) : State := withCmd (cmdFor 0 w) (lockedAt 0x40)

theorem pairOf {α β : Type} {p : α × β} {a : α} (h : p.1 = a) : p = (a, p.2) := by cases p; cases h; rfl
theorem pairOf2 {α β γ : Type} {p : (α × β) × γ} {a : α} (h : p.1.1 = a) : p = ((a, p.1.2), p.2) := by
  rcases p with ⟨⟨x, y⟩, z⟩; cases h; rfl
theorem allOf {α : Type} {l : List α} {p : α → Prop} [DecidablePred p] (h : (l.all fun x => decide (p x)) = true) :
    ∀ x ∈ l, p x := by simpa using h
theorem noShards {u : State} {P : Nat → Shard → Prop} (h : u.red.shards = []) : ∀ i x, shardOf u i = some x → P i x := by
  intro i x hx; simp [shardOf, h, sget] at hx

/-- Core 0 as an op of a word starts, with bytes of its tile memory. -/
def queuedMem (w : BitVec 128) (m : Mem) : State := withMem m (queued w {})

/-- A strain command of an SOP on core 0. -/
def strainOn (w : BitVec 256) : State := coreWith { strain := [w] }

/-- A range within block 0 of untouched filled memory verifies. -/
theorem verifyFirst (env : ReadEnv) (n : Nat) (s : State) (hn : n ≠ 0) (h : (n - 1) / 4096 = 0) (hm : s.mem = [])
    (hr : blockOf s 0 = { v := true }) (he : env.mismatch = []) (ha : noAccess s 0 = false) :
    (verifyRange env 0 n s).1 = false := by
  have h0 := verifyBlock_untouched env 0 s hm hr he ha
  simp [verifyRange, hn, h, List.range_succ, h0]
theorem pairSome {α β : Type} {p : Option α × β} (h : p.1.isSome = true) : p = (some (p.1.get h), p.2) := by
  rcases p with ⟨_ | x, y⟩
  · cases h
  · rfl

/-- A request of partition 0 on queue 1, under key slot 0 of generation 1. -/
def request0 : Request :=
  { cmd := 7, queue := 1, tag := 0, part := 0, grp := 0, stamp := 0, adid := 0, slot := 0, gen := 1, rows := 1, job := 1,
    mkind := 0, seq := 0, win := 0, first := 0, input := 0, len := 0, result := 0, resBytes := 0 }

/-- A request on a Locked module whose key slot 0 holds a key. -/
def requestState (r : Request) : State :=
  { lockedAt 0x40 with ad := { requests := [r] }, cust := { slots := [(0, { cur := some 0 })] },
                       front := { cmds := [cmdFor 0 0] } }

/-- A module with partition 0 as `p` and queue 1 as `q`. -/
def frontState (p : Partition) (q : Queue) : State :=
  { lockedAt 0x40 with front := { parts := sput {} 0 p [], queues := sput {} 1 q [] }, boot := { pcieWidth := 16 } }

/-- Partition 0 as `p`. -/
def partState (p : Partition) : State := frontState p {}

/-- Function 1 exists, as `p`. -/
def vfState (p : Partition) : State :=
  { lockedAt 0x40 with front := { parts := sput {} 1 p [] }, boot := { vfEnable := true }, cust := { state := .ready } }

/-- A low-rank adapter 5, descriptor 1, with its matrix map at 0x2000. -/
def desc1 : BitVec 1024 := setFld (setFld (0 : BitVec 1024) 0 24 5) 320 48 0x2000

/-- A RANK.RUN of 16 rows in slot 0 whose one segment names adapter 5. -/
def infusing : State :=
  { lockedAt 0x40 with
    mem := [(0x1002, 63), (0x2000, 1)],
    prog := { cores := [(0, { image := some { image0 with header := setFld 0 192 8 1, ops0 := [opOf [(0, 8, 0x20), (82, 10, 16)]] },
                              binding := { slotMap := 0x1000 } })] },
    ad := { descs := [(1, desc1)],
            tables := [(0, some { steep := 6, step := 1, gen := 0, cap := 16, used := 1,
                                  segs := [{ didx := 1, adid := 5, row0 := 0, nrows := 16, kinds := 1 }], rows := [] })] } }

/-- Host memory that holds bytes from an address upwards. -/
def hostOf (a : Nat) (bs : List Byte) : HostMem := (List.range bs.length).map fun i => (a + i, bs.getD i 0)

theorem mapM_some {α β : Type} (f : α → Option β) (g : α → β) (l : List α) (h : ∀ x ∈ l, f x = some (g x)) :
    l.mapM f = some (l.map g) := by
  induction l with
  | nil => rfl
  | cons x l ih =>
    have h1 := h x (by simp)
    have h2 := ih fun y hy => h y (by simp [hy])
    simp [List.mapM_cons, h1, h2]

theorem find_key (f : Nat → Byte) (a n i : Nat) (hi : i < n) :
    (((List.range n).map fun j => (a + j, f j)).find? fun c => decide (c.1 = a + i)) = some (a + i, f i) := by
  induction n with
  | zero => omega
  | succ n ih =>
    rw [List.range_succ, List.map_append, List.find?_append]
    by_cases h : i < n
    · rw [ih h]; rfl
    · have hn : i = n := by omega
      subst hn
      rw [List.find?_eq_none.mpr]
      · simp
      · intro x hx
        simp only [List.mem_map, List.mem_range] at hx
        obtain ⟨j, hj, rfl⟩ := hx
        simp; omega

/-- The host reads back what it holds. -/
theorem hostRead_hostOf {a b n : Nat} {bs : List Byte} (hb : b = a) (hn : bs.length = n) :
    hostRead (hostOf a bs) b n = some bs := by
  subst hn hb
  unfold hostRead hostOf
  rw [mapM_some _ (fun i => bs.getD i 0)]
  · congr 1
    apply List.ext_getElem
    · simp
    · intro i h1 h2
      simp [h2]
  · intro i hi
    rw [find_key (fun j => bs.getD j 0) b bs.length i (List.mem_range.mp hi)]
    rfl

/-- Adapter 5 as a tenant creates it: low rank, key generation 1, base generation 3. -/
def image5 : BitVec 1024 := setFld (setFld (setFld (setFld (0 : BitVec 1024) 0 24 5) 28 1 1) 80 16 1) 96 16 3

/-- A Locked module with descriptor 1 as `d`, and an accepted command of partition 0. -/
def adState (d : BitVec 1024) (w : BitVec 512) : State := { cmdState w with ad := { descs := [(1, d)] } }

/-- Key slot 0 as `k`, and an accepted command of partition 0. -/
def keyState (k : KeySlot) (w : BitVec 512) : State := { cmdState w with cust := { slots := sput {} 0 k [], state := .ready } }

/-- Sequences of partition 0, and an accepted command of it. -/
def kvState (l : Sparse Sequence) (w : BitVec 512) : State :=
  withCfg 0x2505 1 8 (withCfg 0x2506 1 8
    { cmdState w with front := { (cmdState w).front with parts := [(0, { state := .running, kv := { seqs := l } })] } })

/-- Port 0 as `q`. -/
def portState (q : Port) : State :=
  { lockedAt 0x40 with fab := { (lockedAt 0x40).fab with ports := sput {} 0 q [] }, cust := { state := .ready } }

/-- The header of an import blob of a kind, for slot 0 at generation 1. -/
def blobHead (kind : Nat) : BitVec 512 :=
  setFld (setFld (setFld (setFld (0 : BitVec 512) 0 16 0x5107) 16 8 1) 24 8 kind) 38 16 1

/-- Core 0 as it awaits the answers of an op with one descriptor. -/
def awaiting (code : Nat) (d : BitVec 512) : RunOp :=
  { word := opOf [(0, 8, code)], index := 3, stream := false, endAt := 0, awaiting := 1, descs := [d] }

/-- A network header of a type to an SNA. -/
def netTo (ty sna : Nat) : BitVec 256 := setFld (setFld (0 : BitVec 256) 128 8 ty) 152 16 sna

/-- A packet that waits at port 0. -/
def arrived (net : BitVec 256) (fenced : List (BitVec 16)) : State :=
  { lockedAt 0x40 with fab := { (lockedAt 0x40).fab with
      inbox := [(0, net, [])], fencedSnas := fenced, routes := [(0x20, 1)], ports := [(0, { state := .up, txKey := some 9 })] } }

/-- A shard of adapter 5 that this module owns. -/
def shard0 : Shard := { didx := 1, adid := 5, entry := 0, word := 0, rows := 1, owned := true }

/-- Shard 3 as `x`, of the adapter `d`, in filled memory, in an attempt that began in steep 5. -/
def shardState (x : Shard) (d : BitVec 1024) : State :=
  { lockedAt 0 with hbm := { filled := true }, ad := { descs := [(1, d)] }, red := { shards := [(3, some x)] },
                    steep := { (lockedAt 0).steep with astart := 5 }, cust := { slots := [(0, { cur := some 9 })] } }

/-- In untouched filled memory verification changes nothing. -/
theorem verifyBlock_same (b : Nat) (s : State) (hm : s.mem = []) (hr : blockOf s b = { v := true })
    (ha : noAccess s (4096 * b) = false) : verifyBlock {} b s = (false, s) := by
  have hc : crc64 (blockBytes s b) = 0 := by rw [blockBytes_empty s b hm, crc64_zeros]
  simp [verifyBlock, hr, hc, ha, eccEvents, List.range_succ]

theorem restoreBlocks_same (slot : Nat) (bs : List Nat) (s : State) (hm : s.mem = [])
    (h : ∀ b ∈ bs, blockOf s b = { v := true } ∧ noAccess s (4096 * b) = false) :
    restoreBlocks {} slot bs s = (true, s) := by
  induction bs with
  | nil => rfl
  | cons b bs ih =>
    rw [restoreBlocks, verifyBlock_same b s hm (h b (by simp)).1 (h b (by simp)).2]
    exact ih fun c hc => h c (by simp [hc])

/-- A module whose master state is `m`. -/
def masterState (m : Master) : State := { lockedAt 0 with steep := { (lockedAt 0).steep with master := m } }

/-- Stack 0 as `k`, long after power-on. -/
def stackState (k : Stack) : State :=
  { lockedAt 0 with clock := 10000000000000, hbm := { filled := true, stk := sput {} 0 k [] } }

/-- Partition 0 with a window of 4 GiB from address 0. -/
def windowed (s : State) : State := withCfg 0x3020 1 (2 ^ 96) s

/-- A module with leaf state `l`, a base key for half 0 and a window for staging. -/
def leafState (l : Leaf) : State :=
  windowed { lockedAt 0 with leaf := l, cust := { base0 := some { keyId := 0, xts := 0, verify := [] } } }

/-- A manifest of `n` segments. -/
def manifest0 (n : Nat) : List Byte := leBytes 4 0 ++ leBytes 4 n

/-- A DAP header of an operation, a record count and a body length, of session 9 with SEQ 1, for this module. -/
def dapHead (op count blen : Nat) : BitVec 256 :=
  setFld (setFld (setFld (setFld (setFld (setFld (setFld (setFld (0 : BitVec 256) 240 16 0xDA9A) 232 8 1) 224 8 op) 191 1 1)
    128 32 9) 64 64 1) 48 16 count) 32 16 blen

/-- A frame's bytes without its tag. -/
def dapBytes (op count : Nat) (body : List Byte) : List Byte := dapHeaderBytes (dapHead op count body.length) ++ body

/-- An open session that may write. -/
def session9 : Session :=
  { id := 9, state := .opened, keyed := false, writeAllowed := true, kmac := 7, publicKey := [], path := 0, source := 0, seq := 0,
    lastFrame := [], lastResponse := [], started := 0, lastGood := 0, tagFails := [], fragments := [], transcript := [] }

/-- A frame from the management port. -/
def frameOf (bs : List Byte) : Frame := { path := 0, bytes := bs, stamp := 0, source := 0 }

/-- A frame with the tag that session 9 gives it. -/
def taggedFrame (bs : List Byte) : Frame := frameOf (bs ++ dapTagOf 7 "AQ1224-DAP-REQ" bs)

/-- A module that holds frames and sessions. -/
def dapState (fs : List Frame) (xs : List Session) : State :=
  { lockedAt 0x40 with dict := { (lockedAt 0x40).dict with frames := fs, sessions := xs, mgmtLink := 2 }, boot := { railHx := true } }

theorem arrives {s : State} {f : Frame} {fs : List Frame} {op : Nat} {x : Session} {body : List Byte}
    (h1 : s.dict.frames = f :: fs) (h2 : dapOp (dapHeader f.bytes) = op)
    (h3 : sessionOf s (dapSession (dapHeader f.bytes)) = some x) (h4 : serves s x = true)
    (h5 : f.bytes = body ++ dapTagOf x.kmac "AQ1224-DAP-REQ" body) (h6 : 32 ≤ body.length)
    (h7 : x.seq.toNat < (dapSeq (dapHeader f.bytes)).toNat) : FrameArrives s f fs op x body := by
  unfold FrameArrives; exact ⟨h1, h2, h3, h4, h5, h6, h7⟩

/-- A trace record. -/
def traceRec0 : TraceRec := { time := 0, made := 0, sna := 0, oseq := 0, type := 1, block := 0, part := 0, data := 0 }

/-- Start-up at a stage. -/
def bootAt (n : Nat) : State := { State.reset with boot := { stage := n, identified := true, mainGood := true } }

/-- What a state satisfies that an outcome leads to. -/
def after (o : Outcome State Fault Refusal) (p : State → Bool) : Bool :=
  match o with
  | .next t => p t
  | _ => false

theorem eta3 {α β γ : Type} {p : (α × β) × γ} : p = ((p.1.1, p.1.2), p.2) := rfl

/-- The same state in the cycle of a steep boundary. -/
def atB (s : State) : State := { s with steep := { s.steep with crossedAt := some s.clock } }

/-- A read of the module tables in untouched filled memory changes nothing. -/
theorem readTable_same (o : Nat) (s : State) (hm : s.mem = []) (hr : blockOf s (tableBlock 0 o) = { v := true })
    (ha : noAccess s (4096 * tableBlock 0 o) = false) : readTable {} o s = s := by
  simp [readTable, verifyBlock_same _ s hm hr ha]

/-- The reads of the tables that a shard's update begins with change nothing there. -/
theorem readTables_same {o p : Nat} {s : State} (hm : s.mem = [])
    (h : ∀ q ∈ [o, p], blockOf s (tableBlock 0 q) = { v := true } ∧ noAccess s (4096 * tableBlock 0 q) = false) :
    s = readTable {} p (readTable {} o s) := by
  rw [readTable_same o s hm (h o (by simp)).1 (h o (by simp)).2, readTable_same p s hm (h p (by simp)).1 (h p (by simp)).2]

/-- A shard of adapter 5 whose frame lies in logical pseudo-channel 1, which is lost. -/
def lostShard : Shard := { shard0 with state := .updating, word := setFld 0 416 48 0x120000000 }
def lostState : State :=
  { shardState lostShard (setFld desc1 24 2 2) with hbm := { filled := true, stk := [(0, { map := [(1, 0xFF)] })] } }

/-- A block that holds no valid checksum, under an attempt tag. -/
def badState (b : Nat) (tag : BitVec 32) : State :=
  { shardState { shard0 with state := .updating } (setFld desc1 24 2 2) with
    hbm := { filled := true, blocks := [(b, { atag := tag })] } }

/-- A packet of an install from the fabric brings its bytes. -/
theorem delivered_packet {p : BitVec 512} {bs : List Byte} {a n : Nat} {s : State} (h : iSrc p = 1) :
    delivered p (.packet bs) a n s = some (bs, s) := by simp [delivered, h]

/-- A session under a write-allowed key. -/
def sessionW : Session := { session9 with keyed := true }

/-- A frame that is signed, its signature of zeros: whether it verifies is not the model's to say (log entry 3). -/
def signedFrame (body : List Byte) : Frame :=
  taggedFrame (dapHeaderBytes (setFld (dapHead 17 1 body.length) 190 1 1) ++ body ++ List.replicate 3309 0)

/-- A signed frame of a write-allowed key may write. -/
theorem mayWrite_signed {s : State} {f : Frame} {x : Session} {rs : List DapRecord} (hk : x.keyed = true)
    (hw : x.writeAllowed = true) (h : signatureGood x f.bytes = true) : mayWrite s f x rs = true := by
  simp [mayWrite, hk, hw, h]

/-! ### Ill-formed commands that the check refuses -/

theorem test_wf_table_of_1025 : WellFormed (.tableDigest 0 0 (List.replicate 1025 0)) = false := by decide +kernel
theorem test_wf_eleven_power_groups : WellFormed (.powerSample 0 (List.replicate 11 0)) = false := by decide +kernel
theorem test_wf_unaligned_caddy_fill : WellFormed (.caddyFill 0 0 1 {}) = false := by decide +kernel
theorem test_wf_short_custody_message : WellFormed (.doeCustodyExchange 0 [1]) = false := by decide +kernel
theorem test_wf_long_contribution : WellFormed (.contributionUnit 0 (List.replicate 4161 0)) = false := by decide +kernel
theorem test_wf_long_keeper_copy : WellFormed (.keeperCopy 0 0 0 false 0 (List.replicate 4097 0) 0) = false := by decide +kernel
theorem test_wf_stack_12 : WellFormed (.temperatureRead 12 none) = false := by decide +kernel
theorem test_wf_bank_48 : WellFormed (.rowRepair 0 0 48 0) = false := by decide +kernel
theorem test_wf_fill_of_stack_12 : WellFormed (.pcFill 12) = false := by decide +kernel
theorem test_wf_fill_complete_of_stack_12 : WellFormed (.fillComplete 12) = false := by decide +kernel
theorem test_wf_fill_failure_of_stack_12 : WellFormed (.fillFailure 12) = false := by decide +kernel
theorem test_wf_lost_in_stack_12 : WellFormed (.logicalPcLost 12) = false := by decide +kernel
theorem test_wf_short_segment : WellFormed (.segmentData 0 (.packet [1])) = false := by decide +kernel
theorem test_wf_short_readback : WellFormed (.segmentProgrammed 0 { bytes := [1] }) = false := by decide +kernel
theorem test_wf_short_leaf_patrol : WellFormed (.leafPatrol false 0 { bytes := [1] }) = false := by decide +kernel
theorem test_wf_port_16 : WellFormed (.portReset 16) = false := by decide +kernel
theorem test_wf_long_frame_payload : WellFormed (.linkFrame 0 0 0 (List.replicate 4161 0) 0 true) = false := by decide +kernel
theorem test_wf_long_fabric_write : WellFormed (.fabWriteArrival 0 0 (List.replicate 4161 0) false false 0 0 0 { core := 0, op := 0, writes := 1 }) = false := by decide +kernel
theorem test_wf_long_read_data : WellFormed (.readData 0 0 0 0 (List.replicate 4161 0)) = false := by decide +kernel
theorem test_wf_long_collective_unit : WellFormed (.collectiveData 0 0 0 0 0 (List.replicate 4161 0)) = false := by decide +kernel
theorem test_wf_takeover_of_nobody : WellFormed (.takeoverEffect [] 0) = false := by decide +kernel
theorem test_wf_planned_return_reserved : WellFormed (.plannedReturn 0x400) = false := by decide +kernel
theorem test_wf_seventeen_alarms : WellFormed (.cmisInterrupt (List.replicate 17 0)) = false := by decide +kernel
theorem test_wf_event_log_4096 : WellFormed (.eventLogRead 4096) = false := by decide +kernel
theorem test_wf_seal_break_path_3 : WellFormed (.sealBreak 3) = false := by decide +kernel
theorem test_wf_datagram_shorter_than_frame : WellFormed (.mgmtDatagram 0 0 46496 true false 1 [1, 2]) = false := by decide +kernel
theorem test_wf_empty_register_write : WellFormed (.registerWrite 0 []) = false := by decide +kernel
theorem test_wf_manager_key_9 : WellFormed (.managerKeyListWrite 0 9 0) = false := by decide +kernel
theorem test_wf_block_0xB1 : WellFormed (.counterSelect 0xB1 0 0) = false := by decide +kernel
theorem test_wf_clear_of_block_0xB1 : WellFormed (.counterClear 0xB1) = false := by decide +kernel
theorem test_wf_fault_log_64 : WellFormed (.faultLogRead 64) = false := by decide +kernel
theorem test_wf_link_code_3 : WellFormed (.managementLinkChange 3) = false := by decide +kernel
theorem test_wf_width_17 : WellFormed (.pcieLinkChange 64 17) = false := by decide +kernel

/-! ### Figures of the spec -/

/-- spec/10 R294: the check value over "123456789". -/
theorem test_crc64_check_value : crc64 (ascii "123456789") = 0x6C40DF5F0B497347 := by decide +kernel

/-- spec/10, the example of a row that fails twice: units 59,524 to 59,527 are banks 4 to 7 of row 1,240. -/
theorem test_bank_and_row :
    hbmStack 0x010D83A21000 = some 4 ∧ logicalPc 0x010D83A21000 = some 12 ∧ bankRow 0x010D83A21000 = (4, 1240) := by
  decide +kernel

/-- spec/04, the example of an FP4 tile: scale 0x30 is 0.5, code 0b0111 is 6.0, activation 0x44 is 3.0, UE8M0 0x7D is
2⁻², and an outlier adds 7.5. -/
theorem test_fp4_tile_codes :
    (ofE4m3 0x30).same (.fin false 1 (-1)) ∧ (ofFp4 7).same (.fin false 6 0) ∧ (ofE4m3 0x44).same (.fin false 3 0) ∧
      (ofUe8m0 0x7D).same (.fin false 1 (-2)) ∧
      (((ofE4m3 0x44).mul (ofUe8m0 0x7D)).mul (ofBf16 0x4120)).same (.fin false 15 (-1)) := by decide +kernel

/-- spec/04, the same tile: element (2, 9) of block 53 stands in the high nibble of byte 6,784 + 20. -/
theorem test_fp4_tile_place :
    (codeVal 0 (List.replicate 6804 0 ++ [0x70]) 6784 41).same (.fin false 6 0) ∧
      outliersIn (List.replicate 205 0 ++ [0x04]) 53 = 1 := by decide +kernel

/-- spec/04, the example of one element: p_int 1,200 becomes 1,197 under the sign-momentum preset rounded to nearest, and
its compute image stays 0.0732421875. -/
theorem test_update_of_one_element :
    let u := updateOne (fun i => [0x3F666666, 0x3DCCCCCD, 0x3F7D70A4, 0x3C23D70A, 0x3DCCCCCD, 1].getD i 0) .rne
      0x3D4CCCCD 0xBB03126F 1200 (-14) 3
    u.master = 1197 ∧ u.image = 0x3D96 ∧ u.skipped = false := by decide +kernel

/-- spec/09 R269: a gradient that is not finite leaves the element as it is. -/
theorem test_update_skips_nan :
    let u := updateOne (fun i => [0x3F666666, 0x3DCCCCCD, 0x3F7D70A4, 0x3C23D70A, 0x3DCCCCCD, 1].getD i 0) .rne
      0x7FC00000 0xBB03126F 1200 (-14) 3
    u.master = 1200 ∧ u.skipped = true := by decide +kernel

/-- The published first block of Philox4×32-10 of an all-zero key and counter (spec/04 R115 names the generator). -/
theorem test_philox_zero_block :
    philox 0 0 0 0 0 0 = [0x6627E8D5, 0xE169C58D, 0xBC57AC4C, 0x9B00DBD8] := by decide +kernel

/-- spec/02 R37, spec/19 Table WE-5: W at 234 µs of a steep of 250 µs and at 259 µs of one of 275 µs. -/
theorem test_wave_point_times :
    (waveTime (lockedAt 0)).toNat = 3000000 + 234 * 2000 ∧
      (waveTime { lockedAt 0 with steep := { (lockedAt 0).steep with len := 275 } }).toNat = 3000000 + 259 * 2000 := by
  decide +kernel

/-- spec/09 R272, spec/19 Table WE-4: the update of 2,048 elements takes 2.168 µs. -/
theorem test_update_time : updateTime { shard0 with rows := 16, word := setFld 0 360 24 127 } = 4336 := by decide +kernel

/-- spec/05, the example program: the narrowing pour of 256 rows with MAXSEG 8 needs 848 cycles of slack. -/
theorem test_pour_slack :
    slackOf (setFld 0 192 8 8) { epi := [(0, some (0, true))] } (opOf [(0, 8, 0x40), (38, 10, 256)]) = 848 := by
  decide +kernel

/-- spec/03 Table MC-8: the first row of a tile that starts at cycle 12,000 is final at 12,200. -/
theorem test_first_row_final :
    let s := queued (opOf [(0, 8, 0x11), (82, 10, 16), (70, 12, 1), (102, 1, 1), (103, 1, 1)]) { active := some tile0 }
    after (exec (.mmaRun 0 false) s) (fun t => decide (((coreOf t 0).acc0.chain.map fun c => c.finals.getD 0 0) = some (s.clock + 200) ∧ (coreOf t 0).arrayFree = s.clock + 16)) = true := by
  decide +kernel

/-- spec/12, the example of the gateways of board 4 of group 3. -/
theorem test_gateways :
    (partnerOf (mkSna 3 4 1) 14).map (fun q => snaGroup q.1) = some 2 ∧ (partnerOf (mkSna 3 4 7) 15).map (fun q => snaGroup q.1) = some 2 ∧
      (partnerOf (mkSna 3 4 2) 14).map (fun q => snaGroup q.1) = some 1 ∧
      (partnerOf (mkSna 3 4 1) 15).map (fun q => snaGroup q.1) = some 1 ∧ mkSna 3 4 1 = 0x6820 := by decide +kernel

/-- spec/15 Table OD-12: a signed WRITE of two records of 16 bytes is a frame of 3,405 bytes. -/
theorem test_signed_frame_length : dapLength (setFld (dapHead 0x11 2 32) 190 1 1) = 3405 := by decide +kernel

/-! ### Single steps -/

/-- spec/14 R406: a tail beyond the ring puts its queue into ERROR. -/
theorem test_doorbell_beyond_ring :
    after (exec (.doorbell 0 1 false 4) (frontState { state := .running } { state := .active, sqSize := 4, cqSize := 4 })) (fun t => decide ((queueOf t 1).state = .error)) = true := by
  decide +kernel

/-- spec/14 R409: an undefined opcode ends with FORMAT. -/
theorem test_undefined_opcode :
    after (exec (.commandFetch (some 0x99)) (frontState { state := .running } { state := .active, sqSize := 4, cqSize := 4, tail := 1 })) (fun t => decide ((t.front.ready.map fun r => r.status) = [9])) = true := by
  decide +kernel

/-- spec/10 Table HB-6: 86 °C puts a NORMAL stack into WARM and sets the stretch condition. -/
theorem test_warm_stack :
    after (exec (.temperatureRead 5 (some 86)) (lockedAt 0)) (fun t => decide ((stackOf t 5).thermal = .warm ∧ t.steep.condHbm = true)) = true := by
  decide +kernel

/-- spec/02 R45, R48: with a warm stack the wave point raises n to 1 and asks for 275 µs. -/
theorem test_stretch_request :
    after (exec .wavePoint { lockedAt 0 with steep := { (lockedAt 0).steep with condHbm := true } }) (fun t => decide (t.steep.stretch = 1 ∧ t.steep.master.contributions.length = 1)) = true := by
  decide +kernel

/-- spec/15 R433: a frame for an unknown session is dropped and counted. -/
theorem test_unknown_session :
    after (exec .read (dapState [frameOf (dapBytes 0x10 0 [] ++ List.replicate 32 0)] [])) (fun t => decide (t.dict.frames = [] ∧ t.dict.tagDrops = 1)) = true := by
  decide +kernel

/-- A block spells no command by a word (spec/opcode_table.json gives the rows no bits). -/
theorem test_no_words : decodeTableWord 16 0 = none ∧ decodeTableWord 128 5 = none := by decide

/-- User capacity of a stack and of the module before any loss, 131,072 and 1,572,864 MiB (spec/10 Table HB-10). -/
theorem test_capacities : stackCapacity State.reset 3 = 131072 ∧
    hbmValue State.reset 0x8100 0 = leBytes 4 1572864 ∧ hbmValue State.reset 0x8100 1 = leBytes 4 1769472 := by
  decide +kernel

/-- A write of 100 bytes counts two units as written, and, in part of a block with a checksum, two extra reads
(spec/16 Table PC-2, spec/10 R296). -/
theorem test_hbm_writes_are_counted :
    let s := { State.reset with obs := { State.reset.obs with blocks := [(0x84, { sel := [(0, 0x041), (1, 0x043)] })] } }
    let t := writeInBlock true 0x1000 (List.replicate 100 1) s
    (sget {} 0x84 t.obs.blocks).ctr = [(0, 2), (1, 2)] := by
  decide +kernel

/-- An idle core counts its idle cycles as the clock runs (spec/16 Table PC-2, event 0x05C). -/
theorem test_idle_core_counts :
    let s := { State.reset with obs := { State.reset.obs with blocks := [(5, { sel := [(0, 0x05C)] })] } }
    (sget {} 5 (elapse 7 s).obs.blocks).ctr = [(0, 7)] := by
  decide +kernel

/-- States and operands that meet the hypotheses of StepRunsFrontCommand. -/
theorem witness_StepRunsFrontCommand :
  ∃ (c : Instr) (cs : List Instr) (s : State), s.pending = c :: cs :=
  ⟨.wavePoint, [.guardStart], { State.reset with pending := [.wavePoint, .guardStart] }, by decide +kernel⟩

/-- States and operands that meet the hypotheses of IdleStepPassesOneCycle. -/
theorem witness_IdleStepPassesOneCycle :
  ∃ (s : State), s.pending = [] :=
  ⟨State.reset, by decide +kernel⟩

/-- States and operands that meet the hypotheses of InvariantKeptByStep. -/
theorem witness_InvariantKeptByStep :
  ∃ (s : State) (t : State), s.inv = true ∧ step s = Outcome.next t :=
  ⟨State.reset, _, by decide +kernel, rfl⟩

/-- States and operands that meet the hypotheses of SteepBoundaryBeginsNextSteep. -/
theorem witness_SteepBoundaryBeginsNextSteep :
  (∃ (s : State) (w : BitVec 512), s.steep.wave = some w ∧ boundaryReady s = true) ∧
  (∃ (s : State), boundaryReady s = false) :=
  ⟨⟨{ lockedAt 0 with steep := { (lockedAt 0).steep with wave := some (waveOf 0 true), waved := true, guard := true } }, waveOf 0 true, by decide +kernel⟩,
   ⟨lockedAt 0, by decide +kernel⟩⟩

/-- States and operands that meet the hypotheses of WavePointContributesAndStretches. -/
theorem witness_WavePointContributesAndStretches :
  (∃ (s : State), boundariesKnown s = true ∧ s.steep.waved = false) ∧
  (∃ (s : State),
    boundariesKnown s = true ∧
      s.steep.guard = false ∧
        (s.steep.engine = EngineState.locked →
          ∀ g < 128,
            unfinished (coreOf s g) = false ∧
              (coreOf s g).running = [] ∧ (coreOf s g).pour = none ∧ (coreOf s g).rankRun = none)) ∧
  (∃ (s : State) (g : Nat),
    s.steep.engine = EngineState.locked ∧
      s.steep.guard = false ∧
        g < 128 ∧
          unfinished (coreOf s g) = true ∧
            (coreOf s g).aborted = false ∧
              ∀ i < 128,
                (coreOf s i).running = [] ∧
                  (coreOf s i).pour = none ∧
                    (coreOf s i).rankRun = none ∧ (i ≠ g → unfinished (coreOf s i) = false)) :=
  ⟨⟨lockedAt 0, by decide +kernel⟩,
   ⟨lockedAt 0, by decide +kernel⟩,
   ⟨coreWith { strain := [0] }, 0, by decide +kernel⟩⟩

/-- States and operands that meet the hypotheses of MastersGatherAndReduce. -/
theorem witness_MastersGatherAndReduce :
  (∃ (s : State) (pkt : BitVec 512),
    s.steep.engine = EngineState.locked ∧
      (ownRank s).isSome = true ∧
        fld pkt 504 8 = 34 ∧
          s.steep.master.reduced = false ∧
            ahead s.time (gatherTime s) = 0 ∧
              fld pkt 432 64 = s.steep.k ∧ ∀ q ∈ s.steep.master.contributions, fld q 416 16 ≠ fld pkt 416 16) ∧
  (∃ (s : State) (pkt : BitVec 512),
    s.steep.engine ≠ EngineState.locked ∨
      ownRank s = none ∨
        fld pkt 504 8 ≠ 34 ∨
          fld pkt 432 64 ≠ s.steep.k ∨ ahead s.time (gatherTime s) ≠ 0 ∨ s.steep.master.reduced = true) ∧
  (∃ (s : State) (r : Nat),
    s.steep.engine = EngineState.locked ∧
      ownRank s = some r ∧ s.steep.waved = true ∧ s.steep.master.reduced = false) ∧
  (∃ (s : State) (r : Nat) (p : BitVec 512),
    s.steep.engine = EngineState.locked ∧
      ownRank s = some r ∧
        (r = 1 ∨ r = 2) ∧
          s.steep.master.ownWave = some p ∧
            (waveFields p).rank = r ∧
              (waveFields p).steep = s.steep.k ∧
                s.steep.seen.contains (s.steep.k, 0) = false ∧
                  s.steep.seen.contains (s.steep.k, BitVec.ofNat 2 r) = false ∧
                    (r = 2 → s.steep.seen.contains (s.steep.k, 1) = false)) ∧
  (∃ (s : State), isPrimary s = true) ∧
  (∃ (s : State), isPrimary s = false) :=
  ⟨by refine ⟨lockedAt 0, setFld (setFld (setFld 0 504 8 0x22) 432 64 6) 416 16 1, ?_, ?_, ?_, ?_, ?_, ?_, fun q hq => by cases hq⟩ <;> decide +kernel,
   ⟨lockedAt 0, setFld 0 504 8 0x22, by decide +kernel⟩,
   ⟨{ lockedAt 0x20 with steep := { (lockedAt 0).steep with waved := true } }, 1, by decide +kernel⟩,
   ⟨{ lockedAt 0x20 with steep := { (lockedAt 0).steep with master := { ownWave := some (waveOf 1 true) } } }, 1, waveOf 1 true, by decide +kernel⟩,
   ⟨lockedAt 0, by decide +kernel⟩,
   ⟨lockedAt 0x40, by decide +kernel⟩⟩

/-- States and operands that meet the hypotheses of WavesAreForwardedOnceAndActedOn. -/
theorem witness_WavesAreForwardedOnceAndActedOn :
  (∃ (s : State) (p : BitVec 512),
    fld p 504 8 = 33 ∧ s.steep.seen.contains ((waveFields p).steep, BitVec.ofNat 2 (waveFields p).rank) = true) ∧
  (∃ (s : State) (p : BitVec 512),
    fld p 504 8 = 33 ∧ s.steep.seen.contains ((waveFields p).steep, BitVec.ofNat 2 (waveFields p).rank) = false) ∧
  (∃ (s : State),
    (s.steep.engine = EngineState.locked ∨ s.steep.engine = EngineState.standby) ∧ s.steep.wave = none) ∧
  (∃ (s : State) (w : BitVec 512),
    (s.steep.engine = EngineState.locked ∨ s.steep.engine = EngineState.standby) ∧ s.steep.wave = some w) ∧
  (∃ (s : State),
    s.steep.engine = EngineState.listen ∧ s.timeKnown = true ∧ s.steep.wavesIn ≠ 0 ∧ s.steep.wave = none) :=
  ⟨⟨{ lockedAt 0x40 with steep := { (lockedAt 0).steep with seen := [(6, 0)] } }, waveOf 0 true, by decide +kernel⟩,
   ⟨lockedAt 0x40, waveOf 0 true, by decide +kernel⟩,
   ⟨lockedAt 0x40, by decide +kernel⟩,
   ⟨{ lockedAt 0x40 with steep := { (lockedAt 0).steep with wave := some (waveOf 0 true) } }, waveOf 0 true, by decide +kernel⟩,
   ⟨{ lockedAt 0 with steep := { engine := .listen, wavesIn := 1 } }, by decide +kernel⟩⟩

/-- States and operands that meet the hypotheses of TimeSyncSlewsAndLeaves. -/
theorem witness_TimeSyncSlewsAndLeaves :
  ∃ (s : State) (trip : Nat) (asym : Int), sparseWf 0 s.steep.delays = true ∨ ↑(trip / 2) - asym ≠ 0 :=
  ⟨lockedAt 0, 10, 0, by decide +kernel⟩

/-- States and operands that meet the hypotheses of ListenAndFoundingTimers. -/
theorem witness_ListenAndFoundingTimers :
  (∃ (s : State), s.steep.engine = EngineState.listen ∧ s.steep.quietRec = false) ∧
  (∃ (s : State), s.steep.engine = EngineState.listen) ∧
  (∃ (s : State),
    s.steep.engine = EngineState.listen ∧
      s.timeKnown = false ∧
        isPrimary s = true ∧ s.fab.discovery = DiscoveryState.complete ∧ s.steep.wavesIn = 0 ∧ s.steep.seen = []) ∧
  (∃ (s : State), isPrimary s = true) ∧
  (∃ (s : State) (d : BitVec 64), d = tableDigestOf s ∧ isPrimary s = false) ∧
  (∃ (s : State) (sna : BitVec 16) (d : BitVec 64) (m : Nat × Nat) (ms : List (Nat × Nat)),
    isPrimary s = false ∧
      masterLdns s = m :: ms ∧
        snaOfLdn s m.2 = some sna.toNat ∧ d ≠ tableDigestOf s ∧ s.steep.engine = EngineState.locked) :=
  ⟨⟨{ State.reset with steep := { engine := .listen } }, by decide +kernel⟩,
   ⟨{ State.reset with steep := { engine := .listen } }, by decide +kernel⟩,
   ⟨{ lockedAt 0 with timeKnown := false, steep := { engine := .listen } }, by decide +kernel⟩,
   ⟨lockedAt 0, by decide +kernel⟩,
   ⟨lockedAt 0x40, _, rfl, by decide +kernel⟩,
   by refine ⟨lockedAt 0x40, 0, tableDigestOf (lockedAt 0x40) + 1, (0, 0), [(1, 1)], ?_, ?_, ?_, by simp, ?_⟩ <;> decide +kernel⟩

/-- States and operands that meet the hypotheses of ArrayOpsLoadAndRun. -/
theorem witness_ArrayOpsLoadAndRun :
  (∃ (s : State) (core : BitVec 7) (stream : Bool) (q : QOp) (side : List Byte) (rs : List MemRange),
    s.inv = true ∧
      starting s core.toNat 16 stream = some q ∧
        opRuleOk q.word = true ∧
          side = sideData s core.toNat (64 * oF q.word 48 16) (oF q.word 64 3) ∧
            rs =
                tileRanges
                  [(64 * oF q.word 32 16, tileSize (oF q.word 64 3)), (64 * oF q.word 48 16, side.length)] ∧
              readFails s core.toNat rs = false ∧
                (List.take (12 * blockCols (oF q.word 64 3)) side).any (badScale (oB q.word 67)) = false) ∧
  (∃ (s : State) (core : BitVec 7) (stream : Bool) (q : QOp) (side : List Byte) (rs : List MemRange),
    s.inv = true ∧
      starting s core.toNat 16 stream = some q ∧
        opRuleOk q.word = true ∧
          side = sideData s core.toNat (64 * oF q.word 48 16) (oF q.word 64 3) ∧
            rs =
                tileRanges
                  [(64 * oF q.word 32 16, tileSize (oF q.word 64 3)), (64 * oF q.word 48 16, side.length)] ∧
              readFails s core.toNat rs = true) ∧
  (∃ (s : State) (core : BitVec 7) (stream : Bool) (q : QOp) (x : WeightTile),
    s.inv = true ∧
      starting s core.toNat 17 stream = some q ∧
        opRuleOk q.word = true ∧
          (coreOf s core.toNat).upsets = [] ∧
            runTile (coreOf s core.toNat) q.word = some x ∧
              modeOk x.wfmt.toNat (oB q.word 100) = true ∧
                chainOk (accOf (coreOf s core.toNat) (oB q.word 101)) (oB q.word 102) (oF q.word 82 10) = true) ∧
  (∃ (s : State) (core : BitVec 7) (stream : Bool) (q : QOp),
    s.inv = true ∧
      starting s core.toNat 32 stream = some q ∧
        opRuleOk q.word = true ∧
          (coreOf s core.toNat).upsets = [] ∧
            chainOk (rankOf (coreOf s core.toNat) (oB q.word 101)) (oB q.word 102) (oF q.word 82 10) = true) :=
  ⟨by refine ⟨queued (opOf [(0, 8, 0x10)]) {}, 0, false, qop (opOf [(0, 8, 0x10)]), _, _, ?_, ?_, ?_, rfl, rfl, ?_⟩ <;> decide +kernel,
   by refine ⟨queued (opOf [(0, 8, 0x10)]) { upsets := [{ mem := .tile, word := 0, double := true }] }, 0, false, qop (opOf [(0, 8, 0x10)]), _, _, ?_, ?_, ?_, rfl, rfl, ?_⟩ <;> decide +kernel,
   ⟨queued (opOf [(0, 8, 0x11), (82, 10, 16), (70, 12, 1), (102, 1, 1)]) { active := some tile0 }, 0, false, qop (opOf [(0, 8, 0x11), (82, 10, 16), (70, 12, 1), (102, 1, 1)]), tile0, by decide +kernel⟩,
   ⟨queued (opOf [(0, 8, 0x20), (82, 10, 16), (70, 12, 1), (102, 1, 1)]) {}, 0, false, qop (opOf [(0, 8, 0x20), (82, 10, 16), (70, 12, 1), (102, 1, 1)]), by decide +kernel⟩⟩

/-- States and operands that meet the hypotheses of EpilogueSlotsAndPours. -/
theorem witness_EpilogueSlotsAndPours :
  (∃ (s : State) (core : BitVec 7) (stream : Bool) (q : QOp),
    s.inv = true ∧ starting s core.toNat 48 stream = some q ∧ opRuleOk q.word = true) ∧
  (∃ (s : State) (core : BitVec 7) (stream : Bool) (q : QOp) (e : EpiSlot),
    s.inv = true ∧
      starting s core.toNat 49 stream = some q ∧
        opRuleOk q.word = true ∧
          epiOf (coreOf s core.toNat) (epiIndex s core.toNat q.stream (oF q.word 32 3)) = e ∧ e.valid = true) ∧
  (∃ (s : State) (core : BitVec 7) (stream : Bool) (q : QOp) (e : EpiSlot),
    s.inv = true ∧
      starting s core.toNat 50 stream = some q ∧
        opRuleOk q.word = true ∧
          epiOf (coreOf s core.toNat) (epiIndex s core.toNat q.stream (oF q.word 32 3)) = e ∧ e.valid = true) ∧
  (∃ (s : State) (core : BitVec 7) (stream : Bool) (q : QOp) (e : EpiSlot),
    s.inv = true ∧
      starting s core.toNat 64 stream = some q ∧
        opRuleOk q.word = true ∧
          (coreOf s core.toNat).upsets = [] ∧
            epiOf (coreOf s core.toNat) (epiIndex s core.toNat q.stream (oF q.word 32 3)) = e ∧ e.valid = true) ∧
  (∃ (s : State) (core : BitVec 7) (p : Pour),
    s.inv = true ∧
      (coreOf s core.toNat).upsets = [] ∧
        (coreOf s core.toNat).pour = some p ∧
          p.left = [] ∧ p.saturated ≠ 0 ∧ p.recomputed = false ∧ inTime s core.toNat p.endAt = true) ∧
  (∃ (s : State) (core : BitVec 7) (p : Pour),
    s.inv = true ∧
      (coreOf s core.toNat).upsets = [] ∧
        (coreOf s core.toNat).pour = some p ∧
          p.left = [] ∧ (p.saturated = 0 ∨ p.recomputed = true) ∧ inTime s core.toNat p.endAt = true) :=
  ⟨⟨queued (opOf [(0, 8, 0x30)]) {}, 0, false, qop (opOf [(0, 8, 0x30)]), by decide +kernel⟩,
   ⟨queued (opOf [(0, 8, 0x31)]) { epi := [(0, { valid := true })] }, 0, false, qop (opOf [(0, 8, 0x31)]), { valid := true }, by decide +kernel⟩,
   ⟨queued (opOf [(0, 8, 0x32)]) { epi := [(0, { valid := true })] }, 0, false, qop (opOf [(0, 8, 0x32)]), { valid := true }, by decide +kernel⟩,
   ⟨queued (opOf [(0, 8, 0x40), (38, 10, 16)]) { epi := [(0, { valid := true })] }, 0, false, qop (opOf [(0, 8, 0x40), (38, 10, 16)]), { valid := true }, by decide +kernel⟩,
   ⟨coreWith { pour := some { pour0 with saturated := 1 } }, 0, { pour0 with saturated := 1 }, by decide +kernel⟩,
   ⟨coreWith { pour := some pour0 }, 0, pour0, by decide +kernel⟩⟩

/-- States and operands that meet the hypotheses of VectorOpsWriteTheirRows. -/
theorem witness_VectorOpsWriteTheirRows :
  (∃ (s : State) (core : BitVec 7) (stream : Bool) (q : QOp) (n : Nat),
    s.inv = true ∧
      starting s core.toNat 80 stream = some q ∧
        opRuleOk q.word = true ∧
          readFails s core.toNat (tileRanges (vecReads q.word)) = false ∧ n = (vecShape q.word).2) ∧
  (∃ (s : State) (core : BitVec 7) (stream : Bool) (q : QOp) (n : Nat) (exps : List Int) (u : State),
    s.inv = true ∧
      starting s core.toNat 81 stream = some q ∧
        opRuleOk q.word = true ∧
          readFails s core.toNat (tileRanges (vecReads q.word)) = false ∧
            n = (vecShape q.word).2 ∧
              (exps =
                  if 2 ≤ oF q.word 35 3 then
                    cvtExps (oF q.word 38 2) (vecShape q.word).1 n (decide (oF q.word 35 3 = 3))
                      (cvtSrc s core.toNat q.word n)
                  else []) ∧
                u =
                  writeRows core.toNat (64 * oF q.word 56 16) (rowStride n (cvtBits (oF q.word 35 3)))
                    (List.map (fun (r : Nat) => (cvtRow q.word n r exps (cvtSrc s core.toNat q.word n)).1)
                      (List.range (vecShape q.word).1))
                    s) ∧
  (∃ (s : State) (core : BitVec 7) (stream : Bool) (q : QOp) (n : Nat),
    s.inv = true ∧
      starting s core.toNat 82 stream = some q ∧
        opRuleOk q.word = true ∧
          readFails s core.toNat (tileRanges (vecReads q.word)) = false ∧ n = (vecShape q.word).2) :=
  ⟨by refine ⟨queued (opOf [(0, 8, 0x50)]) {}, 0, false, qop (opOf [(0, 8, 0x50)]), _, ?_, ?_, ?_, ?_, rfl⟩ <;> decide +kernel,
   by refine ⟨queued (opOf [(0, 8, 0x51)]) {}, 0, false, qop (opOf [(0, 8, 0x51)]), _, _, _, ?_, ?_, ?_, ?_, rfl, rfl, rfl⟩ <;> decide +kernel,
   by refine ⟨queued (opOf [(0, 8, 0x52)]) {}, 0, false, qop (opOf [(0, 8, 0x52)]), _, ?_, ?_, ?_, ?_, rfl⟩ <;> decide +kernel⟩

/-- States and operands that meet the hypotheses of ControlOpsAndCredits. -/
theorem witness_ControlOpsAndCredits :
  (∃ (s : State) (core : BitVec 7) (stream : Bool) (q : QOp),
    s.inv = true ∧ starting s core.toNat 144 stream = some q) ∧
  (∃ (s : State) (core : BitVec 7) (stream : Bool) (q : QOp) (img : Image) (m : BitVec 32),
    s.inv = true ∧
      starting s core.toNat 145 stream = some q ∧
        (coreOf s core.toNat).image = some img ∧
          oSamt q.word ≠ 0 ∧
            oF q.word 38 4 = 0 ∧ oF q.word 48 4 = 0 ∧ oF q.word 58 4 = 0 ∧ m = img.sendMap.getD (oSctr q.word) 0) ∧
  (∃ (s : State) (core : BitVec 7) (stream : Bool) (q : QOp),
    s.inv = true ∧ starting s core.toNat 146 stream = some q) ∧
  (∃ (s : State) (core : BitVec 7) (stream : Bool) (q : QOp),
    s.inv = true ∧ starting s core.toNat 160 stream = some q) ∧
  (∃ (s : State) (core : BitVec 7) (stream : Bool) (q : QOp),
    s.inv = true ∧ starting s core.toNat 240 stream = some q) ∧
  (∃ (s : State) (core : BitVec 7) (op : BitVec 16) (r : RunOp),
    s.inv = true ∧
      List.find? (fun (r : RunOp) => decide (r.index = op) && decide (r.awaiting = 0))
            (coreOf s core.toNat).running =
          some r ∧
        inTime s core.toNat r.endAt = true) ∧
  (∃ (s : State) (core : BitVec 7) (op : BitVec 16) (r : RunOp),
    s.inv = true ∧
      List.find? (fun (r : RunOp) => decide (r.index = op) && decide (r.awaiting = 0))
            (coreOf s core.toNat).running =
          some r ∧
        inTime s core.toNat r.endAt = false) ∧
  (∃ (s : State) (core : BitVec 7) (ctr : BitVec 6) (n : BitVec 16) (k : BitVec 64) (x : Token),
    s.inv = true ∧ nextToken s core ctr n k = some x) ∧
  (∃ (s : State) (core : BitVec 7) (part : BitVec 6),
    s.inv = true ∧ coreOwner s core.toNat ≠ some part.toNat) ∧
  (∃ (s : State) (core : BitVec 7) (ctr : BitVec 6) (n : BitVec 16) (k : BitVec 64) (part : BitVec 6),
    s.inv = true ∧
      coreOwner s core.toNat = some part.toNat ∧
        k = s.steep.k ∧ n ≠ 0 ∧ creditOf (coreOf s core.toNat) ctr.toNat + n.toNat ≤ 65535) :=
  ⟨⟨queued (opOf [(0, 8, 0x90)]) {}, 0, false, qop (opOf [(0, 8, 0x90)]), by decide +kernel⟩,
   by refine ⟨queued (opOf [(0, 8, 0x91), (28, 4, 1)]) {}, 0, false, qop (opOf [(0, 8, 0x91), (28, 4, 1)]), image0, _, ?_, ?_, ?_, ?_, ?_, ?_, ?_, rfl⟩ <;> decide +kernel,
   ⟨queued (opOf [(0, 8, 0x92)]) {}, 0, false, qop (opOf [(0, 8, 0x92)]), by decide +kernel⟩,
   ⟨queued (opOf [(0, 8, 0xA0)]) {}, 0, false, qop (opOf [(0, 8, 0xA0)]), by decide +kernel⟩,
   ⟨queued (opOf [(0, 8, 0xF0)]) {}, 0, false, qop (opOf [(0, 8, 0xF0)]), by decide +kernel⟩,
   ⟨coreWith { running := [{ word := opOf [(0, 8, 0x90)], index := 3, stream := false, endAt := 0, awaiting := 0 }] }, 0, 3, { word := opOf [(0, 8, 0x90)], index := 3, stream := false, endAt := 0, awaiting := 0 }, by decide +kernel⟩,
   ⟨coreWith { running := [{ word := 0, index := 3, stream := false, endAt := 3000000000, awaiting := 0 }] }, 0, 3, { word := 0, index := 3, stream := false, endAt := 3000000000, awaiting := 0 }, by decide +kernel⟩,
   ⟨{ coreWith {} with prog := { (coreWith {}).prog with tokens := [{ source := 1, core := 0, ctr := 5, amount := 2, steep := 6 }] } }, 0, 5, 2, 6, { source := 1, core := 0, ctr := 5, amount := 2, steep := 6 }, by decide +kernel⟩,
   ⟨coreWith {}, 0, 1, by decide +kernel⟩,
   ⟨withCfg 0x3010 1 1 (coreWith {}), 0, 5, 2, 6, 0, by decide +kernel⟩⟩

/-- States and operands that meet the hypotheses of BindingFetchAndDispatch. -/
theorem witness_BindingFetchAndDispatch :
  (∃ (s : State) (c : Cmd) (b : Binding) (g : Nat),
    s.inv = true ∧
      headCmd s 32 = some c ∧
        g = bits (cP0 c.word) 0 7 ∧
          holdsCore s c.part.toNat g = true ∧
            b =
                { mode := BitVec.ofNat 2 (bits (cP0 c.word) 8 2), dir := BitVec.ofNat 48 (cAddr0 c.word),
                  dlen := BitVec.ofNat 16 (bits (cP0 c.word) 16 16), first := cSteep c.word,
                  slotMap := BitVec.ofNat 48 (cP1 c.word), kvMap := BitVec.ofNat 48 (cP2 c.word) } ∧
              bits (cP0 c.word) 8 2 ≠ 3 ∧
                (bits (cP0 c.word) 8 2 ≠ 0 →
                    b.dlen.toNat ≠ 0 ∧
                      b.dir.toNat % 16 = 0 ∧
                        (bits (cP0 c.word) 8 2 = 1 → b.dlen.toNat = stepLen s) ∧
                          ∀ i < b.dlen.toNat,
                            entryWindows s c.part.toNat b i = true ∧
                              checkEntry s c.part.toNat b (cSteep c.word) i = none) ∧
                  boundariesKnown s = true ∧ atLeast20us s (cSteep c.word) = true) ∧
  (∃ (s : State) (c : Cmd),
    headCmd s 32 = some c ∧ holdsCore s c.part.toNat (bits (cP0 c.word) 0 7) = false) ∧
  (∃ (s : State) (core : BitVec 7) (b : Binding),
    s.inv = true ∧ (coreOf s core.toNat).pendingBind = some b ∧ hasBegun s b.first = true) ∧
  (∃ (s : State) (core : BitVec 7) (b : Binding),
    s.inv = true ∧ (coreOf s core.toNat).pendingBind = some b ∧ hasBegun s b.first = false) ∧
  (∃ (s : State) (core : BitVec 7),
    s.inv = true ∧
      boundariesKnown s = true ∧
        (coreOf s core.toNat).fetch = FetchState.idle ∧
          (isServe (bindingAt s core.toNat (s.steep.k + 1)) = true ∨
            isTrain (bindingAt s core.toNat (s.steep.k + 1)) = true)) ∧
  (∃ (s : State) (core : BitVec 7) (env : ReadEnv) (a : Nat) (n : Nat) (l : Nat) (c : BitVec 256) (r :
    Bool × State) (r' : Bool × State),
    s.inv = true ∧
      (coreOf s core.toNat).fetch = FetchState.fetching ∧
        a = nextImageAddr s core.toNat (bindingAt s core.toNat (s.steep.k + 1)) ∧
          c =
              kvCtlAt s (bindingAt s core.toNat (s.steep.k + 1))
                (entryOf (bindingAt s core.toNat (s.steep.k + 1)) (s.steep.k + 1) (sidxNext s)) ∧
            n = imageBytes (headerAt s a) ∧
              (l = if kValid c = true then 32 * kNcmd c else 0) ∧
                windowOk s (coreOwnerD s core.toNat) a 64 = true ∧
                  windowOk s (coreOwnerD s core.toNat) a n = true ∧
                    (l ≠ 0 → windowOk s (coreOwnerD s core.toNat) (kSlist c) l = true) ∧
                      r = verifyRange env a n (bringUpsets core.toNat env s) ∧
                        r' = verifyRange env (kSlist c) l r.2) ∧
  (∃ (s : State) (u : State) (core : BitVec 7) (stream : Bool) (w : BitVec 128),
    s.inv = true ∧
      isLocked s = true ∧
        (coreOf s core.toNat).faulted = none ∧
          (coreOf s core.toNat).aborted = false ∧
            (∀ (b : Binding), (coreOf s core.toNat).pendingBind = some b → hasBegun s b.first = false) ∧
              (coreOf s core.toNat).heldUntil ≤ s.clock ∧
                u =
                    untilClock (coreOf s core.toNat).dispatchAt
                      (untilTime (dieClock s core.toNat (s.steep.b + 16)) s) ∧
                  (stream ≠ (coreOf s core.toNat).lastDispatch ∨
                      (dispatchable u.clock (coreOf s core.toNat) !stream) = none) ∧
                    dispatchable u.clock (coreOf s core.toNat) stream = some w ∧ decodeOk w = true) ∧
  (∃ (s : State) (u : State) (core : BitVec 7) (stream : Bool) (w : BitVec 128),
    s.inv = true ∧
      isLocked s = true ∧
        (coreOf s core.toNat).faulted = none ∧
          (coreOf s core.toNat).aborted = false ∧
            (∀ (b : Binding), (coreOf s core.toNat).pendingBind = some b → hasBegun s b.first = false) ∧
              (coreOf s core.toNat).heldUntil ≤ s.clock ∧
                u =
                    untilClock (coreOf s core.toNat).dispatchAt
                      (untilTime (dieClock s core.toNat (s.steep.b + 16)) s) ∧
                  (stream ≠ (coreOf s core.toNat).lastDispatch ∨
                      (dispatchable u.clock (coreOf s core.toNat) !stream) = none) ∧
                    dispatchable u.clock (coreOf s core.toNat) stream = some w ∧ decodeOk w = false) :=
  ⟨by refine ⟨withCfg 0x3010 1 1 (cmdState (cmdOfs 0x20 [(192, 64, 1000)])), cmdFor 0 (cmdOfs 0x20 [(192, 64, 1000)]), _, _, ?_, ?_, rfl, ?_, rfl, ?_⟩ <;> decide +kernel,
   ⟨withCmd (cmdFor 1 (cmdOfs 0x20 [])) (lockedAt 0x40), cmdFor 1 (cmdOfs 0x20 []), by decide +kernel⟩,
   ⟨coreWith { pendingBind := some { first := 0 } }, 0, { first := 0 }, by decide +kernel⟩,
   ⟨coreWith { pendingBind := some { first := 7 } }, 0, { first := 7 }, by decide +kernel⟩,
   ⟨coreWith { binding := { mode := 2 } }, 0, by decide +kernel⟩,
   by refine ⟨windowed { coreWith { fetch := .fetching } with hbm := { filled := true } }, 0, {}, _, _, _, _, _, _, ?_, ?_, rfl, rfl, rfl, rfl, ?_, ?_, ?_, rfl, rfl⟩ <;> decide +kernel,
   by refine ⟨{ lockedAt 0x40 with prog := { cores := [(0, { image := some { image0 with ops0 := [opOf [(0, 8, 0xA0)]] } })] } }, _, 0, false, opOf [(0, 8, 0xA0)], ?_, ?_, ?_, ?_, ?_, ?_, rfl, ?_⟩ <;> decide +kernel,
   by refine ⟨{ lockedAt 0x40 with prog := { cores := [(0, { image := some { image0 with ops0 := [0] } })] } }, _, 0, false, 0, ?_, ?_, ?_, ?_, ?_, ?_, rfl, ?_⟩ <;> decide +kernel⟩

/-- States and operands that meet the hypotheses of TransferOpsMoveAndSend. -/
theorem witness_TransferOpsMoveAndSend :
  (∃ (s : State) (u : State) (v : State) (core : BitVec 7) (stream : Bool) (env : ReadEnv)
    (q : QOp) (rs : List MemRange) (x : Option Nat),
    s.inv = true ∧
      starting s core.toNat 112 stream = some q ∧
        starting (bringUpsets core.toNat env s) core.toNat 112 stream = some q ∧
          engineTurn s (oF q.word 56 4) core.toNat = true ∧
            opRuleOk q.word = true ∧
              rs = tileRanges (descriptorRange q.word) ∧
                readFails (bringUpsets core.toNat env s) core.toNat rs = false ∧
                  v = startedReading core.toNat q rs (bringUpsets core.toNat env s) ∧
                    transferAll (transferOne env core.toNat (decide (oF q.word 56 4 = 8)))
                          (opDescriptors s core.toNat q.word)
                          { v with prog := { v.prog with engines := sput 0 (16 * (core.toNat / 32) + oF q.word 56 4) core.toNat s.prog.engines } } =
                        (x, u) ∧
                      x = none) ∧
  (∃ (s : State) (u : State) (v : State) (core : BitVec 7) (stream : Bool) (env : ReadEnv)
    (q : QOp) (rs : List MemRange) (x : Option Nat) (c : Nat),
    s.inv = true ∧
      starting s core.toNat 112 stream = some q ∧
        starting (bringUpsets core.toNat env s) core.toNat 112 stream = some q ∧
          engineTurn s (oF q.word 56 4) core.toNat = true ∧
            opRuleOk q.word = true ∧
              rs = tileRanges (descriptorRange q.word) ∧
                readFails (bringUpsets core.toNat env s) core.toNat rs = false ∧
                  v = startedReading core.toNat q rs (bringUpsets core.toNat env s) ∧
                    transferAll (transferOne env core.toNat (decide (oF q.word 56 4 = 8)))
                          (opDescriptors s core.toNat q.word)
                          { v with prog := { v.prog with engines := sput 0 (16 * (core.toNat / 32) + oF q.word 56 4) core.toNat s.prog.engines } } =
                        (x, u) ∧
                      x = some c ∧ c ≠ 7) ∧
  (∃ (s : State) (u : State) (v : State) (core : BitVec 7) (stream : Bool) (env : ReadEnv)
    (q : QOp) (rs : List MemRange) (x : Option Nat) (ws : List RemoteWrite),
    s.inv = true ∧
      starting (bringUpsets core.toNat env s) core.toNat 128 stream = some q ∧
        rs = tileRanges (descriptorRange q.word) ∧
          readFails (bringUpsets core.toNat env s) core.toNat rs = false ∧
            v = startedReading core.toNat q rs (bringUpsets core.toNat env s) ∧
              putAll env core.toNat (opDescriptors s core.toNat q.word) v = ((x, ws), u)) ∧
  (∃ (s : State) (u : State) (v : State) (core : BitVec 7) (stream : Bool) (q : QOp) (rs :
    List MemRange) (ds : List (BitVec 512)) (n : Nat) (x : Option Nat),
    s.inv = true ∧
      starting s core.toNat 129 stream = some q ∧
        rs = tileRanges (descriptorRange q.word) ∧
          readFails s core.toNat rs = false ∧
            v = startedReading core.toNat q rs s ∧
              ds =
                  List.map
                    (fun (d : BitVec 512) => if descriptorOk 3 d = true then withFeed s core.toNat d else d)
                    (opDescriptors s core.toNat q.word) ∧
                getAll core.toNat q.index 0 0 ds v = ((x, n), u) ∧ x = none) ∧
  (∃ (s : State) (u : State) (v : State) (core : BitVec 7) (stream : Bool) (q : QOp) (rs :
    List MemRange) (ds : List (BitVec 512)) (n : Nat) (x : Option Nat) (c : Nat),
    s.inv = true ∧
      starting s core.toNat 129 stream = some q ∧
        rs = tileRanges (descriptorRange q.word) ∧
          readFails s core.toNat rs = false ∧
            v = startedReading core.toNat q rs s ∧
              ds =
                  List.map
                    (fun (d : BitVec 512) => if descriptorOk 3 d = true then withFeed s core.toNat d else d)
                    (opDescriptors s core.toNat q.word) ∧
                getAll core.toNat q.index 0 0 ds v = ((x, n), u) ∧ x = some c ∧ c ≠ 7) ∧
  (∃ (s : State) (u : State) (v : State) (core : BitVec 7) (stream : Bool) (q : QOp) (rs :
    List MemRange) (n : Nat) (x : Option Nat),
    s.inv = true ∧
      starting s core.toNat 130 stream = some q ∧
        rs = tileRanges (descriptorRange q.word) ∧
          readFails s core.toNat rs = false ∧
            v = startedReading core.toNat q rs s ∧
              collAll core.toNat 0 0 (opDescriptors s core.toNat q.word) v = ((x, n), u) ∧ x = none) ∧
  (∃ (s : State) (u : State) (v : State) (core : BitVec 7) (stream : Bool) (q : QOp) (rs :
    List MemRange) (n : Nat) (x : Option Nat) (c : Nat),
    s.inv = true ∧
      starting s core.toNat 130 stream = some q ∧
        rs = tileRanges (descriptorRange q.word) ∧
          readFails s core.toNat rs = false ∧
            v = startedReading core.toNat q rs s ∧
              collAll core.toNat 0 0 (opDescriptors s core.toNat q.word) v = ((x, n), u) ∧ x = some c ∧ c ≠ 7) :=
  ⟨by refine ⟨queuedMem (opOf [(0, 8, 0x70)]) [(0x060000000010, 64)], _, _, 0, false, {}, qop (opOf [(0, 8, 0x70)]), _, _, ?_, ?_, ?_, ?_, ?_, rfl, ?_, rfl, Prod.mk.eta.symm, ?_⟩ <;> decide +kernel,
   by refine ⟨queuedMem (opOf [(0, 8, 0x70)]) [], _, _, 0, false, {}, qop (opOf [(0, 8, 0x70)]), _, _, 2, ?_, ?_, ?_, ?_, ?_, rfl, ?_, rfl, Prod.mk.eta.symm, ?_⟩ <;> decide +kernel,
   by refine ⟨queuedMem (opOf [(0, 8, 0x80)]) [(0x060000000010, 64), (0x060000000014, 40)], _, _, 0, false, {}, qop (opOf [(0, 8, 0x80)]), _, _, _, ?_, ?_, rfl, ?_, rfl, eta3⟩ <;> decide +kernel,
   by refine ⟨queuedMem (opOf [(0, 8, 0x81)]) [(0x060000000010, 64), (0x060000000014, 5)], _, _, 0, false, qop (opOf [(0, 8, 0x81)]), _, _, _, _, ?_, ?_, rfl, ?_, rfl, rfl, eta3, ?_⟩ <;> decide +kernel,
   by refine ⟨queuedMem (opOf [(0, 8, 0x81)]) [], _, _, 0, false, qop (opOf [(0, 8, 0x81)]), _, _, _, _, 2, ?_, ?_, rfl, ?_, rfl, rfl, eta3, ?_⟩ <;> decide +kernel,
   by refine ⟨withCfg 0x7300 1 7 (queuedMem (opOf [(0, 8, 0x82)]) [(0x060000000025, 16)]), _, _, 0, false, qop (opOf [(0, 8, 0x82)]), _, _, _, ?_, ?_, rfl, ?_, rfl, eta3, ?_⟩ <;> decide +kernel,
   by refine ⟨queuedMem (opOf [(0, 8, 0x82)]) [], _, _, 0, false, qop (opOf [(0, 8, 0x82)]), _, _, _, 2, ?_, ?_, rfl, ?_, rfl, eta3, ?_⟩ <;> decide +kernel⟩

/-- States and operands that meet the hypotheses of ReductionOpsSendTheirUnits. -/
theorem witness_ReductionOpsSendTheirUnits :
  (∃ (s : State) (u : State) (v : State) (w : State) (core : BitVec 7) (stream :
    Bool) (q : QOp) (rs : List MemRange) (us : List RedUnit),
    s.inv = true ∧
      starting s core.toNat 96 stream = some q ∧
        oF q.word 56 4 = 0 ∧
          rs = tileRanges (descriptorRange q.word) ∧
            readFails s core.toNat rs = false ∧
              w = startedReading core.toNat q rs s ∧
                redAll core.toNat 0 (opDescriptors s core.toNat q.word) w = ((none, us), u) ∧
                  sendUnits core.toNat us u = (true, v)) ∧
  (∃ (s : State) (u : State) (v : State) (w : State) (core : BitVec 7) (stream :
    Bool) (q : QOp) (rs : List MemRange) (us : List RedUnit),
    s.inv = true ∧
      starting s core.toNat 97 stream = some q ∧
        oF q.word 56 4 = 0 ∧
          rs = tileRanges (descriptorRange q.word) ∧
            readFails s core.toNat rs = false ∧
              w = startedReading core.toNat q rs s ∧
                redAll core.toNat 2 (opDescriptors s core.toNat q.word) w = ((none, us), u) ∧
                  sendUnits core.toNat us u = (true, v)) ∧
  (∃ (s : State) (u : State) (v : State) (w : State) (core : BitVec 7) (stream :
    Bool) (q : QOp) (rs : List MemRange) (us : List RedUnit),
    s.inv = true ∧
      starting s core.toNat 99 stream = some q ∧
        oF q.word 56 4 = 0 ∧
          rs = tileRanges (descriptorRange q.word) ∧
            readFails s core.toNat rs = false ∧
              w = startedReading core.toNat q rs s ∧
                redAll core.toNat 3 (opDescriptors s core.toNat q.word) w = ((none, us), u) ∧
                  sendUnits core.toNat us u = (true, v)) ∧
  (∃ (s : State) (core : BitVec 7) (stream : Bool) (q : QOp) (op : Nat) (i : Instr),
    s.inv = true ∧
      (op, i) ∈
          [(96, Instr.redAdd core stream), (97, Instr.redMax core stream), (99, Instr.redZero core stream)] ∧
        starting s core.toNat op stream = some q ∧
          oF q.word 56 4 ≠ 0 ∧ readFails s core.toNat (tileRanges (descriptorRange q.word)) = false) ∧
  (∃ (s : State) (u : State) (v : State) (core : BitVec 7) (stream : Bool) (q : QOp) (rs :
    List MemRange) (n : Nat),
    s.inv = true ∧
      starting s core.toNat 98 stream = some q ∧
        rs = tileRanges (descriptorRange q.word) ∧
          readFails s core.toNat rs = false ∧
            v = startedReading core.toNat q rs s ∧
              updAll core.toNat (oF q.word 56 4) q.index 0 (opDescriptors s core.toNat q.word) v = ((none, n), u)) :=
  ⟨by refine ⟨windowed (queuedMem (opOf [(0, 8, 0x60)]) [(0x060000000023, 1), (0x060000000028, 0x80)]), _, _, _, 0, false, qop (opOf [(0, 8, 0x60)]), _, _, ?_, ?_, ?_, rfl, ?_, rfl, pairOf2 ?_, pairOf ?_⟩ <;> decide +kernel,
   by refine ⟨windowed (queuedMem (opOf [(0, 8, 0x61)]) [(0x060000000023, 1), (0x060000000028, 0x80)]), _, _, _, 0, false, qop (opOf [(0, 8, 0x61)]), _, _, ?_, ?_, ?_, rfl, ?_, rfl, pairOf2 ?_, pairOf ?_⟩ <;> decide +kernel,
   by refine ⟨windowed (queuedMem (opOf [(0, 8, 0x63)]) [(0x060000000023, 1), (0x060000000028, 0x80)]), _, _, _, 0, false, qop (opOf [(0, 8, 0x63)]), _, _, ?_, ?_, ?_, rfl, ?_, rfl, pairOf2 ?_, pairOf ?_⟩ <;> decide +kernel,
   ⟨queuedMem (opOf [(0, 8, 0x60), (56, 4, 1)]) [], 0, false, qop (opOf [(0, 8, 0x60), (56, 4, 1)]), 0x60, .redAdd 0 false, by decide +kernel⟩,
   by refine ⟨queuedMem (opOf [(0, 8, 0x62)]) [], _, _, 0, false, qop (opOf [(0, 8, 0x62)]), _, _, ?_, ?_, rfl, ?_, rfl, pairOf2 ?_⟩ <;> decide +kernel⟩

/-- States and operands that meet the hypotheses of StrainCommandsWriteTileMemory. -/
theorem witness_StrainCommandsWriteTileMemory :
  (∃ (s : State) (core : BitVec 7) (w : BitVec 256),
    s.inv = true ∧
      strainNow s core.toNat 1 = some w ∧
        sLayer w < kvL s (coreOwnerD s core.toNat) ∧ sHead w < kvH s (coreOwnerD s core.toNat)) ∧
  (∃ (s : State) (core : BitVec 7) (w : BitVec 256) (key : Nat → BitVec 20 × Nat),
    s.inv = true ∧
      strainNow s core.toNat 2 = some w ∧
        key = fun (j : Nat) =>
          if sKsrc w = true then
            ((batchRow s core.toNat ((sKbase w + j) % 4096)).seq,
              (batchRow s core.toNat ((sKbase w + j) % 4096)).qpos.toNat)
          else ((batchRow s core.toNat (sRow w)).seq, sKbase w + j)) ∧
  (∃ (s : State) (core : BitVec 7) (w : BitVec 256) (n : Nat),
    s.inv = true ∧
      strainNow s core.toNat 3 = some w ∧
        sLayer w < kvL s (coreOwnerD s core.toNat) ∧
          n = kvH s (coreOwnerD s core.toNat) * kvD s (coreOwnerD s core.toNat) ∧
            readFails s core.toNat
                (tileRanges
                  (List.flatMap
                    (fun (i : Nat) =>
                      [(sSaddr w + i * sSstride w, sRowBytes w n), (sXaddr w + i * sSstride w, sRowBytes w n)])
                    (appRows s core.toNat w))) =
              false) ∧
  (∃ (s : State) (core : BitVec 7) (w : BitVec 256) (q : Nat → List Byte × Byte × List Nat),
    s.inv = true ∧
      strainNow s core.toNat 4 = some w ∧
        readFails s core.toNat (tileRanges (strainSource s w)) = false ∧
          (if sOrient w = true then decide (sRows w ≤ 192) && decide (sCols w ≤ 128)
              else decide (sRows w ≤ 128) && decide (sCols w ≤ 192)) =
              true ∧
            q = fun (b : Nat) =>
              quantise
                (List.map
                  (fun (x : Nat × Nat) =>
                    if sOrient w = true then strainElem s core.toNat w (16 * (b / 8) + x.1) (16 * (b % 8) + x.2)
                    else strainElem s core.toNat w (16 * (b % 8) + x.2) (16 * (b / 8) + x.1))
                  blockIndices)) ∧
  (∃ (s : State) (core : BitVec 7) (w : BitVec 256) (q : Nat → Nat → List Byte × Byte × List Nat),
    s.inv = true ∧
      strainNow s core.toNat 5 = some w ∧
        readFails s core.toNat (tileRanges (strainSource s w)) = false ∧
          sRows w ≤ 512 ∧
            sCols w ≤ 512 ∧
              q = fun (c b : Nat) =>
                quantise
                  (List.map (fun (i : Nat) => strainElem s core.toNat w (32 * b + i) c)
                    (List.range (min 32 (sRows w - 32 * b))))) ∧
  (∃ (s : State) (core : BitVec 7) (env : ReadEnv) (w : BitVec 256) (c : Instr),
    s.inv = true ∧
      (c = Instr.gather core env ∧
          strainNow s core.toNat 1 = some w ∧
            (kvL s (coreOwnerD s core.toNat) ≤ sLayer w ∨ kvH s (coreOwnerD s core.toNat) ≤ sHead w) ∨
        c = Instr.append core ∧ strainNow s core.toNat 3 = some w ∧ kvL s (coreOwnerD s core.toNat) ≤ sLayer w ∨
          (c = Instr.block core ∧
              strainNow s core.toNat 4 = some w ∧
                if sOrient w = true then 192 < sRows w ∨ 128 < sCols w else 128 < sRows w ∨ 192 < sCols w) ∨
            c = Instr.trans core ∧ strainNow s core.toNat 5 = some w ∧ (512 < sRows w ∨ 512 < sCols w))) :=
  ⟨⟨strainOn 1, 0, 1, by decide +kernel⟩,
   by refine ⟨strainOn 2, 0, 2, _, ?_, ?_, rfl⟩ <;> decide +kernel,
   by refine ⟨withCfg 0x2501 1 1 (strainOn 3), 0, 3, _, ?_, ?_, ?_, rfl, ?_⟩ <;> decide +kernel,
   by refine ⟨strainOn 4, 0, 4, _, ?_, ?_, ?_, ?_, rfl⟩ <;> decide +kernel,
   by refine ⟨strainOn 5, 0, 5, _, ?_, ?_, ?_, ?_, ?_, rfl⟩ <;> decide +kernel,
   ⟨strainOn (setFld 5 212 12 600), 0, {}, setFld 5 212 12 600, .trans 0, by decide +kernel, Or.inr (Or.inr (Or.inr (by decide +kernel)))⟩⟩

/-- States and operands that meet the hypotheses of AdmissionSortsPublishesAndFeeds. -/
theorem witness_AdmissionSortsPublishesAndFeeds :
  (∃ (s : State),
    lockedNext s = true ∧
      s.ad.sorted ≠ some (s.steep.k + 1) ∧
        (∀ (e : BitVec 64), s.dict.commit = some e → s.steep.k.toNat < e.toNat) ∧
          s.steep.decision = 0 ∧ s.inv = true) ∧
  (∃ (s : State), s.ad.sorted = some (s.steep.k + 1) ∧ s.ad.prefetch = []) ∧
  (∃ (s : State) (die : BitVec 2) (didx : BitVec 16) (addr : BitVec 48) (env : ReadEnv) (f : Nat),
    s.ad.prefetch.contains (die, didx, addr.toNat / 4096 * 4096) = true ∧
      isSettled s didx.toNat = true ∧
        pairOk s (dSlot (descOf s didx.toNat)) (dKgen (descOf s didx.toNat)) = true ∧
          caddyHit s die.toNat (descOf s didx.toNat) (addr.toNat / 4096 * 4096) = none ∧
            (verifyBlock env (addr.toNat / 4096 * 4096 / 4096) s).1 = false ∧
              List.find?
                  (fun (f : Nat) =>
                    !(List.filter (fun (x : CaddyBlock) => decide (x.part.toNat = dPart (descOf s didx.toNat)))
                            (caddyOf s die.toNat)).any
                        fun (x : CaddyBlock) => decide (x.frame = f))
                  (List.range (shareBytes s (dPart (descOf s didx.toNat)) / 4096)) =
                some f) ∧
  (∃ (s : State) (die : BitVec 2) (didx : BitVec 16) (addr : BitVec 48) (env : ReadEnv),
    s.ad.prefetch.contains (die, didx, addr.toNat / 4096 * 4096) = true ∧
      isSettled s didx.toNat = true ∧
        pairOk s (dSlot (descOf s didx.toNat)) (dKgen (descOf s didx.toNat)) = true ∧
          caddyHit s die.toNat (descOf s didx.toNat) (addr.toNat / 4096 * 4096) = none ∧
            (verifyBlock env (addr.toNat / 4096 * 4096 / 4096) s).1 = true) ∧
  (∃ (s : State), s.ad.sorted = some (s.steep.k + 1) ∧ s.ad.published = false) ∧
  (∃ (s : State) (core : BitVec 7),
    boundariesKnown s = true ∧
      (coreOf s core.toNat).fetch = FetchState.done ∧ (coreOf s core.toNat).prefilling = false) ∧
  (∃ (s : State) (u : State) (core : BitVec 7) (slot : BitVec 2) (ringB : Bool) (env : ReadEnv) (b
    : Binding) (i : Nat) (img : Image) (r : SliceRef),
    s.inv = true ∧
      u = releaseSlices core.toNat (advanceCore core.toNat (bringUpsets core.toNat env s)) ∧
        infuserProgram u core.toNat = some (b, i, img) ∧
          (ringList u core.toNat b i img (coreOf u core.toNat).prefilling ringB
                  slot.toNat)[sget 0 (ringKey slot.toNat ringB) (coreOf u core.toNat).ringPos]? =
              some r ∧
            isSettled u r.didx = true ∧
              flipAhead u (coreOf u core.toNat).prefilling r.didx = false ∧
                List.foldl (fun (a : Nat) (x : RingSlice) => a + x.size) 0
                      (sget [] (ringKey slot.toNat ringB) (coreOf u core.toNat).rings) +
                    r.len ≤
                  (ringOf (slotCtlAt u b i slot.toNat) ringB).2) :=
  ⟨by refine ⟨lockedAt 0x40, ?_, ?_, fun e h => absurd h (by simp [lockedAt]), ?_⟩ <;> decide +kernel,
   ⟨{ lockedAt 0x40 with ad := { sorted := some 7 } }, by decide +kernel⟩,
   by refine ⟨withCfg 0x3013 1 1 { lockedAt 0x40 with ad := { prefetch := [(0, 1, 0)], descs := [(1, setFld desc1 80 16 1)] }, cust := { slots := [(0, { cur := some 0 })] }, hbm := { filled := true } }, 0, 1, 0, {}, 0, ?_, ?_, ?_, ?_, verifyBlock_untouched _ _ _ rfl rfl rfl (by decide +kernel), ?_⟩ <;> decide +kernel,
   ⟨withCfg 0x3013 1 1 { lockedAt 0x40 with ad := { prefetch := [(0, 1, 0)], descs := [(1, setFld desc1 80 16 1)] }, cust := { slots := [(0, { cur := some 0 })] } }, 0, 1, 0, {}, by decide +kernel⟩,
   ⟨{ lockedAt 0x40 with ad := { sorted := some 7 } }, by decide +kernel⟩,
   ⟨coreWith { fetch := .done }, 0, by decide +kernel⟩,
   by refine ⟨infusing, _, 0, 0, false, {}, { slotMap := 0x1000 }, 0, { image0 with header := setFld 0 192 8 1, ops0 := [opOf [(0, 8, 0x20), (82, 10, 16)]] }, { op := 0, seg := 0, scale := false, didx := 1, addr := 0, len := 384 }, ?_, rfl, ?_⟩ <;> decide +kernel⟩

/-- States and operands that meet the hypotheses of CopiesOfInputsOutputsAndBuffers. -/
theorem witness_CopiesOfInputsOutputsAndBuffers :
  (∃ (s : State) (u : State) (v : State) (queue : BitVec 13) (tag : BitVec 16) (host :
    HostMem) (r : Request) (res : Bool × Bool × List Byte),
    List.find?
          (fun (r : Request) =>
            decide (r.queue = queue) && decide (r.tag = tag) && decide (r.steep = some (s.steep.k + 1)) &&
                !r.copied &&
              !r.copyFailed)
          s.ad.requests =
        some r ∧
      u = untilTime (s.steep.b + 20000) s ∧
        ahead (guardTime u) u.time ≠ 0 ∧
          r.len ≤ r.rows * rowBytes s false r ∧
            pairOk s r.slot.toNat r.gen = true ∧ gcmFetch host r.input r.len r.slot.toNat r.gen u = (res, v)) ∧
  (∃ (s : State) (u : State) (queue : BitVec 13) (tag : BitVec 16) (r : Request),
    List.find?
          (fun (r : Request) =>
            decide (r.queue = queue) && decide (r.tag = tag) && decide (r.steep = some (s.steep.k + 1)) &&
                !r.copied &&
              !r.copyFailed)
          s.ad.requests =
        some r ∧
      u = untilTime (s.steep.b + 20000) s ∧ ahead (guardTime u) u.time = 0) ∧
  (∃ (s : State) (u : State) (queue : BitVec 13) (tag : BitVec 16) (r : Request),
    List.find?
          (fun (r : Request) =>
            decide (r.queue = queue) && decide (r.tag = tag) && decide (r.steep = some (s.steep.k + 1)) &&
                !r.copied &&
              !r.copyFailed)
          s.ad.requests =
        some r ∧
      u = untilTime (s.steep.b + 20000) s ∧
        ahead (guardTime u) u.time ≠ 0 ∧
          (r.rows * rowBytes s false r < r.len ∨ pairOk s r.slot.toNat r.gen = false)) ∧
  (∃ (s : State) (u : State) (v : State) (queue : BitVec 13) (tag : BitVec 16) (r :
    Request) (c : Cmd) (bytes : List Byte) (units : Option (List Byte)) (st : Nat) (info : Nat),
    List.find?
          (fun (r : Request) =>
            decide (r.queue = queue) && decide (r.tag = tag) && r.due && (cmdOf s r.cmd).isSome)
          s.ad.requests =
        some r ∧
      cmdOf s r.cmd = some c ∧
        st = (Option.map (fun (e : BitVec 8 × BitVec 8) => e.1.toNat) r.ending).getD 0 ∧
          (info =
              r.resBytes + if isStepGroup s r.part.toNat r.grp.toNat = true then r.step.toNat * 2 ^ 32 else 0) ∧
            xtsReadAt r.slot.toNat (rowAddr s true r r.row0) r.resBytes s = (bytes, u) ∧
              gcmSeal 1022 r.slot.toNat (bytes ++ List.replicate ((64 - r.resBytes % 64) % 64) 0) u = (units, v)) ∧
  (∃ (s : State) (part : BitVec 6) (seq : BitVec 20) (e : Nat × Nat × Nat),
    List.find? (fun (e : Nat × Nat × Nat) => decide (e.1 = seq.toNat)) (kvOf s part.toNat).copies = some e) :=
  ⟨by refine ⟨requestState { request0 with steep := some 7 }, _, _, 1, 0, [], { request0 with steep := some 7 }, _, ?_, rfl, ?_, ?_, ?_, rfl⟩ <;> decide +kernel,
   by refine ⟨{ requestState { request0 with steep := some 7 } with time := 3499000 }, _, 1, 0, { request0 with steep := some 7 }, ?_, rfl, ?_⟩ <;> decide +kernel,
   by refine ⟨requestState { request0 with steep := some 7, len := 1 }, _, 1, 0, { request0 with steep := some 7, len := 1 }, ?_, rfl, ?_⟩ <;> decide +kernel,
   by refine ⟨requestState { request0 with due := true, resBytes := 64, ending := some (0, 0) }, _, _, 1, 0, { request0 with due := true, resBytes := 64, ending := some (0, 0) }, cmdFor 0 0, _, _, _, _, ?_, ?_, rfl, rfl, Prod.mk.eta.symm, Prod.mk.eta.symm⟩ <;> decide +kernel,
   ⟨partState { kv := { copies := [(5, 1, 2)] } }, 0, 5, (5, 1, 2), by decide +kernel⟩⟩

/-- States and operands that meet the hypotheses of QueuesFetchAndComplete. -/
theorem witness_QueuesFetchAndComplete :
  (∃ (s : State) (fn : BitVec 6) (q : BitVec 13) (k : Queue),
    (partOf s fn.toNat).state ≠ PartState.absent ∧
      k = queueOf s q.toNat ∧ holdsQueue s fn.toNat q.toNat = true ∧ k.state = QueueState.active) ∧
  (∃ (s : State) (fn : BitVec 6) (q : BitVec 13) (k : Queue),
    (partOf s fn.toNat).state ≠ PartState.absent ∧
      k = queueOf s q.toNat ∧ (holdsQueue s fn.toNat q.toNat = false ∨ k.state = QueueState.disabled)) ∧
  (∃ (s : State) (w : BitVec 512) (q : Nat) (p : Nat),
    s.boot.shutdown = false ∧
      s.boot.pcieWidth ≠ 0 ∧
        nextQueue s = some q ∧ queueOwner s q = some p ∧ s.inv = true ∧ frontCheck s p q w = none) ∧
  (∃ (s : State) (w : BitVec 512) (q : Nat) (p : Nat) (order : Nat) (status : Nat),
    s.boot.shutdown = false ∧
      s.boot.pcieWidth ≠ 0 ∧
        nextQueue s = some q ∧ queueOwner s q = some p ∧ s.inv = true ∧ frontCheck s p q w = some (order, status)) ∧
  (∃ (s : State) (c : Cmd) (q : Nat), headCmd s 16 = some c ∧ q = bits (cP0 c.word) 0 13) ∧
  (∃ (s : State) (c : Cmd) (q : Nat), s.inv = true ∧ headCmd s 17 = some c ∧ q = bits (cP0 c.word) 0 13) ∧
  (∃ (s : State) (c : Cmd),
    List.find? (fun (c : Cmd) => !c.taken && decide (cOpcode c.word = 1)) s.front.cmds = some c) ∧
  (∃ (s : State) (queue : BitVec 13) (failed : Bool) (r : Machine.Compl) (k : Queue),
    List.find? (fun (r : Machine.Compl) => decide (r.queue = queue) && r.copied) s.front.ready = some r ∧
      k = queueOf s queue.toNat ∧
        k.deleting = none ∧
          r.pgen = (partOf s r.part.toNat).gen ∧
            k.state ≠ QueueState.disabled ∧
              (k.cqTail + 1) % k.cqSize ≠ k.cqHead ∧ s.boot.pcieWidth ≠ 0 ∧ failed = false) ∧
  (∃ (s : State) (queue : BitVec 13) (failed : Bool) (r : Machine.Compl) (k : Queue),
    List.find? (fun (r : Machine.Compl) => decide (r.queue = queue) && r.copied) s.front.ready = some r ∧
      k = queueOf s queue.toNat ∧
        k.deleting = none ∧
          r.pgen = (partOf s r.part.toNat).gen ∧
            k.state ≠ QueueState.disabled ∧
              (k.cqTail + 1) % k.cqSize ≠ k.cqHead ∧ s.boot.pcieWidth ≠ 0 ∧ failed = true) ∧
  (∃ (s : State) (queue : BitVec 13) (r : Machine.Compl) (k : Queue),
    List.find? (fun (r : Machine.Compl) => decide (r.queue = queue) && r.copied) s.front.ready = some r ∧
      k = queueOf s queue.toNat ∧
        k.deleting = none ∧
          r.pgen = (partOf s r.part.toNat).gen ∧
            (k.state = QueueState.disabled ∨ (k.cqTail + 1) % k.cqSize = k.cqHead ∨ s.boot.pcieWidth = 0)) ∧
  (∃ (s : State) (queue : BitVec 13) (r : Machine.Compl) (k : Queue),
    List.find? (fun (r : Machine.Compl) => decide (r.queue = queue) && r.copied) s.front.ready = some r ∧
      k = queueOf s queue.toNat ∧ k.deleting = none ∧ r.pgen ≠ (partOf s r.part.toNat).gen) :=
  ⟨by refine ⟨frontState { state := .running } { state := .active, sqSize := 4 }, 0, 1, _, ?_, rfl, ?_⟩ <;> decide +kernel,
   by refine ⟨frontState { state := .running } { state := .disabled, sqSize := 4 }, 0, 1, _, ?_, rfl, ?_⟩ <;> decide +kernel,
   ⟨frontState { state := .running } { state := .active, sqSize := 4, cqSize := 4, tail := 1 }, cmdOfs 0x61 [], 1, 0, by decide +kernel⟩,
   ⟨frontState { state := .running } { state := .active, sqSize := 4, cqSize := 4, tail := 1 }, 0, 1, 0, 1, 9, by decide +kernel⟩,
   ⟨cmdState (cmdOfs 0x10 [(352, 13, 5), (384, 16, 1), (400, 16, 1), (416, 8, 1)]), cmdFor 0 (cmdOfs 0x10 [(352, 13, 5), (384, 16, 1), (400, 16, 1), (416, 8, 1)]), 5, by decide +kernel⟩,
   ⟨withCmd (cmdFor 0 (cmdOfs 0x11 [(352, 13, 5)])) { lockedAt 0x40 with front := { queues := [(5, { state := .active })] } }, cmdFor 0 (cmdOfs 0x11 [(352, 13, 5)]), 5, by decide +kernel⟩,
   ⟨withCfg 0x2410 1 16 (cmdState (cmdOfs 0x01 [(325, 16, 1), (364, 2, 1)])), cmdFor 0 (cmdOfs 0x01 [(325, 16, 1), (364, 2, 1)]), by decide +kernel⟩,
   ⟨{ (frontState { state := .running } { state := .active, sqSize := 4, cqSize := 4 }) with front := { (frontState { state := .running } { state := .active, sqSize := 4, cqSize := 4 }).front with ready := [{ cmd := 7, stamp := 0, queue := 1, part := 0, tag := 0, pgen := 0, sqhead := 0, status := 0, detail := 0, info := 0, copied := true }] } }, 1, false, { cmd := 7, stamp := 0, queue := 1, part := 0, tag := 0, pgen := 0, sqhead := 0, status := 0, detail := 0, info := 0, copied := true }, { state := .active, sqSize := 4, cqSize := 4 }, by decide +kernel⟩,
   ⟨{ (frontState { state := .running } { state := .active, sqSize := 4, cqSize := 4 }) with front := { (frontState { state := .running } { state := .active, sqSize := 4, cqSize := 4 }).front with ready := [{ cmd := 7, stamp := 0, queue := 1, part := 0, tag := 0, pgen := 0, sqhead := 0, status := 0, detail := 0, info := 0, copied := true }] } }, 1, true, { cmd := 7, stamp := 0, queue := 1, part := 0, tag := 0, pgen := 0, sqhead := 0, status := 0, detail := 0, info := 0, copied := true }, { state := .active, sqSize := 4, cqSize := 4 }, by decide +kernel⟩,
   by refine ⟨{ frontState { state := .running } { state := .active, sqSize := 4, cqSize := 4 } with boot := {}, front := { (frontState { state := .running } { state := .active, sqSize := 4, cqSize := 4 }).front with ready := [{ cmd := 7, stamp := 0, queue := 1, part := 0, tag := 0, pgen := 0, sqhead := 0, status := 0, detail := 0, info := 0, copied := true }] } }, 1, { cmd := 7, stamp := 0, queue := 1, part := 0, tag := 0, pgen := 0, sqhead := 0, status := 0, detail := 0, info := 0, copied := true }, _, ?_, rfl, ?_⟩ <;> decide +kernel,
   by refine ⟨{ frontState { state := .running } { state := .active, sqSize := 4, cqSize := 4 } with front := { (frontState { state := .running } { state := .active, sqSize := 4, cqSize := 4 }).front with ready := [{ cmd := 7, stamp := 0, queue := 1, part := 0, tag := 0, pgen := 1, sqhead := 0, status := 0, detail := 0, info := 0, copied := true }] } }, 1, { cmd := 7, stamp := 0, queue := 1, part := 0, tag := 0, pgen := 1, sqhead := 0, status := 0, detail := 0, info := 0, copied := true }, _, ?_, rfl, ?_⟩ <;> decide +kernel⟩

/-- States and operands that meet the hypotheses of PartitionsEnableAndReset. -/
theorem witness_PartitionsEnableAndReset :
  (∃ (s : State) (fn : BitVec 6) (q : Machine.Partition),
    s.inv = true ∧ q = partOf s fn.toNat ∧ q.state = PartState.idle) ∧
  (∃ (s : State) (fn : BitVec 6),
    s.inv = true ∧ ((partOf s fn.toNat).state = PartState.running ∨ (partOf s fn.toNat).state = PartState.idle)) ∧
  (∃ (s : State) (fn : BitVec 6),
    s.inv = true ∧
      ((partOf s fn.toNat).state = PartState.absent ∨ (partOf s fn.toNat).state = PartState.resetting) ∧ fn ≠ 0) ∧
  (∃ (s : State), s.inv = true ∧ s.boot.vfEnable = true) ∧
  (∃ (s : State), s.inv = true ∧ (partOf s 0).state ≠ PartState.absent) ∧
  (∃ (s : State) (part : BitVec 6) (c : Nat),
    s.inv = true ∧
      (partOf s part.toNat).resetAt = some c ∧
        atBoundary s = true ∧ c + 40000 ≤ s.clock ∧ (s.steep.sidx = 0 ∨ hasTrain s part.toNat = false)) ∧
  (∃ (s : State) (part : BitVec 6) (c : Nat),
    s.inv = true ∧
      (partOf s part.toNat).resetAt = some c ∧
        (atBoundary s = false ∨ s.clock < c + 40000 ∨ s.steep.sidx ≠ 0 ∧ hasTrain s part.toNat = true)) :=
  ⟨⟨partState { state := .idle, asize := 0x00010001 }, 0, { state := .idle, asize := 0x00010001 }, by decide +kernel⟩,
   ⟨partState { state := .running }, 0, by decide +kernel⟩,
   ⟨lockedAt 0, 1, by decide +kernel⟩,
   ⟨vfState {}, by decide +kernel⟩,
   ⟨partState { state := .running }, by decide +kernel⟩,
   ⟨atB (partState { state := .resetting, resetAt := some 0 }), 0, 0, by decide +kernel⟩,
   ⟨partState { state := .resetting, resetAt := some 0 }, 0, 0, by decide +kernel⟩⟩

/-- States and operands that meet the hypotheses of InterfacesLockStartAndStop. -/
theorem witness_InterfacesLockStartAndStop :
  (∃ (s : State) (fn : BitVec 6),
    s.inv = true ∧ isTdi s fn.toNat = true ∧ (partOf s fn.toNat).tdi = TdiState.unlocked) ∧
  (∃ (s : State) (fn : BitVec 6),
    s.inv = true ∧ isTdi s fn.toNat = true ∧ (partOf s fn.toNat).tdi = TdiState.locked) ∧
  (∃ (s : State) (fn : BitVec 6),
    s.inv = true ∧ isTdi s fn.toNat = true ∧ (partOf s fn.toNat).tdi = TdiState.run) ∧
  (∃ (s : State) (fn : BitVec 6), (partOf s fn.toNat).state = PartState.absent) ∧
  (∃ (s : State) (fn : BitVec 6), (partOf s fn.toNat).state ≠ PartState.absent) ∧
  (∃ (s : State) (fn : BitVec 6) (m : List Byte),
    s.inv = true ∧
      fnExists s fn.toNat = true ∧ s.boot.railHx = true ∧ s.cust.state = CustodyState.ready ∧ m.length = 32) ∧
  (∃ (s : State) (fn : BitVec 6) (m : List Byte),
    s.inv = true ∧
      fnExists s fn.toNat = true ∧
        s.boot.railHx = true ∧ s.cust.state = CustodyState.ready ∧ 1088 ≤ m.length ∧ (partOf s fn.toNat).doe ≠ []) ∧
  (∃ (s : State) (rate : Nat), ∃ width ≤ 16, rate ≤ 64 ∧ (partOf s 0).state ≠ PartState.absent) :=
  ⟨⟨vfState {}, 1, by decide +kernel⟩,
   ⟨vfState { tdi := .locked }, 1, by decide +kernel⟩,
   ⟨vfState { tdi := .run }, 1, by decide +kernel⟩,
   ⟨lockedAt 0, 1, by decide +kernel⟩,
   ⟨vfState { state := .running }, 1, by decide +kernel⟩,
   ⟨{ vfState {} with boot := { vfEnable := true, railHx := true } }, 1, List.replicate 32 0, by decide +kernel⟩,
   ⟨{ vfState { doe := [0] } with boot := { vfEnable := true, railHx := true } }, 1, List.replicate 1088 0, by decide +kernel⟩,
   ⟨partState { state := .running }, 64, 16, by decide +kernel⟩⟩

/-- States and operands that meet the hypotheses of DirtyLogsStartSwapAndStop. -/
theorem witness_DirtyLogsStartSwapAndStop :
  (∃ (s : State) (v : BitVec 512), s.inv = true ∧ v = 0) ∧
  (∃ (s : State) (v : BitVec 512), s.inv = true ∧ v ≠ 0 ∧ logParamsOk s v = true) ∧
  (∃ (s : State) (v : BitVec 512), s.inv = true ∧ v ≠ 0 ∧ logParamsOk s v = false) ∧
  (∃ (s : State), s.inv = true) ∧
  (∃ (s : State), s.inv = true ∧ atBoundary s = false) ∧
  (∃ (s : State), s.inv = true ∧ atBoundary s = true) :=
  ⟨⟨State.reset, 0, by decide +kernel⟩,
   ⟨withCfg 0x3020 1 0x10000000000000000000 State.reset, 0x10000, by decide +kernel⟩,
   ⟨State.reset, 1, by decide +kernel⟩,
   ⟨State.reset, by decide +kernel⟩,
   ⟨State.reset, by decide +kernel⟩,
   ⟨atB (lockedAt 0), by decide +kernel⟩⟩

/-- States and operands that meet the hypotheses of AdaptersAreCreatedReadMovedAndDestroyed. -/
theorem witness_AdaptersAreCreatedReadMovedAndDestroyed :
  (∃ (s : State) (host : HostMem) (c : Cmd),
    s.inv = true ∧ headCmd s 48 = some c ∧ hostRead host (cAddr0 c.word) 128 = none) ∧
  (∃ (s : State) (host : HostMem) (c : Cmd) (bs : List Byte) (d : BitVec 1024) (i : Nat),
    s.inv = true ∧
      headCmd s 48 = some c ∧
        hostRead host (cAddr0 c.word) 128 = some bs ∧
          d = BitVec.ofNat 1024 (leNat bs) ∧ i = firstFree 0 s.ad.descs) ∧
  (∃ (s : State) (u : State) (c : Cmd) (i : Nat),
    headCmd s 49 = some c ∧
      (if c.part.toNat = 0 then didxOf s (cAdid c.word) else didxFor s c.part.toNat (cAdid c.word)) = some i ∧
        u = readTable { } (descPlace i) s ∧ u.boot.stopped = none) ∧
  (∃ (s : State) (u : State) (c : Cmd) (i : Nat),
    headCmd s 49 = some c ∧
      (if c.part.toNat = 0 then didxOf s (cAdid c.word) else didxFor s c.part.toNat (cAdid c.word)) = some i ∧
        u = readTable { } (descPlace i) s ∧ u.boot.stopped ≠ none) ∧
  (∃ (s : State) (c : Cmd) (i : Nat) (new : BitVec 2),
    headCmd s 50 = some c ∧
      didxFor s c.part.toNat (cAdid c.word) = some i ∧
        new = BitVec.ofNat 2 (cP0 c.word) ∧
          moveOk (dState (descOf s i)) new = true ∧
            boundariesKnown s = true ∧ atLeast20us s (cSteep c.word) = true) ∧
  (∃ (s : State) (c : Cmd) (i : Nat) (new : BitVec 2),
    headCmd s 50 = some c ∧
      didxFor s c.part.toNat (cAdid c.word) = some i ∧
        new = BitVec.ofNat 2 (cP0 c.word) ∧ (moveOk (dState (descOf s i)) new = false ∨ boundariesKnown s = false)) ∧
  (∃ (s : State) (c : Cmd) (i : Nat) (new : BitVec 2),
    headCmd s 50 = some c ∧
      didxFor s c.part.toNat (cAdid c.word) = some i ∧
        new = BitVec.ofNat 2 (cP0 c.word) ∧
          moveOk (dState (descOf s i)) new = true ∧
            boundariesKnown s = true ∧ atLeast20us s (cSteep c.word) = false) ∧
  (∃ (s : State) (didx : BitVec 16) (new : BitVec 2) (e : BitVec 64) (id : Nat) (d : BitVec 1024) (full :
    Bool),
    s.inv = true ∧
      sget none didx.toNat s.ad.pending = some (new, e, id) ∧
        d = descOf s didx.toNat ∧
          boundariesKnown s = true ∧
            s.steep.decision = 0 ∧
              moveDue d new e s.steep.k s.steep.sidx = true ∧
                cmdOf s id ≠ none ∧
                  full =
                    (quotaFull s (dPart d) 1 (shardsHere s didx.toNat).length ||
                      decide (262144 < List.length s.red.shards + (shardsHere s didx.toNat).length))) ∧
  (∃ (s : State) (c : Cmd) (i : Nat), headCmd s 51 = some c ∧ didxFor s c.part.toNat (cAdid c.word) = some i) ∧
  (∃ (s : State) (didx : BitVec 16),
    s.inv = true ∧ sget [] didx.toNat s.ad.destroying ≠ [] ∧ adapterNamed s (dAdid (descOf s didx.toNat)) = false) ∧
  (∃ (s : State) (didx : BitVec 16),
    s.inv = true ∧ sget [] didx.toNat s.ad.destroying ≠ [] ∧ adapterNamed s (dAdid (descOf s didx.toNat)) = true) ∧
  (∃ (s : State) (c : Cmd) (op : Nat) (x : Instr),
    headCmd s op = some c ∧
      (op = 49 ∧ x = Instr.adapterRead ∧ c.part ≠ 0 ∨
          op = 50 ∧ x = Instr.adapterState ∨
            op = 51 ∧ x = Instr.adapterDestroy ∨
              op = 52 ∧ x = Instr.adapterClaim ∨ op = 53 ∧ x = Instr.adapterRelease) ∧
        didxFor s c.part.toNat (cAdid c.word) = none) :=
  ⟨⟨cmdState (cmdOfs 0x30 []), [], cmdFor 0 (cmdOfs 0x30 []), by decide +kernel⟩,
   by refine ⟨{ cmdState (cmdOfs 0x30 []) with leaf := { activeGen := 3 } }, hostOf 0 (wordBytes image5), cmdFor 0 (cmdOfs 0x30 []), _, image5, 0, ?_, ?_, hostRead_hostOf (by decide +kernel) (by decide +kernel), ?_⟩ <;> decide +kernel,
   by refine ⟨{ adState desc1 (cmdOfs 0x31 [(288, 24, 5)]) with hbm := { filled := true } }, _, cmdFor 0 (cmdOfs 0x31 [(288, 24, 5)]), 1, ?_, ?_, rfl, (congrArg (fun t : State => t.boot.stopped) (readTable_same _ _ rfl rfl (by decide +kernel))).trans rfl⟩ <;> decide +kernel,
   by refine ⟨adState desc1 (cmdOfs 0x31 [(288, 24, 5)]), _, cmdFor 0 (cmdOfs 0x31 [(288, 24, 5)]), 1, ?_, ?_, rfl, ?_⟩ <;> decide +kernel,
   ⟨adState (setFld desc1 24 2 1) (cmdOfs 0x32 [(288, 24, 5), (192, 64, 1000), (352, 2, 3)]), cmdFor 0 (cmdOfs 0x32 [(288, 24, 5), (192, 64, 1000), (352, 2, 3)]), 1, 3, by decide +kernel⟩,
   ⟨adState desc1 (cmdOfs 0x32 [(288, 24, 5), (192, 64, 1000), (352, 2, 3)]), cmdFor 0 (cmdOfs 0x32 [(288, 24, 5), (192, 64, 1000), (352, 2, 3)]), 1, 3, by decide +kernel⟩,
   ⟨adState (setFld desc1 24 2 1) (cmdOfs 0x32 [(288, 24, 5), (352, 2, 3)]), cmdFor 0 (cmdOfs 0x32 [(288, 24, 5), (352, 2, 3)]), 1, 3, by decide +kernel⟩,
   ⟨{ adState (setFld desc1 24 2 1) 0 with ad := { descs := [(1, setFld desc1 24 2 1)], pending := [(1, some (3, 0, 7))] } }, 1, 3, 0, 7, setFld desc1 24 2 1, by decide +kernel⟩,
   ⟨adState desc1 (cmdOfs 0x33 [(288, 24, 5)]), cmdFor 0 (cmdOfs 0x33 [(288, 24, 5)]), 1, by decide +kernel⟩,
   ⟨{ lockedAt 0 with ad := { descs := [(1, desc1)], destroying := [(1, [7])] } }, 1, by decide +kernel⟩,
   ⟨{ lockedAt 0 with ad := { descs := [(1, desc1)], destroying := [(1, [7])], tables := infusing.ad.tables } }, 1, by decide +kernel⟩,
   ⟨cmdState (cmdOfs 0x33 [(288, 24, 5)]), cmdFor 0 (cmdOfs 0x33 [(288, 24, 5)]), 0x33, .adapterDestroy, by decide +kernel⟩⟩

/-- States and operands that meet the hypotheses of ExpertSlotClaimsAndReleases. -/
theorem witness_ExpertSlotClaimsAndReleases :
  (∃ (s : State) (c : Cmd) (i : Nat) (layer : Nat) (slot : Nat) (d : BitVec 1024),
    headCmd s 52 = some c ∧
      didxFor s c.part.toNat (cAdid c.word) = some i ∧
        layer = bits (cP0 c.word) 0 12 ∧ slot = bits (cP0 c.word) 16 4 ∧ d = descOf s i ∧ claimOk d layer = true) ∧
  (∃ (s : State) (c : Cmd) (i : Nat) (layer : Nat) (slot : Nat) (d : BitVec 1024),
    headCmd s 52 = some c ∧
      didxFor s c.part.toNat (cAdid c.word) = some i ∧
        layer = bits (cP0 c.word) 0 12 ∧ slot = bits (cP0 c.word) 16 4 ∧ d = descOf s i ∧ claimOk d layer = false) ∧
  (∃ (s : State) (sna : BitVec 16) (seq : BitVec 32),
    sna ≠ s.fab.sna ∧ (sget 0 sna.toNat s.ad.lastClaim).toNat < seq.toNat ∧ s.ad.ahead.contains (sna, seq) = false) ∧
  (∃ (s : State) (sna : BitVec 16) (seq : BitVec 32),
    sna = s.fab.sna ∨ seq.toNat ≤ (sget 0 sna.toNat s.ad.lastClaim).toNat ∨ s.ad.ahead.contains (sna, seq) = true) ∧
  (∃ (s : State) (c : Cmd) (i : Nat) (layer : Nat),
    headCmd s 53 = some c ∧
      didxFor s c.part.toNat (cAdid c.word) = some i ∧
        layer = bits (cP0 c.word) 0 12 ∧ claimOk (descOf s i) layer = true) ∧
  (∃ (s : State) (c : Cmd) (i : Nat) (layer : Nat),
    headCmd s 53 = some c ∧
      didxFor s c.part.toNat (cAdid c.word) = some i ∧
        layer = bits (cP0 c.word) 0 12 ∧ claimOk (descOf s i) layer = false) :=
  ⟨⟨adState (setFld desc1 30 1 1) (cmdOfs 0x34 [(288, 24, 5)]), cmdFor 0 (cmdOfs 0x34 [(288, 24, 5)]), 1, 0, 0, setFld desc1 30 1 1, by decide +kernel⟩,
   ⟨adState desc1 (cmdOfs 0x34 [(288, 24, 5)]), cmdFor 0 (cmdOfs 0x34 [(288, 24, 5)]), 1, 0, 0, desc1, by decide +kernel⟩,
   ⟨lockedAt 0x40, 0x20, 1, by decide +kernel⟩,
   ⟨lockedAt 0x40, 0x20, 0, by decide +kernel⟩,
   ⟨adState (setFld desc1 30 1 1) (cmdOfs 0x35 [(288, 24, 5)]), cmdFor 0 (cmdOfs 0x35 [(288, 24, 5)]), 1, 0, by decide +kernel⟩,
   ⟨adState desc1 (cmdOfs 0x35 [(288, 24, 5)]), cmdFor 0 (cmdOfs 0x35 [(288, 24, 5)]), 1, 0, by decide +kernel⟩⟩

/-- States and operands that meet the hypotheses of SequencesAreOpenedForkedClosedAndRead. -/
theorem witness_SequencesAreOpenedForkedClosedAndRead :
  (∃ (s : State) (c : Cmd) (p : Nat) (h : Nat) (b : Nat) (gen : BitVec 16),
    s.inv = true ∧
      headCmd s 64 = some c ∧
        p = c.part.toNat ∧
          (cAdid c.word = 0 ∨ didxFor s p (cAdid c.word) ≠ none) ∧
            (slotOf s (cSlot c.word)).gen = cGen c.word ∧
              bindGen s p = some gen ∧
                freeHandle s p = some h ∧
                  freeBuffer s p = some b ∧
                    quotaFull s p 2 1 = false ∧ cLen c.word = 0 ∧ (cfg s 9472 (p + 1) ≠ 0 ∨ cAddr0 c.word = 0)) ∧
  (∃ (s : State) (host : HostMem) (c : Cmd) (p : Nat) (h : Nat) (b : Nat) (gen : BitVec 16) (r :
    Bool × Bool × List Byte) (key : BitVec 256),
    s.inv = true ∧
      headCmd s 64 = some c ∧
        p = c.part.toNat ∧
          (cAdid c.word = 0 ∨ didxFor s p (cAdid c.word) ≠ none) ∧
            (slotOf s (cSlot c.word)).gen = cGen c.word ∧
              bindGen s p = some gen ∧
                freeHandle s p = some h ∧
                  freeBuffer s p = some b ∧
                    quotaFull s p 2 1 = false ∧
                      cfg s 9472 (p + 1) ≠ 0 ∧
                        cLen c.word ≠ 0 ∧
                          r = (gcmFetch host (cAddr0 c.word) (cLen c.word) (cSlot c.word) (cGen c.word) s).1 ∧
                            (slotOf s (cSlot c.word)).cur = some key) ∧
  (∃ (s : State) (c : Cmd) (p : Nat),
    headCmd s 64 = some c ∧
      p = c.part.toNat ∧
        (cfg s 9472 (p + 1) = 0 ∧ (cLen c.word ≠ 0 ∨ cAddr0 c.word ≠ 0) ∨
          cAdid c.word ≠ 0 ∧ didxFor s p (cAdid c.word) = none ∨
            (slotOf s (cSlot c.word)).gen ≠ cGen c.word ∨
              bindGen s p = none ∨ freeHandle s p = none ∨ freeBuffer s p = none ∨ quotaFull s p 2 1 = true)) ∧
  (∃ (s : State) (c : Cmd),
    headCmd s 65 = some c ∧
      ((seqOf s c.part.toNat (bits (cP1 c.word) 0 20)).state ≠ SeqState.opened ∨
        freeHandle s c.part.toNat = none ∨ quotaFull s c.part.toNat 2 1 = true)) ∧
  (∃ (s : State) (c : Cmd) (p : Nat) (h : Nat) (x : Sequence),
    s.inv = true ∧
      headCmd s 65 = some c ∧
        p = c.part.toNat ∧
          x = seqOf s p (bits (cP1 c.word) 0 20) ∧
            x.state = SeqState.opened ∧ freeHandle s p = some h ∧ quotaFull s p 2 1 = false) ∧
  (∃ (s : State) (c : Cmd) (p : Nat) (q : Nat) (x : Sequence),
    s.inv = true ∧
      headCmd s 66 = some c ∧
        p = c.part.toNat ∧
          q = bits (cP1 c.word) 0 20 ∧
            x = seqOf s p q ∧ x.closing = none ∧ (x.state = SeqState.opened ∨ x.state = SeqState.invalid)) ∧
  (∃ (s : State) (c : Cmd) (p : Nat) (q : Nat) (x : Sequence),
    s.inv = true ∧
      headCmd s 66 = some c ∧
        p = c.part.toNat ∧
          q = bits (cP1 c.word) 0 20 ∧
            x = seqOf s p q ∧ (x.closing ≠ none ∨ x.state = SeqState.free ∨ x.state = SeqState.closing)) ∧
  (∃ (s : State) (part : BitVec 6) (seq : BitVec 20) (x : Sequence) (id : Nat),
    s.inv = true ∧
      x = seqOf s part.toNat seq.toNat ∧
        x.closing = some id ∧ seqNamed s part.toNat seq.toNat = false ∧ cmdOf s id ≠ none) ∧
  (∃ (s : State) (c : Cmd) (x : Sequence),
    headCmd s 67 = some c ∧ x = seqOf s c.part.toNat (bits (cP1 c.word) 0 20)) :=
  ⟨⟨kvState [] (cmdOfs 0x40 [(325, 16, 1)]), cmdFor 0 (cmdOfs 0x40 [(325, 16, 1)]), 0, 1, 1, 0, by decide +kernel⟩,
   by refine ⟨withCfg 0x2500 1 1 { kvState [] (cmdOfs 0x40 [(325, 16, 1), (256, 32, 64)]) with cust := { slots := [(0, { cur := some 9 })] } }, [], cmdFor 0 (cmdOfs 0x40 [(325, 16, 1), (256, 32, 64)]), 0, 1, 1, 0, _, 9, ?_, ?_, ?_, ?_, ?_, ?_, ?_, ?_, ?_, ?_, ?_, rfl, ?_⟩ <;> decide +kernel,
   by refine ⟨kvState [] (cmdOfs 0x40 [(325, 16, 2)]), cmdFor 0 (cmdOfs 0x40 [(325, 16, 2)]), _, ?_, rfl, ?_⟩ <;> decide +kernel,
   ⟨kvState [] (cmdOfs 0x41 [(384, 20, 1)]), cmdFor 0 (cmdOfs 0x41 [(384, 20, 1)]), by decide +kernel⟩,
   ⟨kvState [(1, { state := .opened })] (cmdOfs 0x41 [(384, 20, 1)]), cmdFor 0 (cmdOfs 0x41 [(384, 20, 1)]), 0, 2, { state := .opened }, by decide +kernel⟩,
   ⟨kvState [(1, { state := .opened })] (cmdOfs 0x42 [(384, 20, 1)]), cmdFor 0 (cmdOfs 0x42 [(384, 20, 1)]), 0, 1, { state := .opened }, by decide +kernel⟩,
   ⟨kvState [(1, { state := .closing })] (cmdOfs 0x42 [(384, 20, 1)]), cmdFor 0 (cmdOfs 0x42 [(384, 20, 1)]), 0, 1, { state := .closing }, by decide +kernel⟩,
   ⟨kvState [(1, { state := .closing, closing := some 7 })] 0, 0, 1, { state := .closing, closing := some 7 }, 7, by decide +kernel⟩,
   ⟨kvState [(1, { state := .opened })] (cmdOfs 0x43 [(384, 20, 1)]), cmdFor 0 (cmdOfs 0x43 [(384, 20, 1)]), { state := .opened }, by decide +kernel⟩⟩

/-- States and operands that meet the hypotheses of KeysAreImportedAndRemoved. -/
theorem witness_KeysAreImportedAndRemoved :
  (∃ (s : State) (host : HostMem) (c : Cmd) (p : Nat),
    headCmd s 80 = some c ∧ p = c.part.toNat ∧ hostRead host (cAddr0 c.word) (cLen c.word) = none) ∧
  (∃ (s : State) (host : HostMem) (c : Cmd) (p : Nat) (blob : List Byte) (h : BitVec 512),
    headCmd s 80 = some c ∧
      p = c.part.toNat ∧
        hostRead host (cAddr0 c.word) (cLen c.word) = some blob ∧ h = BitVec.ofNat 512 (leNat (List.take 64 blob))) ∧
  (∃ (s : State) (slot : BitVec 13) (i : PendingImport) (k : KeySlot),
    s.inv = true ∧
      List.find? (fun (i : PendingImport) => decide (i.slot = slot) && hasBegun s i.steep) s.cust.imports =
          some i ∧
        k = slotOf s slot.toNat ∧ boundariesKnown s = true ∧ firstDue s slot i.cmd = true ∧ cmdOf s i.cmd ≠ none) ∧
  (∃ (s : State) (c : Cmd), headCmd s 81 = some c) ∧
  (∃ (s : State) (slot : BitVec 13) (r : PendingRemove) (k : KeySlot),
    s.inv = true ∧
      List.find? (fun (r : PendingRemove) => decide (r.slot = slot) && hasBegun s r.steep) s.cust.removes =
          some r ∧
        k = slotOf s slot.toNat ∧ boundariesKnown s = true ∧ firstDue s slot r.cmd = true ∧ cmdOf s r.cmd ≠ none) :=
  ⟨by refine ⟨keyState {} (cmdOfs 0x50 [(256, 32, 1200)]), [], cmdFor 0 (cmdOfs 0x50 [(256, 32, 1200)]), _, ?_, rfl, ?_⟩ <;> decide +kernel,
   ⟨keyState {} (cmdOfs 0x50 [(256, 32, 1200), (192, 64, 1000)]), hostOf 0 (wordBytes (blobHead 0) ++ List.replicate 1136 0), cmdFor 0 (cmdOfs 0x50 [(256, 32, 1200), (192, 64, 1000)]), _, _, _, by decide +kernel, rfl, hostRead_hostOf (by decide +kernel) (by decide +kernel), rfl⟩,
   ⟨{ keyState {} 0 with cust := { imports := [{ slot := 0, kgen := 1, mode := false, key := 9, consortium := false, members := [], steep := 0, receipt := 0, cmd := 7 }] } }, 0, { slot := 0, kgen := 1, mode := false, key := 9, consortium := false, members := [], steep := 0, receipt := 0, cmd := 7 }, {}, by decide +kernel⟩,
   ⟨keyState {} (cmdOfs 0x51 [(325, 16, 1), (192, 64, 1000)]), cmdFor 0 (cmdOfs 0x51 [(325, 16, 1), (192, 64, 1000)]), by decide +kernel⟩,
   ⟨{ keyState {} 0 with cust := { slots := [(0, { state := .loaded })], removes := [{ slot := 0, gen := 1, steep := 0, cmd := 7 }] } }, 0, { slot := 0, gen := 1, steep := 0, cmd := 7 }, { state := .loaded }, by decide +kernel⟩⟩

/-- States and operands that meet the hypotheses of KeysSweepScrubAndCutOver. -/
theorem witness_KeysSweepScrubAndCutOver :
  (∃ (s : State) (c : Cmd) (n : Nat), s.inv = true ∧ headCmd s 82 = some c ∧ n = cSlot c.word) ∧
  (∃ (s : State) (slot : BitVec 13) (k : KeySlot) (b : Nat) (key : BitVec 256),
    s.inv = true ∧
      k = slotOf s slot.toNat ∧
        k.state = SlotState.rotating ∧
          k.cur = some key ∧
            ((∃ (bs : List Nat), k.left = b :: bs) ∨
              k.left = [] ∧ ∃ (id : Nat) (bs : List Nat) (ws : List (Nat × List Nat)), k.sweeps = (id, b :: bs) :: ws)) ∧
  (∃ (s : State) (slot : BitVec 13) (k : KeySlot),
    s.inv = true ∧
      k = slotOf s slot.toNat ∧
        atBoundary s = true ∧
          k.state = SlotState.rotating ∧ k.left = [] ∧ k.sweeps = [] ∧ 1024 ≤ ahead s.steep.k k.since) ∧
  (∃ (s : State) (slot : BitVec 13) (k : KeySlot),
    s.inv = true ∧
      k = slotOf s slot.toNat ∧
        (atBoundary s = false ∨
          k.state ≠ SlotState.rotating ∨ k.left ≠ [] ∨ k.sweeps ≠ [] ∨ ahead s.steep.k k.since < 1024)) ∧
  (∃ (s : State) (slot : BitVec 13) (k : KeySlot) (b : Nat) (bs : List Nat),
    s.inv = true ∧ k = slotOf s slot.toNat ∧ k.state = SlotState.scrubbing ∧ k.left = b :: bs) ∧
  (∃ (s : State) (slot : BitVec 13) (k : KeySlot),
    s.inv = true ∧ k = slotOf s slot.toNat ∧ k.state = SlotState.scrubbing ∧ k.left = []) :=
  ⟨⟨keyState { state := .rotating } (cmdOfs 0x52 [(256, 32, 4096)]), cmdFor 0 (cmdOfs 0x52 [(256, 32, 4096)]), 0, by decide +kernel⟩,
   by refine ⟨keyState { state := .rotating, left := [5], cur := some 9 } 0, 0, _, 5, 9, ?_, rfl, ?_, ?_, Or.inl ⟨[], by decide +kernel⟩⟩ <;> decide +kernel,
   by refine ⟨atB { keyState { state := .rotating } 0 with steep := { (lockedAt 0).steep with k := 2000 } }, 0, _, ?_, rfl, ?_⟩ <;> decide +kernel,
   ⟨{ keyState { state := .rotating } 0 with steep := { (lockedAt 0).steep with k := 2000 } }, 0, { state := .rotating }, by decide +kernel⟩,
   by refine ⟨keyState { state := .scrubbing, left := [5] } 0, 0, _, 5, [], ?_, rfl, ?_⟩ <;> decide +kernel,
   ⟨keyState { state := .scrubbing } 0, 0, { state := .scrubbing }, by decide +kernel⟩⟩

/-- States and operands that meet the hypotheses of EvidenceCustodyFaultAndSealBreak. -/
theorem witness_EvidenceCustodyFaultAndSealBreak :
  (∃ (s : State) (boot : BitVec 32), s.cust.state = CustodyState.measure ∧ boot ≠ 0) ∧
  (∃ (s : State), s.inv = true ∧ s.cust.state = CustodyState.ready) ∧
  (∃ (s : State), s.inv = true ∧ s.cust.state ≠ CustodyState.ready) ∧
  (∃ (s : State) (clk : Nat) (id : Option Nat) (rest : List (Nat × Option Nat)),
    s.cust.requests = (clk, id) :: rest) ∧
  (∃ (s : State), custodyServes s = true) ∧
  (∃ (s : State), s.steep.engine ≠ EngineState.locked ∧ s.cust.state = CustodyState.ready) ∧
  (∃ (s : State) (clk : Nat),
    s.inv = true ∧
      s.cust.armed = some clk ∧
        s.steep.engine ≠ EngineState.locked ∧ s.cust.state = CustodyState.ready ∧ s.clock ≤ clk + 2000000000) ∧
  (∃ (s : State),
    s.inv = true ∧
      (s.cust.armed = none ∨
        s.steep.engine = EngineState.locked ∨
          s.cust.state ≠ CustodyState.ready ∨ ∃ (clk : Nat), s.cust.armed = some clk ∧ clk + 2000000000 < s.clock)) :=
  ⟨⟨{ State.reset with cust := { state := .measure } }, 1, by decide +kernel⟩,
   ⟨keyState {} 0, by decide +kernel⟩,
   ⟨State.reset, by decide +kernel⟩,
   ⟨{ keyState {} 0 with cust := { requests := [(0, some 7)] } }, 0, some 7, [], by decide +kernel⟩,
   ⟨keyState {} 0, by decide +kernel⟩,
   ⟨{ State.reset with cust := { state := .ready } }, by decide +kernel⟩,
   ⟨{ State.reset with cust := { state := .ready, armed := some 0 } }, 0, by decide +kernel⟩,
   ⟨keyState {} 0, by decide +kernel⟩⟩

/-- States and operands that meet the hypotheses of PortsTrainKeyCheckAndReset. -/
theorem witness_PortsTrainKeyCheckAndReset :
  (∃ (s : State) (port : BitVec 4) (q : Port),
    s.inv = true ∧
      q = portOf s port.toNat ∧
        q.state = PortState.down ∧
          s.fab.discovery ≠ DiscoveryState.off ∧
            q.absent = false ∧ q.noApplication = false ∧ port.toNat ∈ expectedPorts s ∧ s.boot.stopped = none) ∧
  (∃ (s : State) (port : BitVec 4) (q : Port),
    s.inv = true ∧
      q = portOf s port.toNat ∧
        (q.state ≠ PortState.down ∨
          s.fab.discovery = DiscoveryState.off ∨
            q.absent = true ∨ q.noApplication = true ∨ port.toNat ∉ expectedPorts s ∨ s.boot.stopped ≠ none)) ∧
  (∃ (s : State) (port : BitVec 4) (q : Port),
    s.inv = true ∧ q = portOf s port.toNat ∧ q.state = PortState.training) ∧
  (∃ (s : State) (port : BitVec 4) (q : Port),
    s.inv = true ∧ q = portOf s port.toNat ∧ q.state = PortState.keying) ∧
  (∃ (s : State) (port : BitVec 4) (q : Port),
    s.inv = true ∧ q = portOf s port.toNat ∧ q.state = PortState.checking) ∧
  (∃ (s : State) (port : BitVec 4) (q : Port) (sna : BitVec 16) (pp : BitVec 4) (digest : BitVec 256),
    s.inv = true ∧
      q = portOf s port.toNat ∧
        q.state = PortState.miswired ∧
          partnerOf s.fab.sna.toNat port.toNat = some (sna.toNat, pp.toNat) ∧ digest = q.partnerDigest) ∧
  (∃ (s : State) (port : BitVec 4) (q : Port) (sna : BitVec 16) (pp : BitVec 4) (digest : BitVec 256),
    s.inv = true ∧
      q = portOf s port.toNat ∧
        q.state = PortState.miswired ∧
          (partnerOf s.fab.sna.toNat port.toNat ≠ some (sna.toNat, pp.toNat) ∨ digest ≠ q.partnerDigest)) ∧
  (∃ (s : State) (port : BitVec 4) (q : Port),
    s.inv = true ∧ q = portOf s port.toNat ∧ q.state = PortState.up) :=
  ⟨by refine ⟨{ portState {} with fab := { (portState {}).fab with installed := 1 } }, 0, _, ?_, rfl, ?_⟩ <;> decide +kernel,
   ⟨portState {}, 0, {}, by decide +kernel⟩,
   ⟨portState { state := .training }, 0, { state := .training }, by decide +kernel⟩,
   ⟨portState { state := .keying }, 0, { state := .keying }, by decide +kernel⟩,
   ⟨portState { state := .checking }, 0, { state := .checking }, by decide +kernel⟩,
   by refine ⟨portState { state := .miswired }, 0, _, 0x60, 7, _, ?_, rfl, ?_, ?_, rfl⟩ <;> decide +kernel,
   by refine ⟨portState { state := .miswired }, 0, _, 0x60, 6, 0, ?_, rfl, ?_⟩ <;> decide +kernel,
   by refine ⟨portState { state := .up }, 0, _, ?_, rfl, ?_⟩ <;> decide +kernel⟩

/-- States and operands that meet the hypotheses of FramesAreAcceptedReplayedAndCredited. -/
theorem witness_FramesAreAcceptedReplayedAndCredited :
  (∃ (s : State) (port : BitVec 4) (q : Port),
    s.inv = true ∧ q = portOf s port.toNat ∧ (q.state ≠ PortState.up ∨ s.fab.discovery = DiscoveryState.alone)) ∧
  (∃ (s : State) (port : BitVec 4) (q : Port) (header : BitVec 64) (clean : Bool),
    s.inv = true ∧
      q = portOf s port.toNat ∧
        q.state = PortState.up ∧
          s.fab.discovery ≠ DiscoveryState.alone ∧ (clean = false ∨ fld header 52 12 ≠ q.rxSeq + 1)) ∧
  (∃ (s : State) (port : BitVec 4) (q : Port) (header : BitVec 64) (clean : Bool),
    s.inv = true ∧
      q = portOf s port.toNat ∧
        q.state = PortState.up ∧
          s.fab.discovery ≠ DiscoveryState.alone ∧ clean = true ∧ fld header 52 12 = q.rxSeq + 1) ∧
  (∃ (s : State) (port : BitVec 4) (q : Port),
    s.inv = true ∧ q = portOf s port.toNat ∧ q.state = PortState.up ∧ q.replay ≠ []) ∧
  (∃ (s : State) (port : BitVec 4) (q : Port),
    s.inv = true ∧ q = portOf s port.toNat ∧ q.state = PortState.up ∧ q.txKey ≠ none) ∧
  (∃ (s : State) (port : BitVec 4) (q : Port),
    s.inv = true ∧ q = portOf s port.toNat ∧ q.state = PortState.up ∧ q.txKey = none) ∧
  (∃ (s : State) (port : BitVec 4) (q : Port), s.inv = true ∧ q = portOf s port.toNat ∧ 8 ≤ port.toNat) ∧
  (∃ (s : State) (port : BitVec 4) (q : Port), s.inv = true ∧ q = portOf s port.toNat ∧ port.toNat < 8) ∧
  (∃ (s : State), s.inv = true) :=
  ⟨⟨portState {}, 8, {}, by decide +kernel⟩,
   ⟨portState { state := .up }, 0, { state := .up }, 0, false, by decide +kernel⟩,
   by refine ⟨portState { state := .up }, 0, _, 0, true, ?_, rfl, ?_⟩ <;> decide +kernel,
   ⟨portState { state := .up, replay := [{ lseq := 0, header := 0, net := 0, payload := [], tag := 0, replays := 0 }] }, 0, { state := .up, replay := [{ lseq := 0, header := 0, net := 0, payload := [], tag := 0, replays := 0 }] }, by decide +kernel⟩,
   by refine ⟨portState { state := .up, txKey := some 9 }, 0, _, ?_, rfl, ?_⟩ <;> decide +kernel,
   ⟨portState { state := .up, replay := [{ lseq := 0, header := 0, net := 0, payload := [], tag := 0, replays := 0 }] }, 0, { state := .up, replay := [{ lseq := 0, header := 0, net := 0, payload := [], tag := 0, replays := 0 }] }, by decide +kernel⟩,
   ⟨portState {}, 8, {}, by decide +kernel⟩,
   ⟨portState { state := .up, replay := [{ lseq := 0, header := 0, net := 0, payload := [], tag := 0, replays := 0 }] }, 0, { state := .up, replay := [{ lseq := 0, header := 0, net := 0, payload := [], tag := 0, replays := 0 }] }, by decide +kernel⟩,
   ⟨State.reset, by decide +kernel⟩⟩

/-- States and operands that meet the hypotheses of DiscoveryFloodsAndComputesRoutes. -/
theorem witness_DiscoveryFloodsAndComputesRoutes :
  (∃ (s : State), s.fab.discovery = DiscoveryState.off ∧ 8 ≤ s.boot.stage ∧ s.boot.status ≠ 2) ∧
  (∃ (s : State), s.fab.discovery ≠ DiscoveryState.off ∨ s.boot.stage < 8 ∨ s.boot.status = 2) ∧
  (∃ (s : State),
    s.fab.discovery = DiscoveryState.links ∧ ∀ p ∈ expectedPorts s, (portOf s p).state = PortState.up) ∧
  (∃ (s : State),
    s.fab.discovery = DiscoveryState.links ∧
      (∃ p ∈ expectedPorts s, (portOf s p).state ≠ PortState.up) ∧ upPorts s ≠ []) ∧
  (∃ (s : State),
    s.fab.discovery = DiscoveryState.links ∧
      (∃ p ∈ expectedPorts s, (portOf s p).state ≠ PortState.up) ∧ upPorts s = []) ∧
  (∃ (s : State), s.fab.discovery = DiscoveryState.links ∧ expectedPorts s ≠ [] ∧ upPorts s = []) ∧
  (∃ (s : State) (sna : BitVec 16) (ports : BitVec 64) (gen : BitVec 16) (d0 : BitVec 128) (d1 :
    BitVec 128) (ident : BitVec 256) (r : LinkState),
    r = { ports := ports, gen := gen, digest0 := d0, digest1 := d1, identity := ident } ∧
      s.fab.discovery ≠ DiscoveryState.off ∧
        s.fab.discovery ≠ DiscoveryState.alone ∧ sna ≠ s.fab.sna ∧ recordOf s sna.toNat ≠ some r) ∧
  (∃ (s : State) (sna : BitVec 16) (ports : BitVec 64) (gen : BitVec 16) (d0 : BitVec 128) (d1 :
    BitVec 128) (ident : BitVec 256) (r : LinkState),
    r = { ports := ports, gen := gen, digest0 := d0, digest1 := d1, identity := ident } ∧
      (s.fab.discovery = DiscoveryState.off ∨
        s.fab.discovery = DiscoveryState.alone ∨ sna = s.fab.sna ∨ recordOf s sna.toNat = some r)) ∧
  (∃ (s : State), s.fab.discovery = DiscoveryState.flood) ∧
  (∃ (s : State), s.fab.discovery = DiscoveryState.routes ∨ s.fab.discovery = DiscoveryState.complete) ∧
  (∃ (s : State), s.fab.discovery = DiscoveryState.complete) :=
  ⟨⟨{ State.reset with boot := { stage := 8 } }, by decide +kernel⟩,
   ⟨{ State.reset with fab := { sna := 0x40, installed := 1, discovery := .links, ports := (List.range 11).map fun i => (i, { state := .up }) } }, by decide +kernel⟩,
   ⟨{ State.reset with fab := { sna := 0x40, installed := 1, discovery := .links, ports := (List.range 11).map fun i => (i, { state := .up }) } }, by decide +kernel⟩,
   ⟨{ State.reset with fab := { sna := 0x40, installed := 1, discovery := .links, ports := [(0, { state := .up })] } }, by decide +kernel⟩,
   ⟨{ State.reset with fab := { sna := 0x40, installed := 1, discovery := .links } }, by decide +kernel⟩,
   ⟨{ State.reset with fab := { sna := 0x40, installed := 1, discovery := .links } }, by decide +kernel⟩,
   ⟨{ State.reset with fab := { sna := 0x40, discovery := .flood } }, 0x20, 1, 0, 0, 0, 0, { ports := 1 }, by decide +kernel⟩,
   ⟨{ State.reset with fab := { sna := 0x40, discovery := .flood, records := [(0x20, { ports := 1 })] } }, 0x20, 1, 0, 0, 0, 0, { ports := 1 }, by decide +kernel⟩,
   ⟨{ State.reset with fab := { discovery := .flood } }, by decide +kernel⟩,
   ⟨{ State.reset with fab := { discovery := .routes } }, by decide +kernel⟩,
   ⟨lockedAt 0, by decide +kernel⟩⟩

/-- States and operands that meet the hypotheses of PacketsRouteAndRemoteAccessesAnswer. -/
theorem witness_PacketsRouteAndRemoteAccessesAnswer :
  (∃ (s : State) (port : BitVec 4), lanesReady port s = []) ∧
  (∃ (s : State) (port : BitVec 4) (v : Nat) (lane : Nat) (frames : Nat) (dst : Nat) (hops : Nat) (e :
    BitVec 4 × BitVec 256 × List Byte) (u : State),
    s.inv = true ∧
      s.fab.discovery ≠ DiscoveryState.alone ∧
        nextLane s (portOf s port.toNat)
              (List.map (fun (r : Nat × (BitVec 4 × BitVec 256 × List Byte) × State) => r.1)
                (lanesReady port s)) =
            some (v, lane, frames) ∧
          List.find? (fun (r : Nat × (BitVec 4 × BitVec 256 × List Byte) × State) => decide (r.1 = v))
                (lanesReady port s) =
              some (v, e, u) ∧
            dst = (fld e.2.1 152 16).toNat ∧ hops = (fld e.2.1 109 3).toNat) ∧
  (∃ (s : State) (net : BitVec 256) (payload : List Byte) (h : BitVec 256 × State) (q : Nat),
    s.inv = true ∧
      s.fab.discovery ≠ DiscoveryState.alone ∧
        h = ownHeader net payload s ∧
          s.fab.fencedSnas.contains s.fab.sna = false ∧
            typeVl (fld net 128 8).toNat ≠ none ∧
              bit net 108 = false ∧
                fld net 152 16 ≠ s.fab.sna ∧
                  (countsShare (fld net 128 8).toNat &&
                        decide
                          (fabricAllowance s (netPart net) <
                            sget 0 (netPart net) s.fab.share + (8 + 32 + payload.length + 16))) =
                      false ∧
                    choosePort s (fld h.1 112 3).toNat 0 (candidates s (fld net 152 16).toNat) = some q ∧
                      canSend (portOf s q) (fld h.1 112 3).toNat 0 payload.length = true) ∧
  (∃ (s : State) (net : BitVec 256) (addr : BitVec 48) (unit : List Byte) (gcm : Bool) (put : PutOp) (n :
    Nat),
    s.inv = true ∧
      (n =
          (List.find?
                (fun (e : (BitVec 16 × BitVec 64 × PutOp) × Nat) =>
                  decide (e.1 = (netSrc net, netSteep s net, put)))
                s.fab.puts).elim
            1 fun (e : (BitVec 16 × BitVec 64 × PutOp) × Nat) => e.2 + 1) ∧
        windowOk s (netPart net) addr.toNat (unitLen gcm unit) = true) ∧
  (∃ (s : State) (net : BitVec 256) (addr : BitVec 48) (unit : List Byte) (gcm : Bool) (put : PutOp) (n :
    Nat),
    s.inv = true ∧
      (n =
          (List.find?
                (fun (e : (BitVec 16 × BitVec 64 × PutOp) × Nat) =>
                  decide (e.1 = (netSrc net, netSteep s net, put)))
                s.fab.puts).elim
            1 fun (e : (BitVec 16 × BitVec 64 × PutOp) × Nat) => e.2 + 1) ∧
        windowOk s (netPart net) addr.toNat (unitLen gcm unit) = false) ∧
  (∃ (s : State) (net : BitVec 256) (addr : BitVec 48) (len : BitVec 32) (slot : BitVec 13) (gen :
    BitVec 16), windowOk s (netPart net) addr.toNat len.toNat = true ∧ len ≠ 0 ∧ pairOk s slot.toNat gen = false) ∧
  (∃ (s : State) (net : BitVec 256) (addr : BitVec 48) (len : BitVec 32) (slot : BitVec 13) (gen :
    BitVec 16) (bs : List Byte) (unit : List Byte) (u : State) (v : State),
    windowOk s (netPart net) addr.toNat len.toNat = true ∧
      len ≠ 0 ∧
        pairOk s slot.toNat gen = true ∧
          inTileRegion addr.toNat = false ∧
            len.toNat ≤ 4096 ∧
              xtsReadAt slot.toNat addr.toNat len.toNat s = (bs, u) ∧
                sealOne 1021 slot.toNat 0 bs u = (some unit, v)) ∧
  (∃ (s : State) (net : BitVec 256) (addr : BitVec 48) (len : BitVec 32),
    windowOk s (netPart net) addr.toNat len.toNat = false ∨ len = 0) ∧
  (∃ (s : State) (net : BitVec 256) (core : BitVec 7) (op : BitVec 16) (offset : BitVec 40) (r : RunOp) (d
    : BitVec 512) (b : Nat),
    s.inv = true ∧
      runningOp s core.toNat op.toNat 129 = some r ∧
        descAt tLen offset.toNat 0 r.descs = some (d, b) ∧ bit net 108 = false) ∧
  (∃ (s : State) (core : BitVec 7) (op : BitVec 16) (r : RunOp),
    s.inv = true ∧
      runningOp s core.toNat op.toNat 130 = some r ∧
        (r.descs.any fun (d : BitVec 512) => decide (gOp d = 2)) = true) ∧
  (∃ (s : State) (core : BitVec 7) (op : BitVec 16) (offset : BitVec 32) (r : RunOp) (unit : List Byte) (bs
    : List Byte) (d : BitVec 512) (b : Nat),
    s.inv = true ∧
      runningOp s core.toNat op.toNat 130 = some r ∧
        unit ≠ [] ∧
          descAt gLen offset.toNat 0 r.descs = some (d, b) ∧
            gOp d < 2 ∧
              (gOp d ≠ 0 ∨ some (gRoot d) ≠ ownLdn s) ∧
                pairOk s (gSlot d) (gGen d) = true ∧
                  (gcmOpen s (gSlot d) (gGen d) ((offset.toNat - b) / 4096) unit).1 = some (true, bs)) ∧
  (∃ (s : State) (core : BitVec 7) (op : BitVec 16) (r : RunOp),
    s.inv = true ∧
      r ∈ (coreOf s core.toNat).running ∧ r.index = op ∧ r.awaiting ≠ 0 ∧ oOp r.word ∈ [96, 97, 99, 128, 130]) :=
  ⟨⟨lockedAt 0, 0, by decide +kernel⟩,
   by refine ⟨arrived 0 [], 0, 0, 1, 0, _, _, (0, 0, []), ((lanesReady 0 (arrived 0 [])).getD 0 (0, (0, 0, []), State.reset)).2.2, ?_, ?_, ?_, ?_, rfl, rfl⟩ <;> decide +kernel,
   by refine ⟨arrived 0 [], netTo 0x70 0x20, [], _, 0, ?_, ?_, rfl, ?_⟩ <;> decide +kernel,
   by refine ⟨windowed (lockedAt 0), 0, 0, List.replicate 64 1, false, { core := 0, op := 0, writes := 1 }, _, ?_, rfl, ?_⟩ <;> decide +kernel,
   by refine ⟨lockedAt 0, 0, 0, List.replicate 64 1, false, { core := 0, op := 0, writes := 1 }, _, ?_, rfl, ?_⟩ <;> decide +kernel,
   ⟨windowed (lockedAt 0), 0, 0, 64, 0, 2, by decide +kernel⟩,
   by refine ⟨windowed { lockedAt 0 with cust := { slots := [(0, { cur := some 9 })] } }, 0, 0, 64, 0, 1, _, _, _, _, ?_, ?_, ?_, ?_, ?_, Prod.mk.eta.symm, pairSome ?_⟩ <;> decide +kernel,
   ⟨lockedAt 0, 0, 0, 0, by decide +kernel⟩,
   ⟨coreWith { running := [awaiting 0x81 (setFld 0 128 32 64)] }, 0, 0, 3, 0, awaiting 0x81 (setFld 0 128 32 64), setFld 0 128 32 64, 0, by decide +kernel⟩,
   ⟨coreWith { running := [awaiting 0x82 (setFld 0 299 3 2)] }, 0, 3, awaiting 0x82 (setFld 0 299 3 2), by decide +kernel⟩,
   by refine ⟨{ coreWith { running := [awaiting 0x82 (setFld (setFld (setFld 0 299 3 1) 256 32 64) 336 16 1)] } with cust := { slots := [(0, { cur := some 9 })] } }, 0, 3, 0, awaiting 0x82 (setFld (setFld (setFld 0 299 3 1) 256 32 64) 336 16 1), _, _, setFld (setFld (setFld 0 299 3 1) 256 32 64) 336 16 1, 0, ?_, ?_, List.append_ne_nil_of_right_ne_nil _ (by simp), ?_, ?_, ?_, ?_, gcmOpen_sealed (hd := wordBytes (setFld (0 : BitVec 384) 195 16 1)) (ct := List.replicate 64 0) (k := 9) ?_ ?_ ?_ ?_ ?_ ?_ ?_⟩ <;> decide +kernel,
   ⟨coreWith { running := [awaiting 0x60 0] }, 0, 3, awaiting 0x60 0, by decide +kernel⟩⟩

/-- States and operands that meet the hypotheses of RollCallsContributionsAndCutoff. -/
theorem witness_RollCallsContributionsAndCutoff :
  (∃ (s : State) (ldn : BitVec 10) (asteep : BitVec 32) (records : List (BitVec 64)) (new :
    List (BitVec 24 × Nat × Nat)),
    new =
        List.filter (fun (r : BitVec 24 × Nat × Nat) => !heardFrom s r.1 ldn.toNat)
          (List.map (fun (r : BitVec 64) => (fld r 40 24, ldn.toNat, (fld r 24 16).toNat)) records) ∧
      asteep = asteepNow s) ∧
  (∃ (s : State) (ldn : BitVec 10) (asteep : BitVec 32) (records : List (BitVec 64)) (new :
    List (BitVec 24 × Nat × Nat)),
    new =
        List.filter (fun (r : BitVec 24 × Nat × Nat) => !heardFrom s r.1 ldn.toNat)
          (List.map (fun (r : BitVec 64) => (fld r 40 24, ldn.toNat, (fld r 24 16).toNat)) records) ∧
      asteep ≠ asteepNow s) ∧
  (∃ (payload : List Byte) (h : RedHeader), h = redHeader (BitVec.ofNat 256 (leNat (List.take 32 payload)))) ∧
  (∃ (s : State) (shard : BitVec 18) (x : Shard) (c : BitVec 7 × BitVec 16 × BitVec 32 × Bool),
    shardOf s shard.toNat = some x ∧
      x.cover = some c ∧ x.owned = true ∧ (x.state = ShardState.empty ∨ x.state = ShardState.gathering)) ∧
  (∃ (s : State) (shard : BitVec 18),
    ∀ (x : Shard),
      shardOf s shard.toNat = some x →
        x.cover = none ∨ x.owned = false ∨ x.state ≠ ShardState.empty ∧ x.state ≠ ShardState.gathering) ∧
  (∃ (s : State) (asteep : BitVec 32) (owner : BitVec 10) (missing : BitVec 16),
    ownRank s ≠ none ∧ asteep = asteepNow s ∧ missing ≠ 65535 ∧ snaOfLdn s owner.toNat ≠ none) ∧
  (∃ (s : State) (asteep : BitVec 32) (owner : BitVec 10) (missing : BitVec 16),
    ownRank s = none ∨ asteep ≠ asteepNow s ∨ missing = 65535 ∨ snaOfLdn s owner.toNat = none) ∧
  (∃ (s : State) (shard : BitVec 18) (x : Shard),
    shardOf s shard.toNat = some x ∧ x.owned = true ∧ x.state = ShardState.keeping) ∧
  (∃ (s : State) (shard : BitVec 18) (x : Shard),
    shardOf s shard.toNat = some x ∧ (x.owned = false ∨ x.state ≠ ShardState.keeping)) ∧
  (∃ (s : State) (shard : BitVec 18), shardOf s shard.toNat = none) :=
  ⟨⟨lockedAt 0, 1, 0, [7], _, rfl, by decide +kernel⟩,
   ⟨lockedAt 0, 1, 1, [7], _, rfl, by decide +kernel⟩,
   ⟨[], _, rfl⟩,
   ⟨shardState { shard0 with cover := some (0, 0, 0, false) } desc1, 3, { shard0 with cover := some (0, 0, 0, false) }, (0, 0, 0, false), by decide +kernel⟩,
   ⟨lockedAt 0, 3, fun x h => absurd h (by simp [shardOf, lockedAt, sget])⟩,
   ⟨lockedAt 0, 0, 1, 0, by decide +kernel⟩,
   ⟨lockedAt 0x40, 0, 1, 0, by decide +kernel⟩,
   ⟨shardState { shard0 with state := .keeping } desc1, 3, { shard0 with state := .keeping }, by decide +kernel⟩,
   ⟨shardState shard0 desc1, 3, shard0, by decide +kernel⟩,
   ⟨lockedAt 0, 3, by decide +kernel⟩⟩

/-- States and operands that meet the hypotheses of ShardsUpdateKeepPushAndRestore. -/
theorem witness_ShardsUpdateKeepPushAndRestore :
  (∃ (s : State) (shard : BitVec 18),
    ∀ (x : Shard), shardOf s shard.toNat = some x → x.owned = false ∨ x.state ≠ ShardState.updating) ∧
  (∃ (s : State) (s0 : State) (shard : BitVec 18) (env : ReadEnv) (x : Shard) (d : BitVec 1024),
    shardOf s shard.toNat = some x ∧
      x.owned = true ∧
        x.state = ShardState.updating ∧
          s0 = readTable env (descPlace x.didx.toNat) (readTable env (shardPlace shard.toNat) s) ∧
            d = shardDesc s0 x ∧ s0.boot.stopped ≠ none) ∧
  (∃ (s : State) (s0 : State) (shard : BitVec 18) (env : ReadEnv) (x : Shard) (d : BitVec 1024),
    shardOf s shard.toNat = some x ∧
      x.owned = true ∧
        x.state = ShardState.updating ∧
          s0 = readTable env (descPlace x.didx.toNat) (readTable env (shardPlace shard.toNat) s) ∧
            d = shardDesc s0 x ∧ s0.boot.stopped = none ∧ dState d = adInvalid) ∧
  (∃ (s : State) (s0 : State) (shard : BitVec 18) (env : ReadEnv) (x : Shard) (d : BitVec 1024),
    shardOf s shard.toNat = some x ∧
      x.owned = true ∧
        x.state = ShardState.updating ∧
          s0 = readTable env (descPlace x.didx.toNat) (readTable env (shardPlace shard.toNat) s) ∧
            d = shardDesc s0 x ∧ s0.boot.stopped = none ∧ dState d ≠ adInvalid ∧ frameLost s0 x = true) ∧
  (∃ (s : State) (s0 : State) (shard : BitVec 18) (env : ReadEnv) (x : Shard) (d : BitVec 1024) (v
    : Bool × State) (r : Bool × State),
    shardOf s shard.toNat = some x ∧
      x.owned = true ∧
        x.state = ShardState.updating ∧
          s0 = readTable env (descPlace x.didx.toNat) (readTable env (shardPlace shard.toNat) s) ∧
            d = shardDesc s0 x ∧
              s0.boot.stopped = none ∧
                dState d ≠ adInvalid ∧
                  frameLost s0 x = false ∧
                    v =
                        List.foldl
                          (fun (acc : Bool × State) (b : Nat) =>
                            (acc.1 || (verifyBlock env b acc.2).1, (verifyBlock env b acc.2).2))
                          (false, s0)
                          (List.filter (fun (b : Nat) => decide ((blockOf s0 b).atag = asteepNow s0))
                            (blocksOf (eOaddr x.word, 4 * shardSize x))) ∧
                      r =
                          restoreBlocks env (dSlot d)
                            (framePageBlocks x (dRole d)
                              (if (ruleAt v.2 (dRule d) 5).getLsbD 1 = true then 4 else 2))
                            v.2 ∧
                        v.1 = true) ∧
  (∃ (s : State) (s0 : State) (shard : BitVec 18) (env : ReadEnv) (x : Shard) (d : BitVec 1024) (v
    : Bool × State) (r : Bool × State),
    shardOf s shard.toNat = some x ∧
      x.owned = true ∧
        x.state = ShardState.updating ∧
          s0 = readTable env (descPlace x.didx.toNat) (readTable env (shardPlace shard.toNat) s) ∧
            d = shardDesc s0 x ∧
              s0.boot.stopped = none ∧
                dState d ≠ adInvalid ∧
                  frameLost s0 x = false ∧
                    v =
                        List.foldl
                          (fun (acc : Bool × State) (b : Nat) =>
                            (acc.1 || (verifyBlock env b acc.2).1, (verifyBlock env b acc.2).2))
                          (false, s0)
                          (List.filter (fun (b : Nat) => decide ((blockOf s0 b).atag = asteepNow s0))
                            (blocksOf (eOaddr x.word, 4 * shardSize x))) ∧
                      r =
                          restoreBlocks env (dSlot d)
                            (framePageBlocks x (dRole d)
                              (if (ruleAt v.2 (dRule d) 5).getLsbD 1 = true then 4 else 2))
                            v.2 ∧
                        v.1 = false ∧ r.1 = false) ∧
  (∃ (s : State) (s0 : State) (shard : BitVec 18) (env : ReadEnv) (x : Shard) (d : BitVec 1024) (v
    : Bool × State) (r : Bool × State) (mf : Nat) (size : Nat) (old : Nat) (new : Nat) (rule :
    Nat → BitVec 32) (acc : List (BitVec 32) × State) (masters : List Byte × State) (moments :
    List Byte × State) (grad : BitVec 32 → BitVec 32) (us : List Updated),
    shardOf s shard.toNat = some x ∧
      x.owned = true ∧
        x.state = ShardState.updating ∧
          s0 = readTable env (descPlace x.didx.toNat) (readTable env (shardPlace shard.toNat) s) ∧
            d = shardDesc s0 x ∧
              s0.boot.stopped = none ∧
                dState d ≠ adInvalid ∧
                  frameLost s0 x = false ∧
                    v =
                        List.foldl
                          (fun (acc : Bool × State) (b : Nat) =>
                            (acc.1 || (verifyBlock env b acc.2).1, (verifyBlock env b acc.2).2))
                          (false, s0)
                          (List.filter (fun (b : Nat) => decide ((blockOf s0 b).atag = asteepNow s0))
                            (blocksOf (eOaddr x.word, 4 * shardSize x))) ∧
                      r =
                          restoreBlocks env (dSlot d)
                            (framePageBlocks x (dRole d)
                              (if (ruleAt v.2 (dRule d) 5).getLsbD 1 = true then 4 else 2))
                            v.2 ∧
                        v.1 = false ∧
                          r.1 = true ∧
                            rule = ruleAt r.2 (dRule d) ∧
                              (mf = if (rule 5).getLsbD 1 = true then 4 else 2) ∧
                                size = shardSize x ∧
                                  old = framePage x (dRole d) ∧
                                    new = framePage x !dRole d ∧
                                      acc = readAccumulator x (dSlot d) (asteepNow r.2) r.2 ∧
                                        masters = xtsReadAt (dSlot d) old (2 * size) acc.2 ∧
                                          moments =
                                              xtsReadAt (dSlot d) (old + momentOffset size) (mf * size)
                                                masters.2 ∧
                                            (grad = fun (v : BitVec 32) =>
                                                match x.cover with
                                                | some (_, _, _, true) =>
                                                  if shardWindows r.2 x = 0 then 0
                                                  else
                                                    fp32
                                                      ((ofFp32 v).mul
                                                        (ofFp32 (fDiv 1065353216 (fNat (shardWindows r.2 x)))))
                                                | some (_, _, γ, false) => fp32 ((ofFp32 γ).mul (ofFp32 v))
                                                | none => 0) ∧
                                              us =
                                                List.map
                                                  (fun (e : Nat × BitVec 32) =>
                                                    updateOne rule (engineRounding r.2 (eOaddr x.word + 4 * e.1))
                                                      (grad e.2)
                                                      (BitVec.ofNat 32
                                                        (if mf = 4 then
                                                          leNat (List.take mf (List.drop (mf * e.1) moments.1))
                                                        else
                                                          leNat (List.take mf (List.drop (mf * e.1) moments.1)) *
                                                            65536))
                                                      (sgn 16
                                                        (leNat (List.take 2 (List.drop (2 * e.1) masters.1))))
                                                      (layerEntry moments.2 d (eLayer x.word)).1
                                                      (layerEntry moments.2 d (eLayer x.word)).2)
                                                  (indexed acc.1)) ∧
  (∃ (s : State) (shard : BitVec 18), shardOf s shard.toNat = none) ∧
  (∃ (s : State) (shard : BitVec 18) (x : Shard) (d : BitVec 1024) (size : Nat),
    shardOf s shard.toNat = some x ∧
      d = shardDesc s x ∧ size = shardSize x ∧ (x.owned = true ∨ frameLost s x = true)) ∧
  (∃ (s : State) (shard : BitVec 18) (slot : BitVec 13) (gen : BitVec 16) (x : Shard) (d : BitVec 1024)
    (size : Nat),
    shardOf s shard.toNat = some x ∧
      d = shardDesc s x ∧
        size = shardSize x ∧
          x.owned = false ∧ frameLost s x = false ∧ (pairOk s slot.toNat gen = false ∨ slot.toNat ≠ dSlot d)) ∧
  (∃ (s : State) (shard : BitVec 18) (slot : BitVec 13) (gen : BitVec 16) (x : Shard) (d : BitVec 1024)
    (size : Nat),
    shardOf s shard.toNat = some x ∧
      d = shardDesc s x ∧
        size = shardSize x ∧
          x.owned = false ∧ frameLost s x = false ∧ pairOk s slot.toNat gen = true ∧ slot.toNat = dSlot d) ∧
  (∃ (s : State) (adid : BitVec 24), didxOf s adid = none) ∧
  (∃ (s : State) (adid : BitVec 24) (stepc : BitVec 32) (i : Nat) (d : BitVec 1024),
    didxOf s adid = some i ∧ d = descOf s i ∧ stepc ≠ dStepc d) ∧
  (∃ (s : State) (adid : BitVec 24) (stepc : BitVec 32) (slot : BitVec 13) (gen : BitVec 16) (i : Nat) (d :
    BitVec 1024),
    didxOf s adid = some i ∧
      d = descOf s i ∧ stepc = dStepc d ∧ (pairOk s slot.toNat gen = false ∨ slot.toNat ≠ dSlot d)) ∧
  (∃ (s : State) (adid : BitVec 24) (stepc : BitVec 32) (slot : BitVec 13) (gen : BitVec 16) (i : Nat) (d :
    BitVec 1024),
    didxOf s adid = some i ∧
      d = descOf s i ∧ stepc = dStepc d ∧ pairOk s slot.toNat gen = true ∧ slot.toNat = dSlot d) ∧
  (∃ (s : State) (adid : BitVec 24) (offsets : List (BitVec 48)) (i : Nat) (d : BitVec 1024) (xs :
    List Shard) (asked : Shard → List Nat),
    didxOf s adid = some i ∧
      d = descOf s i ∧
        xs = List.filterMap (shardOf s) (ownedShards s fun (x : Shard) => decide (x.didx.toNat = i)) ∧
          asked = fun (x : Shard) =>
            List.filter (fun (o : Nat) => offsets.any fun (q : BitVec 48) => decide (q.toNat = o)) (imageUnits s x)) :=
  ⟨⟨lockedAt 0, 3, fun x h => absurd h (by simp [shardOf, lockedAt, sget])⟩,
   by refine ⟨{ shardState { shard0 with state := .updating } (setFld desc1 24 2 2) with hbm := {} }, _, 3, {}, { shard0 with state := .updating }, _, ?_, ?_, ?_, rfl, rfl, ?_⟩ <;> decide +kernel,
   by refine ⟨shardState { shard0 with state := .updating } desc1, shardState { shard0 with state := .updating } desc1, 3, {}, { shard0 with state := .updating }, _, ?_, ?_, ?_, readTables_same rfl (by decide +kernel), rfl, ?_⟩ <;> decide +kernel,
   by refine ⟨lostState, lostState, 3, {}, lostShard, _, ?_, ?_, ?_, readTables_same rfl (by decide +kernel), rfl, ?_⟩ <;> decide +kernel,
   by refine ⟨badState 0 5, badState 0 5, 3, {}, { shard0 with state := .updating }, _, _, _, ?_, ?_, ?_, readTables_same rfl (by decide +kernel), rfl, ?_, ?_, ?_, rfl, rfl, ?_⟩ <;> decide +kernel,
   by refine ⟨badState 1 0, badState 1 0, 3, {}, { shard0 with state := .updating }, _, _, _, ?_, ?_, ?_, readTables_same rfl (by decide +kernel), rfl, ?_, ?_, ?_, rfl, rfl, ?_⟩ <;> decide +kernel,
   by refine ⟨shardState { shard0 with state := .updating } (setFld desc1 24 2 2), shardState { shard0 with state := .updating } (setFld desc1 24 2 2), 3, {}, { shard0 with state := .updating }, _, (false, shardState { shard0 with state := .updating } (setFld desc1 24 2 2)), (true, shardState { shard0 with state := .updating } (setFld desc1 24 2 2)), _, _, _, _, _, _, _, _, _, _, ?_, ?_, ?_, readTables_same rfl (by decide +kernel), rfl, ?_, ?_, ?_, by rw [show List.filter _ _ = ([] : List Nat) from by decide +kernel]; rfl, (restoreBlocks_same _ _ _ rfl (by decide +kernel)).symm, rfl, rfl, rfl, rfl, rfl, rfl, rfl, rfl, rfl, rfl, rfl, rfl⟩ <;> decide +kernel,
   ⟨lockedAt 0, 3, by decide +kernel⟩,
   by refine ⟨shardState shard0 desc1, 3, shard0, _, _, ?_, rfl, rfl, ?_⟩ <;> decide +kernel,
   by refine ⟨shardState { shard0 with owned := false } desc1, 3, 0, 2, { shard0 with owned := false }, _, _, ?_, rfl, rfl, ?_⟩ <;> decide +kernel,
   by refine ⟨shardState { shard0 with owned := false } desc1, 3, 0, 1, { shard0 with owned := false }, _, _, ?_, rfl, rfl, ?_⟩ <;> decide +kernel,
   ⟨lockedAt 0, 5, by decide +kernel⟩,
   ⟨shardState shard0 desc1, 5, 1, 1, desc1, by decide +kernel⟩,
   by refine ⟨shardState shard0 desc1, 5, 0, 0, 7, 1, _, ?_, rfl, ?_⟩ <;> decide +kernel,
   ⟨shardState shard0 desc1, 5, 0, 0, 1, 1, desc1, by decide +kernel⟩,
   ⟨shardState shard0 desc1, 5, [0], 1, _, _, _, by decide +kernel, rfl, rfl, rfl⟩⟩

/-- States and operands that meet the hypotheses of CommitFlipsAndAbortKeeps. -/
theorem witness_CommitFlipsAndAbortKeeps :
  (∃ (s : State), s.inv = true ∧ s.steep.decision = 1) ∧
  (∃ (s : State), s.steep.decision = 2) ∧
  (∃ (s : State), s.steep.decision ≠ 1) ∧
  (∃ (s : State), s.steep.decision ≠ 2) :=
  ⟨⟨{ lockedAt 0 with steep := { (lockedAt 0).steep with decision := 1 } }, by decide +kernel⟩,
   ⟨{ lockedAt 0 with steep := { (lockedAt 0).steep with decision := 2 } }, by decide +kernel⟩,
   ⟨lockedAt 0, by decide +kernel⟩,
   ⟨lockedAt 0, by decide +kernel⟩⟩

/-- States and operands that meet the hypotheses of TakeoverOrdersReadyAndEffect. -/
theorem witness_TakeoverOrdersReadyAndEffect :
  (∃ (s : State) (ldn : BitVec 10) (failed : BitVec 16) (chosen : BitVec 16),
    s.inv = true ∧ s.steep.master.orders.contains (ldn, failed, chosen) = false) ∧
  (∃ (s : State) (ldn : BitVec 10) (failed : BitVec 16) (chosen : BitVec 16),
    s.inv = true ∧ s.steep.master.orders.contains (ldn, failed, chosen) = true) ∧
  (∃ (s : State) (ask : RestoreAsk), isLocked s = false ∨ ask.step ∉ [1, 2, 5, 6]) ∧
  (∃ (s : State) (ask : RestoreAsk), isLocked s = true ∧ ask.step = 1) ∧
  (∃ (s : State) (ask : RestoreAsk), isLocked s = true ∧ ask.step = 2) ∧
  (∃ (s : State) (ask : RestoreAsk), isLocked s = true ∧ (ask.step = 5 ∨ ask.step = 6)) ∧
  (∃ (s : State), s.fab.restore = none) ∧
  (∃ (s : State) (ldn : BitVec 10) (n : Nat) (step : BitVec 8),
    s.fab.restore = some (ldn, n) ∧ n ≠ step.toNat) ∧
  (∃ (s : State) (ldn : BitVec 10) (n : Nat) (step : BitVec 8),
    s.fab.restore = some (ldn, n) ∧ n = step.toNat ∧ 2 ≤ s.fab.restoreWait) ∧
  (∃ (s : State) (ldn : BitVec 10) (n : Nat), s.fab.restore = some (ldn, n) ∧ n = 1 ∧ s.fab.restoreWait ≠ 0) ∧
  (∃ (s : State) (ldn : BitVec 10) (n : Nat) (data : List Byte),
    s.fab.restore = some (ldn, n) ∧
      n = 2 ∧
        s.fab.restoreWait ≠ 0 ∧
          didxOf s (dAdid (BitVec.ofNat 1024 (leNat data))) = none ∧ BitVec.ofNat 1024 (leNat data) ≠ 0) ∧
  (∃ (s : State) (ldn : BitVec 10) (n : Nat) (step : BitVec 8) (key : BitVec 64) (kind : BitVec 8) (i : Nat) (x
    : Shard) (d : BitVec 1024),
    s.fab.restore = some (ldn, n) ∧
      n = step.toNat ∧
        5 ≤ n ∧
          kind ≠ 0 ∧
            s.fab.restoreWait ≠ 0 ∧
              didxOf s (fld key 16 24) = some i ∧
                List.find? (fun (x : Shard) => decide (x.entry = (fld key 0 16).toNat))
                      (shardsHere (asStandIn ldn s) i) =
                    some x ∧
                  d = descOf s i) ∧
  (∃ (s : State) (ldn : BitVec 10) (n : Nat) (step : BitVec 8),
    s.fab.restore = some (ldn, n) ∧
      n = step.toNat ∧ n = 7 ∧ s.fab.restoreWait = 0 ∧ ((restored s ldn).all fun (i : Nat) => isSettled s i) = true) ∧
  (∃ (s : State) (sna : BitVec 16) (gen : BitVec 16) (d0 : BitVec 128) (d1 : BitVec 128) (m : Master),
    m = s.steep.master ∧
      m.acting ≠ none ∧
        m.takeoverState ≠ 3 ∧
          (m.orders.any fun (o : BitVec 10 × BitVec 16 × BitVec 16) => decide (o.2.2 = sna)) = true ∧
            gen = s.leaf.activeGen ∧
              d0 = recDigest s.leaf.rec0 ∧
                d1 = recDigest s.leaf.rec1 ∧
                  (m.orders.all fun (o : BitVec 10 × BitVec 16 × BitVec 16) =>
                      decide (o.2.2 = sna) || m.ready.contains o.2.2) =
                    true) ∧
  (∃ (s : State) (sna : BitVec 16) (gen : BitVec 16) (d0 : BitVec 128) (d1 : BitVec 128) (m : Master),
    m = s.steep.master ∧
      m.acting ≠ none ∧
        m.takeoverState ≠ 3 ∧
          (m.orders.any fun (o : BitVec 10 × BitVec 16 × BitVec 16) => decide (o.2.2 = sna)) = true ∧
            gen = s.leaf.activeGen ∧
              d0 = recDigest s.leaf.rec0 ∧
                d1 = recDigest s.leaf.rec1 ∧
                  (m.orders.all fun (o : BitVec 10 × BitVec 16 × BitVec 16) =>
                      decide (o.2.2 = sna) || m.ready.contains o.2.2) =
                    false) ∧
  (∃ (s : State) (sna : BitVec 16) (m : Master),
    m = s.steep.master ∧
      (m.acting = none ∨
        m.takeoverState = 3 ∨
          (m.orders.any fun (o : BitVec 10 × BitVec 16 × BitVec 16) => decide (o.2.2 = sna)) = false)) ∧
  (∃ (s : State) (sna : BitVec 16) (gen : BitVec 16) (d0 : BitVec 128) (d1 : BitVec 128) (m : Master),
    m = s.steep.master ∧
      m.acting ≠ none ∧
        m.takeoverState ≠ 3 ∧
          (m.orders.any fun (o : BitVec 10 × BitVec 16 × BitVec 16) => decide (o.2.2 = sna)) = true ∧
            (gen ≠ s.leaf.activeGen ∨ d0 ≠ recDigest s.leaf.rec0 ∨ d1 ≠ recDigest s.leaf.rec1)) ∧
  (∃ (s : State),
    s.steep.master.acting = none ∨ s.steep.master.orders = [] ∨ s.steep.master.takeoverState = 3) ∧
  (∃ (s : State) (clk : Nat) (o : BitVec 10 × BitVec 16 × BitVec 16) (os :
    List (BitVec 10 × BitVec 16 × BitVec 16)),
    s.steep.master.acting = some clk ∧ s.steep.master.orders = o :: os ∧ s.steep.master.takeoverState ≠ 3) ∧
  (∃ (s : State) (moves : List (BitVec 10 × BitVec 16)) (c : BitVec 64),
    (moves.all fun (m : BitVec 10 × BitVec 16) => s.fab.effects.contains (m.1, m.2, c)) = false) ∧
  (∃ (s : State) (moves : List (BitVec 10 × BitVec 16)) (c : BitVec 64),
    (moves.all fun (m : BitVec 10 × BitVec 16) => s.fab.effects.contains (m.1, m.2, c)) = true) ∧
  (∃ (s : State) (due : List (BitVec 10 × BitVec 16 × BitVec 64)),
    due =
        List.filter (fun (e : BitVec 10 × BitVec 16 × BitVec 64) => decide (ahead s.steep.k e.2.2 ≠ 0))
          s.fab.effects ∧
      (due = [] ∨ boundariesKnown s = false)) ∧
  (∃ (s : State) (due : List (BitVec 10 × BitVec 16 × BitVec 64)),
    due =
        List.filter (fun (e : BitVec 10 × BitVec 16 × BitVec 64) => decide (ahead s.steep.k e.2.2 ≠ 0))
          s.fab.effects ∧
      due ≠ [] ∧ boundariesKnown s = true) ∧
  (∃ (s : State) (value : BitVec 32),
    snaOfLdn s (fld value 0 10).toNat = none ∨ isPrimary s = false ∨ fld value 10 6 ≠ 0) ∧
  (∃ (s : State) (value : BitVec 32) (a : Nat),
    snaOfLdn s (fld value 0 10).toNat = some a ∧ isPrimary s = true ∧ fld value 10 6 = 0) :=
  ⟨⟨lockedAt 0, 1, 0x20, 0x60, by decide +kernel⟩,
   ⟨masterState { orders := [(1, 0x20, 0x60)] }, 1, 0x20, 0x60, by decide +kernel⟩,
   ⟨lockedAt 0, { step := 9 }, by decide +kernel⟩,
   ⟨lockedAt 0, { step := 1 }, by decide +kernel⟩,
   ⟨lockedAt 0, { step := 2 }, by decide +kernel⟩,
   ⟨lockedAt 0, { step := 6 }, by decide +kernel⟩,
   ⟨lockedAt 0, by decide +kernel⟩,
   ⟨{ lockedAt 0 with fab := { restore := some (1, 2) } }, 1, 2, 1, by decide +kernel⟩,
   ⟨{ lockedAt 0 with fab := { restore := some (1, 1), restoreWait := 2 } }, 1, 1, 1, by decide +kernel⟩,
   ⟨{ lockedAt 0 with fab := { restore := some (1, 1), restoreWait := 1 } }, 1, 1, by decide +kernel⟩,
   ⟨{ lockedAt 0 with fab := { restore := some (1, 2), restoreWait := 1 } }, 1, 2, [5], by decide +kernel⟩,
   by refine ⟨{ shardState shard0 desc1 with mem := [(4, 1)], fab := { restore := some (0, 5), restoreWait := 1 } }, 0, 5, 5, setFld 0 16 24 5, 1, 1, shard0, _, ?_, ?_, ?_, ?_, ?_, ?_, ?_, rfl⟩ <;> decide +kernel,
   ⟨{ lockedAt 0 with fab := { restore := some (1, 7) } }, 1, 7, 7, by decide +kernel⟩,
   by refine ⟨masterState { acting := some 0, orders := [(1, 0x20, 0x60)] }, 0x60, _, _, _, _, rfl, ?_, ?_, ?_, rfl, rfl, rfl, ?_⟩ <;> decide +kernel,
   by refine ⟨masterState { acting := some 0, orders := [(1, 0x20, 0x60), (2, 0x40, 0x80)] }, 0x60, _, _, _, _, rfl, ?_, ?_, ?_, rfl, rfl, rfl, ?_⟩ <;> decide +kernel,
   ⟨lockedAt 0, 0x60, _, rfl, by decide +kernel⟩,
   ⟨masterState { acting := some 0, orders := [(1, 0x20, 0x60)] }, 0x60, 9, 0, 0, _, rfl, by decide +kernel⟩,
   ⟨lockedAt 0, by decide +kernel⟩,
   ⟨masterState { acting := some 4, orders := [(1, 0x20, 0x60)] }, 4, (1, 0x20, 0x60), [], by decide +kernel⟩,
   ⟨lockedAt 0, [(1, 0x60)], 3, by decide +kernel⟩,
   ⟨{ lockedAt 0 with fab := { effects := [(1, 0x60, 3)] } }, [(1, 0x60)], 3, by decide +kernel⟩,
   ⟨lockedAt 0, _, rfl, by decide +kernel⟩,
   ⟨{ lockedAt 0 with fab := { effects := [(1, 0x60, 3)] } }, _, rfl, by decide +kernel⟩,
   ⟨lockedAt 0x40, 0, by decide +kernel⟩,
   ⟨lockedAt 0, 1, 0x20, by decide +kernel⟩⟩

/-- States and operands that meet the hypotheses of StacksPatrolRepairFillAndLose. -/
theorem witness_StacksPatrolRepairFillAndLose :
  (∃ (s : State) (addr : BitVec 48) (b : Nat) (r : BlockRec),
    b = addr.toNat / 4096 ∧
      r = blockOf s b ∧
        hbmStack addr.toNat ≠ none ∧
          addrOk s addr.toNat = true ∧
            r.v = true ∧ r.bad = false ∧ (stackOf s (blockStack b)).thermal ≠ ThermalState.trip) ∧
  (∃ (s : State) (addr : BitVec 48) (b : Nat),
    b = addr.toNat / 4096 ∧
      (hbmStack addr.toNat = none ∨
        addrOk s addr.toNat = false ∨
          (blockOf s b).v = false ∨
            (blockOf s b).bad = true ∨ (stackOf s (blockStack b)).thermal = ThermalState.trip)) ∧
  (∃ (s : State) (stack : BitVec 4) (k : Stack) (r : Int),
    s.inv = true ∧ k = stackOf s stack.toNat ∧ stack.toNat < 12 ∧ (r < 105 ∨ k.thermal = ThermalState.trip)) ∧
  (∃ (s : State) (stack : BitVec 4) (k : Stack) (r : Int),
    s.inv = true ∧
      k = stackOf s stack.toNat ∧
        stack.toNat < 12 ∧ 105 ≤ r ∧ k.thermal ≠ ThermalState.trip ∧ s.boot.stopped = none) ∧
  (∃ (s : State) (stack : BitVec 4) (k : Stack),
    s.inv = true ∧
      k = stackOf s stack.toNat ∧
        stack.toNat < 12 ∧ (k.thermal = ThermalState.normal ∨ k.thermal = ThermalState.warm)) ∧
  (∃ (s : State) (stack : BitVec 4) (k : Stack),
    s.inv = true ∧
      k = stackOf s stack.toNat ∧
        stack.toNat < 12 ∧
          (k.thermal = ThermalState.trip ∨ k.thermal = ThermalState.hot ∧ s.clock < k.lastRead + 2000000)) ∧
  (∃ (s : State) (stack : BitVec 4) (k : Stack),
    s.inv = true ∧
      k = stackOf s stack.toNat ∧
        stack.toNat < 12 ∧ k.thermal = ThermalState.hot ∧ k.lastRead + 2000000 ≤ s.clock ∧ s.boot.stopped = none) ∧
  (∃ (stack : BitVec 4), 12 ≤ stack.toNat) ∧
  (∃ (s : State) (stack : BitVec 4) (pc : BitVec 5) (bank : BitVec 6) (row : BitVec 17),
    s.inv = true ∧
      sget 0 (rowKey pc.toNat bank.toNat row.toNat) (stackOf s stack.toNat).rows = 1 ∧ s.hbm.log.length < 1024) ∧
  (∃ (s : State) (stack : BitVec 4) (pc : BitVec 5) (bank : BitVec 6) (row : BitVec 17) (k : Stack),
    s.inv = true ∧ k = stackOf s stack.toNat ∧ sget 0 (rowKey pc.toNat bank.toNat row.toNat) k.rows ≠ 1) ∧
  (∃ (s : State) (stack : BitVec 4) (pc : BitVec 5) (bank : BitVec 6) (row : BitVec 17) (k : Stack),
    s.inv = true ∧
      k = stackOf s stack.toNat ∧
        sget 0 (rowKey pc.toNat bank.toNat row.toNat) k.rows = 1 ∧ 1024 ≤ s.hbm.log.length) ∧
  (∃ (s : State) (stack : BitVec 4) (k : Stack) (l : Nat) (rest : List Nat) (sp : Nat),
    s.inv = true ∧ k = stackOf s stack.toNat ∧ k.fill = none ∧ k.retireQ = l :: rest ∧ lowestSpare k = some sp) ∧
  (∃ (s : State) (stack : BitVec 4) (k : Stack) (l : Nat) (rest : List Nat),
    s.inv = true ∧ k = stackOf s stack.toNat ∧ k.fill = none ∧ k.retireQ = l :: rest ∧ lowestSpare k = none) ∧
  (∃ (s : State) (stack : BitVec 4) (k : Stack),
    s.inv = true ∧ k = stackOf s stack.toNat ∧ (k.fill ≠ none ∨ k.retireQ = [])) ∧
  (∃ (s : State) (stack : BitVec 4) (k : Stack) (l : Nat) (old : Nat) (new : Nat) (start : Nat),
    s.inv = true ∧
      k = stackOf s stack.toNat ∧
        k.fill = some (l, old, new, start) ∧ (atBoundary s = false ∨ s.clock < start + fillCycles s)) ∧
  (∃ (s : State) (stack : BitVec 4) (k : Stack) (l : Nat) (old : Nat) (new : Nat) (start : Nat),
    s.inv = true ∧
      k = stackOf s stack.toNat ∧
        k.fill = some (l, old, new, start) ∧
          atBoundary s = true ∧ start + fillCycles s ≤ s.clock ∧ 30 ≤ new ∧ new < 32 ∧ old ≠ new) ∧
  (∃ (s : State) (stack : BitVec 4) (k : Stack) (l : Nat) (old : Nat) (new : Nat) (start : Nat) (sp : Nat),
    s.inv = true ∧
      k = stackOf s stack.toNat ∧
        k.fill = some (l, old, new, start) ∧ lowestSpare (setPcState new PcState.retired k) = some sp ∧ old ≠ sp) ∧
  (∃ (s : State) (stack : BitVec 4) (k : Stack) (l : Nat) (old : Nat) (new : Nat) (start : Nat),
    s.inv = true ∧
      k = stackOf s stack.toNat ∧
        k.fill = some (l, old, new, start) ∧ lowestSpare (setPcState new PcState.retired k) = none) ∧
  (∃ (s : State) (stack : BitVec 4) (k : Stack),
    s.inv = true ∧ k = stackOf s stack.toNat ∧ (k.losing = [] ∨ atBoundary s = false)) ∧
  (∃ (s : State) (stack : BitVec 4) (k : Stack) (l : Nat) (rest : List Nat),
    s.inv = true ∧ k = stackOf s stack.toNat ∧ k.losing = l :: rest ∧ atBoundary s = true) :=
  ⟨⟨stackState {}, 0, 0, { v := true }, by decide +kernel⟩,
   ⟨lockedAt 0, 0, _, rfl, by decide +kernel⟩,
   ⟨stackState {}, 0, {}, 20, by decide +kernel⟩,
   ⟨stackState {}, 0, {}, 105, by decide +kernel⟩,
   ⟨stackState {}, 0, {}, by decide +kernel⟩,
   by refine ⟨stackState { thermal := .trip }, 0, _, ?_, rfl, ?_⟩ <;> decide +kernel,
   by refine ⟨stackState { thermal := .hot }, 0, _, ?_, rfl, ?_⟩ <;> decide +kernel,
   ⟨12, by decide +kernel⟩,
   ⟨stackState { rows := [(0, 1)] }, 0, 0, 0, 0, by decide +kernel⟩,
   by refine ⟨stackState {}, 0, 0, 0, 0, _, ?_, rfl, ?_⟩ <;> decide +kernel,
   by refine ⟨{ stackState { rows := [(0, 1)] } with hbm := { filled := true, stk := [(0, { rows := [(0, 1)] })], log := List.replicate 1024 0 } }, 0, 0, 0, 0, _, ?_, rfl, ?_⟩ <;> decide +kernel,
   ⟨stackState { retireQ := [3] }, 0, { retireQ := [3] }, 3, [], 30, by decide +kernel⟩,
   ⟨stackState { retireQ := [3], pcs := [(30, .retired), (31, .retired)] }, 0, { retireQ := [3], pcs := [(30, .retired), (31, .retired)] }, 3, [], by decide +kernel⟩,
   ⟨stackState {}, 0, {}, by decide +kernel⟩,
   ⟨stackState { fill := some (3, 3, 30, 0) }, 0, { fill := some (3, 3, 30, 0) }, 3, 3, 30, 0, by decide +kernel⟩,
   by refine ⟨atB (stackState { fill := some (3, 3, 30, 0) }), 0, _, 3, 3, 30, 0, ?_, rfl, ?_⟩ <;> decide +kernel,
   ⟨stackState { fill := some (3, 3, 30, 0) }, 0, { fill := some (3, 3, 30, 0) }, 3, 3, 30, 0, 31, by decide +kernel⟩,
   by refine ⟨stackState { fill := some (3, 3, 30, 0), pcs := [(30, .retired), (31, .retired)] }, 0, _, 3, 3, 30, 0, ?_, rfl, ?_⟩ <;> decide +kernel,
   ⟨stackState {}, 0, {}, by decide +kernel⟩,
   by refine ⟨atB (stackState { losing := [3] }), 0, _, 3, [], ?_, rfl, ?_⟩ <;> decide +kernel⟩

/-- States and operands that meet the hypotheses of InstallsBeginAndEnd. -/
theorem witness_InstallsBeginAndEnd :
  (∃ (s : State) (p : BitVec 512) (h : Bool),
    h = iHalf p ∧
      (iSrc p = 3 ∨
        fld p 3 237 ≠ 0 ∨
          s.leaf.install ≠ none ∨
            halfState s h ≠ 0 ∧ halfState s h ≠ 2 ∨
              (halfState s !h) = 1 ∨
                2000 ≤ (fld (recOf s h) 240 16).toNat ∨
                  baseKeyOf s h = none ∨
                    iSrc p = 2 ∧ (halfState s h ≠ 2 ∨ fld (recOf s h) 384 128 ≠ iDigest p) ∨
                      iSrc p ≠ 2 ∧ (iStage p % 4096 ≠ 0 ∨ inWindows s 0 (iStage p) (2 ^ 30) = false))) ∧
  (∃ (s : State) (p : BitVec 512) (h : Bool),
    h = iHalf p ∧
      iSrc p ≠ 3 ∧
        fld p 3 237 = 0 ∧
          s.leaf.install = none ∧
            (halfState s h = 0 ∨ halfState s h = 2) ∧
              (halfState s !h) ≠ 1 ∧
                (fld (recOf s h) 240 16).toNat < 2000 ∧
                  baseKeyOf s h ≠ none ∧
                    iSrc p ≠ 2 ∧ iStage p % 4096 = 0 ∧ inWindows s 0 (iStage p) (2 ^ 30) = true) ∧
  (∃ (s : State) (p : BitVec 512) (h : Bool),
    h = iHalf p ∧
      iSrc p ≠ 3 ∧
        fld p 3 237 = 0 ∧
          s.leaf.install = none ∧
            (halfState s h = 0 ∨ halfState s h = 2) ∧
              (halfState s !h) ≠ 1 ∧
                (fld (recOf s h) 240 16).toNat < 2000 ∧
                  baseKeyOf s h ≠ none ∧
                    iSrc p = 2 ∧
                      halfState s h = 2 ∧
                        fld (recOf s h) 384 128 = iDigest p ∧ iLast p = false ∧ manNseg (manifestOf s h) ≠ 0) ∧
  (∃ (s : State) (i : Install) (p : BitVec 512) (h : Bool),
    s.leaf.install = some i ∧
      p = i.params ∧
      h = iHalf p ∧
      iSrc p ≠ 2 ∧
      ∀ (m : List Byte), i.manifest = some m → i.nextSeg < manNseg m) ∧
  (∃ (s : State) (i : Install) (p : BitVec 512) (h : Bool),
    s.leaf.install = some i ∧
      p = i.params ∧
      h = iHalf p ∧
      (iSrc p = 2 ∨ ∃ (m : List Byte), i.manifest = some m ∧ manNseg m ≤ i.nextSeg)) ∧
  (∃ (s : State) (i : Install) (p : BitVec 512) (h : Bool) (status : BitVec 8),
    s.leaf.install = some i ∧
      p = i.params ∧
      h = iHalf p ∧
      iSrc p = 1 ∧
      status ≠ 0) ∧
  (∃ (s : State) (i : Install) (p : BitVec 512) (h : Bool) (status : BitVec 8),
    s.leaf.install = some i ∧
      p = i.params ∧
      h = iHalf p ∧
      (iSrc p ≠ 1 ∨ status = 0)) ∧
  (∃ (s : State) (i : Install) (p : BitVec 512) (h : Bool) (d : Delivery),
    s.leaf.install = some i ∧
      p = i.params ∧
      h = iHalf p ∧
      (i.manifest ≠ none ∨ delivered p d (iHaddr p) 8388608 s = none)) ∧
  (∃ (s : State) (i : Install) (p : BitVec 512) (h : Bool) (d : Delivery) (x : List Byte × State) (m : List Byte),
    s.leaf.install = some i ∧
      p = i.params ∧
      h = iHalf p ∧
      i.manifest = none ∧
      delivered p d (iHaddr p) 8388608 s = some x ∧
      m = List.take (manLen x.1) x.1) ∧
  (∃ (s : State) (i : Install) (p : BitVec 512) (h : Bool),
    s.leaf.install = some i ∧
      p = i.params ∧
      h = iHalf p ∧
      i.manifest = none ∧
      i.staged = []) ∧
  (∃ (s : State), s.leaf.install = none) ∧
  (∃ (s : State) (half : Bool) (index : BitVec 14),
    halfState s half < 2 ∨ 4 < halfState s half ∨ (fld (recOf s half) 208 16).toNat ≤ index.toNat) ∧
  (∃ (s : State) (half : Bool) (index : BitVec 14),
    2 ≤ halfState s half ∧ halfState s half ≤ 4 ∧ index.toNat < (fld (recOf s half) 208 16).toNat) ∧
  (∃ (s : State), List.find? (fun (h : Bool) => decide (halfState s h = 4)) [false, true] = none) ∧
  (∃ (s : State) (h : Bool) (g : BitVec 16),
    s.inv = true ∧
      List.find? (fun (h : Bool) => decide (halfState s h = 4)) [false, true] = some h ∧
        g = fld (recOf s h) 192 16 ∧ (atBoundary s = false ∨ genInUse s g = true)) ∧
  (∃ (s : State) (h : Bool) (g : BitVec 16),
    s.inv = true ∧
      List.find? (fun (h : Bool) => decide (halfState s h = 4)) [false, true] = some h ∧
        g = fld (recOf s h) 192 16 ∧ atBoundary s = true ∧ genInUse s g = false) :=
  ⟨⟨leafState { rec0 := setFld 0 189 3 3 }, 0, false, by decide +kernel⟩,
   ⟨leafState {}, 0, false, by decide +kernel⟩,
   ⟨leafState { rec0 := setFld 0 189 3 2, man0 := manifest0 1 }, 2, _, rfl, by decide +kernel⟩,
   by refine ⟨leafState { install := some { params := 0 } }, { params := 0 }, _, _, ?_, rfl, rfl, ?_, fun m h => by cases h⟩ <;> decide +kernel,
   ⟨leafState { install := some { params := 0, manifest := some [] } }, { params := 0, manifest := some [] }, _, _, by decide +kernel, rfl, rfl, Or.inr ⟨[], by decide +kernel, by decide +kernel⟩⟩,
   by refine ⟨leafState { install := some { params := 1 } }, { params := 1 }, _, _, 7, ?_, rfl, rfl, ?_⟩ <;> decide +kernel,
   by refine ⟨leafState { install := some { params := 0 } }, { params := 0 }, _, _, 0, ?_, rfl, rfl, ?_⟩ <;> decide +kernel,
   by refine ⟨leafState { install := some { params := 0 } }, { params := 0 }, _, _, .again, ?_, rfl, rfl, ?_⟩ <;> decide +kernel,
   by refine ⟨leafState { install := some { params := 1 } }, { params := 1 }, _, _, .packet (List.replicate (2 ^ 23) 0), _, _, ?_, rfl, rfl, ?_, delivered_packet (by decide +kernel), rfl⟩ <;> decide +kernel,
   by refine ⟨leafState { install := some { params := 0 } }, { params := 0 }, _, _, ?_, rfl, rfl, ?_⟩ <;> decide +kernel,
   ⟨leafState {}, by decide +kernel⟩,
   ⟨leafState {}, false, 0, by decide +kernel⟩,
   ⟨leafState { rec0 := setFld (setFld 0 189 3 3) 208 16 4 }, false, 3, by decide +kernel⟩,
   ⟨leafState {}, by decide +kernel⟩,
   ⟨leafState { rec0 := setFld (setFld 0 189 3 4) 192 16 2 }, false, 2, by decide +kernel⟩,
   by refine ⟨atB (leafState { rec0 := setFld (setFld 0 189 3 4) 192 16 2 }), false, _, ?_, ?_, rfl, ?_⟩ <;> decide +kernel⟩

/-- States and operands that meet the hypotheses of SegmentsAreProgrammedAndTrialsLoad. -/
theorem witness_SegmentsAreProgrammedAndTrialsLoad :
  (∃ (s : State), s.leaf.install = none) ∧
  (∃ (s : State) (i : Install) (p : BitVec 512) (h : Bool),
    s.leaf.install = some i ∧ p = i.params ∧ h = iHalf p ∧ i.manifest = none) ∧
  (∃ (s : State) (i : Install) (p : BitVec 512) (h : Bool) (index : BitVec 14) (m : List Byte) (d :
    Delivery) (x : List Byte × State),
    s.leaf.install = some i ∧
      p = i.params ∧
        h = iHalf p ∧
          i.manifest = some m ∧
            delivered p d (iHaddr p + 8388608 + index.toNat * 2 ^ 26) (2 ^ 26) s = some x ∧
              (index.toNat ≠ i.nextSeg ∨ manNseg m ≤ index.toNat ∨ 16 ≤ i.staged.length)) ∧
  (∃ (s : State) (i : Install) (p : BitVec 512) (h : Bool) (index : BitVec 14) (m : List Byte) (d :
    Delivery) (x : List Byte × State),
    s.leaf.install = some i ∧
      p = i.params ∧
        h = iHalf p ∧
          i.manifest = some m ∧
            delivered p d (iHaddr p + 8388608 + index.toNat * 2 ^ 26) (2 ^ 26) s = some x ∧
              index.toNat = i.nextSeg ∧ index.toNat < manNseg m ∧ i.staged.length < 16 ∧ i.done.length ≠ manNseg m) ∧
  (∃ (s : State) (i : Install) (p : BitVec 512) (h : Bool) (index : BitVec 14) (m : List Byte) (d :
    Delivery),
    s.leaf.install = some i ∧
      p = i.params ∧
        h = iHalf p ∧
          i.manifest = some m ∧
            d ≠ Delivery.again ∧ delivered p d (iHaddr p + 8388608 + index.toNat * 2 ^ 26) (2 ^ 26) s = none) ∧
  (∃ (s : State) (i : Install) (p : BitVec 512) (h : Bool) (index : BitVec 14) (m : List Byte) (a :
    LeafAnswer),
    s.leaf.install = some i ∧
      p = i.params ∧
        h = iHalf p ∧
          i.manifest = some m ∧
            (i.staged.contains index.toNat = false ∨ i.done.contains index.toNat = true ∨ a.bytes.length ≠ 2 ^ 26)) ∧
  (∃ (s : State) (i : Install) (p : BitVec 512) (h : Bool) (index : BitVec 14) (m : List Byte) (a :
    LeafAnswer),
    s.leaf.install = some i ∧
      p = i.params ∧
        h = iHalf p ∧
          i.manifest = some m ∧
            s.inv = true ∧
              iSrc p ≠ 2 ∧
                i.staged.contains index.toNat = true ∧
                  i.done.contains index.toNat = false ∧ a.bytes.length = 2 ^ 26) ∧
  (∃ (s : State), headCmd s 96 = none) ∧
  (∃ (s : State) (c : Cmd) (n : Nat),
    headCmd s 96 = some c ∧
      n = bits (cP0 c.word) 0 8 ∧
        (s.leaf.trial.state ≠ 0 ∨ c.part ≠ 0 ∧ (cfg s 12310 (c.part.toNat + 1)).testBit 0 = false)) ∧
  (∃ (s : State) (c : Cmd) (n : Nat),
    headCmd s 96 = some c ∧
      n = bits (cP0 c.word) 0 8 ∧
        s.leaf.trial.state = 0 ∧ (c.part = 0 ∨ (cfg s 12310 (c.part.toNat + 1)).testBit 0 = true)) ∧
  (∃ (s : State), s.leaf.trial.state ≠ 1 ∨ s.leaf.trial.cmd = none) ∧
  (∃ (s : State) (id : Nat),
    s.inv = true ∧ s.leaf.trial.state = 1 ∧ s.leaf.trial.cmd = some id ∧ cmdOf s id ≠ none) ∧
  (∃ (s : State), headCmd s 97 = none) ∧
  (∃ (s : State) (c : Cmd),
    headCmd s 97 = some c ∧
      (s.leaf.trial.state = 1 ∨ s.leaf.trial.state = 2) ∧ (c.part = s.leaf.trial.owner ∨ c.part = 0)) ∧
  (∃ (s : State) (c : Cmd),
    headCmd s 97 = some c ∧
      (s.leaf.trial.state ≠ 1 ∧ s.leaf.trial.state ≠ 2 ∨ c.part ≠ s.leaf.trial.owner ∧ c.part ≠ 0)) ∧
  (∃ (s : State), s.leaf.trial.state ≠ 3 ∨ atBoundary s = false ∨ genInUse s s.leaf.trial.gen = true) ∧
  (∃ (s : State),
    s.inv = true ∧ s.leaf.trial.state = 3 ∧ atBoundary s = true ∧ genInUse s s.leaf.trial.gen = false) :=
  ⟨⟨{ lockedAt 0 with leaf := { trial := { state := 3, gen := 2 } } }, by decide +kernel⟩,
   by refine ⟨leafState { install := some { params := 0 } }, { params := 0 }, _, _, ?_, rfl, rfl, ?_⟩ <;> decide +kernel,
   by refine ⟨leafState { install := some { params := 1, manifest := some (manifest0 3) } }, { params := 1, manifest := some (manifest0 3) }, _, _, 1, manifest0 3, .packet (List.replicate (2 ^ 26) 0), _, ?_, rfl, rfl, ?_, delivered_packet (by decide +kernel), ?_⟩ <;> decide +kernel,
   by refine ⟨leafState { install := some { params := 1, manifest := some (manifest0 3) } }, { params := 1, manifest := some (manifest0 3) }, _, _, 0, manifest0 3, .packet (List.replicate (2 ^ 26) 0), _, ?_, rfl, rfl, ?_, delivered_packet (by decide +kernel), ?_⟩ <;> decide +kernel,
   by refine ⟨leafState { install := some { params := 0, manifest := some (manifest0 3) } }, { params := 0, manifest := some (manifest0 3) }, _, _, 0, manifest0 3, .packet [], ?_, rfl, rfl, ?_⟩ <;> decide +kernel,
   by refine ⟨leafState { install := some { params := 0, manifest := some (manifest0 3) } }, { params := 0, manifest := some (manifest0 3) }, _, _, 0, manifest0 3, { bytes := [] }, ?_, rfl, rfl, ?_⟩ <;> decide +kernel,
   by refine ⟨leafState { install := some { params := 0, manifest := some (manifest0 3), staged := [0] } }, { params := 0, manifest := some (manifest0 3), staged := [0] }, _, _, 0, manifest0 3, { bytes := List.replicate (2 ^ 26) 0 }, ?_, rfl, rfl, ?_, ?_, ?_, ?_, ?_, List.length_replicate⟩ <;> decide +kernel,
   ⟨{ lockedAt 0 with leaf := { trial := { state := 3, gen := 2 } } }, by decide +kernel⟩,
   ⟨{ cmdState (cmdOfs 0x60 [(352, 8, 1)]) with leaf := { trial := { state := 1 } } }, cmdFor 0 (cmdOfs 0x60 [(352, 8, 1)]), 1, by decide +kernel⟩,
   by refine ⟨cmdState (cmdOfs 0x60 [(352, 8, 1)]), cmdFor 0 (cmdOfs 0x60 [(352, 8, 1)]), _, ?_, rfl, ?_⟩ <;> decide +kernel,
   ⟨{ lockedAt 0 with leaf := { trial := { state := 3, gen := 2 } } }, by decide +kernel⟩,
   ⟨{ cmdState 0 with leaf := { trial := { state := 1, cmd := some 7 } } }, 7, by decide +kernel⟩,
   ⟨{ lockedAt 0 with leaf := { trial := { state := 3, gen := 2 } } }, by decide +kernel⟩,
   ⟨{ cmdState (cmdOfs 0x61 []) with leaf := { trial := { state := 2 } } }, cmdFor 0 (cmdOfs 0x61 []), by decide +kernel⟩,
   ⟨{ withCmd (cmdFor 1 (cmdOfs 0x61 [])) (lockedAt 0) with leaf := { trial := { state := 2, owner := 2 } } }, cmdFor 1 (cmdOfs 0x61 []), by decide +kernel⟩,
   ⟨{ lockedAt 0 with leaf := { trial := { state := 3, gen := 2 } } }, by decide +kernel⟩,
   ⟨atB { lockedAt 0 with leaf := { trial := { state := 3, gen := 2 } } }, by decide +kernel⟩⟩

/-- States and operands that meet the hypotheses of ManagementPathsTakeFrames. -/
theorem witness_ManagementPathsTakeFrames :
  (∃ (s : State) (path : Nat) (src : Nat) (frame : List Byte) (h : BitVec 256) (source : BitVec 128) (port : BitVec 16) (ipBytes : Nat),
    h = dapHeader frame ∧
      answers s = true ∧
      path = 0 ∧
      s.dict.mgmtLink ≠ 0 ∧
      ipBytes ≤ 9000 ∧
      32 ≤ frame.length ∧
      frame.length ≤ 4160 ∧
      src = source.toNat * 65536 + port.toNat) ∧
  (∃ (s : State) (path : Nat) (src : Nat) (frame : List Byte) (h : BitVec 256) (length : BitVec 32),
    h = dapHeader frame ∧
      answers s = true ∧
      path = 1 ∧
      s.dict.busy = false ∧
      32 ≤ length.toNat ∧
      length.toNat ≤ 4160 ∧
      src = 0 ∧
      frame = List.map (fun (i : Nat) => sget 0 i s.dict.req) (List.range length.toNat)) ∧
  (∃ (s : State) (udp : BitVec 16) (good : Bool) (fragment : Bool) (ipBytes : Nat) (frame : List Byte),
    answers s = false ∨
      s.dict.mgmtLink = 0 ∨
        udp ≠ 46496 ∨ good = false ∨ fragment = true ∨ 9000 < ipBytes ∨ frame.length < 32 ∨ 4160 < frame.length) ∧
  (∃ (s : State) (target : BitVec 128),
    answers s = true ∧ s.dict.mgmtLink ≠ 0 ∧ isOwnAddress s target = true) ∧
  (∃ (s : State) (target : BitVec 128),
    answers s = false ∨ s.dict.mgmtLink = 0 ∨ isOwnAddress s target = false) ∧
  (∃ (link : BitVec 8), link.toNat ≤ 2) ∧
  (∃ (link : BitVec 8), 2 < link.toNat) ∧
  (∃ (s : State), answers s = false) ∧
  (∃ (s : State), answers s = true ∧ s.dict.busy = true) ∧
  (∃ (s : State) (length : BitVec 32),
    answers s = true ∧ s.dict.busy = false ∧ (length.toNat < 32 ∨ 4160 < length.toNat)) ∧
  (∃ (s : State) (frame : List Byte) (r : Option (Nat × Nat × Nat × Nat × Nat)),
    r =
        List.find?
          (fun (e : Nat × Nat × Nat × Nat × Nat) =>
            decide (e.1 = dapTarget (dapHeader frame)) && decide (e.2.1 = (dapSession (dapHeader frame)).toNat) &&
              decide (e.2.2.1 = (dapSeq (dapHeader frame)).toNat))
          s.dict.forwarded ∧
      r = none) ∧
  (∃ (s : State) (frame : List Byte) (r : Option (Nat × Nat × Nat × Nat × Nat)) (e : Nat × Nat × Nat × Nat × Nat),
    r =
        List.find?
          (fun (e : Nat × Nat × Nat × Nat × Nat) =>
            decide (e.1 = dapTarget (dapHeader frame)) && decide (e.2.1 = (dapSession (dapHeader frame)).toNat) &&
              decide (e.2.2.1 = (dapSeq (dapHeader frame)).toNat))
          s.dict.forwarded ∧
      r = some e ∧ e.2.2.2.1 = 0) ∧
  (∃ (s : State) (frame : List Byte) (r : Option (Nat × Nat × Nat × Nat × Nat)) (e : Nat × Nat × Nat × Nat × Nat),
    r =
        List.find?
          (fun (e : Nat × Nat × Nat × Nat × Nat) =>
            decide (e.1 = dapTarget (dapHeader frame)) && decide (e.2.1 = (dapSession (dapHeader frame)).toNat) &&
              decide (e.2.2.1 = (dapSeq (dapHeader frame)).toNat))
          s.dict.forwarded ∧
      r = some e ∧ e.2.2.2.1 = 1) ∧
  (∃ (s : State) (frame : List Byte) (r : Option (Nat × Nat × Nat × Nat × Nat)) (e : Nat × Nat × Nat × Nat × Nat),
    r =
        List.find?
          (fun (e : Nat × Nat × Nat × Nat × Nat) =>
            decide (e.1 = dapTarget (dapHeader frame)) && decide (e.2.1 = (dapSession (dapHeader frame)).toNat) &&
              decide (e.2.2.1 = (dapSeq (dapHeader frame)).toNat))
          s.dict.forwarded ∧
      r = some e ∧ 2 ≤ e.2.2.2.1) :=
  ⟨by refine ⟨dapState [] [], 0, _, dapBytes 2 0 [], _, 0, 100, 60, rfl, ?_, ?_, ?_, ?_, ?_, ?_, rfl⟩ <;> decide +kernel,
   by refine ⟨{ dapState [] [] with dict := { req := indexed (dapBytes 2 0 []) } }, 1, 0, _, _, 32, rfl, ?_, ?_, ?_, ?_, ?_, ?_, rfl⟩ <;> decide +kernel,
   ⟨dapState [] [], 100, true, false, 60, dapBytes 2 0 [], by decide +kernel⟩,
   ⟨dapState [] [], linkLocal (dapState [] []), by decide +kernel⟩,
   ⟨State.reset, 0, by decide +kernel⟩,
   ⟨2, by decide +kernel⟩,
   ⟨3, by decide +kernel⟩,
   ⟨State.reset, by decide +kernel⟩,
   ⟨{ dapState [] [] with dict := { busy := true } }, by decide +kernel⟩,
   ⟨dapState [] [], 8, by decide +kernel⟩,
   ⟨lockedAt 0, dapBytes 0x82 0 [], _, rfl, by decide +kernel⟩,
   ⟨{ lockedAt 0 with dict := { forwarded := [(0, 9, 1, 0, 0)] } }, dapBytes 0x82 0 [], _, (0, 9, 1, 0, 0), rfl, by decide +kernel⟩,
   ⟨{ lockedAt 0 with dict := { forwarded := [(0, 9, 1, 1, 0)] } }, dapBytes 0x82 0 [], _, (0, 9, 1, 1, 0), rfl, by decide +kernel⟩,
   ⟨{ lockedAt 0 with dict := { forwarded := [(0, 9, 1, 2, 0)] } }, dapBytes 0x82 0 [], _, (0, 9, 1, 2, 0), rfl, by decide +kernel⟩⟩

/-- States and operands that meet the hypotheses of SessionsOpenCloseReadWriteDescribe. -/
theorem witness_SessionsOpenCloseReadWriteDescribe :
  (∃ (s : State), s.dict.frames = []) ∧
  (∃ (s : State) (f : Frame) (fs : List Frame) (body : List Byte) (frag : Nat × Nat × List Byte),
    s.dict.frames = f :: fs ∧
      dapOp (dapHeader f.bytes) = 1 ∧
      body = dapBody f.bytes ∧
      frag = (BitVec.toNat (body.getD 1 0), BitVec.toNat (body.getD 2 0), List.drop 8 body) ∧
      frameForm f.bytes = false) ∧
  (∃ (s : State) (f : Frame) (fs : List Frame) (body : List Byte) (frag : Nat × Nat × List Byte),
    s.dict.frames = f :: fs ∧
      dapOp (dapHeader f.bytes) = 1 ∧
      body = dapBody f.bytes ∧
      frag = (BitVec.toNat (body.getD 1 0), BitVec.toNat (body.getD 2 0), List.drop 8 body) ∧
      frameForm f.bytes = true ∧
      (body.length < 8 ∨
                  List.take 5 (List.drop 3 body) ≠ [0, 0, 0, 0, 0] ∨
                    BitVec.toNat (body.getD 0 0) ≠ 1 ∧
                      (BitVec.toNat (body.getD 0 0) ≠ 3 ∨ exchangeOf s f 3 = none))) ∧
  (∃ (s : State) (f : Frame) (fs : List Frame) (body : List Byte) (frag : Nat × Nat × List Byte),
    s.dict.frames = f :: fs ∧
      dapOp (dapHeader f.bytes) = 1 ∧
      body = dapBody f.bytes ∧
      frag = (BitVec.toNat (body.getD 1 0), BitVec.toNat (body.getD 2 0), List.drop 8 body) ∧
      frameForm f.bytes = true ∧
      8 ≤ body.length ∧
      List.take 5 (List.drop 3 body) = [0, 0, 0, 0, 0] ∧
      body.getD 0 0 = 1 ∧
      exchangeOf s f 1 = none ∧
      16 ≤ s.dict.sessions.length) ∧
  (∃ (s : State) (f : Frame) (fs : List Frame) (body : List Byte) (frag : Nat × Nat × List Byte),
    s.dict.frames = f :: fs ∧
      dapOp (dapHeader f.bytes) = 1 ∧
      body = dapBody f.bytes ∧
      frag = (BitVec.toNat (body.getD 1 0), BitVec.toNat (body.getD 2 0), List.drop 8 body) ∧
      frameForm f.bytes = true ∧
      8 ≤ body.length ∧
      List.take 5 (List.drop 3 body) = [0, 0, 0, 0, 0] ∧
      body.getD 0 0 = 1 ∧
      exchangeOf s f 1 = none ∧
      s.dict.sessions.length < 16) ∧
  (∃ (s : State) (f : Frame) (fs : List Frame) (body : List Byte) (frag : Nat × Nat × List Byte) (x : Session),
    s.dict.frames = f :: fs ∧
      dapOp (dapHeader f.bytes) = 1 ∧
      body = dapBody f.bytes ∧
      frag = (BitVec.toNat (body.getD 1 0), BitVec.toNat (body.getD 2 0), List.drop 8 body) ∧
      frameForm f.bytes = true ∧
      8 ≤ body.length ∧
      List.take 5 (List.drop 3 body) = [0, 0, 0, 0, 0] ∧
      exchangeOf s f (BitVec.toNat (body.getD 0 0)) = some x ∧
      (body.getD 0 0 = 1 ∨ body.getD 0 0 = 3) ∧
      reassemble (x.fragments ++ [frag]) = none) ∧
  (∃ (s : State) (f : Frame) (fs : List Frame) (body : List Byte) (frag : Nat × Nat × List Byte) (x : Session) (msg : List Byte),
    s.dict.frames = f :: fs ∧
      dapOp (dapHeader f.bytes) = 1 ∧
      body = dapBody f.bytes ∧
      frag = (BitVec.toNat (body.getD 1 0), BitVec.toNat (body.getD 2 0), List.drop 8 body) ∧
      frameForm f.bytes = true ∧
      8 ≤ body.length ∧
      List.take 5 (List.drop 3 body) = [0, 0, 0, 0, 0] ∧
      exchangeOf s f (BitVec.toNat (body.getD 0 0)) = some x ∧
      reassemble (x.fragments ++ [frag]) = some msg ∧
      body.getD 0 0 = 1) ∧
  (∃ (s : State) (f : Frame) (fs : List Frame) (body : List Byte) (frag : Nat × Nat × List Byte) (x : Session) (msg : List Byte),
    s.dict.frames = f :: fs ∧
      dapOp (dapHeader f.bytes) = 1 ∧
      body = dapBody f.bytes ∧
      frag = (BitVec.toNat (body.getD 1 0), BitVec.toNat (body.getD 2 0), List.drop 8 body) ∧
      frameForm f.bytes = true ∧
      8 ≤ body.length ∧
      List.take 5 (List.drop 3 body) = [0, 0, 0, 0, 0] ∧
      exchangeOf s f (BitVec.toNat (body.getD 0 0)) = some x ∧
      reassemble (x.fragments ++ [frag]) = some msg ∧
      body.getD 0 0 = 3) ∧
  (∃ (s : State) (f : Frame) (fs : List Frame),
    s.dict.frames = f :: fs ∧
      (∀ x : Session, sessionOf s (dapSession (dapHeader f.bytes)) = some x → serves s x = false) ∧
        dapOp (dapHeader f.bytes) = 16) ∧
  (∃ (s : State) (f : Frame) (fs : List Frame),
    s.dict.frames = f :: fs ∧
      (∀ x : Session, sessionOf s (dapSession (dapHeader f.bytes)) = some x → serves s x = false) ∧
        dapOp (dapHeader f.bytes) = 17) ∧
  (∃ (s : State) (f : Frame) (fs : List Frame),
    s.dict.frames = f :: fs ∧
      (∀ x : Session, sessionOf s (dapSession (dapHeader f.bytes)) = some x → serves s x = false) ∧
        dapOp (dapHeader f.bytes) = 18) ∧
  (∃ (s : State) (f : Frame) (fs : List Frame),
    s.dict.frames = f :: fs ∧
      (∀ x : Session, sessionOf s (dapSession (dapHeader f.bytes)) = some x → serves s x = false) ∧
        dapOp (dapHeader f.bytes) = 2) ∧
  (∃ (s : State) (u : State) (f : Frame) (fs : List Frame) (x : Session) (body : List Byte),
    u = frameTaken s f fs x ∧ FrameArrives s f fs 16 x body ∧ recordsOf false f = none) ∧
  (∃ (s : State) (u : State) (f : Frame) (fs : List Frame) (x : Session) (body : List Byte) (rs :
    List DapRecord), u = frameTaken s f fs x ∧ FrameArrives s f fs 16 x body ∧ recordsOf false f = some rs) ∧
  (∃ (s : State) (u : State) (f : Frame) (fs : List Frame) (x : Session) (body : List Byte),
    u = frameTaken s f fs x ∧ FrameArrives s f fs 18 x body ∧ recordsOf false f = none) ∧
  (∃ (s : State) (u : State) (f : Frame) (fs : List Frame) (x : Session) (body : List Byte) (rs :
    List DapRecord), u = frameTaken s f fs x ∧ FrameArrives s f fs 18 x body ∧ recordsOf false f = some rs) ∧
  (∃ (s : State) (u : State) (f : Frame) (fs : List Frame) (x : Session) (body : List Byte),
    u = frameTaken s f fs x ∧ FrameArrives s f fs 2 x body ∧ frameForm f.bytes = false) ∧
  (∃ (s : State) (u : State) (f : Frame) (fs : List Frame) (x : Session) (body : List Byte),
    u = frameTaken s f fs x ∧ FrameArrives s f fs 2 x body ∧ frameForm f.bytes = true) ∧
  (∃ (s : State) (u : State) (f : Frame) (fs : List Frame) (x : Session) (body : List Byte),
    u = frameTaken s f fs x ∧ FrameArrives s f fs 17 x body ∧ recordsOf true f = none) ∧
  (∃ (s : State) (u : State) (f : Frame) (fs : List Frame) (x : Session) (body : List Byte) (rs :
    List DapRecord) (v : State),
    u = frameTaken s f fs x ∧
      FrameArrives s f fs 17 x body ∧
        recordsOf true f = some rs ∧
          v =
              List.foldl (fun (s : State) (r : DapRecord) => storeValue r.idx r.sub (leNat r.value) s) u
                (List.filter (fun (r : DapRecord) => !isCmd r) rs) ∧
            (mayWrite u f x rs = false ∨
              (∃ r ∈ rs.dropLast, isCmd r = true) ∨
                (∃ r ∈ rs, r.off ≠ 0) ∨ (∃ r ∈ rs, (checkRecord u x r).1 ≠ stOk) ∨ keysOk u rs = false)) ∧
  (∃ (s : State) (u : State) (f : Frame) (fs : List Frame) (x : Session) (body : List Byte) (rs :
    List DapRecord) (v : State),
    u = frameTaken s f fs x ∧
      FrameArrives s f fs 17 x body ∧
        recordsOf true f = some rs ∧
          v =
              List.foldl (fun (s : State) (r : DapRecord) => storeValue r.idx r.sub (leNat r.value) s) u
                (List.filter (fun (r : DapRecord) => !isCmd r) rs) ∧
            mayWrite u f x rs = true ∧
              (∀ r ∈ rs.dropLast, isCmd r = false) ∧
                (∀ r ∈ rs, r.off = 0) ∧
                  (∀ r ∈ rs, (checkRecord u x r).1 = stOk) ∧ keysOk u rs = true ∧ ∀ r ∈ rs, isCmd r = false) ∧
  ((signatureGood sessionW (signedFrame [0x10, 0xA0, 1, 0, 0, 0, 0, 0, 1, 0, 0, 0, 1, 0, 0, 0]).bytes = true →
  ∃ (s : State) (u : State) (f : Frame) (fs : List Frame) (x : Session) (body : List Byte) (rs :
    List DapRecord) (v : State) (r : DapRecord),
    u = frameTaken s f fs x ∧
      FrameArrives s f fs 17 x body ∧
        recordsOf true f = some rs ∧
          v =
              List.foldl (fun (s : State) (r : DapRecord) => storeValue r.idx r.sub (leNat r.value) s) u
                (List.filter (fun (r : DapRecord) => !isCmd r) rs) ∧
            mayWrite u f x rs = true ∧
              (∀ r ∈ rs.dropLast, isCmd r = false) ∧
                (∀ r ∈ rs, r.off = 0) ∧
                  (∀ r ∈ rs, (checkRecord u x r).1 = stOk) ∧
                    keysOk u rs = true ∧ rs.getLast? = some r ∧ isCmd r = true ∧ r.idx = 40976 ∧ r.sub ≤ 2)) ∧
  ((signatureGood sessionW (signedFrame [0x00, 0xA0, 3, 0, 0, 0, 0, 0, 1, 0, 0, 0, 1, 0, 0, 0]).bytes = true →
  ∃ (s : State) (u : State) (f : Frame) (fs : List Frame) (x : Session) (body : List Byte) (rs :
    List DapRecord) (v : State) (r : DapRecord) (a : (Nat × Nat) × State),
    u = frameTaken s f fs x ∧
      FrameArrives s f fs 17 x body ∧
        recordsOf true f = some rs ∧
          v =
              List.foldl (fun (s : State) (r : DapRecord) => storeValue r.idx r.sub (leNat r.value) s) u
                (List.filter (fun (r : DapRecord) => !isCmd r) rs) ∧
            mayWrite u f x rs = true ∧
              (∀ r ∈ rs.dropLast, isCmd r = false) ∧
                (∀ r ∈ rs, r.off = 0) ∧
                  (∀ r ∈ rs, (checkRecord u x r).1 = stOk) ∧
                    keysOk u rs = true ∧
                      rs.getLast? = some r ∧
                        isCmd r = true ∧ ¬(r.idx = 40976 ∧ r.sub ≤ 2) ∧ a = Machine.runCmd f x r v)) ∧
  (∃ (s : State) (id : BitVec 32), ∀ (x : Session), sessionOf s id = some x → x.state ≠ SessionState.opened) ∧
  (∃ (s : State) (id : BitVec 32),
    ∀ (x : Session), sessionOf s id = some x → x.state ≠ SessionState.exchanging) ∧
  (∃ (s : State) (id : BitVec 32) (x : Session), sessionOf s id = some x ∧ x.state = SessionState.opened) ∧
  (∃ (s : State) (id : BitVec 32) (x : Session),
    sessionOf s id = some x ∧ x.state = SessionState.exchanging) ∧
  (∃ (s : State) (id : BitVec 32), mayStage s id = true) ∧
  (∃ (s : State) (id : BitVec 32), mayStage s id = false) ∧
  (∃ (s : State), s.dict.lock = none) ∧
  (∃ (s : State) (l : BitVec 32 × Nat), s.dict.lock = some l) :=
  ⟨⟨lockedAt 0, by decide +kernel⟩,
   by refine ⟨dapState [frameOf (dapBytes 1 0 [1, 0, 1, 0, 0, 0, 0, 0] ++ [0])] [session9], frameOf (dapBytes 1 0 [1, 0, 1, 0, 0, 0, 0, 0] ++ [0]), [], _, _, ?_, ?_, rfl, rfl, ?_⟩ <;> decide +kernel,
   by refine ⟨dapState [frameOf (dapBytes 1 0 [1, 0])] [session9], frameOf (dapBytes 1 0 [1, 0]), [], _, _, ?_, ?_, rfl, rfl, ?_⟩ <;> decide +kernel,
   by refine ⟨dapState [frameOf (dapBytes 1 0 [1, 0, 1, 0, 0, 0, 0, 0])] (List.replicate 16 session9), frameOf (dapBytes 1 0 [1, 0, 1, 0, 0, 0, 0, 0]), [], _, _, ?_, ?_, rfl, rfl, ?_⟩ <;> decide +kernel,
   by refine ⟨dapState [frameOf (dapBytes 1 0 [1, 0, 1, 0, 0, 0, 0, 0])] [session9], frameOf (dapBytes 1 0 [1, 0, 1, 0, 0, 0, 0, 0]), [], _, _, ?_, ?_, rfl, rfl, ?_⟩ <;> decide +kernel,
   by refine ⟨dapState [frameOf (dapBytes 1 0 [1, 0, 2, 0, 0, 0, 0, 0])] [{ session9 with state := .exchanging }], frameOf (dapBytes 1 0 [1, 0, 2, 0, 0, 0, 0, 0]), [], _, _, { session9 with state := .exchanging }, ?_, ?_, rfl, rfl, ?_⟩ <;> decide +kernel,
   by refine ⟨dapState [frameOf (dapBytes 1 0 [1, 0, 1, 0, 0, 0, 0, 0])] [{ session9 with state := .exchanging }], frameOf (dapBytes 1 0 [1, 0, 1, 0, 0, 0, 0, 0]), [], _, _, { session9 with state := .exchanging }, [], ?_, ?_, rfl, rfl, ?_⟩ <;> decide +kernel,
   by refine ⟨dapState [frameOf (dapBytes 1 0 [3, 0, 1, 0, 0, 0, 0, 0])] [{ session9 with state := .exchanging, transcript := [0] }], frameOf (dapBytes 1 0 [3, 0, 1, 0, 0, 0, 0, 0]), [], _, _, { session9 with state := .exchanging, transcript := [0] }, [], ?_, ?_, rfl, rfl, ?_⟩ <;> decide +kernel,
   ⟨dapState [frameOf (dapBytes 16 0 [] ++ List.replicate 32 0)] [], frameOf (dapBytes 16 0 [] ++ List.replicate 32 0), [], rfl, fun x h => absurd h (by simp [sessionOf, dapState]), by decide +kernel⟩,
   ⟨dapState [frameOf (dapBytes 17 0 [] ++ List.replicate 32 0)] [], frameOf (dapBytes 17 0 [] ++ List.replicate 32 0), [], rfl, fun x h => absurd h (by simp [sessionOf, dapState]), by decide +kernel⟩,
   ⟨dapState [frameOf (dapBytes 18 0 [] ++ List.replicate 32 0)] [], frameOf (dapBytes 18 0 [] ++ List.replicate 32 0), [], rfl, fun x h => absurd h (by simp [sessionOf, dapState]), by decide +kernel⟩,
   ⟨dapState [frameOf (dapBytes 2 0 [] ++ List.replicate 32 0)] [], frameOf (dapBytes 2 0 [] ++ List.replicate 32 0), [], rfl, fun x h => absurd h (by simp [sessionOf, dapState]), by decide +kernel⟩,
   ⟨dapState [taggedFrame (dapBytes 16 1 [])] [session9], _, taggedFrame (dapBytes 16 1 []), [], session9, dapBytes 16 1 [], rfl, arrives rfl (by decide +kernel) (by decide +kernel) (by decide +kernel) rfl (by decide +kernel) (by decide +kernel), by decide +kernel⟩,
   ⟨dapState [taggedFrame (dapBytes 16 1 [0x12, 0x40, 1, 0, 0, 0, 0, 0, 2, 0, 0, 0])] [session9], _, taggedFrame (dapBytes 16 1 [0x12, 0x40, 1, 0, 0, 0, 0, 0, 2, 0, 0, 0]), [], session9, dapBytes 16 1 [0x12, 0x40, 1, 0, 0, 0, 0, 0, 2, 0, 0, 0], [{ idx := 0x4012, sub := 1, flags := 0, off := 0, len := 2, value := [], reserved := false }], rfl, arrives rfl (by decide +kernel) (by decide +kernel) (by decide +kernel) rfl (by decide +kernel) (by decide +kernel), by decide +kernel⟩,
   ⟨dapState [taggedFrame (dapBytes 18 1 [])] [session9], _, taggedFrame (dapBytes 18 1 []), [], session9, dapBytes 18 1 [], rfl, arrives rfl (by decide +kernel) (by decide +kernel) (by decide +kernel) rfl (by decide +kernel) (by decide +kernel), by decide +kernel⟩,
   ⟨dapState [taggedFrame (dapBytes 18 1 [0x12, 0x40, 1, 0, 0, 0, 0, 0, 2, 0, 0, 0])] [session9], _, taggedFrame (dapBytes 18 1 [0x12, 0x40, 1, 0, 0, 0, 0, 0, 2, 0, 0, 0]), [], session9, dapBytes 18 1 [0x12, 0x40, 1, 0, 0, 0, 0, 0, 2, 0, 0, 0], [{ idx := 0x4012, sub := 1, flags := 0, off := 0, len := 2, value := [], reserved := false }], rfl, arrives rfl (by decide +kernel) (by decide +kernel) (by decide +kernel) rfl (by decide +kernel) (by decide +kernel), by decide +kernel⟩,
   ⟨dapState [taggedFrame (dapBytes 2 65 [])] [session9], _, taggedFrame (dapBytes 2 65 []), [], session9, dapBytes 2 65 [], rfl, arrives rfl (by decide +kernel) (by decide +kernel) (by decide +kernel) rfl (by decide +kernel) (by decide +kernel), by decide +kernel⟩,
   ⟨dapState [taggedFrame (dapBytes 2 0 [])] [session9], _, taggedFrame (dapBytes 2 0 []), [], session9, dapBytes 2 0 [], rfl, arrives rfl (by decide +kernel) (by decide +kernel) (by decide +kernel) rfl (by decide +kernel) (by decide +kernel), by decide +kernel⟩,
   ⟨dapState [taggedFrame (dapBytes 17 1 [])] [session9], _, taggedFrame (dapBytes 17 1 []), [], session9, dapBytes 17 1 [], rfl, arrives rfl (by decide +kernel) (by decide +kernel) (by decide +kernel) rfl (by decide +kernel) (by decide +kernel), by decide +kernel⟩,
   ⟨dapState [taggedFrame (dapBytes 17 1 [0x12, 0x40, 1, 0, 4, 0, 0, 0, 2, 0, 0, 0, 5, 0, 0, 0])] [session9], _, taggedFrame (dapBytes 17 1 [0x12, 0x40, 1, 0, 4, 0, 0, 0, 2, 0, 0, 0, 5, 0, 0, 0]), [], session9, dapBytes 17 1 [0x12, 0x40, 1, 0, 4, 0, 0, 0, 2, 0, 0, 0, 5, 0, 0, 0], [{ idx := 0x4012, sub := 1, flags := 0, off := 4, len := 2, value := [5, 0], reserved := false }], _, rfl, arrives rfl (by decide +kernel) (by decide +kernel) (by decide +kernel) rfl (by decide +kernel) (by decide +kernel), by decide +kernel, rfl, Or.inr (Or.inr (Or.inl ⟨_, List.mem_singleton.mpr rfl, by decide⟩))⟩,
   by refine ⟨dapState [taggedFrame (dapBytes 17 1 ([0x00, 0x97, 1, 0, 0, 0, 0, 0, 33, 0, 0, 0] ++ List.replicate 36 0))] [session9], _, taggedFrame (dapBytes 17 1 ([0x00, 0x97, 1, 0, 0, 0, 0, 0, 33, 0, 0, 0] ++ List.replicate 36 0)), [], session9, dapBytes 17 1 ([0x00, 0x97, 1, 0, 0, 0, 0, 0, 33, 0, 0, 0] ++ List.replicate 36 0), [{ idx := 0x9700, sub := 1, flags := 0, off := 0, len := 33, value := List.replicate 33 0, reserved := false }], _, rfl, arrives rfl (by decide +kernel) (by decide +kernel) (by decide +kernel) rfl (by decide +kernel) (by decide +kernel), ?_, rfl, ?_, allOf (by decide +kernel), allOf (by decide +kernel), allOf (by decide +kernel), ?_, allOf (by decide +kernel)⟩ <;> decide +kernel,
   fun hs => ⟨dapState [signedFrame [0x10, 0xA0, 1, 0, 0, 0, 0, 0, 1, 0, 0, 0, 1, 0, 0, 0]] [sessionW], _, signedFrame [0x10, 0xA0, 1, 0, 0, 0, 0, 0, 1, 0, 0, 0, 1, 0, 0, 0], [], sessionW, dapHeaderBytes (setFld (dapHead 17 1 16) 190 1 1) ++ [0x10, 0xA0, 1, 0, 0, 0, 0, 0, 1, 0, 0, 0, 1, 0, 0, 0] ++ List.replicate 3309 0, [{ idx := 0xA010, sub := 1, flags := 0, off := 0, len := 1, value := [1], reserved := false }], _, _, rfl, arrives rfl (by decide +kernel) (by decide +kernel) (by decide +kernel) rfl (by decide +kernel) (by decide +kernel), by decide +kernel, rfl, mayWrite_signed rfl rfl hs, allOf (by decide +kernel), allOf (by decide +kernel), allOf (by decide +kernel), by decide +kernel, rfl, by decide +kernel, by decide +kernel, by decide +kernel⟩,
   fun hs => ⟨dapState [signedFrame [0x00, 0xA0, 3, 0, 0, 0, 0, 0, 1, 0, 0, 0, 1, 0, 0, 0]] [sessionW], _, signedFrame [0x00, 0xA0, 3, 0, 0, 0, 0, 0, 1, 0, 0, 0, 1, 0, 0, 0], [], sessionW, dapHeaderBytes (setFld (dapHead 17 1 16) 190 1 1) ++ [0x00, 0xA0, 3, 0, 0, 0, 0, 0, 1, 0, 0, 0, 1, 0, 0, 0] ++ List.replicate 3309 0, [{ idx := 0xA000, sub := 3, flags := 0, off := 0, len := 1, value := [1], reserved := false }], _, _, _, rfl, arrives rfl (by decide +kernel) (by decide +kernel) (by decide +kernel) rfl (by decide +kernel) (by decide +kernel), by decide +kernel, rfl, mayWrite_signed rfl rfl hs, allOf (by decide +kernel), allOf (by decide +kernel), allOf (by decide +kernel), by decide +kernel, rfl, by decide +kernel, by decide +kernel, rfl⟩,
   ⟨{ lockedAt 0 with dict := { lock := some (8, 0) } }, 9, by decide +kernel⟩,
   ⟨dapState [] [session9], 9, by decide +kernel⟩,
   ⟨dapState [] [session9], 9, session9, by decide +kernel⟩,
   ⟨dapState [] [{ session9 with state := .exchanging }], 9, { session9 with state := .exchanging }, by decide +kernel⟩,
   ⟨dapState [] [{ session9 with keyed := true }], 9, by decide +kernel⟩,
   ⟨lockedAt 0, 9, by decide +kernel⟩,
   ⟨lockedAt 0, by decide +kernel⟩,
   ⟨{ lockedAt 0 with dict := { lock := some (8, 0) } }, (8, 0), by decide +kernel⟩⟩

/-- States and operands that meet the hypotheses of StagedConfigurationChecksCommitsAndSwaps. -/
theorem witness_StagedConfigurationChecksCommitsAndSwaps :
  (∃ (s : State) (id : BitVec 32), mayStage s id = true ∧ s.dict.commit = none) ∧
  (∃ (s : State) (id : BitVec 32), mayStage s id = false ∨ s.dict.commit ≠ none) ∧
  (∃ (s : State) (id : BitVec 32), mayStage s id = false) ∧
  (∃ (s : State), s.dict.checking = true) ∧
  (∃ (s : State), s.dict.checking = false) ∧
  (∃ (s : State),
    ∀ (e : BitVec 64), s.dict.commit = some e → boundariesKnown s = false ∨ hasBegun s e = false) ∧
  (∃ (s : State) (e : BitVec 64), s.dict.commit = some e ∧ boundariesKnown s = true ∧ hasBegun s e = true) ∧
  (∃ (s : State) (id : BitVec 32), mayStage s id = true) ∧
  (∃ (s : State) (i : BitVec 16) (sub : BitVec 8) (value : List Byte) (target : BitVec 32),
    target = BitVec.ofNat 32 (256 * i.toNat + sub.toNat) ∧
      accessAt i.toNat sub.toNat = some Access.rws ∧
        s.dict.commit = none ∧ valueDetail s i.toNat sub.toNat value = 0) ∧
  (∃ (s : State) (i : BitVec 16) (sub : BitVec 8) (value : List Byte) (target : BitVec 32),
    target = BitVec.ofNat 32 (256 * i.toNat + sub.toNat) ∧
      accessAt i.toNat sub.toNat = some Access.rw ∧
        (i = 8224 ∨ i = 25344) ∧ valueDetail s i.toNat sub.toNat value = 0) ∧
  (∃ (s : State) (i : BitVec 16) (sub : BitVec 8) (value : List Byte) (target : BitVec 32),
    target = BitVec.ofNat 32 (256 * i.toNat + sub.toNat) ∧
      accessAt i.toNat sub.toNat = some Access.w1c ∧ valueDetail s i.toNat sub.toNat value = 0) ∧
  (∃ (s : State) (i : BitVec 16) (sub : BitVec 8) (value : List Byte) (target : BitVec 32),
    target = BitVec.ofNat 32 (256 * i.toNat + sub.toNat) ∧
      (valueDetail s i.toNat sub.toNat value ≠ 0 ∨
        accessAt i.toNat sub.toNat = some Access.rws ∧ s.dict.commit ≠ none ∨
          accessAt i.toNat sub.toNat = some Access.rw ∧ i ≠ 8224 ∧ i ≠ 25344 ∨
            accessAt i.toNat sub.toNat = some Access.cmd ∨ accessAt i.toNat sub.toNat = some Access.wo)) ∧
  (∃ (s : State) (fn : BitVec 6), s.inv = true ∧ (partOf s fn.toNat).state ≠ PartState.absent) ∧
  (∃ (s : State) (fn : BitVec 6) (o : BitVec 21) (value : List Byte),
    (partOf s fn.toNat).state = PartState.absent ∨
      value.length ≠ 4 ∧ value.length ≠ 8 ∨ o.toNat % value.length ≠ 0) ∧
  (∃ (s : State) (id : BitVec 32) (sub : BitVec 8) (value : BitVec 264),
    (((∃ (x : Session), sessionOf s id = some x ∧ serves s x = true ∧
          (x.writeAllowed = true ∨ x.keyed = false ∧ (managerKeys s).any keyValid = false)) ∧
        1 ≤ sub.toNat ∧ sub.toNat ≤ 8 ∧ fld value 258 6 = 0 ∧
          ((∃ j < 8, keyWrites (sget 0 j (sput 0 (sub.toNat - 1) value s.dict.keys)) = true) ∨
            ∀ j < 8, keyValid (sget 0 j (sput 0 (sub.toNat - 1) value s.dict.keys)) = false)))) ∧
  (∃ (s : State) (id : BitVec 32) (sub : BitVec 8) (value : BitVec 264),
    ¬(((∃ (x : Session), sessionOf s id = some x ∧ serves s x = true ∧
          (x.writeAllowed = true ∨ x.keyed = false ∧ (managerKeys s).any keyValid = false)) ∧
        1 ≤ sub.toNat ∧ sub.toNat ≤ 8 ∧ fld value 258 6 = 0 ∧
          ((∃ j < 8, keyWrites (sget 0 j (sput 0 (sub.toNat - 1) value s.dict.keys)) = true) ∨
            ∀ j < 8, keyValid (sget 0 j (sput 0 (sub.toNat - 1) value s.dict.keys)) = false)))) :=
  ⟨⟨dapState [] [{ session9 with keyed := true }], 9, by decide +kernel⟩,
   ⟨lockedAt 0, 9, by decide +kernel⟩,
   ⟨lockedAt 0, 9, by decide +kernel⟩,
   ⟨{ lockedAt 0 with dict := { checking := true } }, by decide +kernel⟩,
   ⟨lockedAt 0, by decide +kernel⟩,
   ⟨lockedAt 0, fun e h => absurd h (by simp [lockedAt])⟩,
   ⟨{ lockedAt 0 with dict := { commit := some 6 } }, 6, by decide +kernel⟩,
   ⟨dapState [] [{ session9 with keyed := true }], 9, by decide +kernel⟩,
   ⟨lockedAt 0, 0x4012, 1, [5, 0], _, rfl, by decide +kernel⟩,
   ⟨lockedAt 0, 0x6300, 2, [1], _, rfl, by decide +kernel⟩,
   ⟨lockedAt 0, 0x6100, 18, [0], _, rfl, by decide +kernel⟩,
   ⟨lockedAt 0, 0x4012, 1, [], _, rfl, by decide +kernel⟩,
   ⟨partState { state := .running }, 0, by decide +kernel⟩,
   ⟨lockedAt 0, 1, 0, [], by decide +kernel⟩,
   by refine ⟨dapState [] [session9], 9, 1, setFld 0 256 2 3, ⟨session9, by decide +kernel, by decide, Or.inl rfl⟩, ?_, ?_, ?_, Or.inl (by decide +kernel)⟩ <;> decide +kernel,
   ⟨dapState [] [session9], 9, 0, 0, fun h => absurd h.2.1 (by decide)⟩⟩

/-- States and operands that meet the hypotheses of CountersSelectClearAndBoundary. -/
theorem witness_CountersSelectClearAndBoundary :
  (∃ (s : State) (block : BitVec 8) (ev : BitVec 16) (b : CounterBlock),
    sparseWf { } s.obs.blocks = true ∧
      b = sget { } block.toNat s.obs.blocks ∧ block.toNat ≤ 176 ∧ eventDefined block.toNat ev.toNat = false) ∧
  (∃ (s : State) (block : BitVec 8) (ev : BitVec 16) (b : CounterBlock),
    sparseWf { } s.obs.blocks = true ∧
      b = sget { } block.toNat s.obs.blocks ∧ block.toNat ≤ 176 ∧ eventDefined block.toNat ev.toNat = true) ∧
  (∃ (block : BitVec 8), 176 < block.toNat) ∧
  (∃ (s : State), sparseWf { } s.obs.blocks = true) :=
  ⟨⟨lockedAt 0, 0, 0x0C, {}, by decide +kernel⟩,
   ⟨lockedAt 0, 0, 0x50, {}, by decide +kernel⟩,
   ⟨0xB1, by decide +kernel⟩,
   ⟨lockedAt 0, by decide +kernel⟩⟩

/-- States and operands that meet the hypotheses of SnapshotsAndTraceRecordsAreWritten. -/
theorem witness_SnapshotsAndTraceRecordsAreWritten :
  (∃ (s : State), s.obs.frozen = none) ∧
  (∃ (s : State) (x : Snapshot), s.obs.frozen = some x ∧ sparseWf { } s.obs.slots = true) ∧
  (∃ (s : State) (j : Nat),
    sparseWf { } s.obs.slots = true ∧
      j < 4 ∧ (sget { } j s.obs.slots).state = 1 ∧ ∀ i < j, (sget { } i s.obs.slots).state ≠ 1) ∧
  (∃ (s : State), ∀ i < 4, (sget { } i s.obs.slots).state ≠ 1) ∧
  (∃ (s : State), s.obs.staging = []) ∧
  (∃ (s : State) (r : TraceRec) (a : Nat),
    r ∈ s.obs.staging ∧
      a = ringBase + s.obs.written % 2097152 * 32 ∧
        ∀ q ∈ s.obs.staging, q = r ∨ canonLt (recKey r) (recKey q) = true) :=
  ⟨⟨lockedAt 0, by decide +kernel⟩,
   ⟨{ lockedAt 0 with obs := { frozen := some { id := 4 } } }, { id := 4 }, by decide +kernel⟩,
   ⟨{ lockedAt 0 with obs := { slots := [(1, { state := 1 })] } }, 1, by decide +kernel⟩,
   ⟨lockedAt 0, by decide +kernel⟩,
   ⟨lockedAt 0, by decide +kernel⟩,
   ⟨{ lockedAt 0 with obs := { staging := [traceRec0] } }, traceRec0, _, List.mem_singleton.mpr rfl, rfl, fun _ h => Or.inl (List.mem_singleton.mp h)⟩⟩

/-- States and operands that meet the hypotheses of StartUpRunsItsStages. -/
theorem witness_StartUpRunsItsStages :
  (∃ (s : State), s.boot.status ≠ 2 ∨ s.boot.stage = 0) ∧
  (∃ (s : State), s.boot.status = 2 ∧ s.boot.stage ≠ 0) ∧
  (∃ (s : State), s.boot.status ≠ 0) ∧
  (∃ (s : State), s.boot.status = 0 ∧ s.boot.stage = 1 ∧ s.cust.state ≠ CustodyState.por) ∧
  (∃ (s : State), s.boot.status = 0 ∧ s.boot.stage = 2 ∧ s.cust.state ≠ CustodyState.por) ∧
  (∃ (s : State),
    s.boot.status = 0 ∧
      s.boot.stage = 3 ∧
        s.boot.siteAgain = false ∧
          s.boot.identified = true ∧
            (s.cust.state = CustodyState.ready ∨ s.cust.state = CustodyState.sealBroken) ∧
              s.boot.mainGood = true ∧ s.boot.resetL = true) ∧
  (∃ (s : State),
    s.boot.status = 0 ∧
      s.boot.stage = 3 ∧ s.boot.siteAgain = false ∧ (s.boot.mainGood = false ∨ s.boot.resetL = false)) ∧
  (∃ (s : State),
    s.boot.status = 0 ∧
      s.boot.stage = 3 ∧
        (s.boot.identified = false ∨
          s.cust.state ≠ CustodyState.ready ∧ s.cust.state ≠ CustodyState.sealBroken ∨
            s.boot.mainGood = false ∨ s.boot.resetL = false)) ∧
  (∃ (s : State),
    s.boot.status = 0 ∧
      s.boot.stage = 3 ∧
        s.boot.siteAgain = true ∧
          s.boot.identified = true ∧
            (s.cust.state = CustodyState.ready ∨ s.cust.state = CustodyState.sealBroken) ∧
              s.boot.mainGood = true ∧ s.boot.resetL = true) ∧
  (∃ (s : State),
    s.boot.status = 0 ∧ (s.boot.stage = 1 ∨ s.boot.stage = 2) ∧ s.cust.state = CustodyState.por) ∧
  (∃ (s : State), s.boot.status = 0 ∧ s.boot.stage = 8 ∧ floodReached s = false) ∧
  (∃ (s : State), s.boot.status = 0 ∧ s.boot.stage = 9 ∧ s.fab.discovery ≠ DiscoveryState.complete) ∧
  (∃ (s : State),
    s.boot.status = 0 ∧
      s.boot.stage = 10 ∧ s.steep.engine ≠ EngineState.locked ∧ s.steep.engine ≠ EngineState.standby) ∧
  (∃ (s : State), s.boot.status = 0 ∧ (s.boot.stage = 0 ∨ 10 < s.boot.stage)) ∧
  (∃ (s : State) (id : Identity) (soft : Nat → Nat) (wait : Nat),
    s.inv = true ∧
      s.boot.status = 0 ∧
        4 ≤ s.boot.stage ∧
          s.boot.stage ≤ 7 ∧
            (s.boot.stage = 7 → id.leafGood = true) ∧
              (soft = fun (st : Nat) =>
                  List.countP (fun (e : Nat × Nat × Nat × Nat × Nat) => decide (e.2.2.2.2 = 2) && decide (e.1 = st))
                    s.hbm.log) ∧
                wait =
                  if s.boot.stage = 6 ∧ s.boot.hardRepair = true then
                    500000000 * List.foldl (fun (m st : Nat) => max m (soft st)) 0 (List.range 12)
                  else 0) ∧
  (∃ (s : State) (id : Identity), s.boot.status = 0 ∧ s.boot.stage = 7 ∧ id.leafGood = false) ∧
  (∃ (s : State),
    s.boot.status = 0 ∧
      s.boot.stage = 8 ∧
        (s.fab.discovery = DiscoveryState.flood ∨
          s.fab.discovery = DiscoveryState.routes ∨ s.fab.discovery = DiscoveryState.complete)) ∧
  (∃ (s : State), s.boot.status = 0 ∧ s.boot.stage = 9 ∧ s.fab.discovery = DiscoveryState.complete) ∧
  (∃ (s : State),
    s.boot.status = 0 ∧
      s.boot.stage = 10 ∧ (s.steep.engine = EngineState.locked ∨ s.steep.engine = EngineState.standby)) ∧
  (∃ (s : State), s.boot.status = 0 ∧ s.boot.stage = 10 ∧ s.steep.engine = EngineState.listen) ∧
  (∃ (s : State),
    s.boot.status ≠ 0 ∨
      s.boot.stage < 2 ∨
        10 < s.boot.stage ∨
          s.boot.stage = 4 ∨
            s.boot.stage = 5 ∨ s.boot.stage = 3 ∧ s.boot.identified = true ∧ s.cust.state ≠ CustodyState.measure) ∧
  (∃ (s : State) (limit : Nat),
    s.boot.status = 0 ∧
      (s.boot.stage = 2 ∧ limit = s.boot.startClock + 3000000000 ∨
        s.boot.stage = 3 ∧
            (s.boot.identified = false ∨ s.cust.state = CustodyState.measure) ∧
              limit = s.boot.startClock + 3000000000 ∨
          s.boot.stage = 6 ∧ limit = s.boot.stageAt + 800000000 ∨
            s.boot.stage = 7 ∧ limit = s.boot.stageAt + 400000000 ∨
              s.boot.stage = 8 ∧ limit = s.boot.stageAt + 20000000000 ∨
                s.boot.stage = 9 ∧ limit = s.boot.stageAt + 10000000000 ∨
                  s.boot.stage = 10 ∧ limit = s.steep.listenAt + 10000000000)) :=
  ⟨⟨State.reset, by decide +kernel⟩,
   ⟨{ State.reset with boot := { stage := 4, status := 2 } }, by decide +kernel⟩,
   ⟨{ State.reset with boot := { status := 1 } }, by decide +kernel⟩,
   ⟨{ bootAt 1 with cust := { state := .measure } }, by decide +kernel⟩,
   ⟨{ bootAt 2 with cust := { state := .measure } }, by decide +kernel⟩,
   ⟨{ bootAt 3 with cust := { state := .ready } }, by decide +kernel⟩,
   ⟨{ State.reset with boot := { stage := 3 } }, by decide +kernel⟩,
   ⟨{ State.reset with boot := { stage := 3 } }, by decide +kernel⟩,
   ⟨{ bootAt 3 with boot := { (bootAt 3).boot with siteAgain := true }, cust := { state := .ready } }, by decide +kernel⟩,
   ⟨bootAt 1, by decide +kernel⟩,
   ⟨bootAt 8, by decide +kernel⟩,
   ⟨bootAt 9, by decide +kernel⟩,
   ⟨{ bootAt 10 with steep := { engine := .listen } }, by decide +kernel⟩,
   ⟨State.reset, by decide +kernel⟩,
   by refine ⟨bootAt 4, {}, _, _, ?_, ?_, ?_, ?_, ?_, rfl, rfl⟩ <;> decide +kernel,
   ⟨bootAt 7, { leafGood := false }, by decide +kernel⟩,
   ⟨{ bootAt 8 with fab := { discovery := .flood } }, by decide +kernel⟩,
   ⟨{ bootAt 9 with fab := { discovery := .complete } }, by decide +kernel⟩,
   ⟨{ bootAt 10 with steep := { engine := .locked } }, by decide +kernel⟩,
   ⟨{ bootAt 10 with steep := { engine := .listen } }, by decide +kernel⟩,
   ⟨State.reset, by decide +kernel⟩,
   ⟨bootAt 2, 3000000000, by decide +kernel⟩⟩

/-- States and operands that meet the hypotheses of ResetsClearAndKeep. -/
theorem witness_ResetsClearAndKeep :
  (∃ (s : State), s.inv = true ∧ 1 ≤ s.boot.stage) ∧
  (∃ (s : State), 1 ≤ s.boot.stage) ∧
  (∃ (s : State), s.boot.stage = 0) ∧
  (∃ (s : State), s.inv = true) :=
  ⟨⟨bootAt 4, by decide +kernel⟩,
   ⟨bootAt 4, by decide +kernel⟩,
   ⟨State.reset, by decide +kernel⟩,
   ⟨State.reset, by decide +kernel⟩⟩

/-- States and operands that meet the hypotheses of ViolationsStopTheModule. -/
theorem witness_ViolationsStopTheModule :
  (∃ (s : State) (cause : BitVec 8),
    1 ≤ cause.toNat ∧ cause.toNat ≤ 9 ∧ s.boot.stopped = none ∧ s.inv = true) ∧
  (∃ (s : State) (cause : BitVec 8) (c : Nat), 1 ≤ cause.toNat ∧ cause.toNat ≤ 9 ∧ s.boot.stopped = some c) ∧
  (∃ (cause : BitVec 8), cause = 0 ∨ 9 < cause.toNat) ∧
  (∃ (s : State), s.inv = true ∧ s.boot.resetL = false) ∧
  (∃ (s : State), s.inv = true ∧ s.boot.resetL = true) ∧
  (∃ (i : BitVec 32), 64 ≤ i.toNat) ∧
  (∃ (s : State) (i : BitVec 32) (r : BitVec 128), i.toNat < 64 ∧ s.boot.faultLog[i.toNat]? = some r) ∧
  (∃ (s : State) (i : BitVec 32), i.toNat < 64 ∧ s.boot.faultLog[i.toNat]? = none) :=
  ⟨⟨lockedAt 0, 3, by decide +kernel⟩,
   ⟨{ lockedAt 0 with boot := { stopped := some 5 } }, 3, 5, by decide +kernel⟩,
   ⟨0, by decide +kernel⟩,
   ⟨{ lockedAt 0 with boot := { resetL := false } }, by decide +kernel⟩,
   ⟨lockedAt 0, by decide +kernel⟩,
   ⟨64, by decide +kernel⟩,
   ⟨{ lockedAt 0 with boot := { faultLog := [9] } }, 0, 9, by decide +kernel⟩,
   ⟨lockedAt 0, 3, by decide +kernel⟩⟩

/-- States and operands that meet the hypotheses of WavePointIsFixedBeforeTheBoundary. -/
theorem witness_WavePointIsFixedBeforeTheBoundary :
  ∃ (s : State), boundariesKnown s = true ∧ s.steep.waved = false :=
  ⟨lockedAt 0, by decide +kernel⟩

/-- States and operands that meet the hypotheses of StampsHoldSteepAndOffset. -/
theorem witness_StampsHoldSteepAndOffset :
  (∃ (s : State),
    s.steep.b.toNat ≤ s.time.toNat ∧
      s.time.toNat < s.steep.b.toNat + s.steep.len * cyclesPerUs ∧ s.steep.len * cyclesPerUs ≤ 8000000) ∧
  (∃ (s : State) (ty : Nat), (cfg s 25344 1).testBit ty = true ∧ s.obs.staging.length < 4096) :=
  ⟨⟨lockedAt 0, by decide +kernel⟩,
   ⟨lockedAt 0, 1, by decide +kernel⟩⟩

/-- States and operands that meet the hypotheses of HistogramsClearAtTheBoundary. -/
theorem witness_HistogramsClearAtTheBoundary :
  ∃ (s : State) (p : BitVec 6) (c : Nat),
  (partOf s p.toNat).resetAt = some c ∧
    atBoundary s = true ∧ c + 40000 ≤ s.clock ∧ s.steep.sidx = 0 ∧ sparseWf [] s.obs.hists = true :=
  ⟨atB (partState { state := .resetting, resetAt := some 0 }), 0, 0, by decide +kernel⟩

/-- States and operands that meet the hypotheses of OrderlyStopCompletesEveryCommand. -/
theorem witness_OrderlyStopCompletesEveryCommand :
  (∃ (s : State) (c : Cmd), s.boot.stopped = none ∧ s.boot.pcieWidth ≠ 0 ∧ c ∈ s.front.cmds) ∧
  (∃ (s : State) (t : State), s.boot.stopped = none ∧ t.boot.shutdown = true) :=
  ⟨⟨{ cmdState 0 with boot := { pcieWidth := 16 } }, cmdFor 0 0, by decide +kernel⟩,
   ⟨State.reset, { State.reset with boot := { shutdown := true } }, by decide +kernel⟩⟩

/-- States and operands that meet the hypotheses of StretchChangesAtWavePointsAlone. -/
theorem witness_StretchChangesAtWavePointsAlone :
  ∃ (c : Instr) (s : State) (t : State), exec c s = Outcome.next t :=
  ⟨.wavePoint, lockedAt 0, _, rfl⟩

/-- States and operands that meet the hypotheses of EngineMovesAsItsTable. -/
theorem witness_EngineMovesAsItsTable :
  ∃ (c : Instr) (s : State) (t : State),
  exec c s = Outcome.next t ∧
    s.steep.engine = EngineState.locked ∧ t.steep.engine ≠ EngineState.locked ∧ t.steep.engine ≠ EngineState.off :=
  ⟨.environmentViolation 3 0, lockedAt 0, _, rfl, by decide +kernel⟩

/-- States and operands that meet the hypotheses of KeysEnterSlotsByImportAlone. -/
theorem witness_KeysEnterSlotsByImportAlone :
  ∃ (c : Instr) (s : State) (t : State), s.inv = true ∧ exec c s = Outcome.next t :=
  ⟨.wavePoint, lockedAt 0, _, by decide +kernel, rfl⟩

end Sys2Proof.Machine
end

section
/-! O4. Every step keeps the canonical forms.

`Canon` is `State.inv` with a name for each collection. A record update that writes no collection keeps it by
`Canon.frame` or `Canon.frameParts`; one that writes a collection keeps it by the law of the operation that writes
(`sparseWf_sput`, `sparseWf_smap`, `sparseWf_filter`, `memWf_write`, ...). Then one lemma for each function of the model
that answers a state (`Canon.f`, of the state in a pair where it answers a pair) and one for each row of the instruction
table (`Kept.execX`), in the order of the model's files. Each follows the branches of its function; `exec_kept` and
`step_kept` put them together. -/

set_option Elab.async false

namespace Sys2Proof.Machine

/-! ### The invariant, field by field -/

/-- `State.inv` as a proposition with a name for each collection's form. -/
structure Canon (s : State) : Prop where
  mem : memWf s.mem = true
  cores : sparseWf {} s.prog.cores = true
  parts : sparseWf {} s.front.parts = true
  queues : sparseWf {} s.front.queues = true
  slots : sparseWf {} s.cust.slots = true
  ports : sparseWf {} s.fab.ports = true
  descs : sparseWf 0 s.ad.descs = true
  moves : sparseWf none s.ad.pending = true
  hbm : sparseWf {} s.hbm.stk = true

theorem canon_iff_inv {s : State} : Canon s ↔ s.inv = true := by
  simp only [State.inv, Bool.and_eq_true]
  constructor
  · rintro ⟨h1, h2, h3, h4, h5, h6, h7, h8, h9⟩
    exact ⟨⟨⟨⟨⟨⟨⟨⟨h1, h2⟩, h3⟩, h4⟩, h5⟩, h6⟩, h7⟩, h8⟩, h9⟩
  · rintro ⟨⟨⟨⟨⟨⟨⟨⟨h1, h2⟩, h3⟩, h4⟩, h5⟩, h6⟩, h7⟩, h8⟩, h9⟩
    exact ⟨h1, h2, h3, h4, h5, h6, h7, h8, h9⟩

theorem sparseWf_smap {α : Type} [DecidableEq α] (d : α) (f : Nat → α → α) (m : Sparse α) (hm : sparseWf d m = true) :
    sparseWf d (smap d f m) = true := by
  rw [sparseWf_iff] at hm ⊢
  refine ⟨List.Pairwise.filter _ (List.pairwise_map.mpr hm.1), fun e he => ?_⟩
  simpa using (List.mem_filter.mp he).2

theorem memWf_foldl_store (cells m : Mem) (hm : memWf m = true) :
    memWf (cells.foldl (fun m c => memStore m c.1 c.2) m) = true := by
  induction cells generalizing m with
  | nil => exact hm
  | cons c cells ih => exact ih _ (memWf_store _ _ _ hm)

theorem memWf_foldl_write (m : Mem) (a : Nat) (cs : List (List Byte)) (hm : memWf m = true) :
    memWf (cs.foldl (fun m c => memWrite m a c) m) = true := by
  induction cs generalizing m with
  | nil => exact hm
  | cons c cs ih => exact ih _ (memWf_write _ _ _ hm)

namespace Canon

variable {s : State}

/-! ### Rules for the shapes of the model's definitions -/

/-- A record update outside the parts that hold the collections. -/
theorem frame {pending clock time timeKnown slew free power steep red leaf dict obs boot out} (h : Canon s) :
    Canon (.mk pending clock time timeKnown slew free s.mem power steep s.prog s.ad s.front red s.hbm leaf s.fab s.cust
      dict obs boot out) :=
  ⟨h.mem, h.cores, h.parts, h.queues, h.slots, h.ports, h.descs, h.moves, h.hbm⟩

/-- A record update that changes those parts but not their collections. -/
theorem frameParts {pending clock time timeKnown slew free power steep prog ad front red hbm leaf fab cust dict obs boot
      out} (h : Canon s)
    (hc : prog.cores = s.prog.cores := by dsimp only) (hp : front.parts = s.front.parts := by dsimp only)
    (hq : front.queues = s.front.queues := by dsimp only) (hs : cust.slots = s.cust.slots := by dsimp only)
    (hf : fab.ports = s.fab.ports := by dsimp only) (hd : ad.descs = s.ad.descs := by dsimp only)
    (hm : ad.pending = s.ad.pending := by dsimp only) (hk : hbm.stk = s.hbm.stk := by dsimp only) :
    Canon (.mk pending clock time timeKnown slew free s.mem power steep prog ad front red hbm leaf fab cust dict obs boot
      out) :=
  ⟨h.mem, hc ▸ h.cores, hp ▸ h.parts, hq ▸ h.queues, hs ▸ h.slots, hf ▸ h.ports, hd ▸ h.descs, hm ▸ h.moves, hk ▸ h.hbm⟩

theorem withMem {m : Mem} (h : Canon s) (hm : memWf s.mem = true → memWf m = true) : Canon { s with mem := m } :=
  { h with mem := hm h.mem }

theorem withProg {p : Programs} (h : Canon s) (hc : sparseWf {} s.prog.cores = true → sparseWf {} p.cores = true) :
    Canon { s with prog := p } :=
  { h with cores := hc h.cores }

theorem withFront {f : Front} (h : Canon s) (hp : sparseWf {} s.front.parts = true → sparseWf {} f.parts = true)
    (hq : sparseWf {} s.front.queues = true → sparseWf {} f.queues = true) : Canon { s with front := f } :=
  { h with parts := hp h.parts, queues := hq h.queues }

theorem withCust {c : Custody} (h : Canon s) (hs : sparseWf {} s.cust.slots = true → sparseWf {} c.slots = true) :
    Canon { s with cust := c } :=
  { h with slots := hs h.slots }

theorem withFab {f : Fabric} (h : Canon s) (hp : sparseWf {} s.fab.ports = true → sparseWf {} f.ports = true) :
    Canon { s with fab := f } :=
  { h with ports := hp h.ports }

theorem withAd {a : Adapters} (h : Canon s) (hd : sparseWf 0 s.ad.descs = true → sparseWf 0 a.descs = true)
    (hp : sparseWf none s.ad.pending = true → sparseWf none a.pending = true) : Canon { s with ad := a } :=
  { h with descs := hd h.descs, moves := hp h.moves }

theorem withHbm {b : Hbm} (h : Canon s) (hk : sparseWf {} s.hbm.stk = true → sparseWf {} b.stk = true) :
    Canon { s with hbm := b } :=
  { h with hbm := hk h.hbm }

theorem ite {a b : State} {c : Prop} [Decidable c] (ha : Canon a) (hb : Canon b) : Canon (if c then a else b) := by
  split
  · exact ha
  · exact hb

theorem foldl {α : Type} {f : State → α → State} {l : List α} (h : Canon s)
    (hf : ∀ s x, Canon s → Canon (f s x)) : Canon (l.foldl f s) := by
  induction l generalizing s with
  | nil => exact h
  | cons x l ih => exact ih (hf s x h)

theorem foldl_snd {α β : Type} {f : β × State → α → β × State} {l : List α} {p : β × State} (h : Canon p.2)
    (hf : ∀ p x, Canon p.2 → Canon (f p x).2) : Canon (l.foldl f p).2 := by
  induction l generalizing p with
  | nil => exact h
  | cons x l ih => exact ih (hf p x h)

/-- The state of a pair that a function answered. -/
theorem of_snd {α : Type} {p : α × State} {a : α} (hp : p = (a, s)) (h : Canon p.2) : Canon s := by
  rw [hp] at h
  exact h

end Canon

/-- Whatever next state an outcome answers is canonical. -/
def Kept (o : Host.Outcome State Fault Refusal) : Prop := ∀ t, o = .next t → Canon t

namespace Kept

theorem done {s : State} (h : Canon s) : Kept (done s) := fun _ ht => Host.Outcome.next.inj ht ▸ h

theorem onlyIf {s : State} {f : State → State} {c : Bool} (h : Canon s) (hf : ∀ s, Canon s → Canon (f s)) :
    Kept (onlyIf c s f) :=
  done (.ite (hf s h) h)

theorem ite {a b : Host.Outcome State Fault Refusal} {c : Prop} [Decidable c] (ha : Kept a) (hb : Kept b) :
    Kept (if c then a else b) := by
  split
  · exact ha
  · exact hb

end Kept

/-- Whatever state an option holds is canonical. -/
def KeptSome (o : Option State) : Prop := ∀ t, o = some t → Canon t

namespace KeptSome

theorem none : KeptSome none := fun _ ht => (Option.some_ne_none _ ht.symm).elim

theorem some {s : State} (h : Canon s) : KeptSome (some s) := fun _ ht => Option.some.inj ht ▸ h

theorem ite {a b : Option State} {c : Prop} [Decidable c] (ha : KeptSome a) (hb : KeptSome b) :
    KeptSome (if c then a else b) := by
  split
  · exact ha
  · exact hb

end KeptSome

theorem Canon.getD {s : State} {o : Option State} (h : Canon s) (ho : KeptSome o) : Canon (o.getD s) := by
  cases o with
  | none => exact h
  | some t => exact ho t rfl

/-! ### Machine/Ops.lean -/

theorem Canon.pass {n d g s} (h : Canon s) : Canon (pass n d g s) :=
  .frame h

theorem Canon.elapse {n s} (h : Canon s) : Canon (elapse n s) := by
  unfold Machine.elapse
  exact .pass h

theorem Canon.untilTime {t s} (h : Canon s) : Canon (untilTime t s) := by
  unfold Machine.untilTime
  exact .pass h

theorem Canon.untilClock {c s} (h : Canon s) : Canon (untilClock c s) :=
  .elapse h

theorem Canon.emit {o s} (h : Canon s) : Canon (emit o s) :=
  .frame h

theorem Canon.send {d p s} (h : Canon s) : Canon (send d p s) :=
  .emit h

theorem Canon.fresh {w s} (h : Canon s) : Canon (fresh w s).2 :=
  .frame h

theorem Canon.setCore {s c k} (h : Canon s) : Canon (setCore s c k) :=
  .withProg h (sparseWf_sput _ _ _ _)

theorem Canon.updCore {c f s} (h : Canon s) : Canon (updCore c f s) :=
  .setCore h

/-! ### Machine/Entries.lean -/

theorem Canon.setCfg {i sub v s} (h : Canon s) : Canon (setCfg i sub v s) :=
  .frame h

theorem Canon.setBoth {i sub v s} (h : Canon s) : Canon (setBoth i sub v s) :=
  .frame h

/-! ### Machine/Observe.lean -/

theorem Canon.stamp {unit s} (h : Canon s) : Canon (stamp unit s).2 := by
  unfold Machine.stamp
  exact .frame h

theorem Canon.count {block ev n s} (h : Canon s) : Canon (count block ev n s) :=
  .frame h

theorem Canon.histSample {hf u x s} (h : Canon s) : Canon (histSample hf u x s) := by
  unfold Machine.histSample
  exact .frame h

theorem Canon.trace {ty block part data s} (h : Canon s) : Canon (trace ty block part data s) :=
  .ite (.ite (.frame <| .stamp h) (.frame <| .stamp h)) h

theorem Canon.numericEvent {cls block unit op part adid s} (h : Canon s) :
    Canon (numericEvent cls block unit op part adid s) := by
  unfold Machine.numericEvent
  exact .ite (.count <| .frame h) (.trace <| .count <| .frame h)

theorem Canon.numericEvents {classes block unit op part adid s} (h : Canon s) :
    Canon (numericEvents classes block unit op part adid s) :=
  .foldl h fun _ _ h => .ite (.numericEvent h) h

/-! ### Machine/Crypto.lean -/

theorem Canon.setSlot {n k s} (h : Canon s) : Canon (setSlot n k s) := by
  unfold Machine.setSlot
  extract_lets _ _ s1
  have h1 : Canon s1 := .withCust h (sparseWf_sput _ _ _ _)
  exact .ite h1 (.trace h1)

theorem Canon.nextNonce {unit s} (h : Canon s) : Canon (nextNonce unit s).2 := by
  unfold Machine.nextNonce
  extract_lets
  split
  · exact h
  · exact .frameParts h

theorem Canon.countGcmFail {n s} (h : Canon s) : Canon (countGcmFail n s) :=
  .frameParts h

theorem Canon.countStale {n s} (h : Canon s) : Canon (countStale n s) :=
  .frameParts h

theorem Canon.measure {i ty data s} (h : Canon s) : Canon (measure i ty data s) := by
  unfold Machine.measure
  extract_lets _ _ c0 c1 c2
  have h1 : c1.slots = s.cust.slots := by
    unfold c1
    split <;> rfl
  have h2 : c2.slots = s.cust.slots := by
    unfold c2
    split
    · exact h1
    · exact h1
  exact .withCust h (h2 ▸ id)

/-! ### Machine/Blocks.lean -/

theorem Canon.updStack {i f s} (h : Canon s) : Canon (updStack i f s) :=
  .withHbm h (sparseWf_sput _ _ _ _)

theorem Canon.setBlock {b r s} (h : Canon s) : Canon (setBlock b r s) :=
  .frameParts h

theorem Canon.countHbm {ev a n s} (h : Canon s) : Canon (countHbm ev a n s) := by
  unfold Machine.countHbm
  split
  · exact .count h
  · exact h

theorem Canon.storeBytes {a bs s} (h : Canon s) : Canon (storeBytes a bs s) :=
  .withMem h (memWf_write _ _ _)

theorem Canon.writeInBlock {crc a bs s} (h : Canon s) : Canon (writeInBlock crc a bs s) := by
  unfold Machine.writeInBlock
  extract_lets s1 s2
  have h1 : Canon s1 := .countHbm h
  have h2 : Canon s2 := .ite (.countHbm h1) h1
  have h3 {b r} : Canon (Machine.setBlock b r (Machine.storeBytes a bs s2)) := .setBlock <| .storeBytes h2
  exact .ite h <| .ite (.ite h3 h3) h3

theorem Canon.writeStored {crc a bs s} (h : Canon s) : Canon (writeStored crc a bs s) :=
  .foldl h fun _ _ h => .ite (.writeInBlock h) (.storeBytes h)

theorem Canon.countNoKey {n s} (h : Canon s) : Canon (countNoKey n s) :=
  .frameParts h

theorem Canon.xtsWriteIn {slot crc a bs s} (h : Canon s) : Canon (xtsWriteIn slot crc a bs s) := by
  unfold Machine.xtsWriteIn
  extract_lets
  split
  · exact h
  · split
    · exact .writeInBlock <| .setBlock h
    · split
      · exact .writeInBlock h
      · exact .countNoKey <| .writeInBlock <| .setBlock h

theorem Canon.xtsWrite {slot crc a bs s} (h : Canon s) : Canon (xtsWrite slot crc a bs s) :=
  .foldl h fun _ _ h => .xtsWriteIn h

theorem Canon.xtsRead {slot a n s} (h : Canon s) : Canon (xtsRead slot a n s).2 := by
  unfold Machine.xtsRead
  exact .countNoKey <| .countHbm h

theorem Canon.xtsReadAt {slot a n s} (h : Canon s) : Canon (xtsReadAt slot a n s).2 := by
  unfold Machine.xtsReadAt
  exact .xtsRead h

theorem Canon.readStored {a n s} (h : Canon s) : Canon (readStored a n s).2 :=
  .countHbm h

theorem Canon.rasEvent {st pc bank row kind s} (h : Canon s) : Canon (rasEvent st pc bank row kind s) := by
  unfold Machine.rasEvent
  exact .trace <| .frameParts h

theorem Canon.retirePc {st pc s} (h : Canon s) : Canon (retirePc st pc s) := by
  unfold Machine.retirePc
  extract_lets
  split
  · exact h
  · exact .ite h (.rasEvent <| .frameParts <| .updStack h)

theorem Canon.rowFailing {st pc bank row s} (h : Canon s) : Canon (rowFailing st pc bank row s) := by
  unfold Machine.rowFailing
  extract_lets
  split
  · exact .ite (.updStack <| .rasEvent h) (.retirePc <| .rasEvent h)
  · exact .rasEvent h
  · exact .retirePc <| .rasEvent h

theorem Canon.unitFailing {u s} (h : Canon s) : Canon (unitFailing u s) := by
  unfold Machine.unitFailing
  extract_lets
  split
  · exact .rowFailing h
  · exact h

theorem Canon.unitCorrected {u s} (h : Canon s) : Canon (unitCorrected u s) := by
  unfold Machine.unitCorrected
  extract_lets
  split
  · exact .ite (.unitFailing <| .updStack <| .count <| .updStack h) (.count <| .updStack h)
  · exact h

theorem Canon.eccEvents {env b s} (h : Canon s) : Canon (eccEvents env b s) := by
  unfold Machine.eccEvents
  refine .foldl h fun _ _ h => ?_
  extract_lets _ s1
  have h1 : Canon s1 := .ite (.unitCorrected h) h
  exact .ite (.unitFailing h1) h1

theorem Canon.verifyBlock {env b s} (h : Canon s) : Canon (verifyBlock env b s).2 := by
  unfold Machine.verifyBlock
  extract_lets _ _ _ s1 s2 _ s3
  have h3 : Canon s3 := .rasEvent <| .setBlock <| .count <| .frameParts h
  split
  · exact h
  · split
    · exact .eccEvents <| .count <| .frameParts h
    · split
      · exact .eccEvents h
      · split
        · exact .ite (.eccEvents h3) (.foldl h3 fun _ _ h => .unitFailing h)
        · split
          · exact .eccEvents <| .count <| .frameParts h
          · exact .eccEvents h

theorem Canon.eccRange {env a n s} (h : Canon s) : Canon (eccRange env a n s) :=
  .ite h (.foldl h (fun _ _ h => .eccEvents h))

theorem Canon.verifyRange {env a n s} (h : Canon s) : Canon (verifyRange env a n s).2 := by
  unfold Machine.verifyRange
  split
  · exact h
  · exact .foldl_snd h fun _ _ h => .verifyBlock h

theorem Canon.updPart {p f s} (h : Canon s) : Canon (updPart p f s) :=
  .withFront h (sparseWf_sput _ _ _ _) id

theorem Canon.setMapBit {m i s} (h : Canon s) : Canon (setMapBit m i s) := by
  unfold Machine.setMapBit
  exact .writeStored h

theorem Canon.logMem {p a n s} (h : Canon s) : Canon (logMem p a n s) := by
  unfold Machine.logMem
  extract_lets
  split
  · exact h
  · refine .foldl h fun _ _ h => ?_
    extract_lets
    split
    · exact h
    · exact .setMapBit h

theorem Canon.logHost {p a n s} (h : Canon s) : Canon (logHost p a n s) := by
  unfold Machine.logHost
  exact .ite h <| .ite (.foldl h (fun _ _ h => .setMapBit h)) (.updPart h)

theorem Canon.hostWrite {p a bs s} (h : Canon s) : Canon (hostWrite p a bs s) :=
  .emit <| .count <| .logHost h

theorem Canon.countHostRead {n s} (h : Canon s) : Canon (countHostRead n s) :=
  .count h

theorem Canon.xtsWriteFor {p slot crc a bs s} (h : Canon s) : Canon (xtsWriteFor p slot crc a bs s) :=
  .logMem <| .xtsWrite h

theorem Canon.gcmFetch {hf a len slot gen s} (h : Canon s) : Canon (gcmFetch hf a len slot gen s).2 := by
  unfold Machine.gcmFetch
  exact .countGcmFail <| .countStale <| .countHostRead h

theorem Canon.gcmSeal {unit slot bs s} (h : Canon s) : Canon (gcmSeal unit slot bs s).2 := by
  unfold Machine.gcmSeal
  extract_lets
  split
  · exact h
  · refine .foldl_snd h fun _ _ h => ?_
    split
    · exact h
    next hv =>
      split
      next hv => exact .of_snd hv (.nextNonce h)
      next hv => exact .of_snd hv (.nextNonce h)

/-! ### Machine/Common.lean -/

theorem Canon.engineRecord {reason s} (h : Canon s) : Canon (engineRecord reason s) :=
  .frame h

theorem Canon.setEngine {e reason s} (h : Canon s) : Canon (setEngine e reason s) := by
  unfold Machine.setEngine
  exact .ite h (.trace <| .frame <| .ite h (.engineRecord h))

theorem Canon.enterListen {reason s} (h : Canon s) : Canon (enterListen reason s) := by
  unfold Machine.enterListen
  exact .frame <| .setEngine h

theorem Canon.failStep {b s} (h : Canon s) : Canon (failStep b s) :=
  .frame h

theorem Canon.finishWith {copied id status detail info s} (h : Canon s) :
    Canon (finishWith copied id status detail info s) := by
  unfold Machine.finishWith
  split
  · exact h
  · exact .frameParts h

theorem Canon.finish {id status detail info s} (h : Canon s) : Canon (finish id status detail info s) :=
  .finishWith h

theorem Canon.faultRecord {cls cause block value s} (h : Canon s) :
    Canon (faultRecord cls cause block value s) := by
  unfold Machine.faultRecord
  exact .frame h

theorem Canon.startupStop {cause value s} (h : Canon s) : Canon (startupStop cause value s) := by
  unfold Machine.startupStop
  exact .frame <| .faultRecord h

theorem Canon.sendMsix {p v s} (h : Canon s) : Canon (sendMsix p v s) :=
  .ite (.updPart h) (.count <| .emit h)

/-! ### Machine/Tenancy.lean -/

theorem Canon.updFront {f s} (h : Canon s) (hp : ∀ r, (f r).parts = r.parts := by intro _; rfl)
    (hq : ∀ r, (f r).queues = r.queues := by intro _; rfl) : Canon (updFront f s) :=
  .withFront h (hp _ ▸ id) (hq _ ▸ id)

theorem Kept.onHead {op s f} (h : Canon s) (hf : ∀ c s, Canon s → Canon (f c s)) : Kept (onHead op s f) := by
  unfold Machine.onHead
  split
  · exact .done h
  · exact .done <| hf _ _ h

theorem Canon.takeUp {id s} (h : Canon s) : Canon (takeUp id s) :=
  .updFront h

theorem Canon.updAd {f s} (h : Canon s) (hd : ∀ a, (f a).descs = a.descs := by intro _; rfl)
    (hp : ∀ a, (f a).pending = a.pending := by intro _; rfl) : Canon (updAd f s) :=
  .withAd h (hd _ ▸ id) (hp _ ▸ id)

theorem Canon.setDesc {d w s} (h : Canon s) : Canon (setDesc d w s) :=
  .withAd h (sparseWf_sput _ _ _ _) id

/-! ### Machine/Kv.lean -/

theorem Canon.updKv {p f s} (h : Canon s) : Canon (updKv p f s) :=
  .updPart h

theorem Canon.evictTree {p n s} (h : Canon s) : Canon (evictTree p n s) := by
  induction n generalizing s with
  | zero => exact h
  | succ n ih =>
    unfold Machine.evictTree
    extract_lets _ best
    split
    · exact h
    · cases best with
      | none => exact h
      | some e => exact ih <| .frameParts <| .updKv h

theorem Canon.evict {p s} (h : Canon s) : Canon (evict p s) :=
  .evictTree h

theorem Canon.kvOpen {c gen hf b hashes s} (h : Canon s) : Canon (kvOpen c gen hf b hashes s) := by
  unfold Machine.kvOpen
  exact .finish <| .frameParts <| .updKv h

theorem Kept.execKvOpen {host s} (h : Canon s) : Kept (execKvOpen host s) := by
  unfold Machine.execKvOpen
  refine .onHead h fun _ _ h => ?_
  extract_lets
  split
  · exact .finish h
  · split
    · exact .finish h
    · split
      · exact .finish h
      · split
        · exact .finish h
        · split
          · split
            · exact .finish h
            · split
              · exact .kvOpen h
              · split
                · exact .finish <| .gcmFetch h
                · split
                  · exact .finish <| .gcmFetch h
                  · split
                    · exact .finish <| .gcmFetch h
                    · exact .kvOpen <| .gcmFetch h
          · exact .finish h

theorem Kept.execKvFork {s} (h : Canon s) : Kept (execKvFork s) := by
  unfold Machine.execKvFork
  refine .onHead h fun _ _ h => ?_
  extract_lets
  split
  · exact .finish h
  · split
    · exact .finish h
    · exact .ite (.finish h) (.finish <| .updKv h)

theorem Kept.execKvClose {s} (h : Canon s) : Kept (execKvClose s) := by
  unfold Machine.execKvClose
  refine .onHead h fun _ _ h => ?_
  extract_lets
  split
  · exact .finish h
  · split
    · exact .finish h
    · exact .finish h
    · exact .takeUp <| .updKv h
    · exact .takeUp <| .updKv h

theorem Kept.execKvCloseFree {part seq s} (h : Canon s) : Kept (execKvCloseFree part seq s) := by
  unfold Machine.execKvCloseFree
  extract_lets
  split
  · exact .done h
  · exact .ite (.done h) (.done <| .finish <| .updKv h)

theorem Kept.execKvRead {s} (h : Canon s) : Kept (execKvRead s) :=
  .onHead h fun _ _ h => .finish h

theorem Kept.execKvCopyOnWrite {part seq s} (h : Canon s) : Kept (execKvCopyOnWrite part seq s) := by
  unfold Machine.execKvCopyOnWrite
  extract_lets
  split
  · exact .done h
  · exact .done <| .frameParts <| .updKv <| .foldl (.untilTime h) fun _ _ h => .foldl h fun _ _ h => .xtsWriteFor <|
      .xtsRead h

theorem Canon.settleSequence {p q ok len mine s} (h : Canon s) : Canon (settleSequence p q ok len mine s) := by
  unfold Machine.settleSequence
  extract_lets
  split
  · exact h
  · split
    · exact .updKv h
    · split
      · exact .updKv h
      · refine .evict <| .foldl (.updKv h) fun _ _ h => ?_
        split
        · exact h
        · exact .ite h <| .ite (.frameParts h) <| .ite h (.updKv h)

theorem Canon.invalidateSeqs {p f s} (h : Canon s) : Canon (invalidateSeqs p f s) :=
  .updKv h

theorem Canon.dropTree {p f s} (h : Canon s) : Canon (dropTree p f s) :=
  .updKv h

theorem Canon.kvBaseReleased {g s} (h : Canon s) : Canon (kvBaseReleased g s) :=
  .foldl h fun _ _ h => .dropTree <| .invalidateSeqs h

theorem Canon.kvRotated {slot s} (h : Canon s) : Canon (kvRotated slot s) :=
  .foldl h fun _ _ h => .dropTree h

theorem Canon.kvRemoved {slot s} (h : Canon s) : Canon (kvRemoved slot s) :=
  .foldl h fun _ _ h => .updKv h

theorem Canon.kvScrubbed {slot s} (h : Canon s) : Canon (kvScrubbed slot s) :=
  .foldl h fun _ _ h => .updKv h

/-! ### Machine/Adapters.lean -/

theorem Canon.updRed {f s} (h : Canon s) : Canon (updRed f s) :=
  .frame h

theorem Canon.enterShards {xs s} (h : Canon s) : Canon (enterShards xs s) :=
  .updRed h

theorem Canon.dropShards {didx s} (h : Canon s) : Canon (dropShards didx s) :=
  .updRed h

theorem Canon.setOutstanding {didx s} (h : Canon s) : Canon (setOutstanding didx s) := by
  unfold Machine.setOutstanding
  exact .updAd h

theorem Canon.releaseLater {adid one s} (h : Canon s) : Canon (releaseLater adid one s) :=
  .updAd h

theorem Canon.invalidateDesc {didx reason s} (h : Canon s) : Canon (invalidateDesc didx reason s) := by
  unfold Machine.invalidateDesc
  extract_lets _ s1 s2
  have h2 : Canon s2 := .releaseLater <| .setDesc h
  split
  · exact h
  · split
    · exact h2
    · exact .finish <| .withAd h2 id (sparseWf_sput _ _ _ _)

theorem Canon.invalidateDescs {reason f s} (h : Canon s) : Canon (invalidateDescs reason f s) :=
  .foldl h fun _ _ h => .invalidateDesc h

theorem Kept.execAdapterCreate {host s} (h : Canon s) : Kept (execAdapterCreate host s) := by
  unfold Machine.execAdapterCreate
  refine .onHead h fun _ _ h => ?_
  extract_lets _ s1
  have h1 : Canon s1 := .countHostRead h
  split
  · exact .finish <| .countGcmFail h
  · exact .ite (.finish h1) <| .ite (.finish h1) <| .ite (.finish h1) <| .ite (.finish h1) <|
      .ite (.finish h1) (.finish <| .setDesc h1)

theorem Kept.execAdapterState {s} (h : Canon s) : Kept (execAdapterState s) := by
  unfold Machine.execAdapterState
  refine .onHead h fun c s h => ?_
  split
  · exact .finish h
  · next i _ =>
    extract_lets _ s1
    have h1 : Canon s1 := by
      unfold s1
      split
      · exact h
      · exact .finish h
    exact .ite (.finish h) (.ite (.finish h) (.takeUp <| .withAd h1 id (sparseWf_sput _ _ _ _)))

theorem Kept.execAdapterDestroy {s} (h : Canon s) : Kept (execAdapterDestroy s) := by
  unfold Machine.execAdapterDestroy
  refine .onHead h fun _ _ h => ?_
  split
  · exact .finish h
  · exact .takeUp <| .updAd <| .releaseLater h

theorem Kept.execAdapterDestroyFree {didx s} (h : Canon s) : Kept (execAdapterDestroyFree didx s) := by
  unfold Machine.execAdapterDestroyFree
  extract_lets _ _ s1 s2
  have h1 : Canon s1 := by
    unfold s1
    split
    · exact h
    · exact .finish h
  have h2 : Canon s2 := .dropShards <| .setDesc <| .withAd h1 id (sparseWf_sput _ _ _ _)
  exact .ite (.done h) (.done <| .foldl h2 fun _ _ h => .finish h)

theorem Kept.execAdapterClaim {s} (h : Canon s) : Kept (execAdapterClaim s) := by
  unfold Machine.execAdapterClaim
  refine .onHead h fun _ _ h => ?_
  split
  · exact .finish h
  · exact .ite (.finish h) (.takeUp <| .send <| .updAd h)

theorem Kept.execSlotClaimPacket {stamp sna seq adid layer slot keySlot kgen share s} (h : Canon s) :
    Kept (execSlotClaimPacket stamp sna seq adid layer slot keySlot kgen share s) :=
  .ite (.done h) (.done <| .send <| .updAd h)

theorem Kept.execAdapterRelease {s} (h : Canon s) : Kept (execAdapterRelease s) := by
  unfold Machine.execAdapterRelease
  refine .onHead h fun _ _ h => ?_
  split
  · exact .finish h
  · exact .ite (.finish h) (.finish <| .releaseLater h)

theorem Canon.applyRelease {r s} (h : Canon s) : Canon (applyRelease r s) :=
  .updAd h

theorem Canon.commitExperts {s} (h : Canon s) : Canon (commitExperts s) := by
  unfold Machine.commitExperts
  extract_lets
  refine .foldl (.updAd <| .updAd <| .foldl h (fun _ _ h => .applyRelease h)) fun _ _ h => ?_
  extract_lets
  split
  · exact .updAd h
  · exact .finish <| .updAd h

theorem Canon.setCaddy {die c s} (h : Canon s) : Canon (setCaddy die c s) :=
  .updAd h (fun _ => by split <;> rfl) (fun _ => by split <;> rfl)

theorem Canon.dropCaddy {f s} (h : Canon s) : Canon (dropCaddy f s) :=
  .foldl h fun _ _ h => .setCaddy h

theorem Canon.dropStale {f s} (h : Canon s) : Canon (dropStale f s) :=
  .dropCaddy <| .foldl h fun _ _ h => .ite h (.count h)

theorem Canon.zeroCaddySlot {slot s} (h : Canon s) : Canon (zeroCaddySlot slot s) :=
  .foldl h fun _ _ h => .setCaddy h

theorem Canon.dropPage {d r s} (h : Canon s) : Canon (dropPage d r s) := by
  unfold Machine.dropPage
  exact .dropStale h

/-! ### Machine/Frames.lean -/

theorem Canon.updDict {f s} (h : Canon s) : Canon (updDict f s) :=
  .frame h

theorem Canon.acceptFrame {path source bs s} (h : Canon s) : Canon (acceptFrame path source bs s) :=
  .ite (.updDict h) (.updDict h)

/-! ### Machine/Links.lean -/

theorem Canon.updPort {p f s} (h : Canon s) : Canon (updPort p f s) :=
  .withFab h (sparseWf_sput _ _ _ _)

theorem Canon.fabricFault {f s} (h : Canon s) : Canon (fabricFault f s) :=
  .frameParts h

theorem Canon.floodLinkState {s} (h : Canon s) : Canon (floodLinkState s) := by
  unfold Machine.floodLinkState
  exact .send h

theorem Canon.setPort {p st s} (h : Canon s) : Canon (setPort p st s) := by
  unfold Machine.setPort
  extract_lets _ _ s1 _ s2 s3
  have h3 : Canon s3 := .trace <| .frameParts <| .updPort h
  exact .ite h <| .ite (.floodLinkState h3) h3

theorem Canon.clearSession {p s} (h : Canon s) : Canon (clearSession p s) :=
  .updPort h

theorem Canon.sendHello {p s} (h : Canon s) : Canon (sendHello p s) :=
  .send h

theorem Kept.execDownExit {port signal s} (h : Canon s) : Kept (execDownExit port signal s) := by
  unfold Machine.execDownExit
  exact .onlyIf h fun _ h => .setPort <| .ite (.untilClock h) (.untilClock <| .untilClock h)

theorem Kept.execFecLock {port goodErrorRatio s} (h : Canon s) : Kept (execFecLock port goodErrorRatio s) :=
  .onlyIf h fun _ h => .setPort h

theorem Kept.execTrainingTimeout {port s} (h : Canon s) : Kept (execTrainingTimeout port s) := by
  unfold Machine.execTrainingTimeout
  exact .onlyIf h fun _ h => .setPort <| .untilClock h

theorem Canon.keyingFails {p s} (h : Canon s) : Canon (keyingFails p s) :=
  .updPort <| .setPort h

theorem Kept.execLinkSessionExchange {port partnerSna certs nonce closing s} (h : Canon s) :
    Kept (execLinkSessionExchange port partnerSna certs nonce closing s) := by
  unfold Machine.execLinkSessionExchange
  extract_lets
  refine .onlyIf h fun _ h => ?_
  extract_lets keys s1
  have h1 : Canon s1 := .foldl (.frame h) fun _ _ h => .send h
  split
  · exact .keyingFails h
  · cases keys with
    | none => exact .keyingFails h1
    | some k => exact .sendHello <| .setPort <| .updPort <| .clearSession h1

theorem Kept.execKeyingTimeout {port failed s} (h : Canon s) : Kept (execKeyingTimeout port failed s) := by
  unfold Machine.execKeyingTimeout
  exact .onlyIf h fun _ h => .keyingFails <| .ite h (.untilClock h)

theorem Kept.execHello {port sna partnerPort digest s} (h : Canon s) :
    Kept (execHello port sna partnerPort digest s) := by
  unfold Machine.execHello
  extract_lets
  split
  · exact .ite (.done <| .keyingFails h) (.done <| .setPort <| .updPort h)
  · exact .ite (.done <| .setPort <| .updPort h) (.done h)
  · exact .done h

theorem Kept.execHelloResend {port s} (h : Canon s) : Kept (execHelloResend port s) := by
  unfold Machine.execHelloResend
  exact .onlyIf h fun _ h => .sendHello <| .updPort <| .untilClock h

theorem Canon.retrain {p s} (h : Canon s) : Canon (retrain p s) := by
  unfold Machine.retrain
  exact .ite (.setPort <| .updPort <| .setPort h) (.updPort <| .setPort h)

theorem Kept.execLinkDegrade {port lockLost uncorrectable replays s} (h : Canon s) :
    Kept (execLinkDegrade port lockLost uncorrectable replays s) := by
  unfold Machine.execLinkDegrade
  exact .onlyIf (.count h) fun _ h => .retrain h

theorem Canon.resetPort {p s} (h : Canon s) : Canon (resetPort p s) := by
  unfold Machine.resetPort
  exact .updPort <| .clearSession <| .setPort h

theorem Kept.execPortReset {port s} (h : Canon s) : Kept (execPortReset port s) :=
  .onlyIf h fun _ h => .resetPort h

theorem Canon.frameOut {nak p net payload s} (h : Canon s) : Canon (frameOut nak p net payload s) := by
  unfold Machine.frameOut
  extract_lets
  split
  · exact h
  · exact .emit <| .count <| .count <| .updPort h

theorem Canon.sendFrame {p net payload s} (h : Canon s) : Canon (sendFrame p net payload s) := by
  unfold Machine.sendFrame
  exact .ite h (.count <| .frameOut <| .updPort h)

theorem Canon.emptyFrame {nak p s} (h : Canon s) : Canon (emptyFrame nak p s) :=
  .frameOut h

theorem Canon.replayFrom {p keep s} (h : Canon s) : Canon (replayFrom p keep s) := by
  unfold Machine.replayFrom
  exact .foldl (.count <| .frameParts <| .updPort h) fun _ _ h => .emit h

theorem Canon.sendNak {p s} (h : Canon s) : Canon (sendNak p s) :=
  .count <| .emptyFrame h

theorem Canon.authFailure {p s} (h : Canon s) : Canon (authFailure p s) := by
  unfold Machine.authFailure
  extract_lets _ _ s1 s2
  have h2 : Canon s2 := .sendNak <| .count <| .frameParts h
  exact .ite (.fabricFault <| .updPort <| .clearSession <| .setPort h2) (.updPort h2)

theorem Canon.applyLink {p hf s} (h : Canon s) : Canon (applyLink p hf s) := by
  unfold Machine.applyLink
  exact .ite (.replayFrom <| .updPort <| .updPort h) (.updPort <| .updPort h)

theorem Kept.execLinkFrame {port header net payload tag fecClean s} (h : Canon s) :
    Kept (execLinkFrame port header net payload tag fecClean s) := by
  unfold Machine.execLinkFrame
  extract_lets _ _ _ s1 s2 s3
  have h3 : Canon s3 := .count <| .count <| .applyLink <| .updPort h
  refine .ite (.done h) <| .ite (.done <| .sendNak h) ?_
  split
  · exact .done <| .authFailure h
  · exact .ite (.done <| .authFailure h) <| .ite (.done h3) (.done <| .frameParts h3)

theorem Kept.execReplayTimeout {port s} (h : Canon s) : Kept (execReplayTimeout port s) := by
  unfold Machine.execReplayTimeout
  exact .onlyIf h fun _ h => .replayFrom <| .untilClock h

theorem Kept.execRekey {port receive key s} (h : Canon s) : Kept (execRekey port receive key s) := by
  unfold Machine.execRekey
  exact .onlyIf h fun _ h => .ite (.updPort h) (.updPort <| .ite h (.untilClock h))

theorem Kept.execCreditFrame {port s} (h : Canon s) : Kept (execCreditFrame port s) := by
  unfold Machine.execCreditFrame
  exact .onlyIf h fun _ h => .foldl h fun _ _ h => .emptyFrame h

theorem Kept.execCmisPoll {port monitors alarms s} (h : Canon s) : Kept (execCmisPoll port monitors alarms s) := by
  unfold Machine.execCmisPoll
  extract_lets
  refine .onlyIf h fun _ h => ?_
  split
  · exact .updPort <| .ite h (.fabricFault h)
  · exact .updPort h

theorem Kept.execCmisInterrupt {alarms s} (h : Canon s) : Kept (execCmisInterrupt alarms s) :=
  .done <| .foldl h fun _ _ h => .ite (.updPort h) h

/-! ### Machine/Wave.lean -/

theorem Canon.actOnWave {p s} (h : Canon s) : Canon (actOnWave p s) := by
  unfold Machine.actOnWave
  exact .trace <| .frame h

theorem Canon.foundTime {f s} (h : Canon s) : Canon (foundTime f s) :=
  .ite h (.frame h)

theorem Canon.followWave {p s} (h : Canon s) : Canon (followWave p s) := by
  unfold Machine.followWave
  dsimp only
  split
  · exact h
  · split
    · exact .frame h
    · split
      · exact h
      · exact .actOnWave <| .frame h

theorem Canon.takeWave {port p s} (h : Canon s) : Canon (takeWave port p s) := by
  unfold Machine.takeWave
  extract_lets _ _ _ s1 s2
  have h2 : Canon s2 := .send <| .frame h
  have hl {r} : Canon (Machine.enterListen r (Machine.failStep 1 s2)) := .enterListen <| .failStep h2
  refine .ite h ?_
  split
  · exact h2
  · exact h2
  · exact .followWave <| .ite (.foundTime h2) h2
  · refine .ite ?_ h2
    split
    · exact .ite (.actOnWave h2) hl
    · exact .ite hl h2

theorem Kept.execWave {port pkt s} (h : Canon s) : Kept (execWave port pkt s) :=
  .onlyIf h fun _ h => .takeWave h

theorem Kept.execWaveDeadline {s} (h : Canon s) : Kept (execWaveDeadline s) := by
  unfold Machine.execWaveDeadline
  split
  · extract_lets
    split
    · exact .done h
    · exact .ite (.done <| .frame <| .untilTime h) (.done <| .untilTime h)
  · exact .done h
  · exact .done h
  · exact .ite (.done <| .enterListen <| .failStep <| .untilTime h) (.done <| .untilTime h)

theorem Canon.updMaster {f s} (h : Canon s) : Canon (updMaster f s) :=
  .frame h

theorem Canon.takeContribution {p s} (h : Canon s) : Canon (takeContribution p s) := by
  unfold Machine.takeContribution
  exact .ite h (.updMaster h)

theorem Kept.execContribution {pkt s} (h : Canon s) : Kept (execContribution pkt s) :=
  .onlyIf h fun _ h => .takeContribution h

theorem Kept.execGatherDeadline {s} (h : Canon s) : Kept (execGatherDeadline s) := by
  unfold Machine.execGatherDeadline
  split
  · exact .done h
  · extract_lets
    split
    · exact .done h
    · exact .ite (.done <| .takeWave <| .elapse <| .updMaster <| .untilTime h) (.done <| .updMaster <| .untilTime h)

theorem Kept.execBackupWaveFlood {s} (h : Canon s) : Kept (execBackupWaveFlood s) := by
  unfold Machine.execBackupWaveFlood
  split
  · exact .ite (.done h) (.done <| .takeWave <| .untilTime h)
  · exact .done h

theorem Kept.execSnapshotRequest {id s} (h : Canon s) : Kept (execSnapshotRequest id s) :=
  .onlyIf h fun _ h => .updMaster h

theorem Kept.execTimeSync {s} (h : Canon s) : Kept (execTimeSync s) := by
  unfold Machine.execTimeSync
  dsimp only
  refine .done <| .foldl (.frame ?_) fun _ _ h => .send h
  split
  · exact .untilClock h
  · exact h

theorem Canon.stepTime {t s} (h : Canon s) : Canon (stepTime t s) :=
  .frame h

theorem Canon.takeOffset {off s} (h : Canon s) : Canon (takeOffset off s) := by
  unfold Machine.takeOffset
  exact .ite (.enterListen <| .failStep <| .frame h) (.frame h)

theorem Kept.execTimeSyncReceive {port roundTrip asymmetry answer s} (h : Canon s) :
    Kept (execTimeSyncReceive port roundTrip asymmetry answer s) := by
  unfold Machine.execTimeSyncReceive
  extract_lets
  split
  · exact .done <| .frame h
  · split
    · exact .done <| .frame h
    · exact .done <| .frame h
    · exact .done <| .ite (.takeOffset <| .frame h) (.stepTime <| .frame h)
    · exact .done <| .takeOffset <| .frame h
    · exact .done <| .takeOffset <| .frame h

theorem Kept.execListenNoWaveRecord {s} (h : Canon s) : Kept (execListenNoWaveRecord s) :=
  .onlyIf h fun _ h => .frame <| .engineRecord <| .untilClock h

theorem Kept.execListenTimeout {s} (h : Canon s) : Kept (execListenTimeout s) :=
  .onlyIf h fun _ h => .ite (.startupStop <| .setEngine <| .untilClock h) (.setEngine <| .untilClock h)

theorem Kept.execFounding {s} (h : Canon s) : Kept (execFounding s) :=
  .onlyIf h fun _ h => .takeWave <| .elapse <| .takeWave <| .frame <| .untilClock h

theorem Canon.setTable {t s} (h : Canon s) : Canon (setTable t s) :=
  .foldl h fun _ _ h => .setBoth h

theorem Kept.execTableDigest {sna digest primaryTable s} (h : Canon s) :
    Kept (execTableDigest sna digest primaryTable s) := by
  unfold Machine.execTableDigest
  extract_lets _ s1 s2 s3 _
  have h1 : Canon s1 := .frameParts h
  have h2 : Canon s2 := by
    unfold s2
    split
    · exact .enterListen <| .failStep h1
    · exact .enterListen h1
    · exact h1
  have h3 : Canon s3 := .setTable h2
  exact .ite (.done <| .send h) <| .ite (.ite (.done <| .withFab h3 fun _ => h2.ports) (.done h2)) (.done h)

/-! ### Machine/Routing.lean -/

theorem Canon.computeRoutes {s} (h : Canon s) : Canon (computeRoutes s) := by
  unfold Machine.computeRoutes
  exact .ite (.fabricFault <| .frameParts h) (.frameParts h)

theorem Canon.setDiscovery {d s} (h : Canon s) : Canon (setDiscovery d s) :=
  .frameParts h

theorem Kept.execDiscoveryStart {s} (h : Canon s) : Kept (execDiscoveryStart s) :=
  .onlyIf h fun _ h => .setDiscovery h

theorem Canon.enterFlood {s} (h : Canon s) : Canon (enterFlood s) := by
  unfold Machine.enterFlood
  exact .floodLinkState <| .frameParts <| .setDiscovery h

theorem Kept.execLinksDone {s} (h : Canon s) : Kept (execLinksDone s) := by
  unfold Machine.execLinksDone
  extract_lets
  split
  · exact .done h
  · split
    · exact .done <| .enterFlood h
    · exact .ite (.done <| .enterFlood <| .untilClock h) (.done h)

theorem Kept.execLinksTimeout {s} (h : Canon s) : Kept (execLinksTimeout s) :=
  .onlyIf h fun _ h => .startupStop <| .fabricFault <| .setDiscovery <| .untilClock h

theorem Kept.execLinkStateRecord {sna ports gen digest0 digest1 identity s} (h : Canon s) :
    Kept (execLinkStateRecord sna ports gen digest0 digest1 identity s) := by
  unfold Machine.execLinkStateRecord
  exact .onlyIf h fun _ h => .send <| .frameParts h

theorem Kept.execFloodQuiet {s} (h : Canon s) : Kept (execFloodQuiet s) :=
  .onlyIf h fun _ h => .ite (.setDiscovery <| .untilClock h) (.fabricFault <| .setDiscovery <| .untilClock h)

theorem Canon.defaultTable {s} (h : Canon s) : Canon (defaultTable s) := by
  unfold Machine.defaultTable
  exact .setTable h

theorem Kept.execRouteCompute {s} (h : Canon s) : Kept (execRouteCompute s) := by
  unfold Machine.execRouteCompute
  split
  · extract_lets _ s1
    have h1 : Canon s1 := .setDiscovery <| .computeRoutes <| .ite h (.defaultTable h)
    exact .ite (.done <| .enterListen <| .frameParts h1) (.done <| .frameParts h1)
  · exact .done <| .computeRoutes h
  · exact .done h

theorem Kept.execLinkStateRefresh {s} (h : Canon s) : Kept (execLinkStateRefresh s) :=
  .onlyIf h fun _ h => .floodLinkState <| .frameParts <| .untilClock h

theorem Canon.ownHeader {net payload s} (h : Canon s) : Canon (ownHeader net payload s).2 := by
  unfold Machine.ownHeader
  dsimp only
  exact .stamp h

theorem Canon.memberStamp {net s} (h : Canon s) : Canon (memberStamp net s) := by
  unfold Machine.memberStamp
  exact .ite (.frame h) h

theorem KeptSome.routePacket {own port net payload s} (h : Canon s) :
    KeptSome (routePacket own port net payload s) := by
  unfold Machine.routePacket
  extract_lets _ _ _ _ _ _ _ bumpFab pay _ _ ports ports'
  have hp {s} (h : Canon s) : Canon (pay s) := by
    unfold pay
    split
    · exact .ite (.withFab h id) h
    · exact h
  refine .ite (.some <| .withFab h id) <| .ite (.some <| .withFab h id) <| .ite .none <| .ite ?_ <| .ite ?_ <|
    .ite (.some <| .withFab h id) ?_
  · have hs : Canon (if own then s else Machine.memberStamp net s) := .ite h (.memberStamp h)
    exact .ite (.some <| hp <| .foldl hs fun _ _ h => .sendFrame h) .none
  · split
    · exact .ite (.some <| .frame h) (.some h)
    · extract_lets s1
      have h1 : Canon s1 := .ite h (.histSample h)
      exact .some <| .ite (.acceptFrame h1) h1
  · split
    · exact .some <| .withFab h id
    · exact .ite (.some <| hp <| .sendFrame h) .none

theorem Canon.lanesReady {port s r} (h : Canon s) (hr : r ∈ lanesReady port s) : Canon r.2.2 := by
  obtain ⟨v, -, hv⟩ := List.mem_filterMap.mp hr
  split at hv
  · cases hv
  · obtain ⟨t, ht, rfl⟩ := Option.map_eq_some_iff.mp hv
    exact KeptSome.routePacket h t ht

theorem Kept.execPacketRoute {port own s} (h : Canon s) : Kept (execPacketRoute port own s) := by
  unfold Machine.execPacketRoute
  split
  · exact .done h
  · split
    · exact .done <| .getD h <| .routePacket (.ownHeader h)
    · extract_lets
      split
      · exact .done h
      · split
        · exact .done h
        next hr => exact .done <| .frameParts <| .updPort <| .lanesReady h (List.mem_of_find?_eq_some hr)

/-! ### Machine/Dap.lean -/

theorem Canon.deliver {path source bs s} (h : Canon s) : Canon (deliver path source bs s) :=
  .ite (.emit h) <| .ite (.ite (.sendMsix <| .emit <| .updDict h) (.emit <| .updDict h)) (.send h)

theorem Canon.arriveFrame {path source bs s} (h : Canon s) : Canon (arriveFrame path source bs s) := by
  unfold Machine.arriveFrame
  exact .ite (.acceptFrame h) <| .ite (.send <| .updDict h) (.updDict h)

theorem Kept.execMgmtDatagram {source port udpPort checksumGood fragment ipBytes frame s} (h : Canon s) :
    Kept (execMgmtDatagram source port udpPort checksumGood fragment ipBytes frame s) :=
  .onlyIf h fun _ h => .arriveFrame h

theorem Kept.execNeighborSolicitation {source target s} (h : Canon s) :
    Kept (execNeighborSolicitation source target s) :=
  .onlyIf h fun _ h => .emit h

theorem Kept.execEchoRequest {source target data s} (h : Canon s) : Kept (execEchoRequest source target data s) :=
  .onlyIf h fun _ h => .emit h

theorem Kept.execManagementLinkChange {link s} (h : Canon s) : Kept (execManagementLinkChange link s) :=
  .onlyIf h fun _ h => .updDict h

theorem Kept.execMailboxGo {length s} (h : Canon s) : Kept (execMailboxGo length s) :=
  .onlyIf h fun _ h => .ite (.updDict h) <| .ite (.updDict h) (.arriveFrame <| .updDict h)

theorem Kept.execForwardedResponse {frame s} (h : Canon s) : Kept (execForwardedResponse frame s) := by
  unfold Machine.execForwardedResponse
  extract_lets
  split
  · exact .done h
  · exact .done <| .deliver <| .updDict h

theorem Canon.updSession {id f s} (h : Canon s) : Canon (updSession id f s) :=
  .updDict h

theorem Canon.endSession {id s} (h : Canon s) : Canon (endSession id s) :=
  .updDict h

theorem Kept.execSessionIdleTimeout {session s} (h : Canon s) : Kept (execSessionIdleTimeout session s) := by
  unfold Machine.execSessionIdleTimeout
  split
  · exact .done h
  · exact .ite (.done h) (.done <| .endSession <| .ite h (.untilClock h))

theorem Canon.failExchange {id s} (h : Canon s) : Canon (failExchange id s) :=
  .updDict <| .endSession h

theorem Kept.execExchangeTimeout {session s} (h : Canon s) : Kept (execExchangeTimeout session s) := by
  unfold Machine.execExchangeTimeout
  split
  · exact .done h
  · exact .ite (.done h) (.done <| .failExchange <| .untilClock h)

theorem Canon.respond {f key status detail count body s} (h : Canon s) :
    Canon (respond f key status detail count body s).2 := by
  unfold Machine.respond
  exact .deliver h

theorem Canon.dropFrame {f s} (h : Canon s) : Canon (dropFrame f s) :=
  .ite (.updDict h) h

theorem Canon.failTag {x s} (h : Canon s) : Canon (failTag x s) := by
  unfold Machine.failTag
  exact .ite (.endSession h) (.updSession h)

theorem Canon.takeFrame {f s} (h : Canon s) : Canon (takeFrame f s).2 := by
  unfold Machine.takeFrame
  dsimp only
  split
  · exact .dropFrame <| .updDict h
  · split
    · exact .dropFrame <| .updDict h
    · split
      · exact .dropFrame <| .updDict <| .failTag h
      · split
        · exact .deliver <| .updSession h
        · split
          · exact .dropFrame <| .updDict h
          · dsimp only
            exact .updDict <| .updSession h

theorem Canon.answer {f x status detail count body s} (h : Canon s) :
    Canon (answer f x status detail count body s) := by
  unfold Machine.answer
  split
  next hv => exact .updSession <| .of_snd hv <| .respond h

theorem Canon.purgeFrames {n s} (h : Canon s) : Canon (purgeFrames n s) := by
  induction n generalizing s with
  | zero => exact h
  | succ n ih =>
    unfold Machine.purgeFrames
    split
    · exact h
    · refine .ite h <| ih ?_
      split
      next hv => exact .answer <| .of_snd hv <| .takeFrame <| .updDict h
      next hv => exact .of_snd hv <| .takeFrame <| .updDict h

theorem Canon.nextFrame {op s f t} (h : Canon s) (hv : nextFrame op s = some (f, t)) : Canon t := by
  unfold Machine.nextFrame at hv
  dsimp only at hv
  split at hv
  · cases hv
  · split at hv
    · cases hv
      exact .updDict <| .purgeFrames h
    · cases hv

theorem Kept.execClose {s} (h : Canon s) : Kept (execClose s) := by
  unfold Machine.execClose
  split
  · exact .done h
  next hv =>
    split
    next hw => exact .done <| .of_snd hw <| .takeFrame <| .nextFrame h hv
    next hw =>
      have h1 := Canon.of_snd hw <| .takeFrame <| .nextFrame h hv
      exact .ite (.done <| .answer h1) (.done <| .endSession <| .answer h1)

theorem Canon.sendMessage {f num msg s} (h : Canon s) : Canon (sendMessage f num msg s) := by
  unfold Machine.sendMessage
  exact .foldl h fun _ _ h => .respond h

theorem Canon.takeMessage1 {f x msg s} (h : Canon s) : Canon (takeMessage1 f x msg s) := by
  unfold Machine.takeMessage1
  exact .ite (.respond <| .failExchange h) (.sendMessage <| .updSession <| .frame h)

theorem Canon.takeMessage3 {f x msg s} (h : Canon s) : Canon (takeMessage3 f x msg s) := by
  unfold Machine.takeMessage3
  exact .ite (.respond <| .failExchange h) (.sendMessage <| .updSession h)

theorem Kept.execXchg {s} (h : Canon s) : Kept (execXchg s) := by
  unfold Machine.execXchg
  split
  · exact .done h
  next hv =>
    have h0 := h.nextFrame hv
    extract_lets
    refine .ite (.done <| .respond h0) <| .ite (.done <| .respond h0) ?_
    split
    · split
      · exact .done <| .takeMessage1 <| .updSession h0
      · exact .done <| .updSession h0
    · refine .ite (.done <| .respond h0) ?_
      split
      · exact .done <| .takeMessage1 <| .updDict h0
      · exact .done <| .updDict h0
    · split
      · exact .done <| .takeMessage3 <| .updSession h0
      · exact .done <| .updSession h0
    · exact .done <| .respond h0

theorem Kept.execStagingLock {session take s} (h : Canon s) : Kept (execStagingLock session take s) :=
  .onlyIf h fun _ h => .updDict h

theorem Kept.execStagingLockTimeout {s} (h : Canon s) : Kept (execStagingLockTimeout s) := by
  unfold Machine.execStagingLockTimeout
  split
  · exact .done h
  · exact .done <| .updDict <| .untilClock h

theorem Kept.execManagerKeyListWrite {session sub value s} (h : Canon s) :
    Kept (execManagerKeyListWrite session sub value s) := by
  unfold Machine.execManagerKeyListWrite
  exact .onlyIf h fun _ h => .updDict h

/-! ### Machine/Custody.lean -/

theorem Canon.updCust {f s} (h : Canon s) (hs : ∀ c, (f c).slots = c.slots := by intro _; rfl) :
    Canon (updCust f s) :=
  .withCust h (hs _ ▸ id)

theorem Canon.served {id s} (h : Canon s) : Canon (served id s) :=
  .updCust h

theorem Canon.refuseImport {id status order s} (h : Canon s) : Canon (refuseImport id status order s) :=
  .updCust <| .finish h

theorem Canon.installBaseKey {kind id m s} (h : Canon s) : Canon (installBaseKey kind id m s) := by
  unfold Machine.installBaseKey
  dsimp only
  exact .measure <| .updCust (.fresh h) fun _ => by split <;> rfl

theorem Kept.execKeyImport {host s} (h : Canon s) : Kept (execKeyImport host s) := by
  unfold Machine.execKeyImport
  refine .onHead h fun c s h => ?_
  extract_lets _ s1
  have h1 : Canon s1 := .served h
  clear_value s1
  split
  · exact .finish <| .countGcmFail h1
  · extract_lets s2
    have h2 : Canon s2 := .countHostRead h1
    clear_value s2
    refine .ite (.refuseImport h2) <| .ite (.refuseImport h2) <| .ite (.refuseImport h2) <|
      .ite (.refuseImport h2) <| .ite (.refuseImport h2) ?_
    split
    · exact .refuseImport h2
    · extract_lets
      refine .ite (.refuseImport h2) <| .ite (.finish <| .installBaseKey h2) <| .ite (.refuseImport h2) <|
        .ite (.refuseImport h2) <| .ite (.refuseImport h2) ?_
      exact .takeUp <| .updCust h2

theorem Kept.execKeyImportEffect {slot s} (h : Canon s) : Kept (execKeyImportEffect slot s) := by
  unfold Machine.execKeyImportEffect
  split
  · exact .done h
  · extract_lets
    split
    · exact .done h
    · split
      · exact .done <| .refuseImport <| .updCust h
      · split
        · exact .done <| .refuseImport <| .updCust h
        · exact .done <| .finish <| .hostWrite <| .measure <| .setSlot <| .updCust h

theorem Kept.execKeyRemove {s} (h : Canon s) : Kept (execKeyRemove s) := by
  refine .onHead h fun _ _ h => ?_
  extract_lets s1
  have h1 : Canon s1 := .served h
  exact .ite (.finish h1) <| .ite (.finish h1) <| .ite (.finish h1) (.takeUp <| .updCust h1)

theorem Canon.endSweeps {k s} (h : Canon s) : Canon (endSweeps k s) :=
  .foldl h fun _ _ h => .finish h

theorem Canon.removeSlot {n s} (h : Canon s) : Canon (removeSlot n s) := by
  unfold Machine.removeSlot
  exact .measure <| .kvRemoved <| .invalidateDescs <| .zeroCaddySlot <| .setSlot <| .endSweeps h

theorem Kept.execKeyRemoveEffect {slot s} (h : Canon s) : Kept (execKeyRemoveEffect slot s) := by
  unfold Machine.execKeyRemoveEffect
  split
  · exact .done h
  · extract_lets
    split
    · exact .done h
    · split
      · exact .done <| .finish <| .updCust h
      · exact .ite (.done <| .finish <| .updCust h) (.done <| .finish <| .removeSlot <| .updCust h)

theorem Kept.execKeySweep {s} (h : Canon s) : Kept (execKeySweep s) :=
  .onHead h fun _ _ h => .ite (.finish h) <| .ite (.finish h) <| .ite (.finish h) (.takeUp <| .setSlot h)

theorem Canon.sweepOne {n b s} (h : Canon s) : Canon (sweepOne n b s) := by
  unfold Machine.sweepOne
  extract_lets
  split
  · exact h
  · exact .ite h (.logMem <| .count <| .setBlock <| .writeInBlock <| .setBlock <| .xtsRead <| .verifyBlock h)

theorem Canon.sweepPace {s} (h : Canon s) : Canon (sweepPace s) := by
  unfold Machine.sweepPace
  exact .updCust <| .untilClock h

theorem Kept.execSweepBlock {slot s} (h : Canon s) : Kept (execSweepBlock slot s) := by
  unfold Machine.execSweepBlock
  extract_lets
  split
  · exact .done h
  · split
    · exact .done <| .setSlot <| .sweepOne <| .sweepPace h
    · extract_lets s0
      have h0 : Canon s0 := .sweepOne <| .sweepPace h
      exact .ite (.done <| .finish <| .setSlot h0) (.done <| .setSlot h0)
    · exact .done <| .finish <| .setSlot h
    · exact .done h

theorem Kept.execRotationCutover {slot s} (h : Canon s) : Kept (execRotationCutover slot s) := by
  unfold Machine.execRotationCutover
  exact .onlyIf h fun _ h => .kvRotated <| .setSlot h

theorem Kept.execScrubBlock {slot s} (h : Canon s) : Kept (execScrubBlock slot s) := by
  unfold Machine.execScrubBlock
  extract_lets
  split
  · exact .done h
  · extract_lets
    split
    · exact .done h
    · exact .done <| .setSlot <| .logMem <| .count <| .writeInBlock <| .sweepPace h

theorem Kept.execScrubComplete {slot s} (h : Canon s) : Kept (execScrubComplete slot s) := by
  unfold Machine.execScrubComplete
  exact .onlyIf h fun _ h => .kvScrubbed <| .setSlot h

theorem Kept.execCustodyRequestTimeout {s} (h : Canon s) : Kept (execCustodyRequestTimeout s) := by
  unfold Machine.execCustodyRequestTimeout
  split
  · exact .done h
  · extract_lets s0
    have h0 : Canon s0 := .untilClock <| .updCust h
    split
    · exact .done h0
    · exact .done <| .finish h0

theorem Kept.execAttestationRequest {nonce slot s} (h : Canon s) : Kept (execAttestationRequest nonce slot s) :=
  .onlyIf h fun _ h => .updCust <| .updCust h

theorem Kept.execEventLogRead {index s} (h : Canon s) : Kept (execEventLogRead index s) := by
  unfold Machine.execEventLogRead
  split
  · exact .done h
  · exact .done <| .updCust h

theorem Canon.zeroSealed {s} (h : Canon s) : Canon (zeroSealed s) := by
  unfold Machine.zeroSealed
  extract_lets _ s1
  have h1 : Canon s1 := .withMem (.dropCaddy h) (memWf_zero _ _ _)
  refine .withProg h1 fun hc => ?_
  dsimp only
  exact sparseWf_smap _ _ _ hc

theorem Canon.zeroKeys {s} (h : Canon s) : Canon (zeroKeys s) := by
  unfold Machine.zeroKeys
  extract_lets s1
  have h1 : Canon s1 := by
    refine .withCust h fun hs => ?_
    dsimp only
    exact sparseWf_smap _ _ _ hs
  exact .foldl (.foldl h1 fun _ _ h => .clearSession <| .ite (.setPort h) h) fun _ _ h => .updPart h

theorem Kept.execSealBreakArm {s} (h : Canon s) : Kept (execSealBreakArm s) :=
  .onlyIf h fun _ h => .updCust h

theorem Kept.execSealBreak {path s} (h : Canon s) : Kept (execSealBreak path s) := by
  unfold Machine.execSealBreak
  split
  · exact .done h
  · extract_lets
    split
    · exact .done h
    · exact .done <| .updCust <| .measure <| .foldl (.zeroSealed <| .zeroKeys <| .foldl h (fun _ _ h =>
        .endSweeps h)) fun _ _ h => .setSlot h

/-! ### Machine/Stop.lean -/

theorem Canon.updBoot {f s} (h : Canon s) : Canon (updBoot f s) :=
  .frame h

theorem Canon.updLeaf {f s} (h : Canon s) : Canon (updLeaf f s) :=
  .frame h

theorem Canon.setRec {hf r s} (h : Canon s) : Canon (setRec hf r s) :=
  .updLeaf h

theorem Canon.leafPowerLoss {s} (h : Canon s) : Canon (leafPowerLoss s) := by
  unfold Machine.leafPowerLoss
  exact .updLeaf h

theorem Canon.shutdownCommands {s} (h : Canon s) : Canon (shutdownCommands s) := by
  unfold Machine.shutdownCommands
  extract_lets s1
  have h1 : Canon s1 := .ite h (.foldl h fun _ _ h => .finish h)
  exact ⟨h1.mem, h1.cores, h1.parts, h1.queues, h1.slots, h1.ports, h1.descs, rfl, h1.hbm⟩

theorem Canon.removeAllSlots {s} (h : Canon s) : Canon (removeAllSlots s) :=
  .foldl h fun _ _ h => .removeSlot h

theorem Canon.orderlyStop {cls cause block value s} (h : Canon s) : Canon (orderlyStop cls cause block value s) :=
  .ite h (.updBoot <| .leafPowerLoss <| .faultRecord <| .foldl (.zeroSealed <| .removeAllSlots <|
    .shutdownCommands <| .ite h (.setEngine h)) (fun _ _ h => .setPort h))

theorem Canon.custodyFault {cause s} (h : Canon s) : Canon (custodyFault cause s) := by
  unfold Machine.custodyFault
  exact .updCust <| .zeroKeys <| .orderlyStop h

theorem Kept.execCustodyFault {cause s} (h : Canon s) : Kept (execCustodyFault cause s) :=
  .onlyIf h fun _ h => .custodyFault h

theorem Kept.execMeasureComplete {passed boot identityRecord romRecord s} (h : Canon s) :
    Kept (execMeasureComplete passed boot identityRecord romRecord s) := by
  unfold Machine.execMeasureComplete
  extract_lets
  split
  · exact .done h
  · split
    · exact .done <| .custodyFault h
    · split
      · exact .done h
      · exact .done <| .updBoot <| .frame <| .updCust <| .measure <| .measure h

theorem Kept.execEnvironmentViolation {cause reading s} (h : Canon s) :
    Kept (execEnvironmentViolation cause reading s) :=
  .onlyIf h fun _ h => .orderlyStop <| .ite (.updBoot h) h

/-! ### Machine/Tables.lean -/

theorem Canon.blockRestored {s} (h : Canon s) : Canon (blockRestored s) :=
  .frameParts h

theorem Canon.readTable {env o s} (h : Canon s) : Canon (readTable env o s) := by
  unfold Machine.readTable
  exact .ite (.verifyBlock h) <| .ite (.orderlyStop <| .verifyBlock <| .verifyBlock h) (.blockRestored <|
    .writeInBlock <| .verifyBlock <| .verifyBlock h)

theorem Kept.execAdapterRead {s} (h : Canon s) : Kept (execAdapterRead s) := by
  unfold Machine.execAdapterRead
  refine .onHead h fun _ _ h => ?_
  extract_lets
  split
  · exact .finish h
  · exact .ite (.readTable h) (.finish <| .hostWrite <| .readTable h)

/-! ### Machine/Hbm.lean -/

theorem Kept.execPatrolRead {addr env s} (h : Canon s) : Kept (execPatrolRead addr env s) := by
  unfold Machine.execPatrolRead
  exact .onlyIf h fun _ h => .verifyBlock <| .count <| .frameParts h

theorem Canon.setThermal {st t s} (h : Canon s) : Canon (setThermal st t s) := by
  unfold Machine.setThermal
  exact .ite h <| .ite (.orderlyStop <| .updStack <| .trace <| .updStack h) (.trace <| .updStack h)

theorem Kept.execTemperatureRead {stack reading s} (h : Canon s) : Kept (execTemperatureRead stack reading s) := by
  unfold Machine.execTemperatureRead
  extract_lets
  refine .onlyIf h fun _ h => ?_
  split
  · extract_lets _ s1 _ s2
    have h1 : Canon s1 := .updStack h
    have h2 : Canon s2 := .ite (.frame h1) h1
    exact .setThermal h2
  · extract_lets s1
    have h1 : Canon s1 := .updStack h
    split
    · exact .ite (.setThermal h1) h1
    · exact h1
    · exact .ite (.setThermal h1) h1

theorem Kept.execRowRepair {stack pc bank row s} (h : Canon s) : Kept (execRowRepair stack pc bank row s) := by
  unfold Machine.execRowRepair
  exact .onlyIf h fun _ h => .ite (.retirePc <| .updStack h) (.rasEvent <| .frameParts <| .updStack h)

theorem Canon.beginFill {st l old s} (h : Canon s) : Canon (beginFill st l old s) := by
  unfold Machine.beginFill
  split
  · exact .updStack h
  · exact .updStack h

theorem Kept.execPcFill {stack s} (h : Canon s) : Kept (execPcFill stack s) := by
  unfold Machine.execPcFill
  extract_lets
  split
  · exact .done <| .beginFill <| .updStack h
  · exact .done h

theorem Kept.execFillComplete {stack s} (h : Canon s) : Kept (execFillComplete stack s) := by
  unfold Machine.execFillComplete
  extract_lets
  split
  · exact .done h
  · exact .onlyIf h fun _ h => .count <| .updStack h

theorem Kept.execFillFailure {stack s} (h : Canon s) : Kept (execFillFailure stack s) := by
  unfold Machine.execFillFailure
  extract_lets
  split
  · exact .done h
  · exact .done <| .beginFill <| .rasEvent <| .frameParts <| .updStack h

theorem Kept.execLogicalPcLost {stack s} (h : Canon s) : Kept (execLogicalPcLost stack s) := by
  unfold Machine.execLogicalPcLost
  extract_lets
  split
  · exact .done h
  · refine .onlyIf h fun s h => ?_
    extract_lets _ _ s1 _ s2
    have h1 : Canon s1 := .updStack h
    have h2 : Canon s2 := .frameParts <| .withMem h1 (memWf_zero _ _ _)
    exact .rasEvent h2

/-! ### Machine/Partition.lean -/

theorem Canon.setPartState {p v s} (h : Canon s) : Canon (setPartState p v s) :=
  .ite h (.trace <| .updPart h)

theorem Canon.appear {p s} (h : Canon s) : Canon (appear p s) :=
  .ite (.setPartState h) h

theorem Canon.tdiError {p s} (h : Canon s) : Canon (tdiError p s) :=
  .updPart h

theorem Canon.requestReset {p s} (h : Canon s) : Canon (requestReset p s) := by
  unfold Machine.requestReset
  split
  · exact h
  · exact h
  · exact .updPart <| .setPartState <| .tdiError h

theorem Canon.updQueue {q f s} (h : Canon s) : Canon (updQueue q f s) :=
  .withFront h id (sparseWf_sput _ _ _ _)

theorem Canon.queueErrorRecord {p q cause s} (h : Canon s) : Canon (queueErrorRecord p q cause s) :=
  .updPart h

theorem Kept.execFunctionEnable {fn s} (h : Canon s) : Kept (execFunctionEnable fn s) := by
  unfold Machine.execFunctionEnable
  exact .onlyIf h fun _ h => .ite (.setPartState <| .updPart <| .updQueue <| .updPart h) (.queueErrorRecord <|
    .updPart h)

theorem Kept.execFunctionDisable {fn s} (h : Canon s) : Kept (execFunctionDisable fn s) :=
  .done <| .requestReset h

theorem Kept.execCtrlReset {fn s} (h : Canon s) : Kept (execCtrlReset fn s) :=
  .done <| .requestReset h

theorem Kept.execPartitionResetCmd {part s} (h : Canon s) : Kept (execPartitionResetCmd part s) :=
  .done <| .requestReset h

theorem Canon.clearVfEnable {s} (h : Canon s) : Canon (clearVfEnable s) :=
  .foldl (.frame h) fun _ _ h => .requestReset h

theorem Canon.flrPf {s} (h : Canon s) : Canon (flrPf s) :=
  .clearVfEnable <| .requestReset h

theorem Kept.execFlr {fn s} (h : Canon s) : Kept (execFlr fn s) :=
  .done <| .ite (.flrPf h) (.requestReset h)

theorem Kept.execVfEnableClear {s} (h : Canon s) : Kept (execVfEnableClear s) :=
  .onlyIf h fun _ h => .clearVfEnable h

theorem Kept.execVfEnableSet {s} (h : Canon s) : Kept (execVfEnableSet s) :=
  .onlyIf h fun _ h => .foldl (.frame h) fun _ _ h => .appear h

theorem Canon.zeroCore {g s} (h : Canon s) : Canon (zeroCore g s) :=
  .withMem (.updCore h) (memWf_zero _ _ _)

theorem Canon.idleCore {g s} (h : Canon s) : Canon (idleCore g s) :=
  .updCore <| .zeroCore h

theorem Canon.markTrial {p s} (h : Canon s) : Canon (markTrial p s) := by
  unfold Machine.markTrial
  dsimp only
  split
  · refine .updLeaf ?_
    split
    · exact .finish h
    · exact h
  · exact h

theorem Canon.dropRequests {p s} (h : Canon s) : Canon (dropRequests p s) := by
  unfold Machine.dropRequests
  exact .updAd <| .updFront h

theorem Canon.endDeletes {p s} (h : Canon s) : Canon (endDeletes p s) :=
  .foldl h fun _ _ h => .finish h

theorem Canon.resetPartition {p s} (h : Canon s) : Canon (resetPartition p s) := by
  unfold Machine.resetPartition
  extract_lets s1 s2 s3 s4 s5 s6
  have h2 : Canon s2 := .endDeletes <| .updPart h
  have h3 : Canon s3 := .withFront h2 id (sparseWf_filter _ _ _)
  have h5 : Canon s5 := .foldl (.dropRequests h3) fun _ _ h => .ite (.idleCore h) h
  exact .setPartState <| .frame <| .markTrial h5

theorem Kept.execPartitionResetEffect {part s} (h : Canon s) : Kept (execPartitionResetEffect part s) := by
  unfold Machine.execPartitionResetEffect
  extract_lets
  split
  · exact .done h
  · exact .onlyIf h fun _ h => .resetPartition h

theorem Kept.execLogControl {part value s} (h : Canon s) : Kept (execLogControl part value s) :=
  .onlyIf h fun _ h => .updPart h

theorem Kept.execLogSwap {part s} (h : Canon s) : Kept (execLogSwap part s) :=
  .done <| .updPart h

theorem Kept.execLogBoundary {s} (h : Canon s) : Kept (execLogBoundary s) :=
  .onlyIf h fun _ h => .withFront h (sparseWf_smap _ (fun _ => logAtBoundary) _) id

theorem Kept.execLockInterface {fn s} (h : Canon s) : Kept (execLockInterface fn s) :=
  .onlyIf h fun _ h => .updPart h

theorem Kept.execStartInterface {fn s} (h : Canon s) : Kept (execStartInterface fn s) :=
  .onlyIf h fun _ h => .updPart h

theorem Kept.execStopInterface {fn s} (h : Canon s) : Kept (execStopInterface fn s) :=
  .onlyIf h fun _ h => .updPart h

theorem Kept.execInterfaceReport {fn s} (h : Canon s) : Kept (execInterfaceReport fn s) :=
  .onlyIf h fun _ h => .emit h

theorem Kept.execVfBarOrMemorySpaceChange {fn s} (h : Canon s) : Kept (execVfBarOrMemorySpaceChange fn s) :=
  .onlyIf h fun _ h => .tdiError h

theorem Kept.execDoeCustodyExchange {fn message s} (h : Canon s) : Kept (execDoeCustodyExchange fn message s) := by
  unfold Machine.execDoeCustodyExchange
  exact .onlyIf h fun _ h => .ite (.emit <| .updPart <| .frame h) (.ite (.emit <| .updPart h) h)

theorem Kept.execPcieLinkChange {rate width s} (h : Canon s) : Kept (execPcieLinkChange rate width s) :=
  .onlyIf h fun _ h => .frame h

/-! ### Machine/Front.lean -/

theorem Canon.queueError {p q cause s} (h : Canon s) : Canon (queueError p q cause s) :=
  .queueErrorRecord <| .updQueue h

theorem Kept.execDoorbell {fn queue head value s} (h : Canon s) : Kept (execDoorbell fn queue head value s) := by
  unfold Machine.execDoorbell
  extract_lets
  refine .onlyIf h fun _ h => ?_
  extract_lets s1
  have h1 : Canon s1 := .count h
  refine .ite (.updFront h1) <| .ite h1 <| .ite ?_ ?_
  · exact .ite (.queueError h1) <| .ite (.queueError h1) (.updQueue h1)
  · exact .ite (.queueError h1) (.updQueue h1)

theorem Kept.execCommandFetch {answer s} (h : Canon s) : Kept (execCommandFetch answer s) := by
  unfold Machine.execCommandFetch
  split
  · exact .done h
  · split
    · exact .done h
    · extract_lets _ _ _ s1 s2 _ s3 id
      have h2 : Canon s2 := .updQueue <| .updFront h
      have h3 : Canon s3 := .count <| .countHostRead <| .updQueue h2
      clear_value s2 s3 id
      split
      · exact .done <| .queueError h2
      · extract_lets _ s4
        have h4 : Canon s4 := .updFront h3
        clear_value s4
        split
        · exact .done <| .finish h4
        · exact .ite (.done <| .updCust h4) (.done h4)

theorem Kept.execQueueCreate {s} (h : Canon s) : Kept (execQueueCreate s) :=
  .onHead h fun _ _ h => .ite (.finish h) <| .ite (.finish h) <| .ite (.finish <| .queueError <| .updQueue h)
    (.finish <| .updQueue h)

theorem Canon.tryDelete {q s} (h : Canon s) : Canon (tryDelete q s) := by
  unfold Machine.tryDelete
  split
  · exact h
  · exact .ite h (.finish <| .updQueue h)

theorem Kept.execQueueDelete {s} (h : Canon s) : Kept (execQueueDelete s) :=
  .onHead h fun _ _ h => .ite (.finish h) (.tryDelete <| .updQueue <| .takeUp h)

theorem Canon.settleRequest {id status s} (h : Canon s) : Canon (settleRequest id status s) := by
  unfold Machine.settleRequest
  split
  · exact h
  · exact .ite (.updAd h) (.settleSequence <| .updAd h)

theorem Kept.execCompletionWrite {ring s} (h : Canon s) : Kept (execCompletionWrite ring s) := by
  unfold Machine.execCompletionWrite
  extract_lets
  split
  · exact .done h
  · extract_lets _ _ s1 s2 s3 s4 _
    have h1 : Canon s1 := .updFront <| .updFront h
    have h3 : Canon s3 := .updQueue <| .hostWrite <| .updFront h
    have h4 : Canon s4 := by
      unfold s4
      split
      · exact .sendMsix h3
      · exact h3
    refine .ite (.done <| .tryDelete <| .settleRequest <| .count h1) <| .ite (.done h) ?_
    exact .ite (.done <| .tryDelete <| .settleRequest <| .queueError <| .updFront h)
      (.done <| .tryDelete <| .settleRequest <| .count <| .histSample h4)

theorem Canon.updRequest {cmd f s} (h : Canon s) : Canon (updRequest cmd f s) :=
  .updAd h

theorem Canon.failCopy {cmd status s} (h : Canon s) : Canon (failCopy cmd status s) :=
  .updRequest h

theorem Kept.execInputCopy {queue tag host s} (h : Canon s) : Kept (execInputCopy queue tag host s) := by
  unfold Machine.execInputCopy
  split
  · exact .done h
  · extract_lets s1
    have h1 : Canon s1 := .untilTime h
    refine .ite (.done h1) <| .ite (.done <| .failCopy h1) <| .ite (.done <| .failCopy <| .countStale h1) ?_
    split
    next hv =>
      have h2 := Canon.of_snd hv <| .gcmFetch h1
      exact .ite (.done <| .failCopy h2) <| .ite (.done <| .failCopy h2) (.done <| .updRequest <| .xtsWriteFor h2)

theorem Kept.execOutputCopy {queue tag s} (h : Canon s) : Kept (execOutputCopy queue tag s) := by
  unfold Machine.execOutputCopy
  split
  · exact .done h
  · extract_lets
    refine .ite (.done <| .finish h) <| .ite (.done <| .finish <| .countStale h) ?_
    split
    next hv =>
    have h1 := Canon.of_snd hv (.xtsReadAt h)
    extract_lets
    split
    next hv => exact .done <| .finish <| .of_snd hv (.gcmSeal h1)
    next hv =>
      have h2 := Canon.of_snd hv (.gcmSeal h1)
      exact .done <| .finish <| .ite h2 (.hostWrite h2)

/-! ### Machine/Operands.lean -/

theorem Canon.tileWrite {g off bs s} (h : Canon s) : Canon (tileWrite g off bs s) := by
  unfold Machine.tileWrite
  extract_lets _ _ _ m s1
  have hm : memWf m = true := memWf_foldl_write _ _ _ (memWf_write _ _ _ h.mem)
  have h1 : Canon s1 := .withMem h fun _ => hm
  exact .ite h1 (.updCore h1)

theorem Canon.correctReads {g rs s} (h : Canon s) : Canon (correctReads g rs s) := by
  unfold Machine.correctReads
  exact .ite h (.count <| .updCore h)

theorem Canon.bringUpsets {g env s} (h : Canon s) : Canon (bringUpsets g env s) :=
  .ite h (.updCore h)

theorem Canon.progFault {g stream index code s} (h : Canon s) : Canon (progFault g stream index code s) := by
  unfold Machine.progFault
  exact .trace <| .count <| .frameParts <| .updCore h

theorem Canon.addCredit {g ctr amt s} (h : Canon s) : Canon (addCredit g ctr amt s) := by
  unfold Machine.addCredit
  exact .ite (.progFault <| .count <| .updCore h) (.count <| .updCore h)

theorem Canon.sendCredit {g e amt s} (h : Canon s) : Canon (sendCredit g e amt s) := by
  unfold Machine.sendCredit
  extract_lets
  split
  · exact h
  · split
    · exact .frameParts <| .count h
    · exact .frameParts <| .count h
    · exact .send <| .count h
    · exact .count h

theorem Canon.takeOp {g q s} (h : Canon s) : Canon (takeOp g q s) := by
  unfold Machine.takeOp
  exact .count <| .ite (.count <| .updCore h) (.updCore h)

theorem Canon.countMoved {g n s} (h : Canon s) : Canon (countMoved g n s) :=
  .count h

theorem Canon.runFor {g q dur n s} (h : Canon s) : Canon (runFor g q dur n s) :=
  .updCore h

theorem Canon.startFault {g q code s} (h : Canon s) : Canon (startFault g q code s) :=
  .progFault h

theorem Canon.opEvents {g lane index classes s} (h : Canon s) : Canon (opEvents g lane index classes s) :=
  .numericEvents h

/-! ### Machine/Units.lean -/

theorem Canon.loadEnds {g q p c s} (h : Canon s) : Canon (loadEnds g q p c s) :=
  .updCore h

theorem Kept.onOp {core stream op s f} (h : Canon s) (hf : ∀ q s, Canon s → Canon (f q s)) :
    Kept (onOp core stream op s f) := by
  unfold Machine.onOp
  split
  · exact .done h
  · exact .done <| .ite (hf _ _ <| .takeOp h) (.startFault <| .takeOp h)

theorem Canon.failServing {g status detail s} (h : Canon s) : Canon (failServing g status detail s) := by
  unfold Machine.failServing
  exact .updAd h

theorem Canon.eccAbort {g q s} (h : Canon s) : Canon (eccAbort g q s) := by
  unfold Machine.eccAbort
  exact .ite (.failStep <| .updCore <| .startFault h) (.failServing <| .updCore <| .startFault h)

theorem Canon.withReadsOf {g q ranges s f} (h : Canon s) (hf : ∀ s, Canon s → Canon (f s)) :
    Canon (withReadsOf g q ranges s f) :=
  .ite (.eccAbort h) (hf _ <| .correctReads h)

theorem Canon.withReads {g q ranges s f} (h : Canon s) (hf : ∀ s, Canon s → Canon (f s)) :
    Canon (withReads g q ranges s f) :=
  .withReadsOf h hf

/-! ### Machine/Array.lean -/

theorem Canon.mmaLoad {g q s} (h : Canon s) : Canon (mmaLoad g q s) := by
  unfold Machine.mmaLoad
  exact .withReads h fun _ h => .ite (.startFault h) (.opEvents <| .runFor <| .updCore h)

theorem Kept.execMmaLoad {core stream s} (h : Canon s) : Kept (execMmaLoad core stream s) :=
  .onOp h fun _ _ h => .mmaLoad h

theorem Canon.mmaRun {g q s} (h : Canon s) : Canon (mmaRun g q s) := by
  unfold Machine.mmaRun
  extract_lets
  split
  · exact h
  · exact .ite (.startFault h) (.withReadsOf h (fun _ h => .opEvents <| .runFor <| .count <| .count <| .count <|
      .updCore h))

theorem Canon.loadA {g q p xs c s} (h : Canon s) : Canon (loadA g q p xs c s) :=
  .updCore <| .loadEnds h

theorem Canon.switchA {g c s} (h : Canon s) : Canon (switchA g c s) :=
  .updCore h

theorem Canon.rankRows {g r p entry s} (h : Canon s) : Canon (rankRows g r p entry s) := by
  unfold Machine.rankRows
  exact .withReadsOf h fun _ h => .opEvents <| .count <| .updCore h

theorem Canon.rankEnd {g q c s} (h : Canon s) : Canon (rankEnd g q c s) := by
  unfold Machine.rankEnd
  exact .updCore h

theorem Canon.rankStep {g r p ps xs s} (h : Canon s) : Canon (rankStep g r p ps xs s) := by
  unfold Machine.rankStep
  extract_lets _ _ _ s1 s2 s3
  have h3 : Canon s3 := .rankRows <| .count <| .count <| .switchA <| .loadA h
  exact .ite (.rankEnd h3) h3

theorem Canon.advanceRank {g n s} (h : Canon s) : Canon (advanceRank g n s) := by
  induction n generalizing s with
  | zero => exact h
  | succ n ih =>
    unfold Machine.advanceRank
    split
    · exact h
    · split
      · exact h
      · split
        · exact h
        · exact ih <| .rankStep h

theorem Canon.rankRun {g q s} (h : Canon s) : Canon (rankRun g q s) := by
  unfold Machine.rankRun
  exact .ite (.startFault h) (.advanceRank <| .runFor <| .updCore h)

/-! ### Machine/Epilogue.lean -/

theorem Canon.epiSet0 {g q s} (h : Canon s) : Canon (epiSet0 g q s) := by
  unfold Machine.epiSet0
  exact .runFor <| .updCore h

theorem Kept.execEpiSet0 {core stream s} (h : Canon s) : Kept (execEpiSet0 core stream s) :=
  .onOp h fun _ _ h => .epiSet0 h

theorem Canon.epiChange {g q f s} (h : Canon s) : Canon (epiChange g q f s) := by
  unfold Machine.epiChange
  exact .ite (.runFor <| .updCore h) (.startFault h)

theorem Kept.execEpiSet1 {core stream s} (h : Canon s) : Kept (execEpiSet1 core stream s) :=
  .onOp h fun _ _ h => .epiChange h

theorem Kept.execEpiSet2 {core stream s} (h : Canon s) : Kept (execEpiSet2 core stream s) :=
  .onOp h fun _ _ h => .epiChange h

theorem Canon.writeRow {g p eout i ys s} (h : Canon s) : Canon (writeRow g p eout i ys s) := by
  unfold Machine.writeRow
  extract_lets
  split
  · exact .tileWrite <| .tileWrite h
  · exact .tileWrite h
  · exact .tileWrite h

theorem Canon.loadB {g q x xs b c s} (h : Canon s) : Canon (loadB g q x xs b c s) := by
  unfold Machine.loadB
  exact .updCore <| .loadEnds h

theorem Canon.firstPass {g p s} (h : Canon s) : Canon (firstPass g p s) := by
  unfold Machine.firstPass
  exact .opEvents <| .updCore h

theorem Canon.pourStep {g p x xs sl finals s} (h : Canon s) : Canon (pourStep g p x xs sl finals s) := by
  unfold Machine.pourStep
  exact .withReadsOf (.ite (.loadB h) h) fun _ h => .ite (.firstPass <| .updCore <| .count <| .count h) (.updCore <|
    .count <| .count h)

theorem Canon.advancePour {g n s} (h : Canon s) : Canon (advancePour g n s) := by
  induction n generalizing s with
  | zero => exact h
  | succ n ih =>
    unfold Machine.advancePour
    split
    · exact h
    · split
      · exact h
      · split
        · exact ih <| .pourStep h
        · exact h

theorem Canon.advanceCore {g s} (h : Canon s) : Canon (advanceCore g s) :=
  .advancePour <| .advanceRank h

theorem Kept.execMmaRun {core stream s} (h : Canon s) : Kept (execMmaRun core stream s) :=
  .onOp h fun _ _ h => .advanceCore <| .mmaRun h

theorem Kept.execRankRun {core stream s} (h : Canon s) : Kept (execRankRun core stream s) :=
  .onOp h fun _ _ h => .advanceCore <| .rankRun h

theorem Canon.pourStart {g q s} (h : Canon s) : Canon (pourStart g q s) := by
  unfold Machine.pourStart
  exact .ite (.startFault h) (.updCore h)

theorem Kept.execPour {core stream s} (h : Canon s) : Kept (execPour core stream s) :=
  .onOp h fun _ _ h => .advanceCore <| .pourStart h

theorem Canon.drainedPour {s g p t} (h : Canon s) (hv : drainedPour s g = some (p, t)) : Canon t := by
  unfold Machine.drainedPour at hv
  dsimp only at hv
  split at hv
  · cases hv
  · split at hv
    · cases hv
      exact .advanceCore h
    · cases hv

theorem Canon.recomputePour {g s} (h : Canon s) : Canon (recomputePour g s) := by
  unfold Machine.recomputePour
  split
  · exact .advanceCore h
  next hv => exact .ite (.drainedPour h hv) (.opEvents <| .count <| .updCore <| .untilClock <|
    (.drainedPour h hv))

theorem Kept.execPourRecompute {core s} (h : Canon s) : Kept (execPourRecompute core s) :=
  .done <| .recomputePour h

theorem Canon.releaseBanks {g p s} (h : Canon s) : Canon (releaseBanks g p s) := by
  unfold Machine.releaseBanks
  exact .ite (.updCore <| .ite h (.updCore h)) <| .ite h (.updCore h)

theorem Canon.pourResult {g p s} (h : Canon s) : Canon (pourResult g p s) := by
  unfold Machine.pourResult
  exact .ite (.updCore h) (.count <| .foldl h (fun _ _ h => .writeRow h))

theorem Canon.completePour {g s} (h : Canon s) : Canon (completePour g s) := by
  unfold Machine.completePour
  split
  · exact .advanceCore h
  next hv => exact .ite (.drainedPour h hv) (.count <| .releaseBanks <| .updCore <| .sendCredit <| .tileWrite <|
    .pourResult <| .untilClock <| (.drainedPour h hv))

theorem Kept.execPourComplete {core s} (h : Canon s) : Kept (execPourComplete core s) :=
  .done <| .completePour h

/-! ### Machine/Vector.lean -/

theorem Canon.writeRows {g base stride rows s} (h : Canon s) : Canon (writeRows g base stride rows s) :=
  .foldl h fun _ _ h => .tileWrite h

theorem Canon.vecRun {g q s} (h : Canon s) : Canon (vecRun g q s) := by
  unfold Machine.vecRun
  exact .runFor <| .count <| .updCore h

theorem Canon.vecEw {g q s} (h : Canon s) : Canon (vecEw g q s) :=
  .withReads h fun _ h => .opEvents <| .writeRows <| .vecRun h

theorem Kept.execVecEw {core stream s} (h : Canon s) : Kept (execVecEw core stream s) :=
  .onOp h fun _ _ h => .vecEw h

theorem Canon.vecCvt {g q s} (h : Canon s) : Canon (vecCvt g q s) :=
  .withReads h fun _ h => .opEvents <| .ite (.writeRows <| .vecRun h) (.tileWrite <| .writeRows <| .vecRun h)

theorem Kept.execVecCvt {core stream s} (h : Canon s) : Kept (execVecCvt core stream s) :=
  .onOp h fun _ _ h => .vecCvt h

theorem Canon.vecRow {g q s} (h : Canon s) : Canon (vecRow g q s) :=
  .withReads h fun _ h => .opEvents <| .tileWrite <| .vecRun h

theorem Kept.execVecRow {core stream s} (h : Canon s) : Kept (execVecRow core stream s) :=
  .onOp h fun _ _ h => .vecRow h

/-! ### Machine/Programs.lean -/

theorem Canon.takeBind {g b s} (h : Canon s) : Canon (takeBind g b s) := by
  unfold Machine.takeBind
  exact .ite (.updCore h) (.updCore <| .updCore h)

theorem Kept.execBind {s} (h : Canon s) : Kept (execBind s) := by
  unfold Machine.execBind
  refine .onHead h fun _ _ h => ?_
  extract_lets _ _ _ _ _ _ rest
  have hrest {s} (h : Canon s) : Canon (rest s) := .ite (.finish h) <| .ite (.finish h) (.finish <| .takeBind h)
  refine .ite (.finish h) <| .ite (.finish h) <| .ite (hrest h) <| .ite (.finish h) ?_
  split
  · exact .finish h
  · refine .ite (.finish h) ?_
    split
    · exact .finish h
    · exact hrest h

theorem Kept.execBindEffect {core s} (h : Canon s) : Kept (execBindEffect core s) := by
  unfold Machine.execBindEffect
  extract_lets
  split
  · exact .done h
  · exact .onlyIf h fun _ h => .updCore h

theorem Canon.refetchModes {s} (h : Canon s) : Canon (refetchModes s) :=
  .foldl h fun _ _ h => .ite (.updCore h) h

theorem Kept.execProgramFetch {core s} (h : Canon s) : Kept (execProgramFetch core s) := by
  unfold Machine.execProgramFetch
  exact .onlyIf h fun _ h => .updCore <| .untilTime h

theorem Kept.execProgramFetchDone {core env s} (h : Canon s) : Kept (execProgramFetchDone core env s) := by
  unfold Machine.execProgramFetchDone
  extract_lets
  refine .onlyIf h fun _ h => ?_
  extract_lets _ _ _ _ _ _ _ _ _ s9
  have h9 : Canon s9 := .countHbm <| .countHbm <| .verifyRange <| .verifyRange <| .bringUpsets h
  exact .ite (.updCore <| .bringUpsets h) <| .ite (.updCore h9) (.updCore h9)

theorem Kept.execOpDispatch {core stream s} (h : Canon s) : Kept (execOpDispatch core stream s) := by
  unfold Machine.execOpDispatch
  extract_lets _ _ _ s3
  have h3 : Canon s3 := .untilClock <| .untilTime h
  split
  · exact .done h
  · split
    · exact .done h
    · split
      · exact .done h
      · exact .ite (.done <| .progFault h3) (.done <| .count <| .setCore h3)

theorem Kept.execSyncWait {core stream s} (h : Canon s) : Kept (execSyncWait core stream s) :=
  .onOp h fun _ _ h => .runFor h

theorem Kept.execSyncSend {core stream s} (h : Canon s) : Kept (execSyncSend core stream s) := by
  unfold Machine.execSyncSend
  exact .onOp h fun _ _ h => .foldl h fun _ _ h => .sendCredit h

theorem Kept.execSyncTime {core stream s} (h : Canon s) : Kept (execSyncTime core stream s) := by
  unfold Machine.execSyncTime
  exact .onOp h fun _ _ h => .runFor h

theorem Kept.execMark {core stream s} (h : Canon s) : Kept (execMark core stream s) := by
  unfold Machine.execMark
  exact .onOp h fun _ _ h => .runFor <| .ite (.trace <| .trace <| .trace <| .count h) (.trace <| .count h)

theorem Kept.execHalt {core stream s} (h : Canon s) : Kept (execHalt core stream s) :=
  .onOp h fun _ _ h => h

theorem Canon.completeOp {g r s} (h : Canon s) : Canon (completeOp g r s) := by
  unfold Machine.completeOp
  exact .sendCredit <| .updCore h

theorem Kept.execOpComplete {core op s} (h : Canon s) : Kept (execOpComplete core op s) := by
  unfold Machine.execOpComplete
  extract_lets
  split
  · exact .done h
  · exact .done <| .ite (.completeOp <| .untilClock h) h

theorem Canon.dropToken {s} (h : Canon s) : Canon (dropToken s) :=
  .frameParts h

theorem Canon.landToken {g ctr amount steep s} (h : Canon s) : Canon (landToken g ctr amount steep s) :=
  .ite (.count <| .dropToken h) <| .ite (.addCredit h) (.updCore h)

theorem Kept.execToken {core ctr amount steep part remote s} (h : Canon s) :
    Kept (execToken core ctr amount steep part remote s) := by
  unfold Machine.execToken
  split
  · exact .done <| .ite (.dropToken h) (.landToken h)
  · split
    · exact .done h
    · exact .done <| .landToken <| .frameParts h

/-! ### Machine/Transfers.lean -/

theorem Canon.failRequests {g status s} (h : Canon s) : Canon (failRequests g status s) := by
  unfold Machine.failRequests
  exact .updAd h

theorem Canon.transferError {g s} (h : Canon s) : Canon (transferError g s) :=
  .ite (.failStep h) (.failRequests h)

theorem Canon.caddyWrite {die p o bs s} (h : Canon s) : Canon (caddyWrite die p o bs s) :=
  .foldl h fun _ _ h => .ite (.setCaddy h) (.withMem h (memWf_store _ _ _))

theorem Canon.damageSegment {hf seg s} (h : Canon s) : Canon (damageSegment hf seg s) := by
  unfold Machine.damageSegment
  exact .ite h (.updLeaf <| .setRec h)

theorem Canon.leafDamage {hf seg s} (h : Canon s) : Canon (leafDamage hf seg s) :=
  .updLeaf <| .damageSegment h

theorem Canon.countLeaf {die o n s} (h : Canon s) : Canon (countLeaf die o n s) :=
  .foldl h fun _ _ h => .ite (.count h) (.count <| .count h)

theorem Canon.leafUnits {env die gen raw o n s} (h : Canon s) : Canon (leafUnits env die gen raw o n s).2 := by
  unfold Machine.leafUnits
  extract_lets
  split
  · extract_lets s1
    exact .foldl (.countLeaf h) fun _ _ h => .count <| .leafDamage h
  · split
    · refine .foldl_snd (.countLeaf h) fun p i h => ?_
      extract_lets
      split
      · exact h
      · extract_lets e
        have he : Canon e.2 := by
          unfold e
          split
          · exact .verifyBlock h
          · exact h
        exact .readStored he
    · exact h

theorem Canon.leafRead {env die gen raw o n s} (h : Canon s) : Canon (leafRead env die gen raw o n s).2 := by
  unfold Machine.leafRead
  extract_lets
  split
  · exact h
  · exact .leafUnits h

theorem Canon.readSource {env g d s} (h : Canon s) : Canon (readSource env g d s).2 := by
  unfold Machine.readSource
  extract_lets _ _ _ v r
  have hv : Canon v.2 := by
    unfold v
    split
    · exact .verifyRange h
    · exact .eccRange h
  have hr : Canon r.2 := by
    unfold r
    split
    · exact .xtsReadAt hv
    · exact .readStored hv
  split
  · exact h
  · exact hr
  · split
    · exact .countGcmFail <| .countStale <| .countHostRead h
    · split
      · exact .countHostRead h
      · exact .countGcmFail h
  · exact h
  · exact .leafRead h

theorem Canon.xtsWriteAny {slot crc a bs s} (h : Canon s) : Canon (xtsWriteAny slot crc a bs s) :=
  .ite (.xtsWrite h) (.xtsWrite <| .xtsRead h)

theorem Canon.tilesWrite {a bs s} (h : Canon s) : Canon (tilesWrite a bs s) :=
  .foldl h fun _ _ h => .ite h (.tileWrite h)

theorem Canon.tilesCorrect {rs s} (h : Canon s) : Canon (tilesCorrect rs s) :=
  .foldl h fun _ _ h => .correctReads h

theorem Canon.packageWrite {p key crc a bs s} (h : Canon s) : Canon (packageWrite p key crc a bs s) := by
  unfold Machine.packageWrite
  split
  · exact .tilesWrite h
  · refine .logMem ?_
    split
    · exact .xtsWriteAny h
    · exact .writeStored h

theorem Canon.sealOne {unit slot seq bs s} (h : Canon s) : Canon (sealOne unit slot seq bs s).2 := by
  unfold Machine.sealOne
  extract_lets
  split
  · exact h
  · split
    next hv => exact .of_snd hv (.nextNonce h)
    next hv => exact .of_snd hv (.nextNonce h)

theorem Canon.eachPiece {f ps s} (h : Canon s) (hf : ∀ o bs s, Canon s → Canon (f o bs s)) :
    Canon (eachPiece f ps s) := by
  refine .foldl_snd h fun _ _ h => ?_
  dsimp only
  split
  · exact hf _ _ _ h
  · exact h

theorem Canon.writeDest {g d ps s} (h : Canon s) : Canon (writeDest g d ps s).2 := by
  unfold Machine.writeDest
  extract_lets
  split
  · dsimp only
    exact .eachPiece h fun _ _ _ h => .tileWrite h
  · dsimp only
    exact .eachPiece h fun _ _ _ h => .packageWrite h
  · dsimp only
    exact .eachPiece h fun _ _ _ h => .caddyWrite h
  · split
    · refine .foldl_snd h fun _ _ h => ?_
      split
      · exact h
      · split
        next hv => exact .of_snd hv (.sealOne h)
        next hv => exact .hostWrite <| .of_snd hv (.sealOne h)
    · dsimp only
      exact .eachPiece h fun _ _ _ h => .hostWrite h

theorem Canon.tileGather {env g d s} (h : Canon s) : Canon (tileGather env g d s) := by
  unfold Machine.tileGather
  extract_lets _ _ _ _ _ _ _ s7
  have h7 : Canon s7 := .count <| .countMoved <| .tileWrite <| .tileWrite <| .foldl_snd h fun _ _ h => .leafUnits h
  exact .ite (.transferError h7) h7

theorem Canon.transferOne {env g leaf d0 s} (h : Canon s) : Canon (transferOne env g leaf d0 s).2 := by
  unfold Machine.transferOne
  extract_lets _ _ r w
  have hr : Canon r.2 := .readSource <| .countMoved <| .tilesCorrect h
  have hw : Canon w.2 := .writeDest hr
  split
  · split
    · exact .tileGather h
    · exact h
  · split
    · exact h
    · split
      · exact h
      · split
        · exact .countStale h
        · split
          · exact h
          · split
            · exact hw
            · exact .ite (.transferError hw) hw

theorem Canon.transferAll {f ds s} (h : Canon s) (hf : ∀ d s, Canon s → Canon (f d s).2) :
    Canon (transferAll f ds s).2 := by
  induction ds generalizing s with
  | nil => exact h
  | cons d ds ih =>
    unfold Machine.transferAll
    split
    next hv => exact ih <| .of_snd hv <| hf _ _ h
    next hv => exact .of_snd hv <| hf _ _ h

theorem Canon.transferEnd {g q r n} (h : Canon r.2) : Canon (transferEnd g q r n) := by
  unfold Machine.transferEnd
  split
  · exact .runFor h
  · exact .eccAbort h
  · exact .startFault h

theorem Kept.execDma {core stream env s} (h : Canon s) : Kept (execDma core stream env s) := by
  unfold Machine.execDma
  extract_lets
  split
  · exact .done h
  · exact .onOp (.bringUpsets h) fun _ _ h => .withReads h fun _ h => .transferEnd <| .transferAll
      (.frameParts h) fun _ _ h => .transferOne h

/-! ### Machine/Leaf.lean -/

theorem Canon.setManifest {hf m s} (h : Canon s) : Canon (setManifest hf m s) :=
  .updLeaf h

theorem Canon.measureHalf {hf s} (h : Canon s) : Canon (measureHalf hf s) := by
  unfold Machine.measureHalf
  exact .measure h

theorem Canon.updInstall {f s} (h : Canon s) : Canon (updInstall f s) :=
  .updLeaf h

theorem Canon.toSucc {p x s} (h : Canon s) : Canon (toSucc p x s) :=
  .ite h (.send h)

theorem Canon.endInstall {ok status s} (h : Canon s) : Canon (endInstall ok status s) := by
  unfold Machine.endInstall
  split
  · exact h
  · exact .ite (.updLeaf h) (.toSucc <| .ite (.updLeaf h) (.setRec <| .updLeaf h))

theorem Canon.forwardSegments {n s} (h : Canon s) : Canon (forwardSegments n s) := by
  induction n generalizing s with
  | zero => exact h
  | succ n ih =>
    unfold Machine.forwardSegments
    split
    · exact h
    · exact .ite h (ih <| .updInstall <| .send h)

theorem Canon.resendSegment {n s} (h : Canon s) : Canon (resendSegment n s) := by
  unfold Machine.resendSegment
  split
  · exact h
  · exact .ite h (.send h)

theorem Canon.delivered {p d a n s bs t} (h : Canon s) (hv : delivered p d a n s = some (bs, t)) : Canon t := by
  unfold Machine.delivered at hv
  split at hv
  · cases hv
    exact h
  · cases hv
    exact .countHostRead h
  · cases hv

theorem Canon.freeStaging {s} (h : Canon s) : Canon (freeStaging s) := by
  unfold Machine.freeStaging
  split
  · exact h
  · exact .updInstall <| .foldl h fun _ _ h => .ite (.send h) h

theorem Canon.tryFinishInstall {s} (h : Canon s) : Canon (tryFinishInstall s) := by
  unfold Machine.tryFinishInstall
  split
  · exact h
  · split
    · exact h
    · exact .ite (.ite (.endInstall h) h) <| .ite (.endInstall <| .measureHalf <| .setRec h) h

theorem Canon.installProgress {s} (h : Canon s) : Canon (installProgress s) :=
  .tryFinishInstall <| .freeStaging <| .forwardSegments h

theorem Canon.beginInstall {p s t} (h : Canon s) (hv : beginInstall p s = some t) : Canon t := by
  unfold Machine.beginInstall at hv
  dsimp only at hv
  split at hv
  · cases hv
  · split at hv
    · cases hv
    · split at hv
      · cases hv
      · split at hv
        · cases hv
          exact .installProgress <| .toSucc <| .updLeaf h
        · cases hv
          exact .setRec <| .updLeaf h

theorem Kept.execInstallBegin {params s} (h : Canon s) : Kept (execInstallBegin params s) :=
  .done <| .getD h fun _ ht => .beginInstall h ht

theorem Canon.abortInstall {s} (h : Canon s) : Canon (abortInstall s) :=
  .ite (.endInstall <| .fresh h) h

theorem Kept.execInstallAbort {s} (h : Canon s) : Kept (execInstallAbort s) :=
  .done <| .abortInstall h

theorem Kept.execManifest {from_ s} (h : Canon s) : Kept (execManifest from_ s) := by
  unfold Machine.execManifest
  split
  · exact .done h
  · extract_lets
    split
    next hv _ =>
      extract_lets s0 _ _ _ s4
      have h0 : Canon s0 := .updInstall <| .delivered h hv
      have h4 : Canon s4 := .toSucc <| .updInstall <| .setManifest <| .setRec <| .updLeaf h0
      refine .ite (.done <| .endInstall h0) <| .ite (.done <| .endInstall h0) ?_
      exact .done <| .ite (.foldl h4 fun _ _ h => .send h) h4
    · exact .done h

theorem Kept.execSegmentData {index from_ s} (h : Canon s) : Kept (execSegmentData index from_ s) := by
  unfold Machine.execSegmentData
  split
  · exact .done h
  · extract_lets
    split
    · exact .done h
    · exact .done <| .ite (.resendSegment h) h
    next hv =>
      extract_lets _ s1 s2 s3
      have h2 : Canon s2 := .writeStored <| .updInstall <| .delivered h hv
      have h3 : Canon s3 := .updInstall h2
      exact .ite (.done h) <| .ite (.done <| .installProgress <| .updInstall h2) <|
        .ite (.done <| .endInstall h2) (.done <| .ite (.send h3) h3)

theorem Kept.execSegmentProgrammed {index readback s} (h : Canon s) :
    Kept (execSegmentProgrammed index readback s) := by
  unfold Machine.execSegmentProgrammed
  split
  · exact .done h
  · extract_lets _ _ _ s3
    have h3 : Canon s3 := .count <| .ite (.leafDamage <| .storeBytes h) (.storeBytes h)
    split
    · exact .done h
    · exact .ite (.done h)
        (.ite (.done <| .installProgress <| .updInstall <| .updLeaf h3) (.done <| .endInstall h3))

theorem Kept.execInstallCredit {s} (h : Canon s) : Kept (execInstallCredit s) :=
  .done <| .installProgress <| .updInstall h

theorem Kept.execInstallTimeout {s} (h : Canon s) : Kept (execInstallTimeout s) := by
  unfold Machine.execInstallTimeout
  split
  · exact .done h
  · exact .onlyIf h fun _ h => .endInstall <| .untilClock h

theorem Kept.execBreakNotice {status s} (h : Canon s) : Kept (execBreakNotice status s) := by
  unfold Machine.execBreakNotice
  split
  · exact .done h
  · exact .onlyIf h fun _ h => .endInstall h

theorem Kept.execLeafPatrol {half index data s} (h : Canon s) : Kept (execLeafPatrol half index data s) := by
  unfold Machine.execLeafPatrol
  exact .onlyIf h fun _ h => .ite (.leafDamage <| .count h) <| .ite (.count h) (.damageSegment <| .count h)

theorem Canon.dropGen {g s} (h : Canon s) : Canon (dropGen g s) :=
  .kvBaseReleased <| .invalidateDescs h

theorem Kept.execHalfRelease {s} (h : Canon s) : Kept (execHalfRelease s) := by
  unfold Machine.execHalfRelease
  split
  · exact .done h
  · exact .onlyIf h fun _ h => .dropGen <| .updLeaf <| .measureHalf <| .setRec h

theorem Canon.returnExtents {s} (h : Canon s) : Canon (returnExtents s) := by
  unfold Machine.returnExtents
  refine .updLeaf <| .foldl h fun s e h => ?_
  extract_lets s1
  have h1 : Canon s1 := .withMem h (memWf_zero _ _ _)
  exact .frameParts h1

theorem Canon.measureTrial {s} (h : Canon s) : Canon (measureTrial s) :=
  .measure h

theorem Kept.execTrialLoad {host s} (h : Canon s) : Kept (execTrialLoad host s) := by
  unfold Machine.execTrialLoad
  refine .onHead h fun _ _ h => ?_
  extract_lets _ _ _ s1
  have h1 : Canon s1 := .countHostRead h
  refine .ite (.finish h) <| .ite (.finish h) ?_
  split
  · exact .finish <| .countGcmFail h
  · split
    · exact .finish h1
    · exact .ite (.finish <| .countGcmFail h1) <| .ite (.finish h1) <| .ite (.finish h1) (.takeUp <| .updLeaf h1)

/-- The function is unfolded with its constant `2 ^ 26` as a variable: with the number in its place, comparing the two
sides evaluates a read of that many bytes. -/
theorem Canon.copyTrial {host is s} (h : Canon s) : Canon (copyTrial host is s).2 := by
  rw [(?hc : @Machine.copyTrial = ?c)]
  case hc => delta Machine.copyTrial; rfl
  rw [(?hf : @copyTrial._f = ?f)]
  case hf => delta copyTrial._f; rfl
  obtain ⟨n, hn⟩ : ∃ n, n = 2 ^ 26 := ⟨_, rfl⟩
  rw [← hn]
  induction is generalizing s with
  | nil => exact h
  | cons i is ih =>
    dsimp only
    split
    next bs a _ _ =>
      have h1 : Canon (Machine.writeStored true a bs (Machine.countHostRead n s)) := .writeStored <|
        .countHostRead h
      split
      · exact ih h1
      · exact h1
    · exact .countGcmFail h

theorem Kept.execTrialLoadDone {host s} (h : Canon s) : Kept (execTrialLoadDone host s) := by
  unfold Machine.execTrialLoadDone
  extract_lets
  split
  · split
    next hv => exact .done <| .finish <| .returnExtents <| .of_snd hv (.copyTrial h)
    next hv => exact .done <| .finish <| .measureTrial <| .updLeaf <| .of_snd hv (.copyTrial h)
  · exact .done h

theorem Kept.execTrialRelease {s} (h : Canon s) : Kept (execTrialRelease s) := by
  unfold Machine.execTrialRelease
  refine .onHead h fun _ _ h => ?_
  dsimp only
  split
  · refine .finish <| .updLeaf ?_
    split
    · exact .finish h
    · exact h
  · exact .finish h

theorem Kept.execTrialReleaseEffect {s} (h : Canon s) : Kept (execTrialReleaseEffect s) := by
  unfold Machine.execTrialReleaseEffect
  exact .onlyIf h fun _ h => .ite (.returnExtents h) (.returnExtents <| .dropGen <| .measureTrial h)

/-! ### Machine/Rules.lean -/

theorem Canon.writeReport {fs s} (h : Canon s) : Canon (writeReport fs s) :=
  .updDict h

/-! ### Machine/Fab.lean -/

theorem Canon.runWith {g q descs n s} (h : Canon s) : Canon (runWith g q descs n s) :=
  .updCore h

theorem Canon.putOne {env g d0 s} (h : Canon s) : Canon (putOne env g d0 s).2 := by
  unfold Machine.putOne
  extract_lets _ r s1
  have hr : Canon r.2 := .readSource <| .countMoved <| .tilesCorrect h
  have h1 : Canon s1 := .ite (.transferError hr) hr
  split
  · exact h
  · split
    · exact h
    · split
      · exact .countStale h
      · split
        · exact h
        · refine .foldl_snd h1 fun _ _ h => ?_
          split
          · exact h
          · split
            · split
              next hv => exact .of_snd hv (.sealOne h)
              next hv => exact .of_snd hv (.sealOne h)
            · exact h

theorem Canon.putAll {env g ds s} (h : Canon s) : Canon (putAll env g ds s).2 := by
  induction ds generalizing s with
  | nil => exact h
  | cons d ds ih =>
    change Canon (match Machine.putOne env g d s with
      | ((none, ws), s) => ((_, _), (Machine.putAll env g ds s).2)
      | ((some c, ws), s) => ((some c, ws), s)).2
    have h1 : Canon (Machine.putOne env g d s).2 := .putOne h
    generalize Machine.putOne env g d s = r at h1
    obtain ⟨⟨_ | c, ws⟩, s⟩ := r
    · exact ih h1
    · exact h1

theorem Kept.execFabPut {core stream env s} (h : Canon s) : Kept (execFabPut core stream env s) := by
  unfold Machine.execFabPut
  exact .onOp (.bringUpsets h) fun _ _ h => .withReads h fun _ h => .transferEnd <| .foldl (.putAll h) fun _ _ h =>
    .send h

theorem Canon.getOne {g op off d s} (h : Canon s) : Canon (getOne g op off d s).2 := by
  unfold Machine.getOne
  split
  · exact h
  · split
    · exact h
    · split
      · exact .countStale h
      · exact .send <| .countMoved h

theorem Canon.getAll {g op n off ds s} (h : Canon s) : Canon (getAll g op n off ds s).2 := by
  induction ds generalizing s n off with
  | nil => exact h
  | cons d ds ih =>
    change Canon (match Machine.getOne g op off d s with
      | ((none, m), s) => Machine.getAll g op (n + m) (off + tLen d) ds s
      | ((some c, _), s) => ((some c, n), s)).2
    have h1 : Canon (Machine.getOne g op off d s).2 := .getOne h
    generalize Machine.getOne g op off d s = r at h1
    obtain ⟨⟨_ | c, m⟩, s⟩ := r
    · exact ih h1
    · exact h1

theorem Kept.execFabGet {core stream s} (h : Canon s) : Kept (execFabGet core stream s) := by
  unfold Machine.execFabGet
  extract_lets
  refine .onOp h fun _ _ h => .withReads h fun _ h => ?_
  extract_lets
  split
  · exact .runWith <| .getAll h
  · exact .transferEnd <| .getAll h

theorem Canon.collWrite {g d o bs s} (h : Canon s) : Canon (collWrite g d o bs s) :=
  .ite (.packageWrite h) (.tileWrite h)

theorem Canon.collOne {g off d s} (h : Canon s) : Canon (collOne g off d s).2 := by
  unfold Machine.collOne
  split
  · exact h
  · extract_lets
    split
    · exact .foldl h fun _ _ h => .send h
    · split
      · exact .countStale h
      · split
        · exact h
        · split
          · exact .countMoved h
          · refine .foldl_snd (.collWrite <| .countMoved <| .correctReads h) fun _ _ h => ?_
            split
            next hv => exact .of_snd hv (.sealOne h)
            next hv => exact .foldl (.of_snd hv (.sealOne h)) fun _ _ h => .send h

theorem Canon.collAll {g n off ds s} (h : Canon s) : Canon (collAll g n off ds s).2 := by
  induction ds generalizing s n off with
  | nil => exact h
  | cons d ds ih =>
    unfold Machine.collAll
    split
    next hv => exact ih <| .of_snd hv <| .collOne h
    next hv => exact .of_snd hv <| .collOne h

theorem Kept.execFabColl {core stream s} (h : Canon s) : Kept (execFabColl core stream s) := by
  unfold Machine.execFabColl
  extract_lets
  refine .onOp h fun _ _ h => .withReads h fun _ h => ?_
  extract_lets
  split
  · exact .runWith <| .collAll h
  · exact .transferEnd <| .collAll h

theorem Canon.acknowledge {net s} (h : Canon s) : Canon (acknowledge net s) :=
  .send h

theorem Canon.unitFailed {p s} (h : Canon s) : Canon (unitFailed p s) := by
  unfold Machine.unitFailed
  exact .ite (.failStep <| .countGcmFail h) (.countGcmFail h)

theorem Canon.putLanded {net put s} (h : Canon s) : Canon (putLanded net put s).2 := by
  unfold Machine.putLanded
  exact .frameParts h

theorem Kept.execFabWriteArrival {net addr unit gcm crc core ctr amount put s} (h : Canon s) :
    Kept (execFabWriteArrival net addr unit gcm crc core ctr amount put s) := by
  unfold Machine.execFabWriteArrival
  extract_lets _ _ s1 s2 r
  have h1 : Canon s1 := by
    unfold s1
    refine .ite (.packageWrite h) ?_
    split
    · exact .countStale h
    · exact .ite (.countStale h) (.ite (.packageWrite h) (.unitFailed <| .packageWrite h))
  have h2 : Canon s2 := .acknowledge h1
  have hr : Canon r.2 := .putLanded h2
  exact .ite (.done h) <| .ite (.done h2) <| .ite (.done hr) <| .ite (.done <| .dropToken hr) (.done <|
    .landToken hr)

theorem Kept.execFabReadRequest {net addr len gcm slot gen replyCore replyOp offset s} (h : Canon s) :
    Kept (execFabReadRequest net addr len gcm slot gen replyCore replyOp offset s) := by
  unfold Machine.execFabReadRequest
  dsimp only
  split
  · exact .done h
  · split
    · exact .done <| .foldl (.countStale h) fun _ _ h => .send h
    · refine .done <| .foldl ?_ fun _ _ h => ?_
      · split
        · exact .xtsReadAt h
        · exact .readStored h
      · split
        · split
          next hv => exact .send <| .of_snd hv (.sealOne h)
          next hv => exact .of_snd hv (.sealOne h)
        · exact .send h

theorem Canon.answered {g op n s} (h : Canon s) : Canon (answered g op n s) :=
  .updCore h

theorem Kept.execReadData {net core op offset unit s} (h : Canon s) :
    Kept (execReadData net core op offset unit s) := by
  unfold Machine.execReadData
  extract_lets
  split
  · exact .done h
  · split
    · exact .done h
    · extract_lets _ _ s1
      have h1 : Canon s1 := by
        unfold s1
        refine .ite h <| .ite (.writeDest h) <| .ite (.countStale h) ?_
        split
        · exact .countStale h
        · exact .ite (.writeDest h) (.transferError <| .countGcmFail <| .writeDest h)
      exact .ite (.done h) (.done <| .answered h1)

theorem Kept.execCollectiveData {net core op rank offset unit s} (h : Canon s) :
    Kept (execCollectiveData net core op rank offset unit s) := by
  unfold Machine.execCollectiveData
  extract_lets
  split
  · exact .done h
  · refine .ite (.done <| .ite (.answered h) h) ?_
    split
    · exact .done h
    · extract_lets _ _ _ s1 s2
      have h1 : Canon s1 := by
        unfold s1
        split
        · exact .countStale h
        · exact .ite (.collWrite h) (.transferError <| .countGcmFail <| .collWrite h)
      have h2 : Canon s2 := .ite (.acknowledge h1) h1
      exact .ite (.done h) <| .ite (.done <| .countStale h) (.done <| .answered h2)

theorem Kept.execAcknowledgement {core op units s} (h : Canon s) : Kept (execAcknowledgement core op units s) := by
  unfold Machine.execAcknowledgement
  exact .onlyIf h fun _ h => .answered h

/-! ### Machine/Gradient.lean -/

theorem Canon.sealWith {unit slot aad bs s} (h : Canon s) : Canon (sealWith unit slot aad bs s).2 := by
  unfold Machine.sealWith
  extract_lets
  split
  · exact h
  · split
    next hv => exact .of_snd hv (.nextNonce h)
    next hv => exact .of_snd hv (.nextNonce h)

theorem Canon.sendRollCalls {f s} (h : Canon s) : Canon (sendRollCalls f s) := by
  unfold Machine.sendRollCalls
  split
  · exact h
  · exact .foldl h fun _ _ h => .send h

theorem Canon.sendUnit {g u s} (h : Canon s) : Canon (sendUnit g u s).2 := by
  unfold Machine.sendUnit
  extract_lets
  split
  · exact .send h
  · split
    next hv => exact .of_snd hv (.sealWith h)
    next hv => exact .send <| .countMoved <| .of_snd hv (.sealWith h)

theorem Canon.sendUnits {g us s} (h : Canon s) : Canon (sendUnits g us s).2 := by
  induction us generalizing s with
  | nil => exact h
  | cons u us ih =>
    unfold Machine.sendUnits
    split
    next hv => exact ih <| .of_snd hv <| .sendUnit h
    next hv => exact .of_snd hv <| .sendUnit h

theorem Canon.refuseWindow {p grp w s} (h : Canon s) : Canon (refuseWindow p grp w s) := by
  unfold Machine.refuseWindow
  exact .ite h (.updAd <| .updRed h)

theorem Canon.addShards {g r s} (h : Canon s) : Canon (addShards g r s).2 := by
  unfold Machine.addShards
  extract_lets
  split
  · exact h
  · split
    · exact h
    · split
      · exact h
      · split
        · exact .refuseWindow h
        · split
          · exact h
          · exact h

theorem Canon.tallyUnits {g kind r s} (h : Canon s) : Canon (tallyUnits g kind r s).2 := by
  unfold Machine.tallyUnits
  split
  · exact h
  · split
    · exact .countStale h
    · exact h

theorem Canon.redOne {g op r s} (h : Canon s) : Canon (redOne g op r s).2 := by
  unfold Machine.redOne
  extract_lets
  split
  · exact h
  · split
    · exact h
    · split
      · exact .addShards <| .correctReads h
      · exact .tallyUnits <| .correctReads h

theorem Canon.redAll {g op ds s} (h : Canon s) : Canon (redAll g op ds s).2 := by
  induction ds generalizing s with
  | nil => exact h
  | cons d ds ih =>
    unfold Machine.redAll
    split
    next hv => exact ih <| .of_snd hv <| .redOne h
    next hv => exact .of_snd hv <| .redOne h

theorem Canon.redSend {g op q s} (h : Canon s) : Canon (redSend g op q s) :=
  .withReads h fun _ h => .ite (.startFault h) (.transferEnd <| .sendUnits <| .redAll h)

theorem Kept.execRedAdd {core stream s} (h : Canon s) : Kept (execRedAdd core stream s) :=
  .onOp h fun _ _ h => .redSend h

theorem Kept.execRedMax {core stream s} (h : Canon s) : Kept (execRedMax core stream s) :=
  .onOp h fun _ _ h => .redSend h

theorem Kept.execRedZero {core stream s} (h : Canon s) : Kept (execRedZero core stream s) :=
  .onOp h fun _ _ h => .redSend h

theorem Canon.setShard {n x s} (h : Canon s) : Canon (setShard n x s) :=
  .updRed h

theorem Canon.coverAnswered {x s} (h : Canon s) : Canon (coverAnswered x s) :=
  .foldl h fun _ _ h => .answered h

theorem Canon.failShard {n b s} (h : Canon s) : Canon (failShard n b s) := by
  unfold Machine.failShard
  split
  · exact h
  · extract_lets _ s1
    have h1 : Canon s1 := .failStep <| .count <| .updRed <| .setShard h
    exact .ite (.coverAnswered h1) h1

theorem Canon.advanceShard {n s} (h : Canon s) : Canon (advanceShard n s) := by
  unfold Machine.advanceShard
  split
  · exact h
  · exact .ite (.setShard h) <| .ite (.setShard h) <| .ite (.failShard h) h

theorem Canon.coverShard {g op r n s} (h : Canon s) : Canon (coverShard g op r n s).2 := by
  unfold Machine.coverShard
  split
  · exact h
  · split
    · exact h
    · split
      · exact .setShard h
      · split
        · exact .setShard h
        · exact .setShard h

theorem Canon.coverAll {g op r ns s} (h : Canon s) : Canon (coverAll g op r ns s).2 :=
  .foldl_snd h fun _ _ h => .coverShard h

theorem Canon.updAll {g rule op n ds s} (h : Canon s) : Canon (updAll g rule op n ds s).2 := by
  induction ds generalizing s n with
  | nil => exact h
  | cons d ds ih =>
    unfold Machine.updAll
    split
    · exact h
    · exact ih <| .coverAll h

theorem Kept.execRedUpd {core stream s} (h : Canon s) : Kept (execRedUpd core stream s) := by
  unfold Machine.execRedUpd
  exact .onOp h fun _ _ h => .withReads h fun _ h => .foldl (.transferEnd <| .updAll h) fun _ _ h => .advanceShard h

/-! ### Machine/Reduce.lean -/

theorem Canon.engineEvents {a classes part adid s} (h : Canon s) : Canon (engineEvents a classes part adid s) :=
  .numericEvents h

theorem Canon.atomicRange {kind part slot a adid news s} (h : Canon s) :
    Canon (atomicRange kind part slot a adid news s) := by
  unfold Machine.atomicRange
  exact .engineEvents <| .countHbm <| .countHbm <| .frame <| .packageWrite <| .xtsReadAt h

theorem Canon.tagBlock {slot b tag s} (h : Canon s) : Canon (tagBlock slot b tag s) :=
  .ite h (.setBlock <| .xtsWrite h)

theorem Canon.accumulate {part slot a adid tag news s} (h : Canon s) :
    Canon (accumulate part slot a adid tag news s) := by
  unfold Machine.accumulate
  exact .atomicRange <| .foldl h fun _ _ h => .tagBlock h

theorem Canon.copyUnit {n net e0 vals s} (h : Canon s) : Canon (copyUnit n net e0 vals s) := by
  unfold Machine.copyUnit
  split
  · exact h
  · extract_lets
    refine .foldl h fun _ _ h => ?_
    extract_lets -underBinder
    split
    · exact .updRed h
    · split
      · exact .setShard h
      · exact h

theorem Kept.execRollCall {ldn asteep records s} (h : Canon s) : Kept (execRollCall ldn asteep records s) := by
  unfold Machine.execRollCall
  refine .onlyIf h fun _ h => ?_
  extract_lets
  refine .foldl (.updRed h) fun _ _ h => ?_
  split
  · exact h
  · exact .advanceShard <| .ite (.setShard h) h

theorem Canon.dropUnit {ev hf s} (h : Canon s) : Canon (dropUnit ev hf s) := by
  unfold Machine.dropUnit
  split
  · exact .count h
  · exact h

theorem Canon.dropAndFail {hf s} (h : Canon s) : Canon (dropAndFail hf s) := by
  unfold Machine.dropAndFail
  dsimp only
  refine .foldl (.dropUnit <| .updRed h) fun _ _ h => ?_
  split
  · exact .ite (.failShard h) h
  · exact h

theorem Canon.applyUnit {net payload hf n x s} (h : Canon s) : Canon (applyUnit net payload hf n x s) := by
  unfold Machine.applyUnit
  extract_lets _ s1 _ _ s2
  have h1 : Canon s1 := .count <| .setShard h
  have h2 : Canon s2 := by
    unfold s2
    refine .ite (.count <| .updRed h1) ?_
    split
    · exact .failStep <| .countGcmFail h1
    · exact .copyUnit <| .accumulate h1
  exact .ite (.advanceShard h1) <| .ite (.failShard h1) (.advanceShard h2)

theorem Canon.shardUnitIn {net payload hf s} (h : Canon s) : Canon (shardUnitIn net payload hf s) := by
  unfold Machine.shardUnitIn
  split
  · exact .dropUnit <| .updRed h
  · split
    · exact .dropUnit <| .updRed h
    · split
      · exact .updRed h
      · split
        · exact .dropAndFail h
        · split
          · exact .dropAndFail h
          · split
            · exact .applyUnit h
            · exact h

theorem Canon.tallyUnitIn {net payload hf s} (h : Canon s) : Canon (tallyUnitIn net payload hf s) := by
  unfold Machine.tallyUnitIn
  extract_lets
  split
  · exact .count <| .updRed h
  · split
    · exact h
    · split
      · exact .unitFailed h
      · exact .atomicRange <| .count h

theorem Kept.execContributionUnit {net payload s} (h : Canon s) : Kept (execContributionUnit net payload s) := by
  unfold Machine.execContributionUnit
  exact .done <| .ite (.shardUnitIn <| .acknowledge h) (.tallyUnitIn <| .acknowledge h)

theorem Kept.execShardCutoff {shard s} (h : Canon s) : Kept (execShardCutoff shard s) := by
  unfold Machine.execShardCutoff
  extract_lets
  split
  · exact .done h
  · split
    · exact .done h
    · extract_lets
      split
      · exact .done h
      · exact .done <| .foldl (.failShard <| .untilTime h) fun _ _ h => .send h

theorem Kept.execStragglerNotice {asteep owner missing s} (h : Canon s) :
    Kept (execStragglerNotice asteep owner missing s) :=
  .onlyIf h fun _ h => .updMaster h

theorem Canon.restoreBlocks {env slot bs s} (h : Canon s) : Canon (restoreBlocks env slot bs s).2 := by
  induction bs generalizing s with
  | nil => exact h
  | cons b bs ih =>
    unfold Machine.restoreBlocks
    split
    next hv => exact ih <| .of_snd hv <| .verifyBlock h
    next hv =>
      have hs := Canon.of_snd hv <| .verifyBlock h
      split
      · exact hs
      · exact ih <| .xtsWrite <| .count <| .blockRestored <| .updRed hs

theorem Canon.readAccumulator {x slot tag s} (h : Canon s) : Canon (readAccumulator x slot tag s).2 := by
  unfold Machine.readAccumulator
  exact .foldl_snd h fun _ _ h => .xtsRead <| .tagBlock h

theorem Canon.dualCheck {n x acc s} (h : Canon s) : Canon (dualCheck n x acc s) := by
  unfold Machine.dualCheck
  refine .updRed <| .foldl h fun _ _ h => ?_
  extract_lets _ _ _ _ s4
  have h4 : Canon s4 := .count <| .count <| .updRed h
  split
  · exact .updRed h
  · split
    · exact .failStep <| .setShard h4
    · exact h4

theorem Canon.writeImage {d x r e v s} (h : Canon s) : Canon (writeImage d x r e v s) := by
  unfold Machine.writeImage
  extract_lets
  split
  · exact .packageWrite h
  · exact .packageWrite <| .packageWrite h

theorem Canon.engineWrite {part slot a bs s} (h : Canon s) : Canon (engineWrite part slot a bs s) :=
  .foldl h fun _ _ h => .packageWrite h

theorem Canon.runUpdate {n x s} (h : Canon s) : Canon (runUpdate n x s) := by
  unfold Machine.runUpdate
  extract_lets
  split
  next _ s1 hv =>
  have h1 : Canon s1 := .of_snd hv (.readAccumulator h)
  split
  next _ s2 hv =>
  have h2 : Canon s2 := .of_snd hv (.xtsReadAt h1)
  split
  next _ s3 hv =>
  have h3 : Canon s3 := .of_snd hv (.xtsReadAt h2)
  split
  extract_lets _ _ _ _ _ s4 s5 s6 s7 s8 s9 s10 s11
  have h6 : Canon s6 := .engineWrite <| .engineWrite <| .dualCheck h3
  have h7 : Canon s7 := .foldl h6 fun _ _ h => .writeImage h
  have h9 : Canon s9 := .count <| .engineEvents h7
  have h10 : Canon s10 := by
    unfold s10
    split
    · exact .setShard h9
    · exact h9
  have h11 : Canon s11 := .coverAnswered h10
  split
  next hv => exact .of_snd hv (.sealWith h11)
  next hv => exact .send <| .count <| .of_snd hv (.sealWith h11)

theorem Kept.execShardUpdate {shard env s} (h : Canon s) : Kept (execShardUpdate shard env s) := by
  unfold Machine.execShardUpdate
  extract_lets
  split
  · exact .done h
  · extract_lets s1 _ _ v _ r
    have h1 : Canon s1 := .readTable <| .readTable h
    have hv : Canon v.2 := .foldl_snd h1 fun _ _ h => .verifyBlock h
    have hr : Canon r.2 := .restoreBlocks hv
    refine .ite (.done h) <| .ite (.done h1) <| .ite (.done <| .coverAnswered <| .setShard h1) ?_
    refine .ite (.done <| .failShard h1) <| .ite (.done <| .failStep hv) ?_
    exact .ite (.done <| .failShard hr) (.done <| .runUpdate hr)

theorem Kept.execKeeperCopy {shard slot gen ep nonce ciphertext tag s} (h : Canon s) :
    Kept (execKeeperCopy shard slot gen ep nonce ciphertext tag s) := by
  unfold Machine.execKeeperCopy
  split
  · exact .done h
  · extract_lets
    split
    · exact .done h
    · split
      · exact .done <| .countStale h
      · split
        · exact .done <| .unitFailed h
        · exact .ite (.done h) (.done <| .send <| .packageWrite <| .packageWrite h)

theorem Kept.execKeeperAck {shard s} (h : Canon s) : Kept (execKeeperAck shard s) := by
  unfold Machine.execKeeperAck
  split
  · exact .done h
  · exact .done <| .ite (.count <| .setShard h) h

theorem Canon.pushUnit {didx l off s} (h : Canon s) : Canon (pushUnit didx l off s) := by
  unfold Machine.pushUnit
  dsimp only
  split
  next hv => exact .of_snd hv (.sealWith <| .xtsReadAt h)
  next hv => exact .send <| .count <| .of_snd hv (.sealWith <| .xtsReadAt h)

theorem Canon.pushShards {didx s} (h : Canon s) : Canon (pushShards didx s) := by
  unfold Machine.pushShards
  refine .foldl h fun _ _ h => ?_
  dsimp only
  split
  next hv => exact .of_snd hv (.sealWith <| .xtsReadAt h)
  next hv =>
    have h1 := Canon.of_snd hv (.sealWith <| .xtsReadAt h)
    exact .foldl (.count h1) fun _ _ h => .send h

theorem Canon.endRestore {b s} (h : Canon s) : Canon (endRestore b s) :=
  .blockRestored <| .setBlock h

theorem Canon.unitRestored {didx off s} (h : Canon s) : Canon (unitRestored didx off s) := by
  unfold Machine.unitRestored
  exact .foldl (.updAd h) fun _ _ h => .endRestore h

theorem Kept.execPushUnit {adid stepc offset slot gen ep nonce ciphertext tag s} (h : Canon s) :
    Kept (execPushUnit adid stepc offset slot gen ep nonce ciphertext tag s) := by
  unfold Machine.execPushUnit
  split
  · exact .done h
  · extract_lets
    split
    · exact .done h
    · split
      · exact .done <| .countStale h
      · split
        · exact .done <| .unitFailed h
        · extract_lets
          split
          · exact .done h
          · exact .done <| .unitRestored <| .updAd <| .packageWrite <| .dropStale h

theorem Canon.rebuildImage {x s} (h : Canon s) : Canon (rebuildImage x s) := by
  unfold Machine.rebuildImage
  exact .foldl (.xtsReadAt h) fun _ _ h => .writeImage h

theorem Kept.execRestoreRequest {ldn adid offsets s} (h : Canon s) :
    Kept (execRestoreRequest ldn adid offsets s) := by
  unfold Machine.execRestoreRequest
  split
  · exact .done h
  · extract_lets _ _ _ s1
    have h1 : Canon s1 := by
      refine .foldl h fun _ _ h => ?_
      extract_lets _ v
      have hv : Canon v.2 := .foldl_snd h fun _ _ h => .verifyBlock h
      exact .ite (.foldl (.rebuildImage hv) fun _ _ h => .ite (.endRestore h) h) hv
    exact .done <| .foldl h1 fun _ _ h => .pushUnit h

theorem Canon.latchRules {s} (h : Canon s) : Canon (latchRules s) :=
  .updRed h

theorem Canon.newAttempt {s} (h : Canon s) : Canon (newAttempt s) := by
  unfold Machine.newAttempt
  exact .latchRules <| .updRed h

theorem Canon.failUnkept {s} (h : Canon s) : Canon (failUnkept s) := by
  unfold Machine.failUnkept
  refine .foldl h fun _ _ h => ?_
  split
  · exact .failShard h
  · exact h

/-! ### Machine/Strain.lean -/

theorem Canon.strainBegin {g w s} (h : Canon s) : Canon (strainBegin g w s) := by
  unfold Machine.strainBegin
  exact .updCore <| .count <| .count h

theorem Kept.onStrain {core op ok reads s f} (h : Canon s) (hf : ∀ w s, Canon s → Canon (f w s)) :
    Kept (onStrain core op ok reads s f) := by
  unfold Machine.onStrain
  extract_lets
  split
  · exact .done h
  · exact .ite (.done <| .progFault <| .strainBegin h) (.done <| .withReads (.strainBegin h) (hf _))

theorem Canon.endRow {s r status} (h : Canon s) : Canon (endRow s r status) := by
  unfold Machine.endRow
  exact .updAd h

theorem Canon.gatherPage {env g w row pg cbs s} (h : Canon s) : Canon (gatherPage env g w row pg cbs s).2 := by
  unfold Machine.gatherPage
  extract_lets _ _ _ _ _ _ _ _ _ stale _ _ _ _ v
  have hstale {b} : Canon (stale b s).2 := .endRow <| .ite (.frameParts h) (.countStale h)
  have hv : Canon v.2 := .verifyRange h
  split
  · exact h
  · split
    · split
      · exact hstale
      · split
        · exact hstale
        · split
          · exact h
          · split
            next hp =>
            have hpage := Canon.of_snd hp (.xtsReadAt hv)
            split
            next ht =>
            have htail := Canon.of_snd ht (.xtsReadAt hpage)
            extract_lets _ _ _ s1 s2
            have h1 : Canon s1 := .ite (.frameParts htail) htail
            exact .ite (.endRow h1) h1
    · split
      · exact h
      · split
        · exact hstale
        · split
          · exact hstale
          · refine .opEvents <| .foldl_snd h fun _ _ h => ?_
            extract_lets
            split
            · exact .xtsReadAt h
            · exact h

theorem Canon.awaitHbm {g s} (h : Canon s) : Canon (awaitHbm g s) := by
  unfold Machine.awaitHbm
  exact .updCore <| .fresh h

theorem Kept.execGather {core env s} (h : Canon s) : Kept (execGather core env s) := by
  unfold Machine.execGather
  exact .onStrain (.bringUpsets h) fun _ _ h => .awaitHbm <| .tileWrite <| .tileWrite <| .foldl_snd h fun _ _ h =>
    .gatherPage h

theorem Kept.execMask {core s} (h : Canon s) : Kept (execMask core s) := by
  unfold Machine.execMask
  exact .onStrain h fun _ _ h => .foldl h fun _ _ h => .tileWrite h

theorem Canon.sealPage {p slot c l rows s} (h : Canon s) : Canon (sealPage p slot c l rows s).2 := by
  unfold Machine.sealPage
  dsimp only
  exact .updKv <| .xtsWriteFor <| .xtsWriteFor h

theorem Canon.appendRow {g w row ka va s} (h : Canon s) : Canon (appendRow g w row ka va s).2 := by
  unfold Machine.appendRow
  extract_lets _ _ _ _ _ _ _ _ _ s1 s2 _ _ r x
  have h1 : Canon s1 := by
    unfold s1
    exact .xtsWriteFor h
  have h2 : Canon s2 := .updKv h1
  have hr : Canon r.2 := .foldl_snd h2 fun _ _ h => .xtsReadAt h
  have hx : Canon x.2 := .sealPage hr
  split
  · exact h
  · split
    · exact .countStale h
    · split
      · exact h2
      · exact hx

theorem Kept.execAppend {core s} (h : Canon s) : Kept (execAppend core s) := by
  unfold Machine.execAppend
  exact .onStrain h fun _ _ h => .opEvents <| .foldl_snd h fun _ _ h => .appendRow h

theorem Kept.execBlock {core s} (h : Canon s) : Kept (execBlock core s) := by
  unfold Machine.execBlock
  exact .onStrain h fun _ _ h => .opEvents <| .tileWrite <| .tileWrite h

theorem Kept.execTrans {core s} (h : Canon s) : Kept (execTrans core s) := by
  unfold Machine.execTrans
  exact .onStrain h fun _ _ h => .opEvents <| .foldl h fun _ _ h => .tileWrite <| .tileWrite h

/-! ### Machine/Admission.lean -/

theorem Kept.execSubmit {s} (h : Canon s) : Kept (execSubmit s) := by
  unfold Machine.execSubmit
  split
  · exact .done h
  · extract_lets
    refine .ite (.done <| .finish h) <| .ite (.done <| .finish h) ?_
    split
    · exact .done <| .finish h
    · exact .done <| .updAd <| .takeUp h

theorem Canon.refuseRequest {r status detail s} (h : Canon s) : Canon (refuseRequest r status detail s) :=
  .finish <| .updAd h

theorem Canon.deferRequest {r s} (h : Canon s) : Canon (deferRequest r s) := by
  unfold Machine.deferRequest
  exact .ite (.refuseRequest <| .updAd <| .ite (.updAd h) h) (.updRequest <| .ite (.updAd h) h)

theorem Canon.allocKv {r s} (h : Canon s) : Canon (allocKv r s) := by
  unfold Machine.allocKv
  extract_lets _ _ _ _ _ _ s6
  have h6 : Canon s6 := .evict <| .updRequest <| .updKv h
  split
  · exact h
  · split
    · exact h6
    · split
      · exact h6
      · exact .updKv h6

theorem Canon.admitRequest {r gen s} (h : Canon s) : Canon (admitRequest r gen s) := by
  unfold Machine.admitRequest
  exact .allocKv <| .updRequest h

theorem Canon.sortOne {r s} (h : Canon s) : Canon (sortOne r s) := by
  unfold Machine.sortOne
  extract_lets
  split
  · exact .ite (.deferRequest h) h
  · split
    · exact .refuseRequest h
    · exact .ite (.deferRequest h) (.admitRequest h)

theorem Canon.formTable {p g s} (h : Canon s) : Canon (formTable p g s) :=
  .ite h (.updAd <| .foldl h (fun _ _ h => .updRequest h))

theorem Kept.execAdmissionSort {s} (h : Canon s) : Kept (execAdmissionSort s) := by
  unfold Machine.execAdmissionSort
  extract_lets
  split
  · exact .done h
  · exact .done <| .updAd <| .foldl (.foldl (.updAd h) (fun _ _ h => .sortOne h)) fun _ _ h => .formTable h

theorem Kept.execCaddyPrefetchList {s} (h : Canon s) : Kept (execCaddyPrefetchList s) :=
  .onlyIf h fun _ h => .updAd <| .foldl (.untilTime h) fun _ _ h => .setCaddy h

theorem Canon.fillFailed {die next adid s} (h : Canon s) : Canon (fillFailed die next adid s) := by
  unfold Machine.fillFailed
  exact .ite (.failStep <| .updAd h) (.updAd h)

theorem Canon.restoreImage {didx addr s} (h : Canon s) : Canon (restoreImage didx addr s) := by
  unfold Machine.restoreImage
  extract_lets _ _ _ _ _ close
  have hclose {s} (h : Canon s) : Canon (close s) := .ite h (.endRestore h)
  refine .ite h <| hclose <| .foldl h fun _ _ h => ?_
  exact .ite h <| .ite (.rebuildImage h) (.send <| .updAd h)

/-- The function is unfolded as a whole: its equation compares searches through `List.range` of a large number. -/
theorem Canon.allocCaddy {die p b s} (h : Canon s) : Canon (allocCaddy die p b s) := by
  rw [(?ha : @Machine.allocCaddy = ?a)]
  case ha => delta Machine.allocCaddy; rfl
  extract_lets -underBinder
  split
  · exact .setCaddy h
  · extract_lets lru
    cases lru with
    | none => exact .count h
    | some v => exact .count <| .setCaddy h

theorem Canon.fillBlock {env next die didx addr s} (h : Canon s) :
    Canon (fillBlock env next die didx addr s).2 := by
  unfold Machine.fillBlock
  extract_lets _ _ v r s1
  have h1 : Canon s1 := .count <| .xtsRead <| .verifyBlock h
  split
  · exact .restoreImage <| .fillFailed <| .count h1
  · exact .allocCaddy h1

theorem Kept.execCaddyFill {die didx addr env s} (h : Canon s) : Kept (execCaddyFill die didx addr env s) := by
  unfold Machine.execCaddyFill
  exact .onlyIf h fun _ h => .fillBlock h

theorem Canon.publishCore {g s} (h : Canon s) : Canon (publishCore g s) := by
  unfold Machine.publishCore
  split
  · exact h
  · extract_lets _ s1
    have h1 : Canon s1 := by
      refine .foldl h fun _ _ h => .ite h ?_
      split
      · exact h
      · exact .tileWrite h
    refine .ite h1 ?_
    split
    · exact h1
    · exact .tileWrite h1

theorem Canon.missCopy {r s} (h : Canon s) : Canon (missCopy r s) := by
  unfold Machine.missCopy
  exact .updAd <| .updRequest h

theorem Canon.zeroPadding {p g s} (h : Canon s) : Canon (zeroPadding p g s) := by
  unfold Machine.zeroPadding
  split
  · exact h
  · exact .ite h (.xtsWriteFor h)

theorem Kept.execTablePublish {s} (h : Canon s) : Kept (execTablePublish s) :=
  .onlyIf h fun _ h => .updAd <| .foldl (.foldl (.foldl (.untilTime h) (fun _ _ h => .missCopy h)) (fun _ _ h =>
    .zeroPadding h)) fun _ _ h => .publishCore h

theorem Kept.execInfuserPrefill {core s} (h : Canon s) : Kept (execInfuserPrefill core s) := by
  unfold Machine.execInfuserPrefill
  exact .onlyIf h fun _ h => .updCore <| .untilTime h

theorem Canon.staleRows {adid s} (h : Canon s) : Canon (staleRows adid s) := by
  unfold Machine.staleRows
  exact .updAd h

theorem Canon.serveBlock {env next die didx b s} (h : Canon s) : Canon (serveBlock env next die didx b s).2 := by
  unfold Machine.serveBlock
  extract_lets
  split
  · exact .count <| .setCaddy h
  · exact .fillBlock <| .count h

theorem Canon.serveSlice {env next die r s} (h : Canon s) : Canon (serveSlice env next die r s).2 := by
  unfold Machine.serveSlice
  extract_lets
  split
  · exact .staleRows <| .count <| .updAd h
  · exact .count <| .foldl_snd h fun _ _ h => .serveBlock h

theorem Canon.ringWrite {g base n o bs s} (h : Canon s) : Canon (ringWrite g base n o bs s) := by
  unfold Machine.ringWrite
  exact .tileWrite <| .tileWrite h

theorem Canon.releaseSlices {g s} (h : Canon s) : Canon (releaseSlices g s) := by
  unfold Machine.releaseSlices
  exact .updCore h

theorem Canon.writeSlice {env g key ring r s} (h : Canon s) : Canon (writeSlice env g key ring r s) := by
  unfold Machine.writeSlice
  exact .count <| .updCore <| .ringWrite <| .serveSlice h

theorem Kept.execInfuserSlice {core slot ringB env s} (h : Canon s) :
    Kept (execInfuserSlice core slot ringB env s) := by
  unfold Machine.execInfuserSlice
  extract_lets _ _ s2
  have h2 : Canon s2 := .releaseSlices <| .advanceCore <| .bringUpsets h
  split
  · exact .done h2
  · extract_lets
    split
    · exact .done h2
    · extract_lets
      split
      · exact .done h2
      · exact .done <| .ite (.writeSlice h2) (.advanceCore <| .writeSlice h2)

/-! ### Machine/Takeover.lean -/

theorem Canon.mapLdn {l sna s} (h : Canon s) : Canon (mapLdn l sna s) :=
  .setBoth h

theorem Canon.tableChanged {s} (h : Canon s) : Canon (tableChanged s) := by
  unfold Machine.tableChanged
  extract_lets s1 s2
  have h1 : Canon s1 := by
    unfold s1
    split
    · exact .ite h (.send h)
    · exact h
  have h2 : Canon s2 := .computeRoutes h1
  split
  · exact .setEngine h2
  · exact .setEngine h2
  · exact h2

theorem Canon.takeoverRecord {ldn failed chosen result s} (h : Canon s) :
    Canon (takeoverRecord ldn failed chosen result s) := by
  unfold Machine.takeoverRecord
  exact .trace <| .updMaster h

theorem Canon.takeOrder {ldn failed chosen s} (h : Canon s) : Canon (takeOrder ldn failed chosen s) := by
  unfold Machine.takeOrder
  extract_lets _ _ _ s3 _ s4 s5 lowest _ s6
  have h3 : Canon s3 := .foldl (.updMaster <| .takeoverRecord h) fun _ _ h => .setPort h
  have h4 : Canon s4 := .frameParts h3
  have h5 : Canon s5 := .ite h4 (.computeRoutes h4)
  have h6 : Canon s6 := .frameParts h5
  refine .ite h <| .ite ?_ h5
  cases lowest with
  | nil => exact h6
  | cons a l => exact .send h6

theorem Canon.giveOrders {os s} (h : Canon s) : Canon (giveOrders os s) := by
  unfold Machine.giveOrders
  exact .foldl (.updMaster h) fun _ _ h => .takeOrder <| .send h

theorem Canon.orderFor {l s} (h : Canon s) : Canon (orderFor l s) := by
  unfold Machine.orderFor
  split
  · exact .updMaster <| .takeoverRecord h
  · exact .giveOrders h

theorem Canon.nextChoice {result s} (h : Canon s) : Canon (nextChoice result s) := by
  unfold Machine.nextChoice
  split
  · exact h
  · exact .orderFor <| .takeoverRecord h

theorem Kept.execTakeoverOrder {ldn failed chosen steep s} (h : Canon s) :
    Kept (execTakeoverOrder ldn failed chosen steep s) :=
  .ite (.done h) (.done <| .takeOrder <| .send h)

theorem Kept.execPlannedReturn {value s} (h : Canon s) : Kept (execPlannedReturn value s) := by
  unfold Machine.execPlannedReturn
  extract_lets
  split
  · exact .done h
  · exact .onlyIf h fun _ h => .giveOrders h

theorem Canon.sendFrames {env a step key s} (h : Canon s) : Canon (sendFrames env a step key s) := by
  unfold Machine.sendFrames
  split
  · exact h
  · split
    · exact h
    · extract_lets _ _ _ r
      have hr : Canon r.2 := .restoreBlocks h
      refine .ite h <| .ite ?_ ?_
      · split
        · exact .ite (.failShard hr) hr
        · exact hr
      · split
        next hv =>
        have h1 := Canon.of_snd hv (.xtsReadAt hr)
        split
        next hv =>
        have h2 := Canon.of_snd hv (.xtsReadAt h1)
        split
        next hv => exact .of_snd hv (.sealWith h2)
        next hv => exact .send <| .of_snd hv (.sealWith h2)

theorem Kept.execStandInRestoreRequest {sna ask key s} (h : Canon s) :
    Kept (execStandInRestoreRequest sna ask key s) := by
  unfold Machine.execStandInRestoreRequest
  extract_lets
  refine .onlyIf h fun _ h => ?_
  split
  · exact .send <| .foldl h fun _ _ h => .send h
  · exact .send <| .foldl h fun _ _ h => .send h
  · exact .sendFrames h
  · exact .sendFrames h
  · exact h

theorem Canon.askFrames {step f src ldn s} (h : Canon s) : Canon (askFrames step f src ldn s) := by
  unfold Machine.askFrames
  exact .foldl (.frameParts h) fun _ _ h => .send h

theorem Canon.askImages {ldn s} (h : Canon s) : Canon (askImages ldn s) := by
  unfold Machine.askImages
  extract_lets
  refine .foldl (.frameParts h) fun _ _ h => ?_
  extract_lets _ _ s2
  have h2 : Canon s2 := .foldl h fun _ _ h => .rebuildImage h
  exact .ite h2 (.foldl (.frameParts h2) (fun _ _ h => .ite h (.send h)))

theorem Canon.sendReady {s} (h : Canon s) : Canon (sendReady s) := by
  unfold Machine.sendReady
  exact .foldl (.frameParts h) fun _ _ h => .send h

theorem Canon.advanceRestore {n s} (h : Canon s) : Canon (advanceRestore n s) := by
  induction n generalizing s with
  | zero => exact h
  | succ n ih =>
    unfold Machine.advanceRestore
    split
    · exact h
    · split
      · exact h
      · split
        · exact ih <| .foldl (.frameParts h) fun _ _ h => .send h
        · exact .ite (.frameParts h) (ih <| .askFrames <| .enterShards h)
        · exact ih <| .askFrames h
        · exact ih <| .askImages h
        · exact .ite (.sendReady h) h

theorem Canon.restoreItem {ldn step key bs s} (h : Canon s) : Canon (restoreItem ldn step key bs s) := by
  unfold Machine.restoreItem
  split
  · exact .updAd h
  · exact .ite h (.setDesc h)
  · split
    · exact h
    · split
      · exact h
      · extract_lets
        split
        · exact .countGcmFail h
        · exact .packageWrite <| .packageWrite h

theorem Canon.restorePace {n s} (h : Canon s) : Canon (restorePace n s) := by
  unfold Machine.restorePace
  exact .frameParts <| .untilClock h

theorem Kept.execRestoreData {step kind key data last s} (h : Canon s) :
    Kept (execRestoreData step kind key data last s) := by
  unfold Machine.execRestoreData
  split
  · exact .done h
  · extract_lets
    split
    · exact .done h
    · exact .done <| .advanceRestore <| .frameParts <| .ite h (.restoreItem <| .restorePace h)

theorem Canon.takeEffect {moves c s} (h : Canon s) : Canon (takeEffect moves c s) :=
  .foldl h fun _ _ h => .takeoverRecord <| .updMaster <| .frameParts h

theorem Kept.execStandInReady {sna gen digest0 digest1 s} (h : Canon s) :
    Kept (execStandInReady sna gen digest0 digest1 s) := by
  unfold Machine.execStandInReady
  extract_lets
  split
  · exact .done h
  · split
    · exact .done <| .nextChoice h
    · exact .ite (.done <| .takeEffect <| .send <| .updMaster h) (.done <| .updMaster h)

theorem Kept.execReadyTimeout {s} (h : Canon s) : Kept (execReadyTimeout s) := by
  unfold Machine.execReadyTimeout
  split
  · exact .done h
  · exact .onlyIf h fun _ h => .nextChoice <| .untilClock h

theorem Kept.execTakeoverEffect {moves commitSteep s} (h : Canon s) :
    Kept (execTakeoverEffect moves commitSteep s) :=
  .ite (.done h) (.done <| .takeEffect <| .send h)

theorem Kept.execTakeoverBoundary {s} (h : Canon s) : Kept (execTakeoverBoundary s) := by
  unfold Machine.execTakeoverBoundary
  extract_lets
  refine .onlyIf h fun _ h => ?_
  extract_lets _ s1 _ _ s2 s3 s4
  have h1 : Canon s1 := .foldl h fun _ _ h => .mapLdn h
  have h4 : Canon s4 := .tableChanged <| .updMaster <| .frameParts h1
  exact .ite (.sendRollCalls <| .foldl h4 fun _ _ h => .pushShards h) h4

theorem Kept.execCommitApply {s} (h : Canon s) : Kept (execCommitApply s) := by
  unfold Machine.execCommitApply
  refine .onlyIf h fun _ h => ?_
  extract_lets _ _ s1 s2 s3
  have h1 : Canon s1 := .foldl h fun _ _ h => .setDesc <| .dropPage h
  have h2 : Canon s2 := .foldl h1 fun _ _ h => .ite (.setOutstanding h) h
  have h3 : Canon s3 := .foldl h2 fun _ _ h => .pushShards h
  exact .frame <| .updRed <| .updMaster <| .commitExperts h3

theorem Kept.execAbortApply {s} (h : Canon s) : Kept (execAbortApply s) := by
  unfold Machine.execAbortApply
  refine .onlyIf h fun _ h => ?_
  extract_lets _ _ s1 s2 _ s3
  have h1 : Canon s1 := .frame h
  have h2 : Canon s2 := .updMaster h1
  have h3 : Canon s3 := .updMaster h2
  split
  · exact h1
  · extract_lets
    refine .ite h2 ?_
    split
    · split
      · exact .takeoverRecord h3
      · exact .giveOrders h3
    · refine .ite h2 ?_
      split
      · exact h2
      · exact .orderFor <| .updMaster h2

/-! ### Machine/Boundary.lean -/

theorem Canon.settleOps {g s} (h : Canon s) : Canon (settleOps g s) := by
  unfold Machine.settleOps
  exact .foldl (.completePour <| .recomputePour h) fun _ _ h => .completeOp h

theorem Canon.overrun {g s} (h : Canon s) : Canon (overrun g s) := by
  unfold Machine.overrun
  extract_lets _ _ s1 _ s2 s3
  have h3 : Canon s3 := .trace <| .count <| .frame <| .updCore h
  refine .ite (.failStep h3) ?_
  split
  · exact .failServing h3
  · exact .failServing h3

theorem Canon.overrunCores {f s} (h : Canon s) : Canon (overrunCores f s) :=
  .foldl h fun _ _ h => .ite h <| .ite (.overrun <| .settleOps h) (.settleOps h)

theorem Kept.execGuardStart {s} (h : Canon s) : Kept (execGuardStart s) :=
  .onlyIf h fun _ h => .frame <| .ite (.overrunCores <| .untilTime h) (.untilTime h)

theorem Canon.stretch {s} (h : Canon s) : Canon (stretch s) := by
  unfold Machine.stretch
  exact .ite (.frame h) (.trace <| .frame h)

theorem Canon.contribute {why s} (h : Canon s) : Canon (contribute why s) := by
  unfold Machine.contribute
  split
  · exact h
  · extract_lets _ _ _ _ s4
    have h4 : Canon s4 := .foldl (.frame h) fun _ _ h => .ite h (.send h)
    exact .ite (.takeContribution h4) h4

theorem Kept.execWavePoint {s} (h : Canon s) : Kept (execWavePoint s) := by
  unfold Machine.execWavePoint
  refine .onlyIf h fun _ h => ?_
  extract_lets s1 _ s2 s3
  have h1 : Canon s1 := .untilTime h
  have h2 : Canon s2 := .failUnkept <| .overrunCores h1
  have h3 : Canon s3 := .ite (.ite (.ite h2 (.failStep h2)) h1) h1
  exact .frame <| .ite (.contribute <| .stretch h3) (.stretch h3)

theorem Canon.endRequest {status r s} (h : Canon s) : Canon (endRequest status r s) :=
  .ite h <| .ite (.updRequest h) (.updRequest <| .finish <| .updRequest h)

theorem Canon.endServing {s} (h : Canon s) : Canon (endServing s) :=
  .foldl h fun _ _ h => .endRequest h

theorem Canon.endStep {s} (h : Canon s) : Canon (endStep s) :=
  .foldl h fun _ _ h => .endRequest h

theorem Canon.returnRequest {r s} (h : Canon s) : Canon (returnRequest r s) := by
  unfold Machine.returnRequest
  exact .updRequest <| .ite h (.settleSequence h)

theorem Canon.swapTables {run abort first s} (h : Canon s) : Canon (swapTables run abort first s) := by
  unfold Machine.swapTables
  exact .updAd <| .foldl h fun _ _ h => .returnRequest h

theorem Canon.startCore {run bound g s} (h : Canon s) : Canon (startCore run bound g s) := by
  unfold Machine.startCore
  extract_lets _ _ s2
  have h2 : Canon s2 := .foldl (.setCore h) fun _ _ h => .addCredit h
  exact .ite (.progFault h2) h2

theorem Canon.countRepeats {commit s} (h : Canon s) : Canon (countRepeats commit s) :=
  .ite h (.foldl h (fun _ _ h => .ite h (.ite (.updPart h) (.ite (.updPart h) h))))

theorem Canon.countAll {ev n s} (h : Canon s) : Canon (countAll ev n s) :=
  .frame h

theorem Canon.freezeBlocks {f s} (h : Canon s) : Canon (freezeBlocks f s) :=
  .ite (.frame h) h

theorem Canon.quotaBoundary {s} (h : Canon s) : Canon (quotaBoundary s) :=
  .foldl h fun _ _ h => .ite h (.updPart h)

theorem Canon.engineBoundary {s} (h : Canon s) : Canon (engineBoundary s) :=
  .ite (.setEngine h) h

theorem Canon.newSkews {s} (h : Canon s) : Canon (newSkews s) :=
  .frame h

theorem Canon.steepBoundary {f s} (h : Canon s) : Canon (steepBoundary f s) := by
  unfold Machine.steepBoundary
  exact .frame h

theorem Kept.execSteepBoundary {s} (h : Canon s) : Kept (execSteepBoundary s) := by
  unfold Machine.execSteepBoundary
  split
  · exact .done h
  · refine .onlyIf h fun _ h => ?_
    extract_lets _ s1 _ _ s2 s3 _ _ _ s4 s5 s6 s7 _ _ s8 s9 s10 s11
    have h1 : Canon s1 := .freezeBlocks <| .countAll <| .untilTime h
    have h2 : Canon s2 := .endServing h1
    have h3 : Canon s3 := .ite (.endStep h2) h2
    have h5 : Canon s5 := .swapTables <| .countRepeats <| .frameParts h3
    have h6 : Canon s6 := .ite h5 (.trace h5)
    have h8 : Canon s8 := .frameParts <| .engineBoundary <| .newSkews <| .steepBoundary h6
    have h9 : Canon s9 := .quotaBoundary <| .countAll <| .updAd h8
    have h10 : Canon s10 := .foldl h9 fun _ _ h => .startCore h
    have h11 : Canon s11 := .newAttempt h10
    exact .ite (.ite (.sendRollCalls h11) h11) h10

theorem Kept.execAdapterStateEffect {didx s} (h : Canon s) : Kept (execAdapterStateEffect didx s) := by
  unfold Machine.execAdapterStateEffect
  extract_lets _ _ s1 _ s3
  have h1 : Canon s1 := .withAd h id (sparseWf_sput _ _ _ _)
  have h3 : Canon s3 := .ite (.dropShards h1) h1
  split
  · exact .done h
  · extract_lets set s2
    have hset {s} (h : Canon s) : Canon (set s) := .finish <| .setDesc h
    have h2 : Canon s2 := hset <| .enterShards h1
    refine .ite (.done h) <| .ite (.ite (.done <| .finish h1) <| .ite (.done <| .finish h1) ?_) ?_
    · exact .done <| .ite (.sendRollCalls h2) h2
    · exact .done <| hset <| .ite (.releaseLater h3) h3

/-! ### Machine/Trace.lean -/

theorem Canon.updBlock {b f s} (h : Canon s) : Canon (updBlock b f s) :=
  .frame h

theorem Canon.writeSelect {b i ev s} (h : Canon s) : Canon (writeSelect b i ev s) :=
  .ite (.updBlock h) (.updBlock h)

theorem Kept.execCounterSelect {block counter event s} (h : Canon s) :
    Kept (execCounterSelect block counter event s) :=
  .onlyIf h fun _ h => .writeSelect h

theorem Canon.writeClear {b s} (h : Canon s) : Canon (writeClear b s) :=
  .ite (.updBlock h) (.updBlock h)

theorem Kept.execCounterClear {block s} (h : Canon s) : Kept (execCounterClear block s) :=
  .onlyIf h fun _ h => .writeClear h

theorem Kept.execCounterBoundary {s} (h : Canon s) : Kept (execCounterBoundary s) := by
  unfold Machine.execCounterBoundary
  extract_lets
  split
  · exact .done <| .frame h
  · exact .onlyIf (.frame h) fun _ h => .frame h

theorem Canon.clearHists {s} (h : Canon s) : Canon (clearHists s) :=
  .frame h

theorem Kept.execHistogramClear {s} (h : Canon s) : Kept (execHistogramClear s) :=
  .done <| .clearHists h

theorem Canon.clearEvents {s} (h : Canon s) : Canon (clearEvents s) :=
  .frame h

theorem Kept.execEventCountClear {s} (h : Canon s) : Kept (execEventCountClear s) :=
  .done <| .clearEvents h

theorem Kept.execSnapshotFreeze {s} (h : Canon s) : Kept (execSnapshotFreeze s) := by
  unfold Machine.execSnapshotFreeze
  split
  · exact .done h
  · exact .done <| .trace <| .frame h

theorem Kept.execSnapshotGatherDone {s} (h : Canon s) : Kept (execSnapshotGatherDone s) := by
  unfold Machine.execSnapshotGatherDone
  split
  · exact .done h
  · exact .done <| .frame h

theorem Canon.ringWriteRec {late r s} (h : Canon s) : Canon (ringWriteRec late r s) := by
  unfold Machine.ringWriteRec
  exact .ite (.frame h) <| .ite (.hostWrite <| .readStored <| .frame <| .writeStored h) (.frame <| .writeStored h)

theorem Canon.lostRecord {s} (h : Canon s) : Canon (lostRecord s) := by
  unfold Machine.lostRecord
  exact .ite h (.trace <| .frame h)

theorem Kept.execTraceWrite {s} (h : Canon s) : Kept (execTraceWrite s) := by
  unfold Machine.execTraceWrite
  split
  · exact .done h
  · exact .done <| .lostRecord <| .ringWriteRec <| .frame <| .untilClock h

/-! ### Machine/Staging.lean -/

theorem Canon.startCheck {s} (h : Canon s) : Canon (startCheck s) :=
  .updDict h

theorem Kept.execCheck {session s} (h : Canon s) : Kept (execCheck session s) :=
  .onlyIf h fun _ h => .startCheck h

theorem Kept.execCheckDone {s} (h : Canon s) : Kept (execCheckDone s) :=
  .onlyIf h fun _ h => .writeReport h

theorem Canon.switchHalf {s} (h : Canon s) : Canon (switchHalf s) := by
  unfold Machine.switchHalf
  exact .ite h (.measureHalf <| .updLeaf <| .setRec <| .ite (.setRec h) h)

theorem Canon.resizeCaddies {old s} (h : Canon s) : Canon (resizeCaddies old s) :=
  .foldl (.withMem h fun hm => memWf_foldl_store _ _ (memWf_filter _ _ hm)) fun _ _ h => .setCaddy h

theorem Canon.moveCores {old s} (h : Canon s) : Canon (moveCores old s) :=
  .foldl h fun _ _ h => .ite h (.updBlock <| .ite (.zeroCore h) h)

theorem Canon.movePartitions {old s} (h : Canon s) : Canon (movePartitions old s) := by
  unfold Machine.movePartitions
  refine .foldl h fun _ _ h => ?_
  extract_lets s0
  have h0 : Canon s0 := .ite (.setPartState h) (.appear h)
  exact .ite h0 (.updPart h0)

theorem Canon.swapEffects {old s} (h : Canon s) : Canon (swapEffects old s) := by
  unfold Machine.swapEffects
  extract_lets s0 s1 s2
  have h0 : Canon s0 := .movePartitions <| .resizeCaddies <| .moveCores h
  have h1 : Canon s1 := .ite (.switchHalf h0) h0
  have h2 : Canon s2 := .ite (.latchRules h1) h1
  exact .ite h2 (.ite (.tableChanged <| .frameParts h2) (.frameParts h2))

theorem Canon.configTrace {rule s} (h : Canon s) : Canon (configTrace rule s) :=
  .trace h

theorem Canon.swapSets {e s} (h : Canon s) : Canon (swapSets e s) := by
  unfold Machine.swapSets
  exact .configTrace <| .swapEffects <| .updDict h

theorem Canon.failCommit {e rule s} (h : Canon s) : Canon (failCommit e rule s) :=
  .configTrace <| .updDict h

theorem Kept.execCommitSwap {s} (h : Canon s) : Kept (execCommitSwap s) := by
  unfold Machine.execCommitSwap
  split
  · exact .done h
  · refine .onlyIf h fun _ h => ?_
    split
    · exact .swapSets h
    · exact .failCommit h

theorem Canon.commit {at_ e s} (h : Canon s) : Canon (commit at_ e s).2 := by
  unfold Machine.commit
  extract_lets _ s1 v far
  have h1 : Canon s1 := .writeReport h
  have hv : Canon v.2 := .frame h1
  split
  · exact hv
  · split
    · split
      · exact h1
      · split
        · exact h1
        · dsimp only
          exact .refetchModes <| .updDict h1
    · split
      · exact h1
      · dsimp only
        exact .swapSets h1

theorem Kept.execCommit {session steep s} (h : Canon s) : Kept (execCommit session steep s) :=
  .onlyIf h fun _ h => .commit h

theorem Canon.discard {s} (h : Canon s) : Canon (discard s) := by
  unfold Machine.discard
  extract_lets
  split
  · exact .updDict h
  · exact .ite (.updDict <| .updDict h) (.updDict h)

theorem Kept.execDiscard {session s} (h : Canon s) : Kept (execDiscard session s) :=
  .onlyIf h fun _ h => .discard h

/-! ### Machine/Startup.lean -/

theorem Kept.execHousekeepingRail {s} (h : Canon s) : Kept (execHousekeepingRail s) :=
  .onlyIf h fun _ h => .updBoot <| .updCust h

theorem Canon.hxUp {s} (h : Canon s) : Canon (hxUp s) :=
  .appear <| .updBoot h

theorem Kept.execMainInputGood {s} (h : Canon s) : Kept (execMainInputGood s) := by
  unfold Machine.execMainInputGood
  exact .done <| .ite (.hxUp <| .updBoot h) (.updBoot h)

theorem Canon.stopStart {cause s} (h : Canon s) : Canon (stopStart cause s) := by
  unfold Machine.stopStart
  exact .ite (.hxUp <| .startupStop h) (.startupStop h)

theorem Canon.readIdentity {id s} (h : Canon s) : Canon (readIdentity id s) := by
  unfold Machine.readIdentity
  extract_lets _ s1
  have h1 : Canon s1 := .foldl (.updBoot h) fun _ _ h => .updStack h
  split
  · exact .stopStart h1
  · exact .frameParts <| .updBoot h1

theorem Canon.stage4 {id s} (h : Canon s) : Canon (stage4 id s) :=
  .ite (.stopStart h) (.hxUp <| .updBoot <| .ite (.frameParts h) h)

theorem Canon.hardenLog {s} (h : Canon s) : Canon (hardenLog s) :=
  .ite (.updBoot <| .foldl (.frameParts <| .elapse h) (fun _ _ h => .rasEvent h)) h

theorem Canon.zeroFill {s} (h : Canon s) : Canon (zeroFill s) := by
  unfold Machine.zeroFill
  extract_lets _ s1
  have h1 : Canon s1 := .foldl (.hardenLog h) fun _ _ h => .updStack h
  have h2 : Canon { s1 with mem := outsideHbm s1.mem } := .withMem h1 (memWf_filter _ _)
  exact .frameParts h2

theorem Canon.readHalves {s} (h : Canon s) : Canon (readHalves s) := by
  unfold Machine.readHalves
  exact .setBoth <| .updLeaf h

theorem Canon.beginStage {n s} (h : Canon s) : Canon (beginStage n s) :=
  .updBoot h

theorem Canon.enterStage {n t rails s} (h : Canon s) : Canon (enterStage n t rails s) :=
  .updBoot <| .beginStage <| .untilClock h

theorem Kept.execStageAdvance {ident s} (h : Canon s) : Kept (execStageAdvance ident s) := by
  unfold Machine.execStageAdvance
  split
  · exact .done h
  · split
    · exact .onlyIf h fun _ h => .beginStage h
    · exact .onlyIf h fun _ h => .readIdentity h
    · exact .onlyIf h fun _ h => .stage4 h
    · exact .done <| .enterStage h
    · exact .done <| .enterStage h
    · exact .done <| .enterStage <| .zeroFill h
    · exact .done <| .ite (.enterStage <| .readHalves h) (.stopStart h)
    · exact .onlyIf h fun _ h => .beginStage h
    · exact .onlyIf h fun _ h => .beginStage h
    · exact .onlyIf h fun _ h => .updBoot h
    · exact .done h

theorem Kept.execStageTimeout {cause s} (h : Canon s) : Kept (execStageTimeout cause s) := by
  unfold Machine.execStageTimeout
  split
  · exact .done h
  · exact .onlyIf h fun _ h => .stopStart <| .ite (.setEngine <| .untilClock h) (.untilClock h)

theorem Canon.settleSlots {s} (h : Canon s) : Canon (settleSlots s) :=
  .foldl h fun _ _ h => .setSlot h

theorem Canon.moduleReset {s} (h : Canon s) : Canon (moduleReset s) := by
  have h1 := h.removeAllSlots.settleSlots
  exact ⟨memWf_filter _ _ h1.mem, rfl, rfl, rfl, h1.slots, rfl, rfl, rfl,
    sparseWf_smap _ (fun _ k => tidyPcs (stackKept k)) _ h1.hbm⟩

theorem Kept.execModuleReset {s} (h : Canon s) : Kept (execModuleReset s) :=
  .onlyIf h fun _ h => .moduleReset h

theorem Canon.maintenanceReset {s} (h : Canon s) : Canon (maintenanceReset s) :=
  .updBoot <| .moduleReset h

theorem Kept.execMaintenanceReset {s} (h : Canon s) : Kept (execMaintenanceReset s) :=
  .onlyIf h fun _ h => .maintenanceReset h

theorem Kept.execResetPin {s} (h : Canon s) : Kept (execResetPin s) :=
  .onlyIf h fun _ h => .updBoot <| .moduleReset <| .elapse h

theorem Kept.execResetPinRelease {s} (h : Canon s) : Kept (execResetPinRelease s) :=
  .done <| .updBoot h

theorem Kept.execPerst {s} (h : Canon s) : Kept (execPerst s) :=
  .onlyIf h fun _ h => .flrPf h

theorem Kept.execHousekeepingRailLoss {s} (h : Canon s) : Kept (execHousekeepingRailLoss s) := by
  unfold Machine.execHousekeepingRailLoss
  extract_lets s1 kept
  have h1 : Canon s1 := .leafPowerLoss h
  exact .done ⟨memWf_filter _ _ h1.mem, rfl, rfl, rfl, rfl, rfl, rfl, rfl, sparseWf_smap _ (fun _ => kept) _ h1.hbm⟩

theorem Canon.readFaultLog {i s} (h : Canon s) : Canon (readFaultLog i s) := by
  unfold Machine.readFaultLog
  split
  · exact .updBoot h
  · exact .updBoot <| .fresh h

theorem Kept.execFaultLogRead {index s} (h : Canon s) : Kept (execFaultLogRead index s) :=
  .onlyIf h fun _ h => .readFaultLog h

/-! ### Machine/Access.lean -/

theorem Canon.malformed {f x s} (h : Canon s) : Canon (malformed f x s) :=
  .answer h

theorem Kept.execRead {s} (h : Canon s) : Kept (execRead s) := by
  unfold Machine.execRead
  split
  · exact .done h
  next hv =>
    split
    next hw => exact .done <| .of_snd hw <| .takeFrame <| .nextFrame h hv
    next hw =>
      have h1 := Canon.of_snd hw <| .takeFrame <| .nextFrame h hv
      split
      · exact .done <| .malformed h1
      · exact .done <| .answer h1

theorem Kept.execDescribe {s} (h : Canon s) : Kept (execDescribe s) := by
  unfold Machine.execDescribe
  split
  · exact .done h
  next hv =>
    split
    next hw => exact .done <| .of_snd hw <| .takeFrame <| .nextFrame h hv
    next hw =>
      have h1 := Canon.of_snd hw <| .takeFrame <| .nextFrame h hv
      split
      · exact .done <| .malformed h1
      · exact .done <| .answer h1

theorem Canon.storeValue {i sub v s} (h : Canon s) : Canon (storeValue i sub v s) := by
  unfold Machine.storeValue
  split
  · exact .updDict h
  · exact .updBlock h
  · exact .ite (.updDict h) <| .ite (.writeSelect h) <| .ite (.frame <| .setCfg h) (.setCfg h)
  · exact h

theorem Canon.nextOf {s o} (h : Canon s) (ho : Kept o) : Canon (nextOf s o) := by
  unfold Machine.nextOf
  split
  · exact ho _ rfl
  · exact h

theorem Canon.refuseCmd {s} (h : Canon s) : Canon (refuseCmd s).2 := by
  unfold Machine.refuseCmd
  exact .frame h

theorem Canon.accepted {s} (h : Canon s) : Canon (accepted s).2 :=
  h

theorem Canon.acceptIf {c s f} (h : Canon s) (hf : ∀ s, Canon s → Canon (f s)) : Canon (acceptIf c s f).2 := by
  unfold Machine.acceptIf
  split
  · exact hf _ h
  · exact .refuseCmd h

theorem Canon.sealWrite {path v s} (h : Canon s) : Canon (sealWrite path v s).2 := by
  unfold Machine.sealWrite
  split
  · exact .refuseCmd h
  · split
    · exact .accepted <| .nextOf h (.execSealBreakArm h)
    · split
      · exact .acceptIf h fun _ h => .nextOf h (.execSealBreak h)
      · exact .refuseCmd h

theorem Canon.runCmd {f x r s} (h : Canon s) : Canon (runCmd f x r s).2 := by
  unfold Machine.runCmd
  extract_lets
  split
  · exact .accepted <| .requestReset h
  · exact .acceptIf h fun _ h => .nextOf h (.execLogControl h)
  · exact .accepted <| .nextOf h (.execLogSwap h)
  · exact .acceptIf h fun _ h => .nextOf h (.execSnapshotRequest h)
  · exact .accepted <| .clearEvents h
  · exact .accepted <| .clearHists h
  · exact .accepted <| .resetPort h
  · split
    next hv => exact .accepted <| .beginInstall h hv
    · exact .refuseCmd h
  · exact .accepted <| .abortInstall h
  · exact .accepted <| .nextOf h (.execEventLogRead h)
  · exact .acceptIf h fun _ h => .nextOf h (.execAttestationRequest h)
  · exact .sealWrite h
  · exact .accepted <| .startCheck h
  · exact .commit h
  · exact .accepted <| .discard h
  · exact .accepted <| .nextOf h (.execStagingLock h)
  · exact .accepted <| .moduleReset h
  · exact .accepted <| .maintenanceReset h
  · exact .acceptIf h fun _ h => .nextOf h (.execPlannedReturn h)
  · exact .accepted <| .readFaultLog h
  · exact .accepted <| .ite (.writeClear h) h

theorem Canon.answerWrite {f x status detail rs s} (h : Canon s) : Canon (answerWrite f x status detail rs s) :=
  .answer h

theorem Canon.applyWrite {f x rs s} (h : Canon s) : Canon (applyWrite f x rs s) := by
  unfold Machine.applyWrite
  extract_lets _ s1
  have h1 : Canon s1 := .foldl h fun _ _ h => .storeValue h
  split
  · exact .answerWrite h1
  · exact .ite (.answerWrite h1) <| .ite (.runCmd <| .answerWrite h1) <| .ite (.answerWrite <| .runCmd h1)
      (.answerWrite <| .updDict <| .frame h)

theorem Canon.writeRecords {f x rs s} (h : Canon s) : Canon (writeRecords f x rs s) := by
  unfold Machine.writeRecords
  extract_lets
  split
  · exact .answerWrite h
  · split
    · exact .malformed h
    · split
      · exact .answerWrite h
      · exact .ite (.answerWrite h) (.applyWrite h)

theorem Kept.execWrite {s} (h : Canon s) : Kept (execWrite s) := by
  unfold Machine.execWrite
  split
  · exact .done h
  next hv =>
    split
    next hw => exact .done <| .of_snd hw <| .takeFrame <| .nextFrame h hv
    next hw =>
      have h1 := Canon.of_snd hw <| .takeFrame <| .nextFrame h hv
      split
      · exact .done <| .malformed h1
      · exact .done <| .writeRecords h1

theorem Canon.msixPend {p n s} (h : Canon s) : Canon (msixPend p n s) := by
  unfold Machine.msixPend
  exact .ite (.sendMsix <| .updPart h) h

theorem Canon.barByte {p o v s} (h : Canon s) : Canon (barByte p o v s) :=
  .ite (.updPart h) <| .ite (.updPart h) <| .ite (.updDict h) <| .ite (.updDict h) h

theorem Canon.barWrite {p o bs s} (h : Canon s) : Canon (barWrite p o bs s) := by
  unfold Machine.barWrite
  extract_lets s0
  have h0 : Canon s0 := .foldl h fun _ _ h => .barByte h
  exact .ite (.ite (.msixPend h0) h0) h

theorem Canon.entryWrite {i sub bs s} (h : Canon s) : Canon (entryWrite i sub bs s) := by
  unfold Machine.entryWrite
  exact .ite (.storeValue h) h

theorem Kept.execRegisterWrite {target value s} (h : Canon s) : Kept (execRegisterWrite target value s) := by
  unfold Machine.execRegisterWrite
  exact .done <| .ite (.ite h (.barWrite h)) (.entryWrite h)

/-! ### Machine/Bar0.lean -/

theorem Kept.execTlpReceive {fn ideStream tlp s} (h : Canon s) : Kept (execTlpReceive fn ideStream tlp s) := by
  unfold Machine.execTlpReceive
  extract_lets
  refine .onlyIf h fun _ h => ?_
  extract_lets
  split
  · exact .count <| .updFront h
  · split
    · exact .count h
    · exact .ite (.emit <| .count <| .count h) (.count h)

/-! ### Machine/Power.lean -/

theorem Canon.halveCores {halved s} (h : Canon s) : Canon (halveCores halved s) :=
  .withProg h (sparseWf_smap _ (fun _ k => repacedCore halved s.clock k) _)

theorem Kept.execPowerSample {watts groups s} (h : Canon s) : Kept (execPowerSample watts groups s) := by
  unfold Machine.execPowerSample
  extract_lets _ _ _ _ _ _ _ _ _ _ s10
  have h10 : Canon s10 := .frame <| .ite h (.halveCores h)
  exact .ite (.done <| .orderlyStop h10) (.done h10)

/-! ### One step -/

/-- The effect of one command keeps the canonical forms. -/
theorem exec_kept {s} (h : Canon s) : ∀ i, Kept (exec i s)
  | .steepBoundary => .execSteepBoundary h
  | .guardStart => .execGuardStart h
  | .wavePoint => .execWavePoint h
  | .contribution _ => .execContribution h
  | .gatherDeadline => .execGatherDeadline h
  | .backupWaveFlood => .execBackupWaveFlood h
  | .wave _ _ => .execWave h
  | .waveDeadline => .execWaveDeadline h
  | .timeSync => .execTimeSync h
  | .timeSyncReceive _ _ _ _ => .execTimeSyncReceive h
  | .listenNoWaveRecord => .execListenNoWaveRecord h
  | .listenTimeout => .execListenTimeout h
  | .founding => .execFounding h
  | .snapshotRequest _ => .execSnapshotRequest h
  | .tableDigest _ _ _ => .execTableDigest h
  | .powerSample _ _ => .execPowerSample h
  | .programFetch _ => .execProgramFetch h
  | .programFetchDone _ _ => .execProgramFetchDone h
  | .opDispatch _ _ => .execOpDispatch h
  | .mmaLoad _ _ => .execMmaLoad h
  | .mmaRun _ _ => .execMmaRun h
  | .rankRun _ _ => .execRankRun h
  | .epiSet0 _ _ => .execEpiSet0 h
  | .epiSet1 _ _ => .execEpiSet1 h
  | .epiSet2 _ _ => .execEpiSet2 h
  | .pour _ _ => .execPour h
  | .pourRecompute _ => .execPourRecompute h
  | .pourComplete _ => .execPourComplete h
  | .vecEw _ _ => .execVecEw h
  | .vecCvt _ _ => .execVecCvt h
  | .vecRow _ _ => .execVecRow h
  | .redAdd _ _ => .execRedAdd h
  | .redMax _ _ => .execRedMax h
  | .redUpd _ _ => .execRedUpd h
  | .redZero _ _ => .execRedZero h
  | .dma _ _ _ => .execDma h
  | .fabPut _ _ _ => .execFabPut h
  | .fabGet _ _ => .execFabGet h
  | .fabColl _ _ => .execFabColl h
  | .syncWait _ _ => .execSyncWait h
  | .syncSend _ _ => .execSyncSend h
  | .syncTime _ _ => .execSyncTime h
  | .mark _ _ => .execMark h
  | .halt _ _ => .execHalt h
  | .opComplete _ _ => .execOpComplete h
  | .token _ _ _ _ _ _ => .execToken h
  | .gather _ _ => .execGather h
  | .mask _ => .execMask h
  | .append _ => .execAppend h
  | .block _ => .execBlock h
  | .trans _ => .execTrans h
  | .admissionSort => .execAdmissionSort h
  | .caddyPrefetchList => .execCaddyPrefetchList h
  | .caddyFill _ _ _ _ => .execCaddyFill h
  | .inputCopy _ _ _ => .execInputCopy h
  | .kvCopyOnWrite _ _ => .execKvCopyOnWrite h
  | .tablePublish => .execTablePublish h
  | .infuserPrefill _ => .execInfuserPrefill h
  | .infuserSlice _ _ _ _ => .execInfuserSlice h
  | .outputCopy _ _ => .execOutputCopy h
  | .completionWrite _ => .execCompletionWrite h
  | .doorbell _ _ _ _ => .execDoorbell h
  | .commandFetch _ => .execCommandFetch h
  | .submit => .execSubmit h
  | .queueCreate => .execQueueCreate h
  | .queueDelete => .execQueueDelete h
  | .bind => .execBind h
  | .bindEffect _ => .execBindEffect h
  | .adapterCreate _ => .execAdapterCreate h
  | .adapterRead => .execAdapterRead h
  | .adapterState => .execAdapterState h
  | .adapterStateEffect _ => .execAdapterStateEffect h
  | .adapterDestroy => .execAdapterDestroy h
  | .adapterDestroyFree _ => .execAdapterDestroyFree h
  | .adapterClaim => .execAdapterClaim h
  | .slotClaimPacket _ _ _ _ _ _ _ _ _ => .execSlotClaimPacket h
  | .adapterRelease => .execAdapterRelease h
  | .kvOpen _ => .execKvOpen h
  | .kvFork => .execKvFork h
  | .kvClose => .execKvClose h
  | .kvCloseFree _ _ => .execKvCloseFree h
  | .kvRead => .execKvRead h
  | .keyImport _ => .execKeyImport h
  | .keyImportEffect _ => .execKeyImportEffect h
  | .keyRemove => .execKeyRemove h
  | .keyRemoveEffect _ => .execKeyRemoveEffect h
  | .keySweep => .execKeySweep h
  | .sweepBlock _ => .execSweepBlock h
  | .rotationCutover _ => .execRotationCutover h
  | .scrubBlock _ => .execScrubBlock h
  | .scrubComplete _ => .execScrubComplete h
  | .trialLoad _ => .execTrialLoad h
  | .trialLoadDone _ => .execTrialLoadDone h
  | .trialRelease => .execTrialRelease h
  | .trialReleaseEffect => .execTrialReleaseEffect h
  | .functionEnable _ => .execFunctionEnable h
  | .functionDisable _ => .execFunctionDisable h
  | .ctrlReset _ => .execCtrlReset h
  | .partitionResetCmd _ => .execPartitionResetCmd h
  | .flr _ => .execFlr h
  | .vfEnableClear => .execVfEnableClear h
  | .partitionResetEffect _ => .execPartitionResetEffect h
  | .logControl _ _ => .execLogControl h
  | .logSwap _ => .execLogSwap h
  | .logBoundary => .execLogBoundary h
  | .lockInterface _ => .execLockInterface h
  | .stopInterface _ => .execStopInterface h
  | .interfaceReport _ => .execInterfaceReport h
  | .doeCustodyExchange _ _ => .execDoeCustodyExchange h
  | .tlpReceive _ _ _ => .execTlpReceive h
  | .rollCall _ _ _ => .execRollCall h
  | .contributionUnit _ _ => .execContributionUnit h
  | .acknowledgement _ _ _ => .execAcknowledgement h
  | .shardCutoff _ => .execShardCutoff h
  | .stragglerNotice _ _ _ => .execStragglerNotice h
  | .shardUpdate _ _ => .execShardUpdate h
  | .keeperCopy _ _ _ _ _ _ _ => .execKeeperCopy h
  | .keeperAck _ => .execKeeperAck h
  | .commitApply => .execCommitApply h
  | .abortApply => .execAbortApply h
  | .pushUnit _ _ _ _ _ _ _ _ _ => .execPushUnit h
  | .restoreRequest _ _ _ => .execRestoreRequest h
  | .patrolRead _ _ => .execPatrolRead h
  | .temperatureRead _ _ => .execTemperatureRead h
  | .rowRepair _ _ _ _ => .execRowRepair h
  | .pcFill _ => .execPcFill h
  | .fillComplete _ => .execFillComplete h
  | .fillFailure _ => .execFillFailure h
  | .logicalPcLost _ => .execLogicalPcLost h
  | .installBegin _ => .execInstallBegin h
  | .installAbort => .execInstallAbort h
  | .manifest _ => .execManifest h
  | .segmentData _ _ => .execSegmentData h
  | .segmentProgrammed _ _ => .execSegmentProgrammed h
  | .installCredit => .execInstallCredit h
  | .installTimeout => .execInstallTimeout h
  | .breakNotice _ => .execBreakNotice h
  | .leafPatrol _ _ _ => .execLeafPatrol h
  | .halfRelease => .execHalfRelease h
  | .downExit _ _ => .execDownExit h
  | .fecLock _ _ => .execFecLock h
  | .trainingTimeout _ => .execTrainingTimeout h
  | .linkSessionExchange _ _ _ _ _ => .execLinkSessionExchange h
  | .keyingTimeout _ _ => .execKeyingTimeout h
  | .hello _ _ _ _ => .execHello h
  | .helloResend _ => .execHelloResend h
  | .linkDegrade _ _ _ _ => .execLinkDegrade h
  | .portReset _ => .execPortReset h
  | .linkFrame _ _ _ _ _ _ => .execLinkFrame h
  | .replayTimeout _ => .execReplayTimeout h
  | .rekey _ _ _ => .execRekey h
  | .creditFrame _ => .execCreditFrame h
  | .packetRoute _ _ => .execPacketRoute h
  | .fabWriteArrival _ _ _ _ _ _ _ _ _ => .execFabWriteArrival h
  | .fabReadRequest _ _ _ _ _ _ _ _ _ => .execFabReadRequest h
  | .readData _ _ _ _ _ => .execReadData h
  | .collectiveData _ _ _ _ _ _ => .execCollectiveData h
  | .discoveryStart => .execDiscoveryStart h
  | .linksDone => .execLinksDone h
  | .linksTimeout => .execLinksTimeout h
  | .linkStateRecord _ _ _ _ _ _ => .execLinkStateRecord h
  | .floodQuiet => .execFloodQuiet h
  | .routeCompute => .execRouteCompute h
  | .linkStateRefresh => .execLinkStateRefresh h
  | .takeoverOrder _ _ _ _ => .execTakeoverOrder h
  | .restoreData _ _ _ _ _ => .execRestoreData h
  | .standInReady _ _ _ _ => .execStandInReady h
  | .readyTimeout => .execReadyTimeout h
  | .takeoverEffect _ _ => .execTakeoverEffect h
  | .takeoverBoundary => .execTakeoverBoundary h
  | .plannedReturn _ => .execPlannedReturn h
  | .cmisPoll _ _ _ => .execCmisPoll h
  | .cmisInterrupt _ => .execCmisInterrupt h
  | .housekeepingRail => .execHousekeepingRail h
  | .measureComplete _ _ _ _ => .execMeasureComplete h
  | .custodyFault _ => .execCustodyFault h
  | .custodyRequestTimeout => .execCustodyRequestTimeout h
  | .attestationRequest _ _ => .execAttestationRequest h
  | .eventLogRead _ => .execEventLogRead h
  | .sealBreakArm => .execSealBreakArm h
  | .sealBreak _ => .execSealBreak h
  | .mgmtDatagram _ _ _ _ _ _ _ => .execMgmtDatagram h
  | .neighborSolicitation _ _ => .execNeighborSolicitation h
  | .echoRequest _ _ _ => .execEchoRequest h
  | .mailboxGo _ => .execMailboxGo h
  | .xchg => .execXchg h
  | .close => .execClose h
  | .read => .execRead h
  | .write => .execWrite h
  | .describe => .execDescribe h
  | .sessionIdleTimeout _ => .execSessionIdleTimeout h
  | .exchangeTimeout _ => .execExchangeTimeout h
  | .registerWrite _ _ => .execRegisterWrite h
  | .managerKeyListWrite _ _ _ => .execManagerKeyListWrite h
  | .check _ => .execCheck h
  | .checkDone => .execCheckDone h
  | .commit _ _ => .execCommit h
  | .commitSwap => .execCommitSwap h
  | .discard _ => .execDiscard h
  | .stagingLock _ _ => .execStagingLock h
  | .stagingLockTimeout => .execStagingLockTimeout h
  | .counterSelect _ _ _ => .execCounterSelect h
  | .counterClear _ => .execCounterClear h
  | .counterBoundary => .execCounterBoundary h
  | .histogramClear => .execHistogramClear h
  | .eventCountClear => .execEventCountClear h
  | .snapshotFreeze => .execSnapshotFreeze h
  | .snapshotGatherDone => .execSnapshotGatherDone h
  | .traceWrite => .execTraceWrite h
  | .mainInputGood => .execMainInputGood h
  | .stageAdvance _ => .execStageAdvance h
  | .stageTimeout _ => .execStageTimeout h
  | .moduleReset => .execModuleReset h
  | .maintenanceReset => .execMaintenanceReset h
  | .resetPin => .execResetPin h
  | .perst => .execPerst h
  | .environmentViolation _ _ => .execEnvironmentViolation h
  | .faultLogRead _ => .execFaultLogRead h
  | .housekeepingRailLoss => .execHousekeepingRailLoss h
  | .resetPinRelease => .execResetPinRelease h
  | .vfEnableSet => .execVfEnableSet h
  | .startInterface _ => .execStartInterface h
  | .vfBarOrMemorySpaceChange _ => .execVfBarOrMemorySpaceChange h
  | .managementLinkChange _ => .execManagementLinkChange h
  | .pcieLinkChange _ _ => .execPcieLinkChange h
  | .forwardedResponse _ => .execForwardedResponse h
  | .standInRestoreRequest _ _ _ => .execStandInRestoreRequest h

theorem step_kept {s} (h : Canon s) : Kept (step s) := by
  unfold step
  split
  · exact .done <| .elapse h
  · exact exec_kept (.frame h) _

/-- Settles O4: every command of the table, and the cycle that passes on an empty queue, keeps the canonical forms. -/
theorem invariantKeptByStep : Obligations.InvariantKeptByStep := by
  unfold Obligations.InvariantKeptByStep
  intro s t hs ht
  exact canon_iff_inv.mp (step_kept (canon_iff_inv.mpr hs) t ht)

end Sys2Proof.Machine
end

section
/-! O13. What POWER_SAMPLE leaves (spec/01 R27, R28): the state it measures, and the orderly stop of that state where the
1 ms average has been too high for 10 ms. The orderly stop (spec/17 R473) writes no measurement of power, one lemma per
step of it. -/

namespace Sys2Proof.Machine

/-! ### The orderly stop leaves the measured power -/

/-- The measured power of a state is `p`. -/
def Measured (p : Power) (s : State) : Prop := s.power = p

namespace Measured

variable {p : Power} {s : State}

/-- A record update outside the measured power. -/
theorem frame {pending clock time timeKnown slew free mem steep prog ad front red hbm leaf fab cust dict obs boot out}
    (h : Measured p s) :
    Measured p (.mk pending clock time timeKnown slew free mem s.power steep prog ad front red hbm leaf fab cust dict obs
      boot out) :=
  h

theorem ite {a b : State} {c : Prop} [Decidable c] (ha : Measured p a) (hb : Measured p b) :
    Measured p (if c then a else b) := by
  split
  · exact ha
  · exact hb

theorem foldl {α : Type} {f : State → α → State} {l : List α} (h : Measured p s)
    (hf : ∀ s x, Measured p s → Measured p (f s x)) : Measured p (l.foldl f s) := by
  induction l generalizing s with
  | nil => exact h
  | cons x l ih => exact ih (hf s x h)

theorem trace {ty block part data} (h : Measured p s) : Measured p (trace ty block part data s) :=
  (trace_power ..).trans h

theorem setEngine {e reason} (h : Measured p s) : Measured p (setEngine e reason s) := by
  unfold Machine.setEngine
  exact .ite h (.trace (.frame (.ite h (.frame h))))

theorem finish {id status detail info} (h : Measured p s) : Measured p (finish id status detail info s) := by
  unfold Machine.finish finishWith
  split
  · exact h
  · exact .frame h

theorem shutdownCommands (h : Measured p s) : Measured p (shutdownCommands s) := by
  unfold Machine.shutdownCommands
  exact .frame (.ite h (.foldl h fun _ _ h => .finish h))

theorem setSlot {n k} (h : Measured p s) : Measured p (setSlot n k s) := by
  unfold Machine.setSlot
  exact .ite (.frame h) (.trace (.frame h))

theorem dropCaddy {f} (h : Measured p s) : Measured p (dropCaddy f s) := by
  unfold Machine.dropCaddy
  exact .foldl h fun _ _ h => .frame h

theorem zeroCaddySlot {slot} (h : Measured p s) : Measured p (zeroCaddySlot slot s) := by
  unfold Machine.zeroCaddySlot
  exact .foldl h fun _ _ h => .frame h

theorem invalidateDesc {didx reason} (h : Measured p s) : Measured p (invalidateDesc didx reason s) := by
  unfold Machine.invalidateDesc
  extract_lets d s1 s2
  have h2 : Measured p s2 := .frame (.frame h)
  split
  · exact h
  · split
    · exact h2
    · exact .finish (.frame h2)

theorem kvRemoved {slot} (h : Measured p s) : Measured p (kvRemoved slot s) := by
  unfold Machine.kvRemoved
  exact .foldl h fun _ _ h => .frame h

theorem removeSlot {n} (h : Measured p s) : Measured p (removeSlot n s) := by
  unfold Machine.removeSlot
  have h1 : Measured p (endSweeps (slotOf s n) s) := .foldl h fun _ _ h => .finish h
  exact .frame (.kvRemoved (.foldl (.zeroCaddySlot (.setSlot h1)) fun _ _ h => .invalidateDesc h))

theorem zeroSealed (h : Measured p s) : Measured p (zeroSealed s) := by
  unfold Machine.zeroSealed
  exact .frame (.frame (.dropCaddy h))

theorem setPort {q st} (h : Measured p s) : Measured p (setPort q st s) := by
  unfold Machine.setPort
  exact .ite h (.ite (.frame (.trace (.frame (.frame h)))) (.trace (.frame (.frame h))))

theorem orderlyStop {cls cause block value} (h : Measured p s) : Measured p (orderlyStop cls cause block value s) := by
  unfold Machine.orderlyStop
  have h1 : Measured p (if s.steep.engine = .off then s else Machine.setEngine .stopped 7 s) := .ite h (.setEngine h)
  have h2 : Measured p (removeAllSlots (Machine.shutdownCommands _)) :=
    .foldl (.shutdownCommands h1) fun _ _ h => .removeSlot h
  exact .ite h (.frame (.frame (.frame (.foldl (.zeroSealed h2) fun _ _ h => .setPort h))))

end Measured

/-- The last step of the orderly stop of a module that has not stopped. -/
theorem orderlyStop_eq_updBoot (cls cause block value : Nat) (s : State) (h : s.boot.stopped = none) :
    ∃ u, orderlyStop cls cause block value s = updBoot (fun b =>
      { b with stopped := some u.clock, shutdown := true, faultL := false, rails := 0,
               status := if b.status = 0 then 2 else b.status }) u :=
  ⟨_, if_neg (by rw [h]; exact Bool.false_ne_true)⟩

/-- A module that has not stopped stops at the time the orderly stop ends. -/
theorem orderlyStop_boot (cls cause block value : Nat) (s : State) (h : s.boot.stopped = none) :
    (orderlyStop cls cause block value s).boot.stopped = some (orderlyStop cls cause block value s).clock ∧
      (orderlyStop cls cause block value s).boot.shutdown = true ∧
      (orderlyStop cls cause block value s).boot.faultL = false := by
  obtain ⟨u, hu⟩ := orderlyStop_eq_updBoot cls cause block value s h
  rw [hu]
  exact ⟨rfl, rfl, rfl⟩

/-! ### One sample -/

/-- An average above 2,600 W is not below 2,400 W. -/
theorem averageBelow_of_averageAbove {n : Nat} {l : List Nat} (h : averageAbove 2600 n l = true) :
    averageBelow 2400 n l = false := by
  simp only [averageAbove, averageBelow, decide_eq_true_eq, decide_eq_false_iff_not] at h ⊢
  omega

/-- The measured power after a sample. -/
def sampledPower (watts : Nat) (groups : List Nat) (p : Power) : Power :=
  let l := (watts :: p.samples).take 1000
  { samples := l, avg1 := averageOf 100 l, avg10 := averageOf 1000 l,
    groups := if 99 ≤ p.sinceGroups then groups else p.groups,
    halved := averageAbove 2600 100 l || (p.halved && !averageBelow 2400 100 l),
    above := if averageAbove 2600 100 l then p.above + 1 else 0,
    sinceGroups := if 99 ≤ p.sinceGroups then 0 else p.sinceGroups + 1 }

/-- The state after a sample that stops nothing. -/
def sampledState (watts : Nat) (groups : List Nat) (s : State) : State :=
  let p := sampledPower watts groups s.power
  { (if p.halved = s.power.halved then s else halveCores p.halved s) with
    power := p
    steep := { s.steep with condPower := s.steep.condPower || averageAbove 2400 1000 p.samples } }

section

variable (w : Nat) (groups : List Nat) (s : State)

theorem execPowerSample_eq : execPowerSample w groups s =
    .next (if 1000 ≤ (sampledPower w groups s.power).above
      then orderlyStop 2 2 0xFF (sampledPower w groups s.power).avg1 (sampledState w groups s)
      else sampledState w groups s) := by
  rw [apply_ite Host.Outcome.next]
  rfl

theorem sampledState_eq : sampledState w groups s =
    { s with
      power := sampledPower w groups s.power
      steep := { s.steep with condPower := (sampledState w groups s).steep.condPower }
      prog := (sampledState w groups s).prog } := by
  unfold sampledState
  dsimp only
  split
  · rfl
  · rfl

theorem sampledState_prog : (sampledState w groups s).prog =
    if (sampledPower w groups s.power).halved = s.power.halved then s.prog
    else (halveCores (sampledPower w groups s.power).halved s).prog := by
  rw [← apply_ite State.prog]
  rfl

theorem sampledPower_halved : (sampledPower w groups s.power).halved =
    (averageAbove 2600 100 (sampledPower w groups s.power).samples ||
      (s.power.halved && !averageBelow 2400 100 (sampledPower w groups s.power).samples)) := rfl

theorem sampledPower_above : (sampledPower w groups s.power).above =
    if averageAbove 2600 100 (sampledPower w groups s.power).samples then s.power.above + 1 else 0 := rfl

/-- The state in which a sample has been taken and, where the average has been too high for 10 ms, the module stopped. -/
theorem exec_powerSample : ∃ t, exec (.powerSample w groups) s = .next t ∧
    t.power = sampledPower w groups s.power ∧
    ((sampledPower w groups s.power).above < 1000 → t = sampledState w groups s) ∧
    (1000 ≤ (sampledPower w groups s.power).above → s.boot.stopped = none →
      t.boot.stopped = some t.clock ∧ t.boot.shutdown = true ∧ t.boot.faultL = false) := by
  refine ⟨_, execPowerSample_eq w groups s, ?_, fun h => if_neg (by omega), fun h hs => ?_⟩
  · split
    · exact Measured.orderlyStop rfl
    · rfl
  · rw [if_pos h]
    exact orderlyStop_boot _ _ _ _ _ ((congrArg (·.boot.stopped) (sampledState_eq w groups s)).trans hs)

end

/-- Settles O13: a sample's measurements, and the orderly stop that keeps them. -/
theorem powerSamplesHalveTheIssueRate : Obligations.PowerSamplesHalveTheIssueRate := by
  unfold Obligations.PowerSamplesHalveTheIssueRate
  intro s w groups
  obtain ⟨t, ht, hp, hrun, hstop⟩ := exec_powerSample w groups s
  have hh := sampledPower_halved w groups s
  have ha := sampledPower_above w groups s
  refine ⟨t, ht, ?_⟩
  rw [hp]
  generalize hl : (sampledPower w groups s.power).samples = l at hh ha
  refine ⟨hl.symm, hl ▸ rfl, hl ▸ rfl, rfl, fun h => ?above, fun h => ?below, fun h h' => ?between,
    fun h => ?runs, fun h h9 => ?stops⟩
  case above => rw [hh, h, Bool.true_or]
  case below =>
    rw [hh, h]
    cases hab : averageAbove 2600 100 l
    · simp
    · rw [averageBelow_of_averageAbove hab] at h
      contradiction
  case between =>
    rw [hh, h, h']
    simp
  case runs =>
    have hlt : (sampledPower w groups s.power).above < 1000 := by
      rw [ha]
      rcases h with h | h
      · simp [h]
      · split <;> omega
    have hst := hrun hlt
    subst hst
    refine ⟨hl ▸ rfl, sampledState_eq w groups s, fun he => ?_, fun he => ?_⟩
    · rw [sampledState_prog, if_pos he]
    · rw [sampledState_prog, if_neg he]
  case stops =>
    refine hstop ?_
    rw [ha, h]
    simp only [if_true]
    omega

end Sys2Proof.Machine
end

section
/-! O7, O8, O57 and O58. What ops and requests keep as they end. -/

namespace Sys2Proof.Machine

/-- A steep's registers without the marks that its own ops and faults leave: the trace's sequence number, FAIL and GOOD, and
the overruns; and without the drawn skews. -/
def Steep.unmarked (st : Steep) : Steep :=
  { st with oseq := [], fail := 0, bad := false, over401 := false, overruns := 0, skews := [] }

/-- What the ops and requests of a steep do not touch as they end: the queue of commands, the stacks, the keys, the
Dictionary, start-up, power, the module's SNA, and the steep's registers but for their marks. -/
structure Lasting where
  queue : List Instr
  hbm : Hbm
  cust : Custody
  dict : Dictionary
  boot : Startup
  power : Power
  sna : BitVec 16
  steep : Steep
  still : Option (Nat × BitVec 64 × Mem)

/-- Where `full` holds, the clock, the time and package memory are among it. -/
def lastingOf (full : Bool) (s : State) : Lasting :=
  { queue := s.pending, hbm := s.hbm, cust := s.cust, dict := s.dict, boot := s.boot, power := s.power, sna := s.fab.sna,
    steep := s.steep.unmarked, still := if full then some (s.clock, s.time, s.mem) else none }

/-- State `s` has kept `en`, and where `bad` holds its steep is not good. -/
def Lasts (full bad : Bool) (en : Lasting) (s : State) : Prop :=
  lastingOf full s = en ∧ (bad = true → s.steep.bad = true)

section
variable {full bad : Bool} {en : Lasting}

namespace Lasts

variable {s : State}

theorem frame {timeKnown slew free steep prog ad front red leaf fab obs out} (h : Lasts full bad en s)
    (hf : fab.sna = s.fab.sna := by rfl) (hs : steep.unmarked = s.steep.unmarked := by rfl)
    (hb : s.steep.bad = true → steep.bad = true := by exact fun h => h) :
    Lasts full bad en (.mk s.pending s.clock s.time timeKnown slew free s.mem s.power steep prog ad front red s.hbm leaf fab
      s.cust s.dict obs s.boot out) :=
  ⟨.trans (by simp only [lastingOf, hf, hs]) h.1, fun hbad => hb (h.2 hbad)⟩

theorem passing {clock time timeKnown slew free mem prog ad front red leaf obs out} (h : Lasts false bad en s) :
    Lasts false bad en (.mk s.pending clock time timeKnown slew free mem s.power s.steep prog ad front red s.hbm leaf s.fab
      s.cust s.dict obs s.boot out) :=
  h

/-- The predicate of a state's own parts. -/
theorem start (full : Bool) (s : State) : Lasts full false (lastingOf full s) s := ⟨rfl, Bool.noConfusion⟩

theorem ite {x y : State} {c : Prop} [Decidable c] (hx : Lasts full bad en x) (hy : Lasts full bad en y) :
    Lasts full bad en (if c then x else y) := by
  split
  · exact hx
  · exact hy

theorem foldl {α : Type} {f : State → α → State} {l : List α} (h : Lasts full bad en s)
    (hf : ∀ s x, Lasts full bad en s → Lasts full bad en (f s x)) : Lasts full bad en (l.foldl f s) := by
  induction l generalizing s with
  | nil => exact h
  | cons x l ih => exact ih (hf s x h)

end Lasts

theorem Lasts.pass {n d g s} (h : Lasts false bad en s) : Lasts false bad en (pass n d g s) :=
  .passing h

theorem Lasts.elapse {n s} (h : Lasts false bad en s) : Lasts false bad en (elapse n s) := by
  unfold Machine.elapse
  exact .pass h

theorem Lasts.untilClock {c s} (h : Lasts false bad en s) : Lasts false bad en (untilClock c s) :=
  .elapse h

theorem Lasts.emit {o s} (h : Lasts full bad en s) : Lasts full bad en (emit o s) :=
  .frame h

theorem Lasts.send {d p s} (h : Lasts full bad en s) : Lasts full bad en (send d p s) :=
  .emit h

theorem Lasts.setCore {s c k} (h : Lasts full bad en s) : Lasts full bad en (setCore s c k) :=
  .frame h

theorem Lasts.updCore {c f s} (h : Lasts full bad en s) : Lasts full bad en (updCore c f s) :=
  .setCore h

theorem Lasts.stamp {unit s} (h : Lasts full bad en s) : Lasts full bad en (stamp unit s).2 := by
  unfold Machine.stamp
  exact .frame h

theorem Lasts.count {block ev n s} (h : Lasts full bad en s) : Lasts full bad en (count block ev n s) :=
  .frame h

theorem Lasts.trace {ty block part data s} (h : Lasts full bad en s) : Lasts full bad en (trace ty block part data s) :=
  .ite (.ite (.frame <| .stamp h) (.frame <| .stamp h)) h

theorem Lasts.numericEvent {cls block unit op part adid s} (h : Lasts full bad en s) :
    Lasts full bad en (numericEvent cls block unit op part adid s) := by
  unfold Machine.numericEvent
  exact .ite (.count <| .frame h) (.trace <| .count <| .frame h)

theorem Lasts.numericEvents {classes block unit op part adid s} (h : Lasts full bad en s) :
    Lasts full bad en (numericEvents classes block unit op part adid s) :=
  .foldl h fun _ _ h => .ite (.numericEvent h) h

theorem Lasts.updPart {p f s} (h : Lasts full bad en s) : Lasts full bad en (updPart p f s) :=
  .frame h

theorem Lasts.failStep {b s} (h : Lasts full bad en s) : Lasts full bad en (failStep b s) :=
  .frame h (hb := fun _ => rfl)

theorem Lasts.finishWith {copied id status detail info s} (h : Lasts full bad en s) :
    Lasts full bad en (finishWith copied id status detail info s) := by
  unfold Machine.finishWith
  split
  · exact h
  · exact .frame h

theorem Lasts.finish {id status detail info s} (h : Lasts full bad en s) :
    Lasts full bad en (finish id status detail info s) :=
  .finishWith h

theorem Lasts.updAd {f s} (h : Lasts full bad en s) : Lasts full bad en (updAd f s) :=
  .frame h

theorem Lasts.updKv {p f s} (h : Lasts full bad en s) : Lasts full bad en (updKv p f s) :=
  .updPart h

theorem Lasts.evictTree {p n s} (h : Lasts full bad en s) : Lasts full bad en (evictTree p n s) := by
  induction n generalizing s with
  | zero => exact h
  | succ n ih =>
    unfold Machine.evictTree
    extract_lets _ best
    split
    · exact h
    · cases best with
      | none => exact h
      | some e => exact ih <| .frame <| .updKv h

theorem Lasts.evict {p s} (h : Lasts full bad en s) : Lasts full bad en (evict p s) :=
  .evictTree h

theorem Lasts.settleSequence {p q ok len mine s} (h : Lasts full bad en s) :
    Lasts full bad en (settleSequence p q ok len mine s) := by
  unfold Machine.settleSequence
  extract_lets
  split
  · exact h
  · split
    · exact .updKv h
    · split
      · exact .updKv h
      · refine .evict <| .foldl (.updKv h) fun _ _ h => ?_
        split
        · exact h
        · exact .ite h <| .ite (.frame h) <| .ite h (.updKv h)

theorem Lasts.updRed {f s} (h : Lasts full bad en s) : Lasts full bad en (updRed f s) :=
  .frame h

theorem Lasts.updRequest {cmd f s} (h : Lasts full bad en s) : Lasts full bad en (updRequest cmd f s) :=
  .updAd h

theorem Lasts.tileWrite {g off bs s} (h : Lasts false bad en s) : Lasts false bad en (tileWrite g off bs s) := by
  unfold Machine.tileWrite
  extract_lets _ _ _ m s1
  have h1 : Lasts false bad en s1 := .passing h
  exact .ite h1 (.updCore h1)

theorem Lasts.correctReads {g rs s} (h : Lasts full bad en s) : Lasts full bad en (correctReads g rs s) := by
  unfold Machine.correctReads
  exact .ite h (.count <| .updCore h)

theorem Lasts.progFault {g stream index code s} (h : Lasts full bad en s) :
    Lasts full bad en (progFault g stream index code s) := by
  unfold Machine.progFault
  exact .trace <| .count <| .frame <| .updCore h

theorem Lasts.addCredit {g ctr amt s} (h : Lasts full bad en s) : Lasts full bad en (addCredit g ctr amt s) := by
  unfold Machine.addCredit
  exact .ite (.progFault <| .count <| .updCore h) (.count <| .updCore h)

theorem Lasts.sendCredit {g e amt s} (h : Lasts full bad en s) : Lasts full bad en (sendCredit g e amt s) := by
  unfold Machine.sendCredit
  extract_lets
  split
  · exact h
  · split
    · exact .frame <| .count h
    · exact .frame <| .count h
    · exact .send <| .count h
    · exact .count h

theorem Lasts.startFault {g q code s} (h : Lasts full bad en s) : Lasts full bad en (startFault g q code s) :=
  .progFault h

theorem Lasts.opEvents {g lane index classes s} (h : Lasts full bad en s) :
    Lasts full bad en (opEvents g lane index classes s) :=
  .numericEvents h

theorem Lasts.loadEnds {g q p c s} (h : Lasts full bad en s) : Lasts full bad en (loadEnds g q p c s) :=
  .updCore h

theorem Lasts.failServing {g status detail s} (h : Lasts full bad en s) :
    Lasts full bad en (failServing g status detail s) := by
  unfold Machine.failServing
  exact .updAd h

theorem Lasts.eccAbort {g q s} (h : Lasts full bad en s) : Lasts full bad en (eccAbort g q s) := by
  unfold Machine.eccAbort
  exact .ite (.failStep <| .updCore <| .startFault h) (.failServing <| .updCore <| .startFault h)

theorem Lasts.withReadsOf {g q ranges s f} (h : Lasts full bad en s) (hf : ∀ s, Lasts full bad en s → Lasts full bad en (f s)) :
    Lasts full bad en (withReadsOf g q ranges s f) :=
  .ite (.eccAbort h) (hf _ <| .correctReads h)

theorem Lasts.loadA {g q p xs c s} (h : Lasts full bad en s) : Lasts full bad en (loadA g q p xs c s) :=
  .updCore <| .loadEnds h

theorem Lasts.switchA {g c s} (h : Lasts full bad en s) : Lasts full bad en (switchA g c s) :=
  .updCore h

theorem Lasts.rankRows {g r p entry s} (h : Lasts full bad en s) : Lasts full bad en (rankRows g r p entry s) := by
  unfold Machine.rankRows
  exact .withReadsOf h fun _ h => .opEvents <| .count <| .updCore h

theorem Lasts.rankEnd {g q c s} (h : Lasts full bad en s) : Lasts full bad en (rankEnd g q c s) := by
  unfold Machine.rankEnd
  exact .updCore h

theorem Lasts.rankStep {g r p ps xs s} (h : Lasts full bad en s) : Lasts full bad en (rankStep g r p ps xs s) := by
  unfold Machine.rankStep
  extract_lets _ _ _ s1 s2 s3
  have h3 : Lasts full bad en s3 := .rankRows <| .count <| .count <| .switchA <| .loadA h
  exact .ite (.rankEnd h3) h3

theorem Lasts.advanceRank {g n s} (h : Lasts full bad en s) : Lasts full bad en (advanceRank g n s) := by
  induction n generalizing s with
  | zero => exact h
  | succ n ih =>
    unfold Machine.advanceRank
    split
    · exact h
    · split
      · exact h
      · split
        · exact h
        · exact ih <| .rankStep h

theorem Lasts.writeRow {g p eout i ys s} (h : Lasts false bad en s) :
    Lasts false bad en (writeRow g p eout i ys s) := by
  unfold Machine.writeRow
  extract_lets
  split
  · exact .tileWrite <| .tileWrite h
  · exact .tileWrite h
  · exact .tileWrite h

theorem Lasts.loadB {g q x xs b c s} (h : Lasts full bad en s) : Lasts full bad en (loadB g q x xs b c s) := by
  unfold Machine.loadB
  exact .updCore <| .loadEnds h

theorem Lasts.firstPass {g p s} (h : Lasts full bad en s) : Lasts full bad en (firstPass g p s) := by
  unfold Machine.firstPass
  exact .opEvents <| .updCore h

theorem Lasts.pourStep {g p x xs sl finals s} (h : Lasts full bad en s) :
    Lasts full bad en (pourStep g p x xs sl finals s) := by
  unfold Machine.pourStep
  exact .withReadsOf (.ite (.loadB h) h) fun _ h => .ite (.firstPass <| .updCore <| .count <| .count h) (.updCore <|
    .count <| .count h)

theorem Lasts.advancePour {g n s} (h : Lasts full bad en s) : Lasts full bad en (advancePour g n s) := by
  induction n generalizing s with
  | zero => exact h
  | succ n ih =>
    unfold Machine.advancePour
    split
    · exact h
    · split
      · exact h
      · split
        · exact ih <| .pourStep h
        · exact h

theorem Lasts.advanceCore {g s} (h : Lasts full bad en s) : Lasts full bad en (advanceCore g s) :=
  .advancePour <| .advanceRank h

theorem Lasts.drainedPour {s g p t} (h : Lasts full bad en s) (hv : drainedPour s g = some (p, t)) :
    Lasts full bad en t := by
  unfold Machine.drainedPour at hv
  dsimp only at hv
  split at hv
  · cases hv
  · split at hv
    · cases hv
      exact .advanceCore h
    · cases hv

theorem Lasts.recomputePour {g s} (h : Lasts false bad en s) : Lasts false bad en (recomputePour g s) := by
  unfold Machine.recomputePour
  split
  · exact .advanceCore h
  next hv => exact .ite (.drainedPour h hv) (.opEvents <| .count <| .updCore <| .untilClock <|
    (.drainedPour h hv))

theorem Lasts.releaseBanks {g p s} (h : Lasts full bad en s) : Lasts full bad en (releaseBanks g p s) := by
  unfold Machine.releaseBanks
  exact .ite (.updCore <| .ite h (.updCore h)) <| .ite h (.updCore h)

theorem Lasts.pourResult {g p s} (h : Lasts false bad en s) : Lasts false bad en (pourResult g p s) := by
  unfold Machine.pourResult
  exact .ite (.updCore h) (.count <| .foldl h (fun _ _ h => .writeRow h))

theorem Lasts.completePour {g s} (h : Lasts false bad en s) : Lasts false bad en (completePour g s) := by
  unfold Machine.completePour
  split
  · exact .advanceCore h
  next hv => exact .ite (.drainedPour h hv) (.count <| .releaseBanks <| .updCore <| .sendCredit <| .tileWrite <|
    .pourResult <| .untilClock <| (.drainedPour h hv))

theorem Lasts.completeOp {g r s} (h : Lasts full bad en s) : Lasts full bad en (completeOp g r s) := by
  unfold Machine.completeOp
  exact .sendCredit <| .updCore h

theorem Lasts.answered {g op n s} (h : Lasts full bad en s) : Lasts full bad en (answered g op n s) :=
  .updCore h

theorem Lasts.sendRollCalls {f s} (h : Lasts full bad en s) : Lasts full bad en (sendRollCalls f s) := by
  unfold Machine.sendRollCalls
  split
  · exact h
  · exact .foldl h fun _ _ h => .send h

theorem Lasts.setShard {n x s} (h : Lasts full bad en s) : Lasts full bad en (setShard n x s) :=
  .updRed h

theorem Lasts.coverAnswered {x s} (h : Lasts full bad en s) : Lasts full bad en (coverAnswered x s) :=
  .foldl h fun _ _ h => .answered h

theorem Lasts.failShard {n b s} (h : Lasts full bad en s) : Lasts full bad en (failShard n b s) := by
  unfold Machine.failShard
  split
  · exact h
  · extract_lets _ s1
    have h1 : Lasts full bad en s1 := .failStep <| .count <| .updRed <| .setShard h
    exact .ite (.coverAnswered h1) h1

theorem Lasts.latchRules {s} (h : Lasts full bad en s) : Lasts full bad en (latchRules s) :=
  .updRed h

theorem Lasts.newAttempt {s} (h : Lasts full bad en s) : Lasts full bad en (newAttempt s) := by
  unfold Machine.newAttempt
  exact .latchRules <| .updRed h

theorem Lasts.failUnkept {s} (h : Lasts full bad en s) : Lasts full bad en (failUnkept s) := by
  unfold Machine.failUnkept
  refine .foldl h fun _ _ h => ?_
  split
  · exact .failShard h
  · exact h

theorem Lasts.settleOps {g s} (h : Lasts false bad en s) : Lasts false bad en (settleOps g s) := by
  unfold Machine.settleOps
  exact .foldl (.completePour <| .recomputePour h) fun _ _ h => .completeOp h

theorem Lasts.overrun {g s} (h : Lasts full bad en s) : Lasts full bad en (overrun g s) := by
  unfold Machine.overrun
  extract_lets _ _ s1 _ s2 s3
  have h3 : Lasts full bad en s3 := .trace <| .count <| .frame <| .updCore h
  refine .ite (.failStep h3) ?_
  split
  · exact .failServing h3
  · exact .failServing h3

theorem Lasts.overrunCores {f s} (h : Lasts false bad en s) : Lasts false bad en (overrunCores f s) :=
  .foldl h fun _ _ h => .ite h <| .ite (.overrun <| .settleOps h) (.settleOps h)

theorem Lasts.endRequest {status r s} (h : Lasts full bad en s) : Lasts full bad en (endRequest status r s) :=
  .ite h <| .ite (.updRequest h) (.updRequest <| .finish <| .updRequest h)

theorem Lasts.endServing {s} (h : Lasts full bad en s) : Lasts full bad en (endServing s) :=
  .foldl h fun _ _ h => .endRequest h

theorem Lasts.endStep {s} (h : Lasts full bad en s) : Lasts full bad en (endStep s) :=
  .foldl h fun _ _ h => .endRequest h

theorem Lasts.returnRequest {r s} (h : Lasts full bad en s) : Lasts full bad en (returnRequest r s) := by
  unfold Machine.returnRequest
  exact .updRequest <| .ite h (.settleSequence h)

theorem Lasts.swapTables {run abort first s} (h : Lasts full bad en s) :
    Lasts full bad en (swapTables run abort first s) := by
  unfold Machine.swapTables
  exact .updAd <| .foldl h fun _ _ h => .returnRequest h

theorem Lasts.startCore {run bound g s} (h : Lasts full bad en s) : Lasts full bad en (startCore run bound g s) := by
  unfold Machine.startCore
  extract_lets _ _ s2
  have h2 : Lasts full bad en s2 := .foldl (.setCore h) fun _ _ h => .addCredit h
  exact .ite (.progFault h2) h2

theorem Lasts.countRepeats {commit s} (h : Lasts full bad en s) : Lasts full bad en (countRepeats commit s) :=
  .ite h (.foldl h (fun _ _ h => .ite h (.ite (.updPart h) (.ite (.updPart h) h))))

theorem Lasts.countAll {ev n s} (h : Lasts full bad en s) : Lasts full bad en (countAll ev n s) :=
  .frame h

theorem Lasts.quotaBoundary {s} (h : Lasts full bad en s) : Lasts full bad en (quotaBoundary s) :=
  .foldl h fun _ _ h => .ite h (.updPart h)

theorem Lasts.newSkews {s} (h : Lasts full bad en s) : Lasts full bad en (newSkews s) :=
  .frame h

end
end Sys2Proof.Machine
end

section
/-! O57 and O58. What every command does to the steep engine. -/

set_option Elab.async false

namespace Sys2Proof.Machine

/-- What the statements about the steep engine speak of: its state, its exits from Locked, the stretch level, and the queue
of commands, which no command's meaning touches. -/
structure Engine where
  queue : List Instr
  stretch : Nat
  state : EngineState
  exits : Nat

def engineOf (s : State) : Engine :=
  { queue := s.pending, stretch := s.steep.stretch, state := s.steep.engine, exits := s.steep.exits }

/-- The state's engine and queue are `en`: that a function leaves them alone is stated as `Calm en s → Calm en (f s)`. -/
def Calm (en : Engine) (s : State) : Prop := engineOf s = en

section
variable {en : Engine}

namespace Calm

variable {s : State}

theorem frame {clock time timeKnown slew free mem power steep prog ad front red hbm leaf fab cust dict obs boot out}
    (h : Calm en s)
    (hs : (steep.stretch, steep.engine, steep.exits) = (s.steep.stretch, s.steep.engine, s.steep.exits) := by dsimp only) :
    Calm en (.mk s.pending clock time timeKnown slew free mem power steep prog ad front red hbm leaf fab cust dict obs boot
      out) := by
  obtain ⟨h1, h2⟩ := Prod.mk.inj hs
  obtain ⟨h2, h3⟩ := Prod.mk.inj h2
  exact .trans (by simp only [engineOf, h1, h2, h3]) h

theorem ite {x y : State} {c : Prop} [Decidable c] (hx : Calm en x) (hy : Calm en y) : Calm en (if c then x else y) := by
  split
  · exact hx
  · exact hy

theorem foldl {α : Type} {f : State → α → State} {l : List α} (h : Calm en s)
    (hf : ∀ s x, Calm en s → Calm en (f s x)) : Calm en (l.foldl f s) := by
  induction l generalizing s with
  | nil => exact h
  | cons x l ih => exact ih (hf s x h)

theorem foldl_snd {α β : Type} {f : β × State → α → β × State} {l : List α} {p : β × State} (h : Calm en p.2)
    (hf : ∀ p x, Calm en p.2 → Calm en (f p x).2) : Calm en (l.foldl f p).2 := by
  induction l generalizing p with
  | nil => exact h
  | cons x l ih => exact ih (hf p x h)

theorem of_snd {α : Type} {p : α × State} {x : α} (hp : p = (x, s)) (h : Calm en p.2) : Calm en s := by
  rw [hp] at h
  exact h

end Calm

/-- A command's answer: a next state whose engine and queue are `en`. -/
def Stays (en : Engine) (o : Host.Outcome State Fault Refusal) : Prop := ∃ t, o = .next t ∧ Calm en t

namespace Stays

theorem done {s : State} (h : Calm en s) : Stays en (done s) := ⟨s, rfl, h⟩

theorem onlyIf {s : State} {f : State → State} {c : Bool} (h : Calm en s) (hf : ∀ s, Calm en s → Calm en (f s)) :
    Stays en (onlyIf c s f) :=
  done (.ite (hf s h) h)

theorem ite {x y : Host.Outcome State Fault Refusal} {c : Prop} [Decidable c] (hx : Stays en x) (hy : Stays en y) :
    Stays en (if c then x else y) := by
  split
  · exact hx
  · exact hy

end Stays

/-- An answer of a function that may refuse. -/
def StaysSome (en : Engine) (o : Option State) : Prop := ∀ t, o = some t → Calm en t

namespace StaysSome

theorem none : StaysSome en none := fun _ ht => (Option.some_ne_none _ ht.symm).elim

theorem some {s : State} (h : Calm en s) : StaysSome en (some s) := fun _ ht => Option.some.inj ht ▸ h

theorem ite {x y : Option State} {c : Prop} [Decidable c] (hx : StaysSome en x) (hy : StaysSome en y) :
    StaysSome en (if c then x else y) := by
  split
  · exact hx
  · exact hy

end StaysSome

/-- What keeps `lastingOf` keeps the engine. -/
theorem Calm.of_lasts {full : Bool} {s t : State} (h : Calm en s) (ht : Lasts full false (lastingOf full s) t) :
    Calm en t := by
  obtain ⟨ht, -⟩ := ht
  have hq : t.pending = s.pending := congrArg (·.queue) ht
  have hst : t.steep.unmarked = s.steep.unmarked := congrArg (·.steep) ht
  have he : t.steep.engine = s.steep.engine := (congrArg Steep.engine hst :)
  have hn : t.steep.stretch = s.steep.stretch := (congrArg Steep.stretch hst :)
  have hx : t.steep.exits = s.steep.exits := (congrArg Steep.exits hst :)
  exact .trans (by simp only [engineOf, hq, he, hn, hx]) h

theorem Calm.getD {s : State} {o : Option State} (h : Calm en s) (ho : StaysSome en o) : Calm en (o.getD s) := by
  cases o with
  | none => exact h
  | some t => exact ho t rfl

/-! ### Machine/Ops.lean -/

theorem Calm.pass {n d g s} (h : Calm en s) : Calm en (pass n d g s) :=
  .frame h

theorem Calm.elapse {n s} (h : Calm en s) : Calm en (elapse n s) := by
  unfold Machine.elapse
  exact .pass h

theorem Calm.untilTime {t s} (h : Calm en s) : Calm en (untilTime t s) := by
  unfold Machine.untilTime
  exact .pass h

theorem Calm.untilClock {c s} (h : Calm en s) : Calm en (untilClock c s) :=
  .elapse h

theorem Calm.emit {o s} (h : Calm en s) : Calm en (emit o s) :=
  .frame h

theorem Calm.send {d p s} (h : Calm en s) : Calm en (send d p s) :=
  .emit h

theorem Calm.fresh {w s} (h : Calm en s) : Calm en (fresh w s).2 :=
  .frame h

theorem Calm.setCore {s c k} (h : Calm en s) : Calm en (setCore s c k) :=
  .frame h

theorem Calm.updCore {c f s} (h : Calm en s) : Calm en (updCore c f s) :=
  .setCore h

/-! ### Machine/Entries.lean -/

theorem Calm.setCfg {i sub v s} (h : Calm en s) : Calm en (setCfg i sub v s) :=
  .frame h

theorem Calm.setBoth {i sub v s} (h : Calm en s) : Calm en (setBoth i sub v s) :=
  .frame h

/-! ### Machine/Observe.lean -/

theorem Calm.stamp {unit s} (h : Calm en s) : Calm en (stamp unit s).2 :=
  h.of_lasts <| .stamp <| .start true s

theorem Calm.count {block ev n s} (h : Calm en s) : Calm en (count block ev n s) :=
  .frame h

theorem Calm.histSample {hf u x s} (h : Calm en s) : Calm en (histSample hf u x s) := by
  unfold Machine.histSample
  exact .frame h

theorem Calm.trace {ty block part data s} (h : Calm en s) : Calm en (trace ty block part data s) :=
  .ite (.ite (.frame <| .stamp h) (.frame <| .stamp h)) h

theorem Calm.numericEvents {classes block unit op part adid s} (h : Calm en s) :
    Calm en (numericEvents classes block unit op part adid s) :=
  h.of_lasts <| .numericEvents <| .start true s

/-! ### Machine/Crypto.lean -/

theorem Calm.setSlot {n k s} (h : Calm en s) : Calm en (setSlot n k s) := by
  unfold Machine.setSlot
  extract_lets _ _ s1
  have h1 : Calm en s1 := .frame h
  exact .ite h1 (.trace h1)

theorem Calm.nextNonce {unit s} (h : Calm en s) : Calm en (nextNonce unit s).2 := by
  unfold Machine.nextNonce
  extract_lets
  split
  · exact h
  · exact .frame h

theorem Calm.countGcmFail {n s} (h : Calm en s) : Calm en (countGcmFail n s) :=
  .frame h

theorem Calm.countStale {n s} (h : Calm en s) : Calm en (countStale n s) :=
  .frame h

theorem Calm.measure {i ty data s} (h : Calm en s) : Calm en (measure i ty data s) := .frame h

/-! ### Machine/Blocks.lean -/

theorem Calm.updStack {i f s} (h : Calm en s) : Calm en (updStack i f s) :=
  .frame h

theorem Calm.setBlock {b r s} (h : Calm en s) : Calm en (setBlock b r s) :=
  .frame h

theorem Calm.countHbm {ev a n s} (h : Calm en s) : Calm en (countHbm ev a n s) := by
  unfold Machine.countHbm
  split
  · exact .count h
  · exact h

theorem Calm.storeBytes {a bs s} (h : Calm en s) : Calm en (storeBytes a bs s) :=
  .frame h

theorem Calm.writeInBlock {crc a bs s} (h : Calm en s) : Calm en (writeInBlock crc a bs s) := by
  unfold Machine.writeInBlock
  extract_lets s1 s2
  have h1 : Calm en s1 := .countHbm h
  have h2 : Calm en s2 := .ite (.countHbm h1) h1
  have h3 {b r} : Calm en (Machine.setBlock b r (Machine.storeBytes a bs s2)) := .setBlock <| .storeBytes h2
  exact .ite h <| .ite (.ite h3 h3) h3

theorem Calm.writeStored {crc a bs s} (h : Calm en s) : Calm en (writeStored crc a bs s) :=
  .foldl h fun _ _ h => .ite (.writeInBlock h) (.storeBytes h)

theorem Calm.countNoKey {n s} (h : Calm en s) : Calm en (countNoKey n s) :=
  .frame h

theorem Calm.xtsWriteIn {slot crc a bs s} (h : Calm en s) : Calm en (xtsWriteIn slot crc a bs s) := by
  unfold Machine.xtsWriteIn
  extract_lets
  split
  · exact h
  · split
    · exact .writeInBlock <| .setBlock h
    · split
      · exact .writeInBlock h
      · exact .countNoKey <| .writeInBlock <| .setBlock h

theorem Calm.xtsWrite {slot crc a bs s} (h : Calm en s) : Calm en (xtsWrite slot crc a bs s) :=
  .foldl h fun _ _ h => .xtsWriteIn h

theorem Calm.xtsRead {slot a n s} (h : Calm en s) : Calm en (xtsRead slot a n s).2 := by
  unfold Machine.xtsRead
  exact .countNoKey <| .countHbm h

theorem Calm.xtsReadAt {slot a n s} (h : Calm en s) : Calm en (xtsReadAt slot a n s).2 := by
  unfold Machine.xtsReadAt
  exact .xtsRead h

theorem Calm.readStored {a n s} (h : Calm en s) : Calm en (readStored a n s).2 :=
  .countHbm h

theorem Calm.rasEvent {st pc bank row kind s} (h : Calm en s) : Calm en (rasEvent st pc bank row kind s) := by
  unfold Machine.rasEvent
  exact .trace <| .frame h

theorem Calm.retirePc {st pc s} (h : Calm en s) : Calm en (retirePc st pc s) := by
  unfold Machine.retirePc
  extract_lets
  split
  · exact h
  · exact .ite h (.rasEvent <| .frame <| .updStack h)

theorem Calm.rowFailing {st pc bank row s} (h : Calm en s) : Calm en (rowFailing st pc bank row s) := by
  unfold Machine.rowFailing
  extract_lets
  split
  · exact .ite (.updStack <| .rasEvent h) (.retirePc <| .rasEvent h)
  · exact .rasEvent h
  · exact .retirePc <| .rasEvent h

theorem Calm.unitFailing {u s} (h : Calm en s) : Calm en (unitFailing u s) := by
  unfold Machine.unitFailing
  extract_lets
  split
  · exact .rowFailing h
  · exact h

theorem Calm.unitCorrected {u s} (h : Calm en s) : Calm en (unitCorrected u s) := by
  unfold Machine.unitCorrected
  extract_lets
  split
  · exact .ite (.unitFailing <| .updStack <| .count <| .updStack h) (.count <| .updStack h)
  · exact h

theorem Calm.eccEvents {env b s} (h : Calm en s) : Calm en (eccEvents env b s) := by
  unfold Machine.eccEvents
  refine .foldl h fun _ _ h => ?_
  extract_lets _ s1
  have h1 : Calm en s1 := .ite (.unitCorrected h) h
  exact .ite (.unitFailing h1) h1

theorem Calm.verifyBlock {env b s} (h : Calm en s) : Calm en (verifyBlock env b s).2 := by
  unfold Machine.verifyBlock
  extract_lets _ _ _ s1 s2 _ s3
  have h3 : Calm en s3 := .rasEvent <| .setBlock <| .count <| .frame h
  split
  · exact h
  · split
    · exact .eccEvents <| .count <| .frame h
    · split
      · exact .eccEvents h
      · split
        · exact .ite (.eccEvents h3) (.foldl h3 fun _ _ h => .unitFailing h)
        · split
          · exact .eccEvents <| .count <| .frame h
          · exact .eccEvents h

theorem Calm.eccRange {env a n s} (h : Calm en s) : Calm en (eccRange env a n s) :=
  .ite h (.foldl h (fun _ _ h => .eccEvents h))

theorem Calm.verifyRange {env a n s} (h : Calm en s) : Calm en (verifyRange env a n s).2 := by
  unfold Machine.verifyRange
  split
  · exact h
  · exact .foldl_snd h fun _ _ h => .verifyBlock h

theorem Calm.updPart {p f s} (h : Calm en s) : Calm en (updPart p f s) :=
  .frame h

theorem Calm.setMapBit {m i s} (h : Calm en s) : Calm en (setMapBit m i s) := by
  unfold Machine.setMapBit
  exact .writeStored h

theorem Calm.logMem {p a n s} (h : Calm en s) : Calm en (logMem p a n s) := by
  unfold Machine.logMem
  extract_lets
  split
  · exact h
  · refine .foldl h fun _ _ h => ?_
    extract_lets
    split
    · exact h
    · exact .setMapBit h

theorem Calm.logHost {p a n s} (h : Calm en s) : Calm en (logHost p a n s) := by
  unfold Machine.logHost
  exact .ite h <| .ite (.foldl h (fun _ _ h => .setMapBit h)) (.updPart h)

theorem Calm.hostWrite {p a bs s} (h : Calm en s) : Calm en (hostWrite p a bs s) :=
  .emit <| .count <| .logHost h

theorem Calm.countHostRead {n s} (h : Calm en s) : Calm en (countHostRead n s) :=
  .count h

theorem Calm.xtsWriteFor {p slot crc a bs s} (h : Calm en s) : Calm en (xtsWriteFor p slot crc a bs s) :=
  .logMem <| .xtsWrite h

theorem Calm.gcmFetch {hf a len slot gen s} (h : Calm en s) : Calm en (gcmFetch hf a len slot gen s).2 := by
  unfold Machine.gcmFetch
  exact .countGcmFail <| .countStale <| .countHostRead h

theorem Calm.gcmSeal {unit slot bs s} (h : Calm en s) : Calm en (gcmSeal unit slot bs s).2 := by
  unfold Machine.gcmSeal
  extract_lets
  split
  · exact h
  · refine .foldl_snd h fun _ _ h => ?_
    split
    · exact h
    next hv =>
      split
      next hv => exact .of_snd hv (.nextNonce h)
      next hv => exact .of_snd hv (.nextNonce h)

/-! ### Machine/Common.lean -/

theorem Calm.engineRecord {reason s} (h : Calm en s) : Calm en (engineRecord reason s) :=
  .frame h

theorem Calm.failStep {b s} (h : Calm en s) : Calm en (failStep b s) :=
  .frame h

theorem Calm.finish {id status detail info s} (h : Calm en s) : Calm en (finish id status detail info s) :=
  h.of_lasts <| .finish <| .start true s

theorem Calm.faultRecord {cls cause block value s} (h : Calm en s) :
    Calm en (faultRecord cls cause block value s) := by
  unfold Machine.faultRecord
  exact .frame h

theorem Calm.startupStop {cause value s} (h : Calm en s) : Calm en (startupStop cause value s) := by
  unfold Machine.startupStop
  exact .frame <| .faultRecord h

theorem Calm.sendMsix {p v s} (h : Calm en s) : Calm en (sendMsix p v s) :=
  .ite (.updPart h) (.count <| .emit h)

/-! ### Machine/Tenancy.lean -/

theorem Calm.updFront {f s} (h : Calm en s) : Calm en (updFront f s) :=
  .frame h

theorem Stays.onHead {op s f} (h : Calm en s) (hf : ∀ c s, Calm en s → Calm en (f c s)) : Stays en (onHead op s f) := by
  unfold Machine.onHead
  split
  · exact .done h
  · exact .done <| hf _ _ h

theorem Calm.takeUp {id s} (h : Calm en s) : Calm en (takeUp id s) :=
  .updFront h

theorem Calm.updAd {f s} (h : Calm en s) : Calm en (updAd f s) :=
  .frame h

theorem Calm.setDesc {d w s} (h : Calm en s) : Calm en (setDesc d w s) :=
  .frame h

/-! ### Machine/Kv.lean -/

theorem Calm.updKv {p f s} (h : Calm en s) : Calm en (updKv p f s) :=
  .updPart h

theorem Calm.evict {p s} (h : Calm en s) : Calm en (evict p s) :=
  h.of_lasts <| .evict <| .start true s

theorem Calm.kvOpen {c gen hf b hashes s} (h : Calm en s) : Calm en (kvOpen c gen hf b hashes s) := by
  unfold Machine.kvOpen
  exact .finish <| .frame <| .updKv h

theorem Stays.execKvOpen {host s} (h : Calm en s) : Stays en (execKvOpen host s) := by
  unfold Machine.execKvOpen
  refine .onHead h fun _ _ h => ?_
  extract_lets
  split
  · exact .finish h
  · split
    · exact .finish h
    · split
      · exact .finish h
      · split
        · exact .finish h
        · split
          · split
            · exact .finish h
            · split
              · exact .kvOpen h
              · split
                · exact .finish <| .gcmFetch h
                · split
                  · exact .finish <| .gcmFetch h
                  · split
                    · exact .finish <| .gcmFetch h
                    · exact .kvOpen <| .gcmFetch h
          · exact .finish h

theorem Stays.execKvFork {s} (h : Calm en s) : Stays en (execKvFork s) := by
  unfold Machine.execKvFork
  refine .onHead h fun _ _ h => ?_
  extract_lets
  split
  · exact .finish h
  · split
    · exact .finish h
    · exact .ite (.finish h) (.finish <| .updKv h)

theorem Stays.execKvClose {s} (h : Calm en s) : Stays en (execKvClose s) := by
  unfold Machine.execKvClose
  refine .onHead h fun _ _ h => ?_
  extract_lets
  split
  · exact .finish h
  · split
    · exact .finish h
    · exact .finish h
    · exact .takeUp <| .updKv h
    · exact .takeUp <| .updKv h

theorem Stays.execKvCloseFree {part seq s} (h : Calm en s) : Stays en (execKvCloseFree part seq s) := by
  unfold Machine.execKvCloseFree
  extract_lets
  split
  · exact .done h
  · exact .ite (.done h) (.done <| .finish <| .updKv h)

theorem Stays.execKvRead {s} (h : Calm en s) : Stays en (execKvRead s) :=
  .onHead h fun _ _ h => .finish h

theorem Stays.execKvCopyOnWrite {part seq s} (h : Calm en s) : Stays en (execKvCopyOnWrite part seq s) := by
  unfold Machine.execKvCopyOnWrite
  extract_lets
  split
  · exact .done h
  · exact .done <| .frame <| .updKv <| .foldl (.untilTime h) fun _ _ h => .foldl h fun _ _ h => .xtsWriteFor <|
      .xtsRead h

theorem Calm.settleSequence {p q ok len mine s} (h : Calm en s) : Calm en (settleSequence p q ok len mine s) :=
  h.of_lasts <| .settleSequence <| .start true s

theorem Calm.invalidateSeqs {p f s} (h : Calm en s) : Calm en (invalidateSeqs p f s) :=
  .updKv h

theorem Calm.dropTree {p f s} (h : Calm en s) : Calm en (dropTree p f s) :=
  .updKv h

theorem Calm.kvBaseReleased {g s} (h : Calm en s) : Calm en (kvBaseReleased g s) :=
  .foldl h fun _ _ h => .dropTree <| .invalidateSeqs h

theorem Calm.kvRotated {slot s} (h : Calm en s) : Calm en (kvRotated slot s) :=
  .foldl h fun _ _ h => .dropTree h

theorem Calm.kvRemoved {slot s} (h : Calm en s) : Calm en (kvRemoved slot s) :=
  .foldl h fun _ _ h => .updKv h

theorem Calm.kvScrubbed {slot s} (h : Calm en s) : Calm en (kvScrubbed slot s) :=
  .foldl h fun _ _ h => .updKv h

/-! ### Machine/Adapters.lean -/

theorem Calm.updRed {f s} (h : Calm en s) : Calm en (updRed f s) :=
  .frame h

theorem Calm.enterShards {xs s} (h : Calm en s) : Calm en (enterShards xs s) :=
  .updRed h

theorem Calm.dropShards {didx s} (h : Calm en s) : Calm en (dropShards didx s) :=
  .updRed h

theorem Calm.setOutstanding {didx s} (h : Calm en s) : Calm en (setOutstanding didx s) := by
  unfold Machine.setOutstanding
  exact .updAd h

theorem Calm.releaseLater {adid one s} (h : Calm en s) : Calm en (releaseLater adid one s) :=
  .updAd h

theorem Calm.invalidateDesc {didx reason s} (h : Calm en s) : Calm en (invalidateDesc didx reason s) := by
  unfold Machine.invalidateDesc
  extract_lets _ s1 s2
  have h2 : Calm en s2 := .releaseLater <| .setDesc h
  split
  · exact h
  · split
    · exact h2
    · exact .finish <| .frame h2

theorem Calm.invalidateDescs {reason f s} (h : Calm en s) : Calm en (invalidateDescs reason f s) :=
  .foldl h fun _ _ h => .invalidateDesc h

theorem Stays.execAdapterCreate {host s} (h : Calm en s) : Stays en (execAdapterCreate host s) := by
  unfold Machine.execAdapterCreate
  refine .onHead h fun _ _ h => ?_
  extract_lets _ s1
  have h1 : Calm en s1 := .countHostRead h
  split
  · exact .finish <| .countGcmFail h
  · exact .ite (.finish h1) <| .ite (.finish h1) <| .ite (.finish h1) <| .ite (.finish h1) <|
      .ite (.finish h1) (.finish <| .setDesc h1)

theorem Stays.execAdapterState {s} (h : Calm en s) : Stays en (execAdapterState s) := by
  unfold Machine.execAdapterState
  refine .onHead h fun c s h => ?_
  split
  · exact .finish h
  · next i _ =>
    extract_lets _ s1
    have h1 : Calm en s1 := by
      unfold s1
      split
      · exact h
      · exact .finish h
    exact .ite (.finish h) (.ite (.finish h) (.takeUp <| .frame h1))

theorem Stays.execAdapterDestroy {s} (h : Calm en s) : Stays en (execAdapterDestroy s) := by
  unfold Machine.execAdapterDestroy
  refine .onHead h fun _ _ h => ?_
  split
  · exact .finish h
  · exact .takeUp <| .updAd <| .releaseLater h

theorem Stays.execAdapterDestroyFree {didx s} (h : Calm en s) : Stays en (execAdapterDestroyFree didx s) := by
  unfold Machine.execAdapterDestroyFree
  extract_lets _ _ s1 s2
  have h1 : Calm en s1 := by
    unfold s1
    split
    · exact h
    · exact .finish h
  have h2 : Calm en s2 := .dropShards <| .setDesc <| .frame h1
  exact .ite (.done h) (.done <| .foldl h2 fun _ _ h => .finish h)

theorem Stays.execAdapterClaim {s} (h : Calm en s) : Stays en (execAdapterClaim s) := by
  unfold Machine.execAdapterClaim
  refine .onHead h fun _ _ h => ?_
  split
  · exact .finish h
  · exact .ite (.finish h) (.takeUp <| .send <| .updAd h)

theorem Stays.execSlotClaimPacket {stamp sna seq adid layer slot keySlot kgen share s} (h : Calm en s) :
    Stays en (execSlotClaimPacket stamp sna seq adid layer slot keySlot kgen share s) :=
  .ite (.done h) (.done <| .send <| .updAd h)

theorem Stays.execAdapterRelease {s} (h : Calm en s) : Stays en (execAdapterRelease s) := by
  unfold Machine.execAdapterRelease
  refine .onHead h fun _ _ h => ?_
  split
  · exact .finish h
  · exact .ite (.finish h) (.finish <| .releaseLater h)

theorem Calm.applyRelease {r s} (h : Calm en s) : Calm en (applyRelease r s) :=
  .updAd h

theorem Calm.commitExperts {s} (h : Calm en s) : Calm en (commitExperts s) := by
  unfold Machine.commitExperts
  extract_lets
  refine .foldl (.updAd <| .updAd <| .foldl h (fun _ _ h => .applyRelease h)) fun _ _ h => ?_
  extract_lets
  split
  · exact .updAd h
  · exact .finish <| .updAd h

theorem Calm.setCaddy {die c s} (h : Calm en s) : Calm en (setCaddy die c s) :=
  .frame h

theorem Calm.dropCaddy {f s} (h : Calm en s) : Calm en (dropCaddy f s) :=
  .foldl h fun _ _ h => .setCaddy h

theorem Calm.dropStale {f s} (h : Calm en s) : Calm en (dropStale f s) :=
  .dropCaddy <| .foldl h fun _ _ h => .ite h (.count h)

theorem Calm.zeroCaddySlot {slot s} (h : Calm en s) : Calm en (zeroCaddySlot slot s) :=
  .foldl h fun _ _ h => .setCaddy h

theorem Calm.dropPage {d r s} (h : Calm en s) : Calm en (dropPage d r s) := by
  unfold Machine.dropPage
  exact .dropStale h

/-! ### Machine/Frames.lean -/

theorem Calm.updDict {f s} (h : Calm en s) : Calm en (updDict f s) :=
  .frame h

theorem Calm.acceptFrame {path source bs s} (h : Calm en s) : Calm en (acceptFrame path source bs s) :=
  .ite (.updDict h) (.updDict h)

/-! ### Machine/Links.lean -/

theorem Calm.updPort {p f s} (h : Calm en s) : Calm en (updPort p f s) :=
  .frame h

theorem Calm.fabricFault {f s} (h : Calm en s) : Calm en (fabricFault f s) :=
  .frame h

theorem Calm.floodLinkState {s} (h : Calm en s) : Calm en (floodLinkState s) := by
  unfold Machine.floodLinkState
  exact .send h

theorem Calm.setPort {p st s} (h : Calm en s) : Calm en (setPort p st s) := by
  unfold Machine.setPort
  extract_lets _ _ s1 _ s2 s3
  have h3 : Calm en s3 := .trace <| .frame <| .updPort h
  exact .ite h <| .ite (.floodLinkState h3) h3

theorem Calm.clearSession {p s} (h : Calm en s) : Calm en (clearSession p s) :=
  .updPort h

theorem Calm.sendHello {p s} (h : Calm en s) : Calm en (sendHello p s) :=
  .send h

theorem Stays.execDownExit {port signal s} (h : Calm en s) : Stays en (execDownExit port signal s) := by
  unfold Machine.execDownExit
  exact .onlyIf h fun _ h => .setPort <| .ite (.untilClock h) (.untilClock <| .untilClock h)

theorem Stays.execFecLock {port goodErrorRatio s} (h : Calm en s) : Stays en (execFecLock port goodErrorRatio s) :=
  .onlyIf h fun _ h => .setPort h

theorem Stays.execTrainingTimeout {port s} (h : Calm en s) : Stays en (execTrainingTimeout port s) := by
  unfold Machine.execTrainingTimeout
  exact .onlyIf h fun _ h => .setPort <| .untilClock h

theorem Calm.keyingFails {p s} (h : Calm en s) : Calm en (keyingFails p s) :=
  .updPort <| .setPort h

theorem Stays.execLinkSessionExchange {port partnerSna certs nonce closing s} (h : Calm en s) :
    Stays en (execLinkSessionExchange port partnerSna certs nonce closing s) := by
  unfold Machine.execLinkSessionExchange
  extract_lets
  refine .onlyIf h fun _ h => ?_
  extract_lets keys s1
  have h1 : Calm en s1 := .foldl (.frame h) fun _ _ h => .send h
  split
  · exact .keyingFails h
  · cases keys with
    | none => exact .keyingFails h1
    | some k => exact .sendHello <| .setPort <| .updPort <| .clearSession h1

theorem Stays.execKeyingTimeout {port failed s} (h : Calm en s) : Stays en (execKeyingTimeout port failed s) := by
  unfold Machine.execKeyingTimeout
  exact .onlyIf h fun _ h => .keyingFails <| .ite h (.untilClock h)

theorem Stays.execHello {port sna partnerPort digest s} (h : Calm en s) :
    Stays en (execHello port sna partnerPort digest s) := by
  unfold Machine.execHello
  extract_lets
  split
  · exact .ite (.done <| .keyingFails h) (.done <| .setPort <| .updPort h)
  · exact .ite (.done <| .setPort <| .updPort h) (.done h)
  · exact .done h

theorem Stays.execHelloResend {port s} (h : Calm en s) : Stays en (execHelloResend port s) := by
  unfold Machine.execHelloResend
  exact .onlyIf h fun _ h => .sendHello <| .updPort <| .untilClock h

theorem Calm.retrain {p s} (h : Calm en s) : Calm en (retrain p s) := by
  unfold Machine.retrain
  exact .ite (.setPort <| .updPort <| .setPort h) (.updPort <| .setPort h)

theorem Stays.execLinkDegrade {port lockLost uncorrectable replays s} (h : Calm en s) :
    Stays en (execLinkDegrade port lockLost uncorrectable replays s) := by
  unfold Machine.execLinkDegrade
  exact .onlyIf (.count h) fun _ h => .retrain h

theorem Calm.resetPort {p s} (h : Calm en s) : Calm en (resetPort p s) := by
  unfold Machine.resetPort
  exact .updPort <| .clearSession <| .setPort h

theorem Stays.execPortReset {port s} (h : Calm en s) : Stays en (execPortReset port s) :=
  .onlyIf h fun _ h => .resetPort h

theorem Calm.frameOut {nak p net payload s} (h : Calm en s) : Calm en (frameOut nak p net payload s) := by
  unfold Machine.frameOut
  extract_lets
  split
  · exact h
  · exact .emit <| .count <| .count <| .updPort h

theorem Calm.sendFrame {p net payload s} (h : Calm en s) : Calm en (sendFrame p net payload s) := by
  unfold Machine.sendFrame
  exact .ite h (.count <| .frameOut <| .updPort h)

theorem Calm.emptyFrame {nak p s} (h : Calm en s) : Calm en (emptyFrame nak p s) :=
  .frameOut h

theorem Calm.replayFrom {p keep s} (h : Calm en s) : Calm en (replayFrom p keep s) := by
  unfold Machine.replayFrom
  exact .foldl (.count <| .frame <| .updPort h) fun _ _ h => .emit h

theorem Calm.sendNak {p s} (h : Calm en s) : Calm en (sendNak p s) :=
  .count <| .emptyFrame h

theorem Calm.authFailure {p s} (h : Calm en s) : Calm en (authFailure p s) := by
  unfold Machine.authFailure
  extract_lets _ _ s1 s2
  have h2 : Calm en s2 := .sendNak <| .count <| .frame h
  exact .ite (.fabricFault <| .updPort <| .clearSession <| .setPort h2) (.updPort h2)

theorem Calm.applyLink {p hf s} (h : Calm en s) : Calm en (applyLink p hf s) := by
  unfold Machine.applyLink
  exact .ite (.replayFrom <| .updPort <| .updPort h) (.updPort <| .updPort h)

theorem Stays.execLinkFrame {port header net payload tag fecClean s} (h : Calm en s) :
    Stays en (execLinkFrame port header net payload tag fecClean s) := by
  unfold Machine.execLinkFrame
  extract_lets _ _ _ s1 s2 s3
  have h3 : Calm en s3 := .count <| .count <| .applyLink <| .updPort h
  refine .ite (.done h) <| .ite (.done <| .sendNak h) ?_
  split
  · exact .done <| .authFailure h
  · exact .ite (.done <| .authFailure h) <| .ite (.done h3) (.done <| .frame h3)

theorem Stays.execReplayTimeout {port s} (h : Calm en s) : Stays en (execReplayTimeout port s) := by
  unfold Machine.execReplayTimeout
  exact .onlyIf h fun _ h => .replayFrom <| .untilClock h

theorem Stays.execRekey {port receive key s} (h : Calm en s) : Stays en (execRekey port receive key s) := by
  unfold Machine.execRekey
  exact .onlyIf h fun _ h => .ite (.updPort h) (.updPort <| .ite h (.untilClock h))

theorem Stays.execCreditFrame {port s} (h : Calm en s) : Stays en (execCreditFrame port s) := by
  unfold Machine.execCreditFrame
  exact .onlyIf h fun _ h => .foldl h fun _ _ h => .emptyFrame h

theorem Stays.execCmisPoll {port monitors alarms s} (h : Calm en s) : Stays en (execCmisPoll port monitors alarms s) := by
  unfold Machine.execCmisPoll
  extract_lets
  refine .onlyIf h fun _ h => ?_
  split
  · exact .updPort <| .ite h (.fabricFault h)
  · exact .updPort h

theorem Stays.execCmisInterrupt {alarms s} (h : Calm en s) : Stays en (execCmisInterrupt alarms s) :=
  .done <| .foldl h fun _ _ h => .ite (.updPort h) h

/-! ### Machine/Wave.lean -/

theorem Calm.actOnWave {p s} (h : Calm en s) : Calm en (actOnWave p s) := by
  unfold Machine.actOnWave
  exact .trace <| .frame h

theorem Calm.foundTime {f s} (h : Calm en s) : Calm en (foundTime f s) :=
  .ite h (.frame h)

/-- The steep that a module in Listen takes from the wave `p`, none where the wave is not followed. -/
def listenSteep (p : BitVec 512) (s : State) : Option Steep :=
  let f := waveFields p
  let st := s.steep
  let first : Steep :=
    { st with k := f.steep, len := cfg s 0x4010 1, lenNext := f.lk2, wavesIn := 1,
              b := f.bk2 - BitVec.ofNat 64 (2 * cfg s 0x4010 1 * cyclesPerUs) }
  match st.wavesIn, st.wave.map waveFields with
  | 0, _ => some first
  | 1, some q =>
    if f.steep = q.steep then none
    else if f.steep = q.steep + 1 then
      some { st with k := f.steep, b := q.bk2 - BitVec.ofNat 64 (cfg s 0x4010 1 * cyclesPerUs),
                     len := cfg s 0x4010 1, lenNext := q.lk2, wavesIn := 2 }
    else some first
  | 1, none => some first
  | n, none => if f.steep = st.k then some { st with wavesIn := n + 1 } else some first
  | _, some _ => if f.steep = st.k then none else some first

theorem listenSteep_eq {p s st} (h : listenSteep p s = some st) :
    st = { s.steep with k := st.k, b := st.b, len := st.len, lenNext := st.lenNext, wavesIn := st.wavesIn } := by
  unfold listenSteep at h
  dsimp only at h
  split at h
  · cases h
    rfl
  · split at h
    · cases h
    · split at h
      · cases h
        rfl
      · cases h
        rfl
  · cases h
    rfl
  · split at h
    · cases h
      rfl
    · cases h
      rfl
  · split at h
    · cases h
    · cases h
      rfl

theorem listenSteep_engine {p s st} (h : listenSteep p s = some st) :
    (st.stretch, st.engine, st.exits) = (s.steep.stretch, s.steep.engine, s.steep.exits) :=
  (congrArg (fun st : Steep => (st.stretch, st.engine, st.exits)) (listenSteep_eq h) :)

theorem followWave_eq (p : BitVec 512) (s : State) : followWave p s =
    if !s.timeKnown then s
    else if ahead s.time ((waveFields p).bk2 - BitVec.ofNat 64 (listenLen (waveFields p) s * cyclesPerUs) - 2000) ≠ 0 then
      { s with steep := { s.steep with wavesIn := 0, wave := none, lastWave := s.clock } }
    else match listenSteep p s with
    | none => s
    | some st => actOnWave p { s with steep := { st with
        step := (waveFields p).step, sidx := (waveFields p).sidx, rep := (waveFields p).rep } } := rfl

theorem Calm.followWave {p s} (h : Calm en s) : Calm en (followWave p s) := by
  rw [followWave_eq]
  refine .ite h <| .ite (.frame h) ?_
  split
  · exact h
  next hv => exact .actOnWave <| (.frame h (listenSteep_engine hv :))

theorem Calm.updMaster {f s} (h : Calm en s) : Calm en (updMaster f s) :=
  .frame h

theorem Calm.takeContribution {p s} (h : Calm en s) : Calm en (takeContribution p s) := by
  unfold Machine.takeContribution
  exact .ite h (.updMaster h)

theorem Stays.execContribution {pkt s} (h : Calm en s) : Stays en (execContribution pkt s) :=
  .onlyIf h fun _ h => .takeContribution h

theorem Stays.execSnapshotRequest {id s} (h : Calm en s) : Stays en (execSnapshotRequest id s) :=
  .onlyIf h fun _ h => .updMaster h

theorem Stays.execTimeSync {s} (h : Calm en s) : Stays en (execTimeSync s) := by
  unfold Machine.execTimeSync
  extract_lets s1 s2
  have h1 : Calm en s1 := by
    unfold s1
    split
    · exact .untilClock h
    · exact h
  exact .done <| .foldl (.frame h1) fun _ _ h => .send h

theorem Calm.stepTime {t s} (h : Calm en s) : Calm en (stepTime t s) :=
  .frame h

theorem Stays.execListenNoWaveRecord {s} (h : Calm en s) : Stays en (execListenNoWaveRecord s) :=
  .onlyIf h fun _ h => .frame <| .engineRecord <| .untilClock h

theorem Calm.setTable {t s} (h : Calm en s) : Calm en (setTable t s) :=
  .foldl h fun _ _ h => .setBoth h

/-! ### Machine/Routing.lean -/

theorem Calm.computeRoutes {s} (h : Calm en s) : Calm en (computeRoutes s) := by
  unfold Machine.computeRoutes
  exact .ite (.fabricFault <| .frame h) (.frame h)

theorem Calm.setDiscovery {d s} (h : Calm en s) : Calm en (setDiscovery d s) :=
  .frame h

theorem Stays.execDiscoveryStart {s} (h : Calm en s) : Stays en (execDiscoveryStart s) :=
  .onlyIf h fun _ h => .setDiscovery h

theorem Calm.enterFlood {s} (h : Calm en s) : Calm en (enterFlood s) := by
  unfold Machine.enterFlood
  exact .floodLinkState <| .frame <| .setDiscovery h

theorem Stays.execLinksDone {s} (h : Calm en s) : Stays en (execLinksDone s) := by
  unfold Machine.execLinksDone
  extract_lets
  split
  · exact .done h
  · split
    · exact .done <| .enterFlood h
    · exact .ite (.done <| .enterFlood <| .untilClock h) (.done h)

theorem Stays.execLinksTimeout {s} (h : Calm en s) : Stays en (execLinksTimeout s) :=
  .onlyIf h fun _ h => .startupStop <| .fabricFault <| .setDiscovery <| .untilClock h

theorem Stays.execLinkStateRecord {sna ports gen digest0 digest1 identity s} (h : Calm en s) :
    Stays en (execLinkStateRecord sna ports gen digest0 digest1 identity s) := by
  unfold Machine.execLinkStateRecord
  exact .onlyIf h fun _ h => .send <| .frame h

theorem Stays.execFloodQuiet {s} (h : Calm en s) : Stays en (execFloodQuiet s) :=
  .onlyIf h fun _ h => .ite (.setDiscovery <| .untilClock h) (.fabricFault <| .setDiscovery <| .untilClock h)

theorem Calm.defaultTable {s} (h : Calm en s) : Calm en (defaultTable s) := by
  unfold Machine.defaultTable
  exact .setTable h

theorem Stays.execLinkStateRefresh {s} (h : Calm en s) : Stays en (execLinkStateRefresh s) :=
  .onlyIf h fun _ h => .floodLinkState <| .frame <| .untilClock h

theorem Calm.ownHeader {net payload s} (h : Calm en s) : Calm en (ownHeader net payload s).2 := by
  unfold Machine.ownHeader
  dsimp only
  exact .stamp h

theorem Calm.memberStamp {net s} (h : Calm en s) : Calm en (memberStamp net s) := by
  unfold Machine.memberStamp
  exact .ite (.frame h) h

theorem StaysSome.routePacket {own port net payload s} (h : Calm en s) :
    StaysSome en (routePacket own port net payload s) := by
  unfold Machine.routePacket
  extract_lets _ _ _ _ _ _ _ bumpFab pay _ _ ports ports'
  have hp {s} (h : Calm en s) : Calm en (pay s) := by
    unfold pay
    split
    · exact .ite (.frame h) h
    · exact h
  refine .ite (.some <| .frame h) <| .ite (.some <| .frame h) <| .ite .none <| .ite ?_ <| .ite ?_ <|
    .ite (.some <| .frame h) ?_
  · have hs : Calm en (if own then s else Machine.memberStamp net s) := .ite h (.memberStamp h)
    exact .ite (.some <| hp <| .foldl hs fun _ _ h => .sendFrame h) .none
  · split
    · exact .ite (.some <| .frame h) (.some h)
    · extract_lets s1
      have h1 : Calm en s1 := .ite h (.histSample h)
      exact .some <| .ite (.acceptFrame h1) h1
  · split
    · exact .some <| .frame h
    · exact .ite (.some <| hp <| .sendFrame h) .none

theorem Calm.lanesReady {port s r} (h : Calm en s) (hr : r ∈ lanesReady port s) : Calm en r.2.2 := by
  obtain ⟨v, -, hv⟩ := List.mem_filterMap.mp hr
  split at hv
  · cases hv
  · obtain ⟨t, ht, rfl⟩ := Option.map_eq_some_iff.mp hv
    exact StaysSome.routePacket h t ht

theorem Stays.execPacketRoute {port own s} (h : Calm en s) : Stays en (execPacketRoute port own s) := by
  unfold Machine.execPacketRoute
  split
  · exact .done h
  · split
    · exact .done <| .getD h <| .routePacket (.ownHeader h)
    · extract_lets
      split
      · exact .done h
      · split
        · exact .done h
        next hr => exact .done <| .frame <| .updPort <| .lanesReady h (List.mem_of_find?_eq_some hr)

/-! ### Machine/Dap.lean -/

theorem Calm.deliver {path source bs s} (h : Calm en s) : Calm en (deliver path source bs s) :=
  .ite (.emit h) <| .ite (.ite (.sendMsix <| .emit <| .updDict h) (.emit <| .updDict h)) (.send h)

theorem Calm.arriveFrame {path source bs s} (h : Calm en s) : Calm en (arriveFrame path source bs s) := by
  unfold Machine.arriveFrame
  exact .ite (.acceptFrame h) <| .ite (.send <| .updDict h) (.updDict h)

theorem Stays.execMgmtDatagram {source port udpPort checksumGood fragment ipBytes frame s} (h : Calm en s) :
    Stays en (execMgmtDatagram source port udpPort checksumGood fragment ipBytes frame s) :=
  .onlyIf h fun _ h => .arriveFrame h

theorem Stays.execNeighborSolicitation {source target s} (h : Calm en s) :
    Stays en (execNeighborSolicitation source target s) :=
  .onlyIf h fun _ h => .emit h

theorem Stays.execEchoRequest {source target data s} (h : Calm en s) : Stays en (execEchoRequest source target data s) :=
  .onlyIf h fun _ h => .emit h

theorem Stays.execManagementLinkChange {link s} (h : Calm en s) : Stays en (execManagementLinkChange link s) :=
  .onlyIf h fun _ h => .updDict h

theorem Stays.execMailboxGo {length s} (h : Calm en s) : Stays en (execMailboxGo length s) :=
  .onlyIf h fun _ h => .ite (.updDict h) <| .ite (.updDict h) (.arriveFrame <| .updDict h)

theorem Stays.execForwardedResponse {frame s} (h : Calm en s) : Stays en (execForwardedResponse frame s) := by
  unfold Machine.execForwardedResponse
  extract_lets
  split
  · exact .done h
  · exact .done <| .deliver <| .updDict h

theorem Calm.updSession {id f s} (h : Calm en s) : Calm en (updSession id f s) :=
  .updDict h

theorem Calm.endSession {id s} (h : Calm en s) : Calm en (endSession id s) :=
  .updDict h

theorem Stays.execSessionIdleTimeout {session s} (h : Calm en s) : Stays en (execSessionIdleTimeout session s) := by
  unfold Machine.execSessionIdleTimeout
  split
  · exact .done h
  · exact .ite (.done h) (.done <| .endSession <| .ite h (.untilClock h))

theorem Calm.failExchange {id s} (h : Calm en s) : Calm en (failExchange id s) :=
  .updDict <| .endSession h

theorem Stays.execExchangeTimeout {session s} (h : Calm en s) : Stays en (execExchangeTimeout session s) := by
  unfold Machine.execExchangeTimeout
  split
  · exact .done h
  · exact .ite (.done h) (.done <| .failExchange <| .untilClock h)

theorem Calm.respond {f key status detail count body s} (h : Calm en s) :
    Calm en (respond f key status detail count body s).2 := by
  unfold Machine.respond
  exact .deliver h

theorem Calm.dropFrame {f s} (h : Calm en s) : Calm en (dropFrame f s) :=
  .ite (.updDict h) h

theorem Calm.failTag {x s} (h : Calm en s) : Calm en (failTag x s) := by
  unfold Machine.failTag
  exact .ite (.endSession h) (.updSession h)

theorem Calm.takeFrame {f s} (h : Calm en s) : Calm en (takeFrame f s).2 := by
  unfold Machine.takeFrame
  dsimp only
  split
  · exact .dropFrame <| .updDict h
  · split
    · exact .dropFrame <| .updDict h
    · split
      · exact .dropFrame <| .updDict <| .failTag h
      · split
        · exact .deliver <| .updSession h
        · split
          · exact .dropFrame <| .updDict h
          · dsimp only
            exact .updDict <| .updSession h

theorem Calm.answer {f x status detail count body s} (h : Calm en s) :
    Calm en (answer f x status detail count body s) := by
  unfold Machine.answer
  split
  next hv => exact .updSession <| .of_snd hv <| .respond h

theorem Calm.purgeFrames {n s} (h : Calm en s) : Calm en (purgeFrames n s) := by
  induction n generalizing s with
  | zero => exact h
  | succ n ih =>
    unfold Machine.purgeFrames
    split
    · exact h
    · refine .ite h <| ih ?_
      split
      next hv => exact .answer <| .of_snd hv <| .takeFrame <| .updDict h
      next hv => exact .of_snd hv <| .takeFrame <| .updDict h

theorem Calm.nextFrame {op s f t} (h : Calm en s) (hv : nextFrame op s = some (f, t)) : Calm en t := by
  unfold Machine.nextFrame at hv
  dsimp only at hv
  split at hv
  · cases hv
  · split at hv
    · cases hv
      exact .updDict <| .purgeFrames h
    · cases hv

theorem Stays.execClose {s} (h : Calm en s) : Stays en (execClose s) := by
  unfold Machine.execClose
  split
  · exact .done h
  next hv =>
    split
    next hw => exact .done <| .of_snd hw <| .takeFrame <| .nextFrame h hv
    next hw =>
      have h1 := Calm.of_snd hw <| .takeFrame <| .nextFrame h hv
      exact .ite (.done <| .answer h1) (.done <| .endSession <| .answer h1)

theorem Calm.sendMessage {f num msg s} (h : Calm en s) : Calm en (sendMessage f num msg s) := by
  unfold Machine.sendMessage
  exact .foldl h fun _ _ h => .respond h

theorem Calm.takeMessage1 {f x msg s} (h : Calm en s) : Calm en (takeMessage1 f x msg s) := by
  unfold Machine.takeMessage1
  exact .ite (.respond <| .failExchange h) (.sendMessage <| .updSession <| .frame h)

theorem Calm.takeMessage3 {f x msg s} (h : Calm en s) : Calm en (takeMessage3 f x msg s) := by
  unfold Machine.takeMessage3
  exact .ite (.respond <| .failExchange h) (.sendMessage <| .updSession h)

theorem Stays.execXchg {s} (h : Calm en s) : Stays en (execXchg s) := by
  unfold Machine.execXchg
  split
  · exact .done h
  next hv =>
    have h0 := h.nextFrame hv
    extract_lets
    refine .ite (.done <| .respond h0) <| .ite (.done <| .respond h0) ?_
    split
    · split
      · exact .done <| .takeMessage1 <| .updSession h0
      · exact .done <| .updSession h0
    · refine .ite (.done <| .respond h0) ?_
      split
      · exact .done <| .takeMessage1 <| .updDict h0
      · exact .done <| .updDict h0
    · split
      · exact .done <| .takeMessage3 <| .updSession h0
      · exact .done <| .updSession h0
    · exact .done <| .respond h0

theorem Stays.execStagingLock {session take s} (h : Calm en s) : Stays en (execStagingLock session take s) :=
  .onlyIf h fun _ h => .updDict h

theorem Stays.execStagingLockTimeout {s} (h : Calm en s) : Stays en (execStagingLockTimeout s) := by
  unfold Machine.execStagingLockTimeout
  split
  · exact .done h
  · exact .done <| .updDict <| .untilClock h

theorem Stays.execManagerKeyListWrite {session sub value s} (h : Calm en s) :
    Stays en (execManagerKeyListWrite session sub value s) := by
  unfold Machine.execManagerKeyListWrite
  exact .onlyIf h fun _ h => .updDict h

/-! ### Machine/Custody.lean -/

theorem Calm.updCust {f s} (h : Calm en s) :
    Calm en (updCust f s) :=
  .frame h

theorem Calm.served {id s} (h : Calm en s) : Calm en (served id s) :=
  .updCust h

theorem Calm.refuseImport {id status order s} (h : Calm en s) : Calm en (refuseImport id status order s) :=
  .updCust <| .finish h

theorem Calm.installBaseKey {kind id m s} (h : Calm en s) : Calm en (installBaseKey kind id m s) :=
  .frame h

theorem Stays.execKeyImport {host s} (h : Calm en s) : Stays en (execKeyImport host s) := by
  unfold Machine.execKeyImport
  refine .onHead h fun c s h => ?_
  extract_lets _ s1
  have h1 : Calm en s1 := .served h
  clear_value s1
  split
  · exact .finish <| .countGcmFail h1
  · extract_lets s2
    have h2 : Calm en s2 := .countHostRead h1
    clear_value s2
    refine .ite (.refuseImport h2) <| .ite (.refuseImport h2) <| .ite (.refuseImport h2) <|
      .ite (.refuseImport h2) <| .ite (.refuseImport h2) ?_
    split
    · exact .refuseImport h2
    · extract_lets
      refine .ite (.refuseImport h2) <| .ite (.finish <| .installBaseKey h2) <| .ite (.refuseImport h2) <|
        .ite (.refuseImport h2) <| .ite (.refuseImport h2) ?_
      exact .takeUp <| .updCust h2

theorem Stays.execKeyImportEffect {slot s} (h : Calm en s) : Stays en (execKeyImportEffect slot s) := by
  unfold Machine.execKeyImportEffect
  split
  · exact .done h
  · extract_lets
    split
    · exact .done h
    · split
      · exact .done <| .refuseImport <| .updCust h
      · split
        · exact .done <| .refuseImport <| .updCust h
        · exact .done <| .finish <| .hostWrite <| .measure <| .setSlot <| .updCust h

theorem Stays.execKeyRemove {s} (h : Calm en s) : Stays en (execKeyRemove s) := by
  refine .onHead h fun _ _ h => ?_
  extract_lets s1
  have h1 : Calm en s1 := .served h
  exact .ite (.finish h1) <| .ite (.finish h1) <| .ite (.finish h1) (.takeUp <| .updCust h1)

theorem Calm.endSweeps {k s} (h : Calm en s) : Calm en (endSweeps k s) :=
  .foldl h fun _ _ h => .finish h

theorem Calm.removeSlot {n s} (h : Calm en s) : Calm en (removeSlot n s) := by
  unfold Machine.removeSlot
  exact .measure <| .kvRemoved <| .invalidateDescs <| .zeroCaddySlot <| .setSlot <| .endSweeps h

theorem Stays.execKeyRemoveEffect {slot s} (h : Calm en s) : Stays en (execKeyRemoveEffect slot s) := by
  unfold Machine.execKeyRemoveEffect
  split
  · exact .done h
  · extract_lets
    split
    · exact .done h
    · split
      · exact .done <| .finish <| .updCust h
      · exact .ite (.done <| .finish <| .updCust h) (.done <| .finish <| .removeSlot <| .updCust h)

theorem Stays.execKeySweep {s} (h : Calm en s) : Stays en (execKeySweep s) :=
  .onHead h fun _ _ h => .ite (.finish h) <| .ite (.finish h) <| .ite (.finish h) (.takeUp <| .setSlot h)

theorem Calm.sweepOne {n b s} (h : Calm en s) : Calm en (sweepOne n b s) := by
  unfold Machine.sweepOne
  extract_lets
  split
  · exact h
  · exact .ite h (.logMem <| .count <| .setBlock <| .writeInBlock <| .setBlock <| .xtsRead <| .verifyBlock h)

theorem Calm.sweepPace {s} (h : Calm en s) : Calm en (sweepPace s) := by
  unfold Machine.sweepPace
  exact .updCust <| .untilClock h

theorem Stays.execSweepBlock {slot s} (h : Calm en s) : Stays en (execSweepBlock slot s) := by
  unfold Machine.execSweepBlock
  extract_lets
  split
  · exact .done h
  · split
    · exact .done <| .setSlot <| .sweepOne <| .sweepPace h
    · extract_lets s0
      have h0 : Calm en s0 := .sweepOne <| .sweepPace h
      exact .ite (.done <| .finish <| .setSlot h0) (.done <| .setSlot h0)
    · exact .done <| .finish <| .setSlot h
    · exact .done h

theorem Stays.execRotationCutover {slot s} (h : Calm en s) : Stays en (execRotationCutover slot s) := by
  unfold Machine.execRotationCutover
  exact .onlyIf h fun _ h => .kvRotated <| .setSlot h

theorem Stays.execScrubBlock {slot s} (h : Calm en s) : Stays en (execScrubBlock slot s) := by
  unfold Machine.execScrubBlock
  extract_lets
  split
  · exact .done h
  · extract_lets
    split
    · exact .done h
    · exact .done <| .setSlot <| .logMem <| .count <| .writeInBlock <| .sweepPace h

theorem Stays.execScrubComplete {slot s} (h : Calm en s) : Stays en (execScrubComplete slot s) := by
  unfold Machine.execScrubComplete
  exact .onlyIf h fun _ h => .kvScrubbed <| .setSlot h

theorem Stays.execCustodyRequestTimeout {s} (h : Calm en s) : Stays en (execCustodyRequestTimeout s) := by
  unfold Machine.execCustodyRequestTimeout
  split
  · exact .done h
  · extract_lets s0
    have h0 : Calm en s0 := .untilClock <| .updCust h
    split
    · exact .done h0
    · exact .done <| .finish h0

theorem Stays.execAttestationRequest {nonce slot s} (h : Calm en s) : Stays en (execAttestationRequest nonce slot s) :=
  .onlyIf h fun _ h => .updCust <| .updCust h

theorem Stays.execEventLogRead {index s} (h : Calm en s) : Stays en (execEventLogRead index s) := by
  unfold Machine.execEventLogRead
  split
  · exact .done h
  · exact .done <| .updCust h

theorem Calm.zeroSealed {s} (h : Calm en s) : Calm en (zeroSealed s) := by
  unfold Machine.zeroSealed
  exact .frame (.frame (.dropCaddy h))

theorem Calm.zeroKeys {s} (h : Calm en s) : Calm en (zeroKeys s) := by
  unfold Machine.zeroKeys
  extract_lets s1
  have h1 : Calm en s1 := .frame h
  exact .foldl (.foldl h1 fun _ _ h => .clearSession <| .ite (.setPort h) h) fun _ _ h => .updPart h

theorem Stays.execSealBreakArm {s} (h : Calm en s) : Stays en (execSealBreakArm s) :=
  .onlyIf h fun _ h => .updCust h

theorem Stays.execSealBreak {path s} (h : Calm en s) : Stays en (execSealBreak path s) := by
  unfold Machine.execSealBreak
  split
  · exact .done h
  · extract_lets
    split
    · exact .done h
    · exact .done <| .updCust <| .measure <| .foldl (.zeroSealed <| .zeroKeys <| .foldl h (fun _ _ h =>
        .endSweeps h)) fun _ _ h => .setSlot h

/-! ### Machine/Stop.lean -/

theorem Calm.updBoot {f s} (h : Calm en s) : Calm en (updBoot f s) :=
  .frame h

theorem Calm.updLeaf {f s} (h : Calm en s) : Calm en (updLeaf f s) :=
  .frame h

theorem Calm.setRec {hf r s} (h : Calm en s) : Calm en (setRec hf r s) :=
  .updLeaf h

theorem Calm.leafPowerLoss {s} (h : Calm en s) : Calm en (leafPowerLoss s) := by
  unfold Machine.leafPowerLoss
  exact .updLeaf h

theorem Calm.shutdownCommands {s} (h : Calm en s) : Calm en (shutdownCommands s) := by
  unfold Machine.shutdownCommands
  exact .frame (.ite h (.foldl h fun _ _ h => .finish h))

theorem Calm.removeAllSlots {s} (h : Calm en s) : Calm en (removeAllSlots s) :=
  .foldl h fun _ _ h => .removeSlot h

/-! ### Machine/Tables.lean -/

theorem Calm.blockRestored {s} (h : Calm en s) : Calm en (blockRestored s) :=
  .frame h

/-! ### Machine/Hbm.lean -/

theorem Stays.execPatrolRead {addr env s} (h : Calm en s) : Stays en (execPatrolRead addr env s) := by
  unfold Machine.execPatrolRead
  exact .onlyIf h fun _ h => .verifyBlock <| .count <| .frame h

theorem Stays.execRowRepair {stack pc bank row s} (h : Calm en s) : Stays en (execRowRepair stack pc bank row s) := by
  unfold Machine.execRowRepair
  exact .onlyIf h fun _ h => .ite (.retirePc <| .updStack h) (.rasEvent <| .frame <| .updStack h)

theorem Calm.beginFill {st l old s} (h : Calm en s) : Calm en (beginFill st l old s) := by
  unfold Machine.beginFill
  split
  · exact .updStack h
  · exact .updStack h

theorem Stays.execPcFill {stack s} (h : Calm en s) : Stays en (execPcFill stack s) := by
  unfold Machine.execPcFill
  extract_lets
  split
  · exact .done <| .beginFill <| .updStack h
  · exact .done h

theorem Stays.execFillComplete {stack s} (h : Calm en s) : Stays en (execFillComplete stack s) := by
  unfold Machine.execFillComplete
  extract_lets
  split
  · exact .done h
  · exact .onlyIf h fun _ h => .count <| .updStack h

theorem Stays.execFillFailure {stack s} (h : Calm en s) : Stays en (execFillFailure stack s) := by
  unfold Machine.execFillFailure
  extract_lets
  split
  · exact .done h
  · exact .done <| .beginFill <| .rasEvent <| .frame <| .updStack h

theorem Stays.execLogicalPcLost {stack s} (h : Calm en s) : Stays en (execLogicalPcLost stack s) := by
  unfold Machine.execLogicalPcLost
  extract_lets
  split
  · exact .done h
  · refine .onlyIf h fun s h => ?_
    extract_lets _ _ s1 _ s2
    have h1 : Calm en s1 := .updStack h
    have h2 : Calm en s2 := .frame <| .frame h1
    exact .rasEvent h2

/-! ### Machine/Partition.lean -/

theorem Calm.setPartState {p v s} (h : Calm en s) : Calm en (setPartState p v s) :=
  .ite h (.trace <| .updPart h)

theorem Calm.appear {p s} (h : Calm en s) : Calm en (appear p s) :=
  .ite (.setPartState h) h

theorem Calm.tdiError {p s} (h : Calm en s) : Calm en (tdiError p s) :=
  .updPart h

theorem Calm.requestReset {p s} (h : Calm en s) : Calm en (requestReset p s) := by
  unfold Machine.requestReset
  split
  · exact h
  · exact h
  · exact .updPart <| .setPartState <| .tdiError h

theorem Calm.updQueue {q f s} (h : Calm en s) : Calm en (updQueue q f s) :=
  .frame h

theorem Calm.queueErrorRecord {p q cause s} (h : Calm en s) : Calm en (queueErrorRecord p q cause s) :=
  .updPart h

theorem Stays.execFunctionEnable {fn s} (h : Calm en s) : Stays en (execFunctionEnable fn s) := by
  unfold Machine.execFunctionEnable
  exact .onlyIf h fun _ h => .ite (.setPartState <| .updPart <| .updQueue <| .updPart h) (.queueErrorRecord <|
    .updPart h)

theorem Stays.execFunctionDisable {fn s} (h : Calm en s) : Stays en (execFunctionDisable fn s) :=
  .done <| .requestReset h

theorem Stays.execCtrlReset {fn s} (h : Calm en s) : Stays en (execCtrlReset fn s) :=
  .done <| .requestReset h

theorem Stays.execPartitionResetCmd {part s} (h : Calm en s) : Stays en (execPartitionResetCmd part s) :=
  .done <| .requestReset h

theorem Calm.clearVfEnable {s} (h : Calm en s) : Calm en (clearVfEnable s) :=
  .foldl (.frame h) fun _ _ h => .requestReset h

theorem Calm.flrPf {s} (h : Calm en s) : Calm en (flrPf s) :=
  .clearVfEnable <| .requestReset h

theorem Stays.execFlr {fn s} (h : Calm en s) : Stays en (execFlr fn s) :=
  .done <| .ite (.flrPf h) (.requestReset h)

theorem Stays.execVfEnableClear {s} (h : Calm en s) : Stays en (execVfEnableClear s) :=
  .onlyIf h fun _ h => .clearVfEnable h

theorem Stays.execVfEnableSet {s} (h : Calm en s) : Stays en (execVfEnableSet s) :=
  .onlyIf h fun _ h => .foldl (.frame h) fun _ _ h => .appear h

theorem Calm.zeroCore {g s} (h : Calm en s) : Calm en (zeroCore g s) :=
  .frame (.updCore h)

theorem Calm.idleCore {g s} (h : Calm en s) : Calm en (idleCore g s) :=
  .updCore <| .zeroCore h

theorem Calm.markTrial {p s} (h : Calm en s) : Calm en (markTrial p s) := by
  unfold Machine.markTrial
  dsimp only
  split
  · refine .updLeaf ?_
    split
    · exact .finish h
    · exact h
  · exact h

theorem Calm.dropRequests {p s} (h : Calm en s) : Calm en (dropRequests p s) := by
  unfold Machine.dropRequests
  exact .updAd <| .updFront h

theorem Calm.endDeletes {p s} (h : Calm en s) : Calm en (endDeletes p s) :=
  .foldl h fun _ _ h => .finish h

theorem Calm.resetPartition {p s} (h : Calm en s) : Calm en (resetPartition p s) := by
  unfold Machine.resetPartition
  extract_lets s1 s2 s3 s4 s5 s6
  have h2 : Calm en s2 := .endDeletes <| .updPart h
  have h3 : Calm en s3 := .frame h2
  have h5 : Calm en s5 := .foldl (.dropRequests h3) fun _ _ h => .ite (.idleCore h) h
  exact .setPartState <| .frame <| .markTrial h5

theorem Stays.execPartitionResetEffect {part s} (h : Calm en s) : Stays en (execPartitionResetEffect part s) := by
  unfold Machine.execPartitionResetEffect
  extract_lets
  split
  · exact .done h
  · exact .onlyIf h fun _ h => .resetPartition h

theorem Stays.execLogControl {part value s} (h : Calm en s) : Stays en (execLogControl part value s) :=
  .onlyIf h fun _ h => .updPart h

theorem Stays.execLogSwap {part s} (h : Calm en s) : Stays en (execLogSwap part s) :=
  .done <| .updPart h

theorem Stays.execLogBoundary {s} (h : Calm en s) : Stays en (execLogBoundary s) :=
  .onlyIf h fun _ h => .frame h

theorem Stays.execLockInterface {fn s} (h : Calm en s) : Stays en (execLockInterface fn s) :=
  .onlyIf h fun _ h => .updPart h

theorem Stays.execStartInterface {fn s} (h : Calm en s) : Stays en (execStartInterface fn s) :=
  .onlyIf h fun _ h => .updPart h

theorem Stays.execStopInterface {fn s} (h : Calm en s) : Stays en (execStopInterface fn s) :=
  .onlyIf h fun _ h => .updPart h

theorem Stays.execInterfaceReport {fn s} (h : Calm en s) : Stays en (execInterfaceReport fn s) :=
  .onlyIf h fun _ h => .emit h

theorem Stays.execVfBarOrMemorySpaceChange {fn s} (h : Calm en s) : Stays en (execVfBarOrMemorySpaceChange fn s) :=
  .onlyIf h fun _ h => .tdiError h

theorem Stays.execDoeCustodyExchange {fn message s} (h : Calm en s) : Stays en (execDoeCustodyExchange fn message s) := by
  unfold Machine.execDoeCustodyExchange
  exact .onlyIf h fun _ h => .ite (.emit <| .updPart <| .frame h) (.ite (.emit <| .updPart h) h)

theorem Stays.execPcieLinkChange {rate width s} (h : Calm en s) : Stays en (execPcieLinkChange rate width s) :=
  .onlyIf h fun _ h => .frame h

/-! ### Machine/Front.lean -/

theorem Calm.queueError {p q cause s} (h : Calm en s) : Calm en (queueError p q cause s) :=
  .queueErrorRecord <| .updQueue h

theorem Stays.execDoorbell {fn queue head value s} (h : Calm en s) : Stays en (execDoorbell fn queue head value s) := by
  unfold Machine.execDoorbell
  extract_lets
  refine .onlyIf h fun _ h => ?_
  extract_lets s1
  have h1 : Calm en s1 := .count h
  refine .ite (.updFront h1) <| .ite h1 <| .ite ?_ ?_
  · exact .ite (.queueError h1) <| .ite (.queueError h1) (.updQueue h1)
  · exact .ite (.queueError h1) (.updQueue h1)

theorem Stays.execCommandFetch {answer s} (h : Calm en s) : Stays en (execCommandFetch answer s) := by
  unfold Machine.execCommandFetch
  split
  · exact .done h
  · split
    · exact .done h
    · extract_lets _ _ _ s1 s2 _ s3 id
      have h2 : Calm en s2 := .updQueue <| .updFront h
      have h3 : Calm en s3 := .count <| .countHostRead <| .updQueue h2
      clear_value s2 s3 id
      split
      · exact .done <| .queueError h2
      · extract_lets _ s4
        have h4 : Calm en s4 := .updFront h3
        clear_value s4
        split
        · exact .done <| .finish h4
        · exact .ite (.done <| .updCust h4) (.done h4)

theorem Stays.execQueueCreate {s} (h : Calm en s) : Stays en (execQueueCreate s) :=
  .onHead h fun _ _ h => .ite (.finish h) <| .ite (.finish h) <| .ite (.finish <| .queueError <| .updQueue h)
    (.finish <| .updQueue h)

theorem Calm.tryDelete {q s} (h : Calm en s) : Calm en (tryDelete q s) := by
  unfold Machine.tryDelete
  split
  · exact h
  · exact .ite h (.finish <| .updQueue h)

theorem Stays.execQueueDelete {s} (h : Calm en s) : Stays en (execQueueDelete s) :=
  .onHead h fun _ _ h => .ite (.finish h) (.tryDelete <| .updQueue <| .takeUp h)

theorem Calm.settleRequest {id status s} (h : Calm en s) : Calm en (settleRequest id status s) := by
  unfold Machine.settleRequest
  split
  · exact h
  · exact .ite (.updAd h) (.settleSequence <| .updAd h)

theorem Stays.execCompletionWrite {ring s} (h : Calm en s) : Stays en (execCompletionWrite ring s) := by
  unfold Machine.execCompletionWrite
  extract_lets
  split
  · exact .done h
  · extract_lets _ _ s1 s2 s3 s4 _
    have h1 : Calm en s1 := .updFront <| .updFront h
    have h3 : Calm en s3 := .updQueue <| .hostWrite <| .updFront h
    have h4 : Calm en s4 := by
      unfold s4
      split
      · exact .sendMsix h3
      · exact h3
    refine .ite (.done <| .tryDelete <| .settleRequest <| .count h1) <| .ite (.done h) ?_
    exact .ite (.done <| .tryDelete <| .settleRequest <| .queueError <| .updFront h)
      (.done <| .tryDelete <| .settleRequest <| .count <| .histSample h4)

theorem Calm.updRequest {cmd f s} (h : Calm en s) : Calm en (updRequest cmd f s) :=
  .updAd h

theorem Calm.failCopy {cmd status s} (h : Calm en s) : Calm en (failCopy cmd status s) :=
  .updRequest h

theorem Stays.execInputCopy {queue tag host s} (h : Calm en s) : Stays en (execInputCopy queue tag host s) := by
  unfold Machine.execInputCopy
  split
  · exact .done h
  · extract_lets s1
    have h1 : Calm en s1 := .untilTime h
    refine .ite (.done h1) <| .ite (.done <| .failCopy h1) <| .ite (.done <| .failCopy <| .countStale h1) ?_
    split
    next hv =>
      have h2 := Calm.of_snd hv <| .gcmFetch h1
      exact .ite (.done <| .failCopy h2) <| .ite (.done <| .failCopy h2) (.done <| .updRequest <| .xtsWriteFor h2)

theorem Stays.execOutputCopy {queue tag s} (h : Calm en s) : Stays en (execOutputCopy queue tag s) := by
  unfold Machine.execOutputCopy
  split
  · exact .done h
  · extract_lets
    refine .ite (.done <| .finish h) <| .ite (.done <| .finish <| .countStale h) ?_
    split
    next hv =>
    have h1 := Calm.of_snd hv (.xtsReadAt h)
    extract_lets
    split
    next hv => exact .done <| .finish <| .of_snd hv (.gcmSeal h1)
    next hv =>
      have h2 := Calm.of_snd hv (.gcmSeal h1)
      exact .done <| .finish <| .ite h2 (.hostWrite h2)

/-! ### Machine/Operands.lean -/

theorem Calm.tileWrite {g off bs s} (h : Calm en s) : Calm en (tileWrite g off bs s) :=
  h.of_lasts <| .tileWrite <| .start false s

theorem Calm.correctReads {g rs s} (h : Calm en s) : Calm en (correctReads g rs s) :=
  h.of_lasts <| .correctReads <| .start true s

theorem Calm.bringUpsets {g env s} (h : Calm en s) : Calm en (bringUpsets g env s) :=
  .ite h (.updCore h)

theorem Calm.progFault {g stream index code s} (h : Calm en s) : Calm en (progFault g stream index code s) :=
  h.of_lasts <| .progFault <| .start true s

theorem Calm.addCredit {g ctr amt s} (h : Calm en s) : Calm en (addCredit g ctr amt s) :=
  h.of_lasts <| .addCredit <| .start true s

theorem Calm.sendCredit {g e amt s} (h : Calm en s) : Calm en (sendCredit g e amt s) :=
  h.of_lasts <| .sendCredit <| .start true s

theorem Calm.takeOp {g q s} (h : Calm en s) : Calm en (takeOp g q s) := by
  unfold Machine.takeOp
  exact .count <| .ite (.count <| .updCore h) (.updCore h)

theorem Calm.countMoved {g n s} (h : Calm en s) : Calm en (countMoved g n s) :=
  .count h

theorem Calm.runFor {g q dur n s} (h : Calm en s) : Calm en (runFor g q dur n s) :=
  .updCore h

theorem Calm.startFault {g q code s} (h : Calm en s) : Calm en (startFault g q code s) :=
  .progFault h

theorem Calm.opEvents {g lane index classes s} (h : Calm en s) : Calm en (opEvents g lane index classes s) :=
  .numericEvents h

/-! ### Machine/Units.lean -/

theorem Stays.onOp {core stream op s f} (h : Calm en s) (hf : ∀ q s, Calm en s → Calm en (f q s)) :
    Stays en (onOp core stream op s f) := by
  unfold Machine.onOp
  split
  · exact .done h
  · exact .done <| .ite (hf _ _ <| .takeOp h) (.startFault <| .takeOp h)

theorem Calm.eccAbort {g q s} (h : Calm en s) : Calm en (eccAbort g q s) :=
  h.of_lasts <| .eccAbort <| .start true s

theorem Calm.withReadsOf {g q ranges s f} (h : Calm en s) (hf : ∀ s, Calm en s → Calm en (f s)) :
    Calm en (withReadsOf g q ranges s f) :=
  .ite (.eccAbort h) (hf _ <| .correctReads h)

theorem Calm.withReads {g q ranges s f} (h : Calm en s) (hf : ∀ s, Calm en s → Calm en (f s)) :
    Calm en (withReads g q ranges s f) :=
  .withReadsOf h hf

/-! ### Machine/Array.lean -/

theorem Calm.mmaLoad {g q s} (h : Calm en s) : Calm en (mmaLoad g q s) := by
  unfold Machine.mmaLoad
  exact .withReads h fun _ h => .ite (.startFault h) (.opEvents <| .runFor <| .updCore h)

theorem Stays.execMmaLoad {core stream s} (h : Calm en s) : Stays en (execMmaLoad core stream s) :=
  .onOp h fun _ _ h => .mmaLoad h

theorem Calm.mmaRun {g q s} (h : Calm en s) : Calm en (mmaRun g q s) := by
  unfold Machine.mmaRun
  extract_lets
  split
  · exact h
  · exact .ite (.startFault h) (.withReadsOf h (fun _ h => .opEvents <| .runFor <| .count <| .count <| .count <|
      .updCore h))

theorem Calm.advanceRank {g n s} (h : Calm en s) : Calm en (advanceRank g n s) :=
  h.of_lasts <| .advanceRank <| .start true s

theorem Calm.rankRun {g q s} (h : Calm en s) : Calm en (rankRun g q s) := by
  unfold Machine.rankRun
  exact .ite (.startFault h) (.advanceRank <| .runFor <| .updCore h)

/-! ### Machine/Epilogue.lean -/

theorem Calm.epiSet0 {g q s} (h : Calm en s) : Calm en (epiSet0 g q s) := by
  unfold Machine.epiSet0
  exact .runFor <| .updCore h

theorem Stays.execEpiSet0 {core stream s} (h : Calm en s) : Stays en (execEpiSet0 core stream s) :=
  .onOp h fun _ _ h => .epiSet0 h

theorem Calm.epiChange {g q f s} (h : Calm en s) : Calm en (epiChange g q f s) := by
  unfold Machine.epiChange
  exact .ite (.runFor <| .updCore h) (.startFault h)

theorem Stays.execEpiSet1 {core stream s} (h : Calm en s) : Stays en (execEpiSet1 core stream s) :=
  .onOp h fun _ _ h => .epiChange h

theorem Stays.execEpiSet2 {core stream s} (h : Calm en s) : Stays en (execEpiSet2 core stream s) :=
  .onOp h fun _ _ h => .epiChange h

theorem Calm.advanceCore {g s} (h : Calm en s) : Calm en (advanceCore g s) :=
  h.of_lasts <| .advanceCore <| .start true s

theorem Stays.execMmaRun {core stream s} (h : Calm en s) : Stays en (execMmaRun core stream s) :=
  .onOp h fun _ _ h => .advanceCore <| .mmaRun h

theorem Stays.execRankRun {core stream s} (h : Calm en s) : Stays en (execRankRun core stream s) :=
  .onOp h fun _ _ h => .advanceCore <| .rankRun h

theorem Calm.pourStart {g q s} (h : Calm en s) : Calm en (pourStart g q s) := by
  unfold Machine.pourStart
  exact .ite (.startFault h) (.updCore h)

theorem Stays.execPour {core stream s} (h : Calm en s) : Stays en (execPour core stream s) :=
  .onOp h fun _ _ h => .advanceCore <| .pourStart h

theorem Calm.recomputePour {g s} (h : Calm en s) : Calm en (recomputePour g s) :=
  h.of_lasts <| .recomputePour <| .start false s

theorem Stays.execPourRecompute {core s} (h : Calm en s) : Stays en (execPourRecompute core s) :=
  .done <| .recomputePour h

theorem Calm.completePour {g s} (h : Calm en s) : Calm en (completePour g s) :=
  h.of_lasts <| .completePour <| .start false s

theorem Stays.execPourComplete {core s} (h : Calm en s) : Stays en (execPourComplete core s) :=
  .done <| .completePour h

/-! ### Machine/Vector.lean -/

theorem Calm.writeRows {g base stride rows s} (h : Calm en s) : Calm en (writeRows g base stride rows s) :=
  .foldl h fun _ _ h => .tileWrite h

theorem Calm.vecRun {g q s} (h : Calm en s) : Calm en (vecRun g q s) := by
  unfold Machine.vecRun
  exact .runFor <| .count <| .updCore h

theorem Calm.vecEw {g q s} (h : Calm en s) : Calm en (vecEw g q s) :=
  .withReads h fun _ h => .opEvents <| .writeRows <| .vecRun h

theorem Stays.execVecEw {core stream s} (h : Calm en s) : Stays en (execVecEw core stream s) :=
  .onOp h fun _ _ h => .vecEw h

theorem Calm.vecCvt {g q s} (h : Calm en s) : Calm en (vecCvt g q s) :=
  .withReads h fun _ h => .opEvents <| .ite (.writeRows <| .vecRun h) (.tileWrite <| .writeRows <| .vecRun h)

theorem Stays.execVecCvt {core stream s} (h : Calm en s) : Stays en (execVecCvt core stream s) :=
  .onOp h fun _ _ h => .vecCvt h

theorem Calm.vecRow {g q s} (h : Calm en s) : Calm en (vecRow g q s) :=
  .withReads h fun _ h => .opEvents <| .tileWrite <| .vecRun h

theorem Stays.execVecRow {core stream s} (h : Calm en s) : Stays en (execVecRow core stream s) :=
  .onOp h fun _ _ h => .vecRow h

/-! ### Machine/Programs.lean -/

theorem Calm.takeBind {g b s} (h : Calm en s) : Calm en (takeBind g b s) := by
  unfold Machine.takeBind
  exact .ite (.updCore h) (.updCore <| .updCore h)

theorem Stays.execBind {s} (h : Calm en s) : Stays en (execBind s) := by
  unfold Machine.execBind
  refine .onHead h fun _ _ h => ?_
  extract_lets _ _ _ _ _ _ rest
  have hrest {s} (h : Calm en s) : Calm en (rest s) := .ite (.finish h) <| .ite (.finish h) (.finish <| .takeBind h)
  refine .ite (.finish h) <| .ite (.finish h) <| .ite (hrest h) <| .ite (.finish h) ?_
  split
  · exact .finish h
  · refine .ite (.finish h) ?_
    split
    · exact .finish h
    · exact hrest h

theorem Stays.execBindEffect {core s} (h : Calm en s) : Stays en (execBindEffect core s) := by
  unfold Machine.execBindEffect
  extract_lets
  split
  · exact .done h
  · exact .onlyIf h fun _ h => .updCore h

theorem Calm.refetchModes {s} (h : Calm en s) : Calm en (refetchModes s) :=
  .foldl h fun _ _ h => .ite (.updCore h) h

theorem Stays.execProgramFetch {core s} (h : Calm en s) : Stays en (execProgramFetch core s) := by
  unfold Machine.execProgramFetch
  exact .onlyIf h fun _ h => .updCore <| .untilTime h

theorem Stays.execProgramFetchDone {core env s} (h : Calm en s) : Stays en (execProgramFetchDone core env s) := by
  unfold Machine.execProgramFetchDone
  extract_lets
  refine .onlyIf h fun _ h => ?_
  extract_lets _ _ _ _ _ _ _ _ _ s9
  have h9 : Calm en s9 := .countHbm <| .countHbm <| .verifyRange <| .verifyRange <| .bringUpsets h
  exact .ite (.updCore <| .bringUpsets h) <| .ite (.updCore h9) (.updCore h9)

theorem Stays.execOpDispatch {core stream s} (h : Calm en s) : Stays en (execOpDispatch core stream s) := by
  unfold Machine.execOpDispatch
  extract_lets _ _ _ s3
  have h3 : Calm en s3 := .untilClock <| .untilTime h
  split
  · exact .done h
  · split
    · exact .done h
    · split
      · exact .done h
      · exact .ite (.done <| .progFault h3) (.done <| .count <| .setCore h3)

theorem Stays.execSyncWait {core stream s} (h : Calm en s) : Stays en (execSyncWait core stream s) :=
  .onOp h fun _ _ h => .runFor h

theorem Stays.execSyncSend {core stream s} (h : Calm en s) : Stays en (execSyncSend core stream s) := by
  unfold Machine.execSyncSend
  exact .onOp h fun _ _ h => .foldl h fun _ _ h => .sendCredit h

theorem Stays.execSyncTime {core stream s} (h : Calm en s) : Stays en (execSyncTime core stream s) := by
  unfold Machine.execSyncTime
  exact .onOp h fun _ _ h => .runFor h

theorem Stays.execMark {core stream s} (h : Calm en s) : Stays en (execMark core stream s) := by
  unfold Machine.execMark
  exact .onOp h fun _ _ h => .runFor <| .ite (.trace <| .trace <| .trace <| .count h) (.trace <| .count h)

theorem Stays.execHalt {core stream s} (h : Calm en s) : Stays en (execHalt core stream s) :=
  .onOp h fun _ _ h => h

theorem Calm.completeOp {g r s} (h : Calm en s) : Calm en (completeOp g r s) :=
  h.of_lasts <| .completeOp <| .start true s

theorem Stays.execOpComplete {core op s} (h : Calm en s) : Stays en (execOpComplete core op s) := by
  unfold Machine.execOpComplete
  extract_lets
  split
  · exact .done h
  · exact .done <| .ite (.completeOp <| .untilClock h) h

theorem Calm.dropToken {s} (h : Calm en s) : Calm en (dropToken s) :=
  .frame h

theorem Calm.landToken {g ctr amount steep s} (h : Calm en s) : Calm en (landToken g ctr amount steep s) :=
  .ite (.count <| .dropToken h) <| .ite (.addCredit h) (.updCore h)

theorem Stays.execToken {core ctr amount steep part remote s} (h : Calm en s) :
    Stays en (execToken core ctr amount steep part remote s) := by
  unfold Machine.execToken
  split
  · exact .done <| .ite (.dropToken h) (.landToken h)
  · split
    · exact .done h
    · exact .done <| .landToken <| .frame h

/-! ### Machine/Transfers.lean -/

theorem Calm.failRequests {g status s} (h : Calm en s) : Calm en (failRequests g status s) := by
  unfold Machine.failRequests
  exact .updAd h

theorem Calm.transferError {g s} (h : Calm en s) : Calm en (transferError g s) :=
  .ite (.failStep h) (.failRequests h)

theorem Calm.caddyWrite {die p o bs s} (h : Calm en s) : Calm en (caddyWrite die p o bs s) :=
  .foldl h fun _ _ h => .ite (.setCaddy h) (.frame h)

theorem Calm.damageSegment {hf seg s} (h : Calm en s) : Calm en (damageSegment hf seg s) := by
  unfold Machine.damageSegment
  exact .ite h (.updLeaf <| .setRec h)

theorem Calm.leafDamage {hf seg s} (h : Calm en s) : Calm en (leafDamage hf seg s) :=
  .updLeaf <| .damageSegment h

theorem Calm.countLeaf {die o n s} (h : Calm en s) : Calm en (countLeaf die o n s) :=
  .foldl h fun _ _ h => .ite (.count h) (.count <| .count h)

theorem Calm.leafUnits {env die gen raw o n s} (h : Calm en s) : Calm en (leafUnits env die gen raw o n s).2 := by
  unfold Machine.leafUnits
  extract_lets
  split
  · extract_lets s1
    exact .foldl (.countLeaf h) fun _ _ h => .count <| .leafDamage h
  · split
    · refine .foldl_snd (.countLeaf h) fun p i h => ?_
      extract_lets
      split
      · exact h
      · extract_lets e
        have he : Calm en e.2 := by
          unfold e
          split
          · exact .verifyBlock h
          · exact h
        exact .readStored he
    · exact h

theorem Calm.leafRead {env die gen raw o n s} (h : Calm en s) : Calm en (leafRead env die gen raw o n s).2 := by
  unfold Machine.leafRead
  extract_lets
  split
  · exact h
  · exact .leafUnits h

theorem Calm.readSource {env g d s} (h : Calm en s) : Calm en (readSource env g d s).2 := by
  unfold Machine.readSource
  extract_lets _ _ _ v r
  have hv : Calm en v.2 := by
    unfold v
    split
    · exact .verifyRange h
    · exact .eccRange h
  have hr : Calm en r.2 := by
    unfold r
    split
    · exact .xtsReadAt hv
    · exact .readStored hv
  split
  · exact h
  · exact hr
  · split
    · exact .countGcmFail <| .countStale <| .countHostRead h
    · split
      · exact .countHostRead h
      · exact .countGcmFail h
  · exact h
  · exact .leafRead h

theorem Calm.xtsWriteAny {slot crc a bs s} (h : Calm en s) : Calm en (xtsWriteAny slot crc a bs s) :=
  .ite (.xtsWrite h) (.xtsWrite <| .xtsRead h)

theorem Calm.tilesWrite {a bs s} (h : Calm en s) : Calm en (tilesWrite a bs s) :=
  .foldl h fun _ _ h => .ite h (.tileWrite h)

theorem Calm.tilesCorrect {rs s} (h : Calm en s) : Calm en (tilesCorrect rs s) :=
  .foldl h fun _ _ h => .correctReads h

theorem Calm.packageWrite {p key crc a bs s} (h : Calm en s) : Calm en (packageWrite p key crc a bs s) := by
  unfold Machine.packageWrite
  split
  · exact .tilesWrite h
  · refine .logMem ?_
    split
    · exact .xtsWriteAny h
    · exact .writeStored h

theorem Calm.sealOne {unit slot seq bs s} (h : Calm en s) : Calm en (sealOne unit slot seq bs s).2 := by
  unfold Machine.sealOne
  extract_lets
  split
  · exact h
  · split
    next hv => exact .of_snd hv (.nextNonce h)
    next hv => exact .of_snd hv (.nextNonce h)

theorem Calm.eachPiece {f ps s} (h : Calm en s) (hf : ∀ o bs s, Calm en s → Calm en (f o bs s)) :
    Calm en (eachPiece f ps s) := by
  refine .foldl_snd h fun _ _ h => ?_
  dsimp only
  split
  · exact hf _ _ _ h
  · exact h

theorem Calm.writeDest {g d ps s} (h : Calm en s) : Calm en (writeDest g d ps s).2 := by
  unfold Machine.writeDest
  extract_lets
  split
  · dsimp only
    exact .eachPiece h fun _ _ _ h => .tileWrite h
  · dsimp only
    exact .eachPiece h fun _ _ _ h => .packageWrite h
  · dsimp only
    exact .eachPiece h fun _ _ _ h => .caddyWrite h
  · split
    · refine .foldl_snd h fun _ _ h => ?_
      split
      · exact h
      · split
        next hv => exact .of_snd hv (.sealOne h)
        next hv => exact .hostWrite <| .of_snd hv (.sealOne h)
    · dsimp only
      exact .eachPiece h fun _ _ _ h => .hostWrite h

theorem Calm.tileGather {env g d s} (h : Calm en s) : Calm en (tileGather env g d s) := by
  unfold Machine.tileGather
  extract_lets _ _ _ _ _ _ _ s7
  have h7 : Calm en s7 := .count <| .countMoved <| .tileWrite <| .tileWrite <| .foldl_snd h fun _ _ h => .leafUnits h
  exact .ite (.transferError h7) h7

theorem Calm.transferOne {env g leaf d0 s} (h : Calm en s) : Calm en (transferOne env g leaf d0 s).2 := by
  unfold Machine.transferOne
  extract_lets _ _ r w
  have hr : Calm en r.2 := .readSource <| .countMoved <| .tilesCorrect h
  have hw : Calm en w.2 := .writeDest hr
  split
  · split
    · exact .tileGather h
    · exact h
  · split
    · exact h
    · split
      · exact h
      · split
        · exact .countStale h
        · split
          · exact h
          · split
            · exact hw
            · exact .ite (.transferError hw) hw

theorem Calm.transferAll {f ds s} (h : Calm en s) (hf : ∀ d s, Calm en s → Calm en (f d s).2) :
    Calm en (transferAll f ds s).2 := by
  induction ds generalizing s with
  | nil => exact h
  | cons d ds ih =>
    unfold Machine.transferAll
    split
    next hv => exact ih <| .of_snd hv <| hf _ _ h
    next hv => exact .of_snd hv <| hf _ _ h

theorem Calm.transferEnd {g q r n} (h : Calm en r.2) : Calm en (transferEnd g q r n) := by
  unfold Machine.transferEnd
  split
  · exact .runFor h
  · exact .eccAbort h
  · exact .startFault h

theorem Stays.execDma {core stream env s} (h : Calm en s) : Stays en (execDma core stream env s) := by
  unfold Machine.execDma
  extract_lets
  split
  · exact .done h
  · exact .onOp (.bringUpsets h) fun _ _ h => .withReads h fun _ h => .transferEnd <| .transferAll
      (.frame h) fun _ _ h => .transferOne h

/-! ### Machine/Leaf.lean -/

theorem Calm.setManifest {hf m s} (h : Calm en s) : Calm en (setManifest hf m s) :=
  .updLeaf h

theorem Calm.measureHalf {hf s} (h : Calm en s) : Calm en (measureHalf hf s) := by
  unfold Machine.measureHalf
  exact .measure h

theorem Calm.updInstall {f s} (h : Calm en s) : Calm en (updInstall f s) :=
  .updLeaf h

theorem Calm.toSucc {p x s} (h : Calm en s) : Calm en (toSucc p x s) :=
  .ite h (.send h)

theorem Calm.endInstall {ok status s} (h : Calm en s) : Calm en (endInstall ok status s) := by
  unfold Machine.endInstall
  split
  · exact h
  · exact .ite (.updLeaf h) (.toSucc <| .ite (.updLeaf h) (.setRec <| .updLeaf h))

theorem Calm.forwardSegments {n s} (h : Calm en s) : Calm en (forwardSegments n s) := by
  induction n generalizing s with
  | zero => exact h
  | succ n ih =>
    unfold Machine.forwardSegments
    split
    · exact h
    · exact .ite h (ih <| .updInstall <| .send h)

theorem Calm.resendSegment {n s} (h : Calm en s) : Calm en (resendSegment n s) := by
  unfold Machine.resendSegment
  split
  · exact h
  · exact .ite h (.send h)

theorem Calm.delivered {p d a n s bs t} (h : Calm en s) (hv : delivered p d a n s = some (bs, t)) : Calm en t := by
  unfold Machine.delivered at hv
  split at hv
  · cases hv
    exact h
  · cases hv
    exact .countHostRead h
  · cases hv

theorem Calm.freeStaging {s} (h : Calm en s) : Calm en (freeStaging s) := by
  unfold Machine.freeStaging
  split
  · exact h
  · exact .updInstall <| .foldl h fun _ _ h => .ite (.send h) h

theorem Calm.tryFinishInstall {s} (h : Calm en s) : Calm en (tryFinishInstall s) := by
  unfold Machine.tryFinishInstall
  split
  · exact h
  · split
    · exact h
    · exact .ite (.ite (.endInstall h) h) <| .ite (.endInstall <| .measureHalf <| .setRec h) h

theorem Calm.installProgress {s} (h : Calm en s) : Calm en (installProgress s) :=
  .tryFinishInstall <| .freeStaging <| .forwardSegments h

theorem Calm.beginInstall {p s t} (h : Calm en s) (hv : beginInstall p s = some t) : Calm en t := by
  unfold Machine.beginInstall at hv
  dsimp only at hv
  split at hv
  · cases hv
  · split at hv
    · cases hv
    · split at hv
      · cases hv
      · split at hv
        · cases hv
          exact .installProgress <| .toSucc <| .updLeaf h
        · cases hv
          exact .setRec <| .updLeaf h

theorem Stays.execInstallBegin {params s} (h : Calm en s) : Stays en (execInstallBegin params s) :=
  .done <| .getD h fun _ ht => .beginInstall h ht

theorem Calm.abortInstall {s} (h : Calm en s) : Calm en (abortInstall s) :=
  .ite (.endInstall <| .fresh h) h

theorem Stays.execInstallAbort {s} (h : Calm en s) : Stays en (execInstallAbort s) :=
  .done <| .abortInstall h

theorem Stays.execManifest {from_ s} (h : Calm en s) : Stays en (execManifest from_ s) := by
  unfold Machine.execManifest
  split
  · exact .done h
  · extract_lets
    split
    next hv _ =>
      extract_lets s0 _ _ _ s4
      have h0 : Calm en s0 := .updInstall <| .delivered h hv
      have h4 : Calm en s4 := .toSucc <| .updInstall <| .setManifest <| .setRec <| .updLeaf h0
      refine .ite (.done <| .endInstall h0) <| .ite (.done <| .endInstall h0) ?_
      exact .done <| .ite (.foldl h4 fun _ _ h => .send h) h4
    · exact .done h

theorem Stays.execSegmentData {index from_ s} (h : Calm en s) : Stays en (execSegmentData index from_ s) := by
  unfold Machine.execSegmentData
  split
  · exact .done h
  · extract_lets
    split
    · exact .done h
    · exact .done <| .ite (.resendSegment h) h
    next hv =>
      extract_lets _ s1 s2 s3
      have h2 : Calm en s2 := .writeStored <| .updInstall <| .delivered h hv
      have h3 : Calm en s3 := .updInstall h2
      exact .ite (.done h) <| .ite (.done <| .installProgress <| .updInstall h2) <|
        .ite (.done <| .endInstall h2) (.done <| .ite (.send h3) h3)

theorem Stays.execSegmentProgrammed {index readback s} (h : Calm en s) :
    Stays en (execSegmentProgrammed index readback s) := by
  unfold Machine.execSegmentProgrammed
  split
  · exact .done h
  · extract_lets _ _ _ s3
    have h3 : Calm en s3 := .count <| .ite (.leafDamage <| .storeBytes h) (.storeBytes h)
    split
    · exact .done h
    · exact .ite (.done h)
        (.ite (.done <| .installProgress <| .updInstall <| .updLeaf h3) (.done <| .endInstall h3))

theorem Stays.execInstallCredit {s} (h : Calm en s) : Stays en (execInstallCredit s) :=
  .done <| .installProgress <| .updInstall h

theorem Stays.execInstallTimeout {s} (h : Calm en s) : Stays en (execInstallTimeout s) := by
  unfold Machine.execInstallTimeout
  split
  · exact .done h
  · exact .onlyIf h fun _ h => .endInstall <| .untilClock h

theorem Stays.execBreakNotice {status s} (h : Calm en s) : Stays en (execBreakNotice status s) := by
  unfold Machine.execBreakNotice
  split
  · exact .done h
  · exact .onlyIf h fun _ h => .endInstall h

theorem Stays.execLeafPatrol {half index data s} (h : Calm en s) : Stays en (execLeafPatrol half index data s) := by
  unfold Machine.execLeafPatrol
  exact .onlyIf h fun _ h => .ite (.leafDamage <| .count h) <| .ite (.count h) (.damageSegment <| .count h)

theorem Calm.dropGen {g s} (h : Calm en s) : Calm en (dropGen g s) :=
  .kvBaseReleased <| .invalidateDescs h

theorem Stays.execHalfRelease {s} (h : Calm en s) : Stays en (execHalfRelease s) := by
  unfold Machine.execHalfRelease
  split
  · exact .done h
  · exact .onlyIf h fun _ h => .dropGen <| .updLeaf <| .measureHalf <| .setRec h

theorem Calm.returnExtents {s} (h : Calm en s) : Calm en (returnExtents s) := by
  unfold Machine.returnExtents
  refine .updLeaf <| .foldl h fun s e h => ?_
  extract_lets s1
  have h1 : Calm en s1 := .frame h
  exact .frame h1

theorem Calm.measureTrial {s} (h : Calm en s) : Calm en (measureTrial s) :=
  .measure h

theorem Stays.execTrialLoad {host s} (h : Calm en s) : Stays en (execTrialLoad host s) := by
  unfold Machine.execTrialLoad
  refine .onHead h fun _ _ h => ?_
  extract_lets _ _ _ s1
  have h1 : Calm en s1 := .countHostRead h
  refine .ite (.finish h) <| .ite (.finish h) ?_
  split
  · exact .finish <| .countGcmFail h
  · split
    · exact .finish h1
    · exact .ite (.finish <| .countGcmFail h1) <| .ite (.finish h1) <| .ite (.finish h1) (.takeUp <| .updLeaf h1)

/-- The function is unfolded with its constant `2 ^ 26` as a variable: with the number in its place, comparing the two
sides evaluates a read of that many bytes. -/
theorem Calm.copyTrial {host is s} (h : Calm en s) : Calm en (copyTrial host is s).2 := by
  rw [(?hc : @Machine.copyTrial = ?c)]
  case hc => delta Machine.copyTrial; rfl
  rw [(?hf : @copyTrial._f = ?f)]
  case hf => delta copyTrial._f; rfl
  obtain ⟨n, hn⟩ : ∃ n, n = 2 ^ 26 := ⟨_, rfl⟩
  rw [← hn]
  induction is generalizing s with
  | nil => exact h
  | cons i is ih =>
    dsimp only
    split
    next bs a _ _ =>
      have h1 : Calm en (Machine.writeStored true a bs (Machine.countHostRead n s)) := .writeStored <|
        .countHostRead h
      split
      · exact ih h1
      · exact h1
    · exact .countGcmFail h

theorem Stays.execTrialLoadDone {host s} (h : Calm en s) : Stays en (execTrialLoadDone host s) := by
  unfold Machine.execTrialLoadDone
  extract_lets
  split
  · split
    next hv => exact .done <| .finish <| .returnExtents <| .of_snd hv (.copyTrial h)
    next hv => exact .done <| .finish <| .measureTrial <| .updLeaf <| .of_snd hv (.copyTrial h)
  · exact .done h

theorem Stays.execTrialRelease {s} (h : Calm en s) : Stays en (execTrialRelease s) := by
  unfold Machine.execTrialRelease
  refine .onHead h fun _ _ h => ?_
  dsimp only
  split
  · refine .finish <| .updLeaf ?_
    split
    · exact .finish h
    · exact h
  · exact .finish h

theorem Stays.execTrialReleaseEffect {s} (h : Calm en s) : Stays en (execTrialReleaseEffect s) := by
  unfold Machine.execTrialReleaseEffect
  exact .onlyIf h fun _ h => .ite (.returnExtents h) (.returnExtents <| .dropGen <| .measureTrial h)

/-! ### Machine/Rules.lean -/

theorem Calm.writeReport {fs s} (h : Calm en s) : Calm en (writeReport fs s) :=
  .updDict h

/-! ### Machine/Fab.lean -/

theorem Calm.runWith {g q descs n s} (h : Calm en s) : Calm en (runWith g q descs n s) :=
  .updCore h

theorem Calm.putOne {env g d0 s} (h : Calm en s) : Calm en (putOne env g d0 s).2 := by
  unfold Machine.putOne
  extract_lets _ r s1
  have hr : Calm en r.2 := .readSource <| .countMoved <| .tilesCorrect h
  have h1 : Calm en s1 := .ite (.transferError hr) hr
  split
  · exact h
  · split
    · exact h
    · split
      · exact .countStale h
      · split
        · exact h
        · refine .foldl_snd h1 fun _ _ h => ?_
          split
          · exact h
          · split
            · split
              next hv => exact .of_snd hv (.sealOne h)
              next hv => exact .of_snd hv (.sealOne h)
            · exact h

theorem Calm.putAll {env g ds s} (h : Calm en s) : Calm en (putAll env g ds s).2 := by
  induction ds generalizing s with
  | nil => exact h
  | cons d ds ih =>
    change Calm en (match Machine.putOne env g d s with
      | ((none, ws), s) => ((_, _), (Machine.putAll env g ds s).2)
      | ((some c, ws), s) => ((some c, ws), s)).2
    have h1 : Calm en (Machine.putOne env g d s).2 := .putOne h
    generalize Machine.putOne env g d s = r at h1
    obtain ⟨⟨_ | c, ws⟩, s⟩ := r
    · exact ih h1
    · exact h1

theorem Stays.execFabPut {core stream env s} (h : Calm en s) : Stays en (execFabPut core stream env s) := by
  unfold Machine.execFabPut
  exact .onOp (.bringUpsets h) fun _ _ h => .withReads h fun _ h => .transferEnd <| .foldl (.putAll h) fun _ _ h =>
    .send h

theorem Calm.getOne {g op off d s} (h : Calm en s) : Calm en (getOne g op off d s).2 := by
  unfold Machine.getOne
  split
  · exact h
  · split
    · exact h
    · split
      · exact .countStale h
      · exact .send <| .countMoved h

theorem Calm.getAll {g op n off ds s} (h : Calm en s) : Calm en (getAll g op n off ds s).2 := by
  induction ds generalizing s n off with
  | nil => exact h
  | cons d ds ih =>
    change Calm en (match Machine.getOne g op off d s with
      | ((none, m), s) => Machine.getAll g op (n + m) (off + tLen d) ds s
      | ((some c, _), s) => ((some c, n), s)).2
    have h1 : Calm en (Machine.getOne g op off d s).2 := .getOne h
    generalize Machine.getOne g op off d s = r at h1
    obtain ⟨⟨_ | c, m⟩, s⟩ := r
    · exact ih h1
    · exact h1

theorem Stays.execFabGet {core stream s} (h : Calm en s) : Stays en (execFabGet core stream s) := by
  unfold Machine.execFabGet
  extract_lets
  refine .onOp h fun _ _ h => .withReads h fun _ h => ?_
  extract_lets
  split
  · exact .runWith <| .getAll h
  · exact .transferEnd <| .getAll h

theorem Calm.collWrite {g d o bs s} (h : Calm en s) : Calm en (collWrite g d o bs s) :=
  .ite (.packageWrite h) (.tileWrite h)

theorem Calm.collOne {g off d s} (h : Calm en s) : Calm en (collOne g off d s).2 := by
  unfold Machine.collOne
  split
  · exact h
  · extract_lets
    split
    · exact .foldl h fun _ _ h => .send h
    · split
      · exact .countStale h
      · split
        · exact h
        · split
          · exact .countMoved h
          · refine .foldl_snd (.collWrite <| .countMoved <| .correctReads h) fun _ _ h => ?_
            split
            next hv => exact .of_snd hv (.sealOne h)
            next hv => exact .foldl (.of_snd hv (.sealOne h)) fun _ _ h => .send h

theorem Calm.collAll {g n off ds s} (h : Calm en s) : Calm en (collAll g n off ds s).2 := by
  induction ds generalizing s n off with
  | nil => exact h
  | cons d ds ih =>
    unfold Machine.collAll
    split
    next hv => exact ih <| .of_snd hv <| .collOne h
    next hv => exact .of_snd hv <| .collOne h

theorem Stays.execFabColl {core stream s} (h : Calm en s) : Stays en (execFabColl core stream s) := by
  unfold Machine.execFabColl
  extract_lets
  refine .onOp h fun _ _ h => .withReads h fun _ h => ?_
  extract_lets
  split
  · exact .runWith <| .collAll h
  · exact .transferEnd <| .collAll h

theorem Calm.acknowledge {net s} (h : Calm en s) : Calm en (acknowledge net s) :=
  .send h

theorem Calm.unitFailed {p s} (h : Calm en s) : Calm en (unitFailed p s) := by
  unfold Machine.unitFailed
  exact .ite (.failStep <| .countGcmFail h) (.countGcmFail h)

theorem Calm.putLanded {net put s} (h : Calm en s) : Calm en (putLanded net put s).2 := by
  unfold Machine.putLanded
  exact .frame h

theorem Stays.execFabWriteArrival {net addr unit gcm crc core ctr amount put s} (h : Calm en s) :
    Stays en (execFabWriteArrival net addr unit gcm crc core ctr amount put s) := by
  unfold Machine.execFabWriteArrival
  extract_lets _ _ s1 s2 r
  have h1 : Calm en s1 := by
    unfold s1
    refine .ite (.packageWrite h) ?_
    split
    · exact .countStale h
    · exact .ite (.countStale h) (.ite (.packageWrite h) (.unitFailed <| .packageWrite h))
  have h2 : Calm en s2 := .acknowledge h1
  have hr : Calm en r.2 := .putLanded h2
  exact .ite (.done h) <| .ite (.done h2) <| .ite (.done hr) <| .ite (.done <| .dropToken hr) (.done <|
    .landToken hr)

theorem Stays.execFabReadRequest {net addr len gcm slot gen replyCore replyOp offset s} (h : Calm en s) :
    Stays en (execFabReadRequest net addr len gcm slot gen replyCore replyOp offset s) := by
  unfold Machine.execFabReadRequest
  dsimp only
  split
  · exact .done h
  · split
    · exact .done <| .foldl (.countStale h) fun _ _ h => .send h
    · refine .done <| .foldl ?_ fun _ _ h => ?_
      · split
        · exact .xtsReadAt h
        · exact .readStored h
      · split
        · split
          next hv => exact .send <| .of_snd hv (.sealOne h)
          next hv => exact .of_snd hv (.sealOne h)
        · exact .send h

theorem Calm.answered {g op n s} (h : Calm en s) : Calm en (answered g op n s) :=
  .updCore h

theorem Stays.execReadData {net core op offset unit s} (h : Calm en s) :
    Stays en (execReadData net core op offset unit s) := by
  unfold Machine.execReadData
  extract_lets
  split
  · exact .done h
  · split
    · exact .done h
    · extract_lets _ _ s1
      have h1 : Calm en s1 := by
        unfold s1
        refine .ite h <| .ite (.writeDest h) <| .ite (.countStale h) ?_
        split
        · exact .countStale h
        · exact .ite (.writeDest h) (.transferError <| .countGcmFail <| .writeDest h)
      exact .ite (.done h) (.done <| .answered h1)

theorem Stays.execCollectiveData {net core op rank offset unit s} (h : Calm en s) :
    Stays en (execCollectiveData net core op rank offset unit s) := by
  unfold Machine.execCollectiveData
  extract_lets
  split
  · exact .done h
  · refine .ite (.done <| .ite (.answered h) h) ?_
    split
    · exact .done h
    · extract_lets _ _ _ s1 s2
      have h1 : Calm en s1 := by
        unfold s1
        split
        · exact .countStale h
        · exact .ite (.collWrite h) (.transferError <| .countGcmFail <| .collWrite h)
      have h2 : Calm en s2 := .ite (.acknowledge h1) h1
      exact .ite (.done h) <| .ite (.done <| .countStale h) (.done <| .answered h2)

theorem Stays.execAcknowledgement {core op units s} (h : Calm en s) : Stays en (execAcknowledgement core op units s) := by
  unfold Machine.execAcknowledgement
  exact .onlyIf h fun _ h => .answered h

/-! ### Machine/Gradient.lean -/

theorem Calm.sealWith {unit slot aad bs s} (h : Calm en s) : Calm en (sealWith unit slot aad bs s).2 := by
  unfold Machine.sealWith
  extract_lets
  split
  · exact h
  · split
    next hv => exact .of_snd hv (.nextNonce h)
    next hv => exact .of_snd hv (.nextNonce h)

theorem Calm.sendRollCalls {f s} (h : Calm en s) : Calm en (sendRollCalls f s) :=
  h.of_lasts <| .sendRollCalls <| .start true s

theorem Calm.sendUnit {g u s} (h : Calm en s) : Calm en (sendUnit g u s).2 := by
  unfold Machine.sendUnit
  extract_lets
  split
  · exact .send h
  · split
    next hv => exact .of_snd hv (.sealWith h)
    next hv => exact .send <| .countMoved <| .of_snd hv (.sealWith h)

theorem Calm.sendUnits {g us s} (h : Calm en s) : Calm en (sendUnits g us s).2 := by
  induction us generalizing s with
  | nil => exact h
  | cons u us ih =>
    unfold Machine.sendUnits
    split
    next hv => exact ih <| .of_snd hv <| .sendUnit h
    next hv => exact .of_snd hv <| .sendUnit h

theorem Calm.refuseWindow {p grp w s} (h : Calm en s) : Calm en (refuseWindow p grp w s) := by
  unfold Machine.refuseWindow
  exact .ite h (.updAd <| .updRed h)

theorem Calm.addShards {g r s} (h : Calm en s) : Calm en (addShards g r s).2 := by
  unfold Machine.addShards
  extract_lets
  split
  · exact h
  · split
    · exact h
    · split
      · exact h
      · split
        · exact .refuseWindow h
        · split
          · exact h
          · exact h

theorem Calm.tallyUnits {g kind r s} (h : Calm en s) : Calm en (tallyUnits g kind r s).2 := by
  unfold Machine.tallyUnits
  split
  · exact h
  · split
    · exact .countStale h
    · exact h

theorem Calm.redOne {g op r s} (h : Calm en s) : Calm en (redOne g op r s).2 := by
  unfold Machine.redOne
  extract_lets
  split
  · exact h
  · split
    · exact h
    · split
      · exact .addShards <| .correctReads h
      · exact .tallyUnits <| .correctReads h

theorem Calm.redAll {g op ds s} (h : Calm en s) : Calm en (redAll g op ds s).2 := by
  induction ds generalizing s with
  | nil => exact h
  | cons d ds ih =>
    unfold Machine.redAll
    split
    next hv => exact ih <| .of_snd hv <| .redOne h
    next hv => exact .of_snd hv <| .redOne h

theorem Calm.redSend {g op q s} (h : Calm en s) : Calm en (redSend g op q s) :=
  .withReads h fun _ h => .ite (.startFault h) (.transferEnd <| .sendUnits <| .redAll h)

theorem Stays.execRedAdd {core stream s} (h : Calm en s) : Stays en (execRedAdd core stream s) :=
  .onOp h fun _ _ h => .redSend h

theorem Stays.execRedMax {core stream s} (h : Calm en s) : Stays en (execRedMax core stream s) :=
  .onOp h fun _ _ h => .redSend h

theorem Stays.execRedZero {core stream s} (h : Calm en s) : Stays en (execRedZero core stream s) :=
  .onOp h fun _ _ h => .redSend h

theorem Calm.setShard {n x s} (h : Calm en s) : Calm en (setShard n x s) :=
  .updRed h

theorem Calm.coverAnswered {x s} (h : Calm en s) : Calm en (coverAnswered x s) :=
  h.of_lasts <| .coverAnswered <| .start true s

theorem Calm.failShard {n b s} (h : Calm en s) : Calm en (failShard n b s) :=
  h.of_lasts <| .failShard <| .start true s

theorem Calm.advanceShard {n s} (h : Calm en s) : Calm en (advanceShard n s) := by
  unfold Machine.advanceShard
  split
  · exact h
  · exact .ite (.setShard h) <| .ite (.setShard h) <| .ite (.failShard h) h

theorem Calm.coverShard {g op r n s} (h : Calm en s) : Calm en (coverShard g op r n s).2 := by
  unfold Machine.coverShard
  split
  · exact h
  · split
    · exact h
    · split
      · exact .setShard h
      · split
        · exact .setShard h
        · exact .setShard h

theorem Calm.coverAll {g op r ns s} (h : Calm en s) : Calm en (coverAll g op r ns s).2 :=
  .foldl_snd h fun _ _ h => .coverShard h

theorem Calm.updAll {g rule op n ds s} (h : Calm en s) : Calm en (updAll g rule op n ds s).2 := by
  induction ds generalizing s n with
  | nil => exact h
  | cons d ds ih =>
    unfold Machine.updAll
    split
    · exact h
    · exact ih <| .coverAll h

theorem Stays.execRedUpd {core stream s} (h : Calm en s) : Stays en (execRedUpd core stream s) := by
  unfold Machine.execRedUpd
  exact .onOp h fun _ _ h => .withReads h fun _ h => .foldl (.transferEnd <| .updAll h) fun _ _ h => .advanceShard h

/-! ### Machine/Reduce.lean -/

theorem Calm.engineEvents {a classes part adid s} (h : Calm en s) : Calm en (engineEvents a classes part adid s) :=
  .numericEvents h

theorem Calm.atomicRange {kind part slot a adid news s} (h : Calm en s) :
    Calm en (atomicRange kind part slot a adid news s) := by
  unfold Machine.atomicRange
  exact .engineEvents <| .countHbm <| .countHbm <| .frame <| .packageWrite <| .xtsReadAt h

theorem Calm.tagBlock {slot b tag s} (h : Calm en s) : Calm en (tagBlock slot b tag s) :=
  .ite h (.setBlock <| .xtsWrite h)

theorem Calm.accumulate {part slot a adid tag news s} (h : Calm en s) :
    Calm en (accumulate part slot a adid tag news s) := by
  unfold Machine.accumulate
  exact .atomicRange <| .foldl h fun _ _ h => .tagBlock h

theorem Calm.copyUnit {n net e0 vals s} (h : Calm en s) : Calm en (copyUnit n net e0 vals s) := by
  unfold Machine.copyUnit
  split
  · exact h
  · extract_lets
    refine .foldl h fun _ _ h => ?_
    extract_lets -underBinder
    split
    · exact .updRed h
    · split
      · exact .setShard h
      · exact h

theorem Stays.execRollCall {ldn asteep records s} (h : Calm en s) : Stays en (execRollCall ldn asteep records s) := by
  unfold Machine.execRollCall
  refine .onlyIf h fun _ h => ?_
  extract_lets
  refine .foldl (.updRed h) fun _ _ h => ?_
  split
  · exact h
  · exact .advanceShard <| .ite (.setShard h) h

theorem Calm.dropUnit {ev hf s} (h : Calm en s) : Calm en (dropUnit ev hf s) := by
  unfold Machine.dropUnit
  split
  · exact .count h
  · exact h

theorem Calm.dropAndFail {hf s} (h : Calm en s) : Calm en (dropAndFail hf s) := by
  unfold Machine.dropAndFail
  dsimp only
  refine .foldl (.dropUnit <| .updRed h) fun _ _ h => ?_
  split
  · exact .ite (.failShard h) h
  · exact h

theorem Calm.applyUnit {net payload hf n x s} (h : Calm en s) : Calm en (applyUnit net payload hf n x s) := by
  unfold Machine.applyUnit
  extract_lets _ s1 _ _ s2
  have h1 : Calm en s1 := .count <| .setShard h
  have h2 : Calm en s2 := by
    unfold s2
    refine .ite (.count <| .updRed h1) ?_
    split
    · exact .failStep <| .countGcmFail h1
    · exact .copyUnit <| .accumulate h1
  exact .ite (.advanceShard h1) <| .ite (.failShard h1) (.advanceShard h2)

theorem Calm.shardUnitIn {net payload hf s} (h : Calm en s) : Calm en (shardUnitIn net payload hf s) := by
  unfold Machine.shardUnitIn
  split
  · exact .dropUnit <| .updRed h
  · split
    · exact .dropUnit <| .updRed h
    · split
      · exact .updRed h
      · split
        · exact .dropAndFail h
        · split
          · exact .dropAndFail h
          · split
            · exact .applyUnit h
            · exact h

theorem Calm.tallyUnitIn {net payload hf s} (h : Calm en s) : Calm en (tallyUnitIn net payload hf s) := by
  unfold Machine.tallyUnitIn
  extract_lets
  split
  · exact .count <| .updRed h
  · split
    · exact h
    · split
      · exact .unitFailed h
      · exact .atomicRange <| .count h

theorem Stays.execContributionUnit {net payload s} (h : Calm en s) : Stays en (execContributionUnit net payload s) := by
  unfold Machine.execContributionUnit
  exact .done <| .ite (.shardUnitIn <| .acknowledge h) (.tallyUnitIn <| .acknowledge h)

theorem Stays.execShardCutoff {shard s} (h : Calm en s) : Stays en (execShardCutoff shard s) := by
  unfold Machine.execShardCutoff
  extract_lets
  split
  · exact .done h
  · split
    · exact .done h
    · extract_lets
      split
      · exact .done h
      · exact .done <| .foldl (.failShard <| .untilTime h) fun _ _ h => .send h

theorem Stays.execStragglerNotice {asteep owner missing s} (h : Calm en s) :
    Stays en (execStragglerNotice asteep owner missing s) :=
  .onlyIf h fun _ h => .updMaster h

theorem Calm.restoreBlocks {env slot bs s} (h : Calm en s) : Calm en (restoreBlocks env slot bs s).2 := by
  induction bs generalizing s with
  | nil => exact h
  | cons b bs ih =>
    unfold Machine.restoreBlocks
    split
    next hv => exact ih <| .of_snd hv <| .verifyBlock h
    next hv =>
      have hs := Calm.of_snd hv <| .verifyBlock h
      split
      · exact hs
      · exact ih <| .xtsWrite <| .count <| .blockRestored <| .updRed hs

theorem Calm.readAccumulator {x slot tag s} (h : Calm en s) : Calm en (readAccumulator x slot tag s).2 := by
  unfold Machine.readAccumulator
  exact .foldl_snd h fun _ _ h => .xtsRead <| .tagBlock h

theorem Calm.dualCheck {n x acc s} (h : Calm en s) : Calm en (dualCheck n x acc s) := by
  unfold Machine.dualCheck
  refine .updRed <| .foldl h fun _ _ h => ?_
  extract_lets _ _ _ _ s4
  have h4 : Calm en s4 := .count <| .count <| .updRed h
  split
  · exact .updRed h
  · split
    · exact .failStep <| .setShard h4
    · exact h4

theorem Calm.writeImage {d x r e v s} (h : Calm en s) : Calm en (writeImage d x r e v s) := by
  unfold Machine.writeImage
  extract_lets
  split
  · exact .packageWrite h
  · exact .packageWrite <| .packageWrite h

theorem Calm.engineWrite {part slot a bs s} (h : Calm en s) : Calm en (engineWrite part slot a bs s) :=
  .foldl h fun _ _ h => .packageWrite h

theorem Calm.runUpdate {n x s} (h : Calm en s) : Calm en (runUpdate n x s) := by
  unfold Machine.runUpdate
  extract_lets
  split
  next _ s1 hv =>
  have h1 : Calm en s1 := .of_snd hv (.readAccumulator h)
  split
  next _ s2 hv =>
  have h2 : Calm en s2 := .of_snd hv (.xtsReadAt h1)
  split
  next _ s3 hv =>
  have h3 : Calm en s3 := .of_snd hv (.xtsReadAt h2)
  split
  extract_lets _ _ _ _ _ s4 s5 s6 s7 s8 s9 s10 s11
  have h6 : Calm en s6 := .engineWrite <| .engineWrite <| .dualCheck h3
  have h7 : Calm en s7 := .foldl h6 fun _ _ h => .writeImage h
  have h9 : Calm en s9 := .count <| .engineEvents h7
  have h10 : Calm en s10 := by
    unfold s10
    split
    · exact .setShard h9
    · exact h9
  have h11 : Calm en s11 := .coverAnswered h10
  split
  next hv => exact .of_snd hv (.sealWith h11)
  next hv => exact .send <| .count <| .of_snd hv (.sealWith h11)

theorem Stays.execKeeperCopy {shard slot gen ep nonce ciphertext tag s} (h : Calm en s) :
    Stays en (execKeeperCopy shard slot gen ep nonce ciphertext tag s) := by
  unfold Machine.execKeeperCopy
  split
  · exact .done h
  · extract_lets
    split
    · exact .done h
    · split
      · exact .done <| .countStale h
      · split
        · exact .done <| .unitFailed h
        · exact .ite (.done h) (.done <| .send <| .packageWrite <| .packageWrite h)

theorem Stays.execKeeperAck {shard s} (h : Calm en s) : Stays en (execKeeperAck shard s) := by
  unfold Machine.execKeeperAck
  split
  · exact .done h
  · exact .done <| .ite (.count <| .setShard h) h

theorem Calm.pushUnit {didx l off s} (h : Calm en s) : Calm en (pushUnit didx l off s) := by
  unfold Machine.pushUnit
  dsimp only
  split
  next hv => exact .of_snd hv (.sealWith <| .xtsReadAt h)
  next hv => exact .send <| .count <| .of_snd hv (.sealWith <| .xtsReadAt h)

theorem Calm.pushShards {didx s} (h : Calm en s) : Calm en (pushShards didx s) := by
  unfold Machine.pushShards
  refine .foldl h fun _ _ h => ?_
  dsimp only
  split
  next hv => exact .of_snd hv (.sealWith <| .xtsReadAt h)
  next hv =>
    have h1 := Calm.of_snd hv (.sealWith <| .xtsReadAt h)
    exact .foldl (.count h1) fun _ _ h => .send h

theorem Calm.endRestore {b s} (h : Calm en s) : Calm en (endRestore b s) :=
  .blockRestored <| .setBlock h

theorem Calm.unitRestored {didx off s} (h : Calm en s) : Calm en (unitRestored didx off s) := by
  unfold Machine.unitRestored
  exact .foldl (.updAd h) fun _ _ h => .endRestore h

theorem Stays.execPushUnit {adid stepc offset slot gen ep nonce ciphertext tag s} (h : Calm en s) :
    Stays en (execPushUnit adid stepc offset slot gen ep nonce ciphertext tag s) := by
  unfold Machine.execPushUnit
  split
  · exact .done h
  · extract_lets
    split
    · exact .done h
    · split
      · exact .done <| .countStale h
      · split
        · exact .done <| .unitFailed h
        · extract_lets
          split
          · exact .done h
          · exact .done <| .unitRestored <| .updAd <| .packageWrite <| .dropStale h

theorem Calm.rebuildImage {x s} (h : Calm en s) : Calm en (rebuildImage x s) := by
  unfold Machine.rebuildImage
  exact .foldl (.xtsReadAt h) fun _ _ h => .writeImage h

theorem Stays.execRestoreRequest {ldn adid offsets s} (h : Calm en s) :
    Stays en (execRestoreRequest ldn adid offsets s) := by
  unfold Machine.execRestoreRequest
  split
  · exact .done h
  · extract_lets _ _ _ s1
    have h1 : Calm en s1 := by
      refine .foldl h fun _ _ h => ?_
      extract_lets _ v
      have hv : Calm en v.2 := .foldl_snd h fun _ _ h => .verifyBlock h
      exact .ite (.foldl (.rebuildImage hv) fun _ _ h => .ite (.endRestore h) h) hv
    exact .done <| .foldl h1 fun _ _ h => .pushUnit h

theorem Calm.latchRules {s} (h : Calm en s) : Calm en (latchRules s) :=
  .updRed h

theorem Calm.newAttempt {s} (h : Calm en s) : Calm en (newAttempt s) :=
  h.of_lasts <| .newAttempt <| .start true s

theorem Calm.failUnkept {s} (h : Calm en s) : Calm en (failUnkept s) :=
  h.of_lasts <| .failUnkept <| .start true s

/-! ### Machine/Strain.lean -/

theorem Calm.strainBegin {g w s} (h : Calm en s) : Calm en (strainBegin g w s) := by
  unfold Machine.strainBegin
  exact .updCore <| .count <| .count h

theorem Stays.onStrain {core op ok reads s f} (h : Calm en s) (hf : ∀ w s, Calm en s → Calm en (f w s)) :
    Stays en (onStrain core op ok reads s f) := by
  unfold Machine.onStrain
  extract_lets
  split
  · exact .done h
  · exact .ite (.done <| .progFault <| .strainBegin h) (.done <| .withReads (.strainBegin h) (hf _))

theorem Calm.endRow {s r status} (h : Calm en s) : Calm en (endRow s r status) := by
  unfold Machine.endRow
  exact .updAd h

theorem Calm.gatherPage {env g w row pg cbs s} (h : Calm en s) : Calm en (gatherPage env g w row pg cbs s).2 := by
  unfold Machine.gatherPage
  extract_lets _ _ _ _ _ _ _ _ _ stale _ _ _ _ v
  have hstale {b} : Calm en (stale b s).2 := .endRow <| .ite (.frame h) (.countStale h)
  have hv : Calm en v.2 := .verifyRange h
  split
  · exact h
  · split
    · split
      · exact hstale
      · split
        · exact hstale
        · split
          · exact h
          · split
            next hp =>
            have hpage := Calm.of_snd hp (.xtsReadAt hv)
            split
            next ht =>
            have htail := Calm.of_snd ht (.xtsReadAt hpage)
            extract_lets _ _ _ s1 s2
            have h1 : Calm en s1 := .ite (.frame htail) htail
            exact .ite (.endRow h1) h1
    · split
      · exact h
      · split
        · exact hstale
        · split
          · exact hstale
          · refine .opEvents <| .foldl_snd h fun _ _ h => ?_
            extract_lets
            split
            · exact .xtsReadAt h
            · exact h

theorem Calm.awaitHbm {g s} (h : Calm en s) : Calm en (awaitHbm g s) := by
  unfold Machine.awaitHbm
  exact .updCore <| .fresh h

theorem Stays.execGather {core env s} (h : Calm en s) : Stays en (execGather core env s) := by
  unfold Machine.execGather
  exact .onStrain (.bringUpsets h) fun _ _ h => .awaitHbm <| .tileWrite <| .tileWrite <| .foldl_snd h fun _ _ h =>
    .gatherPage h

theorem Stays.execMask {core s} (h : Calm en s) : Stays en (execMask core s) := by
  unfold Machine.execMask
  exact .onStrain h fun _ _ h => .foldl h fun _ _ h => .tileWrite h

theorem Calm.sealPage {p slot c l rows s} (h : Calm en s) : Calm en (sealPage p slot c l rows s).2 := by
  unfold Machine.sealPage
  dsimp only
  exact .updKv <| .xtsWriteFor <| .xtsWriteFor h

theorem Calm.appendRow {g w row ka va s} (h : Calm en s) : Calm en (appendRow g w row ka va s).2 := by
  unfold Machine.appendRow
  extract_lets _ _ _ _ _ _ _ _ _ s1 s2 _ _ r x
  have h1 : Calm en s1 := by
    unfold s1
    exact .xtsWriteFor h
  have h2 : Calm en s2 := .updKv h1
  have hr : Calm en r.2 := .foldl_snd h2 fun _ _ h => .xtsReadAt h
  have hx : Calm en x.2 := .sealPage hr
  split
  · exact h
  · split
    · exact .countStale h
    · split
      · exact h2
      · exact hx

theorem Stays.execAppend {core s} (h : Calm en s) : Stays en (execAppend core s) := by
  unfold Machine.execAppend
  exact .onStrain h fun _ _ h => .opEvents <| .foldl_snd h fun _ _ h => .appendRow h

theorem Stays.execBlock {core s} (h : Calm en s) : Stays en (execBlock core s) := by
  unfold Machine.execBlock
  exact .onStrain h fun _ _ h => .opEvents <| .tileWrite <| .tileWrite h

theorem Stays.execTrans {core s} (h : Calm en s) : Stays en (execTrans core s) := by
  unfold Machine.execTrans
  exact .onStrain h fun _ _ h => .opEvents <| .foldl h fun _ _ h => .tileWrite <| .tileWrite h

/-! ### Machine/Admission.lean -/

theorem Stays.execSubmit {s} (h : Calm en s) : Stays en (execSubmit s) := by
  unfold Machine.execSubmit
  split
  · exact .done h
  · extract_lets
    refine .ite (.done <| .finish h) <| .ite (.done <| .finish h) ?_
    split
    · exact .done <| .finish h
    · exact .done <| .updAd <| .takeUp h

theorem Calm.refuseRequest {r status detail s} (h : Calm en s) : Calm en (refuseRequest r status detail s) :=
  .finish <| .updAd h

theorem Calm.deferRequest {r s} (h : Calm en s) : Calm en (deferRequest r s) := by
  unfold Machine.deferRequest
  exact .ite (.refuseRequest <| .updAd <| .ite (.updAd h) h) (.updRequest <| .ite (.updAd h) h)

theorem Calm.allocKv {r s} (h : Calm en s) : Calm en (allocKv r s) := by
  unfold Machine.allocKv
  extract_lets _ _ _ _ _ _ s6
  have h6 : Calm en s6 := .evict <| .updRequest <| .updKv h
  split
  · exact h
  · split
    · exact h6
    · split
      · exact h6
      · exact .updKv h6

theorem Calm.admitRequest {r gen s} (h : Calm en s) : Calm en (admitRequest r gen s) := by
  unfold Machine.admitRequest
  exact .allocKv <| .updRequest h

theorem Calm.sortOne {r s} (h : Calm en s) : Calm en (sortOne r s) := by
  unfold Machine.sortOne
  extract_lets
  split
  · exact .ite (.deferRequest h) h
  · split
    · exact .refuseRequest h
    · exact .ite (.deferRequest h) (.admitRequest h)

theorem Calm.formTable {p g s} (h : Calm en s) : Calm en (formTable p g s) :=
  .ite h (.updAd <| .foldl h (fun _ _ h => .updRequest h))

theorem Stays.execAdmissionSort {s} (h : Calm en s) : Stays en (execAdmissionSort s) := by
  unfold Machine.execAdmissionSort
  extract_lets
  split
  · exact .done h
  · exact .done <| .updAd <| .foldl (.foldl (.updAd h) (fun _ _ h => .sortOne h)) fun _ _ h => .formTable h

theorem Stays.execCaddyPrefetchList {s} (h : Calm en s) : Stays en (execCaddyPrefetchList s) :=
  .onlyIf h fun _ h => .updAd <| .foldl (.untilTime h) fun _ _ h => .setCaddy h

theorem Calm.fillFailed {die next adid s} (h : Calm en s) : Calm en (fillFailed die next adid s) := by
  unfold Machine.fillFailed
  exact .ite (.failStep <| .updAd h) (.updAd h)

theorem Calm.restoreImage {didx addr s} (h : Calm en s) : Calm en (restoreImage didx addr s) := by
  unfold Machine.restoreImage
  extract_lets _ _ _ _ _ close
  have hclose {s} (h : Calm en s) : Calm en (close s) := .ite h (.endRestore h)
  refine .ite h <| hclose <| .foldl h fun _ _ h => ?_
  exact .ite h <| .ite (.rebuildImage h) (.send <| .updAd h)

/-- The function is unfolded as a whole: its equation compares searches through `List.range` of a large number. -/
theorem Calm.allocCaddy {die p b s} (h : Calm en s) : Calm en (allocCaddy die p b s) := by
  rw [(?ha : @Machine.allocCaddy = ?a)]
  case ha => delta Machine.allocCaddy; rfl
  extract_lets -underBinder
  split
  · exact .setCaddy h
  · extract_lets lru
    cases lru with
    | none => exact .count h
    | some v => exact .count <| .setCaddy h

theorem Calm.fillBlock {env next die didx addr s} (h : Calm en s) :
    Calm en (fillBlock env next die didx addr s).2 := by
  unfold Machine.fillBlock
  extract_lets _ _ v r s1
  have h1 : Calm en s1 := .count <| .xtsRead <| .verifyBlock h
  split
  · exact .restoreImage <| .fillFailed <| .count h1
  · exact .allocCaddy h1

theorem Stays.execCaddyFill {die didx addr env s} (h : Calm en s) : Stays en (execCaddyFill die didx addr env s) := by
  unfold Machine.execCaddyFill
  exact .onlyIf h fun _ h => .fillBlock h

theorem Calm.publishCore {g s} (h : Calm en s) : Calm en (publishCore g s) := by
  unfold Machine.publishCore
  split
  · exact h
  · extract_lets _ s1
    have h1 : Calm en s1 := by
      refine .foldl h fun _ _ h => .ite h ?_
      split
      · exact h
      · exact .tileWrite h
    refine .ite h1 ?_
    split
    · exact h1
    · exact .tileWrite h1

theorem Calm.missCopy {r s} (h : Calm en s) : Calm en (missCopy r s) := by
  unfold Machine.missCopy
  exact .updAd <| .updRequest h

theorem Calm.zeroPadding {p g s} (h : Calm en s) : Calm en (zeroPadding p g s) := by
  unfold Machine.zeroPadding
  split
  · exact h
  · exact .ite h (.xtsWriteFor h)

theorem Stays.execTablePublish {s} (h : Calm en s) : Stays en (execTablePublish s) :=
  .onlyIf h fun _ h => .updAd <| .foldl (.foldl (.foldl (.untilTime h) (fun _ _ h => .missCopy h)) (fun _ _ h =>
    .zeroPadding h)) fun _ _ h => .publishCore h

theorem Stays.execInfuserPrefill {core s} (h : Calm en s) : Stays en (execInfuserPrefill core s) := by
  unfold Machine.execInfuserPrefill
  exact .onlyIf h fun _ h => .updCore <| .untilTime h

theorem Calm.staleRows {adid s} (h : Calm en s) : Calm en (staleRows adid s) := by
  unfold Machine.staleRows
  exact .updAd h

theorem Calm.serveBlock {env next die didx b s} (h : Calm en s) : Calm en (serveBlock env next die didx b s).2 := by
  unfold Machine.serveBlock
  extract_lets
  split
  · exact .count <| .setCaddy h
  · exact .fillBlock <| .count h

theorem Calm.serveSlice {env next die r s} (h : Calm en s) : Calm en (serveSlice env next die r s).2 := by
  unfold Machine.serveSlice
  extract_lets
  split
  · exact .staleRows <| .count <| .updAd h
  · exact .count <| .foldl_snd h fun _ _ h => .serveBlock h

theorem Calm.ringWrite {g base n o bs s} (h : Calm en s) : Calm en (ringWrite g base n o bs s) := by
  unfold Machine.ringWrite
  exact .tileWrite <| .tileWrite h

theorem Calm.releaseSlices {g s} (h : Calm en s) : Calm en (releaseSlices g s) := by
  unfold Machine.releaseSlices
  exact .updCore h

theorem Calm.writeSlice {env g key ring r s} (h : Calm en s) : Calm en (writeSlice env g key ring r s) := by
  unfold Machine.writeSlice
  exact .count <| .updCore <| .ringWrite <| .serveSlice h

theorem Stays.execInfuserSlice {core slot ringB env s} (h : Calm en s) :
    Stays en (execInfuserSlice core slot ringB env s) := by
  unfold Machine.execInfuserSlice
  extract_lets _ _ s2
  have h2 : Calm en s2 := .releaseSlices <| .advanceCore <| .bringUpsets h
  split
  · exact .done h2
  · extract_lets
    split
    · exact .done h2
    · extract_lets
      split
      · exact .done h2
      · exact .done <| .ite (.writeSlice h2) (.advanceCore <| .writeSlice h2)

/-! ### Machine/Takeover.lean -/

theorem Calm.mapLdn {l sna s} (h : Calm en s) : Calm en (mapLdn l sna s) :=
  .setBoth h

theorem Calm.takeoverRecord {ldn failed chosen result s} (h : Calm en s) :
    Calm en (takeoverRecord ldn failed chosen result s) := by
  unfold Machine.takeoverRecord
  exact .trace <| .updMaster h

theorem Calm.takeOrder {ldn failed chosen s} (h : Calm en s) : Calm en (takeOrder ldn failed chosen s) := by
  unfold Machine.takeOrder
  extract_lets _ _ _ s3 _ s4 s5 lowest _ s6
  have h3 : Calm en s3 := .foldl (.updMaster <| .takeoverRecord h) fun _ _ h => .setPort h
  have h4 : Calm en s4 := .frame h3
  have h5 : Calm en s5 := .ite h4 (.computeRoutes h4)
  have h6 : Calm en s6 := .frame h5
  refine .ite h <| .ite ?_ h5
  cases lowest with
  | nil => exact h6
  | cons a l => exact .send h6

theorem Calm.giveOrders {os s} (h : Calm en s) : Calm en (giveOrders os s) := by
  unfold Machine.giveOrders
  exact .foldl (.updMaster h) fun _ _ h => .takeOrder <| .send h

theorem Calm.orderFor {l s} (h : Calm en s) : Calm en (orderFor l s) := by
  unfold Machine.orderFor
  split
  · exact .updMaster <| .takeoverRecord h
  · exact .giveOrders h

theorem Calm.nextChoice {result s} (h : Calm en s) : Calm en (nextChoice result s) := by
  unfold Machine.nextChoice
  split
  · exact h
  · exact .orderFor <| .takeoverRecord h

theorem Stays.execTakeoverOrder {ldn failed chosen steep s} (h : Calm en s) :
    Stays en (execTakeoverOrder ldn failed chosen steep s) :=
  .ite (.done h) (.done <| .takeOrder <| .send h)

theorem Stays.execPlannedReturn {value s} (h : Calm en s) : Stays en (execPlannedReturn value s) := by
  unfold Machine.execPlannedReturn
  extract_lets
  split
  · exact .done h
  · exact .onlyIf h fun _ h => .giveOrders h

theorem Calm.sendFrames {env a step key s} (h : Calm en s) : Calm en (sendFrames env a step key s) := by
  unfold Machine.sendFrames
  split
  · exact h
  · split
    · exact h
    · extract_lets _ _ _ r
      have hr : Calm en r.2 := .restoreBlocks h
      refine .ite h <| .ite ?_ ?_
      · split
        · exact .ite (.failShard hr) hr
        · exact hr
      · split
        next hv =>
        have h1 := Calm.of_snd hv (.xtsReadAt hr)
        split
        next hv =>
        have h2 := Calm.of_snd hv (.xtsReadAt h1)
        split
        next hv => exact .of_snd hv (.sealWith h2)
        next hv => exact .send <| .of_snd hv (.sealWith h2)

theorem Stays.execStandInRestoreRequest {sna ask key s} (h : Calm en s) :
    Stays en (execStandInRestoreRequest sna ask key s) := by
  unfold Machine.execStandInRestoreRequest
  extract_lets
  refine .onlyIf h fun _ h => ?_
  split
  · exact .send <| .foldl h fun _ _ h => .send h
  · exact .send <| .foldl h fun _ _ h => .send h
  · exact .sendFrames h
  · exact .sendFrames h
  · exact h

theorem Calm.askFrames {step f src ldn s} (h : Calm en s) : Calm en (askFrames step f src ldn s) := by
  unfold Machine.askFrames
  exact .foldl (.frame h) fun _ _ h => .send h

theorem Calm.askImages {ldn s} (h : Calm en s) : Calm en (askImages ldn s) := by
  unfold Machine.askImages
  extract_lets
  refine .foldl (.frame h) fun _ _ h => ?_
  extract_lets _ _ s2
  have h2 : Calm en s2 := .foldl h fun _ _ h => .rebuildImage h
  exact .ite h2 (.foldl (.frame h2) (fun _ _ h => .ite h (.send h)))

theorem Calm.sendReady {s} (h : Calm en s) : Calm en (sendReady s) := by
  unfold Machine.sendReady
  exact .foldl (.frame h) fun _ _ h => .send h

theorem Calm.advanceRestore {n s} (h : Calm en s) : Calm en (advanceRestore n s) := by
  induction n generalizing s with
  | zero => exact h
  | succ n ih =>
    unfold Machine.advanceRestore
    split
    · exact h
    · split
      · exact h
      · split
        · exact ih <| .foldl (.frame h) fun _ _ h => .send h
        · exact .ite (.frame h) (ih <| .askFrames <| .enterShards h)
        · exact ih <| .askFrames h
        · exact ih <| .askImages h
        · exact .ite (.sendReady h) h

theorem Calm.restoreItem {ldn step key bs s} (h : Calm en s) : Calm en (restoreItem ldn step key bs s) := by
  unfold Machine.restoreItem
  split
  · exact .updAd h
  · exact .ite h (.setDesc h)
  · split
    · exact h
    · split
      · exact h
      · extract_lets
        split
        · exact .countGcmFail h
        · exact .packageWrite <| .packageWrite h

theorem Calm.restorePace {n s} (h : Calm en s) : Calm en (restorePace n s) := by
  unfold Machine.restorePace
  exact .frame <| .untilClock h

theorem Stays.execRestoreData {step kind key data last s} (h : Calm en s) :
    Stays en (execRestoreData step kind key data last s) := by
  unfold Machine.execRestoreData
  split
  · exact .done h
  · extract_lets
    split
    · exact .done h
    · exact .done <| .advanceRestore <| .frame <| .ite h (.restoreItem <| .restorePace h)

theorem Calm.takeEffect {moves c s} (h : Calm en s) : Calm en (takeEffect moves c s) :=
  .foldl h fun _ _ h => .takeoverRecord <| .updMaster <| .frame h

theorem Stays.execStandInReady {sna gen digest0 digest1 s} (h : Calm en s) :
    Stays en (execStandInReady sna gen digest0 digest1 s) := by
  unfold Machine.execStandInReady
  extract_lets
  split
  · exact .done h
  · split
    · exact .done <| .nextChoice h
    · exact .ite (.done <| .takeEffect <| .send <| .updMaster h) (.done <| .updMaster h)

theorem Stays.execReadyTimeout {s} (h : Calm en s) : Stays en (execReadyTimeout s) := by
  unfold Machine.execReadyTimeout
  split
  · exact .done h
  · exact .onlyIf h fun _ h => .nextChoice <| .untilClock h

theorem Stays.execTakeoverEffect {moves commitSteep s} (h : Calm en s) :
    Stays en (execTakeoverEffect moves commitSteep s) :=
  .ite (.done h) (.done <| .takeEffect <| .send h)

theorem Stays.execCommitApply {s} (h : Calm en s) : Stays en (execCommitApply s) := by
  unfold Machine.execCommitApply
  refine .onlyIf h fun _ h => ?_
  extract_lets _ _ s1 s2 s3
  have h1 : Calm en s1 := .foldl h fun _ _ h => .setDesc <| .dropPage h
  have h2 : Calm en s2 := .foldl h1 fun _ _ h => .ite (.setOutstanding h) h
  have h3 : Calm en s3 := .foldl h2 fun _ _ h => .pushShards h
  exact .frame <| .updRed <| .updMaster <| .commitExperts h3

theorem Stays.execAbortApply {s} (h : Calm en s) : Stays en (execAbortApply s) := by
  unfold Machine.execAbortApply
  refine .onlyIf h fun _ h => ?_
  extract_lets _ _ s1 s2 _ s3
  have h1 : Calm en s1 := .frame h
  have h2 : Calm en s2 := .updMaster h1
  have h3 : Calm en s3 := .updMaster h2
  split
  · exact h1
  · extract_lets
    refine .ite h2 ?_
    split
    · split
      · exact .takeoverRecord h3
      · exact .giveOrders h3
    · refine .ite h2 ?_
      split
      · exact h2
      · exact .orderFor <| .updMaster h2

/-! ### Machine/Boundary.lean -/

theorem Calm.overrunCores {f s} (h : Calm en s) : Calm en (overrunCores f s) :=
  h.of_lasts <| .overrunCores <| .start false s

theorem Stays.execGuardStart {s} (h : Calm en s) : Stays en (execGuardStart s) :=
  .onlyIf h fun _ h => .frame <| .ite (.overrunCores <| .untilTime h) (.untilTime h)

theorem Calm.contribute {why s} (h : Calm en s) : Calm en (contribute why s) := by
  unfold Machine.contribute
  split
  · exact h
  · extract_lets _ _ _ _ s4
    have h4 : Calm en s4 := .foldl (.frame h) fun _ _ h => .ite h (.send h)
    exact .ite (.takeContribution h4) h4

theorem Calm.endServing {s} (h : Calm en s) : Calm en (endServing s) :=
  h.of_lasts <| .endServing <| .start true s

theorem Calm.endStep {s} (h : Calm en s) : Calm en (endStep s) :=
  h.of_lasts <| .endStep <| .start true s

theorem Calm.swapTables {run abort first s} (h : Calm en s) : Calm en (swapTables run abort first s) :=
  h.of_lasts <| .swapTables <| .start true s

theorem Calm.startCore {run bound g s} (h : Calm en s) : Calm en (startCore run bound g s) :=
  h.of_lasts <| .startCore <| .start true s

theorem Calm.countRepeats {commit s} (h : Calm en s) : Calm en (countRepeats commit s) :=
  h.of_lasts <| .countRepeats <| .start true s

theorem Calm.countAll {ev n s} (h : Calm en s) : Calm en (countAll ev n s) :=
  .frame h

theorem Calm.freezeBlocks {f s} (h : Calm en s) : Calm en (freezeBlocks f s) :=
  .ite (.frame h) h

theorem Calm.quotaBoundary {s} (h : Calm en s) : Calm en (quotaBoundary s) :=
  h.of_lasts <| .quotaBoundary <| .start true s

theorem Calm.newSkews {s} (h : Calm en s) : Calm en (newSkews s) :=
  .frame h

theorem Calm.steepBoundary {f s} (h : Calm en s) : Calm en (steepBoundary f s) := by
  unfold Machine.steepBoundary
  exact .frame h

theorem Stays.execAdapterStateEffect {didx s} (h : Calm en s) : Stays en (execAdapterStateEffect didx s) := by
  unfold Machine.execAdapterStateEffect
  extract_lets _ _ s1 _ s3
  have h1 : Calm en s1 := .frame h
  have h3 : Calm en s3 := .ite (.dropShards h1) h1
  split
  · exact .done h
  · extract_lets set s2
    have hset {s} (h : Calm en s) : Calm en (set s) := .finish <| .setDesc h
    have h2 : Calm en s2 := hset <| .enterShards h1
    refine .ite (.done h) <| .ite (.ite (.done <| .finish h1) <| .ite (.done <| .finish h1) ?_) ?_
    · exact .done <| .ite (.sendRollCalls h2) h2
    · exact .done <| hset <| .ite (.releaseLater h3) h3

/-! ### Machine/Trace.lean -/

theorem Calm.updBlock {b f s} (h : Calm en s) : Calm en (updBlock b f s) :=
  .frame h

theorem Calm.writeSelect {b i ev s} (h : Calm en s) : Calm en (writeSelect b i ev s) :=
  .ite (.updBlock h) (.updBlock h)

theorem Stays.execCounterSelect {block counter event s} (h : Calm en s) :
    Stays en (execCounterSelect block counter event s) :=
  .onlyIf h fun _ h => .writeSelect h

theorem Calm.writeClear {b s} (h : Calm en s) : Calm en (writeClear b s) :=
  .ite (.updBlock h) (.updBlock h)

theorem Stays.execCounterClear {block s} (h : Calm en s) : Stays en (execCounterClear block s) :=
  .onlyIf h fun _ h => .writeClear h

theorem Stays.execCounterBoundary {s} (h : Calm en s) : Stays en (execCounterBoundary s) := by
  unfold Machine.execCounterBoundary
  extract_lets
  split
  · exact .done <| .frame h
  · exact .onlyIf (.frame h) fun _ h => .frame h

theorem Calm.clearHists {s} (h : Calm en s) : Calm en (clearHists s) :=
  .frame h

theorem Stays.execHistogramClear {s} (h : Calm en s) : Stays en (execHistogramClear s) :=
  .done <| .clearHists h

theorem Calm.clearEvents {s} (h : Calm en s) : Calm en (clearEvents s) :=
  .frame h

theorem Stays.execEventCountClear {s} (h : Calm en s) : Stays en (execEventCountClear s) :=
  .done <| .clearEvents h

theorem Stays.execSnapshotFreeze {s} (h : Calm en s) : Stays en (execSnapshotFreeze s) := by
  unfold Machine.execSnapshotFreeze
  split
  · exact .done h
  · exact .done <| .trace <| .frame h

theorem Stays.execSnapshotGatherDone {s} (h : Calm en s) : Stays en (execSnapshotGatherDone s) := by
  unfold Machine.execSnapshotGatherDone
  split
  · exact .done h
  · exact .done <| .frame h

theorem Calm.ringWriteRec {late r s} (h : Calm en s) : Calm en (ringWriteRec late r s) := by
  unfold Machine.ringWriteRec
  exact .ite (.frame h) <| .ite (.hostWrite <| .readStored <| .frame <| .writeStored h) (.frame <| .writeStored h)

theorem Calm.lostRecord {s} (h : Calm en s) : Calm en (lostRecord s) := by
  unfold Machine.lostRecord
  exact .ite h (.trace <| .frame h)

theorem Stays.execTraceWrite {s} (h : Calm en s) : Stays en (execTraceWrite s) := by
  unfold Machine.execTraceWrite
  split
  · exact .done h
  · exact .done <| .lostRecord <| .ringWriteRec <| .frame <| .untilClock h

/-! ### Machine/Staging.lean -/

theorem Calm.startCheck {s} (h : Calm en s) : Calm en (startCheck s) :=
  .updDict h

theorem Stays.execCheck {session s} (h : Calm en s) : Stays en (execCheck session s) :=
  .onlyIf h fun _ h => .startCheck h

theorem Stays.execCheckDone {s} (h : Calm en s) : Stays en (execCheckDone s) :=
  .onlyIf h fun _ h => .writeReport h

theorem Calm.switchHalf {s} (h : Calm en s) : Calm en (switchHalf s) := by
  unfold Machine.switchHalf
  exact .ite h (.measureHalf <| .updLeaf <| .setRec <| .ite (.setRec h) h)

theorem Calm.resizeCaddies {old s} (h : Calm en s) : Calm en (resizeCaddies old s) :=
  .foldl (.frame h) fun _ _ h => .setCaddy h

theorem Calm.moveCores {old s} (h : Calm en s) : Calm en (moveCores old s) :=
  .foldl h fun _ _ h => .ite h (.updBlock <| .ite (.zeroCore h) h)

theorem Calm.movePartitions {old s} (h : Calm en s) : Calm en (movePartitions old s) := by
  unfold Machine.movePartitions
  refine .foldl h fun _ _ h => ?_
  extract_lets s0
  have h0 : Calm en s0 := .ite (.setPartState h) (.appear h)
  exact .ite h0 (.updPart h0)

theorem Calm.configTrace {rule s} (h : Calm en s) : Calm en (configTrace rule s) :=
  .trace h

theorem Calm.failCommit {e rule s} (h : Calm en s) : Calm en (failCommit e rule s) :=
  .configTrace <| .updDict h

theorem Calm.discard {s} (h : Calm en s) : Calm en (discard s) := by
  unfold Machine.discard
  extract_lets
  split
  · exact .updDict h
  · exact .ite (.updDict <| .updDict h) (.updDict h)

theorem Stays.execDiscard {session s} (h : Calm en s) : Stays en (execDiscard session s) :=
  .onlyIf h fun _ h => .discard h

/-! ### Machine/Startup.lean -/

theorem Stays.execHousekeepingRail {s} (h : Calm en s) : Stays en (execHousekeepingRail s) :=
  .onlyIf h fun _ h => .updBoot <| .updCust h

theorem Calm.hxUp {s} (h : Calm en s) : Calm en (hxUp s) :=
  .appear <| .updBoot h

theorem Stays.execMainInputGood {s} (h : Calm en s) : Stays en (execMainInputGood s) := by
  unfold Machine.execMainInputGood
  exact .done <| .ite (.hxUp <| .updBoot h) (.updBoot h)

theorem Calm.stopStart {cause s} (h : Calm en s) : Calm en (stopStart cause s) := by
  unfold Machine.stopStart
  exact .ite (.hxUp <| .startupStop h) (.startupStop h)

theorem Calm.readIdentity {id s} (h : Calm en s) : Calm en (readIdentity id s) := by
  unfold Machine.readIdentity
  extract_lets _ s1
  have h1 : Calm en s1 := .foldl (.updBoot h) fun _ _ h => .updStack h
  split
  · exact .stopStart h1
  · exact .frame <| .updBoot h1

theorem Calm.stage4 {id s} (h : Calm en s) : Calm en (stage4 id s) :=
  .ite (.stopStart h) (.hxUp <| .updBoot <| .ite (.frame h) h)

theorem Calm.hardenLog {s} (h : Calm en s) : Calm en (hardenLog s) :=
  .ite (.updBoot <| .foldl (.frame <| .elapse h) (fun _ _ h => .rasEvent h)) h

theorem Calm.zeroFill {s} (h : Calm en s) : Calm en (zeroFill s) := by
  unfold Machine.zeroFill
  extract_lets _ s1
  have h1 : Calm en s1 := .foldl (.hardenLog h) fun _ _ h => .updStack h
  have h2 : Calm en { s1 with mem := outsideHbm s1.mem } := .frame h1
  exact .frame h2

theorem Calm.readHalves {s} (h : Calm en s) : Calm en (readHalves s) := by
  unfold Machine.readHalves
  exact .setBoth <| .updLeaf h

theorem Calm.beginStage {n s} (h : Calm en s) : Calm en (beginStage n s) :=
  .updBoot h

theorem Calm.enterStage {n t rails s} (h : Calm en s) : Calm en (enterStage n t rails s) :=
  .updBoot <| .beginStage <| .untilClock h

theorem Stays.execStageAdvance {ident s} (h : Calm en s) : Stays en (execStageAdvance ident s) := by
  unfold Machine.execStageAdvance
  split
  · exact .done h
  · split
    · exact .onlyIf h fun _ h => .beginStage h
    · exact .onlyIf h fun _ h => .readIdentity h
    · exact .onlyIf h fun _ h => .stage4 h
    · exact .done <| .enterStage h
    · exact .done <| .enterStage h
    · exact .done <| .enterStage <| .zeroFill h
    · exact .done <| .ite (.enterStage <| .readHalves h) (.stopStart h)
    · exact .onlyIf h fun _ h => .beginStage h
    · exact .onlyIf h fun _ h => .beginStage h
    · exact .onlyIf h fun _ h => .updBoot h
    · exact .done h

theorem Calm.settleSlots {s} (h : Calm en s) : Calm en (settleSlots s) :=
  .foldl h fun _ _ h => .setSlot h

theorem Stays.execResetPinRelease {s} (h : Calm en s) : Stays en (execResetPinRelease s) :=
  .done <| .updBoot h

theorem Stays.execPerst {s} (h : Calm en s) : Stays en (execPerst s) :=
  .onlyIf h fun _ h => .flrPf h

theorem Calm.readFaultLog {i s} (h : Calm en s) : Calm en (readFaultLog i s) := by
  unfold Machine.readFaultLog
  split
  · exact .updBoot h
  · exact .updBoot <| .fresh h

theorem Stays.execFaultLogRead {index s} (h : Calm en s) : Stays en (execFaultLogRead index s) :=
  .onlyIf h fun _ h => .readFaultLog h

/-! ### Machine/Access.lean -/

theorem Calm.malformed {f x s} (h : Calm en s) : Calm en (malformed f x s) :=
  .answer h

theorem Stays.execRead {s} (h : Calm en s) : Stays en (execRead s) := by
  unfold Machine.execRead
  split
  · exact .done h
  next hv =>
    split
    next hw => exact .done <| .of_snd hw <| .takeFrame <| .nextFrame h hv
    next hw =>
      have h1 := Calm.of_snd hw <| .takeFrame <| .nextFrame h hv
      split
      · exact .done <| .malformed h1
      · exact .done <| .answer h1

theorem Stays.execDescribe {s} (h : Calm en s) : Stays en (execDescribe s) := by
  unfold Machine.execDescribe
  split
  · exact .done h
  next hv =>
    split
    next hw => exact .done <| .of_snd hw <| .takeFrame <| .nextFrame h hv
    next hw =>
      have h1 := Calm.of_snd hw <| .takeFrame <| .nextFrame h hv
      split
      · exact .done <| .malformed h1
      · exact .done <| .answer h1

theorem Calm.storeValue {i sub v s} (h : Calm en s) : Calm en (storeValue i sub v s) := by
  unfold Machine.storeValue
  split
  · exact .updDict h
  · exact .updBlock h
  · exact .ite (.updDict h) <| .ite (.writeSelect h) <| .ite (.frame <| .setCfg h) (.setCfg h)
  · exact h

theorem Calm.nextOf {s o} (ho : Stays en o) : Calm en (nextOf s o) := by
  obtain ⟨t, rfl, ht⟩ := ho
  exact ht

theorem Calm.refuseCmd {s} (h : Calm en s) : Calm en (refuseCmd s).2 := by
  unfold Machine.refuseCmd
  exact .frame h

theorem Calm.accepted {s} (h : Calm en s) : Calm en (accepted s).2 :=
  h

theorem Calm.acceptIf {c s f} (h : Calm en s) (hf : ∀ s, Calm en s → Calm en (f s)) : Calm en (acceptIf c s f).2 := by
  unfold Machine.acceptIf
  split
  · exact hf _ h
  · exact .refuseCmd h

theorem Calm.sealWrite {path v s} (h : Calm en s) : Calm en (sealWrite path v s).2 := by
  unfold Machine.sealWrite
  split
  · exact .refuseCmd h
  · split
    · exact .accepted <| .nextOf (.execSealBreakArm h)
    · split
      · exact .acceptIf h fun _ h => .nextOf (.execSealBreak h)
      · exact .refuseCmd h

theorem Calm.answerWrite {f x status detail rs s} (h : Calm en s) : Calm en (answerWrite f x status detail rs s) :=
  .answer h

theorem Calm.msixPend {p n s} (h : Calm en s) : Calm en (msixPend p n s) := by
  unfold Machine.msixPend
  exact .ite (.sendMsix <| .updPart h) h

theorem Calm.barByte {p o v s} (h : Calm en s) : Calm en (barByte p o v s) :=
  .ite (.updPart h) <| .ite (.updPart h) <| .ite (.updDict h) <| .ite (.updDict h) h

theorem Calm.barWrite {p o bs s} (h : Calm en s) : Calm en (barWrite p o bs s) := by
  unfold Machine.barWrite
  extract_lets s0
  have h0 : Calm en s0 := .foldl h fun _ _ h => .barByte h
  exact .ite (.ite (.msixPend h0) h0) h

theorem Calm.entryWrite {i sub bs s} (h : Calm en s) : Calm en (entryWrite i sub bs s) := by
  unfold Machine.entryWrite
  exact .ite (.storeValue h) h

theorem Stays.execRegisterWrite {target value s} (h : Calm en s) : Stays en (execRegisterWrite target value s) := by
  unfold Machine.execRegisterWrite
  exact .done <| .ite (.ite h (.barWrite h)) (.entryWrite h)

/-! ### Machine/Bar0.lean -/

theorem Stays.execTlpReceive {fn ideStream tlp s} (h : Calm en s) : Stays en (execTlpReceive fn ideStream tlp s) := by
  unfold Machine.execTlpReceive
  extract_lets
  refine .onlyIf h fun _ h => ?_
  extract_lets
  split
  · exact .count <| .updFront h
  · split
    · exact .count h
    · exact .ite (.emit <| .count <| .count h) (.count h)

/-! ### Machine/Power.lean -/

theorem Calm.halveCores {halved s} (h : Calm en s) : Calm en (halveCores halved s) :=
  .frame h
end
end Sys2Proof.Machine
end

section
/-! O57 and O58. The commands that move the engine. -/

set_option Elab.async false
namespace Sys2Proof.Machine

/-- The rows of Table ST-4. -/
def engineTable : List (EngineState × EngineState) :=
  [(.off, .listen), (.listen, .locked), (.listen, .standby), (.listen, .stopped), (.listen, .off), (.locked, .standby),
   (.standby, .locked), (.locked, .listen), (.standby, .listen), (.locked, .stopped), (.standby, .stopped), (.locked, .off),
   (.standby, .off), (.stopped, .off)]

/-- The engine has entered state `e`; an exit from Locked is counted. -/
def Engine.move (e : EngineState) (a : Engine) : Engine :=
  { a with state := e, exits := if a.state = .locked then a.exits + 1 else a.exits }

section
variable {en : Engine}

theorem Calm.setEngine_same {e reason s} (h : Calm en s) (he : en.state = e) : Calm en (setEngine e reason s) := by
  subst h
  unfold Machine.setEngine
  exact (if_pos he).symm ▸ rfl

theorem Calm.setEngine {e reason s} (h : Calm en s) (he : en.state ≠ e) : Calm (en.move e) (setEngine e reason s) := by
  subst h
  unfold Machine.setEngine
  extract_lets old s1 _ s2
  have h1 : Calm (engineOf s) s1 := .ite rfl (.engineRecord rfl)
  have h2 : Calm ((engineOf s).move e) s2 := by
    obtain ⟨hq, hn, -, hx⟩ := Engine.mk.inj h1
    exact (Engine.mk.injEq ..).mpr ⟨hq, hn, rfl, congrArg (fun x => if old = .locked then x + 1 else x) hx⟩
  rw [if_neg (show ¬ old = e from he)]
  exact .trace h2

theorem Calm.enterListen {reason s} (h : Calm en s) (he : en.state ≠ .listen) :
    Calm (en.move .listen) (enterListen reason s) :=
  .frame (.setEngine h he)

/-- The engine has not moved, or has moved along one row of Table ST-4, or the module has been reset. -/
def Moved (en : Engine) (s : State) : Prop :=
  Calm en s ∨ (∃ e, (en.state, e) ∈ engineTable ∧ Calm (en.move e) s) ∨
    Calm { queue := en.queue, stretch := 0, state := .off, exits := 0 } s

namespace Moved
variable {s t : State}

theorem calm (h : Calm en s) : Moved en s := .inl h

theorem move (e : EngineState) (he : (en.state, e) ∈ engineTable) (h : Calm (en.move e) s) :
    Moved en s := .inr (.inl ⟨e, he, h⟩)

theorem reset (h : Calm { queue := en.queue, stretch := 0, state := .off, exits := 0 } s) : Moved en s := .inr (.inr h)

/-- Whatever leaves the engine alone may follow. -/
theorem map (h : Moved en s) (hf : ∀ en, Calm en s → Calm en t) : Moved en t :=
  h.imp (hf _) (.imp (fun ⟨e, he, h⟩ => ⟨e, he, hf _ h⟩) (hf _))

theorem ite {x y : State} {c : Prop} [Decidable c] (hx : Moved en x) (hy : Moved en y) :
    Moved en (if c then x else y) := by
  split
  · exact hx
  · exact hy

end Moved

/-! ### Waves and time -/

theorem locked_or_standby {e : EngineState} (hoff : e ≠ .off) (hstop : e ≠ .stopped) (hlisten : e ≠ .listen) :
    e = .locked ∨ e = .standby := by
  cases e with
  | locked => exact .inl rfl
  | standby => exact .inr rfl
  | off => contradiction
  | listen => contradiction
  | stopped => contradiction

/-- Only a Locked or Standby module leaves its state by a wave. -/
theorem Calm.takeWave {port p s} (h : Calm en s) (he : ¬(en.state = .locked ∨ en.state = .standby)) :
    Calm en (takeWave port p s) := by
  unfold Machine.takeWave
  extract_lets _ _ _ s1 s2
  have h2 : Calm en s2 := .send <| .frame h
  have hst : s2.steep.engine = en.state := congrArg Engine.state h2
  refine .ite h ?_
  split
  · exact h2
  · exact h2
  · exact .followWave <| .ite (.foundTime h2) h2
  next hoff hstop hlisten =>
    rw [hst] at hoff hstop hlisten
    exact (he (locked_or_standby hoff hstop hlisten)).elim

theorem Moved.leave {reason s} (h : Calm en s) (he : en.state = .locked ∨ en.state = .standby) :
    Moved en (enterListen reason s) := by
  refine .move .listen ?_ (.enterListen h ?_)
  · rcases he with he | he <;> rw [he] <;> decide
  · rcases he with he | he <;> rw [he] <;> decide

theorem Moved.takeWave {port p s} (h : Calm en s) : Moved en (takeWave port p s) := by
  by_cases he : en.state = .locked ∨ en.state = .standby
  · unfold Machine.takeWave
    extract_lets _ _ _ s1 s2
    have h2 : Calm en s2 := .send <| .frame h
    have hl {r} : Moved en (Machine.enterListen r (Machine.failStep 1 s2)) := .leave (.failStep h2) he
    refine .ite (.calm h) ?_
    split
    · exact .calm h2
    · exact .calm h2
    · exact .calm <| .followWave <| .ite (.foundTime h2) h2
    · refine .ite ?_ (.calm h2)
      split
      · exact .ite (.calm <| .actOnWave h2) hl
      · exact .ite hl (.calm h2)
  · exact .calm <| .takeWave h he

/-- What a command answers. -/
def Moves (en : Engine) (o : Host.Outcome State Fault Refusal) : Prop := ∃ t, o = .next t ∧ Moved en t

namespace Moves

theorem stays {o} (h : Stays en o) : Moves en o := h.imp fun _ ⟨ho, h⟩ => ⟨ho, .calm h⟩

theorem done {s : State} (h : Moved en s) : Moves en (done s) := ⟨s, rfl, h⟩

theorem onlyIf {s : State} {f : State → State} {c : Bool} (h : Calm en s) (hf : ∀ s, Calm en s → Moved en (f s)) :
    Moves en (onlyIf c s f) :=
  done (.ite (hf s h) (.calm h))

theorem ite {x y : Host.Outcome State Fault Refusal} {c : Prop} [Decidable c] (hx : Moves en x) (hy : Moves en y) :
    Moves en (if c then x else y) := by
  split
  · exact hx
  · exact hy

end Moves

theorem Moves.execWave {port pkt s} (h : Calm en s) : Moves en (execWave port pkt s) :=
  .onlyIf h fun _ h => .takeWave h

theorem Moves.execWaveDeadline {s} (h : Calm en s) : Moves en (execWaveDeadline s) := by
  have hst : s.steep.engine = en.state := congrArg Engine.state h
  unfold Machine.execWaveDeadline
  split
  · extract_lets
    split
    · exact .done <| .calm h
    · exact .ite (.done <| .calm <| .frame <| .untilTime h) (.done <| .calm <| .untilTime h)
  · exact .done <| .calm h
  · exact .done <| .calm h
  next hlisten hoff hstop =>
    have he : en.state = .locked ∨ en.state = .standby := by
      rw [hst] at hlisten hoff hstop
      exact locked_or_standby hoff hstop hlisten
    exact .ite (.done <| .leave (.failStep <| .untilTime h) he) (.done <| .calm <| .untilTime h)

theorem Moves.execGatherDeadline {s} (h : Calm en s) : Moves en (execGatherDeadline s) := by
  unfold Machine.execGatherDeadline
  split
  · exact .done <| .calm h
  · extract_lets
    split
    · exact .done <| .calm h
    · exact .ite (.done <| .takeWave <| .elapse <| .updMaster <| .untilTime h)
        (.done <| .calm <| .updMaster <| .untilTime h)

theorem Moves.execBackupWaveFlood {s} (h : Calm en s) : Moves en (execBackupWaveFlood s) := by
  unfold Machine.execBackupWaveFlood
  split
  · exact .ite (.done <| .calm h) (.done <| .takeWave <| .untilTime h)
  · exact .done <| .calm h

theorem Moves.execFounding {s} (h : Calm en s) : Moves en (execFounding s) := by
  unfold Machine.execFounding
  refine .done ?_
  split
  next hc =>
    have hst : en.state = .listen := by
      simp only [Bool.and_eq_true, beq_iff_eq] at hc
      exact (congrArg Engine.state h).symm.trans hc.1.1.1.1
    have he : ¬(en.state = .locked ∨ en.state = .standby) := by rw [hst]; decide
    exact .calm <| .takeWave (.elapse <| .takeWave (.frame <| .untilClock h) he) he
  · exact .calm h

theorem Moved.takeOffset {off s} (h : Calm en s) (he : en.state ≠ .off) (he' : en.state ≠ .stopped) :
    Moved en (takeOffset off s) := by
  unfold Machine.takeOffset
  extract_lets _ _ _ s1
  have h1 : Calm en s1 := .frame h
  by_cases hl : s1.steep.engine = .listen
  · rw [if_neg (by rw [hl]; simp)]
    exact .calm h1
  · have hst : s1.steep.engine = en.state := congrArg Engine.state h1
    exact .ite (.leave (.failStep h1) (locked_or_standby he he' (hst ▸ hl))) (.calm h1)

theorem Moves.execTimeSyncReceive {port roundTrip asymmetry answer s} (h : Calm en s) :
    Moves en (execTimeSyncReceive port roundTrip asymmetry answer s) := by
  unfold Machine.execTimeSyncReceive
  extract_lets _ _ s1
  have h1 : Calm en s1 := .frame h
  have hst : s1.steep.engine = en.state := congrArg Engine.state h1
  refine .ite (.done <| .calm h1) ?_
  split
  next => exact .done <| .calm h1
  next => exact .done <| .calm h1
  next he => exact .done <| .ite (.takeOffset h1 (by rw [← hst, he]; decide) (by rw [← hst, he]; decide)) (.calm <| .stepTime h1)
  next he => exact .done <| .takeOffset h1 (by rw [← hst, he]; decide) (by rw [← hst, he]; decide)
  next he => exact .done <| .takeOffset h1 (by rw [← hst, he]; decide) (by rw [← hst, he]; decide)

theorem Moves.execListenTimeout {s} (h : Calm en s) : Moves en (execListenTimeout s) := by
  unfold Machine.execListenTimeout
  refine .done ?_
  split
  next hc =>
    have hst : en.state = .listen := (congrArg Engine.state h).symm.trans (beq_iff_eq.mp hc)
    have h1 : Calm (en.move .stopped) (Machine.setEngine .stopped 6 _) :=
      .setEngine (.untilClock (c := s.steep.listenAt + 10000000000) h) (by rw [hst]; decide)
    exact .move .stopped (by rw [hst]; decide) (.ite (.startupStop h1) h1)
  · exact .calm h

theorem Moves.execTableDigest {sna digest primaryTable s} (h : Calm en s) :
    Moves en (execTableDigest sna digest primaryTable s) := by
  unfold Machine.execTableDigest
  extract_lets _ s1 s2 s3 _
  have h1 : Calm en s1 := .frame h
  have hst : s1.steep.engine = en.state := congrArg Engine.state h1
  have h2 : Moved en s2 := by
    unfold s2
    split
    next he => exact .leave (.failStep h1) (.inl (hst.symm.trans he))
    next he => exact .leave h1 (.inr (hst.symm.trans he))
    · exact .calm h1
  refine .ite (.done <| .calm <| .send h) <| .ite (.ite (.done ?_) (.done h2)) (.done <| .calm h)
  exact h2.map fun _ h => .frame <| .setTable h

theorem Moves.execRouteCompute {s} (h : Calm en s) : Moves en (execRouteCompute s) := by
  unfold Machine.execRouteCompute
  split
  · extract_lets s0 s1 _ s2
    have h1 : Calm en s1 := .setDiscovery <| .computeRoutes <| .ite h (.defaultTable h)
    have h2 : Calm en s2 := .frame h1
    split
    next he =>
      have hst : en.state = .off := (congrArg Engine.state h2).symm.trans he
      exact .done <| .move .listen (by rw [hst]; decide) (.enterListen h2 (by rw [hst]; decide))
    · exact .done <| .calm h2
  · exact .done <| .calm <| .computeRoutes h
  · exact .done <| .calm h

/-! ### The orderly stop -/

/-- The engine has not moved, or was not Off and has stopped. -/
def Halted (en : Engine) (s : State) : Prop := Calm en s ∨ (en.state ≠ .off ∧ en.state ≠ .stopped ∧ Calm (en.move .stopped) s)

namespace Halted
variable {s t : State}

theorem calm (h : Calm en s) : Halted en s := .inl h

theorem map (h : Halted en s) (hf : ∀ en, Calm en s → Calm en t) : Halted en t :=
  h.imp (hf _) fun ⟨h1, h2, h⟩ => ⟨h1, h2, hf _ h⟩

theorem ite {x y : State} {c : Prop} [Decidable c] (hx : Halted en x) (hy : Halted en y) :
    Halted en (if c then x else y) := by
  split
  · exact hx
  · exact hy

theorem moved (h : Halted en s) : Moved en s := by
  rcases h with h | ⟨h1, h2, h⟩
  · exact .calm h
  · refine .move .stopped ?_ h
    cases hen : en.state with
    | off => contradiction
    | stopped => contradiction
    | listen => decide
    | locked => decide
    | standby => decide

theorem stop {reason} (h : Halted en s) :
    Halted en (if s.steep.engine = .off then s else setEngine .stopped reason s) := by
  split
  · exact h
  next hoff =>
    rcases h with h | ⟨h1, h2, h⟩
    · have hst : s.steep.engine = en.state := congrArg Engine.state h
      by_cases hs : en.state = .stopped
      · exact .inl (.setEngine_same h hs)
      · exact .inr ⟨hst ▸ hoff, hs, .setEngine h hs⟩
    · exact .inr ⟨h1, h2, .setEngine_same h rfl⟩

theorem orderlyStop {cls cause block value} (h : Halted en s) : Halted en (orderlyStop cls cause block value s) := by
  unfold Machine.orderlyStop
  refine .ite h ?_
  exact h.stop.map fun _ h => .updBoot <| .leafPowerLoss <| .faultRecord <| .foldl (.zeroSealed <| .removeAllSlots <|
    .shutdownCommands h) (fun _ _ h => .setPort h)

theorem custodyFault {cause} (h : Halted en s) : Halted en (custodyFault cause s) := by
  unfold Machine.custodyFault
  exact h.orderlyStop.map fun _ h => .updCust <| .zeroKeys h

theorem readTable {env o} (h : Halted en s) : Halted en (readTable env o s) := by
  unfold Machine.readTable
  refine .ite (h.map fun _ h => .verifyBlock h) <| .ite ?_ (h.map fun _ h => .blockRestored <| .writeInBlock <| .verifyBlock <| .verifyBlock h)
  exact .orderlyStop <| h.map fun _ h => .verifyBlock <| .verifyBlock h

theorem setThermal {st t} (h : Halted en s) : Halted en (setThermal st t s) := by
  unfold Machine.setThermal
  refine .ite h <| .ite ?_ (h.map fun _ h => .trace <| .updStack h)
  exact .orderlyStop <| h.map fun _ h => .updStack <| .trace <| .updStack h

end Halted

theorem Moves.execCustodyFault {cause s} (h : Calm en s) : Moves en (execCustodyFault cause s) :=
  .onlyIf h fun _ h => (Halted.calm h).custodyFault.moved

theorem Moves.execMeasureComplete {passed boot identityRecord romRecord s} (h : Calm en s) :
    Moves en (execMeasureComplete passed boot identityRecord romRecord s) := by
  unfold Machine.execMeasureComplete
  extract_lets
  split
  · exact .done <| .calm h
  · split
    · exact .done (Halted.calm h).custodyFault.moved
    · split
      · exact .done <| .calm h
      · exact .done <| .calm <| .updBoot <| .frame <| .updCust <| .measure <| .measure h

theorem Moves.execEnvironmentViolation {cause reading s} (h : Calm en s) :
    Moves en (execEnvironmentViolation cause reading s) :=
  .onlyIf h fun _ h => (Halted.calm <| .ite (.updBoot h) h).orderlyStop.moved

theorem Moves.onHead {op s f} (h : Calm en s) (hf : ∀ c s, Calm en s → Moved en (f c s)) :
    Moves en (onHead op s f) := by
  unfold Machine.onHead
  split
  · exact .done <| .calm h
  · exact .done <| hf _ _ h

theorem Moves.execAdapterRead {s} (h : Calm en s) : Moves en (execAdapterRead s) := by
  unfold Machine.execAdapterRead
  refine .onHead h fun _ _ h => ?_
  extract_lets
  split
  · exact .calm <| .finish h
  · have ht {o} : Halted en (Machine.readTable {} o _) := (Halted.calm h).readTable
    exact .ite ht.moved (ht.map fun _ h => .finish <| .hostWrite h).moved

theorem Moves.execTemperatureRead {stack reading s} (h : Calm en s) :
    Moves en (execTemperatureRead stack reading s) := by
  unfold Machine.execTemperatureRead
  extract_lets
  refine .onlyIf h fun _ h => ?_
  have hot {st t s} (h : Calm en s) : Moved en (Machine.setThermal st t s) := (Halted.calm h).setThermal.moved
  split
  · extract_lets _ s1 _ s2
    have h1 : Calm en s1 := .updStack h
    have h2 : Calm en s2 := .ite (.frame h1) h1
    exact hot h2
  · extract_lets s1
    have h1 : Calm en s1 := .updStack h
    split
    · exact .ite (hot h1) (.calm h1)
    · exact .calm h1
    · exact .ite (hot h1) (.calm h1)

theorem Moves.execShardUpdate {shard env s} (h : Calm en s) : Moves en (execShardUpdate shard env s) := by
  unfold Machine.execShardUpdate
  extract_lets
  split
  · exact .done <| .calm h
  · extract_lets s1 _ _ v _ r
    have h1 : Halted en s1 := (Halted.calm h).readTable.readTable
    have hv : Halted en v.2 := h1.map fun _ h => .foldl_snd h fun _ _ h => .verifyBlock h
    have hr : Halted en r.2 := hv.map fun _ h => .restoreBlocks h
    refine .ite (.done <| .calm h) <| .ite (.done h1.moved) <|
      .ite (.done (h1.map fun _ h => .coverAnswered <| .setShard h).moved) ?_
    refine .ite (.done (h1.map fun _ h => .failShard h).moved) <| .ite (.done (hv.map fun _ h => .failStep h).moved) ?_
    exact .ite (.done (hr.map fun _ h => .failShard h).moved) (.done (hr.map fun _ h => .runUpdate h).moved)

theorem Moves.execPowerSample {watts groups s} (h : Calm en s) : Moves en (execPowerSample watts groups s) := by
  have h1 : Calm en (sampledState watts groups s) := by
    rw [sampledState_eq]
    exact .frame h
  rw [execPowerSample_eq]
  exact .done <| .ite (Halted.calm h1).orderlyStop.moved (.calm h1)

/-! ### Table changes and the boundary -/

theorem Moved.tableChanged {s} (h : Calm en s) : Moved en (tableChanged s) := by
  unfold Machine.tableChanged
  extract_lets s1 s2
  have h1 : Calm en s1 := by
    unfold s1
    split
    · exact .ite h (.send h)
    · exact h
  have h2 : Calm en s2 := .computeRoutes h1
  have hst : s2.steep.engine = en.state := congrArg Engine.state h2
  split
  next he _ => exact .move .locked (by rw [← hst, he]; decide) (.setEngine h2 (by rw [← hst, he]; decide))
  next he _ => exact .move .standby (by rw [← hst, he]; decide) (.setEngine h2 (by rw [← hst, he]; decide))
  · exact .calm h2

theorem Moves.execTakeoverBoundary {s} (h : Calm en s) : Moves en (execTakeoverBoundary s) := by
  unfold Machine.execTakeoverBoundary
  extract_lets
  refine .onlyIf h fun _ h => ?_
  extract_lets _ s1 _ _ s2 s3 s4
  have h1 : Calm en s1 := .foldl h fun _ _ h => .mapLdn h
  have h4 : Moved en s4 := .tableChanged <| .updMaster <| .frame h1
  exact .ite (h4.map fun _ h => .sendRollCalls <| .foldl h fun _ _ h => .pushShards h) h4

theorem Moved.engineBoundary {s} (h : Calm en s) : Moved en (engineBoundary s) := by
  have hst : s.steep.engine = en.state := congrArg Engine.state h
  unfold Machine.engineBoundary
  split
  next hc =>
    simp only [Bool.and_eq_true, decide_eq_true_eq] at hc
    have he : en.state = .listen := hst.symm.trans hc.1.1.1
    split
    · exact .move .locked (by rw [he]; decide) (.setEngine h (by rw [he]; decide))
    · exact .move .standby (by rw [he]; decide) (.setEngine h (by rw [he]; decide))
  · exact .calm h

theorem Moves.execSteepBoundary {s} (h : Calm en s) : Moves en (execSteepBoundary s) := by
  unfold Machine.execSteepBoundary
  split
  · exact .done <| .calm h
  · refine .onlyIf h fun _ h => ?_
    extract_lets _ s1 _ _ s2 s3 _ _ _ s4 s5 s6 s7 _ _ s8 s9 s10 s11
    have h1 : Calm en s1 := .freezeBlocks <| .countAll <| .untilTime h
    have h2 : Calm en s2 := .endServing h1
    have h3 : Calm en s3 := .ite (.endStep h2) h2
    have h5 : Calm en s5 := .swapTables <| .countRepeats <| .frame h3
    have h6 : Calm en s6 := .ite h5 (.trace h5)
    have h7 : Moved en s7 := .engineBoundary <| .newSkews <| .steepBoundary h6
    have h10 : Moved en s10 := h7.map fun _ h => .foldl (.quotaBoundary <| .countAll <| .updAd <| .frame h) fun _ _ h => .startCore h
    have h11 : Moved en s11 := h10.map fun _ h => .newAttempt h
    exact .ite (.ite (h11.map fun _ h => .sendRollCalls h) h11) h10

theorem Moved.swapEffects {old s} (h : Calm en s) : Moved en (swapEffects old s) := by
  unfold Machine.swapEffects
  extract_lets s0 s1 s2
  have h0 : Calm en s0 := .movePartitions <| .resizeCaddies <| .moveCores h
  have h1 : Calm en s1 := .ite (.switchHalf h0) h0
  have h2 : Calm en s2 := .ite (.latchRules h1) h1
  exact .ite (.calm h2) (.ite (.tableChanged <| .frame h2) (.calm <| .frame h2))

theorem Moved.swapSets {e s} (h : Calm en s) : Moved en (swapSets e s) := by
  unfold Machine.swapSets
  exact (Moved.swapEffects <| .updDict h).map fun _ h => .configTrace h

theorem Moves.execCommitSwap {s} (h : Calm en s) : Moves en (execCommitSwap s) := by
  unfold Machine.execCommitSwap
  split
  · exact .done <| .calm h
  · refine .onlyIf h fun _ h => ?_
    split
    · exact .swapSets h
    · exact .calm <| .failCommit h

theorem Moved.commit {at_ e s} (h : Calm en s) : Moved en (commit at_ e s).2 := by
  unfold Machine.commit
  extract_lets _ s1 v far
  have h1 : Calm en s1 := .writeReport h
  have hv : Calm en v.2 := .frame h1
  split
  · exact .calm hv
  · split
    · split
      · exact .calm h1
      · split
        · exact .calm h1
        · dsimp only
          exact .calm <| .refetchModes <| .updDict h1
    · split
      · exact .calm h1
      · dsimp only
        exact .swapSets h1

theorem Moves.execCommit {session steep s} (h : Calm en s) : Moves en (execCommit session steep s) :=
  .onlyIf h fun _ h => .commit h

/-! ### Start-up and resets -/

theorem Moves.execStageTimeout {cause s} (h : Calm en s) : Moves en (execStageTimeout cause s) := by
  unfold Machine.execStageTimeout
  split
  · exact .done <| .calm h
  next t _ =>
    refine .onlyIf h fun s h => ?_
    have h1 : Calm en (Machine.untilClock t s) := .untilClock h
    have hst : (Machine.untilClock t s).steep.engine = en.state := congrArg Engine.state h1
    dsimp only
    split
    next he =>
      exact .move .stopped (by rw [← hst, he]; decide) (.stopStart <| .setEngine h1 (by rw [← hst, he]; decide))
    · exact .calm <| .stopStart h1

theorem Moved.moduleReset {s} (h : Calm en s) : Moved en (moduleReset s) :=
  .reset (by
    have h1 : Calm en (settleSlots (removeAllSlots s)) := .settleSlots <| .removeAllSlots h
    exact (Engine.mk.injEq ..).mpr ⟨congrArg Engine.queue h1, rfl, rfl, rfl⟩)

theorem Moves.execModuleReset {s} (h : Calm en s) : Moves en (execModuleReset s) :=
  .onlyIf h fun _ h => .moduleReset h

theorem Moved.maintenanceReset {s} (h : Calm en s) : Moved en (maintenanceReset s) :=
  (Moved.moduleReset h).map fun _ h => .updBoot h

theorem Moves.execMaintenanceReset {s} (h : Calm en s) : Moves en (execMaintenanceReset s) :=
  .onlyIf h fun _ h => .maintenanceReset h

theorem Moves.execResetPin {s} (h : Calm en s) : Moves en (execResetPin s) :=
  .onlyIf h fun _ h => (Moved.moduleReset <| .elapse h).map fun _ h => .updBoot h

theorem Moves.execHousekeepingRailLoss {s} (h : Calm en s) : Moves en (execHousekeepingRailLoss s) := by
  unfold Machine.execHousekeepingRailLoss
  extract_lets s1 kept
  have h1 : Calm en s1 := .leafPowerLoss h
  exact .done <| .reset <| (Engine.mk.injEq ..).mpr ⟨congrArg Engine.queue h1, rfl, rfl, rfl⟩

theorem Moved.runCmd {f x r s} (h : Calm en s) : Moved en (runCmd f x r s).2 := by
  unfold Machine.runCmd
  extract_lets
  split
  · exact .calm <| .accepted <| .requestReset h
  · exact .calm <| .acceptIf h fun _ h => .nextOf (.execLogControl h)
  · exact .calm <| .accepted <| .nextOf (.execLogSwap h)
  · exact .calm <| .acceptIf h fun _ h => .nextOf (.execSnapshotRequest h)
  · exact .calm <| .accepted <| .clearEvents h
  · exact .calm <| .accepted <| .clearHists h
  · exact .calm <| .accepted <| .resetPort h
  · split
    next hv => exact .calm <| .accepted <| .beginInstall h hv
    · exact .calm <| .refuseCmd h
  · exact .calm <| .accepted <| .abortInstall h
  · exact .calm <| .accepted <| .nextOf (.execEventLogRead h)
  · exact .calm <| .acceptIf h fun _ h => .nextOf (.execAttestationRequest h)
  · exact .calm <| .sealWrite h
  · exact .calm <| .accepted <| .startCheck h
  · exact .commit h
  · exact .calm <| .accepted <| .discard h
  · exact .calm <| .accepted <| .nextOf (.execStagingLock h)
  · exact .moduleReset h
  · exact .maintenanceReset h
  · exact .calm <| .acceptIf h fun _ h => .nextOf (.execPlannedReturn h)
  · exact .calm <| .accepted <| .readFaultLog h
  · exact .calm <| .accepted <| .ite (.writeClear h) h

theorem Moved.applyWrite {f x rs s} (h : Calm en s) : Moved en (applyWrite f x rs s) := by
  unfold Machine.applyWrite
  extract_lets _ s1
  have h1 : Calm en s1 := .foldl h fun _ _ h => .storeValue h
  split
  · exact .calm <| .answerWrite h1
  · refine .ite (.calm <| .answerWrite h1) <| .ite (.runCmd <| .answerWrite h1) <| .ite ?_ ?_
    · exact (Moved.runCmd h1).map fun _ h => .answerWrite h
    · exact .calm <| .answerWrite <| .updDict <| .frame h

theorem Moved.writeRecords {f x rs s} (h : Calm en s) : Moved en (writeRecords f x rs s) := by
  unfold Machine.writeRecords
  extract_lets
  split
  · exact .calm <| .answerWrite h
  · split
    · exact .calm <| .malformed h
    · split
      · exact .calm <| .answerWrite h
      · exact .ite (.calm <| .answerWrite h) (.applyWrite h)

theorem Moves.execWrite {s} (h : Calm en s) : Moves en (execWrite s) := by
  unfold Machine.execWrite
  split
  · exact .done <| .calm h
  next hv =>
    split
    next hw => exact .done <| .calm <| .of_snd hw <| .takeFrame <| .nextFrame h hv
    next hw =>
      have h1 := Calm.of_snd hw <| .takeFrame <| .nextFrame h hv
      split
      · exact .done <| .calm <| .malformed h1
      · exact .done <| .writeRecords h1

/-! ### The wave point -/

/-- The stretch level is the same, one higher or one lower. -/
def Stretched (en : Engine) (s : State) : Prop :=
  ∃ n, (n = en.stretch ∨ n = en.stretch + 1 ∨ n + 1 = en.stretch) ∧ Calm { en with stretch := n } s

theorem Stretched.stretch {s} (h : Calm en s) : Stretched en (stretch s) := by
  subst h
  unfold Machine.stretch
  extract_lets st cond clear passed n _ s1
  refine ⟨n, ?_, .ite rfl (.trace rfl)⟩
  unfold n
  split
  · exact .inr (.inl rfl)
  · split
    next hc =>
      simp only [Bool.and_eq_true, decide_eq_true_eq] at hc
      exact .inr (.inr (Nat.succ_pred_eq_of_pos hc.1.1))
    · exact .inl rfl

theorem Stretched.map {s t} (h : Stretched en s) (hf : ∀ en, Calm en s → Calm en t) : Stretched en t :=
  h.imp fun _ ⟨hn, h⟩ => ⟨hn, hf _ h⟩

theorem Stretched.execWavePoint {s} (h : Calm en s) : ∃ t, execWavePoint s = .next t ∧ Stretched en t := by
  unfold Machine.execWavePoint
  refine ⟨_, rfl, ?_⟩
  split
  · beta_reduce
    extract_lets s1 _ s2 s3 s4
    have h1 : Calm en s1 := .untilTime h
    have h2 : Calm en s2 := .failUnkept <| .overrunCores h1
    have h3 : Calm en s3 := .ite (.ite (.ite h2 (.failStep h2)) h1) h1
    exact (Stretched.stretch h3).map fun _ h => .frame <| .ite (.contribute h) h
  · exact ⟨_, .inl rfl, h⟩

/-! ### Every command -/

/-- Every command but WAVE_POINT leaves the stretch level, and moves the engine along one row of Table ST-4 at most. -/
theorem exec_moves {s} (h : Calm en s) : ∀ c, c ≠ .wavePoint → Moves en (exec c s)
  | .steepBoundary, _ => .execSteepBoundary h
  | .guardStart, _ => .stays (.execGuardStart h)
  | .wavePoint, hw => (hw rfl).elim
  | .contribution _, _ => .stays (.execContribution h)
  | .gatherDeadline, _ => .execGatherDeadline h
  | .backupWaveFlood, _ => .execBackupWaveFlood h
  | .wave _ _, _ => .execWave h
  | .waveDeadline, _ => .execWaveDeadline h
  | .timeSync, _ => .stays (.execTimeSync h)
  | .timeSyncReceive _ _ _ _, _ => .execTimeSyncReceive h
  | .listenNoWaveRecord, _ => .stays (.execListenNoWaveRecord h)
  | .listenTimeout, _ => .execListenTimeout h
  | .founding, _ => .execFounding h
  | .snapshotRequest _, _ => .stays (.execSnapshotRequest h)
  | .tableDigest _ _ _, _ => .execTableDigest h
  | .powerSample _ _, _ => .execPowerSample h
  | .programFetch _, _ => .stays (.execProgramFetch h)
  | .programFetchDone _ _, _ => .stays (.execProgramFetchDone h)
  | .opDispatch _ _, _ => .stays (.execOpDispatch h)
  | .mmaLoad _ _, _ => .stays (.execMmaLoad h)
  | .mmaRun _ _, _ => .stays (.execMmaRun h)
  | .rankRun _ _, _ => .stays (.execRankRun h)
  | .epiSet0 _ _, _ => .stays (.execEpiSet0 h)
  | .epiSet1 _ _, _ => .stays (.execEpiSet1 h)
  | .epiSet2 _ _, _ => .stays (.execEpiSet2 h)
  | .pour _ _, _ => .stays (.execPour h)
  | .pourRecompute _, _ => .stays (.execPourRecompute h)
  | .pourComplete _, _ => .stays (.execPourComplete h)
  | .vecEw _ _, _ => .stays (.execVecEw h)
  | .vecCvt _ _, _ => .stays (.execVecCvt h)
  | .vecRow _ _, _ => .stays (.execVecRow h)
  | .redAdd _ _, _ => .stays (.execRedAdd h)
  | .redMax _ _, _ => .stays (.execRedMax h)
  | .redUpd _ _, _ => .stays (.execRedUpd h)
  | .redZero _ _, _ => .stays (.execRedZero h)
  | .dma _ _ _, _ => .stays (.execDma h)
  | .fabPut _ _ _, _ => .stays (.execFabPut h)
  | .fabGet _ _, _ => .stays (.execFabGet h)
  | .fabColl _ _, _ => .stays (.execFabColl h)
  | .syncWait _ _, _ => .stays (.execSyncWait h)
  | .syncSend _ _, _ => .stays (.execSyncSend h)
  | .syncTime _ _, _ => .stays (.execSyncTime h)
  | .mark _ _, _ => .stays (.execMark h)
  | .halt _ _, _ => .stays (.execHalt h)
  | .opComplete _ _, _ => .stays (.execOpComplete h)
  | .token _ _ _ _ _ _, _ => .stays (.execToken h)
  | .gather _ _, _ => .stays (.execGather h)
  | .mask _, _ => .stays (.execMask h)
  | .append _, _ => .stays (.execAppend h)
  | .block _, _ => .stays (.execBlock h)
  | .trans _, _ => .stays (.execTrans h)
  | .admissionSort, _ => .stays (.execAdmissionSort h)
  | .caddyPrefetchList, _ => .stays (.execCaddyPrefetchList h)
  | .caddyFill _ _ _ _, _ => .stays (.execCaddyFill h)
  | .inputCopy _ _ _, _ => .stays (.execInputCopy h)
  | .kvCopyOnWrite _ _, _ => .stays (.execKvCopyOnWrite h)
  | .tablePublish, _ => .stays (.execTablePublish h)
  | .infuserPrefill _, _ => .stays (.execInfuserPrefill h)
  | .infuserSlice _ _ _ _, _ => .stays (.execInfuserSlice h)
  | .outputCopy _ _, _ => .stays (.execOutputCopy h)
  | .completionWrite _, _ => .stays (.execCompletionWrite h)
  | .doorbell _ _ _ _, _ => .stays (.execDoorbell h)
  | .commandFetch _, _ => .stays (.execCommandFetch h)
  | .submit, _ => .stays (.execSubmit h)
  | .queueCreate, _ => .stays (.execQueueCreate h)
  | .queueDelete, _ => .stays (.execQueueDelete h)
  | .bind, _ => .stays (.execBind h)
  | .bindEffect _, _ => .stays (.execBindEffect h)
  | .adapterCreate _, _ => .stays (.execAdapterCreate h)
  | .adapterRead, _ => .execAdapterRead h
  | .adapterState, _ => .stays (.execAdapterState h)
  | .adapterStateEffect _, _ => .stays (.execAdapterStateEffect h)
  | .adapterDestroy, _ => .stays (.execAdapterDestroy h)
  | .adapterDestroyFree _, _ => .stays (.execAdapterDestroyFree h)
  | .adapterClaim, _ => .stays (.execAdapterClaim h)
  | .slotClaimPacket _ _ _ _ _ _ _ _ _, _ => .stays (.execSlotClaimPacket h)
  | .adapterRelease, _ => .stays (.execAdapterRelease h)
  | .kvOpen _, _ => .stays (.execKvOpen h)
  | .kvFork, _ => .stays (.execKvFork h)
  | .kvClose, _ => .stays (.execKvClose h)
  | .kvCloseFree _ _, _ => .stays (.execKvCloseFree h)
  | .kvRead, _ => .stays (.execKvRead h)
  | .keyImport _, _ => .stays (.execKeyImport h)
  | .keyImportEffect _, _ => .stays (.execKeyImportEffect h)
  | .keyRemove, _ => .stays (.execKeyRemove h)
  | .keyRemoveEffect _, _ => .stays (.execKeyRemoveEffect h)
  | .keySweep, _ => .stays (.execKeySweep h)
  | .sweepBlock _, _ => .stays (.execSweepBlock h)
  | .rotationCutover _, _ => .stays (.execRotationCutover h)
  | .scrubBlock _, _ => .stays (.execScrubBlock h)
  | .scrubComplete _, _ => .stays (.execScrubComplete h)
  | .trialLoad _, _ => .stays (.execTrialLoad h)
  | .trialLoadDone _, _ => .stays (.execTrialLoadDone h)
  | .trialRelease, _ => .stays (.execTrialRelease h)
  | .trialReleaseEffect, _ => .stays (.execTrialReleaseEffect h)
  | .functionEnable _, _ => .stays (.execFunctionEnable h)
  | .functionDisable _, _ => .stays (.execFunctionDisable h)
  | .ctrlReset _, _ => .stays (.execCtrlReset h)
  | .partitionResetCmd _, _ => .stays (.execPartitionResetCmd h)
  | .flr _, _ => .stays (.execFlr h)
  | .vfEnableClear, _ => .stays (.execVfEnableClear h)
  | .partitionResetEffect _, _ => .stays (.execPartitionResetEffect h)
  | .logControl _ _, _ => .stays (.execLogControl h)
  | .logSwap _, _ => .stays (.execLogSwap h)
  | .logBoundary, _ => .stays (.execLogBoundary h)
  | .lockInterface _, _ => .stays (.execLockInterface h)
  | .stopInterface _, _ => .stays (.execStopInterface h)
  | .interfaceReport _, _ => .stays (.execInterfaceReport h)
  | .doeCustodyExchange _ _, _ => .stays (.execDoeCustodyExchange h)
  | .tlpReceive _ _ _, _ => .stays (.execTlpReceive h)
  | .rollCall _ _ _, _ => .stays (.execRollCall h)
  | .contributionUnit _ _, _ => .stays (.execContributionUnit h)
  | .acknowledgement _ _ _, _ => .stays (.execAcknowledgement h)
  | .shardCutoff _, _ => .stays (.execShardCutoff h)
  | .stragglerNotice _ _ _, _ => .stays (.execStragglerNotice h)
  | .shardUpdate _ _, _ => .execShardUpdate h
  | .keeperCopy _ _ _ _ _ _ _, _ => .stays (.execKeeperCopy h)
  | .keeperAck _, _ => .stays (.execKeeperAck h)
  | .commitApply, _ => .stays (.execCommitApply h)
  | .abortApply, _ => .stays (.execAbortApply h)
  | .pushUnit _ _ _ _ _ _ _ _ _, _ => .stays (.execPushUnit h)
  | .restoreRequest _ _ _, _ => .stays (.execRestoreRequest h)
  | .patrolRead _ _, _ => .stays (.execPatrolRead h)
  | .temperatureRead _ _, _ => .execTemperatureRead h
  | .rowRepair _ _ _ _, _ => .stays (.execRowRepair h)
  | .pcFill _, _ => .stays (.execPcFill h)
  | .fillComplete _, _ => .stays (.execFillComplete h)
  | .fillFailure _, _ => .stays (.execFillFailure h)
  | .logicalPcLost _, _ => .stays (.execLogicalPcLost h)
  | .installBegin _, _ => .stays (.execInstallBegin h)
  | .installAbort, _ => .stays (.execInstallAbort h)
  | .manifest _, _ => .stays (.execManifest h)
  | .segmentData _ _, _ => .stays (.execSegmentData h)
  | .segmentProgrammed _ _, _ => .stays (.execSegmentProgrammed h)
  | .installCredit, _ => .stays (.execInstallCredit h)
  | .installTimeout, _ => .stays (.execInstallTimeout h)
  | .breakNotice _, _ => .stays (.execBreakNotice h)
  | .leafPatrol _ _ _, _ => .stays (.execLeafPatrol h)
  | .halfRelease, _ => .stays (.execHalfRelease h)
  | .downExit _ _, _ => .stays (.execDownExit h)
  | .fecLock _ _, _ => .stays (.execFecLock h)
  | .trainingTimeout _, _ => .stays (.execTrainingTimeout h)
  | .linkSessionExchange _ _ _ _ _, _ => .stays (.execLinkSessionExchange h)
  | .keyingTimeout _ _, _ => .stays (.execKeyingTimeout h)
  | .hello _ _ _ _, _ => .stays (.execHello h)
  | .helloResend _, _ => .stays (.execHelloResend h)
  | .linkDegrade _ _ _ _, _ => .stays (.execLinkDegrade h)
  | .portReset _, _ => .stays (.execPortReset h)
  | .linkFrame _ _ _ _ _ _, _ => .stays (.execLinkFrame h)
  | .replayTimeout _, _ => .stays (.execReplayTimeout h)
  | .rekey _ _ _, _ => .stays (.execRekey h)
  | .creditFrame _, _ => .stays (.execCreditFrame h)
  | .packetRoute _ _, _ => .stays (.execPacketRoute h)
  | .fabWriteArrival _ _ _ _ _ _ _ _ _, _ => .stays (.execFabWriteArrival h)
  | .fabReadRequest _ _ _ _ _ _ _ _ _, _ => .stays (.execFabReadRequest h)
  | .readData _ _ _ _ _, _ => .stays (.execReadData h)
  | .collectiveData _ _ _ _ _ _, _ => .stays (.execCollectiveData h)
  | .discoveryStart, _ => .stays (.execDiscoveryStart h)
  | .linksDone, _ => .stays (.execLinksDone h)
  | .linksTimeout, _ => .stays (.execLinksTimeout h)
  | .linkStateRecord _ _ _ _ _ _, _ => .stays (.execLinkStateRecord h)
  | .floodQuiet, _ => .stays (.execFloodQuiet h)
  | .routeCompute, _ => .execRouteCompute h
  | .linkStateRefresh, _ => .stays (.execLinkStateRefresh h)
  | .takeoverOrder _ _ _ _, _ => .stays (.execTakeoverOrder h)
  | .restoreData _ _ _ _ _, _ => .stays (.execRestoreData h)
  | .standInReady _ _ _ _, _ => .stays (.execStandInReady h)
  | .readyTimeout, _ => .stays (.execReadyTimeout h)
  | .takeoverEffect _ _, _ => .stays (.execTakeoverEffect h)
  | .takeoverBoundary, _ => .execTakeoverBoundary h
  | .plannedReturn _, _ => .stays (.execPlannedReturn h)
  | .cmisPoll _ _ _, _ => .stays (.execCmisPoll h)
  | .cmisInterrupt _, _ => .stays (.execCmisInterrupt h)
  | .housekeepingRail, _ => .stays (.execHousekeepingRail h)
  | .measureComplete _ _ _ _, _ => .execMeasureComplete h
  | .custodyFault _, _ => .execCustodyFault h
  | .custodyRequestTimeout, _ => .stays (.execCustodyRequestTimeout h)
  | .attestationRequest _ _, _ => .stays (.execAttestationRequest h)
  | .eventLogRead _, _ => .stays (.execEventLogRead h)
  | .sealBreakArm, _ => .stays (.execSealBreakArm h)
  | .sealBreak _, _ => .stays (.execSealBreak h)
  | .mgmtDatagram _ _ _ _ _ _ _, _ => .stays (.execMgmtDatagram h)
  | .neighborSolicitation _ _, _ => .stays (.execNeighborSolicitation h)
  | .echoRequest _ _ _, _ => .stays (.execEchoRequest h)
  | .mailboxGo _, _ => .stays (.execMailboxGo h)
  | .xchg, _ => .stays (.execXchg h)
  | .close, _ => .stays (.execClose h)
  | .read, _ => .stays (.execRead h)
  | .write, _ => .execWrite h
  | .describe, _ => .stays (.execDescribe h)
  | .sessionIdleTimeout _, _ => .stays (.execSessionIdleTimeout h)
  | .exchangeTimeout _, _ => .stays (.execExchangeTimeout h)
  | .registerWrite _ _, _ => .stays (.execRegisterWrite h)
  | .managerKeyListWrite _ _ _, _ => .stays (.execManagerKeyListWrite h)
  | .check _, _ => .stays (.execCheck h)
  | .checkDone, _ => .stays (.execCheckDone h)
  | .commit _ _, _ => .execCommit h
  | .commitSwap, _ => .execCommitSwap h
  | .discard _, _ => .stays (.execDiscard h)
  | .stagingLock _ _, _ => .stays (.execStagingLock h)
  | .stagingLockTimeout, _ => .stays (.execStagingLockTimeout h)
  | .counterSelect _ _ _, _ => .stays (.execCounterSelect h)
  | .counterClear _, _ => .stays (.execCounterClear h)
  | .counterBoundary, _ => .stays (.execCounterBoundary h)
  | .histogramClear, _ => .stays (.execHistogramClear h)
  | .eventCountClear, _ => .stays (.execEventCountClear h)
  | .snapshotFreeze, _ => .stays (.execSnapshotFreeze h)
  | .snapshotGatherDone, _ => .stays (.execSnapshotGatherDone h)
  | .traceWrite, _ => .stays (.execTraceWrite h)
  | .mainInputGood, _ => .stays (.execMainInputGood h)
  | .stageAdvance _, _ => .stays (.execStageAdvance h)
  | .stageTimeout _, _ => .execStageTimeout h
  | .moduleReset, _ => .execModuleReset h
  | .maintenanceReset, _ => .execMaintenanceReset h
  | .resetPin, _ => .execResetPin h
  | .perst, _ => .stays (.execPerst h)
  | .environmentViolation _ _, _ => .execEnvironmentViolation h
  | .faultLogRead _, _ => .stays (.execFaultLogRead h)
  | .housekeepingRailLoss, _ => .execHousekeepingRailLoss h
  | .resetPinRelease, _ => .stays (.execResetPinRelease h)
  | .vfEnableSet, _ => .stays (.execVfEnableSet h)
  | .startInterface _, _ => .stays (.execStartInterface h)
  | .vfBarOrMemorySpaceChange _, _ => .stays (.execVfBarOrMemorySpaceChange h)
  | .managementLinkChange _, _ => .stays (.execManagementLinkChange h)
  | .pcieLinkChange _ _, _ => .stays (.execPcieLinkChange h)
  | .forwardedResponse _, _ => .stays (.execForwardedResponse h)
  | .standInRestoreRequest _ _ _, _ => .stays (.execStandInRestoreRequest h)

end

theorem exec_cases {c : Instr} {s t : State} (ht : exec c s = .next t) :
    Moved (engineOf s) t ∨ (c = .wavePoint ∧ Stretched (engineOf s) t) := by
  by_cases hc : c = .wavePoint
  · subst hc
    obtain ⟨u, hu, h⟩ := Stretched.execWavePoint (s := s) rfl
    cases hu.symm.trans ht
    exact .inr ⟨rfl, h⟩
  · obtain ⟨u, hu, h⟩ := exec_moves (s := s) rfl c hc
    cases hu.symm.trans ht
    exact .inl h

/-- Settles O57, by the moves of every command. -/
theorem stretchChangesAtWavePointsAlone : Obligations.StretchChangesAtWavePointsAlone := by
  unfold Obligations.StretchChangesAtWavePointsAlone
  intro c s t ht
  rcases exec_cases ht with (h | ⟨e, -, h⟩ | h) | ⟨hc, n, hn, h⟩
  · exact .inl (congrArg Engine.stretch h)
  · exact .inl (congrArg Engine.stretch h)
  · exact .inr (.inr ⟨congrArg Engine.stretch h, congrArg Engine.state h⟩)
  · have hs : t.steep.stretch = n := congrArg Engine.stretch h
    rw [hs]
    exact hn.imp_right fun hn => .inl ⟨hc, hn⟩

/-- Settles O58, by the moves of every command. -/
theorem engineMovesAsItsTable : Obligations.EngineMovesAsItsTable := by
  unfold Obligations.EngineMovesAsItsTable
  intro c s t ht
  rcases exec_cases ht with (h | ⟨e, he, h⟩ | h) | ⟨-, n, -, h⟩
  · have hs : t.steep.engine = s.steep.engine := congrArg Engine.state h
    exact ⟨.inl hs, fun hl hn => (hn (hs.trans hl)).elim⟩
  · have hs : t.steep.engine = e := congrArg Engine.state h
    have hx : t.steep.exits = if s.steep.engine = .locked then s.steep.exits + 1 else s.steep.exits :=
      congrArg Engine.exits h
    refine ⟨.inr (hs ▸ he), fun hl _ _ => ?_⟩
    rw [hx, if_pos hl]
    exact Nat.lt_succ_self _
  · have hs : t.steep.engine = .off := congrArg Engine.state h
    refine ⟨?_, fun _ _ hn => (hn hs).elim⟩
    rw [hs]
    cases s.steep.engine with
    | off => exact .inl rfl
    | listen => exact .inr (by decide)
    | locked => exact .inr (by decide)
    | standby => exact .inr (by decide)
    | stopped => exact .inr (by decide)
  · have hs : t.steep.engine = s.steep.engine := congrArg Engine.state h
    exact ⟨.inl hs, fun hl hn => (hn (hs.trans hl)).elim⟩

end Sys2Proof.Machine
end

section
/-! O2 and O54. Idle steps and stamps. -/

namespace Sys2Proof.Machine

/-- Slewing gains or loses one cycle in 10,000, as long as a correction is left. -/
theorem slewIn_natAbs (n : Nat) (w : Slew) :
    (slewIn n w).natAbs = min ((w.phase + n) / 10000) w.left.natAbs := by
  unfold slewIn
  split
  · exact Int.natAbs_natCast _
  · rw [Int.natAbs_neg, Int.natAbs_natCast]

/-- Settles O2, by the bound on what slewing gains in one cycle. -/
theorem idleStepPassesOneCycle : Obligations.IdleStepPassesOneCycle := by
  unfold Obligations.IdleStepPassesOneCycle
  intro s hs
  have hg := slewIn_natAbs 1 s.slew
  refine ⟨elapse 1 s, slewIn 1 s.slew, ?_, rfl, rfl, rfl, by omega, by omega, fun h => ?_, rfl⟩
  · unfold step
    rw [hs]
  · show s.time + BitVec.ofNat 64 (1 + slewIn 1 s.slew).toNat = s.time + 1
    rw [show slewIn 1 s.slew = 0 by omega]
    rfl

/-- A steep that begins one cycle before the signed time wraps. -/
def wrapState : State :=
  { State.reset with time := 2 ^ 63, steep := { State.reset.steep with b := 2 ^ 63 - 1, len := 1 } }

/-- Refutes O54: where the signed time wraps inside the steep, the boundary counts as not reached and the stamp holds the
offset 0 one cycle after it. -/
theorem not_stampsHoldSteepAndOffset : ¬ Obligations.StampsHoldSteepAndOffset := by
  unfold Obligations.StampsHoldSteepAndOffset
  rintro ⟨h, -⟩
  obtain ⟨-, h, -⟩ := h wrapState (by decide +kernel) (by decide +kernel) (by decide +kernel)
  exact absurd h (by decide +kernel)
end Sys2Proof.Machine
end

section
/-! O53. The wave point of a commit steep. -/

namespace Sys2Proof.Machine

/-- A pour whose rows have all been read, and which ends two cycles from clock 0. -/
def endingPour : Pour :=
  { op := { word := 0x40, index := 0, stream := false, dispatched := 0 }, slot := {}, left := [], pieces := [],
    loadFrom := 0, rowFrom := 0, bank := false, out := [], endAt := 2, raised := [], saturated := 0, recomputed := false,
    clamped := false }

/-- The commit steep of a step at its wave point, Spapor time 0: a training core whose die reads the time 4 cycles late
still pours. -/
def lateDieState : State :=
  { steep := { engine := .locked, len := 16, sidx := 9, skews := [-4] }
    prog := { cores := [(0, { binding := { mode := 1 }, pour := some endingPour })] } }

/-- Refutes O53: in a commit steep the wave point waits further, until the training cores' dies have read the wave point,
and `settleOps` lets the time run until an op that ends by then has ended. -/
theorem not_wavePointIsFixedBeforeTheBoundary : ¬ Obligations.WavePointIsFixedBeforeTheBoundary := by
  unfold Obligations.WavePointIsFixedBeforeTheBoundary
  rintro ⟨h, -⟩
  obtain ⟨t, -, ht, htime, -⟩ := h lateDieState {} rfl rfl
  have hlate : (nextOf lateDieState (exec .wavePoint lateDieState)).time = 2 := by decide +kernel
  rw [ht] at hlate
  rw [show t.time = 2 from hlate] at htime
  exact absurd htime (by decide +kernel)
end Sys2Proof.Machine
end

section
/-! O10. Waves. -/

namespace Sys2Proof.Machine

/-! ### Time -/

/-- A module that waits for a time reads that time, or a later present one. -/
theorem untilTime_waits (t : BitVec 64) (s : State) : (untilTime t s).time = waited s t := by
  rw [untilTime_time, waited]
  split
  next h => rw [h]; exact BitVec.add_zero _
  next h =>
    have hpos : ((ahead t s.time : Nat) : Int) = t.toInt - s.time.toInt := by
      unfold ahead at h ⊢
      omega
    rw [← BitVec.ofInt_natCast, hpos, Int.sub_eq_add_neg, BitVec.ofInt_add, BitVec.ofInt_neg, BitVec.ofInt_toInt,
      BitVec.ofInt_toInt]
    bv_omega

/-! ### Trace records and the engine's moves, as record updates -/

theorem trace_eq (ty b p : Nat) (d : BitVec 128) (s : State) :
    ∃ o ob, trace ty b p d s = { s with steep := { s.steep with oseq := o }, obs := ob } := by
  unfold trace
  split
  · dsimp only
    split
    · exact ⟨_, _, rfl⟩
    · exact ⟨_, _, rfl⟩
  · exact ⟨_, _, rfl⟩

/-- The fault record of a reason, none for 0. -/
def faultRecOf (reason : Nat) (s : State) : BitVec 128 :=
  if reason = 0 then s.steep.faultRec else packR 128 [(64, s.time.toNat), (8, reason)]

theorem setEngine_eq {e : EngineState} (reason : Nat) {s : State} (he : s.steep.engine ≠ e) :
    ∃ o ob, setEngine e reason s = { s with
      steep := { s.steep with
        engine := e, exits := if s.steep.engine = .locked then s.steep.exits + 1 else s.steep.exits,
        faultRec := faultRecOf reason s, oseq := o }
      obs := ob } := by
  unfold setEngine faultRecOf engineRecord
  simp only [he, if_false]
  by_cases hr : reason = 0
  · subst hr
    exact trace_eq ..
  · simp only [hr, if_false]
    exact trace_eq ..

theorem enterListen_eq (reason : Nat) {s : State} (he : s.steep.engine ≠ .listen) :
    ∃ o ob, enterListen reason s = { s with
      steep := { s.steep with
        engine := .listen, exits := if s.steep.engine = .locked then s.steep.exits + 1 else s.steep.exits,
        faultRec := faultRecOf reason s, oseq := o, listenAt := s.clock, lastWave := s.clock, wavesIn := 0,
        quietRec := false, stepped := false, offRun := 0, wave := none }
      obs := ob } := by
  obtain ⟨o, ob, h⟩ := setEngine_eq reason he
  refine ⟨o, ob, ?_⟩
  unfold enterListen
  rw [h]

theorem actOnWave_eq (p : BitVec 512) (s : State) :
    ∃ o ob, actOnWave p s = { s with
      steep := { s.steep with wave := some p, lastWave := s.clock, oseq := o }, obs := ob } := by
  unfold actOnWave
  exact trace_eq ..

/-! ### What a wave can change -/

/-- Nothing but the steep engine's registers and what is observed has changed, and of those not the waves seen nor what
a master holds. -/
def SteepOnly (s t : State) : Prop :=
  t = { s with steep := t.steep, obs := t.obs } ∧ t.steep.seen = s.steep.seen ∧ t.steep.master = s.steep.master

namespace SteepOnly

variable {s t u : State}

theorem refl : SteepOnly s s := ⟨rfl, rfl, rfl⟩

theorem trans (h : SteepOnly s t) (h' : SteepOnly t u) : SteepOnly s u := by
  obtain ⟨h1, h2, h3⟩ := h
  obtain ⟨h1', h2', h3'⟩ := h'
  refine ⟨h1'.trans ?_, h2'.trans h2, h3'.trans h3⟩
  rw [h1]

theorem ite {x y : State} {c : Prop} [Decidable c] (hx : SteepOnly s x) (hy : SteepOnly s y) :
    SteepOnly s (if c then x else y) := by
  split
  · exact hx
  · exact hy

theorem quiet (h : SteepOnly s t) : Quiet s t := by
  rw [h.1]
  exact ⟨rfl, rfl, rfl, rfl, rfl, rfl, rfl⟩

theorem time (h : SteepOnly s t) : t.time = s.time := (congrArg State.time h.1 :)
theorem clock (h : SteepOnly s t) : t.clock = s.clock := (congrArg State.clock h.1 :)
theorem slew (h : SteepOnly s t) : t.slew = s.slew := (congrArg State.slew h.1 :)
theorem timeKnown (h : SteepOnly s t) : t.timeKnown = s.timeKnown := (congrArg State.timeKnown h.1 :)
theorem out (h : SteepOnly s t) : t.out = s.out := (congrArg State.out h.1 :)

theorem failStep {b : Nat} : SteepOnly s (failStep b s) := ⟨rfl, rfl, rfl⟩

theorem actOnWave {p : BitVec 512} : SteepOnly s (actOnWave p s) := by
  obtain ⟨o, ob, h⟩ := actOnWave_eq p s
  rw [h]
  exact ⟨rfl, rfl, rfl⟩

theorem enterListen {reason : Nat} (he : s.steep.engine ≠ .listen) : SteepOnly s (enterListen reason s) := by
  obtain ⟨o, ob, h⟩ := enterListen_eq reason he
  rw [h]
  exact ⟨rfl, rfl, rfl⟩

end SteepOnly

theorem SteepOnly.followWave {p s} : SteepOnly s (followWave p s) := by
  rw [followWave_eq]
  refine .ite .refl <| .ite ⟨rfl, rfl, rfl⟩ ?_
  split
  · exact .refl
  next hv =>
    have h := listenSteep_eq hv
    exact .trans ⟨rfl, (congrArg Steep.seen h :), (congrArg Steep.master h :)⟩ .actOnWave

/-! ### A wave that comes -/

/-- The steep and rank by which copies of a wave are known. -/
def waveKey (p : BitVec 512) : BitVec 64 × BitVec 2 := ((waveFields p).steep, BitVec.ofNat 2 (waveFields p).rank)

/-- The state in which the first copy of a wave has been noted and sent on. -/
def waveSent (port : Option (BitVec 4)) (p : BitVec 512) (s : State) : State :=
  send (.flood port) (.wave p) { s with steep := { s.steep with seen := (waveKey p :: s.steep.seen).take 4096 } }

/-- A module in Listen without Spapor time has taken it from a founding wave. -/
def waveTimed (p : BitVec 512) (s : State) : State :=
  if isFounding (waveFields p) then foundTime (waveFields p) s else s

theorem waveTimed_of_known {p s} (h : s.timeKnown = true) : waveTimed p s = s := by
  unfold waveTimed foundTime
  rw [if_pos h, ite_self]

section
variable {port : Option (BitVec 4)} {p : BitVec 512} {s : State}

theorem takeWave_of_seen (h : s.steep.seen.contains (waveKey p) = true) : takeWave port p s = s := if_pos h

section
variable (hnew : s.steep.seen.contains (waveKey p) = false)
include hnew

theorem takeWave_of_new : takeWave port p s =
    match s.steep.engine with
    | .off => waveSent port p s
    | .stopped => waveSent port p s
    | .listen => followWave p (waveTimed p (waveSent port p s))
    | _ =>
      if (waveFields p).steep = s.steep.k then
        match s.steep.wave with
        | none =>
          if ahead s.time (waveDeadlineTime s) = 0 then actOnWave p (waveSent port p s)
          else enterListen 1 (failStep 1 (waveSent port p s))
        | some q =>
          if !wavesAgree (waveFields q) (waveFields p) && ahead (waveDeadlineTime s) s.time ≠ 0 then
            enterListen 2 (failStep 1 (waveSent port p s))
          else waveSent port p s
      else waveSent port p s :=
  if_neg (Bool.eq_false_iff.mp hnew)

theorem takeWave_of_idle (he : s.steep.engine = .off ∨ s.steep.engine = .stopped) :
    takeWave port p s = waveSent port p s := by
  rw [takeWave_of_new hnew]
  rcases he with he | he <;> rw [he]

theorem takeWave_of_listen (he : s.steep.engine = .listen) :
    takeWave port p s = followWave p (waveTimed p (waveSent port p s)) := by
  rw [takeWave_of_new hnew, he]

theorem takeWave_of_other (he : s.steep.engine = .locked ∨ s.steep.engine = .standby)
    (hk : (waveFields p).steep ≠ s.steep.k) : takeWave port p s = waveSent port p s := by
  rw [takeWave_of_new hnew]
  rcases he with he | he <;> simp only [he, hk, if_false]

variable (he : s.steep.engine = .locked ∨ s.steep.engine = .standby) (hk : (waveFields p).steep = s.steep.k)
include he hk

theorem takeWave_of_first (hw : s.steep.wave = none) : takeWave port p s =
    if ahead s.time (waveDeadlineTime s) = 0 then actOnWave p (waveSent port p s)
    else enterListen 1 (failStep 1 (waveSent port p s)) := by
  rw [takeWave_of_new hnew]
  rcases he with he | he <;> simp only [he, hk, hw, if_true]

theorem takeWave_of_timely (hw : s.steep.wave = none) (hd : ahead s.time (waveDeadlineTime s) = 0) :
    takeWave port p s = actOnWave p (waveSent port p s) :=
  (takeWave_of_first hnew he hk hw).trans (if_pos hd)

theorem takeWave_of_late (hw : s.steep.wave = none) (hd : ahead s.time (waveDeadlineTime s) ≠ 0) :
    takeWave port p s = enterListen 1 (failStep 1 (waveSent port p s)) :=
  (takeWave_of_first hnew he hk hw).trans (if_neg hd)

theorem takeWave_of_later {q : BitVec 512} (hw : s.steep.wave = some q) : takeWave port p s =
    if !wavesAgree (waveFields q) (waveFields p) && ahead (waveDeadlineTime s) s.time ≠ 0 then
      enterListen 2 (failStep 1 (waveSent port p s))
    else waveSent port p s := by
  rw [takeWave_of_new hnew]
  rcases he with he | he <;> simp only [he, hk, hw, if_true]

theorem takeWave_of_conflict {q : BitVec 512} (hw : s.steep.wave = some q)
    (ha : wavesAgree (waveFields q) (waveFields p) = false) (hd : ahead (waveDeadlineTime s) s.time ≠ 0) :
    takeWave port p s = enterListen 2 (failStep 1 (waveSent port p s)) := by
  rw [takeWave_of_later hnew he hk hw, ha]
  exact if_pos (by simpa using hd)

end

/-- Outside Listen a wave moves no time. -/
theorem SteepOnly.takeWave (hnew : s.steep.seen.contains (waveKey p) = false) :
    SteepOnly (if s.steep.engine = .listen then waveTimed p (waveSent port p s) else waveSent port p s)
      (takeWave port p s) := by
  by_cases hl : s.steep.engine = .listen
  · rw [if_pos hl, takeWave_of_listen hnew hl]
    exact .followWave
  rw [if_neg hl]
  by_cases hi : s.steep.engine = .off ∨ s.steep.engine = .stopped
  · rw [takeWave_of_idle hnew hi]
    exact .refl
  have he := locked_or_standby (not_or.mp hi).1 (not_or.mp hi).2 hl
  have hleave {r} : SteepOnly (waveSent port p s) (Machine.enterListen r (Machine.failStep 1 (waveSent port p s))) :=
    .trans .failStep (.enterListen hl)
  by_cases hk : (waveFields p).steep = s.steep.k
  · cases hw : s.steep.wave with
    | none =>
      rw [takeWave_of_first hnew he hk hw]
      exact .ite .actOnWave hleave
    | some q =>
      rw [takeWave_of_later hnew he hk hw]
      exact .ite hleave .refl
  · rw [takeWave_of_other hnew he hk]
    exact .refl

end

theorem waveTimed_eq (p : BitVec 512) (s : State) : ∃ tm tk sl b, waveTimed p s =
    { s with time := tm, timeKnown := tk, slew := sl, steep := { s.steep with stepped := b } } := by
  unfold waveTimed foundTime
  split
  · split
    · exact ⟨_, _, _, _, rfl⟩
    · exact ⟨_, _, _, _, rfl⟩
  · exact ⟨_, _, _, _, rfl⟩

theorem Quiet.trans {s t u : State} (h : Quiet s t) (h' : Quiet t u) : Quiet s u := by
  obtain ⟨h1, h2, h3, h4, h5, h6, h7⟩ := h
  obtain ⟨g1, g2, g3, g4, g5, g6, g7⟩ := h'
  exact ⟨g1.trans h1, g2.trans h2, g3.trans h3, g4.trans h4, g5.trans h5, g6.trans h6, g7.trans h7⟩

/-- What the first copy of a wave does at any module: it goes on, it is noted, and nothing else leaves the module. -/
theorem takeWave_keeps (port : Option (BitVec 4)) {p : BitVec 512} {s : State}
    (hnew : s.steep.seen.contains (waveKey p) = false) :
    Quiet s (takeWave port p s) ∧ (takeWave port p s).out = s.out ++ [.packet (.flood port) (.wave p)] ∧
      (takeWave port p s).steep.seen = (waveKey p :: s.steep.seen).take 4096 ∧
      (takeWave port p s).steep.master = s.steep.master ∧ (takeWave port p s).clock = s.clock := by
  have h := SteepOnly.takeWave (port := port) hnew
  obtain ⟨tm, tk, sl, b, ht⟩ := waveTimed_eq p (waveSent port p s)
  rw [ht] at h
  generalize takeWave port p s = t at h ⊢
  split at h
  · exact ⟨.trans ⟨rfl, rfl, rfl, rfl, rfl, rfl, rfl⟩ h.quiet, h.out, h.2.1, h.2.2, h.clock⟩
  · exact ⟨.trans ⟨rfl, rfl, rfl, rfl, rfl, rfl, rfl⟩ h.quiet, h.out, h.2.1, h.2.2, h.clock⟩

theorem exec_wave {port : Option (BitVec 4)} {p : BitVec 512} (s : State) (hp : fld p 504 8 = 0x21) :
    exec (.wave port p) s = .next (takeWave port p s) :=
  congrArg Host.Outcome.next (if_pos (beq_iff_eq.mpr hp))

/-- A Locked or Standby module leaves for Listen after a failure of the step. -/
theorem leave_eq (reason : Nat) {s : State} (he : s.steep.engine = .locked ∨ s.steep.engine = .standby) (hr : reason ≠ 0) :
    (enterListen reason (failStep 1 s)).steep.engine = .listen ∧
      (enterListen reason (failStep 1 s)).steep.exits = s.steep.exits + (if s.steep.engine = .locked then 1 else 0) ∧
      (enterListen reason (failStep 1 s)).steep.faultRec = packR 128 [(64, s.time.toNat), (8, reason)] := by
  have hl : (failStep 1 s).steep.engine ≠ .listen := by
    show s.steep.engine ≠ .listen
    rcases he with he | he <;> rw [he] <;> decide
  obtain ⟨o, ob, h⟩ := enterListen_eq reason hl
  rw [h]
  refine ⟨rfl, ?_, if_neg hr⟩
  show (if s.steep.engine = .locked then s.steep.exits + 1 else s.steep.exits) = _
  split <;> rfl

/-- The first wave names the steep. -/
theorem listenSteep_of_first {p : BitVec 512} {s : State} (hn : s.steep.wavesIn = 0) : listenSteep p s = some { s.steep with
    k := (waveFields p).steep, len := cfg s 0x4010 1, lenNext := (waveFields p).lk2, wavesIn := 1,
    b := (waveFields p).bk2 - BitVec.ofNat 64 (2 * cfg s 0x4010 1 * cyclesPerUs) } := by
  unfold listenSteep
  simp only [hn]

/-- The first wave that a module in Listen follows. -/
theorem followWave_of_first {p : BitVec 512} {s : State} (hk : s.timeKnown = true) (hn : s.steep.wavesIn = 0)
    (hw : s.steep.wave = none)
    (hd : ahead s.time ((waveFields p).bk2 - BitVec.ofNat 64 (cfg s 0x4010 1 * 2000) - 2000) = 0) :
    ∃ st, followWave p s = actOnWave p { s with steep := st } ∧ st.k = (waveFields p).steep ∧ st.wavesIn = 1 ∧
      st.lenNext = (waveFields p).lk2 ∧ st.engine = s.steep.engine := by
  have hlen : listenLen (waveFields p) s = cfg s 0x4010 1 := by
    unfold listenLen
    rw [hw, hn]
    rfl
  rw [followWave_eq, hlen, hk, if_neg (by decide), if_neg (not_not.mpr hd), listenSteep_of_first hn]
  exact ⟨_, rfl, rfl, rfl, rfl, rfl⟩

/-- WAVE_DEADLINE of a Locked or Standby module. -/
theorem exec_waveDeadline {s : State} (he : s.steep.engine = .locked ∨ s.steep.engine = .standby) :
    exec .waveDeadline s = .next (if s.steep.wave.isNone
      then enterListen 1 (failStep 1 (untilTime (waveDeadlineTime s) s)) else untilTime (waveDeadlineTime s) s) := by
  show execWaveDeadline s = _
  unfold execWaveDeadline
  rcases he with he | he <;> rw [he] <;> exact (apply_ite Host.Outcome.next ..).symm

/-- WAVE_DEADLINE of a module in Listen that follows waves and holds none. -/
theorem exec_waveDeadline_of_listen {s : State} (he : s.steep.engine = .listen) (hk : s.timeKnown = true)
    (hn : s.steep.wavesIn ≠ 0) (hw : s.steep.wave = none) : exec .waveDeadline s =
      .next { untilTime (waveDeadlineTime s) s with steep := { s.steep with wavesIn := 0 } } := by
  show execWaveDeadline s = _
  unfold execWaveDeadline
  simp only [he, hk, hn, hw, Bool.not_true, decide_false, Bool.or_self, Bool.false_eq_true, if_false, untilTime_steep,
    Option.isNone_none, if_true, done]

theorem untilTime_quiet (t : BitVec 64) (s : State) : Quiet s (untilTime t s) := ⟨rfl, rfl, rfl, rfl, rfl, rfl, rfl⟩

/-- Settles O10, by the cases of `takeWave`: each is an equation of its own above. -/
theorem wavesAreForwardedOnceAndActedOn : Obligations.WavesAreForwardedOnceAndActedOn := by
  unfold Obligations.WavesAreForwardedOnceAndActedOn
  refine ⟨fun s port p hp => ⟨fun hseen => ?seen, fun hnew => ?new⟩, fun s he => ⟨fun hw => ?miss, fun w hw => ?held⟩,
    fun s he hk hn hw => ?lost⟩
  case seen =>
    rw [exec_wave s hp, takeWave_of_seen hseen]
  case new =>
    obtain ⟨hq, ho, hs, -, -⟩ := takeWave_keeps port hnew
    refine ⟨_, exec_wave s hp, ho, ?_, hq, fun he => ?idle, fun he hk hn hw hd => ?listen, fun he hk =>
      ⟨fun hw hd => ?first, fun hw hd => ?late, fun q hw ha hd => ?conflict⟩⟩
    · rw [hs]
      exact List.contains_iff_mem.mpr (List.mem_cons_self ..)
    case idle =>
      rw [takeWave_of_idle hnew he]
      rfl
    case listen =>
      rw [takeWave_of_listen hnew he, waveTimed_of_known (s := waveSent port p s) hk]
      obtain ⟨st, h, h1, h2, h3, h4⟩ := followWave_of_first (s := waveSent port p s) hk hn hw hd
      obtain ⟨o, ob, h5⟩ := actOnWave_eq p { waveSent port p s with steep := st }
      rw [h, h5]
      exact ⟨h1, h2, rfl, h3, h4.trans he⟩
    case first =>
      rw [takeWave_of_timely hnew he hk hw hd]
      obtain ⟨o, ob, h⟩ := actOnWave_eq p (waveSent port p s)
      rw [h]
      exact ⟨rfl, rfl⟩
    case late =>
      rw [takeWave_of_late hnew he hk hw hd]
      exact leave_eq 1 (s := waveSent port p s) he (by decide)
    case conflict =>
      rw [takeWave_of_conflict hnew he hk hw ha hd]
      exact leave_eq 2 (s := waveSent port p s) he (by decide)
  case miss =>
    have hl : s.steep.engine ≠ .listen := by rcases he with he | he <;> rw [he] <;> decide
    let u := untilTime (waveDeadlineTime s) s
    have h : SteepOnly u (enterListen 1 (failStep 1 u)) := .trans .failStep (.enterListen hl)
    obtain ⟨h1, h2, h3⟩ := leave_eq 1 (s := u) he (by decide)
    refine ⟨enterListen 1 (failStep 1 u), ?_, h1, h2, h.time.trans (untilTime_waits ..), ?_,
      .trans (untilTime_quiet ..) h.quiet, h.out⟩
    · rw [exec_waveDeadline he, hw]
      rfl
    · rw [h3, h.time]
  case held =>
    refine ⟨untilTime (waveDeadlineTime s) s, ?_, rfl, hw, untilTime_quiet .., rfl⟩
    rw [exec_waveDeadline he, hw]
    rfl
  case lost =>
    exact ⟨_, exec_waveDeadline_of_listen he hk hn hw, he, rfl, ⟨rfl, rfl, rfl, rfl, rfl, rfl, rfl⟩, rfl⟩
end Sys2Proof.Machine
end

section
/-! O12. The timers of Listen, founding and the master table's digest. -/

namespace Sys2Proof.Machine

theorem untilClock_le (c : Nat) (s : State) : c ≤ (untilClock c s).clock := by
  rw [untilClock_clock]
  exact Nat.le_max_right ..

theorem untilClock_quiet (c : Nat) (s : State) : Quiet s (untilClock c s) := ⟨rfl, rfl, rfl, rfl, rfl, rfl, rfl⟩

/-! ### The timers of Listen -/

theorem engineRecord_eq (reason : Nat) (s : State) : ∃ r, r = packR 128 [(64, s.time.toNat), (8, reason)] ∧
    engineRecord reason s = { s with steep := { s.steep with faultRec := r } } := ⟨_, rfl, rfl⟩

/-- The first record that no wave has come; `r` is the fault record. -/
theorem exec_listenNoWaveRecord {s : State} (he : s.steep.engine = .listen) (hq : s.steep.quietRec = false) :
    ∃ u r, u = untilClock (s.steep.lastWave + 200000000) s ∧ r = packR 128 [(64, u.time.toNat), (8, 5)] ∧
      exec .listenNoWaveRecord s = .next { u with steep := { u.steep with faultRec := r, quietRec := true } } := by
  obtain ⟨r, hr, h⟩ := engineRecord_eq 5 (untilClock (s.steep.lastWave + 200000000) s)
  refine ⟨_, r, rfl, hr, ?_⟩
  show execListenNoWaveRecord s = _
  unfold execListenNoWaveRecord onlyIf
  rw [he, hq, if_pos (by decide)]
  dsimp only
  rw [h]

/-- The stop at the end of a stay in Listen. -/
def stopListen (s : State) : State :=
  let s := setEngine .stopped 6 s
  if s.boot.status = 0 then startupStop 0 0 s else s

theorem exec_listenTimeout {s : State} (he : s.steep.engine = .listen) :
    exec .listenTimeout s = .next (stopListen (untilClock (s.steep.listenAt + 10000000000) s)) :=
  congrArg Host.Outcome.next (if_pos (by rw [he]; rfl))

theorem stopListen_keeps {s : State} (he : s.steep.engine = .listen) :
    (stopListen s).steep.engine = .stopped ∧ (stopListen s).clock = s.clock ∧
      (stopListen s).steep.faultRec = packR 128 [(64, (stopListen s).time.toNat), (8, 6)] ∧ (stopListen s).mem = s.mem ∧
      (stopListen s).cust = s.cust ∧ (stopListen s).out = s.out ∧
      (s.boot.status = 0 → (stopListen s).boot.status = 2 ∧ (stopListen s).boot.faultL = false) ∧
      (s.boot.status ≠ 0 → (stopListen s).boot = s.boot) := by
  obtain ⟨o, ob, hv⟩ := setEngine_eq (e := .stopped) 6 (s := s) (by rw [he]; decide)
  unfold stopListen
  rw [hv]
  dsimp only
  split
  next h0 => exact ⟨rfl, rfl, rfl, rfl, rfl, rfl, fun _ => ⟨rfl, rfl⟩, fun hn => (hn h0).elim⟩
  next h0 => exact ⟨rfl, rfl, rfl, rfl, rfl, rfl, fun h => (h0 h).elim, fun _ => rfl⟩

/-! ### Founding -/

/-- The state in which the primary has given itself Spapor time, a steep and 24,600 cycles before 0. -/
def founded (s : State) : State :=
  { s with time := BitVec.ofInt 64 (-(cfg s 0x4010 1 * cyclesPerUs + 32000 - 7400)), timeKnown := true, slew := {},
           steep := { s.steep with stepped := true } }

/-- The two founding waves, a steep of `l` µs apart. -/
def foundingWaves (l : Nat) (s : State) : State :=
  let t := takeWave none (foundingWave s (-2)) s
  takeWave none (foundingWave t (-1)) (elapse (l * cyclesPerUs) t)

/-- A steep after the first founding wave the time is 24,600 cycles before 0. -/
theorem founded_time (s : State) :
    (founded s).time + BitVec.ofNat 64 (cfg s 0x4010 1 * cyclesPerUs) = BitVec.ofInt 64 (-24600) := by
  unfold founded
  generalize cfg s 0x4010 1 = n
  dsimp only
  rw [← BitVec.ofInt_natCast, ← BitVec.ofInt_add]
  exact congrArg (BitVec.ofInt 64) (by omega)

theorem exec_founding {s : State} (he : s.steep.engine = .listen) (hk : s.timeKnown = false) (hp : isPrimary s = true)
    (hd : s.fab.discovery = .complete) (hn : s.steep.wavesIn = 0) :
    ∃ u, u = untilClock (s.steep.listenAt + 100000000) s ∧
      exec .founding s = .next (foundingWaves (cfg u 0x4010 1) (founded u)) := by
  refine ⟨_, rfl, ?_⟩
  show execFounding s = _
  unfold execFounding onlyIf
  rw [he, hk, hp, hd, hn, if_pos (by decide)]
  rfl

/-- Waves move no time at a module in Listen that has Spapor time. -/
theorem takeWave_time_of_listen {port : Option (BitVec 4)} {p : BitVec 512} {s : State} (he : s.steep.engine = .listen)
    (hk : s.timeKnown = true) : SteepOnly (if s.steep.seen.contains (waveKey p) then s else waveSent port p s)
      (takeWave port p s) := by
  cases hseen : s.steep.seen.contains (waveKey p) with
  | true =>
    rw [takeWave_of_seen hseen, if_pos rfl]
    exact .refl
  | false =>
    have h := SteepOnly.takeWave (port := port) hseen
    rw [if_pos he, waveTimed_of_known (s := waveSent port p s) hk] at h
    exact h

theorem elapse_time_of_settled (n : Nat) {s : State} (h : s.slew = {}) :
    (elapse n s).time = s.time + BitVec.ofNat 64 n := by
  show s.time + BitVec.ofNat 64 (n + slewIn n s.slew).toNat = _
  have h0 : slewIn n s.slew = 0 := by
    rw [h]
    unfold slewIn
    simp
  rw [h0, Int.add_zero, Int.toNat_natCast]

theorem foundingWave_congr {s t : State} (h : t.dict = s.dict) (k : BitVec 64) :
    foundingWave t k = foundingWave s k := by
  unfold foundingWave stepLen cfg mappedLdns
  rw [h]

theorem followWave_engine (p : BitVec 512) (s : State) : (followWave p s).steep.engine = s.steep.engine := by
  rw [followWave_eq]
  split
  · rfl
  split
  · rfl
  split
  · rfl
  next hv =>
    obtain ⟨o, ob, h⟩ := actOnWave_eq p { s with steep := _ }
    rw [h]
    exact (congrArg Steep.engine (listenSteep_eq hv) :)

theorem takeWave_listens {port : Option (BitVec 4)} {p : BitVec 512} {s : State} (he : s.steep.engine = .listen)
    (hk : s.timeKnown = true) : (takeWave port p s).steep.engine = .listen := by
  cases hseen : s.steep.seen.contains (waveKey p) with
  | true => rw [takeWave_of_seen hseen, he]
  | false => rw [takeWave_of_listen hseen he, waveTimed_of_known (s := waveSent port p s) hk, followWave_engine]; exact he

/-- The founding waves, `l` µs apart, at a module in Listen that has seen no wave. -/
theorem foundingWaves_keeps (l : Nat) {s : State} (he : s.steep.engine = .listen) (hk : s.timeKnown = true)
    (hs : s.steep.seen = []) (hw : s.slew = {}) :
    Quiet s (foundingWaves l s) ∧ (foundingWaves l s).timeKnown = true ∧ s.clock ≤ (foundingWaves l s).clock ∧
      (foundingWaves l s).time = s.time + BitVec.ofNat 64 (l * cyclesPerUs) ∧
      Out.packet (.flood none) (.wave (foundingWave s (-2))) ∈ (foundingWaves l s).out := by
  have h1 := takeWave_time_of_listen (port := none) (p := foundingWave s (-2)) he hk
  have he1 := takeWave_listens (port := none) (p := foundingWave s (-2)) he hk
  rw [hs, List.contains_nil, if_neg (by decide)] at h1
  unfold foundingWaves
  generalize takeWave none (foundingWave s (-2)) s = t at h1 he1 ⊢
  dsimp only
  generalize hv : elapse (l * cyclesPerUs) t = v
  have hk1 : t.timeKnown = true := h1.timeKnown.trans hk
  have h2 := takeWave_time_of_listen (port := none) (p := foundingWave t (-1)) (s := v) (hv ▸ he1) (hv ▸ hk1)
  have ht : v.time = s.time + BitVec.ofNat 64 (l * cyclesPerUs) := by
    rw [← hv, elapse_time_of_settled _ (h1.slew.trans hw), h1.time]
    rfl
  have hc : s.clock ≤ v.clock := by
    have hc1 : t.clock = s.clock := h1.clock
    rw [← hv, ← hc1]
    exact Nat.le_add_right ..
  have ho : Out.packet (.flood none) (.wave (foundingWave s (-2))) ∈ v.out := by
    rw [← hv]
    show _ ∈ t.out
    rw [h1.out]
    exact List.mem_append_right _ (List.mem_singleton_self _)
  have hq : Quiet s v := .trans h1.quiet (hv ▸ ⟨rfl, rfl, rfl, rfl, rfl, rfl, rfl⟩)
  have hkv : v.timeKnown = true := hv ▸ hk1
  generalize takeWave none (foundingWave t (-1)) v = w at h2 ⊢
  split at h2
  · exact ⟨hq.trans h2.quiet, h2.timeKnown.trans hkv, h2.clock ▸ hc, h2.time.trans ht, h2.out ▸ ho⟩
  · exact ⟨hq.trans (.trans ⟨rfl, rfl, rfl, rfl, rfl, rfl, rfl⟩ h2.quiet), h2.timeKnown.trans hkv, h2.clock ▸ hc,
      h2.time.trans ht, h2.out ▸ List.mem_append_left _ ho⟩

/-! ### The master table's digest -/

theorem setTable_eq (t : List (BitVec 16)) (s : State) : ∃ d, setTable t s = { s with dict := d } := by
  unfold setTable
  generalize List.range 1024 = ls
  induction ls generalizing s with
  | nil => exact ⟨_, rfl⟩
  | cons l ls ih =>
    rw [List.foldl_cons]
    obtain ⟨d, h⟩ := ih (setBoth (0x7100 + l / 128) (l % 128 + 1) ((t.getD l 0xFFFF).toNat) s)
    exact ⟨d, h⟩

/-- The state in which a Locked module has left for Listen, as its table is not the primary's. -/
def tableDiffers (s : State) : State :=
  enterListen 4 (failStep 1 { s with fab := { s.fab with digestBad := true } })

theorem tableDiffers_keeps {s : State} (he : s.steep.engine = .locked) :
    (tableDiffers s).steep.engine = .listen ∧ (tableDiffers s).steep.exits = s.steep.exits + 1 ∧
      (tableDiffers s).mem = s.mem ∧ (tableDiffers s).cust = s.cust ∧ (tableDiffers s).out = s.out ∧
      (tableDiffers s).fab.digestBad = true := by
  let v : State := { s with fab := { s.fab with digestBad := true } }
  have hl : v.steep.engine ≠ .listen := by
    show s.steep.engine ≠ .listen
    rw [he]
    decide
  obtain ⟨h1, h2, -⟩ := leave_eq 4 (s := v) (.inl he) (by decide)
  have h : SteepOnly v (tableDiffers s) := .trans .failStep (.enterListen hl)
  exact ⟨h1, h2.trans (congrArg (s.steep.exits + ·) (if_pos he)), (congrArg State.mem h.1 :),
    (congrArg State.cust h.1 :), h.out, (congrArg (·.fab.digestBad) h.1 :)⟩

theorem exec_tableDigest_of_differs {s : State} {sna : BitVec 16} {d : BitVec 64} {tab : List (BitVec 16)}
    {m : Nat × Nat} {ms : List (Nat × Nat)} (hp : isPrimary s = false) (hm : masterLdns s = m :: ms)
    (hl : snaOfLdn s m.2 = some sna.toNat) (hd : d ≠ tableDigestOf s) (he : s.steep.engine = .locked) :
    exec (.tableDigest sna d tab) s = .next (if tab.length = 1024 then
      { (setTable tab (tableDiffers s)) with fab := { (tableDiffers s).fab with digestBad := false } }
      else tableDiffers s) := by
  show execTableDigest sna d tab s = _
  unfold execTableDigest
  rw [hp, if_neg (by decide)]
  refine (if_pos ?_).trans ?_
  · rw [hm]
    simp [hl, hd]
  · simp only [he]
    exact (apply_ite Host.Outcome.next ..).symm

section
variable {s : State} {c : Nat} (he : s.steep.engine = .listen)
include he

/-- `c` is 100 ms after the last wave. -/
theorem listenNoWaveRecord_records (hc : s.steep.lastWave + 200000000 = c) (hq : s.steep.quietRec = false) :
    ∃ t, exec .listenNoWaveRecord s = .next t ∧ t.steep.quietRec = true ∧ t.steep.engine = .listen ∧ c ≤ t.clock ∧
      t.steep.faultRec = packR 128 [(64, t.time.toNat), (8, 5)] ∧ Quiet s t ∧ t.out = s.out := by
  obtain ⟨u, r, hu, hr, h⟩ := exec_listenNoWaveRecord he hq
  rw [hc] at hu
  subst hu
  exact ⟨_, h, rfl, he, untilClock_le c s, hr, ⟨rfl, rfl, rfl, rfl, rfl, rfl, rfl⟩, rfl⟩

/-- `c` is 5 s after the entry into Listen. -/
theorem listenTimeout_stops (hc : s.steep.listenAt + 10000000000 = c) :
    ∃ t, exec .listenTimeout s = .next t ∧ t.steep.engine = .stopped ∧ c ≤ t.clock ∧
      t.steep.faultRec = packR 128 [(64, t.time.toNat), (8, 6)] ∧ t.mem = s.mem ∧ t.cust = s.cust ∧ t.out = s.out ∧
      (s.boot.status = 0 → t.boot.status = 2 ∧ t.boot.faultL = false) ∧ (s.boot.status ≠ 0 → t.boot = s.boot) := by
  have h := exec_listenTimeout he
  rw [hc] at h
  obtain ⟨h1, h2, h3, h4, h5, h6, h7, h8⟩ := stopListen_keeps (s := untilClock c s) he
  exact ⟨_, h, h1, h2 ▸ untilClock_le c s, h3, h4, h5, h6, h7, h8⟩

/-- `c` is 50 ms after the entry into Listen. -/
theorem founding_founds (hc : s.steep.listenAt + 100000000 = c) (hk : s.timeKnown = false) (hp : isPrimary s = true)
    (hd : s.fab.discovery = .complete) (hn : s.steep.wavesIn = 0) (hs : s.steep.seen = []) :
    ∃ t, exec .founding s = .next t ∧ t.timeKnown = true ∧ c ≤ t.clock ∧ t.time = BitVec.ofInt 64 (-24600) ∧
      Out.packet (.flood none) (.wave (foundingWave s (-2))) ∈ t.out ∧ t.mem = s.mem ∧ t.cust = s.cust := by
  obtain ⟨u, hu, h⟩ := exec_founding he hk hp hd hn
  rw [hc] at hu
  subst hu
  obtain ⟨⟨-, hm, -, hcu, -⟩, h1, h2, h3, h4⟩ :=
    foundingWaves_keeps (cfg (untilClock c s) 0x4010 1) (s := founded (untilClock c s)) he rfl hs rfl
  refine ⟨_, h, h1, (untilClock_le c s).trans h2, h3.trans (founded_time _), ?_, hm, hcu⟩
  rw [← foundingWave_congr (s := s) (t := founded (untilClock c s)) rfl]
  exact h4

end

theorem execTableDigest_of_same {s : State} {sna : BitVec 16} {tab : List (BitVec 16)} (hp : isPrimary s = false) :
    exec (.tableDigest sna (tableDigestOf s) tab) s = .next s := by
  show execTableDigest sna (tableDigestOf s) tab s = _
  unfold execTableDigest
  rw [hp, if_neg (by decide)]
  exact if_neg (by simp)

theorem tableDigest_differs {s : State} {sna : BitVec 16} {d : BitVec 64} {tab : List (BitVec 16)}
    {m : Nat × Nat} {ms : List (Nat × Nat)} (hp : isPrimary s = false) (hm : masterLdns s = m :: ms)
    (hl : snaOfLdn s m.2 = some sna.toNat) (hd : d ≠ tableDigestOf s) (he : s.steep.engine = .locked) :
    ∃ t, exec (.tableDigest sna d tab) s = .next t ∧ t.steep.engine = .listen ∧ t.steep.exits = s.steep.exits + 1 ∧
      t.mem = s.mem ∧ t.cust = s.cust ∧ t.out = s.out ∧
      (tab.length = 1024 → t.fab.digestBad = false) ∧ (tab.length ≠ 1024 → t.fab.digestBad = true) := by
  obtain ⟨h1, h2, h3, h4, h5, h6⟩ := tableDiffers_keeps he
  refine ⟨_, exec_tableDigest_of_differs hp hm hl hd he, ?_⟩
  split
  next hlen =>
    obtain ⟨dict, h⟩ := setTable_eq tab (tableDiffers s)
    rw [h]
    exact ⟨h1, h2, h3, h4, h5, fun _ => rfl, fun hn => (hn hlen).elim⟩
  next hlen => exact ⟨h1, h2, h3, h4, h5, fun h => (hlen h).elim, fun _ => h6⟩

/-- Settles O12, one lemma for each timer and for each answer to a digest. -/
theorem listenAndFoundingTimers : Obligations.ListenAndFoundingTimers := by
  unfold Obligations.ListenAndFoundingTimers
  refine ⟨fun s he => listenNoWaveRecord_records he rfl, fun s he => listenTimeout_stops he rfl,
    fun s he => founding_founds he rfl, fun s sna d tab => ⟨fun hp => if_pos hp, fun hd hp => ?_,
      fun m ms hp hm hl hd he => tableDigest_differs hp hm hl hd he⟩⟩
  rw [hd]
  exact execTableDigest_of_same hp

end Sys2Proof.Machine
end

section
/-! O9. The masters. -/

namespace Sys2Proof.Machine

/-! ### Contributions -/

theorem takeContribution_of_first {p : BitVec 512} {s : State} (hk : fld p 432 64 = s.steep.k)
    (hr : s.steep.master.reduced = false)
    (hn : ∀ q ∈ s.steep.master.contributions, fld q 416 16 ≠ fld p 416 16) :
    ∃ m, takeContribution p s = { s with steep := { s.steep with master := m } } ∧
      m.contributions = s.steep.master.contributions ++ [p] := by
  have hany : (s.steep.master.contributions.any fun q => (fld q 416 16).toNat = (fld p 416 16).toNat) = false := by
    rw [List.any_eq_false]
    intro q hq
    simpa [BitVec.toNat_inj] using hn q hq
  refine ⟨_, if_neg ?_, rfl⟩
  simp [hk, hr, hany]

theorem takeContribution_of_foreign {p : BitVec 512} {s : State}
    (h : fld p 432 64 ≠ s.steep.k ∨ s.steep.master.reduced = true) : takeContribution p s = s := by
  unfold takeContribution
  rw [if_pos]
  rcases h with h | h <;> simp [h]

theorem contribution_kept {s : State} {p : BitVec 512} (he : s.steep.engine = .locked) (hr : (ownRank s).isSome = true)
    (hp : fld p 504 8 = 0x22) (hm : s.steep.master.reduced = false) (ht : ahead s.time (gatherTime s) = 0)
    (hk : fld p 432 64 = s.steep.k) (hn : ∀ q ∈ s.steep.master.contributions, fld q 416 16 ≠ fld p 416 16) :
    ∃ t, exec (.contribution p) s = .next t ∧
      t.steep.master.contributions = s.steep.master.contributions ++ [p] ∧
      t = { s with steep := { s.steep with master := t.steep.master } } := by
  obtain ⟨m, h, hc⟩ := takeContribution_of_first hk hm hn
  refine ⟨_, congrArg Host.Outcome.next ((if_pos ?_).trans h), hc, rfl⟩
  simp [isLocked, he, hr, hp, ht]

theorem contribution_dropped {s : State} {p : BitVec 512}
    (h : s.steep.engine ≠ .locked ∨ ownRank s = none ∨ fld p 504 8 ≠ 0x22 ∨ fld p 432 64 ≠ s.steep.k ∨
      ahead s.time (gatherTime s) ≠ 0 ∨ s.steep.master.reduced = true) : exec (.contribution p) s = .next s := by
  show onlyIf _ s (takeContribution p) = _
  unfold onlyIf
  by_cases hf : fld p 432 64 ≠ s.steep.k ∨ s.steep.master.reduced = true
  · rw [takeContribution_of_foreign hf, ite_self]
  · refine congrArg Host.Outcome.next (if_neg fun hc => ?_)
    simp only [isLocked, Bool.and_eq_true, beq_iff_eq, Option.isSome_iff_ne_none] at hc
    obtain ⟨⟨⟨h1, h2⟩, h3⟩, h4⟩ := hc
    rcases h with h | h | h | h | h | h
    · exact h h1
    · exact h2 h
    · exact h h3
    · exact hf (.inl h)
    · exact h h4
    · exact hf (.inr h)

/-! ### The reduction -/

theorem le_foldl_max {α : Type} (f : α → Nat) (l : List α) (a : Nat) :
    a ≤ l.foldl (fun a x => max a (f x)) a ∧ ∀ x ∈ l, f x ≤ l.foldl (fun a x => max a (f x)) a := by
  induction l generalizing a with
  | nil => exact ⟨le_rfl, fun x hx => absurd hx (List.not_mem_nil)⟩
  | cons y l ih =>
    obtain ⟨h1, h2⟩ := ih (max a (f y))
    refine ⟨(le_max_left ..).trans h1, fun x hx => ?_⟩
    rcases List.mem_cons.mp hx with rfl | hx
    · exact (le_max_right ..).trans h1
    · exact h2 x hx

/-- A good reduction misses no mapped LDN. -/
theorem reduceWave_good {r : Nat} {s : State} (h : (reduceWave r s).good = true) : s.steep.master.latch = true ∧
    (∀ p ∈ s.steep.master.contributions, bit p 402 = true) ∧
    ∀ e ∈ mappedLdns s, ∃ p ∈ s.steep.master.contributions, (fld p 416 16).toNat = e.1 := by
  unfold reduceWave at h
  simp only [Bool.and_eq_true, List.isEmpty_iff, List.filter_eq_nil_iff, List.all_eq_true] at h
  obtain ⟨hl, hm, hg⟩ := h
  refine ⟨hl, hg, fun e he => ?_⟩
  have hin := hm e.1 (List.mem_map_of_mem he)
  simpa using hin

/-- What a master holds after its reduction. -/
def reduced (r : Nat) (s : State) : State :=
  let got := s.steep.master.contributions.map fun p => (fld p 416 16).toNat
  let missing := ((mappedLdns s).map fun e => e.1).filter fun l => !got.contains l
  updMaster (fun m => { m with
    reduced := true, latch := (reduceWave r s).good, ownWave := some (wavePacket (reduceWave r s)),
    missing := m.missing ++ missing, boards := m.boards ++ goneBoards s missing,
    snapReq := if (reduceWave r s).snap then none else m.snapReq }) s

/-- The primary floods its wave at once, 200 ns after the reduction. -/
def floodOwn (r : Nat) (p : BitVec 512) (s : State) : State := if r = 0 then takeWave none p (elapse 400 s) else s

theorem floodOwn_keeps (r : Nat) (p : BitVec 512) (s : State) : Quiet s (floodOwn r p s) ∧
    (floodOwn r p s).steep.master = s.steep.master ∧
    (r = 0 → s.steep.seen.contains (waveKey p) = false →
      (floodOwn r p s).out = s.out ++ [.packet (.flood none) (.wave p)]) := by
  have he : Quiet s (elapse 400 s) := ⟨rfl, rfl, rfl, rfl, rfl, rfl, rfl⟩
  unfold floodOwn
  split
  · cases hseen : s.steep.seen.contains (waveKey p) with
    | true =>
      rw [takeWave_of_seen (s := elapse 400 s) hseen]
      exact ⟨he, rfl, fun _ hn => absurd hn (by decide)⟩
    | false =>
      obtain ⟨hq, ho, -, hm, -⟩ := takeWave_keeps none (s := elapse 400 s) hseen
      exact ⟨he.trans hq, hm, fun _ _ => ho⟩
  next hr => exact ⟨⟨rfl, rfl, rfl, rfl, rfl, rfl, rfl⟩, rfl, fun h => (hr h).elim⟩

theorem floodOwn_of_backup {r : Nat} {p : BitVec 512} {s : State} (h : r ≠ 0) : floodOwn r p s = s := if_neg h

theorem exec_gatherDeadline {s : State} {r : Nat} (he : s.steep.engine = .locked) (hr : ownRank s = some r)
    (hw : s.steep.waved = true) (hm : s.steep.master.reduced = false) : ∃ u f, u = untilTime (gatherTime s) s ∧
      f = reduceWave r u ∧ exec .gatherDeadline s =
        .next (floodOwn r (wavePacket f) (reduced r u)) := by
  refine ⟨_, _, rfl, rfl, ?_⟩
  show execGatherDeadline s = _
  unfold execGatherDeadline
  rw [hr]
  refine (if_neg ?_).trans (apply_ite Host.Outcome.next ..).symm
  simp [isLocked, he, hw, hm]

theorem gatherDeadline_reduces {s : State} {r : Nat} (he : s.steep.engine = .locked) (hr : ownRank s = some r)
    (hw : s.steep.waved = true) (hm : s.steep.master.reduced = false) :
    ∃ t f, exec .gatherDeadline s = .next t ∧ t.steep.master.reduced = true ∧
      t.steep.master.ownWave = some (wavePacket f) ∧ f.rank = r ∧ f.steep = s.steep.k ∧ cfg s 0x4010 1 ≤ f.lk2 ∧
      (∀ p ∈ s.steep.master.contributions, (fld p 403 13).toNat ≤ f.lk2) ∧
      (f.good = true → s.steep.master.latch = true ∧ (∀ p ∈ s.steep.master.contributions, bit p 402 = true) ∧
        ∀ e ∈ mappedLdns s, ∃ p ∈ s.steep.master.contributions, (fld p 416 16).toNat = e.1) ∧
      f.commit = (if isCommitSteep s then (if f.good then 1 else 2) else 0) ∧ Quiet s t ∧
      (r ≠ 0 → t.out = s.out ∧ t.time = waited s (gatherTime s)) ∧
      (r = 0 → s.steep.seen.contains (waveKey (wavePacket f)) = false →
        t.out = s.out ++ [.packet (.flood none) (.wave (wavePacket f))]) := by
  obtain ⟨u, f, hu, hf, h⟩ := exec_gatherDeadline he hr hw hm
  have ht : u.time = waited s (gatherTime s) := hu ▸ untilTime_waits ..
  obtain ⟨hcfg, hreq⟩ := le_foldl_max (fun p => (fld p 403 13).toNat) u.steep.master.contributions (cfg u 0x4010 1)
  have hq : Quiet s (reduced r u) := hu ▸ ⟨rfl, rfl, rfl, rfl, rfl, rfl, rfl⟩
  have ho : (reduced r u).out = s.out := hu ▸ rfl
  have hs : (reduced r u).steep.seen = s.steep.seen := hu ▸ rfl
  obtain ⟨hq', hm', ho'⟩ := floodOwn_keeps r (wavePacket f) (reduced r u)
  refine ⟨_, f, h, ?red, ?own, hf ▸ rfl, hf ▸ hu ▸ rfl, hf ▸ hu ▸ hcfg, hf ▸ hu ▸ hreq,
    fun hg => ?good, hf ▸ hu ▸ rfl, hq.trans hq', fun hr0 => ?backup, fun hr0 hnew => ?primary⟩
  case red =>
    rw [hm']
    rfl
  case own =>
    rw [hm', hf]
    rfl
  case good =>
    rw [hf, hu] at hg
    exact reduceWave_good (r := r) (s := untilTime (gatherTime s) s) hg
  case backup =>
    rw [floodOwn_of_backup hr0]
    exact ⟨ho, ht⟩
  case primary => rw [ho' hr0 (hs ▸ hnew), ho]

theorem exec_backupWaveFlood {s : State} {r : Nat} {p : BitVec 512} (he : s.steep.engine = .locked)
    (hr : ownRank s = some r) (h12 : r = 1 ∨ r = 2) (hp : s.steep.master.ownWave = some p)
    (h0 : s.steep.seen.contains (s.steep.k, 0) = false)
    (hnew : s.steep.seen.contains (s.steep.k, BitVec.ofNat 2 r) = false)
    (h1 : r = 2 → s.steep.seen.contains (s.steep.k, 1) = false) : exec .backupWaveFlood s =
      .next (takeWave none p (untilTime (nextB s - 32000 + (if r = 1 then 15000 else 23000)) s)) := by
  show execBackupWaveFlood s = _
  unfold execBackupWaveFlood
  rw [hr, hp]
  refine if_neg ?_
  have hr0 : r ≠ 0 := by omega
  have hfirst : s.steep.seen.contains (s.steep.k, BitVec.ofNat 2 0) = false := h0
  have hsecond : ¬(r = 2 ∧ s.steep.seen.contains (s.steep.k, BitVec.ofNat 2 1) = true) := fun h =>
    absurd h.2 (Bool.eq_false_iff.mp (h1 h.1))
  simp only [isLocked, he, hr0, hfirst, hnew, Bool.or_eq_true, Bool.and_eq_true, decide_eq_true_eq, hsecond]
  decide

theorem backupWaveFlood_floods {s : State} {r : Nat} {p : BitVec 512} (he : s.steep.engine = .locked)
    (hr : ownRank s = some r) (h12 : r = 1 ∨ r = 2) (hp : s.steep.master.ownWave = some p)
    (hrank : (waveFields p).rank = r) (hk : (waveFields p).steep = s.steep.k)
    (h0 : s.steep.seen.contains (s.steep.k, 0) = false)
    (hnew : s.steep.seen.contains (s.steep.k, BitVec.ofNat 2 r) = false)
    (h1 : r = 2 → s.steep.seen.contains (s.steep.k, 1) = false) :
    ∃ t, exec .backupWaveFlood s = .next t ∧ Out.packet (.flood none) (.wave p) ∈ t.out ∧
      t.time = waited s (nextB s - 32000 + (if r = 1 then 15000 else 23000)) ∧ Quiet s t ∧
      (s.steep.wave = none → ahead t.time (waveDeadlineTime s) = 0 → t.steep.wave = some p) := by
  refine ⟨_, exec_backupWaveFlood he hr h12 hp h0 hnew h1, ?_⟩
  generalize nextB s - 32000 + (if r = 1 then 15000 else 23000) = g
  have hseen : (untilTime g s).steep.seen.contains (waveKey p) = false := by
    rw [untilTime_steep, waveKey, hk, hrank]
    exact hnew
  have hl : (untilTime g s).steep.engine ≠ .listen := by
    rw [untilTime_steep, he]
    decide
  have hs := SteepOnly.takeWave (port := none) hseen
  rw [if_neg hl] at hs
  have htime : (takeWave none p (untilTime g s)).time = waited s g := hs.time.trans (untilTime_waits ..)
  obtain ⟨hq, ho, -, -, -⟩ := takeWave_keeps none hseen
  refine ⟨?_, htime, (untilTime_quiet ..).trans hq, fun hw hd => ?_⟩
  · rw [ho]
    exact List.mem_append_right _ (List.mem_singleton_self _)
  · rw [takeWave_of_timely hseen (.inl he) hk hw (by rwa [htime, ← untilTime_waits] at hd)]
    obtain ⟨o, ob, h⟩ := actOnWave_eq p (waveSent none p (untilTime g s))
    rw [h]

/-- Settles O9, one lemma for each of the four commands. -/
theorem mastersGatherAndReduce : Obligations.MastersGatherAndReduce := by
  unfold Obligations.MastersGatherAndReduce
  refine ⟨fun s p => ⟨contribution_kept, contribution_dropped⟩, fun s r => gatherDeadline_reduces,
    fun s r p => backupWaveFlood_floods, fun s id => ⟨fun hp => ?_, fun hp => ?_⟩⟩
  · exact ⟨_, congrArg Host.Outcome.next (if_pos hp), rfl, rfl⟩
  · exact congrArg Host.Outcome.next (if_neg (by rw [hp]; decide))
end Sys2Proof.Machine
end

section
/-! O7. The boundary. -/

namespace Sys2Proof.Machine

/-! ### The steep that ends and the steep that begins -/

theorem engineBoundary_eq (s : State) : ∃ e x r o ob, engineBoundary s = { s with
      steep := { s.steep with engine := e, exits := x, faultRec := r, oseq := o }, obs := ob } ∧
    (s.steep.engine ≠ .listen → e = s.steep.engine) := by
  unfold engineBoundary
  split
  next hc =>
    have hl : s.steep.engine = .listen := by
      simp only [Bool.and_eq_true] at hc
      exact eq_of_beq hc.1.1.1
    have hne : s.steep.engine ≠ (if (ownLdn s).isSome then .locked else .standby) := by
      rw [hl]
      split <;> decide
    obtain ⟨o, ob, h⟩ := setEngine_eq 0 hne
    exact ⟨_, _, _, _, _, h, fun hn => (hn hl).elim⟩
  next => exact ⟨_, _, _, _, _, rfl, fun _ => rfl⟩

theorem Lasts.freezeBlocks {full bad en f s} (h : Lasts full bad en s) : Lasts full bad en (freezeBlocks f s) :=
  .ite (.frame h) h

/-- `t` is what follows `u` where a boundary acts on wave `w`: what ends the steep, the registers of the steep that
begins, and what begins it. -/
def Crosses (w : BitVec 512) (u t : State) : Prop :=
  ∃ v, Lasts true false (lastingOf true u) v ∧
    Lasts true false (lastingOf true (engineBoundary (newSkews (steepBoundary (waveFields w) v)))) t

theorem exists_of_onlyIf {P : State → Prop} {c : Bool} {s : State} {f : State → State} (hc : c = true) (h : P (f s)) :
    ∃ t, onlyIf c s f = .next t ∧ P t :=
  ⟨f s, congrArg Host.Outcome.next (if_pos hc), h⟩

theorem exec_steepBoundary {s : State} {w : BitVec 512} (hw : s.steep.wave = some w) (hr : boundaryReady s = true) :
    ∃ t, exec .steepBoundary s = .next t ∧ Crosses w (untilTime (nextB s) s) t := by
  show ∃ t, execSteepBoundary s = _ ∧ _
  unfold execSteepBoundary
  rw [hw]
  refine exists_of_onlyIf hr ?_
  extract_lets _ s1 _ _ s2 s3 _ _ _ s4 s5 s6 s7 _ _ s8 s9 s10 s11
  have h2 : Lasts true false (lastingOf true (untilTime (nextB s) s)) s2 :=
    .endServing <| .freezeBlocks <| .countAll <| .start true _
  have h3 : Lasts true false (lastingOf true (untilTime (nextB s) s)) s3 := .ite (.endStep h2) h2
  have h5 : Lasts true false (lastingOf true (untilTime (nextB s) s)) s5 :=
    .swapTables <| .countRepeats <| .frame h3
  have h10 : Lasts true false (lastingOf true s7) s10 :=
    .foldl (.quotaBoundary <| .countAll <| .updAd <| .frame <| .start true s7) fun _ _ h => .startCore h
  refine ⟨s6, .ite h5 (.trace h5), ?_⟩
  split
  · exact .ite (.sendRollCalls <| .newAttempt h10) (.newAttempt h10)
  · exact h10

theorem nextStep_of_lasting {u v : State} (h : lastingOf true v = lastingOf true u) (c : BitVec 2) :
    nextStep v c = nextStep u c := by
  have hstep : v.steep.step = u.steep.step := congrArg (·.steep.step) h
  have hsidx : v.steep.sidx = u.steep.sidx := congrArg (·.steep.sidx) h
  have hrep : v.steep.rep = u.steep.rep := congrArg (·.steep.rep) h
  have hdict : v.dict = u.dict := congrArg (·.dict) h
  unfold nextStep stepLen cfg
  rw [hstep, hsidx, hrep, hdict]

theorem nextB_of_lasting {u v : State} (h : lastingOf true v = lastingOf true u) : nextB v = nextB u := by
  have hb : v.steep.b = u.steep.b := congrArg (·.steep.b) h
  have hlen : v.steep.len = u.steep.len := congrArg (·.steep.len) h
  unfold nextB
  rw [hb, hlen]

theorem still_of_lasting {u v : State} (h : lastingOf true v = lastingOf true u) :
    v.clock = u.clock ∧ v.time = u.time ∧ v.mem = u.mem := by
  have hs : some (v.clock, v.time, v.mem) = some (u.clock, u.time, u.mem) := congrArg (·.still) h
  obtain ⟨h1, h2⟩ := Prod.mk.inj (Option.some.inj hs)
  exact ⟨h1, Prod.mk.inj h2⟩

theorem quiet_of_lasting {u v : State} (h : lastingOf true v = lastingOf true u) : Quiet u v :=
  ⟨congrArg (·.queue) h, (still_of_lasting h).2.2, congrArg (·.hbm) h, congrArg (·.cust) h, congrArg (·.dict) h,
    congrArg (·.boot) h, congrArg (·.power) h⟩

section
variable {w : BitVec 512} {u t : State} (h : Crosses w u t)
include h

theorem Crosses.quiet : Quiet u t ∧ t.time = u.time := by
  obtain ⟨v, ⟨hv, -⟩, ⟨ht, -⟩⟩ := h
  obtain ⟨e, x, r, o, ob, heq, -⟩ := engineBoundary_eq (newSkews (steepBoundary (waveFields w) v))
  rw [heq] at ht
  obtain ⟨-, hvt, -⟩ := still_of_lasting hv
  obtain ⟨-, htt, -⟩ := still_of_lasting ht
  refine ⟨(quiet_of_lasting hv).trans (.trans ?_ (quiet_of_lasting ht)), htt.trans hvt⟩
  exact ⟨rfl, rfl, rfl, rfl, rfl, rfl, rfl⟩

theorem Crosses.registers : t.steep.k = u.steep.k + 1 ∧ t.steep.b = nextB u ∧ t.steep.len = u.steep.lenNext ∧
    t.steep.lenNext = (waveFields w).lk2 ∧ t.steep.wave = none ∧ t.steep.guard = false ∧ t.steep.waved = false ∧
    t.steep.decision = (waveFields w).commit ∧ (u.steep.engine ≠ .listen → t.steep.engine = u.steep.engine) ∧
    (t.steep.step, t.steep.sidx, t.steep.rep) = nextStep u (waveFields w).commit := by
  obtain ⟨v, ⟨hv, -⟩, ⟨ht, -⟩⟩ := h
  obtain ⟨e, x, r, o, ob, heq, hl⟩ := engineBoundary_eq (newSkews (steepBoundary (waveFields w) v))
  rw [heq] at ht
  rw [← nextB_of_lasting hv, ← nextStep_of_lasting hv]
  have he : v.steep.engine = u.steep.engine := congrArg (·.steep.engine) hv
  have hk : v.steep.k = u.steep.k := congrArg (·.steep.k) hv
  have hlen : v.steep.lenNext = u.steep.lenNext := congrArg (·.steep.lenNext) hv
  rw [← he, ← hk, ← hlen]
  have hs := congrArg Lasting.steep ht
  exact ⟨congrArg Steep.k hs, congrArg Steep.b hs, congrArg Steep.len hs, congrArg Steep.lenNext hs, congrArg Steep.wave hs,
    congrArg Steep.guard hs, congrArg Steep.waved hs, congrArg Steep.decision hs,
    fun hn => (congrArg Steep.engine hs).trans (hl hn), congrArg (fun st : Steep => (st.step, st.sidx, st.rep)) hs⟩

end

/-- STEP, SIDX and REPEAT after a commit, after an abort, and inside a step. -/
theorem nextStep_cases (s : State) (c : BitVec 2) :
    (c = 1 → nextStep s c = (s.steep.step + 1, 0, 0)) ∧
    (c = 2 → nextStep s c = (s.steep.step, 0, min (s.steep.rep + 1) 3)) ∧
    (c = 0 → s.steep.sidx + 1 ≠ stepLen s → nextStep s c = (s.steep.step, s.steep.sidx + 1, s.steep.rep)) :=
  ⟨fun h => h ▸ rfl, fun h => h ▸ rfl, fun h hn => h ▸ if_neg hn⟩

theorem exec_steepBoundary_of_unready {s : State} (h : boundaryReady s = false) : exec .steepBoundary s = .next s := by
  show execSteepBoundary s = _
  unfold execSteepBoundary
  split
  · rfl
  · exact congrArg Host.Outcome.next (if_neg (by rw [h]; decide))

/-- Settles O7, by what a boundary keeps as the steep ends and as the next one begins. -/
theorem steepBoundaryBeginsNextSteep : Obligations.SteepBoundaryBeginsNextSteep := by
  unfold Obligations.SteepBoundaryBeginsNextSteep
  refine ⟨fun s w hw hr => ?_, fun s => exec_steepBoundary_of_unready⟩
  obtain ⟨t, h, hc⟩ := exec_steepBoundary hw hr
  obtain ⟨hq, htime⟩ := hc.quiet
  obtain ⟨h1, h2, h3, h4, h5, h6, h7, h8, h9, hn⟩ := hc.registers
  obtain ⟨hcommit, habort, hgo⟩ := nextStep_cases (untilTime (nextB s) s) (waveFields w).commit
  have hfields {n : BitVec 32 × Nat × Nat} (hv : nextStep (untilTime (nextB s) s) (waveFields w).commit = n) :
      t.steep.step = n.1 ∧ t.steep.sidx = n.2.1 ∧ t.steep.rep = n.2.2 := by
    rw [← hv, ← hn]
    exact ⟨rfl, rfl, rfl⟩
  exact ⟨t, h, htime.trans (untilTime_waits ..), h1, h2, h3, h4, h5, h6, h7, h8, h9, fun hv => hfields (hcommit hv),
    fun hv => hfields (habort hv), fun hv hs => hfields (hgo hv hs), (untilTime_quiet ..).trans hq⟩

end Sys2Proof.Machine
end

section
/-! O8. The wave point. -/

namespace Sys2Proof.Machine

/-! ### The stretch level and the contribution -/

/-- The stretch level after a wave point (spec/02 R45). -/
def stretchLevel (s : State) : Nat :=
  if (s.steep.condHbm || s.steep.condPower) && s.steep.stretch < 255 &&
      (s.steep.stretch = 0 || cfg s 0x4011 2 ≤ ahead s.steep.k s.steep.lastChange) then s.steep.stretch + 1
  else if 0 < s.steep.stretch &&
      cfg s 0x4011 3 ≤ (if s.steep.condHbm || s.steep.condPower then 0 else s.steep.clearRun + 1) &&
      cfg s 0x4011 3 ≤ ahead s.steep.k s.steep.lastChange then s.steep.stretch - 1
  else s.steep.stretch

theorem stretch_eq (s : State) : ∃ lc cr o ob, stretch s = { s with
    steep := { s.steep with stretch := stretchLevel s, lastChange := lc, clearRun := cr, condHbm := false,
                            condPower := false, oseq := o }
    obs := ob } := by
  unfold stretch
  extract_lets st cond clear passed n why s1
  split
  · exact ⟨_, _, _, _, rfl⟩
  · obtain ⟨o, ob, h⟩ := trace_eq 0x08 0xFF 0 (BitVec.ofNat 128 (n + 256 * why)) s1
    exact ⟨_, _, o, ob, h⟩

theorem takeContribution_eq (p : BitVec 512) (s : State) :
    ∃ m, takeContribution p s = { s with steep := { s.steep with master := m } } := by
  unfold takeContribution
  dsimp only
  split
  · exact ⟨_, rfl⟩
  · exact ⟨_, rfl⟩

/-- Contribution `p` goes to the masters `ms` but the module's own LDN `l`. -/
def sendToMasters (l : Nat) (p : BitVec 512) (ms : List (Nat × Nat)) (s : State) : State :=
  ms.foldl (fun s m => if m.2 = l then s else send (.ldn (BitVec.ofNat 10 m.2)) (.contribution p) s) s

theorem sendToMasters_eq (l : Nat) (p : BitVec 512) (ms : List (Nat × Nat)) (s : State) :
    ∃ out, sendToMasters l p ms s = { s with out := out } ∧ s.out ⊆ out ∧
      ∀ m ∈ ms, m.2 ≠ l → Out.packet (.ldn (BitVec.ofNat 10 m.2)) (.contribution p) ∈ out := by
  unfold sendToMasters
  induction ms generalizing s with
  | nil => exact ⟨_, rfl, List.Subset.refl _, fun m hm => absurd hm List.not_mem_nil⟩
  | cons m ms ih =>
    rw [List.foldl_cons]
    split
    next hl =>
      obtain ⟨out, h, hsub, hin⟩ := ih s
      refine ⟨out, h, hsub, fun m' hm hne => ?_⟩
      rcases List.mem_cons.mp hm with rfl | hm
      · exact (hne hl).elim
      · exact hin m' hm hne
    next hl =>
      obtain ⟨out, h, hsub, hin⟩ := ih (send (.ldn (BitVec.ofNat 10 m.2)) (.contribution p) s)
      refine ⟨out, h, fun x hx => hsub (List.mem_append_left _ hx), fun m' hm hne => ?_⟩
      rcases List.mem_cons.mp hm with rfl | hm
      · exact hsub (List.mem_append_right _ (List.mem_singleton_self _))
      · exact hin m' hm hne

/-- The contribution of the present steep to its masters. -/
def contributionOf (why l : Nat) (s : State) : BitVec 512 :=
  contributionPacket s.steep.k l (min (cfg s 0x4010 1 + s.steep.stretch * cfg s 0x4011 1) 4000) (!s.steep.bad) s.steep.fail
    why s.steep.stretch s.time

/-- The state in which the contribution has been sent, before a master takes its own. -/
def contributed (why l : Nat) (s : State) : State :=
  sendToMasters l (contributionOf why l s) (masterLdns s)
    { s with steep := { s.steep with fail := 0, over401 := s.steep.over401 || bit s.steep.fail 5 } }

theorem contribute_of_ldn (why : Nat) {l : Nat} {s : State} (hl : ownLdn s = some l) : contribute why s =
    if (ownRank (contributed why l s)).isSome then takeContribution (contributionOf why l s) (contributed why l s)
    else contributed why l s := by
  unfold contribute
  rw [hl]
  rfl

theorem contribute_eq (why : Nat) (s : State) : ∃ fail o m out,
    contribute why s = { s with steep := { s.steep with fail := fail, over401 := o, master := m }, out := out } ∧
      ∀ l, ownLdn s = some l → fail = 0 ∧ ∀ m ∈ masterLdns s, m.2 ≠ l →
        Out.packet (.ldn (BitVec.ofNat 10 m.2)) (.contribution (contributionOf why l s)) ∈ out := by
  cases hl : ownLdn s with
  | none =>
    unfold contribute
    rw [hl]
    exact ⟨_, _, _, _, rfl, fun l h => nomatch h⟩
  | some l =>
    obtain ⟨out, h, -, hin⟩ := sendToMasters_eq l (contributionOf why l s) (masterLdns s)
      { s with steep := { s.steep with fail := 0, over401 := s.steep.over401 || bit s.steep.fail 5 } }
    have hc : contributed why l s = _ := h
    obtain ⟨m, hm⟩ := takeContribution_eq (contributionOf why l s) (contributed why l s)
    rw [contribute_of_ldn why hl, hm, hc]
    split
    · exact ⟨_, _, _, _, rfl, fun l' h => Option.some.inj h ▸ ⟨rfl, hin⟩⟩
    · exact ⟨_, _, _, _, rfl, fun l' h => Option.some.inj h ▸ ⟨rfl, hin⟩⟩

/-! ### The wave point -/

/-- What a wave point finds before it contributes: in a commit steep the ops of training programs have overrun, every owned
shard is kept or fails, and a gap in the slot claims fails the step. -/
def waveReached (s : State) : State :=
  if isLocked s then
    if isCommitSteep s then
      let s := failUnkept (overrunCores (fun k => isTrain k.binding) s)
      if s.ad.ahead.isEmpty then s else failStep 1 s
    else s
  else s

theorem waveReached_of_plain {s : State} (h : s.steep.engine = .locked → isCommitSteep s = false) :
    waveReached s = s := by
  unfold waveReached
  split
  next hl => rw [h (by simpa [isLocked] using hl)]; rfl
  next => rfl

theorem Lasts.waveReached {bad en s} (h : Lasts false bad en s) : Lasts false bad en (waveReached s) := by
  have hv : Lasts false bad en (Machine.failUnkept (Machine.overrunCores (fun k => isTrain k.binding) s)) :=
    .failUnkept (.overrunCores h)
  exact .ite (.ite (.ite hv (.failStep hv)) h) h

/-- What a wave point does then: the stretch level, and a Locked module's contribution. -/
def wavePassed (why : Nat) (s : State) : State :=
  let t := if isLocked (stretch s) then contribute why (stretch s) else stretch s
  { t with steep := { t.steep with waved := true } }

theorem exec_wavePoint {s : State} (hb : boundariesKnown s = true) (hw : s.steep.waved = false) :
    exec .wavePoint s = .next (wavePassed (stretchWhy s) (waveReached (untilTime (waveTime s) s))) :=
  congrArg Host.Outcome.next (if_pos (by rw [hb, hw]; rfl))

theorem wavePassed_eq (why : Nat) (s : State) : ∃ lc cr o ob fail ov m out, wavePassed why s = { s with
      steep := { s.steep with
        stretch := stretchLevel s, lastChange := lc, clearRun := cr, condHbm := false, condPower := false, oseq := o,
        fail := fail, over401 := ov, master := m, waved := true }
      obs := ob, out := out } ∧
    (s.steep.engine = .locked → ∀ l, ownLdn s = some l → fail = 0 ∧ ∀ m ∈ masterLdns s, m.2 ≠ l →
      Out.packet (.ldn (BitVec.ofNat 10 m.2)) (.contribution (contributionPacket s.steep.k l
        (min (cfg s 0x4010 1 + stretchLevel s * cfg s 0x4011 1) 4000) (!s.steep.bad) s.steep.fail why (stretchLevel s)
        s.time)) ∈ out) := by
  obtain ⟨lc, cr, o, ob, h⟩ := stretch_eq s
  obtain ⟨fail, ov, m, out, hc, hin⟩ := contribute_eq why (stretch s)
  have hlock : isLocked (stretch s) = isLocked s := by rw [h]; rfl
  unfold wavePassed
  cases hl : isLocked s with
  | true =>
    rw [if_pos (hlock.trans hl), hc]
    rw [h] at hin ⊢
    exact ⟨lc, cr, o, ob, fail, ov, m, out, rfl, fun _ => hin⟩
  | false =>
    rw [if_neg (by rw [hlock, hl]; decide), h]
    refine ⟨lc, cr, o, ob, _, _, _, _, rfl, fun he => ?_⟩
    rw [isLocked, he] at hl
    exact absurd hl (by decide)

theorem stretchLevel_of_lasting {full : Bool} {u v : State} (h : lastingOf full v = lastingOf full u) :
    stretchLevel v = stretchLevel u := by
  have hd : v.dict = u.dict := congrArg Lasting.dict h
  have h1 : v.steep.condHbm = u.steep.condHbm := congrArg (·.steep.condHbm) h
  have h2 : v.steep.condPower = u.steep.condPower := congrArg (·.steep.condPower) h
  have h3 : v.steep.stretch = u.steep.stretch := congrArg (·.steep.stretch) h
  have h4 : v.steep.clearRun = u.steep.clearRun := congrArg (·.steep.clearRun) h
  have h5 : v.steep.k = u.steep.k := congrArg (·.steep.k) h
  have h6 : v.steep.lastChange = u.steep.lastChange := congrArg (·.steep.lastChange) h
  unfold stretchLevel cfg
  rw [h1, h2, h3, h4, h5, h6, hd]

theorem ownLdn_of_lasting {full : Bool} {u v : State} (h : lastingOf full v = lastingOf full u) :
    ownLdn v = ownLdn u := by
  have hd : v.dict = u.dict := congrArg Lasting.dict h
  have hs : v.fab.sna = u.fab.sna := congrArg Lasting.sna h
  unfold ownLdn mappedLdns
  rw [hd, hs]

theorem cfg_of_lasting {full : Bool} {u v : State} (h : lastingOf full v = lastingOf full u) : cfg v = cfg u := by
  have hd : v.dict = u.dict := congrArg Lasting.dict h
  unfold cfg
  rw [hd]

theorem masterLdns_of_lasting {full : Bool} {u v : State} (h : lastingOf full v = lastingOf full u) :
    masterLdns v = masterLdns u := by
  unfold masterLdns
  rw [cfg_of_lasting h]

theorem wavePoint_contributes {s : State} (hb : boundariesKnown s = true) (hw : s.steep.waved = false) :
    ∃ t, exec .wavePoint s = .next t ∧ t.steep.waved = true ∧
      ((s.steep.engine = .locked → isCommitSteep s = false) → t.time = waited s (nextB s - 32000) ∧ Quiet s t) ∧
      t.steep.stretch = stretchLevel s ∧
      (s.steep.engine = .locked → ∀ l, ownLdn s = some l → t.steep.fail = 0 ∧ ∃ (good : Bool) (fail : BitVec 6),
        (s.steep.bad = true → good = false) ∧
        (isCommitSteep s = false → good = !s.steep.bad ∧ fail = s.steep.fail) ∧ ∀ m ∈ masterLdns s, m.2 ≠ l →
          Out.packet (.ldn (BitVec.ofNat 10 m.2)) (.contribution (contributionPacket s.steep.k l
            (min (cfg s 0x4010 1 + t.steep.stretch * cfg s 0x4011 1) 4000) good fail
            (stretchWhy s) t.steep.stretch t.time)) ∈ t.out) := by
  refine ⟨_, exec_wavePoint hb hw, ?_⟩
  obtain ⟨u, hu⟩ : ∃ u, u = untilTime (waveTime s) s := ⟨_, rfl⟩
  obtain ⟨hx, hbad⟩ := Lasts.waveReached (bad := u.steep.bad) (en := lastingOf false u) (s := u) ⟨rfl, id⟩
  have hplain := waveReached_of_plain (s := u)
  rw [← hu]
  generalize waveReached u = x at hx hbad hplain ⊢
  obtain ⟨lc, cr, o, ob, fail, ov, m, out, h, hin⟩ := wavePassed_eq (stretchWhy s) x
  rw [h]
  have he : x.steep.engine = u.steep.engine := congrArg (·.steep.engine) hx
  have hk : x.steep.k = u.steep.k := congrArg (·.steep.k) hx
  rw [he, hk, stretchLevel_of_lasting hx, ownLdn_of_lasting hx, masterLdns_of_lasting hx, cfg_of_lasting hx] at hin
  have hlevel : stretchLevel u = stretchLevel s := hu ▸ rfl
  refine ⟨rfl, fun hp => ?_, (stretchLevel_of_lasting hx).trans hlevel, fun hl l hown => ?_⟩
  · have hxu : x = u := hplain (hu ▸ hp)
    subst hxu
    exact ⟨hu ▸ untilTime_waits .., (hu ▸ untilTime_quiet .. : Quiet s x).trans ⟨rfl, rfl, rfl, rfl, rfl, rfl, rfl⟩⟩
  · have hbs : u.steep.bad = s.steep.bad := hu ▸ rfl
    obtain ⟨hfail, hout⟩ := hin (hu ▸ hl) l (hu ▸ hown)
    refine ⟨hfail, !x.steep.bad, x.steep.fail, fun hb => ?_, fun hc => ?_, fun m hm hne => ?_⟩
    · rw [hbad (hbs.trans hb)]
      rfl
    · rw [hplain (fun _ => hu ▸ hc), hu]
      exact ⟨rfl, rfl⟩
    · rw [stretchLevel_of_lasting hx]
      subst hu
      exact hout m hm hne

end Sys2Proof.Machine
end

section
/-! O8. The guard. -/

namespace Sys2Proof.Machine

/-! ### A core with nothing that runs -/

theorem sget_sput_ne {α : Type} [DecidableEq α] (d : α) {k i : Nat} {v : α} (hv : v ≠ d) (hi : i ≠ k) (m : Sparse α) :
    sget d i (sput d k v m) = sget d i m := by
  induction m with
  | nil => simp [sput, sget, hv, hi]
  | cons e m ih =>
    obtain ⟨j, w⟩ := e
    unfold sput
    split
    next hk =>
      subst hk
      simp [sget, hi]
    next hk =>
      split
      next hlt =>
        by_cases hik : i < k
        · have hij : i < j := hik.trans hlt
          simp [sget, hi, hik, hij, hij.ne]
        · simp [sget, hi, hik]
      next => simp [sget, ih]

/-- No op, pour or rank run of core `g` runs. -/
def Idles (s : State) (g : Nat) : Prop :=
  (coreOf s g).running = [] ∧ (coreOf s g).pour = none ∧ (coreOf s g).rankRun = none

section
variable {s : State} {g : Nat} (h : Idles s g)
include h

theorem advanceCore_of_idle : advanceCore g s = s := by
  obtain ⟨-, hp, hr⟩ := h
  have hrank (n : Nat) : advanceRank g n s = s := by
    cases n with
    | zero => rfl
    | succ n =>
      unfold advanceRank
      rw [hr]
  have hpour (n : Nat) : advancePour g n s = s := by
    cases n with
    | zero => rfl
    | succ n =>
      unfold advancePour
      rw [hp]
  unfold advanceCore
  rw [hrank, hpour]

theorem drainedPour_of_idle : drainedPour s g = none := by
  unfold drainedPour
  rw [advanceCore_of_idle h]
  obtain ⟨-, hp, -⟩ := h
  dsimp only
  rw [hp]

theorem settleOps_of_idle : settleOps g s = s := by
  have hre : recomputePour g s = s := by
    unfold recomputePour
    rw [drainedPour_of_idle h]
    exact advanceCore_of_idle h
  have hco : completePour g s = s := by
    unfold completePour
    rw [drainedPour_of_idle h]
    exact advanceCore_of_idle h
  obtain ⟨hr, -⟩ := h
  unfold settleOps
  rw [hre, hco]
  dsimp only
  rw [hr]
  rfl

end

/-! ### An overrun -/

/-- A core whose ops have been aborted. -/
def cutShort (k : Core) : Core := { k with aborted := true, running := [], rankRun := none, pour := none, queues := [] }

theorem cutShort_ne (k : Core) : cutShort k ≠ {} := fun h => absurd (congrArg Core.aborted h) Bool.noConfusion

/-- State `v` follows `s` where the ops of core `g` have been aborted and the overrun counted. -/
def CutShort (g : Nat) (s v : State) : Prop :=
  v = { setCore s g (cutShort (coreOf s g)) with
    steep := { s.steep with overruns := s.steep.overruns + 1, oseq := v.steep.oseq }, obs := v.obs }

theorem overrun_eq (g : Nat) (s : State) : ∃ v, CutShort g s v ∧ overrun g s =
    if isTrain (coreOf s g).binding then failStep 5 v
    else match (coreOf s g).faulted with
      | some c => failServing g (faultStatus c.toNat) c.toNat v
      | none => failServing g stOverrun 0 v := by
  unfold overrun
  extract_lets _ o s1 _ s2 s3
  refine ⟨s3, ?_, rfl⟩
  obtain ⟨oq, ob, h⟩ := trace_eq 0x04 g (coreOwnerD s2 g) (BitVec.ofNat 128 (o.1 + 2 ^ 32 * o.2.toNat)) (count g 0x052 1 s2)
  have h3 : s3 = _ := h
  unfold CutShort
  rw [h3]
  rfl

/-- A step of `overrunCores`. -/
def overrunStep (f : Core → Bool) (s : State) (g : Nat) : State :=
  if !f (coreOf s g) || (coreOf s g).aborted then s
  else
    let s := settleOps g s
    if unfinished (coreOf s g) then overrun g s else s

/-- Core `g` has ended its program, and nothing of it runs. -/
def Ended (s : State) (g : Nat) : Prop := unfinished (coreOf s g) = false ∧ Idles s g

theorem overrunStep_of_ended {f s g} (h : Ended s g) : overrunStep f s g = s := by
  obtain ⟨hu, hi⟩ := h
  unfold overrunStep
  rw [settleOps_of_idle hi]
  dsimp only
  rw [hu, if_neg Bool.false_ne_true, ite_self]

theorem overrunStep_of_unfinished {f s g} (hf : f (coreOf s g) = true) (ha : (coreOf s g).aborted = false)
    (hu : unfinished (coreOf s g) = true) (hi : Idles s g) : overrunStep f s g = overrun g s := by
  unfold overrunStep
  rw [settleOps_of_idle hi, hf, ha]
  dsimp only
  rw [hu]
  rfl

theorem foldl_overrunStep_of_ended {f : Core → Bool} {s : State} {l : List Nat} (h : ∀ i ∈ l, Ended s i) :
    l.foldl (overrunStep f) s = s := by
  induction l with
  | nil => rfl
  | cons i l ih =>
    rw [List.foldl_cons, overrunStep_of_ended (h i (List.mem_cons_self ..))]
    exact ih fun j hj => h j (List.mem_cons_of_mem _ hj)

theorem overrunCores_eq (f : Core → Bool) (s : State) :
    overrunCores f s = (List.range 128).foldl (overrunStep f) s := rfl

theorem overrunCores_of_ended {f s} (h : ∀ i < 128, Ended s i) : overrunCores f s = s :=
  foldl_overrunStep_of_ended fun i hi => h i (List.mem_range.mp hi)

section
variable {g : Nat} {s v : State} (h : CutShort g s v)
include h

theorem CutShort.core : coreOf v g = cutShort (coreOf s g) := by
  unfold CutShort at h
  rw [h]
  exact sget_sput_self ({} : Core) g _ (cutShort_ne _) _

theorem CutShort.others {i : Nat} (hi : i ≠ g) : coreOf v i = coreOf s i := by
  unfold CutShort at h
  rw [h]
  exact sget_sput_ne ({} : Core) (cutShort_ne _) hi _

theorem CutShort.steepGroups : steepGroups v g = steepGroups s g := by
  have hc := h.core
  unfold CutShort at h
  have himage : (coreOf v g).image = (coreOf s g).image := (congrArg Core.image hc :)
  have hbinding : (coreOf v g).binding = (coreOf s g).binding := (congrArg Core.binding hc :)
  have hpaired : (coreOf v g).paired = (coreOf s g).paired := (congrArg Core.paired hc :)
  have hmem : v.mem = s.mem := (congrArg State.mem h :)
  have hk : v.steep.k = s.steep.k := (congrArg (·.steep.k) h :)
  have hsidx : v.steep.sidx = s.steep.sidx := (congrArg (·.steep.sidx) h :)
  unfold Machine.steepGroups coreGroups entryNow namedGroups kvCtlAt slotCtlAt dirEntry headerAt memWord
  rw [himage, hbinding, hpaired, hmem, hk, hsidx]

theorem CutShort.dict : v.dict = s.dict := by
  unfold CutShort at h
  rw [h]
  rfl

/-- An open request of the core's steep is among those that `failServing` ends. -/
theorem failServing_ends {status detail : Nat} {r : Request} (hr : r ∈ s.ad.requests)
    (hpart : some r.part.toNat = coreOwner s g) (hsteep : r.steep = some s.steep.k)
    (hgrp : (Machine.steepGroups s g).contains r.grp.toNat = true) (hserve : isStepGroup s r.part.toNat r.grp.toNat = false) :
    { r with ending := some (r.ending.getD (BitVec.ofNat 8 status, BitVec.ofNat 8 detail)) } ∈
      (failServing g status detail v).ad.requests := by
  have hg := h.steepGroups
  have hd := h.dict
  unfold CutShort at h
  have hreq : v.ad.requests = s.ad.requests := (congrArg (·.ad.requests) h :)
  have hk : v.steep.k = s.steep.k := (congrArg (·.steep.k) h :)
  have howner : coreOwner v g = coreOwner s g := by
    unfold coreOwner holdsCore partEnabled cfg
    rw [hd]
  have hstep : isStepGroup v r.part.toNat r.grp.toNat = false := by
    unfold isStepGroup cfg at hserve ⊢
    rw [hd]
    exact hserve
  unfold failServing
  refine List.mem_map.mpr ⟨r, hreq ▸ hr, if_pos ?_⟩
  rw [hg, howner, hk]
  dsimp only
  rw [hgrp, hstep, ← hpart, hsteep]
  simp

end

/-- What an overrun of core `g` keeps, and what it does. -/
theorem overrun_keeps (g : Nat) (s : State) :
    coreOf (overrun g s) g = cutShort (coreOf s g) ∧ (∀ i, i ≠ g → coreOf (overrun g s) i = coreOf s i) ∧
      Quiet s (overrun g s) ∧ (overrun g s).time = s.time ∧ (overrun g s).steep.overruns = s.steep.overruns + 1 := by
  obtain ⟨v, hv, h⟩ := overrun_eq g s
  have hc := hv.core
  have ho (i : Nat) (hi : i ≠ g) : coreOf v i = coreOf s i := hv.others hi
  unfold CutShort at hv
  have hq : Quiet s v := by rw [hv]; exact ⟨rfl, rfl, rfl, rfl, rfl, rfl, rfl⟩
  have ht : v.time = s.time := (congrArg State.time hv :)
  have hn : v.steep.overruns = s.steep.overruns + 1 := (congrArg (·.steep.overruns) hv :)
  have hall {t : State} (hp : t = { v with ad := t.ad, steep := { v.steep with fail := t.steep.fail, bad := t.steep.bad } }) :
      coreOf t g = cutShort (coreOf s g) ∧ (∀ i, i ≠ g → coreOf t i = coreOf s i) ∧ Quiet s t ∧ t.time = s.time ∧
        t.steep.overruns = s.steep.overruns + 1 := by
    rw [hp]
    exact ⟨hc, ho, hq.trans ⟨rfl, rfl, rfl, rfl, rfl, rfl, rfl⟩, ht, hn⟩
  rw [h]
  split
  · exact hall rfl
  · split
    · exact hall rfl
    · exact hall rfl

theorem overrun_of_train {g : Nat} {s : State} (h : isTrain (coreOf s g).binding = true) :
    (overrun g s).steep.fail = setBit s.steep.fail 5 true ∧ (overrun g s).steep.bad = true ∧ (overrun g s).ad = s.ad := by
  obtain ⟨v, hv, ho⟩ := overrun_eq g s
  unfold CutShort at hv
  rw [ho, if_pos h, hv]
  exact ⟨rfl, rfl, rfl⟩

theorem overrun_of_serve {g : Nat} {s : State} (h : isTrain (coreOf s g).binding = false) :
    (overrun g s).steep.fail = s.steep.fail ∧ (overrun g s).steep.bad = s.steep.bad ∧
      ((coreOf s g).faulted = none → ∀ r ∈ s.ad.requests, some r.part.toNat = coreOwner s g →
        r.steep = some s.steep.k → (steepGroups s g).contains r.grp.toNat = true →
        isStepGroup s r.part.toNat r.grp.toNat = false →
        { r with ending := some (r.ending.getD (BitVec.ofNat 8 stOverrun, 0)) } ∈ (overrun g s).ad.requests) := by
  obtain ⟨v, hv, ho⟩ := overrun_eq g s
  rw [if_neg (by rw [h]; decide)] at ho
  have hmarks : v.steep.fail = s.steep.fail ∧ v.steep.bad = s.steep.bad := by
    unfold CutShort at hv
    rw [hv]
    exact ⟨rfl, rfl⟩
  obtain ⟨hfail, hbad⟩ := hmarks
  rw [ho]
  cases hf : (coreOf s g).faulted with
  | some c => exact ⟨hfail, hbad, fun hn => nomatch hn⟩
  | none => exact ⟨hfail, hbad, fun _ r hr hp hk hg hs => failServing_ends hv hr hp hk hg hs⟩

theorem overrunCores_of_one {s : State} {g : Nat} (hg : g < 128) (hu : unfinished (coreOf s g) = true)
    (ha : (coreOf s g).aborted = false) (hi : ∀ i < 128, Idles s i)
    (hn : ∀ i < 128, i ≠ g → unfinished (coreOf s i) = false) : overrunCores (fun _ => true) s = overrun g s := by
  rw [overrunCores_eq]
  obtain ⟨l, r, hl⟩ := List.append_of_mem (List.mem_range.mpr hg)
  have hnot : g ∉ l ++ r := (List.nodup_cons.mp (List.nodup_middle.mp (hl ▸ List.nodup_range))).1
  have hended (i : Nat) (hi' : i ∈ l ++ r) : i ≠ g ∧ Ended s i := by
    have hne : i ≠ g := fun h => hnot (h ▸ hi')
    have hin : i ∈ List.range 128 := by
      rw [hl]
      simp only [List.mem_append, List.mem_cons] at hi' ⊢
      tauto
    have hlt := List.mem_range.mp hin
    exact ⟨hne, hn i hlt hne, hi i hlt⟩
  obtain ⟨-, hothers, -⟩ := overrun_keeps g s
  rw [hl, List.foldl_append, List.foldl_cons,
    foldl_overrunStep_of_ended fun i hi' => (hended i (List.mem_append_left _ hi')).2,
    overrunStep_of_unfinished rfl ha hu (hi g hg)]
  refine foldl_overrunStep_of_ended fun i hi' => ?_
  obtain ⟨hne, he⟩ := hended i (List.mem_append_right _ hi')
  unfold Ended Idles at he ⊢
  rwa [hothers i hne]

/-! ### The guard -/

theorem exec_guardStart {s : State} (hb : boundariesKnown s = true) (hg : s.steep.guard = false) : ∃ u t,
    u = untilTime (guardTime s) s ∧ t = (if isLocked s then overrunCores (fun _ => true) u else u) ∧
      exec .guardStart s = .next { t with steep := { t.steep with guard := true } } :=
  ⟨_, _, rfl, rfl, congrArg Host.Outcome.next (if_pos (by rw [hb, hg]; rfl))⟩

theorem guardStart_of_ended {s : State} (hb : boundariesKnown s = true) (hg : s.steep.guard = false)
    (h : s.steep.engine = .locked → ∀ g < 128, Ended s g) :
    ∃ t, exec .guardStart s = .next t ∧ t.steep.guard = true ∧ t.time = waited s (nextB s - 4000) ∧
      t = { s with clock := t.clock, time := t.time, slew := t.slew, obs := t.obs,
                   steep := { s.steep with guard := true } } := by
  obtain ⟨u, t, hu, ht, hx⟩ := exec_guardStart hb hg
  have htu : t = u := by
    rw [ht]
    split
    next hl => exact overrunCores_of_ended (hu ▸ h (by simpa [isLocked] using hl))
    next => rfl
  have htime : u.time = waited s (nextB s - 4000) := hu ▸ untilTime_waits ..
  subst htu
  subst hu
  exact ⟨_, hx, rfl, htime, rfl⟩

theorem guardStart_overruns {s : State} {g : Nat} (he : s.steep.engine = .locked) (hguard : s.steep.guard = false)
    (hg : g < 128) (hu : unfinished (coreOf s g) = true) (ha : (coreOf s g).aborted = false)
    (hi : ∀ i < 128, (coreOf s i).running = [] ∧ (coreOf s i).pour = none ∧ (coreOf s i).rankRun = none ∧
      (i ≠ g → unfinished (coreOf s i) = false)) :
    ∃ t, exec .guardStart s = .next t ∧ t.steep.guard = true ∧ t.time = waited s (nextB s - 4000) ∧ Quiet s t ∧
      (coreOf t g).aborted = true ∧ (coreOf t g).queues = [] ∧ t.steep.overruns = s.steep.overruns + 1 ∧
      (∀ i, i ≠ g → coreOf t i = coreOf s i) ∧
      (isTrain (coreOf s g).binding = true → t.steep.fail = setBit s.steep.fail 5 true ∧ t.steep.bad = true ∧
        t.ad = s.ad) ∧
      (isTrain (coreOf s g).binding = false → t.steep.fail = s.steep.fail ∧ t.steep.bad = s.steep.bad ∧
        ((coreOf s g).faulted = none → ∀ r ∈ s.ad.requests, some r.part.toNat = coreOwner s g →
          r.steep = some s.steep.k → (steepGroups s g).contains r.grp.toNat = true →
          isStepGroup s r.part.toNat r.grp.toNat = false →
          { r with ending := some (r.ending.getD (BitVec.ofNat 8 stOverrun, 0)) } ∈ t.ad.requests)) := by
  have hb : boundariesKnown s = true := by unfold boundariesKnown; rw [he]
  obtain ⟨u, t, hu', ht, hx⟩ := exec_guardStart hb hguard
  have hidle (i : Nat) (hlt : i < 128) : Idles s i ∧ (i ≠ g → unfinished (coreOf s i) = false) := by
    obtain ⟨hrun, hpour, hrank, hend⟩ := hi i hlt
    exact ⟨⟨hrun, hpour, hrank⟩, hend⟩
  rw [if_pos (by rw [isLocked, he]; rfl), hu', overrunCores_of_one (s := untilTime (guardTime s) s) hg hu ha
    (fun i hlt => (hidle i hlt).1) (fun i hlt => (hidle i hlt).2)] at ht
  obtain ⟨hcore, hothers, hq, htime, hover⟩ := overrun_keeps g (untilTime (guardTime s) s)
  have htrain := overrun_of_train (g := g) (s := untilTime (guardTime s) s)
  have hserve := overrun_of_serve (g := g) (s := untilTime (guardTime s) s)
  rw [← ht] at hcore hothers hq htime hover htrain hserve
  refine ⟨_, hx, rfl, htime.trans (untilTime_waits ..), (untilTime_quiet ..).trans (hq.trans ⟨rfl, rfl, rfl, rfl, rfl, rfl, rfl⟩),
    ?_, ?_, hover, hothers, htrain, hserve⟩
  · exact (congrArg Core.aborted hcore :)
  · exact (congrArg Core.queues hcore :)

/-- Settles O8: WAVE_POINT by its two stages, GUARD_START by the overrun of the one core that is left. -/
theorem wavePointContributesAndStretches : Obligations.WavePointContributesAndStretches := by
  unfold Obligations.WavePointContributesAndStretches
  exact ⟨fun s => wavePoint_contributes, fun s => guardStart_of_ended, fun s g => guardStart_overruns⟩

end Sys2Proof.Machine
end

section
/-! O14 and O16. An op that starts on a core: what its start writes, and what it reads. -/

namespace Sys2Proof.Machine

/-! ### One core -/

theorem Canon.keysRise_cores {s : State} (h : Canon s) : keysRise s.prog.cores :=
  ((sparseWf_iff _ _).mp h.cores).1

theorem coreOf_updCore_self {s : State} (h : Canon s) (g : Nat) (f : Core → Core) :
    coreOf (updCore g f s) g = f (coreOf s g) :=
  sget_sput_same _ _ _ _ h.keysRise_cores

theorem coreOf_updCore_other {s : State} (h : Canon s) (g : Nat) (f : Core → Core) {i : Nat} (hi : i ≠ g) :
    coreOf (updCore g f s) i = coreOf s i :=
  sget_sput_other _ _ _ _ _ h.keysRise_cores hi

/-- Between `t` and `u` only the observation unit and the originator sequence numbers differ. -/
def Noted (t u : State) : Prop := u = { t with obs := u.obs, steep := { t.steep with oseq := u.steep.oseq } }

theorem Noted.trans {t u v : State} (h : Noted t u) (h' : Noted u v) : Noted t v := by
  unfold Noted at h h' ⊢
  rw [h', h]

theorem Noted.mem {t u : State} (h : Noted t u) : u.mem = t.mem := (congrArg State.mem h :)

theorem count_noted (b ev n : Nat) (s : State) : Noted s (count b ev n s) := rfl

theorem trace_noted (ty b p : Nat) (d : BitVec 128) (s : State) : Noted s (trace ty b p d s) := by
  obtain ⟨o, ob, h⟩ := trace_eq ty b p d s
  unfold Noted
  rw [h]

theorem numericEvent_noted (c b u o p : Nat) (a : BitVec 24) (s : State) : Noted s (numericEvent c b u o p a s) := by
  unfold numericEvent
  dsimp only
  split
  · rfl
  · exact Noted.trans (by rfl) (trace_noted ..)

theorem foldl_noted {α : Type} {f : State → α → State} (hf : ∀ s x, Noted s (f s x)) (l : List α) (s : State) :
    Noted s (l.foldl f s) := by
  induction l generalizing s with
  | nil => rfl
  | cons x l ih => exact (hf s x).trans (ih _)

theorem opEvents_noted (g lane : Nat) (index : BitVec 16) (classes : List Nat) (s : State) :
    Noted s (opEvents g lane index classes s) := by
  refine foldl_noted (fun s c => ?_) _ s
  split
  · exact numericEvent_noted ..
  · rfl

theorem CoreFrame.trans {s t u : State} {g : Nat} (h : CoreFrame s t g) (h' : CoreFrame t u g) : CoreFrame s u g := by
  obtain ⟨ht, hi⟩ := h
  obtain ⟨hu, hi'⟩ := h'
  refine ⟨?_, fun i hne => (hi' i hne).trans (hi i hne)⟩
  rw [hu, ht]

theorem Noted.coreOf {t u : State} (h : Noted t u) (i : Nat) : coreOf u i = coreOf t i :=
  (congrArg (fun v => Machine.coreOf v i) (show u = _ from h) :)

/-- A started op that ends at a clock and awaits a number of answers. -/
def opRun (q : QOp) (stop awaiting : Nat) : RunOp :=
  { word := q.word, index := q.index, stream := q.stream, endAt := stop, awaiting := awaiting }

/-- State `t` is canonical and follows `s` as an op on core `g` leaves it: with memory `m`, core `g` in state `k`, and
beside them nothing but what is observed changed. -/
structure OnCore (s t : State) (g : Nat) (m : Mem) (k : Core) : Prop where
  canon : Canon t
  frame : CoreFrame s t g
  mem : t.mem = m
  core : coreOf t g = k

namespace OnCore

theorem refl {s : State} (h : Canon s) (g : Nat) : OnCore s s g s.mem (coreOf s g) :=
  ⟨h, ⟨rfl, fun _ _ => rfl⟩, rfl, rfl⟩

variable {s t u : State} {g : Nat} {m : Mem} {k : Core} (h : OnCore s t g m k)
include h

theorem clock : t.clock = s.clock := (congrArg State.clock h.frame.1 :)

theorem noted (hu : Noted t u) : OnCore s u g m k := by
  obtain ⟨hc, hf, hm, hk⟩ := h
  refine ⟨?_, hf.trans ⟨?_, fun i _ => hu.coreOf i⟩, hu.mem.trans hm, (hu.coreOf g).trans hk⟩
  · unfold Noted at hu
    rw [hu]
    exact .frame hc
  · unfold Noted at hu
    rw [hu]

theorem count (b ev n : Nat) : OnCore s (count b ev n t) g m k := h.noted (count_noted ..)

theorem opEvents (lane : Nat) (index : BitVec 16) (classes : List Nat) :
    OnCore s (opEvents g lane index classes t) g m k :=
  h.noted (opEvents_noted ..)

theorem updCore (f : Core → Core) : OnCore s (updCore g f t) g m (f k) := by
  obtain ⟨hc, hf, hm, hk⟩ := h
  exact ⟨hc.updCore, hf.trans ⟨rfl, fun _ hi => coreOf_updCore_other hc g f hi⟩, hm,
    hk ▸ coreOf_updCore_self hc g f⟩

theorem updCore_of_eq {f : Core → Core} {k' : Core} (hk : f k = k') : OnCore s (Machine.updCore g f t) g m k' :=
  hk ▸ h.updCore f

theorem runFor (q : QOp) (dur n : Nat) : 
    OnCore s (runFor g q dur n t) g m { k with running := k.running ++ [opRun q (s.clock + dur) n] } := by
  rw [← h.clock]
  exact h.updCore _

theorem running {q : QOp} {stop n : Nat} (hr : opRun q stop n ∈ k.running) : Running t g q stop n := by
  obtain ⟨-, -, -, rfl⟩ := h
  exact ⟨_, hr, rfl, rfl, rfl, rfl, rfl⟩

end OnCore

/-! ### The start -/

theorem takeCredits_eq (w : BitVec 128) (k : Core) : ∃ c, takeCredits w k = { k with credits := c } := by
  unfold takeCredits
  generalize waitsOf w = l
  induction l generalizing k with
  | nil => exact ⟨_, rfl⟩
  | cons e l ih =>
    rw [List.foldl_cons]
    split
    · exact ih k
    · exact ih (takeCredit e.1 e.2 k)

/-- Core `k'` is core `k` once an op has left its queue: only credits, queues and the words with an ECC error may
differ. -/
def TakenFrom (k k' : Core) : Prop :=
  k' = { k with credits := k'.credits, queues := k'.queues, lastStart := k'.lastStart, leaving := k'.leaving,
                upsets := k'.upsets }

theorem started_onCore {s : State} (h : Canon s) (g : Nat) (q : QOp) :
    ∃ k, OnCore s (started g q s) g s.mem k ∧ TakenFrom (coreOf s g) k ∧ k.upsets = (coreOf s g).upsets := by
  unfold started takeOp
  extract_lets u s1
  have h1 : OnCore s s1 g s.mem _ := (OnCore.refl h g).updCore _
  have hu : Noted s1 (if u = 4 then count g 0x057 1 s1 else s1) := by
    split <;> rfl
  obtain ⟨c, hc⟩ := takeCredits_eq q.word { coreOf s g with
    queues := supd [] u (fun l => l.erase q) (coreOf s g).queues, lastStart := sput false u q.stream (coreOf s g).lastStart,
    leaving := (u, q.stream, s.clock) :: (coreOf s g).leaving.filter fun x => x.2.2 = s.clock }
  rw [hc] at h1
  exact ⟨_, (h1.noted hu).count .., rfl, rfl⟩

theorem correctReads_onCore {s t : State} {g : Nat} {m : Mem} {k : Core} (h : OnCore s t g m k) (rs : List MemRange) :
    ∃ u, OnCore s (correctReads g rs t) g m { k with upsets := u } := by
  unfold correctReads
  extract_lets hit n
  split
  · exact ⟨k.upsets, h⟩
  · exact ⟨_, (h.updCore _).count ..⟩

theorem correctReads_of_clean {s : State} {g : Nat} (h : (coreOf s g).upsets = []) (rs : List MemRange) :
    correctReads g rs s = s := by
  unfold correctReads
  rw [h]
  rfl

theorem startedReading_onCore {s : State} (h : Canon s) (g : Nat) (q : QOp) (rs : List MemRange) :
    ∃ k, OnCore s (startedReading g q rs s) g s.mem k ∧ TakenFrom (coreOf s g) k := by
  obtain ⟨k, hk, htaken, -⟩ := started_onCore h g q
  obtain ⟨u, hu⟩ := correctReads_onCore hk rs
  refine ⟨_, hu, ?_⟩
  unfold TakenFrom at htaken ⊢
  rw [htaken]

theorem readFails_started {s : State} (h : Canon s) (g : Nat) (q : QOp) (rs : List MemRange) :
    readFails (started g q s) g rs = readFails s g rs := by
  obtain ⟨k, hk, -, hu⟩ := started_onCore h g q
  unfold readFails
  rw [hk.core, hu]

theorem withReadsOf_of_good {s : State} {g : Nat} {rs : List MemRange} (h : readFails s g rs = false) (q : QOp)
    (f : State → State) : withReadsOf g q rs s f = f (correctReads g rs s) :=
  if_neg (by rw [h]; exact Bool.false_ne_true)

theorem withReadsOf_of_bad {s : State} {g : Nat} {rs : List MemRange} (h : readFails s g rs = true) (q : QOp)
    (f : State → State) : withReadsOf g q rs s f = eccAbort g q s :=
  if_pos h

theorem withReadsOf_of_clean {s : State} {g : Nat} (h : (coreOf s g).upsets = []) (q : QOp) (rs : List MemRange)
    (f : State → State) : withReadsOf g q rs s f = f s := by
  rw [withReadsOf_of_good (by unfold readFails; rw [h]; rfl), correctReads_of_clean h]

theorem onOp_of_starting {s : State} {core : BitVec 7} {stream : Bool} {op : Nat} {q : QOp}
    (h : starting s core.toNat op stream = some q) (hr : opRuleOk q.word = true) (f : QOp → State → State) :
    onOp core stream op s f = .next (f q (started core.toNat q s)) := by
  unfold onOp
  rw [h]
  exact congrArg Host.Outcome.next (if_pos hr)

theorem startsOn_canStart {s : State} {g unit : Nat} {k : Core} {q : QOp} (h : startsOn s g unit k = some q) :
    canStart s g k q = true := by
  have hstart {b : Bool} {a : QOp} (ha : (headOf s g unit b).filter (canStart s g k) = some a) : canStart s g k a = true :=
    (Option.filter_eq_some_iff.mp ha).2
  unfold startsOn at h
  dsimp only at h
  split at h
  next a b ha hb =>
    obtain rfl := Option.some.inj h
    split
    · exact hstart ha
    · exact hstart hb
  next a ha hb => exact Option.some.inj h ▸ hstart ha
  next => exact hstart h

theorem starting_op {s : State} {g op : Nat} {stream : Bool} {q : QOp} (h : starting s g op stream = some q) :
    oOp q.word = op := by
  have hq := (Option.filter_eq_some_iff.mp h).2
  simp only [Bool.and_eq_true, decide_eq_true_eq] at hq
  exact hq.2

theorem starting_not_faulted {s : State} {g op : Nat} {stream : Bool} {q : QOp} (h : starting s g op stream = some q) :
    (coreOf s g).faulted = none := by
  have hc := startsOn_canStart (Option.filter_eq_some_iff.mp h).1
  unfold canStart mayStart at hc
  simp only [Bool.and_eq_true, Option.isNone_iff_eq_none] at hc
  tauto

/-! ### What the units read -/

/-- Core `g` reads in `t` what it reads in `s`: its program and everything outside the cores are the same. -/
structure SameInputs (s t : State) (g : Nat) : Prop where
  rest : t = { s with obs := t.obs, prog := { s.prog with cores := t.prog.cores },
                      steep := { s.steep with oseq := t.steep.oseq } }
  binding : (coreOf t g).binding = (coreOf s g).binding
  image : (coreOf t g).image = (coreOf s g).image

theorem OnCore.sameInputs {s t : State} {g : Nat} {k : Core} (h : OnCore s t g s.mem k)
    (hb : k.binding = (coreOf s g).binding) (hi : k.image = (coreOf s g).image) : SameInputs s t g := by
  obtain ⟨-, ⟨hf, -⟩, hm, hk⟩ := h
  refine ⟨hf.trans ?_, hk ▸ hb, hk ▸ hi⟩
  rw [hm]

theorem TakenFrom.sameInputs {s t : State} {g : Nat} {k : Core} (hk : TakenFrom (coreOf s g) k)
    (h : OnCore s t g s.mem k) : SameInputs s t g :=
  h.sameInputs (congrArg Core.binding hk :) (congrArg Core.image hk :)

namespace SameInputs

variable {s t : State} {g : Nat} (h : SameInputs s t g)
include h

theorem mem : t.mem = s.mem := (congrArg State.mem h.rest :)

theorem clock : t.clock = s.clock := (congrArg State.clock h.rest :)

theorem pace : pace t = pace s := (congrArg Machine.pace h.rest :)

theorem coreOffset : coreOffset t g = coreOffset s g := (congrArg (Machine.coreOffset · g) h.rest :)

theorem tileRead (off n : Nat) : tileRead t g off n = tileRead s g off n := by
  unfold Machine.tileRead
  rw [h.mem]

theorem sideData (addr wfmt : Nat) : sideData t g addr wfmt = sideData s g addr wfmt := by
  unfold Machine.sideData
  simp only [h.tileRead]

theorem tile32 (off : Nat) : tile32 t g off = tile32 s g off := by
  unfold Machine.tile32 tileNat
  rw [h.tileRead]

theorem tile16 (off : Nat) : tile16 t g off = tile16 s g off := by
  unfold Machine.tile16 tileNat
  rw [h.tileRead]

theorem tile8 (off : Nat) : tile8 t g off = tile8 s g off := by
  unfold Machine.tile8 tileNat
  rw [h.tileRead]

theorem rounding (train on : Bool) (unit lane cycle : Nat) :
    rounding t train on unit lane cycle = rounding s train on unit lane cycle :=
  (congrArg (Machine.rounding · train on unit lane cycle) h.rest :)

theorem coreRounding (on : Bool) (unit lane cycle : Nat) :
    coreRounding t g on unit lane cycle = coreRounding s g on unit lane cycle := by
  unfold Machine.coreRounding
  rw [h.binding, h.rounding]

end SameInputs

end Sys2Proof.Machine
end

section
/-! O14. The array and the rank lane. -/

namespace Sys2Proof.Machine

/-! ### An uncorrectable word -/

/-- A core that has stopped with program fault `c` where it had none before. -/
def faultedWith (c : Nat) (k : Core) : Core := { k with faulted := some (k.faulted.getD (BitVec.ofNat 8 c)) }

/-- Program fault `c` on core `g`: beside that core only the record of faults and what is observed have changed. -/
theorem progFault_eq (g : Nat) (stream : Bool) (index c : Nat) (s : State) : ∃ v,
    v = { updCore g (faultedWith c) s with prog := { (updCore g (faultedWith c) s).prog with
      faults := v.prog.faults, lastFault := v.prog.lastFault, faultSteep := v.prog.faultSteep } } ∧
    Noted v (progFault g stream index c s) :=
  ⟨_, rfl, Noted.trans (count_noted ..) (trace_noted ..)⟩

/-- What an uncorrectable word that an op meets leaves of its core. -/
def eccAborted (k : Core) : Core :=
  { faultedWith 7 k with aborted := true, running := [], rankRun := none, pour := none }

theorem eccAbort_keeps {s : State} (h : Canon s) (g : Nat) (q : QOp) :
    coreOf (eccAbort g q s) g = eccAborted (coreOf s g) ∧ (∀ i, i ≠ g → coreOf (eccAbort g q s) i = coreOf s i) ∧
      (eccAbort g q s).mem = s.mem ∧ (isTrain (coreOf s g).binding = true →
        (eccAbort g q s).steep.bad = true ∧ (eccAbort g q s).steep.fail = setBit s.steep.fail 0 true) := by
  obtain ⟨v, hv, hn⟩ := progFault_eq g q.stream q.index.toNat 7 s
  have hcore (i : Nat) : coreOf (progFault g q.stream q.index.toNat 7 s) i = coreOf (updCore g (faultedWith 7) s) i :=
    (hn.coreOf i).trans (congrArg (coreOf · i) hv :)
  have hmem : (progFault g q.stream q.index.toNat 7 s).mem = s.mem := hn.mem.trans (congrArg State.mem hv :)
  have hfail : (progFault g q.stream q.index.toNat 7 s).steep.fail = s.steep.fail :=
    (congrArg (·.steep.fail) hn :).trans (congrArg (·.steep.fail) hv :)
  have hc : Canon (startFault g q 7 s) := .startFault h
  unfold eccAbort
  extract_lets s1 s2
  have hself : coreOf s2 g = eccAborted (coreOf s g) := by
    rw [coreOf_updCore_self hc, show coreOf s1 g = _ from hcore g, coreOf_updCore_self h]
    rfl
  have hother (i : Nat) (hi : i ≠ g) : coreOf s2 i = coreOf s i := by
    rw [coreOf_updCore_other hc _ _ hi, show coreOf s1 i = _ from hcore i, coreOf_updCore_other h _ _ hi]
  have hbinding : (coreOf s2 g).binding = (coreOf s g).binding := (congrArg Core.binding hself :)
  rw [hbinding]
  split
  next => exact ⟨hself, hother, hmem, fun _ => ⟨rfl, congrArg (setBit · 0 true) hfail⟩⟩
  next hserve => exact ⟨hself, hother, hmem, fun ht => absurd ht hserve⟩

/-! ### MMA_LOAD -/

theorem rewritten_eq (m : CoreMem) (n : Nat) (k : Core) : ∃ u, rewritten m n k = { k with upsets := u } := by
  unfold rewritten
  split
  · exact ⟨_, rfl⟩
  · exact ⟨_, rfl⟩

/-- The tile memory that a MMA.LOAD reads: its codes and its side data. -/
def loadRanges (w : BitVec 128) (side : List Byte) : List MemRange :=
  tileRanges [(64 * oF w 32 16, tileSize (oF w 64 3)), (64 * oF w 48 16, side.length)]

/-- The weight set that a MMA.LOAD with side data `side` forms of what core `g` holds. -/
def loadedTile (s : State) (g : Nat) (w : BitVec 128) (side : List Byte) : WeightTile :=
  { wfmt := BitVec.ofNat 3 (oF w 64 3), scl := oB w 67, t := oB w 68,
    codes := tileRead s g (64 * oF w 32 16) (tileSize (oF w 64 3)), side := side }

/-- A core whose shadow set a load fills with a tile, to complete at a clock. -/
def filling (x : WeightTile) (c : Nat) (k : Core) : Core :=
  rewritten (.weights true) 0x10000 { k with shadow := some x, loadEnd := c }

theorem filling_eq (x : WeightTile) (c : Nat) (k : Core) :
    ∃ u, filling x c k = { k with shadow := some x, loadEnd := c, upsets := u } :=
  rewritten_eq ..

theorem mmaLoad_of_good {s u : State} {g : Nat} {q : QOp} {side : List Byte}
    (hside : sideData s g (64 * oF q.word 48 16) (oF q.word 64 3) = side)
    (hu : u = correctReads g (loadRanges q.word side) s) (hgood : readFails s g (loadRanges q.word side) = false)
    (hscales : (side.take (12 * blockCols (oF q.word 64 3))).any (badScale (oB q.word 67)) = false) :
    ∃ classes, mmaLoad g q s = opEvents g 0 q.index classes (runFor g q (loadCycles (oF q.word 64 3) side) 0
      (updCore g (filling (loadedTile u g q.word side) (u.clock + loadCycles (oF q.word 64 3) side)) u)) := by
  subst hside hu
  unfold mmaLoad withReads
  exact ⟨_, (withReadsOf_of_good hgood q _).trans (if_neg (by rw [hscales]; exact Bool.false_ne_true))⟩

theorem mmaLoad_of_bad {s : State} {g : Nat} {q : QOp} {side : List Byte}
    (hside : sideData s g (64 * oF q.word 48 16) (oF q.word 64 3) = side)
    (hbad : readFails s g (loadRanges q.word side) = true) : mmaLoad g q s = eccAbort g q s := by
  subst hside
  unfold mmaLoad withReads
  exact withReadsOf_of_bad hbad q _

section
variable {s : State} {core : BitVec 7} {stream : Bool} {q : QOp} {side : List Byte} (hc : Canon s)
  (hs : starting s core.toNat 0x10 stream = some q) (hr : opRuleOk q.word = true)
  (hside : side = sideData s core.toNat (64 * oF q.word 48 16) (oF q.word 64 3))
include hc hs hr hside

theorem mmaLoad_fills (hgood : readFails s core.toNat (loadRanges q.word side) = false)
    (hscales : (side.take (12 * blockCols (oF q.word 64 3))).any (badScale (oB q.word 67)) = false) :
    ∃ t, exec (.mmaLoad core stream) s = .next t ∧
      (coreOf t core.toNat).shadow = some (loadedTile s core.toNat q.word side) ∧
      (coreOf t core.toNat).loadEnd = s.clock + loadCycles (oF q.word 64 3) side ∧
      (coreOf t core.toNat).active = (coreOf s core.toNat).active ∧
      Running t core.toNat q (coreOf t core.toNat).loadEnd 0 ∧ t.mem = s.mem ∧ CoreFrame s t core.toNat := by
  obtain ⟨k1, hk1, htaken1, -⟩ := started_onCore hc core.toNat q
  obtain ⟨k, hk, htaken⟩ := startedReading_onCore hc core.toNat q (loadRanges q.word side)
  have hin1 := htaken1.sameInputs hk1
  have hin := htaken.sameInputs hk
  obtain ⟨classes, ht⟩ := mmaLoad_of_good (u := startedReading core.toNat q (loadRanges q.word side) s)
    ((hin1.sideData ..).trans hside.symm) rfl ((readFails_started hc ..).trans hgood) hscales
  have htile : loadedTile (startedReading core.toNat q (loadRanges q.word side) s) core.toNat q.word side =
      loadedTile s core.toNat q.word side := by
    unfold loadedTile
    rw [hin.tileRead]
  refine ⟨_, (onOp_of_starting hs hr _).trans (congrArg _ ht), ?_⟩
  rw [htile, hin.clock]
  obtain ⟨u, hfill⟩ := filling_eq (loadedTile s core.toNat q.word side)
    (s.clock + loadCycles (oF q.word 64 3) side) k
  have hdone := ((hk.updCore_of_eq hfill).runFor q (loadCycles (oF q.word 64 3) side) 0).opEvents 0 q.index classes
  have hactive : k.active = (coreOf s core.toNat).active := (congrArg Core.active htaken :)
  rw [hdone.core]
  exact ⟨rfl, rfl, hactive, hdone.running (List.mem_append_right _ (List.mem_singleton_self _)),
    hdone.mem, hdone.frame⟩

theorem mmaLoad_aborts (hbad : readFails s core.toNat (loadRanges q.word side) = true) :
    ∃ t, exec (.mmaLoad core stream) s = .next t ∧ (coreOf t core.toNat).faulted = some 7 ∧
      (coreOf t core.toNat).aborted = true ∧ (coreOf t core.toNat).running = [] ∧ (coreOf t core.toNat).pour = none ∧
      t.mem = s.mem ∧ (∀ i, i ≠ core.toNat → coreOf t i = coreOf s i) ∧
      (isTrain (coreOf s core.toNat).binding = true →
        t.steep.bad = true ∧ t.steep.fail = setBit s.steep.fail 0 true) := by
  obtain ⟨k, hk, htaken, -⟩ := started_onCore hc core.toNat q
  have hin := htaken.sameInputs hk
  have ht := mmaLoad_of_bad ((hin.sideData ..).trans hside.symm) ((readFails_started hc ..).trans hbad)
  refine ⟨_, (onOp_of_starting hs hr _).trans (congrArg _ ht), ?_⟩
  obtain ⟨hcore, hothers, hmem, htrain⟩ := eccAbort_keeps hk.canon core.toNat q
  have hfaulted : k.faulted = none := (congrArg Core.faulted htaken :).trans (starting_not_faulted hs)
  rw [hk.core] at hcore
  rw [hin.binding, show (started core.toNat q s).steep = _ from congrArg State.steep hin.rest] at htrain
  refine ⟨?_, ?_, ?_, ?_, hmem.trans hin.mem, fun i hi => (hothers i hi).trans (hk.frame.2 i hi), htrain⟩
  · rw [hcore]
    unfold eccAborted faultedWith
    rw [hfaulted]
    rfl
  all_goals rw [hcore]; rfl

end

end Sys2Proof.Machine
end

section
/-! O14. What the rank lane and the pour of a core do as they go on, where no word of the core has an error. -/

namespace Sys2Proof.Machine

theorem rewritten_of_clean {k : Core} (h : k.upsets = []) (m : CoreMem) (n : Nat) : rewritten m n k = k := if_pos h

theorem switched_of_clean {k : Core} (h : k.upsets = []) (m : Bool → CoreMem) : switched m k = k := if_pos h

theorem OnCore.withReadsOf {s t : State} {g : Nat} {m : Mem} {k : Core} (h : OnCore s t g m k) (hu : k.upsets = [])
    (q : QOp) (rs : List MemRange) (f : State → State) : withReadsOf g q rs t f = f t := by
  obtain ⟨-, -, -, rfl⟩ := h
  exact withReadsOf_of_clean hu q rs f

/-! ### The pour -/

/-- Of the core only its pour, the B banks and the rings have changed. -/
def PourMoved (k k' : Core) : Prop :=
  k' = { k with pour := k'.pour, b0 := k'.b0, b1 := k'.b1, rings := k'.rings }

/-- Replace a B bank. -/
def setB (b : Bool) (v : List (BitVec 16)) (k : Core) : Core := if b then { k with b1 := v } else { k with b0 := v }

theorem PourMoved.trans {k k' k'' : Core} (h : PourMoved k k') (h' : PourMoved k' k'') : PourMoved k k'' := by
  unfold PourMoved at h h' ⊢
  rw [h', h]

theorem PourMoved.upsets {k k' : Core} (h : PourMoved k k') : k'.upsets = k.upsets := (congrArg Core.upsets h :)

section
variable {s t : State} {g : Nat} {m : Mem} {k : Core} (h : OnCore s t g m k) (hu : k.upsets = [])
include h hu

omit hu in
theorem loadEnds_onCore (q : QOp) (x : Piece) (c : Nat) :
    ∃ rings, OnCore s (loadEnds g q x c t) g m { k with rings := rings } :=
  ⟨_, h.updCore _⟩

theorem loadB_onCore (q : QOp) (x : Piece) (xs : List RingSlice) (b : Bool) (c : Nat) :
    ∃ k', OnCore s (loadB g q x xs b c t) g m k' ∧ PourMoved k k' := by
  obtain ⟨rings, h1⟩ := loadEnds_onCore h q x c
  have h2 := h1.updCore_of_eq (f := fun k => rewritten (.bBank b) 0x8000 (setB b (bSetOf (sliceOf xs false)) k))
    (rewritten_of_clean (by cases b <;> exact hu) ..)
  exact ⟨_, h2, by cases b <;> rfl⟩

theorem pourStep_onCore (p : Pour) (x : Piece) (xs : List Piece) (sl : List RingSlice) (finals : List Nat) :
    ∃ k', OnCore s (pourStep g p x xs sl finals t) g m k' ∧ PourMoved k k' := by
  unfold pourStep
  extract_lets loads b u
  have hload : ∃ k', OnCore s u g m k' ∧ PourMoved k k' := by
    unfold u
    split
    · exact loadB_onCore h hu ..
    · exact ⟨k, h, rfl⟩
  obtain ⟨k1, h1, hm1⟩ := hload
  rw [h1.withReadsOf (hm1.upsets.trans hu)]
  extract_lets reads turns last out v p' w
  have hw : OnCore s w g m _ := ((h1.count ..).count ..).updCore _
  split
  · exact ⟨_, (hw.updCore _).opEvents .., hm1.trans rfl⟩
  · exact ⟨_, hw, hm1.trans rfl⟩

theorem advancePour_onCore (n : Nat) : ∃ k', OnCore s (advancePour g n t) g m k' ∧ PourMoved k k' := by
  induction n generalizing t k with
  | zero => exact ⟨k, h, rfl⟩
  | succ n ih =>
    unfold advancePour
    split
    · exact ⟨k, h, rfl⟩
    next p _ =>
      split
      · exact ⟨k, h, rfl⟩
      next x xs _ =>
        split
        next f sl _ _ =>
          obtain ⟨k1, h1, hm1⟩ := pourStep_onCore h hu p x xs sl f
          obtain ⟨k2, h2, hm2⟩ := ih h1 (hm1.upsets.trans hu)
          exact ⟨k2, h2, hm1.trans hm2⟩
        next => exact ⟨k, h, rfl⟩

end

/-! ### The rank lane -/

theorem rankOf_setRank_self (b : Bool) (v : Bank) (k : Core) : rankOf (setRank b v k) b = v := by
  cases b <;> rfl

theorem rankOf_setRank_other (b : Bool) (v : Bank) (k : Core) : rankOf (setRank b v k) (!b) = rankOf k (!b) := by
  cases b <;> rfl

theorem setRank_eq (b : Bool) (v : Bank) (k : Core) :
    setRank b v k = { k with rank0 := (setRank b v k).rank0, rank1 := (setRank b v k).rank1 } := by
  cases b <;> rfl

/-- The rows that piece `p` of a RANK.RUN with word `w` forms where they enter from a clock on. -/
def rankResults (s : State) (g : Nat) (w : BitVec 128) (p : Piece) (entry : Nat) : List (List (BitVec 32 × Bool)) :=
  (List.range p.rows).map fun i => rankRow s g w (coreOf s g).aActive
    ((rankOf (coreOf s g) (oB w 101)).vals.getD (p.row + i) [])
    (coreOffset s g + (entry - s.clock) + pace s * i + 200) (p.row + i)

/-- The rank bank once the rows of a piece have entered from a clock on. -/
def rankBankWith (s : State) (g : Nat) (w : BitVec 128) (p : Piece) (entry : Nat) : Bank :=
  { rankOf (coreOf s g) (oB w 101) with
    chain := (rankOf (coreOf s g) (oB w 101)).chain.map fun c =>
      { c with finals := c.finals ++ (List.range p.rows).map fun i => entry + pace s * i + 200 },
    vals := setRows p.row ((rankResults s g w p entry).map fun r => r.map fun x => x.1)
      (rankOf (coreOf s g) (oB w 101)).vals }

/-- A started op that awaits the end of the RANK.RUN `q` completes at a clock. -/
def endsAt (q : QOp) (c : Nat) (x : RunOp) : RunOp :=
  if x.word = q.word && x.index = q.index && x.awaiting ≠ 0 then { x with endAt := c, awaiting := 0 } else x

/-- The core once the last row of its RANK.RUN is scheduled. -/
def rankEnded (q : QOp) (c : Nat) (k : Core) : Core :=
  { k with rankRun := none, rankFree := c, running := k.running.map (endsAt q c) }

/-- The clock from which the rows of the next piece of a RANK.RUN enter. -/
def entryClock (r : RankRun) (xs : List RingSlice) : Nat := max r.rowFrom (max r.loadFrom (arrival xs) + 96)

section
variable {s t : State} {g : Nat} {m : Mem} {k : Core} (h : OnCore s t g m k) (hu : k.upsets = [])
include h hu

theorem switchA_loadA_onCore (q : QOp) (p : Piece) (xs : List RingSlice) (c d : Nat) : ∃ rings,
    OnCore s (switchA g d (loadA g q p xs c t)) g m
      { k with rings := rings, aActive := aSetOf (sliceOf xs false), aShadow := [], rankSwitch := d } := by
  obtain ⟨rings, h1⟩ := loadEnds_onCore h q p c
  have h2 := h1.updCore_of_eq (f := fun k => rewritten (.aSet true) 0x6000 { k with aShadow := aSetOf (sliceOf xs false) })
    (rewritten_of_clean (by exact hu) ..)
  exact ⟨rings, h2.updCore_of_eq (switched_of_clean (by exact hu) _)⟩

theorem rankRows_onCore (r : RankRun) (p : Piece) (entry : Nat) : ∃ raised, OnCore s (rankRows g r p entry t) g m
    (setRank (oB r.op.word 101) (rankBankWith t g r.op.word p entry)
      { k with rankRun := some { r with raised := raised } }) := by
  unfold rankRows
  extract_lets w held
  rw [h.withReadsOf hu]
  exact ⟨_, ((h.updCore _).count ..).opEvents ..⟩

/-- A piece of a RANK.RUN: state `u` is the one in which the lane has switched to the piece's A set. -/
theorem rankStep_onCore (r : RankRun) (p : Piece) (ps : List Piece) (xs : List RingSlice) : ∃ u rings raised k',
    OnCore s u g m { k with rings := rings, aActive := aSetOf (sliceOf xs false), aShadow := [],
                            rankSwitch := entryClock r xs } ∧
    k' = setRank (oB r.op.word 101) (rankBankWith u g r.op.word p (entryClock r xs))
      { k with rings := rings, aActive := aSetOf (sliceOf xs false), aShadow := [], rankSwitch := entryClock r xs,
               rankRun := some { r with left := ps, loadFrom := entryClock r xs,
                                        rowFrom := entryClock r xs + pace t * p.rows, raised := raised } } ∧
    OnCore s (rankStep g r p ps xs t) g m
      (if ps.isEmpty then rankEnded r.op (entryClock r xs + max (pace t * p.rows) 96) k' else k') := by
  unfold rankStep
  extract_lets load entry n u1 u2 u3
  obtain ⟨rings, h1⟩ := switchA_loadA_onCore h hu r.op p xs (load + 96) entry
  have h2 : OnCore s u2 g m _ := (h1.count ..).count ..
  obtain ⟨raised, h3⟩ := rankRows_onCore h2 hu { r with left := ps, loadFrom := entry, rowFrom := entry + n } p entry
  refine ⟨u2, rings, raised, _, h2, rfl, ?_⟩
  have hrun : (coreOf u3 g).rankRun.isSome = true := by
    rw [h3.core]
    cases oB r.op.word 101 <;> rfl
  rw [hrun, Bool.and_true]
  split
  · exact h3.updCore (rankEnded r.op (entry + max n 96))
  · exact h3

end

/-- The rank lane has gone on with the RANK.RUN `q`: of the core only what serves the lane has changed, and of the bank of
`q`'s chain the rows and their finality. -/
structure RankMoved (q : QOp) (k k' : Core) : Prop where
  rest : k' = { k with rank0 := k'.rank0, rank1 := k'.rank1, aActive := k'.aActive, aShadow := k'.aShadow,
                       rankRun := k'.rankRun, rankSwitch := k'.rankSwitch, rankFree := k'.rankFree,
                       running := k'.running, rings := k'.rings }
  other : rankOf k' (!oB q.word 101) = rankOf k (!oB q.word 101)
  chain : ∀ c, (rankOf k (oB q.word 101)).chain = some c →
    ∃ fs, (rankOf k' (oB q.word 101)).chain = some { c with finals := c.finals ++ fs }
  running : ∀ x ∈ k.running, x.awaiting = 0 → x ∈ k'.running
  run : ∀ r, k'.rankRun = some r → r.op = q

namespace RankMoved

variable {q : QOp} {k k' k'' : Core}

theorem refl (hr : ∀ r, k.rankRun = some r → r.op = q) : RankMoved q k k :=
  ⟨rfl, rfl, fun c hc => ⟨[], by rw [List.append_nil]; exact hc⟩, fun _ hx _ => hx, hr⟩

theorem upsets (h : RankMoved q k k') : k'.upsets = k.upsets := (congrArg Core.upsets h.rest :)

theorem trans (h : RankMoved q k k') (h' : RankMoved q k' k'') : RankMoved q k k'' where
  rest := by
    rw [h'.rest, h.rest]
  other := h'.other.trans h.other
  chain c hc := by
    obtain ⟨fs, hfs⟩ := h.chain c hc
    obtain ⟨fs', hfs'⟩ := h'.chain _ hfs
    exact ⟨fs ++ fs', by rw [hfs', List.append_assoc]⟩
  running x hx hw := h'.running x (h.running x hx hw) hw
  run := h'.run

theorem ended (h : RankMoved q k k') (c : Nat) : RankMoved q k (rankEnded q c k') where
  rest := by
    rw [h.rest]
    rfl
  other := h.other
  chain := h.chain
  running x hx hw := List.mem_map.mpr ⟨x, h.running x hx hw, by simp [endsAt, hw]⟩
  run _ hr := nomatch hr

end RankMoved

section
variable {s t : State} {g : Nat} {m : Mem} {k : Core} {q : QOp} (h : OnCore s t g m k) (hu : k.upsets = [])
  (hq : ∀ r, k.rankRun = some r → r.op = q)
include h hu hq

theorem rankStep_moves {r : RankRun} (hr : k.rankRun = some r) (p : Piece) (ps : List Piece) (xs : List RingSlice) :
    ∃ k', OnCore s (rankStep g r p ps xs t) g m k' ∧ RankMoved q k k' := by
  obtain ⟨u, rings, raised, k', hk, hk', hstep⟩ := rankStep_onCore h hu r p ps xs
  obtain rfl := hq r hr
  have hmoved : RankMoved r.op k k' := by
    subst hk'
    refine ⟨?_, rankOf_setRank_other .., fun c hc => ?_, fun x hx _ => ?_, fun r' hr' => ?_⟩
    · rw [setRank_eq]
    · refine ⟨(List.range p.rows).map fun i => entryClock r xs + pace u * i + 200, ?_⟩
      rw [rankOf_setRank_self]
      unfold rankBankWith
      rw [hk.core]
      exact congrArg (Option.map _) hc
    · cases oB r.op.word 101 <;> exact hx
    · cases hb : oB r.op.word 101 <;> rw [hb] at hr' <;> exact Option.some.inj hr' ▸ rfl
  refine ⟨_, hstep, ?_⟩
  split
  · exact hmoved.ended _
  · exact hmoved

theorem advanceRank_moves (n : Nat) : ∃ k', OnCore s (advanceRank g n t) g m k' ∧ RankMoved q k k' := by
  induction n generalizing t k with
  | zero => exact ⟨k, h, .refl hq⟩
  | succ n ih =>
    unfold advanceRank
    split
    · exact ⟨k, h, .refl hq⟩
    next r hr =>
      split
      · exact ⟨k, h, .refl hq⟩
      next p ps _ =>
        split
        · exact ⟨k, h, .refl hq⟩
        next xs _ =>
          obtain ⟨k1, h1, hm1⟩ := rankStep_moves h hu hq (h.core ▸ hr) p ps xs
          obtain ⟨k2, h2, hm2⟩ := ih h1 (hm1.upsets.trans hu) hm1.run
          exact ⟨k2, h2, hm1.trans hm2⟩

omit h hu hq in
theorem exists_rankOp (k : Core) (q : QOp) : ∃ q', ∀ r, k.rankRun = some r → r.op = q' := by
  cases hk : k.rankRun with
  | none => exact ⟨q, fun _ hr => nomatch hr⟩
  | some r => exact ⟨r.op, fun _ hr => Option.some.inj hr ▸ rfl⟩

theorem advanceCore_moves : ∃ k1 k', OnCore s (advanceCore g t) g m k' ∧ RankMoved q k k1 ∧ PourMoved k1 k' := by
  obtain ⟨k1, h1, hm1⟩ := advanceRank_moves h hu hq 513
  obtain ⟨k', h', hm'⟩ := advancePour_onCore h1 (hm1.upsets.trans hu) 513
  exact ⟨k1, k', h', hm1, hm'⟩

end

end Sys2Proof.Machine
end

section
/-! O14. MMA_RUN. -/

namespace Sys2Proof.Machine

theorem accOf_setAcc_self (b : Bool) (v : Bank) (k : Core) : accOf (setAcc b v k) b = v := by
  cases b <;> rfl

theorem accOf_setAcc_other (b : Bool) (v : Bank) (k : Core) : accOf (setAcc b v k) (!b) = accOf k (!b) := by
  cases b <;> rfl

/-- The cycles between the rows of a MMA.RUN of a tile that enter the array. -/
def entryCycles (s : State) (w : BitVec 128) (x : WeightTile) : Nat := pace s * rowCycles (some x) (oB w 100)

/-- The rows that a MMA.RUN of a tile forms on its accumulator bank. -/
def runRows (s : State) (g : Nat) (w : BitVec 128) (x : WeightTile) (old : Bank) : List (List (BitVec 32 × Bool)) :=
  (List.range (oF w 82 10)).map fun i => mmaRow s g w x (outliersOf x) (old.vals.getD i [])
    (coreOffset s g + entryCycles s w x * (i + 1) + 199) i

/-- The accumulator bank once the MMA.RUN has opened or continued its chain. -/
def runBank (s : State) (g : Nat) (w : BitVec 128) (x : WeightTile) (old : Bank) : Bank :=
  { chain := some {
      rows := oF w 82 10, cols := 16 * blockCols x.wfmt.toNat, kt := oF w 92 8, last := oB w 103,
      finals := (List.range (oF w 82 10)).map fun i => s.clock + entryCycles s w x * (i + 1) + 199 },
    vals := (runRows s g w x old).map fun r => r.map fun y => y.1 }

/-- A core whose MMA.RUN has taken its tile and formed its bank, with the array and the shadow set taken up to a clock: with
NEW the shadow set is the active one. -/
def chaining (w : BitVec 128) (bank : Bank) (shadowFree free : Nat) (k : Core) : Core :=
  setAcc (oB w 101) bank { k with
    active := if oB w 104 then k.shadow else k.active, shadow := if oB w 104 then none else k.shadow,
    shadowFree := if oB w 104 then shadowFree else k.shadowFree, arrayFree := free }

theorem mmaRun_of_clean {s t : State} {g : Nat} {m : Mem} {k : Core} {q : QOp} {x : WeightTile}
    (h : OnCore s t g m k) (hu : k.upsets = []) (hx : runTile k q.word = some x)
    (hmode : modeOk x.wfmt.toNat (oB q.word 100) = true)
    (hchain : chainOk (accOf k (oB q.word 101)) (oB q.word 102) (oF q.word 82 10) = true) :
    ∃ c k', k' = chaining q.word (runBank t g q.word x (accOf k (oB q.word 101))) c
        (t.clock + entryCycles t q.word x * oF q.word 82 10) k ∧
      OnCore s (mmaRun g q t) g m
        { k' with running := k'.running ++ [opRun q (s.clock + entryCycles t q.word x * oF q.word 82 10) 0] } := by
  refine ⟨t.clock + entryCycles t q.word x - 1, _, rfl, ?_⟩
  unfold mmaRun
  dsimp only
  rw [h.core, hx]
  dsimp only
  rw [hmode, hchain, if_neg (by decide), h.withReadsOf hu]
  refine OnCore.opEvents (OnCore.runFor (OnCore.count (OnCore.count (OnCore.count (h.updCore_of_eq ?_) ..) ..) ..) ..) ..
  unfold chaining
  cases oB q.word 104
  · exact congrArg _ (rewritten_of_clean (by exact hu) ..)
  · simp only [if_true]
    rw [switched_of_clean (by exact hu), rewritten_of_clean (by exact hu)]
    rfl

theorem chaining_upsets (w : BitVec 128) (bank : Bank) (c d : Nat) (k : Core) :
    (chaining w bank c d k).upsets = k.upsets := by
  unfold chaining
  cases oB w 101 <;> rfl

theorem chaining_active (w : BitVec 128) (bank : Bank) (c d : Nat) (k : Core) :
    (chaining w bank c d k).active = if oB w 104 then k.shadow else k.active := by
  unfold chaining
  cases oB w 101 <;> rfl

theorem chaining_other (w : BitVec 128) (bank : Bank) (c d : Nat) (k : Core) :
    accOf (chaining w bank c d k) (!oB w 101) = accOf k (!oB w 101) :=
  accOf_setAcc_other ..

theorem exec_mmaRun (core : BitVec 7) (stream : Bool) (s : State) : exec (.mmaRun core stream) s =
    onOp core stream 0x11 s fun q s => advanceCore core.toNat (mmaRun core.toNat q s) := rfl

theorem mmaRun_chains {s : State} {core : BitVec 7} {stream : Bool} {q : QOp} {x : WeightTile} (hc : Canon s)
    (hs : starting s core.toNat 0x11 stream = some q) (hr : opRuleOk q.word = true)
    (hu : (coreOf s core.toNat).upsets = []) (hx : runTile (coreOf s core.toNat) q.word = some x)
    (hmode : modeOk x.wfmt.toNat (oB q.word 100) = true)
    (hchain : chainOk (accOf (coreOf s core.toNat) (oB q.word 101)) (oB q.word 102) (oF q.word 82 10) = true) :
    ∃ t, exec (.mmaRun core stream) s = .next t ∧
      (∃ c, (accOf (coreOf t core.toNat) (oB q.word 101)).chain = some c ∧ c.rows = oF q.word 82 10 ∧
        c.cols = 16 * blockCols x.wfmt.toNat ∧ c.last = oB q.word 103 ∧
        c.finals = (List.range (oF q.word 82 10)).map fun i =>
          s.clock + pace s * rowCycles (some x) (oB q.word 100) * (i + 1) + 199) ∧
      (accOf (coreOf t core.toNat) (oB q.word 101)).vals = (List.range (oF q.word 82 10)).map (fun i =>
        (mmaRow (started core.toNat q s) core.toNat q.word x (outliersOf x)
          ((accOf (coreOf s core.toNat) (oB q.word 101)).vals.getD i [])
          (coreOffset s core.toNat + pace s * rowCycles (some x) (oB q.word 100) * (i + 1) + 199) i).map fun y => y.1) ∧
      accOf (coreOf t core.toNat) (!oB q.word 101) = accOf (coreOf s core.toNat) (!oB q.word 101) ∧
      (coreOf t core.toNat).active = (if oB q.word 104 then (coreOf s core.toNat).shadow
        else (coreOf s core.toNat).active) ∧
      Running t core.toNat q (s.clock + pace s * rowCycles (some x) (oB q.word 100) * oF q.word 82 10) 0 ∧
      t.mem = s.mem ∧ CoreFrame s t core.toNat := by
  obtain ⟨k, hk, htaken, hupsets⟩ := started_onCore hc core.toNat q
  have hin := htaken.sameInputs hk
  have hacc (b : Bool) : accOf k b = accOf (coreOf s core.toNat) b := (congrArg (accOf · b) htaken :)
  have htile : runTile k q.word = some x := (congrArg (runTile · q.word) htaken :).trans hx
  obtain ⟨c, k1, hk1, h1⟩ := mmaRun_of_clean hk (hupsets.trans hu) htile hmode (by rw [hacc, hchain])
  obtain ⟨q', hq'⟩ := exists_rankOp k1 q
  obtain ⟨k2, k3, h3, hrank, hpour⟩ := advanceCore_moves (q := q') h1 (by rw [hk1, chaining_upsets, hupsets, hu]) hq'
  rw [exec_mmaRun]
  refine ⟨_, onOp_of_starting hs hr _, ?_⟩
  have hcycles : entryCycles (started core.toNat q s) q.word x = entryCycles s q.word x := by
    unfold entryCycles
    rw [hin.pace]
  have hacc3 (b : Bool) : accOf k3 b = accOf k1 b :=
    (congrArg (accOf · b) hpour :).trans (congrArg (accOf · b) hrank.rest :)
  have hactive : k3.active = k1.active := (congrArg Core.active hpour :).trans (congrArg Core.active hrank.rest :)
  have hrunning : k3.running = k2.running := (congrArg Core.running hpour :)
  have hbank : accOf k1 (oB q.word 101) = runBank (started core.toNat q s) core.toNat q.word x
      (accOf (coreOf s core.toNat) (oB q.word 101)) := by
    rw [hk1, ← hacc]
    exact accOf_setAcc_self ..
  rw [h3.core, hacc3, hacc3, hactive, hbank, hk1, chaining_active, chaining_other, hacc]
  refine ⟨⟨_, rfl, rfl, rfl, rfl, ?_⟩, ?_, rfl, ?_, h3.running ?_, h3.mem, h3.frame⟩
  · rw [hcycles, hin.clock]
    rfl
  · unfold runBank runRows
    rw [hin.coreOffset, hcycles, List.map_map]
    rfl
  · exact (congrArg (fun k : Core => if oB q.word 104 then k.shadow else k.active) htaken :)
  · rw [hrunning]
    refine hrank.running _ (List.mem_append_right _ ?_) rfl
    rw [hcycles]
    exact List.mem_singleton_self _

end Sys2Proof.Machine
end

section
/-! O14. RANK_RUN. -/

namespace Sys2Proof.Machine

/-! ### What the rank lane reads -/

namespace SameInputs

variable {s t : State} {g : Nat} (h : SameInputs s t g)
include h

theorem entryNow : entryNow t g = entryNow s g := by
  unfold Machine.entryNow
  rw [h.binding]
  exact (congrArg (fun v => entryOf (coreOf s g).binding v.steep.k v.steep.sidx) h.rest :)

theorem slotCtlAt (b : Binding) (i n : Nat) : slotCtlAt t b i n = slotCtlAt s b i n :=
  (congrArg (Machine.slotCtlAt · b i n) h.rest :)

theorem coreOwnerD (i : Nat) : coreOwnerD t i = coreOwnerD s i := (congrArg (Machine.coreOwnerD · i) h.rest :)

theorem tableOf (p n : Nat) : tableOf t p n = tableOf s p n := (congrArg (Machine.tableOf · p n) h.rest :)

theorem slicesOf (ctl : BitVec 256) (x : Option Table) : slicesOf t ctl x = slicesOf s ctl x :=
  funext fun r => (congrArg (Machine.slicesOf · ctl x r) h.rest :)

theorem rankPieces (w : BitVec 128) : rankPieces t g w = rankPieces s g w := by
  unfold Machine.rankPieces segsOver slotGroup
  rw [h.binding, h.entryNow, h.slotCtlAt, h.coreOwnerD, h.tableOf]

theorem ringList (b : Binding) (i : Nat) (img : Image) (ring : Bool) (n : Nat) :
    ringList t g b i img false ring n = ringList s g b i img false ring n := by
  unfold Machine.ringList
  simp only [h.slotCtlAt, h.coreOwnerD, h.tableOf, h.slicesOf, Bool.false_eq_true, if_false]

theorem needsOf (q : QOp) : needsOf t g q = needsOf s g q := by
  unfold Machine.needsOf
  dsimp only
  rw [h.image, h.binding, h.entryNow]
  split
  · rfl
  · rw [h.ringList]

theorem pieceSlices (hr : (coreOf t g).rings = (coreOf s g).rings) (q : QOp) (p : Piece) :
    pieceSlices t g q p = pieceSlices s g q p := by
  unfold Machine.pieceSlices
  rw [h.needsOf, hr]

theorem rankRow (w : BitVec 128) (a : List (BitVec 16)) (old : List (BitVec 32)) (cycle i : Nat) :
    rankRow t g w a old cycle i = rankRow s g w a old cycle i := by
  unfold Machine.rankRow xBytes xScales
  simp only [h.tileRead, h.coreRounding]

end SameInputs

/-! ### The start of a RANK.RUN -/

/-- The RANK.RUN `q` as it starts on core `g`, every piece of it still to come. -/
def rankStart (s : State) (g : Nat) (q : QOp) : RankRun :=
  { op := q, left := rankPieces s g q.word, loadFrom := if oB q.word 102 then s.clock else (coreOf s g).rankSwitch,
    rowFrom := s.clock, raised := [] }

/-- The rank bank as a RANK.RUN opens or continues its chain. -/
def openedBank (w : BitVec 128) (old : Bank) : Bank :=
  { chain := some { rows := oF w 82 10, cols := 64, kt := oF w 92 8, last := oB w 103, finals := [] },
    vals := if oB w 102 then [] else old.vals }

/-- In state `u` with core `g` in state `k` the RANK.RUN `q` has started from `s`, and no piece of it has entered. -/
structure RankOpen (s u : State) (g : Nat) (q : QOp) (k : Core) : Prop where
  onCore : OnCore s u g s.mem k
  inputs : SameInputs s u g
  clean : k.upsets = []
  rings : k.rings = (coreOf s g).rings
  run : k.rankRun = some (rankStart s g q)
  bank : rankOf k (oB q.word 101) = openedBank q.word (rankOf (coreOf s g) (oB q.word 101))
  other : rankOf k (!oB q.word 101) = rankOf (coreOf s g) (!oB q.word 101)
  awaits : opRun q s.clock 1 ∈ k.running

theorem rankRun_of_chainOk {s t : State} {g : Nat} {m : Mem} {k : Core} {q : QOp} (h : OnCore s t g m k)
    (hchain : chainOk (rankOf k (oB q.word 101)) (oB q.word 102) (oF q.word 82 10) = true) :
    ∃ u k', k' = setRank (oB q.word 101) (openedBank q.word (rankOf k (oB q.word 101)))
        { k with rankRun := some { op := q, left := rankPieces t g q.word,
                                   loadFrom := if oB q.word 102 then s.clock else k.rankSwitch,
                                   rowFrom := s.clock, raised := [] } } ∧
      OnCore s u g m { k' with running := k'.running ++ [opRun q s.clock 1] } ∧
      rankRun g q t = advanceRank g (rankPieces t g q.word).length u := by
  unfold rankRun
  dsimp only
  rw [h.core, hchain, if_neg (show ¬(!true) = true by decide), h.clock]
  refine ⟨_, _, rfl, ?_, rfl⟩
  exact (h.updCore_of_eq rfl).runFor q 0 1

theorem rankRun_opens {s : State} {g : Nat} {q : QOp} (hc : Canon s) (hu : (coreOf s g).upsets = [])
    (hchain : chainOk (rankOf (coreOf s g) (oB q.word 101)) (oB q.word 102) (oF q.word 82 10) = true) :
    ∃ u k, RankOpen s u g q k ∧
      rankRun g q (started g q s) = advanceRank g (rankPieces s g q.word).length u := by
  obtain ⟨k, hk, htaken, hupsets⟩ := started_onCore hc g q
  have hin := htaken.sameInputs hk
  have hrank (b : Bool) : rankOf k b = rankOf (coreOf s g) b := (congrArg (rankOf · b) htaken :)
  have hswitch : k.rankSwitch = (coreOf s g).rankSwitch := (congrArg Core.rankSwitch htaken :)
  obtain ⟨u, k1, hk1, h1, hrun⟩ := rankRun_of_chainOk hk (by rw [hrank, hchain])
  rw [hin.rankPieces, hrank, hswitch] at hk1
  rw [hin.rankPieces] at hrun
  have hrest := hk1.trans (setRank_eq ..)
  refine ⟨u, _, ⟨h1, h1.sameInputs ?_ ?_, ?_, ?_, ?_, ?_, ?_,
    List.mem_append_right _ (List.mem_singleton_self _)⟩, hrun⟩
  · exact (congrArg Core.binding hrest :).trans (congrArg Core.binding htaken :)
  · exact (congrArg Core.image hrest :).trans (congrArg Core.image htaken :)
  · exact (congrArg Core.upsets hrest :).trans (hupsets.trans hu)
  · exact (congrArg Core.rings hrest :).trans (congrArg Core.rings htaken :)
  · exact (congrArg Core.rankRun hrest :)
  · exact (congrArg (rankOf · (oB q.word 101)) hk1 :).trans (rankOf_setRank_self ..)
  · exact (congrArg (rankOf · (!oB q.word 101)) hk1 :).trans ((rankOf_setRank_other ..).trans (hrank _))

/-! ### The pieces of a RANK.RUN -/

theorem exec_rankRun (core : BitVec 7) (stream : Bool) (s : State) : exec (.rankRun core stream) s =
    onOp core stream 0x20 s fun q s => advanceCore core.toNat (rankRun core.toNat q s) := rfl

theorem advanceRank_of_idle {s : State} {g : Nat} (h : (coreOf s g).rankRun = none) (n : Nat) : advanceRank g n s = s := by
  cases n with
  | zero => rfl
  | succ n =>
    unfold advanceRank
    rw [h]

theorem setRows_take (rows vals : List (List (BitVec 32))) : (setRows 0 rows vals).take rows.length = rows := by
  simp [setRows]

/-- The rows of a piece at the top of its chain, as they stand in the rank bank. -/
theorem rankBankWith_take {s v : State} {g : Nat} (h : SameInputs s v g) (w : BitVec 128) {p : Piece} (hrow : p.row = 0)
    (e : Nat) : (rankBankWith v g w p e).vals.take p.rows = (List.range p.rows).map fun i =>
      (rankRow s g w (coreOf v g).aActive ((rankOf (coreOf v g) (oB w 101)).vals.getD i [])
        (coreOffset s g + (e - s.clock) + pace s * i + 200) i).map fun y => y.1 := by
  have htake : (rankBankWith v g w p e).vals.take p.rows = (rankResults v g w p e).map fun r => r.map fun y => y.1 := by
    unfold rankBankWith
    dsimp only
    rw [hrow]
    have hlen : ((rankResults v g w p e).map fun r => r.map fun y => y.1).length = p.rows := by simp [rankResults]
    rw [← hlen]
    exact setRows_take ..
  rw [htake]
  unfold rankResults
  simp only [hrow, h.rankRow, h.coreOffset, h.clock, h.pace, List.map_map, Nat.zero_add]
  rfl

theorem endsAt_opRun (q : QOp) (c d : Nat) : endsAt q c (opRun q d 1) = opRun q c 0 := by
  simp [endsAt, opRun]

section
variable {s t u : State} {g : Nat} {q : QOp} {k : Core} (ho : RankOpen s u g q k)
include ho

theorem rankRun_chains (n : Nat) (ht : t = advanceCore g (advanceRank g n u)) :
    (∃ c, (rankOf (coreOf t g) (oB q.word 101)).chain = some c ∧ c.rows = oF q.word 82 10 ∧ c.cols = 64 ∧
      c.last = oB q.word 103) ∧
    rankOf (coreOf t g) (!oB q.word 101) = rankOf (coreOf s g) (!oB q.word 101) ∧ t.mem = s.mem ∧ CoreFrame s t g := by
  have hop (r : RankRun) (hr : k.rankRun = some r) : r.op = q := Option.some.inj (ho.run.symm.trans hr) ▸ rfl
  obtain ⟨k1, h1, hm1⟩ := advanceRank_moves ho.onCore ho.clean hop n
  obtain ⟨k2, k3, h3, hm2, hm3⟩ := advanceCore_moves h1 (hm1.upsets.trans ho.clean) hm1.run
  rw [← ht] at h3
  have hm := hm1.trans hm2
  have hrank (b : Bool) : rankOf k3 b = rankOf k2 b := (congrArg (rankOf · b) hm3 :)
  rw [h3.core, hrank, hrank]
  obtain ⟨fs, hfs⟩ := hm.chain _ (congrArg Bank.chain ho.bank)
  exact ⟨⟨_, hfs, rfl, rfl, rfl⟩, hm.other.trans ho.other, h3.mem, h3.frame⟩

variable {p : Piece} {xs : List RingSlice} {e : Nat} (hps : rankPieces s g q.word = [p])
  (hxs : pieceSlices s g q p = some xs)
include hps hxs

theorem advanceRank_of_one_piece : advanceRank g 1 u = rankStep g (rankStart s g q) p [] xs u := by
  have hslices : pieceSlices u g (rankStart s g q).op p = some xs :=
    (ho.inputs.pieceSlices (ho.onCore.core ▸ ho.rings) q p).trans hxs
  have hleft : (rankStart s g q).left = [p] := hps
  unfold advanceRank
  rw [ho.onCore.core, ho.run]
  dsimp only
  rw [hleft]
  dsimp only
  rw [hslices]
  rfl

/-- A RANK.RUN whose rows lie under one segment, its slice in the ring: A loads in 96 cycles, and the rows enter at `e`. -/
theorem rankRun_of_one_piece (hrow : p.row = 0) (hrows : p.rows = oF q.word 82 10)
    (he : e = max s.clock (max (if oB q.word 102 then s.clock else (coreOf s g).rankSwitch) (arrival xs) + 96))
    (ht : t = advanceCore g (advanceRank g 1 u)) :
    (coreOf t g).rankRun = none ∧ (coreOf t g).aActive = aSetOf (sliceOf xs false) ∧
    (coreOf t g).rankFree = e + max (pace s * oF q.word 82 10) 96 ∧ Running t g q (coreOf t g).rankFree 0 ∧
    (rankOf (coreOf t g) (oB q.word 101)).vals.take (oF q.word 82 10) =
      (List.range (oF q.word 82 10)).map fun i =>
        (rankRow s g q.word (aSetOf (sliceOf xs false))
          ((if oB q.word 102 then [] else (rankOf (coreOf s g) (oB q.word 101)).vals).getD i [])
          (coreOffset s g + (e - s.clock) + pace s * i + 200) i).map fun y => y.1 := by
  obtain ⟨v, rings, raised, k1, hv, hk1, h1⟩ := rankStep_onCore ho.onCore ho.clean (rankStart s g q) p [] xs
  rw [show entryClock (rankStart s g q) xs = e from he.symm] at hv hk1 h1
  rw [if_pos List.isEmpty_nil, ← advanceRank_of_one_piece ho hps hxs, ho.inputs.pace, hrows] at h1
  have hrest := hk1.trans (setRank_eq ..)
  have hclean : k1.upsets = [] := (congrArg Core.upsets hrest :).trans ho.clean
  obtain ⟨k2, h2, hm2⟩ := advancePour_onCore h1 hclean 513
  have htv : t = advancePour g 513 (advanceRank g 1 u) := by
    rw [ht]
    unfold advanceCore
    rw [advanceRank_of_idle (h1.core ▸ rfl)]
  rw [← htv] at h2
  have hvin : SameInputs s v g := hv.sameInputs (ho.onCore.core ▸ ho.inputs.binding) (ho.onCore.core ▸ ho.inputs.image)
  rw [h2.core]
  have hfree : k2.rankFree = e + max (pace s * oF q.word 82 10) 96 := (congrArg Core.rankFree hm2 :)
  refine ⟨(congrArg Core.rankRun hm2 :), ?_, hfree, h2.running ?_, ?_⟩
  · exact (congrArg Core.aActive hm2 :).trans (congrArg Core.aActive hrest :)
  · rw [hfree]
    have hrunning : k2.running = k1.running.map (endsAt q _) := (congrArg Core.running hm2 :)
    rw [hrunning, show k1.running = k.running from (congrArg Core.running hrest :)]
    exact List.mem_map.mpr ⟨_, ho.awaits, endsAt_opRun ..⟩
  · have hbank : rankOf k2 (oB q.word 101) = rankBankWith v g q.word p e :=
      (congrArg (rankOf · (oB q.word 101)) hm2 :).trans <|
        (congrArg (rankOf · (oB q.word 101)) hk1 :).trans (rankOf_setRank_self ..)
    have hold : (rankOf (coreOf v g) (oB q.word 101)).vals =
        if oB q.word 102 then [] else (rankOf (coreOf s g) (oB q.word 101)).vals := by
      rw [hv.core]
      exact (congrArg Bank.vals ho.bank :)
    rw [hbank, ← hrows, rankBankWith_take hvin _ hrow, hold, hv.core]

end

theorem rankRun_holds {s : State} {core : BitVec 7} {stream : Bool} {q : QOp} (hc : Canon s)
    (hs : starting s core.toNat 0x20 stream = some q) (hr : opRuleOk q.word = true)
    (hu : (coreOf s core.toNat).upsets = [])
    (hchain : chainOk (rankOf (coreOf s core.toNat) (oB q.word 101)) (oB q.word 102) (oF q.word 82 10) = true) :
    ∃ t, exec (.rankRun core stream) s = .next t ∧
      (∃ c, (rankOf (coreOf t core.toNat) (oB q.word 101)).chain = some c ∧ c.rows = oF q.word 82 10 ∧ c.cols = 64 ∧
        c.last = oB q.word 103) ∧
      rankOf (coreOf t core.toNat) (!oB q.word 101) = rankOf (coreOf s core.toNat) (!oB q.word 101) ∧
      t.mem = s.mem ∧ CoreFrame s t core.toNat ∧
      (∀ (g : Option Nat) (xs : List RingSlice) (e : Nat),
        rankPieces s core.toNat q.word = [{ seg := g, row := 0, rows := oF q.word 82 10 }] →
        pieceSlices s core.toNat q { seg := g, row := 0, rows := oF q.word 82 10 } = some xs →
        e = max s.clock
          (max (if oB q.word 102 then s.clock else (coreOf s core.toNat).rankSwitch) (arrival xs) + 96) →
        (coreOf t core.toNat).rankRun = none ∧ (coreOf t core.toNat).aActive = aSetOf (sliceOf xs false) ∧
        (coreOf t core.toNat).rankFree = e + max (pace s * oF q.word 82 10) 96 ∧
        Running t core.toNat q (coreOf t core.toNat).rankFree 0 ∧
        (rankOf (coreOf t core.toNat) (oB q.word 101)).vals.take (oF q.word 82 10) =
          (List.range (oF q.word 82 10)).map fun i =>
            (rankRow s core.toNat q.word (aSetOf (sliceOf xs false))
              ((if oB q.word 102 then [] else (rankOf (coreOf s core.toNat) (oB q.word 101)).vals).getD i [])
              (coreOffset s core.toNat + (e - s.clock) + pace s * i + 200) i).map fun y => y.1) := by
  obtain ⟨u, k, ho, hrun⟩ := rankRun_opens hc hu hchain
  rw [exec_rankRun]
  refine ⟨_, onOp_of_starting hs hr _, ?_⟩
  rw [hrun]
  obtain ⟨hbank, hother, hmem, hframe⟩ := rankRun_chains ho _ rfl
  refine ⟨hbank, hother, hmem, hframe, fun sg xs e hps hxs he => ?_⟩
  rw [hps]
  exact rankRun_of_one_piece ho hps hxs rfl rfl he rfl

/-- Settles O14: the load, the array's chain and the rank lane's, each by what its op makes of its core. -/
theorem arrayOpsLoadAndRun : Obligations.ArrayOpsLoadAndRun := by
  unfold Obligations.ArrayOpsLoadAndRun
  refine ⟨fun s core stream q side rs hi hs hr hside hrs => ?_, fun s core stream q x hi hs hr hu => ?_,
    fun s core stream q hi hs hr hu => rankRun_holds (canon_iff_inv.mpr hi) hs hr hu⟩
  · subst hrs
    exact ⟨mmaLoad_fills (canon_iff_inv.mpr hi) hs hr hside, mmaLoad_aborts (canon_iff_inv.mpr hi) hs hr hside⟩
  · exact mmaRun_chains (canon_iff_inv.mpr hi) hs hr hu

end Sys2Proof.Machine
end

section
/-! O16. The vector unit. -/

namespace Sys2Proof.Machine

/-! ### Writes to tile memory -/

/-- Package memory once bytes are written at a byte offset of a core's tile memory. -/
def tileMem (g off : Nat) (bs : List Byte) (m : Mem) : Mem :=
  (chunk 0x400000 ((bs.drop (bs.take (0x400000 - off % 0x400000)).length).length / 0x400000 + 1)
    (bs.drop (bs.take (0x400000 - off % 0x400000)).length)).foldl (fun m c => memWrite m (tileBase g) c)
      (memWrite m (tileBase g + off % 0x400000) (bs.take (0x400000 - off % 0x400000)))

theorem memWf_tileMem {g off : Nat} {bs : List Byte} {m : Mem} (h : memWf m = true) : memWf (tileMem g off bs m) = true :=
  memWf_foldl_write _ _ _ (memWf_write _ _ _ h)

theorem tileWrite_mem (g off : Nat) (bs : List Byte) (s : State) : (tileWrite g off bs s).mem = tileMem g off bs s.mem := by
  unfold tileWrite
  dsimp only
  split <;> rfl

theorem length_of_mem_chunk {α : Type} {n fuel : Nat} {l c : List α} (h : c ∈ chunk n fuel l) : c.length ≤ n := by
  induction fuel generalizing l with
  | zero => nomatch h
  | succ fuel ih =>
    unfold chunk at h
    split at h
    · nomatch h
    · rcases List.mem_cons.mp h with rfl | h
      · exact List.length_take_le ..
      · exact ih h

/-- Writes of at most 4 MiB from the base of a core's tile memory upwards leave every byte outside it as it was. -/
theorem memByte_foldl_write_other {g a : Nat} (ha : a < tileBase g ∨ tileBase g + 0x400000 ≤ a) {cs : List (List Byte)}
    (hcs : ∀ c ∈ cs, c.length ≤ 0x400000) {m : Mem} (hm : memWf m = true) :
    memByte (cs.foldl (fun m c => memWrite m (tileBase g) c) m) a = memByte m a := by
  induction cs generalizing m with
  | nil => rfl
  | cons c cs ih =>
    have hc := hcs c (List.mem_cons_self ..)
    rw [List.foldl_cons, ih (fun c hc => hcs c (List.mem_cons_of_mem _ hc)) (memWf_write _ _ _ hm),
      memByte_write_other _ _ _ _ hm (by omega)]

theorem memByte_tileMem_other {g a : Nat} (ha : a < tileBase g ∨ tileBase g + 0x400000 ≤ a) (off : Nat) (bs : List Byte)
    {m : Mem} (hm : memWf m = true) : memByte (tileMem g off bs m) a = memByte m a := by
  have hoff : off % 0x400000 < 0x400000 := Nat.mod_lt _ (by decide)
  have hlen : (bs.take (0x400000 - off % 0x400000)).length ≤ 0x400000 - off % 0x400000 := List.length_take_le ..
  unfold tileMem
  rw [memByte_foldl_write_other ha (fun c hc => length_of_mem_chunk hc) (memWf_write _ _ _ hm),
    memByte_write_other _ _ _ _ hm (by omega)]

/-- Package memory once rows are written at a stride. -/
def rowsMem (g base stride : Nat) (rows : List (List Byte)) (m : Mem) : Mem :=
  (indexed rows).foldl (fun m r => tileMem g (base + stride * r.1) r.2 m) m

theorem writeRows_mem (g base stride : Nat) (rows : List (List Byte)) (s : State) :
    (writeRows g base stride rows s).mem = rowsMem g base stride rows s.mem := by
  unfold writeRows rowsMem
  generalize indexed rows = l
  induction l generalizing s with
  | nil => rfl
  | cons r l ih => rw [List.foldl_cons, List.foldl_cons, ih, tileWrite_mem]

/-- Bytes outside the tile memory of core `g` read alike in two memories, the second in canonical form. -/
def OutsideTile (g : Nat) (m m' : Mem) : Prop :=
  memWf m' = true ∧ ∀ a, a < tileBase g ∨ tileBase g + 0x400000 ≤ a → memByte m' a = memByte m a

theorem OutsideTile.tileMem {g : Nat} {m m' : Mem} (h : OutsideTile g m m') (off : Nat) (bs : List Byte) :
    OutsideTile g m (tileMem g off bs m') := by
  obtain ⟨hm, hout⟩ := h
  exact ⟨memWf_tileMem hm, fun a ha => (memByte_tileMem_other ha off bs hm).trans (hout a ha)⟩

theorem OutsideTile.rowsMem {g : Nat} {m m' : Mem} (h : OutsideTile g m m') (base stride : Nat) (rows : List (List Byte)) :
    OutsideTile g m (rowsMem g base stride rows m') := by
  unfold Machine.rowsMem
  generalize indexed rows = l
  induction l generalizing m' with
  | nil => exact h
  | cons r l ih => exact ih (h.tileMem ..)

/-- The bytes of an element, and its bits. -/
theorem eight_mul_elemBytes (b : Bool) : 8 * (if b then 2 else 4) = if b then 16 else 32 := by
  cases b <;> rfl

/-! ### A vector op that runs -/

/-- The vector op `q`, which starts in `s`, runs in `t` with memory `m`: no byte outside the tile memory of its core has
changed. -/
def VecRuns (s t : State) (g : Nat) (q : QOp) (m : Mem) : Prop :=
  ∃ k, OnCore s t g m k ∧ k.vecFree = s.clock + pace s * vecIssue q.word ∧
    opRun q (s.clock + opDur s g q.word) 0 ∈ k.running ∧ OutsideTile g s.mem m

namespace VecRuns

variable {s t : State} {g : Nat} {q : QOp} {m : Mem} (h : VecRuns s t g q m)
include h

theorem tileWrite (off : Nat) (bs : List Byte) : VecRuns s (tileWrite g off bs t) g q (tileMem g off bs m) := by
  obtain ⟨k, ⟨hc, hf, rfl, hk⟩, hfree, hrun, hout⟩ := h
  unfold Machine.tileWrite
  extract_lets o head rest m' t'
  have ht : OnCore s t' g (tileMem g off bs t.mem) k :=
    ⟨hc.withMem fun _ => memWf_tileMem hc.mem, hf.trans ⟨rfl, fun _ _ => rfl⟩, rfl, hk⟩
  split
  · exact ⟨k, ht, hfree, hrun, hout.tileMem ..⟩
  · exact ⟨_, ht.updCore _, hfree, hrun, hout.tileMem ..⟩

theorem writeRows (base stride : Nat) (rows : List (List Byte)) :
    VecRuns s (writeRows g base stride rows t) g q (rowsMem g base stride rows m) := by
  unfold Machine.writeRows rowsMem
  generalize indexed rows = l
  induction l generalizing t m with
  | nil => exact h
  | cons r l ih => exact ih (h.tileWrite ..)

theorem opEvents (lane : Nat) (index : BitVec 16) (classes : List Nat) :
    VecRuns s (opEvents g lane index classes t) g q m := by
  obtain ⟨k, hk, hrest⟩ := h
  exact ⟨k, hk.opEvents .., hrest⟩

theorem ends : t.mem = m ∧ (coreOf t g).vecFree = s.clock + pace s * vecIssue q.word ∧
    Running t g q (s.clock + opDur s g q.word) 0 ∧ OnlyTile s t g ∧ CoreFrame s t g := by
  obtain ⟨k, hk, hfree, hrun, -, hout⟩ := h
  refine ⟨hk.mem, hk.core ▸ hfree, hk.running hrun, fun a ha => ?_, hk.frame⟩
  rw [hk.mem, hout a ha]

end VecRuns

theorem opDur_of_vector {w : BitVec 128} (hop : oOp w = 0x50 ∨ oOp w = 0x51 ∨ oOp w = 0x52) (s : State) (g : Nat) :
    opDur s g w = pace s * vecIssue w + (vecRate w).2 := by
  unfold opDur
  rcases hop with hop | hop | hop <;> simp only [hop]

theorem vecRun_runs {s : State} {g : Nat} {q : QOp} (hc : Canon s)
    (hop : oOp q.word = 0x50 ∨ oOp q.word = 0x51 ∨ oOp q.word = 0x52) (rs : List MemRange) :
    VecRuns s (vecRun g q (startedReading g q rs s)) g q s.mem := by
  obtain ⟨k, hk, htaken⟩ := startedReading_onCore hc g q rs
  have hin := htaken.sameInputs hk
  have hdur : opDur (startedReading g q rs s) g q.word = opDur s g q.word := by
    rw [opDur_of_vector hop, opDur_of_vector hop, hin.pace]
  unfold vecRun
  rw [hdur, hin.clock, hin.pace]
  exact ⟨_, ((hk.updCore _).count ..).runFor .., rfl, List.mem_append_right _ (List.mem_singleton_self _), hc.mem,
    fun _ _ => rfl⟩

/-! ### What the vector unit reads -/

namespace SameInputs

variable {s t : State} {g : Nat} (h : SameInputs s t g)
include h

theorem vecElem (bf16 : Bool) (off : Nat) : vecElem t g bf16 off = vecElem s g bf16 off := by
  unfold Machine.vecElem
  rw [h.tile16, h.tile32]

theorem vecRm (sr : Bool) (perRow rate row c : Nat) : vecRm t g sr perRow rate row c = vecRm s g sr perRow rate row c := by
  unfold Machine.vecRm
  rw [h.coreRounding, h.coreOffset, h.pace]

theorem ewB (w : BitVec 128) (n r c : Nat) : ewB t g w n r c = ewB s g w n r c := by
  unfold Machine.ewB
  simp only [h.vecElem, h.image]

theorem cvtSrc (w : BitVec 128) (n : Nat) : cvtSrc t g w n = cvtSrc s g w n := by
  funext r c
  unfold Machine.cvtSrc
  simp only [h.tile32, h.tile16, h.tile8]

end SameInputs

/-! ### VEC_EW -/

/-- The rows that a VEC.EW writes. -/
def ewRows (s : State) (g : Nat) (w : BitVec 128) (n : Nat) : List (List Byte) :=
  (List.range (vecShape w).1).map fun r =>
    (encodeElems (oB w 117) ((List.range n).map fun c =>
      (ewFn (vecRm s g (oB w 118) ((n + (vecRate w).1 - 1) / (vecRate w).1) (vecRate w).1 r c) (oB w 119) (oF w 32 5)
        (vecElem s g (oB w 115) (64 * oF w 37 16 + r * rowStride n (if oB w 115 then 16 else 32) +
          (if oB w 115 then 2 else 4) * c))
        (ewB s g w n r c)
        (vecElem s g (oB w 117) (64 * oF w 69 16 + r * rowStride n (if oB w 117 then 16 else 32) +
          (if oB w 117 then 2 else 4) * c))).1)).1

theorem SameInputs.ewRows {s t : State} {g : Nat} (h : SameInputs s t g) (w : BitVec 128) (n : Nat) :
    ewRows t g w n = ewRows s g w n := by
  unfold Machine.ewRows
  simp only [h.vecElem, h.vecRm, h.ewB]

theorem vecEw_of_good {s u : State} {g : Nat} {q : QOp} {n : Nat} (hn : n = (vecShape q.word).2)
    (hu : u = correctReads g (tileRanges (vecReads q.word)) s)
    (hgood : readFails s g (tileRanges (vecReads q.word)) = false) :
    ∃ classes, vecEw g q s = opEvents g 2 q.index classes (writeRows g (64 * oF q.word 69 16)
      (rowStride n (if oB q.word 117 then 16 else 32)) (ewRows u g q.word n) (vecRun g q u)) := by
  subst hn hu
  unfold vecEw withReads
  refine ⟨_, (withReadsOf_of_good hgood q _).trans (congrArg (opEvents g 2 q.index _) ?_)⟩
  unfold ewRows
  simp only [List.map_map, Function.comp_def, eight_mul_elemBytes]

theorem vecEw_writes {s : State} {core : BitVec 7} {stream : Bool} {q : QOp} {n : Nat} (hc : Canon s)
    (hs : starting s core.toNat 0x50 stream = some q) (hr : opRuleOk q.word = true)
    (hgood : readFails s core.toNat (tileRanges (vecReads q.word)) = false) (hn : n = (vecShape q.word).2) :
    ∃ t : State, exec (.vecEw core stream) s = .next t ∧
      t.mem = (writeRows core.toNat (64 * oF q.word 69 16) (rowStride n (if oB q.word 117 then 16 else 32))
        (ewRows s core.toNat q.word n) s).mem ∧
      (coreOf t core.toNat).vecFree = s.clock + pace s * vecIssue q.word ∧
      Running t core.toNat q (s.clock + opDur s core.toNat q.word) 0 ∧ OnlyTile s t core.toNat ∧
      CoreFrame s t core.toNat := by
  obtain ⟨k, hk, htaken⟩ := startedReading_onCore hc core.toNat q (tileRanges (vecReads q.word))
  have hin := htaken.sameInputs hk
  obtain ⟨classes, ht⟩ := vecEw_of_good (u := startedReading core.toNat q (tileRanges (vecReads q.word)) s) hn rfl
    ((readFails_started hc ..).trans hgood)
  rw [hin.ewRows] at ht
  rw [writeRows_mem]
  exact ⟨_, (onOp_of_starting hs hr _).trans (congrArg _ ht),
    (((vecRun_runs hc (.inl (starting_op hs)) _).writeRows ..).opEvents ..).ends⟩

/-! ### VEC_CVT -/

/-- The exponents of the scale blocks that a VEC.CVT writes. -/
def cvtScales (w : BitVec 128) (n : Nat) (v : Nat → Nat → Val) : List Int :=
  if 2 ≤ oF w 35 3 then cvtExps (oF w 38 2) (vecShape w).1 n (oF w 35 3 = 3) v else []

/-- State `u` once a VEC.CVT of the values `v` has written its rows and then its block scales. -/
def cvtWrite (g : Nat) (w : BitVec 128) (n : Nat) (exps : List Int) (v : Nat → Nat → Val) (u : State) : State :=
  if exps.isEmpty then
    writeRows g (64 * oF w 56 16) (rowStride n (cvtBits (oF w 35 3)))
      ((List.range (vecShape w).1).map fun r => (cvtRow w n r exps v).1) u
  else tileWrite g (oF w 72 22) (exps.map fun e => BitVec.ofInt 8 (e + 127))
    (writeRows g (64 * oF w 56 16) (rowStride n (cvtBits (oF w 35 3)))
      ((List.range (vecShape w).1).map fun r => (cvtRow w n r exps v).1) u)

theorem VecRuns.cvtWrite {s t : State} {g : Nat} {q : QOp} (h : VecRuns s t g q s.mem) (w : BitVec 128) (n : Nat)
    (exps : List Int) (v : Nat → Nat → Val) :
    VecRuns s (cvtWrite g w n exps v t) g q (cvtWrite g w n exps v s).mem := by
  unfold Machine.cvtWrite
  split
  · rw [writeRows_mem]
    exact h.writeRows ..
  · rw [tileWrite_mem, writeRows_mem]
    exact (h.writeRows ..).tileWrite ..

theorem vecCvt_of_good {s u : State} {g : Nat} {q : QOp} {n : Nat} {exps : List Int} (hn : n = (vecShape q.word).2)
    (hu : u = correctReads g (tileRanges (vecReads q.word)) s)
    (hexps : exps = cvtScales q.word n (cvtSrc u g q.word n))
    (hgood : readFails s g (tileRanges (vecReads q.word)) = false) :
    ∃ classes, vecCvt g q s = opEvents g 2 q.index classes
      (cvtWrite g q.word n exps (cvtSrc u g q.word n) (vecRun g q u)) := by
  subst hn hu hexps
  unfold vecCvt withReads
  refine ⟨_, (withReadsOf_of_good hgood q _).trans (congrArg (opEvents g 2 q.index _) ?_)⟩
  unfold cvtWrite cvtScales
  simp only [List.map_map, Function.comp_def]

theorem vecCvt_writes {s : State} {core : BitVec 7} {stream : Bool} {q : QOp} {n : Nat} {exps : List Int} (hc : Canon s)
    (hs : starting s core.toNat 0x51 stream = some q) (hr : opRuleOk q.word = true)
    (hgood : readFails s core.toNat (tileRanges (vecReads q.word)) = false) (hn : n = (vecShape q.word).2)
    (hexps : exps = cvtScales q.word n (cvtSrc s core.toNat q.word n)) :
    ∃ t : State, exec (.vecCvt core stream) s = .next t ∧
      t.mem = (cvtWrite core.toNat q.word n exps (cvtSrc s core.toNat q.word n) s).mem ∧
      (coreOf t core.toNat).vecFree = s.clock + pace s * vecIssue q.word ∧
      Running t core.toNat q (s.clock + opDur s core.toNat q.word) 0 ∧ OnlyTile s t core.toNat ∧
      CoreFrame s t core.toNat := by
  obtain ⟨k, hk, htaken⟩ := startedReading_onCore hc core.toNat q (tileRanges (vecReads q.word))
  have hsrc := (htaken.sameInputs hk).cvtSrc q.word n
  obtain ⟨classes, ht⟩ := vecCvt_of_good (u := startedReading core.toNat q (tileRanges (vecReads q.word)) s) hn rfl
    (hexps.trans (by rw [hsrc])) ((readFails_started hc ..).trans hgood)
  rw [hsrc] at ht
  exact ⟨_, (onOp_of_starting hs hr _).trans (congrArg _ ht),
    (((vecRun_runs hc (.inr (.inl (starting_op hs))) _).cvtWrite ..).opEvents ..).ends⟩

/-! ### VEC_ROW -/

/-- The bytes that a VEC.ROW writes, its rows in order. -/
def vecRowBytes (s : State) (g : Nat) (w : BitVec 128) (n : Nat) : List Byte :=
  (List.range (vecShape w).1).flatMap fun r =>
    (rowFn (oF w 32 3) (oB w 97) (fun c i => vecRm s g (oB w 96) ((n + 255) / 256) 256 r (256 * c + i))
      ((List.range n).map fun c => vecElem s g (oB w 95) (64 * oF w 35 16 +
        r * rowStride n (if oB w 95 then 16 else 32) + (if oB w 95 then 2 else 4) * c))).flatMap fun x => wordBytes x.1

theorem SameInputs.vecRowBytes {s t : State} {g : Nat} (h : SameInputs s t g) (w : BitVec 128) (n : Nat) :
    vecRowBytes t g w n = vecRowBytes s g w n := by
  unfold Machine.vecRowBytes
  simp only [h.vecElem, h.vecRm]

theorem vecRow_of_good {s u : State} {g : Nat} {q : QOp} {n : Nat} (hn : n = (vecShape q.word).2)
    (hu : u = correctReads g (tileRanges (vecReads q.word)) s)
    (hgood : readFails s g (tileRanges (vecReads q.word)) = false) :
    ∃ classes, vecRow g q s = opEvents g 2 q.index classes
      (tileWrite g (64 * oF q.word 51 16) (vecRowBytes u g q.word n) (vecRun g q u)) := by
  subst hn hu
  unfold vecRow withReads
  refine ⟨_, (withReadsOf_of_good hgood q _).trans (congrArg (opEvents g 2 q.index _) ?_)⟩
  unfold vecRowBytes
  simp only [List.flatMap_map, eight_mul_elemBytes]

theorem vecRow_writes {s : State} {core : BitVec 7} {stream : Bool} {q : QOp} {n : Nat} (hc : Canon s)
    (hs : starting s core.toNat 0x52 stream = some q) (hr : opRuleOk q.word = true)
    (hgood : readFails s core.toNat (tileRanges (vecReads q.word)) = false) (hn : n = (vecShape q.word).2) :
    ∃ t : State, exec (.vecRow core stream) s = .next t ∧
      t.mem = (tileWrite core.toNat (64 * oF q.word 51 16) (vecRowBytes s core.toNat q.word n) s).mem ∧
      (coreOf t core.toNat).vecFree = s.clock + pace s * vecIssue q.word ∧
      Running t core.toNat q (s.clock + opDur s core.toNat q.word) 0 ∧ OnlyTile s t core.toNat ∧
      CoreFrame s t core.toNat := by
  obtain ⟨k, hk, htaken⟩ := startedReading_onCore hc core.toNat q (tileRanges (vecReads q.word))
  obtain ⟨classes, ht⟩ := vecRow_of_good (u := startedReading core.toNat q (tileRanges (vecReads q.word)) s) hn rfl
    ((readFails_started hc ..).trans hgood)
  rw [(htaken.sameInputs hk).vecRowBytes] at ht
  rw [tileWrite_mem]
  exact ⟨_, (onOp_of_starting hs hr _).trans (congrArg _ ht),
    (((vecRun_runs hc (.inr (.inr (starting_op hs))) _).tileWrite ..).opEvents ..).ends⟩

/-- Settles O16: each op writes to its tile memory, after the vector unit has been taken, what it forms of its operands. -/
theorem vectorOpsWriteTheirRows : Obligations.VectorOpsWriteTheirRows := by
  unfold Obligations.VectorOpsWriteTheirRows
  refine ⟨fun s core stream q n hi hs hr hgood hn => vecEw_writes (canon_iff_inv.mpr hi) hs hr hgood hn,
    fun s core stream q n exps u hi hs hr hgood hn hexps hu => ?_,
    fun s core stream q n hi hs hr hgood hn => vecRow_writes (canon_iff_inv.mpr hi) hs hr hgood hn⟩
  subst hu
  exact vecCvt_writes (canon_iff_inv.mpr hi) hs hr hgood hn hexps

end Sys2Proof.Machine
end

section
/-! O15. The EPI slots, and a pour as its rows become final. -/

namespace Sys2Proof.Machine

/-! ### The EPI slots -/

theorem SameInputs.epiIndex {s t : State} {g : Nat} (h : SameInputs s t g) (b : Bool) (n : Nat) :
    epiIndex t g b n = epiIndex s g b n := by
  unfold Machine.epiIndex
  rw [h.image]

theorem epiOf_setEpi {e : EpiSlot} (he : e.valid = true) (n : Nat) (k : Core) : epiOf (setEpi n e k) n = e :=
  sget_sput_self _ _ _ (by rintro rfl; exact nomatch he) _

/-- Op `q` of core `g` has started and left EPI slot `n` as `e`: it runs one cycle. -/
theorem setEpi_runs {s : State} (hc : Canon s) (g : Nat) (q : QOp) (n : Nat) {e : EpiSlot} (he : e.valid = true) :
    let t := runFor g q 1 0 (updCore g (setEpi n e) (started g q s))
    epiOf (coreOf t g) n = e ∧ Running t g q (s.clock + 1) 0 ∧ t.mem = s.mem ∧ CoreFrame s t g := by
  obtain ⟨k, hk, -, -⟩ := started_onCore hc g q
  have h := (hk.updCore (setEpi n e)).runFor q 1 0
  exact ⟨h.core ▸ epiOf_setEpi he n k, h.running (List.mem_append_right _ (List.mem_singleton_self _)), h.mem, h.frame⟩

/-- An EPI op on a valid slot, at its start. -/
theorem epiChange_started {s : State} (hc : Canon s) (g : Nat) (q : QOp) (f : EpiSlot → EpiSlot) {e : EpiSlot}
    (he : epiOf (coreOf s g) (epiIndex s g q.stream (oF q.word 32 3)) = e) (hv : e.valid = true) :
    epiChange g q f (started g q s) =
      runFor g q 1 0 (updCore g (setEpi (epiIndex s g q.stream (oF q.word 32 3)) (f e)) (started g q s)) := by
  obtain ⟨k, hk, htaken, -⟩ := started_onCore hc g q
  have hslot (n : Nat) : epiOf k n = epiOf (coreOf s g) n := (congrArg (epiOf · n) htaken :)
  unfold epiChange
  dsimp only
  rw [(htaken.sameInputs hk).epiIndex, hk.core, hslot, he, if_pos hv]

/-- The EPI slot that EPI.SET0 makes of its word. -/
def freshSlot (w : BitVec 128) : EpiSlot :=
  { valid := true, st := BitVec.ofNat 32 (oF w 35 32), s := 0x3F800000, alpha := 0x3F800000,
    eout := BitVec.ofNat 8 (oF w 67 8), act := BitVec.ofNat 3 (oF w 75 3), deriv := oB w 78,
    ofmt := BitVec.ofNat 2 (oF w 79 2), exp := oB w 81, scl := oB w 82, bias := oB w 83, vsrc := oB w 84,
    staddr := BitVec.ofNat 20 (oF w 85 20) }

theorem epiSet0_started {s : State} (hc : Canon s) (g : Nat) (q : QOp) : epiSet0 g q (started g q s) =
    runFor g q 1 0 (updCore g (setEpi (epiIndex s g q.stream (oF q.word 32 3)) (freshSlot q.word)) (started g q s)) := by
  obtain ⟨k, hk, htaken, -⟩ := started_onCore hc g q
  unfold epiSet0
  rw [← (htaken.sameInputs hk).epiIndex]
  rfl

/-! ### The pieces and rows of a pour -/

namespace SameInputs

variable {s t : State} {g : Nat} (h : SameInputs s t g)
include h

theorem segsOver (n base rows : Nat) : segsOver t g n base rows = segsOver s g n base rows := by
  unfold Machine.segsOver slotGroup
  rw [h.binding, h.entryNow, h.slotCtlAt, h.coreOwnerD, h.tableOf]

theorem pourPieces (w : BitVec 128) (e : EpiSlot) : pourPieces t g w e = pourPieces s g w e := by
  unfold Machine.pourPieces
  rw [h.segsOver]

theorem inTime (c : Nat) : inTime t g c = inTime s g c := by
  unfold Machine.inTime passesDeadline deadline
  rw [h.binding]
  exact (congrArg (fun v => decide ((coreTime v g).toInt + ((c - v.clock : Nat) : Int) ≤
    (if isTrain (coreOf s g).binding && isCommitSteep v then waveTime v else guardTime v).toInt)) h.rest :)

omit h in
theorem pieceFinals_of_banks (hacc : ∀ b, accOf (coreOf t g) b = accOf (coreOf s g) b)
    (hrank : ∀ b, rankOf (coreOf t g) b = rankOf (coreOf s g) b) (p : Pour) (x : Piece) :
    pieceFinals t g p x = pieceFinals s g p x := by
  unfold Machine.pieceFinals
  simp only [hacc, hrank]

theorem pourRow (hacc : ∀ b, accOf (coreOf t g) b = accOf (coreOf s g) b)
    (hrank : ∀ b, rankOf (coreOf t g) b = rankOf (coreOf s g) b) (p : Pour) (b : List (BitVec 16))
    (sc : Option (List (BitVec 16))) (i : Nat) : pourRow t g p b sc i = pourRow s g p b sc i := by
  unfold Machine.pourRow pourCols vCol zCol
  simp only [hacc, hrank, h.tile32, h.tile16]

end SameInputs

theorem pieceFinals_of_op_slot {p p' : Pour} (hop : p.op = p'.op) (hslot : p.slot = p'.slot) (s : State) (g : Nat)
    (x : Piece) : pieceFinals s g p x = pieceFinals s g p' x := by
  unfold pieceFinals
  rw [hop, hslot]

theorem pourRow_of_op_slot {p p' : Pour} (hop : p.op = p'.op) (hslot : p.slot = p'.slot) (s : State) (g : Nat) :
    pourRow s g p = pourRow s g p' := by
  funext b sc i
  unfold pourRow pourCols
  rw [hop, hslot]

/-- No row is read before its turn. -/
theorem le_of_mem_readClocks {step turn b c : Nat} {fs : List Nat} (h : c ∈ readClocks step turn b fs) : turn ≤ c := by
  induction fs generalizing turn with
  | nil => nomatch h
  | cons f fs ih =>
    unfold readClocks at h
    rcases List.mem_cons.mp h with rfl | h
    · exact Nat.le_max_left ..
    · have := ih h
      omega

/-! ### One piece of a pour -/

/-- The clock from which the rows of a piece can be read: its B slice is loaded, where the pour loads any. -/
def sliceClock (p : Pour) (sl : List RingSlice) : Nat :=
  if pourLoads p.slot then max p.loadFrom (arrival sl) + 64 else p.rowFrom

/-- The clock at which the last row of a piece is read. -/
def lastRead (step : Nat) (p : Pour) (sl : List RingSlice) (finals : List Nat) : Nat :=
  (readClocks step p.rowFrom (sliceClock p sl) finals).getLast?.getD (sliceClock p sl)

theorem rowFrom_le_lastRead {p : Pour} (hload : p.rowFrom ≤ p.loadFrom) (step : Nat) (sl : List RingSlice)
    (finals : List Nat) : p.rowFrom ≤ lastRead step p sl finals := by
  unfold lastRead
  cases hr : (readClocks step p.rowFrom (sliceClock p sl) finals).getLast? with
  | some c => exact le_of_mem_readClocks (List.mem_of_getLast? hr)
  | none =>
    rw [Option.getD_none]
    unfold sliceClock
    split <;> omega

/-- Pour `p` once the rows of piece `x` have been read in state `s`, its B slice loaded and the pieces `xs` still to come. -/
def pouredOn (s : State) (g : Nat) (p : Pour) (x : Piece) (xs : List Piece) (sl : List RingSlice) (finals : List Nat) :
    Pour :=
  { p with
    left := xs, loadFrom := (readClocks (pace s) p.rowFrom (sliceClock p sl) finals).headD (sliceClock p sl),
    rowFrom := lastRead (pace s) p sl finals + pace s, bank := if pourLoads p.slot then !p.bank else p.bank,
    out := p.out ++ (List.range x.rows).map fun i =>
      pourRow s g p (bBankOf (coreOf s g) p.bank) (sliceOf sl true) (x.row + i),
    endAt := lastRead (pace s) p sl finals + 16 }

/-- Pour `p` once the last of its rows has been read. -/
def passed (p : Pour) (classes : List Nat) : Pour :=
  { p with saturated := saturations p (slotEout p.slot), raised := classes }

/-- Pour `p'` is pour `p` gone on within its first pass. -/
structure GoesOn (p p' : Pour) : Prop where
  op : p'.op = p.op
  slot : p'.slot = p.slot
  pieces : p'.pieces = p.pieces
  recomputed : p'.recomputed = p.recomputed

theorem GoesOn.trans {p p' p'' : Pour} (h : GoesOn p p') (h' : GoesOn p' p'') : GoesOn p p'' :=
  ⟨h'.op.trans h.op, h'.slot.trans h.slot, h'.pieces.trans h.pieces, h'.recomputed.trans h.recomputed⟩

section
variable {s t : State} {g : Nat} {m : Mem} {k : Core} (h : OnCore s t g m k) (hu : k.upsets = [])
include h hu

/-- The B slice of a piece is loaded, where the pour loads any. -/
theorem pourLoad_onCore (p : Pour) (x : Piece) (sl : List RingSlice) : ∃ k',
    OnCore s (if pourLoads p.slot then loadB g p.op x sl p.bank (sliceClock p sl) t else t) g m k' ∧ PourMoved k k' ∧
    bBankOf k' p.bank = if pourLoads p.slot then bSetOf (sliceOf sl false) else bBankOf k p.bank := by
  split
  · obtain ⟨rings, h1⟩ := loadEnds_onCore h p.op x (sliceClock p sl)
    have h2 := h1.updCore_of_eq (f := fun k => rewritten (.bBank p.bank) 0x8000 (setB p.bank (bSetOf (sliceOf sl false)) k))
      (rewritten_of_clean (by cases p.bank <;> exact hu) ..)
    exact ⟨_, h2, by cases p.bank <;> rfl, by cases p.bank <;> rfl⟩
  · exact ⟨k, h, rfl, rfl⟩

/-- A piece of a pour: state `u` is the one in which its B slice is loaded. -/
theorem pourStep_pours (p : Pour) (x : Piece) (xs : List Piece) (sl : List RingSlice) (finals : List Nat) :
    ∃ u k' classes, OnCore s u g m k' ∧ PourMoved k k' ∧
      bBankOf k' p.bank = (if pourLoads p.slot then bSetOf (sliceOf sl false) else bBankOf k p.bank) ∧
      OnCore s (pourStep g p x xs sl finals t) g m { k' with
        pour := some (if xs.isEmpty then passed (pouredOn u g p x xs sl finals) classes
          else pouredOn u g p x xs sl finals) } := by
  obtain ⟨k', hk', hm, hb⟩ := pourLoad_onCore h hu p x sl
  unfold pourStep
  dsimp only
  rw [show (if pourLoads p.slot then max p.loadFrom (arrival sl) + 64 else p.rowFrom) = sliceClock p sl from rfl,
    hk'.withReadsOf (hm.upsets.trans hu)]
  generalize (if pourLoads p.slot then loadB g p.op x sl p.bank (sliceClock p sl) t else t) = u at hk' ⊢
  have hread (a b : Nat) := ((hk'.count g 0x04C a).count g 0x04D b).updCore fun k =>
    { k with pour := some (pouredOn u g p x xs sl finals) }
  cases xs with
  | nil => exact ⟨u, k', _, hk', hm, hb, ((hread _ _).updCore _).opEvents ..⟩
  | cons y ys => exact ⟨u, k', [], hk', hm, hb, hread _ _⟩

end

end Sys2Proof.Machine
end

section
/-! O15. POUR. -/

namespace Sys2Proof.Machine

/-- The pour of core `k` has the op, the slot, the pieces and the pass of pour `p`. -/
def PoursOn (p : Pour) (k : Core) : Prop := ∃ p', k.pour = some p' ∧ GoesOn p p'

theorem goesOn_pouredOn (s : State) (g : Nat) (p : Pour) (x : Piece) (xs : List Piece) (sl : List RingSlice)
    (finals classes : List Nat) : GoesOn p (if xs.isEmpty then passed (pouredOn s g p x xs sl finals) classes
      else pouredOn s g p x xs sl finals) := by
  split <;> exact ⟨rfl, rfl, rfl, rfl⟩

theorem advancePour_goesOn {s t : State} {g : Nat} {m : Mem} {k : Core} {p : Pour} (h : OnCore s t g m k)
    (hu : k.upsets = []) (hp : PoursOn p k) (n : Nat) : ∃ k', OnCore s (advancePour g n t) g m k' ∧ PoursOn p k' := by
  induction n generalizing t k with
  | zero => exact ⟨k, h, hp⟩
  | succ n ih =>
    unfold advancePour
    split
    · exact ⟨k, h, hp⟩
    next p0 hp0 =>
      split
      · exact ⟨k, h, hp⟩
      next x xs _ =>
        split
        next f sl _ _ =>
          obtain ⟨u, k1, classes, -, hm, -, h1⟩ := pourStep_pours h hu p0 x xs sl f
          refine ih h1 (hm.upsets.trans hu) ⟨_, rfl, ?_⟩
          obtain ⟨p', hp', hgo⟩ := hp
          obtain rfl : p' = p0 := Option.some.inj (hp'.symm.trans (h.core ▸ hp0))
          exact hgo.trans (goesOn_pouredOn ..)
        next => exact ⟨k, h, hp⟩

/-- A pour whose rows are all read does not go on. -/
theorem advancePour_of_read {s : State} {g : Nat} {p : Pour} (hp : (coreOf s g).pour = some p) (hl : p.left = [])
    (n : Nat) : advancePour g n s = s := by
  cases n with
  | zero => rfl
  | succ n =>
    unfold advancePour
    rw [hp]
    dsimp only
    rw [hl]

theorem advancePour_of_ready {s : State} {g : Nat} {p : Pour} {x : Piece} {xs : List Piece} {f : List Nat}
    {sl : List RingSlice} (hp : (coreOf s g).pour = some p) (hl : p.left = x :: xs) (hf : pieceFinals s g p x = some f)
    (hsl : pieceSlices s g p.op x = some sl) (n : Nat) :
    advancePour g (n + 1) s = advancePour g n (pourStep g p x xs sl f s) := by
  conv_lhs => unfold advancePour
  rw [hp]
  dsimp only
  rw [hl]
  dsimp only
  rw [hf, hsl]

/-- The pour of op `q` as it starts on core `g` with EPI slot `e`, every piece of it still to come. -/
def pourOf (s : State) (g : Nat) (q : QOp) (e : EpiSlot) : Pour :=
  { op := q, slot := e, left := pourPieces s g q.word e, pieces := pourPieces s g q.word e, loadFrom := s.clock,
    rowFrom := s.clock, bank := false, out := [], endAt := s.clock, raised := [], saturated := 0, recomputed := false,
    clamped := false }

/-- In state `u` with core `g` in state `k` the POUR `q` has latched EPI slot `e`, and no row of it has been read. -/
structure PourOpen (s u : State) (g : Nat) (q : QOp) (e : EpiSlot) (k : Core) : Prop where
  onCore : OnCore s u g s.mem k
  inputs : SameInputs s u g
  clean : k.upsets = []
  pour : k.pour = some (pourOf s g q e)
  acc : ∀ b, accOf (coreOf u g) b = accOf (coreOf s g) b
  rank : ∀ b, rankOf (coreOf u g) b = rankOf (coreOf s g) b
  rest : k.rankRun = (coreOf s g).rankRun ∧ k.rings = (coreOf s g).rings ∧ k.b0 = (coreOf s g).b0

theorem pourStart_opens {s : State} {g : Nat} {q : QOp} {e : EpiSlot} (hc : Canon s) (hu : (coreOf s g).upsets = [])
    (he : epiOf (coreOf s g) (epiIndex s g q.stream (oF q.word 32 3)) = e) (hv : e.valid = true) :
    ∃ k, PourOpen s (pourStart g q (started g q s)) g q e k := by
  obtain ⟨k, hk, htaken, hupsets⟩ := started_onCore hc g q
  have hin := htaken.sameInputs hk
  have hslot (n : Nat) : epiOf k n = epiOf (coreOf s g) n := (congrArg (epiOf · n) htaken :)
  have ht : pourStart g q (started g q s) =
      updCore g (fun k => { k with pour := some (pourOf s g q e) }) (started g q s) := by
    unfold pourStart
    dsimp only
    rw [hin.epiIndex, hk.core, hslot, he, if_neg (by rw [hv]; decide), hin.pourPieces, hin.clock]
    rfl
  rw [ht]
  have h := hk.updCore fun k => { k with pour := some (pourOf s g q e) }
  exact ⟨_, h, h.sameInputs (congrArg Core.binding htaken :) (congrArg Core.image htaken :), hupsets.trans hu, rfl,
    fun b => h.core ▸ (congrArg (accOf · b) htaken :), fun b => h.core ▸ (congrArg (rankOf · b) htaken :),
    (congrArg Core.rankRun htaken :), (congrArg Core.rings htaken :), (congrArg Core.b0 htaken :)⟩

section
variable {s u : State} {g : Nat} {q : QOp} {e : EpiSlot} {k : Core} (ho : PourOpen s u g q e k)
include ho

theorem pour_latches : ∃ p, (coreOf (advanceCore g u) g).pour = some p ∧ p.op = q ∧ p.slot = e ∧
    p.pieces = pourPieces s g q.word e ∧ p.recomputed = false ∧ (advanceCore g u).mem = s.mem ∧
    CoreFrame s (advanceCore g u) g := by
  obtain ⟨q', hq'⟩ := exists_rankOp k q
  obtain ⟨k1, h1, hm1⟩ := advanceRank_moves ho.onCore ho.clean hq' 513
  have hpour : k1.pour = some (pourOf s g q e) := (congrArg Core.pour hm1.rest :).trans ho.pour
  obtain ⟨k2, h2, p, hp, hgo⟩ := advancePour_goesOn h1 (hm1.upsets.trans ho.clean) ⟨_, hpour, rfl, rfl, rfl, rfl⟩ 513
  exact ⟨p, h2.core ▸ hp, hgo.op, hgo.slot, hgo.pieces, hgo.recomputed, h2.mem, h2.frame⟩

theorem advanceCore_of_one_piece {x : Piece} {f : List Nat} {sl : List RingSlice}
    (hidle : (coreOf s g).rankRun = none) (hx : pourPieces s g q.word e = [x])
    (hf : pieceFinals s g (pourOf s g q e) x = some f) (hsl : pieceSlices s g q x = some sl) :
    advanceCore g u = advancePour g 512 (pourStep g (pourOf s g q e) x [] sl f u) := by
  obtain ⟨hrun, hrings, -⟩ := ho.rest
  have hcore := ho.onCore.core
  unfold advanceCore
  rw [advanceRank_of_idle (hcore ▸ hrun.trans hidle)]
  exact advancePour_of_ready (hcore ▸ ho.pour) hx ((SameInputs.pieceFinals_of_banks ho.acc ho.rank ..).trans hf)
    ((ho.inputs.pieceSlices (hcore ▸ hrings) q x).trans hsl) 512

/-- A pour of one piece whose rows are final and whose slices are in the ring has read them all. -/
theorem pour_reads_one_piece {p : Pour} {x : Piece} {f : List Nat} {sl : List RingSlice}
    (hp : (coreOf (advanceCore g u) g).pour = some p) (hop : p.op = q) (hslot : p.slot = e)
    (hidle : (coreOf s g).rankRun = none) (hx : pourPieces s g q.word e = [x])
    (hf : pieceFinals s g p x = some f) (hsl : pieceSlices s g q x = some sl) :
    p.left = [] ∧ p.saturated = saturations p (slotEout e) ∧ s.clock + 16 ≤ p.endAt ∧
    p.out = (List.range x.rows).map fun i => pourRow s g p
      (if pourLoads e then bSetOf (sliceOf sl false) else (coreOf s g).b0) (sliceOf sl true) (x.row + i) := by
  have hf' : pieceFinals s g (pourOf s g q e) x = some f :=
    (pieceFinals_of_op_slot hop.symm hslot.symm s g x).trans hf
  obtain ⟨v, k1, classes, hv, hm, hb, h1⟩ := pourStep_pours ho.onCore ho.clean (pourOf s g q e) x [] sl f
  have hread : (coreOf (pourStep g (pourOf s g q e) x [] sl f u) g).pour =
      some (passed (pouredOn v g (pourOf s g q e) x [] sl f) classes) := h1.core ▸ rfl
  rw [advanceCore_of_one_piece ho hidle hx hf' hsl, advancePour_of_read hread rfl, hread] at hp
  obtain rfl := Option.some.inj hp
  have hcore := ho.onCore.core
  have hvin : SameInputs s v g := hv.sameInputs ((congrArg Core.binding hm :).trans (hcore ▸ ho.inputs.binding))
    ((congrArg Core.image hm :).trans (hcore ▸ ho.inputs.image))
  have hacc (b : Bool) : accOf (coreOf v g) b = accOf (coreOf s g) b := by
    rw [hv.core, ← ho.acc, hcore]
    exact (congrArg (accOf · b) hm :)
  have hrank (b : Bool) : rankOf (coreOf v g) b = rankOf (coreOf s g) b := by
    rw [hv.core, ← ho.rank, hcore]
    exact (congrArg (rankOf · b) hm :)
  refine ⟨rfl, rfl, Nat.add_le_add_right (rowFrom_le_lastRead (p := pourOf s g q e) le_rfl ..) 16, ?_⟩
  refine (List.nil_append _).trans (List.map_congr_left fun i _ => ?_)
  have hb0 : bBankOf k (pourOf s g q e).bank = (coreOf s g).b0 := ho.rest.2.2
  rw [hvin.pourRow hacc hrank, hv.core, hb, hb0]
  rfl

end

theorem exec_pour (core : BitVec 7) (stream : Bool) (s : State) : exec (.pour core stream) s =
    onOp core stream 0x40 s fun q s => advanceCore core.toNat (pourStart core.toNat q s) := rfl

end Sys2Proof.Machine
end

section
/-! O15. POUR_RECOMPUTE and POUR_COMPLETE. -/

namespace Sys2Proof.Machine

theorem OnCore.untilClock_clock {s u : State} {g : Nat} {m : Mem} {k : Core} (h : OnCore s u g m k) (c : Nat) :
    (untilClock c u).clock = max s.clock c := by
  rw [Machine.untilClock_clock, h.clock]

/-- Core `g` has gone on to state `u`, in which pour `p` has read all its rows. -/
theorem drainedPour_of_read {s : State} {g : Nat} {p : Pour} (hc : Canon s) (hu : (coreOf s g).upsets = [])
    (hp : (coreOf s g).pour = some p) (hl : p.left = []) : ∃ u k, drainedPour s g = some (p, u) ∧
      OnCore s u g s.mem k ∧ SameInputs s u g ∧ k.upsets = [] := by
  obtain ⟨q, hq⟩ := exists_rankOp (coreOf s g) p.op
  obtain ⟨k, hk, hm⟩ := advanceRank_moves (.refl hc g) hu hq 513
  have hpour : (coreOf (advanceRank g 513 s) g).pour = some p := hk.core ▸ (congrArg Core.pour hm.rest :).trans hp
  have hadv : advanceCore g s = advanceRank g 513 s := advancePour_of_read hpour hl 513
  refine ⟨_, k, ?_, hk, hk.sameInputs (congrArg Core.binding hm.rest :) (congrArg Core.image hm.rest :),
    hm.upsets.trans hu⟩
  unfold drainedPour
  dsimp only
  rw [hadv, hpour]
  dsimp only
  rw [hl]
  rfl

/-! ### POUR_RECOMPUTE -/

/-- Pour `p` with its one recompute marked. -/
def recomputing (s : State) (p : Pour) : Pour :=
  { p with recomputed := true, clamped := saturations p (recomputeEout s p) ≠ 0, endAt := p.endAt + recomputeCycles s p }

theorem pourRecompute_marks {s : State} {core : BitVec 7} {p : Pour} (hc : Canon s)
    (hu : (coreOf s core.toNat).upsets = []) (hp : (coreOf s core.toNat).pour = some p) (hl : p.left = [])
    (hsat : p.saturated ≠ 0) (hre : p.recomputed = false) (hin : inTime s core.toNat p.endAt = true) :
    ∃ t, exec (.pourRecompute core) s = .next t ∧ (coreOf t core.toNat).pour = some (recomputing s p) ∧
      t.clock = max s.clock p.endAt ∧ t.mem = s.mem ∧ t.out = s.out ∧ ∀ i, i ≠ core.toNat → coreOf t i = coreOf s i := by
  obtain ⟨u, k, hd, hk, hsame, -⟩ := drainedPour_of_read hc hu hp hl
  have hnew : recomputing (untilClock p.endAt u) p = recomputing s p := (congrArg (recomputing · p) hk.frame.1 :)
  have ht : ∃ classes, recomputePour core.toNat s = opEvents core.toNat 0 p.op.index classes (count core.toNat 0x04B 1
      (updCore core.toNat (fun k => { k with pour := some (recomputing s p) }) (untilClock p.endAt u))) := by
    unfold recomputePour
    rw [hd, ← hnew]
    dsimp only
    rw [hsame.inTime, hin, hre]
    exact ⟨_, if_neg (by simpa using hsat)⟩
  obtain ⟨classes, ht⟩ := ht
  have h := (((OnCore.refl (Canon.untilClock (c := p.endAt) hk.canon) core.toNat).updCore fun k =>
    { k with pour := some (recomputing s p) }).count core.toNat 0x04B 1).opEvents 0 p.op.index classes
  refine ⟨_, congrArg Host.Outcome.next ht, h.core ▸ rfl, h.clock.trans (hk.untilClock_clock _), h.mem.trans hk.mem,
    (congrArg State.out h.frame.1 :).trans (congrArg State.out hk.frame.1 :), fun i hi => ?_⟩
  exact (h.frame.2 i hi).trans (hk.frame.2 i hi)

/-! ### What a pour writes -/

/-- State `t` follows `s` as a pour on core `g` writes: with core `g` in state `k`, and no byte changed outside its tile
memory. -/
def Drains (s t : State) (g : Nat) (k : Core) : Prop := ∃ m, OnCore s t g m k ∧ OutsideTile g s.mem m

namespace Drains

variable {s t : State} {g : Nat} {k : Core}

theorem of_onCore (h : OnCore s t g s.mem k) : Drains s t g k := ⟨_, h, h.mem ▸ h.canon.mem, fun _ _ => rfl⟩

theorem count (h : Drains s t g k) (b ev n : Nat) : Drains s (count b ev n t) g k := by
  obtain ⟨m, hm, hout⟩ := h
  exact ⟨m, hm.count .., hout⟩

theorem tileWrite (h : Drains s t g k) (hu : k.upsets = []) (off : Nat) (bs : List Byte) :
    Drains s (tileWrite g off bs t) g k := by
  obtain ⟨m, ⟨hc, hf, rfl, rfl⟩, hout⟩ := h
  refine ⟨tileMem g off bs t.mem, ?_, hout.tileMem ..⟩
  unfold Machine.tileWrite
  extract_lets o head rest m' t'
  rw [if_pos (show (coreOf t' g).upsets = [] from hu)]
  exact ⟨hc.withMem fun _ => memWf_tileMem hc.mem, hf.trans ⟨rfl, fun _ _ => rfl⟩, rfl, rfl⟩

theorem writeRow (h : Drains s t g k) (hu : k.upsets = []) (p : Pour) (eout : Int) (i : Nat) (ys : List (BitVec 32)) :
    Drains s (writeRow g p eout i ys t) g k := by
  unfold Machine.writeRow
  extract_lets w o bs
  split
  · exact (h.tileWrite hu ..).tileWrite hu ..
  · exact h.tileWrite hu ..
  · exact h.tileWrite hu ..

theorem writeRows (h : Drains s t g k) (hu : k.upsets = []) (p : Pour) (l : List (Nat × List (BitVec 32))) :
    Drains s (l.foldl (fun s r => Machine.writeRow g p (pourEout s p) r.1 r.2 s) t) g k := by
  induction l generalizing t with
  | nil => exact h
  | cons r l ih => exact ih (h.writeRow hu ..)

end Drains

/-- The core once a KEEP pour has left its rows in its accumulator bank. -/
def keepingRows (p : Pour) (k : Core) : Core :=
  setAcc (oB p.op.word 35) { accOf k (oB p.op.word 35) with
    vals := setRows 0 (outRows p) (accOf k (oB p.op.word 35)).vals } k

theorem pourResult_drains {s t : State} {g : Nat} {k : Core} (h : OnCore s t g s.mem k) (hu : k.upsets = []) (p : Pour) :
    ∃ k', Drains s (pourResult g p t) g k' ∧ k'.upsets = [] := by
  unfold pourResult
  dsimp only
  split
  · refine ⟨keepingRows p k, .of_onCore (h.updCore_of_eq ?_), by unfold keepingRows; cases oB p.op.word 35 <;> exact hu⟩
    rw [rewritten_of_clean hu]
    rfl
  · exact ⟨k, ((Drains.of_onCore h).writeRows hu ..).count .., hu⟩

/-! ### The status record -/

theorem tileMem_of_fits {g off : Nat} {bs : List Byte} (h : off + bs.length ≤ 0x400000) (hpos : off < 0x400000) (m : Mem) :
    tileMem g off bs m = memWrite m (tileBase g + off) bs := by
  unfold tileMem
  rw [Nat.mod_eq_of_lt hpos, List.take_of_length_le (by omega), List.drop_length]
  rfl

theorem tileRead_written {s : State} {g off : Nat} {bs : List Byte} {m : Mem} (hm : memWf m = true)
    (h : off + bs.length ≤ 0x400000) (hpos : off < 0x400000) (hs : s.mem = tileMem g off bs m) :
    tileRead s g off bs.length = bs := by
  unfold tileRead
  refine List.ext_getElem (by simp) fun i hi hi' => ?_
  rw [List.getElem_map, List.getElem_range, Nat.mod_eq_of_lt (by omega), ← Nat.add_assoc, hs, tileMem_of_fits h hpos]
  exact memByte_write_same _ _ _ _ hm hi'

theorem tile32_written {s : State} {g off : Nat} {v : BitVec 32} {m : Mem} (hm : memWf m = true)
    (h : off + 4 ≤ 0x400000) (hs : s.mem = tileMem g off (wordBytes v) m) : tile32 s g off = v := by
  have hread := tileRead_written (bs := wordBytes v) hm (by simpa [wordBytes] using h) (by omega) hs
  rw [show (wordBytes v).length = 4 by simp [wordBytes]] at hread
  unfold tile32 tileNat
  rw [hread]
  unfold wordBytes
  rw [leNat_leBytes, Nat.mod_eq_of_lt (by simpa using v.isLt)]
  exact BitVec.ofNat_toNat ..

/-! ### POUR_COMPLETE -/

/-- Sending credits changes the tokens under way, the packets sent and what is observed. -/
theorem sendCredit_eq (g e amt : Nat) (s : State) : ∃ ob out toks, sendCredit g e amt s =
    { s with obs := ob, out := out, prog := { s.prog with tokens := toks } } := by
  unfold sendCredit
  extract_lets m ctr here
  split
  · exact ⟨_, _, _, rfl⟩
  · split <;> exact ⟨_, _, _, rfl⟩

theorem sendCredit_of_zero {amt : Nat} (h : amt = 0) (g e : Nat) (s : State) : sendCredit g e amt s = s := if_pos h

theorem accOf_setRank (b c : Bool) (v : Bank) (k : Core) : accOf (setRank b v k) c = accOf k c := by
  cases b <;> rfl

theorem releaseBanks_onCore {s t : State} {g : Nat} {m : Mem} {k : Core} (h : OnCore s t g m k) (p : Pour) :
    ∃ k', OnCore s (releaseBanks g p t) g m k' ∧ k'.pour = k.pour ∧
      (oB p.op.word 37 = false → accOf k' (oB p.op.word 35) = { freeAt := s.clock + 1 }) := by
  unfold releaseBanks
  extract_lets w keep u rank
  have hu : ∃ k', OnCore s u g m k' ∧ k'.pour = k.pour ∧
      (keep = false → accOf k' (oB w 35) = { freeAt := s.clock + 1 }) := by
    unfold u
    split
    next hkeep => exact ⟨k, h, rfl, fun hf => absurd hkeep (by rw [hf]; decide)⟩
    next => exact ⟨_, h.updCore _, by cases oB w 35 <;> rfl, fun _ => h.clock ▸ accOf_setAcc_self ..⟩
  obtain ⟨k', hk', hpour, hacc⟩ := hu
  split
  · exact ⟨_, hk'.updCore _, hpour ▸ by cases oB w 36 <;> rfl, fun hf => (accOf_setRank ..).trans (hacc hf)⟩
  · exact ⟨k', hk', hpour, hacc⟩

theorem completePour_of_drained {s u : State} {g : Nat} {p : Pour} (hd : drainedPour s g = some (p, u))
    (hdone : p.saturated = 0 ∨ p.recomputed = true) (hin : inTime u g p.endAt = true) :
    completePour g s = count g 0x049 1 (releaseBanks g p (updCore g (fun k => { k with pour := none })
      (sendCredit g (oSctr p.op.word) (oSamt p.op.word) (tileWrite g (4 * p.slot.staddr.toNat)
        (wordBytes (statusRecord p (pourEout (pourResult g p (untilClock p.endAt u)) p)))
        (pourResult g p (untilClock p.endAt u)))))) := by
  unfold completePour
  rw [hd]
  dsimp only
  rw [hin]
  refine if_neg ?_
  rcases hdone with h | h <;> simp [h]

theorem pourComplete_ends {s : State} {core : BitVec 7} {p : Pour} (hc : Canon s)
    (hu : (coreOf s core.toNat).upsets = []) (hp : (coreOf s core.toNat).pour = some p) (hl : p.left = [])
    (hdone : p.saturated = 0 ∨ p.recomputed = true) (hin : inTime s core.toNat p.endAt = true) :
    ∃ t, exec (.pourComplete core) s = .next t ∧ (coreOf t core.toNat).pour = none ∧ t.clock = max s.clock p.endAt ∧
      tile32 t core.toNat (4 * p.slot.staddr.toNat) = statusRecord p (pourEout s p) ∧
      (oSamt p.op.word = 0 → t.out = s.out ∧ t.prog.tokens = s.prog.tokens) ∧
      (oB p.op.word 37 = false → accOf (coreOf t core.toNat) (oB p.op.word 35) = { freeAt := t.clock + 1 }) ∧
      OnlyTile s t core.toNat ∧ ∀ i, i ≠ core.toNat → coreOf t i = coreOf s i := by
  obtain ⟨u, k, hd, hk, hsame, hclean⟩ := drainedPour_of_read hc hu hp hl
  have ht := completePour_of_drained hd hdone ((hsame.inTime _).trans hin)
  have hv := OnCore.refl (Canon.untilClock (c := p.endAt) hk.canon) core.toNat
  obtain ⟨k1, ⟨m, h1, hout⟩, hclean1⟩ := pourResult_drains hv (hk.core ▸ hclean) p
  have heout : pourEout (pourResult core.toNat p (untilClock p.endAt u)) p = pourEout s p :=
    (congrArg (pourEout · p) h1.frame.1 :).trans (congrArg (pourEout · p) hk.frame.1 :)
  rw [heout] at ht
  obtain ⟨m2, h2, hout2⟩ := (Drains.tileWrite ⟨m, h1, hout⟩ hclean1 (4 * p.slot.staddr.toNat)
    (wordBytes (statusRecord p (pourEout s p))))
  have hstatus := tileWrite_mem core.toNat (4 * p.slot.staddr.toNat) (wordBytes (statusRecord p (pourEout s p)))
    (pourResult core.toNat p (untilClock p.endAt u))
  have hpos := p.slot.staddr.isLt
  generalize tileWrite core.toNat (4 * p.slot.staddr.toNat) _ _ = w at ht h2 hstatus
  obtain ⟨ob, out, toks, hy⟩ := sendCredit_eq core.toNat (oSctr p.op.word) (oSamt p.op.word) w
  have hy0 := sendCredit_of_zero (g := core.toNat) (e := oSctr p.op.word) (s := w) (amt := oSamt p.op.word)
  have hcy : Canon (sendCredit core.toNat (oSctr p.op.word) (oSamt p.op.word) w) := .sendCredit h2.canon
  generalize sendCredit core.toNat (oSctr p.op.word) (oSamt p.op.word) w = y at ht hy hy0 hcy
  obtain ⟨k3, h3, hpour, hacc⟩ := releaseBanks_onCore
    ((OnCore.refl hcy core.toNat).updCore fun k => { k with pour := none }) p
  have h := h3.count core.toNat 0x049 1
  have hmem : _ = w.mem := h.mem.trans (congrArg State.mem hy :)
  have hclock : y.clock = max s.clock p.endAt :=
    (congrArg State.clock hy :).trans (h2.clock.trans (hk.untilClock_clock _))
  refine ⟨_, congrArg Host.Outcome.next ht, h.core ▸ hpour, h.clock.trans hclock, ?_, fun hz => ?_, fun hkeep => ?_,
    fun a ha => ?_, fun i hi => ?_⟩
  · exact tile32_written h1.canon.mem (by omega) (hmem.trans hstatus)
  · have hw := hy0 hz
    subst hw
    exact ⟨(congrArg State.out h.frame.1 :).trans ((congrArg State.out h2.frame.1 :).trans (congrArg State.out hk.frame.1 :)),
      (congrArg (·.prog.tokens) h.frame.1 :).trans
        ((congrArg (·.prog.tokens) h2.frame.1 :).trans (congrArg (·.prog.tokens) hk.frame.1 :))⟩
  · rw [h.core, hacc hkeep, h.clock]
  · rw [hmem, h2.mem, hout2.2 a ha]
    exact congrArg (memByte · a) hk.mem
  · exact (h.frame.2 i hi).trans ((congrArg (coreOf · i) hy :).trans ((h2.frame.2 i hi).trans (hk.frame.2 i hi)))

/-- Settles O15: the EPI ops by the slot they leave, and a pour by its start, its one recompute and its end. -/
theorem epilogueSlotsAndPours : Obligations.EpilogueSlotsAndPours := by
  unfold Obligations.EpilogueSlotsAndPours
  refine ⟨fun s core stream q hi hs hr => ?set0, fun s core stream q e hi hs hr he hv => ?set1,
    fun s core stream q e hi hs hr he hv => ?set2, fun s core stream q e hi hs hr hu he hv => ?pour,
    fun s core p hi hu hp hl hsat hre hin => ?recompute,
    fun s core p hi hu hp hl hdone hin => pourComplete_ends (canon_iff_inv.mpr hi) hu hp hl hdone hin⟩
  case set0 =>
    have hc := canon_iff_inv.mpr hi
    obtain ⟨hslot, hrun, hmem, hframe⟩ :=
      setEpi_runs hc core.toNat q (epiIndex s core.toNat q.stream (oF q.word 32 3)) (e := freshSlot q.word) rfl
    exact ⟨_, freshSlot q.word, (onOp_of_starting hs hr _).trans (congrArg _ (epiSet0_started hc ..)), hslot, rfl, rfl, rfl,
      rfl, rfl, rfl, rfl, rfl, rfl, rfl, rfl, hrun, hmem, hframe⟩
  case set1 =>
    have hc := canon_iff_inv.mpr hi
    exact ⟨_, (onOp_of_starting hs hr _).trans (congrArg _ (epiChange_started hc _ _ _ he hv)), setEpi_runs hc _ _ _ hv⟩
  case set2 =>
    have hc := canon_iff_inv.mpr hi
    exact ⟨_, (onOp_of_starting hs hr _).trans (congrArg _ (epiChange_started hc _ _ _ he hv)), setEpi_runs hc _ _ _ hv⟩
  case pour =>
    obtain ⟨k, ho⟩ := pourStart_opens (canon_iff_inv.mpr hi) hu he hv
    obtain ⟨p, hp, hop, hslot, hpieces, hre, hmem, hframe⟩ := pour_latches ho
    exact ⟨_, p, (exec_pour ..).trans (onOp_of_starting hs hr _), hp, hop, hslot, hpieces, hre, hmem, hframe,
      fun x f sl hidle hx hf hsl => pour_reads_one_piece ho hp hop hslot hidle hx hf hsl⟩
  case recompute =>
    obtain ⟨t, ht, hp', hrest⟩ := pourRecompute_marks (canon_iff_inv.mpr hi) hu hp hl hsat hre hin
    exact ⟨t, _, ht, hp', rfl, decide_eq_true_iff, hrest⟩

end Sys2Proof.Machine
end

section
/-! O17. The control ops. -/

namespace Sys2Proof.Machine

/-! ### The start of an op without operand rules -/

theorem opRuleOk_of_ge {w : BitVec 128} (h : 0x80 ≤ oOp w) : opRuleOk w = true := by
  unfold opRuleOk
  split
  pick_goal 11
  · rfl
  all_goals omega

theorem onOp_of_starting_unruled {s : State} {core : BitVec 7} {stream : Bool} {op : Nat} {q : QOp}
    (h : starting s core.toNat op stream = some q) (hop : 0x80 ≤ op) (f : QOp → State → State) :
    onOp core stream op s f = .next (f q (started core.toNat q s)) :=
  onOp_of_starting h (opRuleOk_of_ge (by rw [starting_op h]; exact hop)) f

/-- The core once op `q` has left its queue at a clock, its credits still to be taken. -/
def leftQueue (now : Nat) (q : QOp) (k : Core) : Core :=
  { k with queues := supd [] (opUnit (oOp q.word)) (fun l => l.erase q) k.queues,
           lastStart := sput false (opUnit (oOp q.word)) q.stream k.lastStart,
           leaving := (opUnit (oOp q.word), q.stream, now) :: k.leaving.filter fun x => x.2.2 = now }

theorem started_core {s : State} (hc : Canon s) (g : Nat) (q : QOp) :
    coreOf (started g q s) g = takeCredits q.word (leftQueue s.clock q (coreOf s g)) := by
  refine .trans ?_ (coreOf_updCore_self hc g fun k => takeCredits q.word (leftQueue s.clock q k))
  unfold started takeOp
  dsimp only
  split <;> rfl

theorem started_eq (g : Nat) (q : QOp) (s : State) : ∃ ob cores,
    started g q s = { s with obs := ob, prog := { s.prog with cores := cores } } := by
  unfold started takeOp
  dsimp only
  split <;> exact ⟨_, _, rfl⟩

/-! ### SYNC_WAIT and SYNC_TIME -/

theorem creditOf_takeCredit {k : Core} {i n : Nat} (h : n < creditOf k i) (hn : n < 65536) :
    creditOf (takeCredit i n k) i = creditOf k i - n := by
  have hsub : (sget 0 i k.credits - BitVec.ofNat 16 n).toNat = creditOf k i - n := by
    have hto : (BitVec.ofNat 16 n).toNat = n := (BitVec.toNat_ofNat ..).trans (Nat.mod_eq_of_lt hn)
    rw [BitVec.toNat_sub_of_le (BitVec.le_def.mpr (by rw [hto]; exact h.le)), hto]
    rfl
  unfold creditOf takeCredit supd
  rw [sget_sput_self _ _ _ ?_, hsub]
  · rfl
  · intro h0
    have hz := hsub.symm.trans (congrArg BitVec.toNat h0)
    rw [show (0 : BitVec 16).toNat = 0 from rfl] at hz
    omega

theorem creditOf_takeCredits {k : Core} {w : BitVec 128} (hx : extraWaits w = [(0, 0), (0, 0), (0, 0)])
    (h : oWamt w < creditOf k (oWctr w)) : creditOf (takeCredits w k) (oWctr w) = creditOf k (oWctr w) - oWamt w := by
  have hlt : oWamt w < 65536 := Nat.lt_trans (fld w 18 4).isLt (by decide)
  unfold takeCredits waitsOf
  rw [hx]
  simp only [List.foldl_cons, List.foldl_nil, if_true]
  split
  next hz => rw [hz, Nat.sub_zero]
  next => exact creditOf_takeCredit h hlt

theorem syncWait_runs {s : State} {core : BitVec 7} {stream : Bool} {q : QOp} (hc : Canon s)
    (hs : starting s core.toNat 0x90 stream = some q) :
    ∃ t, exec (.syncWait core stream) s = .next t ∧ Running t core.toNat q (s.clock + 1) 0 ∧ t.mem = s.mem ∧
      (extraWaits q.word = [(0, 0), (0, 0), (0, 0)] → oWamt q.word < creditOf (coreOf s core.toNat) (oWctr q.word) →
        creditOf (coreOf t core.toNat) (oWctr q.word) =
          creditOf (coreOf s core.toNat) (oWctr q.word) - oWamt q.word) ∧ CoreFrame s t core.toNat := by
  obtain ⟨k, hk, -, -⟩ := started_onCore hc core.toNat q
  have h := hk.runFor q 1 0
  refine ⟨_, onOp_of_starting_unruled hs (by decide) _, h.running (List.mem_append_right _ (List.mem_singleton_self _)),
    h.mem, fun hx hlt => ?_, h.frame⟩
  have hcore : k = _ := hk.core.symm.trans (started_core hc core.toNat q)
  rw [h.core]
  exact (congrArg (creditOf · (oWctr q.word)) hcore).trans (creditOf_takeCredits hx hlt)

theorem exec_syncTime (core : BitVec 7) (stream : Bool) (s : State) : exec (.syncTime core stream) s =
    onOp core stream 0x92 s fun q s =>
      runFor core.toNat q (max 1 (oF q.word 32 24 - coreOffset s core.toNat)) 0 s := rfl

theorem syncTime_runs {s : State} {core : BitVec 7} {stream : Bool} {q : QOp} (hc : Canon s)
    (hs : starting s core.toNat 0x92 stream = some q) :
    ∃ t, exec (.syncTime core stream) s = .next t ∧
      Running t core.toNat q (s.clock + max 1 (oF q.word 32 24 - coreOffset s core.toNat)) 0 ∧ t.mem = s.mem ∧
      CoreFrame s t core.toNat := by
  obtain ⟨k, hk, htaken, -⟩ := started_onCore hc core.toNat q
  have h := hk.runFor q (max 1 (oF q.word 32 24 - coreOffset (started core.toNat q s) core.toNat)) 0
  refine ⟨_, (exec_syncTime ..).trans (onOp_of_starting_unruled hs (by decide) _), ?_, h.mem, h.frame⟩
  rw [← (htaken.sameInputs hk).coreOffset]
  exact h.running (List.mem_append_right _ (List.mem_singleton_self _))

/-! ### SYNC_SEND -/

/-- Entry `e` of the send map of core `g`, 0 without an image. -/
def sendEntry (s : State) (g e : Nat) : BitVec 32 := ((coreOf s g).image.map fun i => i.sendMap.getD e 0).getD 0

section
variable {s : State} {g e amt : Nat} (ha : amt ≠ 0)
include ha

/-- Credits for a core of this module are under way. -/
theorem sendCredit_of_local (h : fld (sendEntry s g e) 30 2 = 0 ∨ fld (sendEntry s g e) 30 2 = 1) :
    (sendCredit g e amt s).out = s.out ∧ (sendCredit g e amt s).prog.tokens = s.prog.tokens ++
      [{ source := BitVec.ofNat 7 g,
         core := if fld (sendEntry s g e) 30 2 = 0 then BitVec.ofNat 7 g else fld (sendEntry s g e) 13 7,
         ctr := fld (sendEntry s g e) 7 6, amount := BitVec.ofNat 16 amt, steep := s.steep.k }] := by
  have hm : ((coreOf s g).image.map fun i => i.sendMap.getD e 0).getD 0 = sendEntry s g e := rfl
  unfold sendCredit
  dsimp only
  rw [if_neg ha, hm]
  rcases h with h | h
  · rw [h]
    exact ⟨rfl, rfl⟩
  · rw [h, if_neg (by decide),
      show BitVec.ofNat 7 (fld (sendEntry s g e) 13 7).toNat = fld (sendEntry s g e) 13 7 from BitVec.ofNat_toNat ..]
    exact ⟨rfl, rfl⟩

/-- Credits for another module go in a token packet. -/
theorem sendCredit_of_remote (h : fld (sendEntry s g e) 30 2 = 2) :
    (sendCredit g e amt s).prog.tokens = s.prog.tokens ∧ (sendCredit g e amt s).out = s.out ++
      [.packet (.ldn (fld (sendEntry s g e) 20 10)) (.token (fld (sendEntry s g e) 20 10) (fld (sendEntry s g e) 13 7)
        (fld (sendEntry s g e) 7 6) (BitVec.ofNat 4 amt) s.steep.k)] := by
  have hm : ((coreOf s g).image.map fun i => i.sendMap.getD e 0).getD 0 = sendEntry s g e := rfl
  unfold sendCredit
  dsimp only
  rw [if_neg ha, hm, h]
  exact ⟨rfl, rfl⟩

end

theorem exec_syncSend (core : BitVec 7) (stream : Bool) (s : State) : exec (.syncSend core stream) s =
    onOp core stream 0x91 s fun q s =>
      [(oSctr q.word, oSamt q.word), (oF q.word 32 6, oF q.word 38 4), (oF q.word 42 6, oF q.word 48 4),
        (oF q.word 52 6, oF q.word 58 4)].foldl (fun s e => sendCredit core.toNat e.1 e.2 s) s := rfl

theorem exec_syncSend_of_one {s : State} {core : BitVec 7} {stream : Bool} {q : QOp}
    (hs : starting s core.toNat 0x91 stream = some q) (h1 : oF q.word 38 4 = 0) (h2 : oF q.word 48 4 = 0)
    (h3 : oF q.word 58 4 = 0) : exec (.syncSend core stream) s =
      .next (sendCredit core.toNat (oSctr q.word) (oSamt q.word) (started core.toNat q s)) := by
  rw [exec_syncSend, onOp_of_starting_unruled hs (by decide)]
  simp only [List.foldl_cons, List.foldl_nil, sendCredit_of_zero h1, sendCredit_of_zero h2, sendCredit_of_zero h3]

theorem syncSend_sends {s : State} {core : BitVec 7} {stream : Bool} {q : QOp} {img : Image} {m : BitVec 32}
    (hc : Canon s) (hs : starting s core.toNat 0x91 stream = some q) (himg : (coreOf s core.toNat).image = some img)
    (ha : oSamt q.word ≠ 0) (h1 : oF q.word 38 4 = 0) (h2 : oF q.word 48 4 = 0) (h3 : oF q.word 58 4 = 0)
    (hm : m = img.sendMap.getD (oSctr q.word) 0) :
    ∃ t, exec (.syncSend core stream) s = .next t ∧
      t = { s with obs := t.obs, out := t.out, prog := { s.prog with cores := t.prog.cores, tokens := t.prog.tokens } } ∧
      (fld m 30 2 = 0 ∨ fld m 30 2 = 1 → t.out = s.out ∧ t.prog.tokens = s.prog.tokens ++
        [{ source := core, core := if fld m 30 2 = 0 then core else fld m 13 7, ctr := fld m 7 6,
           amount := BitVec.ofNat 16 (oSamt q.word), steep := s.steep.k }]) ∧
      (fld m 30 2 = 2 → t.prog.tokens = s.prog.tokens ∧ t.out = s.out ++ [.packet (.ldn (fld m 20 10))
        (.token (fld m 20 10) (fld m 13 7) (fld m 7 6) (BitVec.ofNat 4 (oSamt q.word)) s.steep.k)]) := by
  obtain ⟨k, hk, htaken, -⟩ := started_onCore hc core.toNat q
  have hentry : sendEntry (started core.toNat q s) core.toNat (oSctr q.word) = m := by
    unfold sendEntry
    rw [(htaken.sameInputs hk).image, himg, hm]
    rfl
  obtain ⟨ob, cores, hstart⟩ := started_eq core.toNat q s
  obtain ⟨ob', out, toks, hsend⟩ := sendCredit_eq core.toNat (oSctr q.word) (oSamt q.word) (started core.toNat q s)
  have hlocal := sendCredit_of_local (s := started core.toNat q s) (g := core.toNat) (e := oSctr q.word) ha
  have hremote := sendCredit_of_remote (s := started core.toNat q s) (g := core.toNat) (e := oSctr q.word) ha
  rw [hentry] at hlocal hremote
  refine ⟨_, exec_syncSend_of_one hs h1 h2 h3, ?_, fun h => ?_, fun h => ?_⟩
  · rw [hsend, hstart]
  · obtain ⟨hout, htok⟩ := hlocal h
    rw [hout, htok, hstart, BitVec.ofNat_toNat, BitVec.setWidth_eq]
    exact ⟨rfl, rfl⟩
  · obtain ⟨htok, hout⟩ := hremote h
    rw [hout, htok, hstart]
    exact ⟨rfl, rfl⟩

/-! ### HALT -/

theorem exec_halt (core : BitVec 7) (stream : Bool) (s : State) :
    exec (.halt core stream) s = onOp core stream 0xF0 s fun _ s => s := rfl

theorem halt_runs_nothing {s : State} {core : BitVec 7} {stream : Bool} {q : QOp} (hc : Canon s)
    (hs : starting s core.toNat 0xF0 stream = some q) :
    ∃ t, exec (.halt core stream) s = .next t ∧ t = started core.toNat q s ∧
      (coreOf t core.toNat).running = (coreOf s core.toNat).running ∧ t.mem = s.mem ∧ CoreFrame s t core.toNat := by
  obtain ⟨k, hk, htaken, -⟩ := started_onCore hc core.toNat q
  exact ⟨_, (exec_halt ..).trans (onOp_of_starting_unruled hs (by decide) _), rfl,
    hk.core ▸ (congrArg Core.running htaken :), hk.mem, hk.frame⟩

/-! ### MARK -/

/-- A trace record of an enabled type, with room in staging. -/
theorem trace_staged {ty : Nat} {s : State} (hon : (cfg s 0x6300 1).testBit ty = true)
    (hroom : s.obs.staging.length < 4096) (b p : Nat) (d : BitVec 128) : ∃ r,
      (trace ty b p d s).obs.staging = s.obs.staging ++ [r] ∧ r.type = BitVec.ofNat 8 ty ∧ r.time = s.time ∧
      r.block = BitVec.ofNat 8 b ∧ r.data = d := by
  unfold trace
  rw [if_pos hon]
  dsimp only
  rw [if_pos (show ((stamp (unitOf b) s).2).obs.staging.length < 4096 from hroom)]
  exact ⟨_, rfl, rfl, rfl, rfl, rfl⟩

theorem trace_cfg (ty b p : Nat) (d : BitVec 128) (s : State) (i sub : Nat) :
    cfg (trace ty b p d s) i sub = cfg s i sub := by
  unfold cfg
  rw [trace_dict]

/-- The data of the record of MARK op `q`. -/
def markData (q : QOp) : BitVec 128 := BitVec.ofNat 128
  (oF q.word 32 16 + q.index.toNat * 2 ^ 16 + q.stream.toNat * 2 ^ 32 + (oB q.word 48).toNat * 2 ^ 33)

/-- The record of MARK op `q` has been made. -/
def markNoted (g : Nat) (q : QOp) (s : State) : State := trace 1 g (coreOwnerD s g) (markData q) (count g 0x05D 1 s)

/-- The two SAMPLE records of a core have been made. -/
def sampleNoted (g p : Nat) (s : State) : State := trace 2 g p (sampleData s g).2 (trace 2 g p (sampleData s g).1 s)

/-- Every record of MARK op `q` has been made. -/
def markAllNoted (g : Nat) (q : QOp) (s : State) : State :=
  if oB q.word 48 then sampleNoted g (coreOwnerD s g) (markNoted g q s) else markNoted g q s

theorem exec_mark (core : BitVec 7) (stream : Bool) (s : State) : exec (.mark core stream) s =
    onOp core stream 0xA0 s fun q s => runFor core.toNat q 1 0 (markAllNoted core.toNat q s) := rfl

theorem markNoted_cfg (g : Nat) (q : QOp) (s : State) (i sub : Nat) : cfg (markNoted g q s) i sub = cfg s i sub :=
  trace_cfg ..

theorem OnCore.markAllNoted {s t : State} {g : Nat} {m : Mem} {k : Core} (h : OnCore s t g m k) (q : QOp) :
    OnCore s (markAllNoted g q t) g m k := by
  have h1 : OnCore s (markNoted g q t) g m k := (h.count ..).noted (trace_noted ..)
  unfold Machine.markAllNoted
  split
  · exact (h1.noted (trace_noted ..)).noted (trace_noted ..)
  · exact h1

theorem fld_ofNat {a v lo n : Nat} (h : v % 2 ^ 128 / 2 ^ lo % 2 ^ n = a) :
    fld (BitVec.ofNat 128 v) lo n = BitVec.ofNat n a := by
  refine BitVec.eq_of_toNat_eq ?_
  unfold fld
  rw [BitVec.extractLsb'_toNat, BitVec.toNat_ofNat, BitVec.toNat_ofNat, Nat.shiftRight_eq_div_pow, ← h, Nat.mod_mod]

theorem fld_markData (q : QOp) : fld (markData q) 0 16 = BitVec.ofNat 16 (oF q.word 32 16) ∧
    fld (markData q) 16 16 = q.index := by
  have h1 : oF q.word 32 16 < 65536 := (fld q.word 32 16).isLt
  have h2 := q.index.isLt
  have h3 := Bool.toNat_le q.stream
  have h4 := Bool.toNat_le (oB q.word 48)
  unfold markData
  rw [fld_ofNat (a := oF q.word 32 16) (by omega), fld_ofNat (a := q.index.toNat) (by omega), BitVec.ofNat_toNat,
    BitVec.setWidth_eq]
  exact ⟨rfl, rfl⟩

theorem markAllNoted_staged {g : Nat} {q : QOp} {s : State} (hon : (cfg s 0x6300 1).testBit 1 = true)
    (hsample : oB q.word 48 = true → (cfg s 0x6300 1).testBit 2 = true) (hroom : s.obs.staging.length + 2 < 4096) :
    ∃ r rs, (markAllNoted g q s).obs.staging = s.obs.staging ++ r :: rs ∧ r.type = 1 ∧ r.time = s.time ∧
      r.block = BitVec.ofNat 8 g ∧ r.data = markData q ∧ rs.length = (if oB q.word 48 then 2 else 0) ∧
      ∀ x ∈ rs, x.type = 2 := by
  obtain ⟨r, hr, hty, htime, hblock, hdata⟩ := trace_staged (s := count g 0x05D 1 s) hon
    (show s.obs.staging.length < 4096 by omega) g (coreOwnerD s g) (markData q)
  have hr : (markNoted g q s).obs.staging = s.obs.staging ++ [r] := hr
  unfold markAllNoted
  split
  next hb =>
    have hcfg : (cfg (markNoted g q s) 0x6300 1).testBit 2 = true := by rw [markNoted_cfg, hsample hb]
    obtain ⟨x, hx, htx, -⟩ := trace_staged hcfg (by rw [hr]; simp; omega) g (coreOwnerD s g)
      (sampleData (markNoted g q s) g).1
    obtain ⟨y, hy, hty', -⟩ := trace_staged (ty := 2)
      (s := trace 2 g (coreOwnerD s g) (sampleData (markNoted g q s) g).1 (markNoted g q s))
      (by rw [trace_cfg, hcfg]) (by rw [hx, hr]; simp; omega) g (coreOwnerD s g) (sampleData (markNoted g q s) g).2
    refine ⟨r, [x, y], ?_, hty, htime, hblock, hdata, rfl, ?_⟩
    · exact hy.trans (by rw [hx, hr]; simp)
    · simp [htx, hty']
  next => exact ⟨r, [], hr, hty, htime, hblock, hdata, rfl, fun _ hx => nomatch hx⟩

theorem mark_runs {s : State} {core : BitVec 7} {stream : Bool} {q : QOp} (hc : Canon s)
    (hs : starting s core.toNat 0xA0 stream = some q) :
    ∃ t, exec (.mark core stream) s = .next t ∧ Running t core.toNat q (s.clock + 1) 0 ∧ t.mem = s.mem ∧
      ((cfg s 0x6300 1).testBit 1 = true → (oB q.word 48 = true → (cfg s 0x6300 1).testBit 2 = true) →
        s.obs.staging.length + 2 < 4096 →
        ∃ r rs, t.obs.staging = s.obs.staging ++ r :: rs ∧ r.type = 1 ∧ r.time = s.time ∧
          r.block = BitVec.ofNat 8 core.toNat ∧ fld r.data 0 16 = BitVec.ofNat 16 (oF q.word 32 16) ∧
          fld r.data 16 16 = q.index ∧ rs.length = (if oB q.word 48 then 2 else 0) ∧ ∀ x ∈ rs, x.type = 2) ∧
      CoreFrame s t core.toNat := by
  obtain ⟨k, hk, -, -⟩ := started_onCore hc core.toNat q
  have h := (hk.markAllNoted q).runFor q 1 0
  refine ⟨_, (exec_mark ..).trans (onOp_of_starting_unruled hs (by decide) _),
    h.running (List.mem_append_right _ (List.mem_singleton_self _)), h.mem, fun hon hsample hroom => ?_, h.frame⟩
  have hstaging : (started core.toNat q s).obs.staging = s.obs.staging := by
    unfold started takeOp
    dsimp only
    split <;> rfl
  have hcfg : cfg (started core.toNat q s) 0x6300 1 = cfg s 0x6300 1 := (congrArg (cfg · 0x6300 1) hk.frame.1 :)
  have htime : (started core.toNat q s).time = s.time := (congrArg State.time hk.frame.1 :)
  obtain ⟨r, rs, hst, hty, hti, hbl, hdata, hlen, hrs⟩ := markAllNoted_staged (g := core.toNat) (q := q)
    (s := started core.toNat q s) (by rw [hcfg, hon]) (by rw [hcfg]; exact hsample) (by rw [hstaging]; exact hroom)
  obtain ⟨hf1, hf2⟩ := fld_markData q
  exact ⟨r, rs, hst.trans (by rw [hstaging]), hty, hti.trans htime, hbl, hdata ▸ hf1, hdata ▸ hf2, hlen, hrs⟩

end Sys2Proof.Machine
end

section
/-! O17. The completion of an op, and tokens. -/

namespace Sys2Proof.Machine

/-! ### OP_COMPLETE -/

theorem execOpComplete_of_found {s : State} {core : BitVec 7} {op : BitVec 16} {r : RunOp}
    (hr : ((coreOf s core.toNat).running.find? fun r => r.index = op && r.awaiting = 0) = some r) :
    exec (.opComplete core op) s =
      .next (if inTime s core.toNat r.endAt then completeOp core.toNat r (untilClock r.endAt s) else s) := by
  show execOpComplete core op s = _
  unfold execOpComplete
  dsimp only
  rw [hr]
  rfl

theorem opComplete_removes {s : State} {core : BitVec 7} {op : BitVec 16} {r : RunOp} (hc : Canon s)
    (hr : ((coreOf s core.toNat).running.find? fun r => r.index = op && r.awaiting = 0) = some r)
    (hin : inTime s core.toNat r.endAt = true) : ∃ t, exec (.opComplete core op) s = .next t ∧
      (coreOf t core.toNat).running = (coreOf s core.toNat).running.erase r ∧ t.clock = max s.clock r.endAt ∧
      (oSamt r.word = 0 → t.out = s.out ∧ t.prog.tokens = s.prog.tokens) ∧
      t.mem = s.mem ∧ ∀ i, i ≠ core.toNat → coreOf t i = coreOf s i := by
  have ht := (execOpComplete_of_found hr).trans (congrArg _ (if_pos hin))
  have h := (OnCore.refl (Canon.untilClock (c := r.endAt) hc) core.toNat).updCore fun k =>
    { k with running := k.running.erase r }
  unfold completeOp at ht
  dsimp only at ht
  obtain ⟨ob, out, toks, hy⟩ := sendCredit_eq core.toNat (oSctr r.word) (oSamt r.word)
    (updCore core.toNat (fun k => { k with running := k.running.erase r }) (untilClock r.endAt s))
  refine ⟨_, ht, ?_, ?_, fun hz => ?_, ?_, fun i hi => ?_⟩
  · exact (congrArg (fun v => (coreOf v core.toNat).running) hy :).trans (congrArg Core.running h.core :)
  · exact (congrArg State.clock hy :).trans (untilClock_clock ..)
  · rw [sendCredit_of_zero hz]
    exact ⟨rfl, rfl⟩
  · exact (congrArg State.mem hy :)
  · exact (congrArg (coreOf · i) hy :).trans (h.frame.2 i hi)

/-! ### Credits that land -/

theorem CoreFrame.tokens {s t : State} {g : Nat} (h : CoreFrame s t g) : t.prog.tokens = s.prog.tokens :=
  (congrArg (·.prog.tokens) h.1 :)

theorem CoreFrame.out {s t : State} {g : Nat} (h : CoreFrame s t g) : t.out = s.out := (congrArg State.out h.1 :)

theorem progFault_keeps (g : Nat) (stream : Bool) (index c : Nat) (s : State) :
    (progFault g stream index c s).prog.tokens = s.prog.tokens ∧ (progFault g stream index c s).mem = s.mem ∧
      (progFault g stream index c s).out = s.out := by
  obtain ⟨v, hv, hn⟩ := progFault_eq g stream index c s
  exact ⟨(congrArg (·.prog.tokens) hn :).trans (congrArg (·.prog.tokens) hv :),
    (congrArg State.mem hn :).trans (congrArg State.mem hv :), (congrArg State.out hn :).trans (congrArg State.out hv :)⟩

/-- The core whose counter `c` has been incremented by `n` at a clock, up to 65,535. -/
def credited (now c n : Nat) (k : Core) : Core :=
  { k with
    credits := sput 0 c (BitVec.ofNat 16 (min (creditOf k c + n) 65535)) k.credits
    creditIn := sput (0, 0) c (now, (if (sget (0, 0) c k.creditIn).1 = now then (sget (0, 0) c k.creditIn).2 else 0) +
      (min (creditOf k c + n) 65535 - creditOf k c)) k.creditIn }

theorem addCredit_eq (g c n : Nat) (s : State) : addCredit g c n s =
    if 65535 < creditOf (coreOf s g) c + n then
      progFault g false 0 3 (count g 0x055 1 (updCore g (credited s.clock c n) s))
    else count g 0x055 1 (updCore g (credited s.clock c n) s) := rfl

theorem addCredit_keeps (g c n : Nat) (s : State) : (addCredit g c n s).prog.tokens = s.prog.tokens ∧
    (addCredit g c n s).mem = s.mem ∧ (addCredit g c n s).out = s.out := by
  rw [addCredit_eq]
  split
  · exact progFault_keeps ..
  · exact ⟨rfl, rfl, rfl⟩

theorem creditOf_credited {k : Core} {c n : Nat} (hn : n ≠ 0) (hle : creditOf k c + n ≤ 65535) (now : Nat) :
    creditOf (credited now c n k) c = creditOf k c + n := by
  have hmin : min (creditOf k c + n) 65535 = creditOf k c + n := Nat.min_eq_left hle
  have hto : (BitVec.ofNat 16 (creditOf k c + n)).toNat = creditOf k c + n :=
    (BitVec.toNat_ofNat ..).trans (Nat.mod_eq_of_lt (by omega))
  have hne : BitVec.ofNat 16 (creditOf k c + n) ≠ 0 := fun h0 => by
    have hz := hto.symm.trans (congrArg BitVec.toNat h0)
    rw [show (0 : BitVec 16).toNat = 0 from rfl] at hz
    omega
  show (sget 0 c (sput 0 c _ k.credits)).toNat = _
  rw [hmin, sget_sput_self _ _ _ hne, hto]

theorem creditOf_addCredit {s : State} {g c n : Nat} (hc : Canon s) (hn : n ≠ 0)
    (hle : creditOf (coreOf s g) c + n ≤ 65535) :
    creditOf (coreOf (addCredit g c n s) g) c = creditOf (coreOf s g) c + n := by
  have h := ((OnCore.refl hc g).updCore (credited s.clock c n)).count g 0x055 1
  rw [addCredit_eq, if_neg (by omega), h.core, creditOf_credited hn hle]

/-! ### TOKEN -/

theorem ahead_self (k : BitVec 64) : ahead k k = 0 := by
  unfold ahead
  rw [Int.sub_self]
  rfl

theorem ahead_of_ahead_rev {a b : BitVec 64} (h : ahead a b ≠ 0) : ahead b a = 0 := by
  unfold ahead at h ⊢
  omega

section
variable {s : State} {g : Nat} {ctr : BitVec 6} {n : BitVec 16} {k : BitVec 64}

theorem landToken_of_now (hk : k = s.steep.k) : landToken g ctr n k s = addCredit g ctr.toNat n.toNat s := by
  unfold landToken
  rw [if_neg (by rw [hk, ahead_self]; decide), if_pos hk]

theorem landToken_of_later (hk : ahead k s.steep.k ≠ 0) :
    landToken g ctr n k s = updCore g (fun c => { c with held := c.held ++ [(ctr, n)] }) s := by
  have hne : k ≠ s.steep.k := by
    rintro rfl
    exact hk (ahead_self _)
  unfold landToken
  rw [if_neg (by rw [ahead_of_ahead_rev hk]; decide), if_neg hne]

theorem landToken_of_earlier (hk : ahead s.steep.k k ≠ 0) : landToken g ctr n k s = count g 0x056 1 (dropToken s) :=
  if_pos hk

theorem landToken_keeps (g : Nat) (ctr : BitVec 6) (n : BitVec 16) (k : BitVec 64) (s : State) :
    (landToken g ctr n k s).prog.tokens = s.prog.tokens ∧ (landToken g ctr n k s).mem = s.mem ∧
      (landToken g ctr n k s).out = s.out := by
  unfold landToken
  split
  · exact ⟨rfl, rfl, rfl⟩
  · split
    · exact addCredit_keeps ..
    · exact ⟨rfl, rfl, rfl⟩

theorem creditOf_landToken (hc : Canon s) (hk : k = s.steep.k) (hn : n ≠ 0)
    (hle : creditOf (coreOf s g) ctr.toNat + n.toNat ≤ 65535) :
    creditOf (coreOf (landToken g ctr n k s) g) ctr.toNat = creditOf (coreOf s g) ctr.toNat + n.toNat := by
  rw [landToken_of_now hk]
  exact creditOf_addCredit hc (fun h0 => hn (BitVec.eq_of_toNat_eq h0)) hle

end

theorem exec_token_of_remote (core : BitVec 7) (ctr : BitVec 6) (n : BitVec 16) (k : BitVec 64) (part : BitVec 6)
    (s : State) : exec (.token core ctr n k part true) s =
      .next (if coreOwner s core.toNat ≠ some part.toNat then dropToken s else landToken core.toNat ctr n k s) := rfl

theorem exec_token_of_local {core : BitVec 7} {ctr : BitVec 6} {n : BitVec 16} {k : BitVec 64} {x : Token} {s : State}
    (hx : nextToken s core ctr n k = some x) (part : BitVec 6) : exec (.token core ctr n k part false) s =
      .next (landToken core.toNat ctr n k { s with prog := { s.prog with tokens := s.prog.tokens.erase x } }) := by
  show execToken core ctr n k part false s = _
  unfold execToken
  rw [if_neg Bool.false_ne_true, hx]
  rfl

theorem token_lands {s : State} {core : BitVec 7} {ctr : BitVec 6} {n : BitVec 16} {k : BitVec 64} {x : Token}
    (hc : Canon s) (hx : nextToken s core ctr n k = some x) (part : BitVec 6) :
    ∃ t, exec (.token core ctr n k part false) s = .next t ∧
      t.prog.tokens = s.prog.tokens.erase x ∧ t.mem = s.mem ∧ t.out = s.out ∧
      (k = s.steep.k → n ≠ 0 → creditOf (coreOf s core.toNat) ctr.toNat + n.toNat ≤ 65535 →
        creditOf (coreOf t core.toNat) ctr.toNat = creditOf (coreOf s core.toNat) ctr.toNat + n.toNat) ∧
      (ahead k s.steep.k ≠ 0 → (coreOf t core.toNat).held = (coreOf s core.toNat).held ++ [(ctr, n)]) ∧
      (ahead s.steep.k k ≠ 0 → t.prog.dropped = s.prog.dropped + 1 ∧ t.prog.cores = s.prog.cores) := by
  have ht := exec_token_of_local hx part
  have hcv : Canon { s with prog := { s.prog with tokens := s.prog.tokens.erase x } } := .frameParts hc
  generalize hv : ({ s with prog := { s.prog with tokens := s.prog.tokens.erase x } } : State) = v at ht hcv
  obtain ⟨htok, hmem, hout⟩ := landToken_keeps core.toNat ctr n k v
  have hcore (i : Nat) : coreOf v i = coreOf s i := hv ▸ rfl
  have hsteep : v.steep = s.steep := hv ▸ rfl
  refine ⟨_, ht, htok.trans (hv ▸ rfl), hmem.trans (hv ▸ rfl), hout.trans (hv ▸ rfl), fun hk hn hle => ?_, fun hk => ?_,
    fun hk => ?_⟩
  · rw [creditOf_landToken hcv (by rw [hsteep, hk]) hn (by rw [hcore]; exact hle), hcore]
  · rw [landToken_of_later (by rw [hsteep]; exact hk), coreOf_updCore_self hcv, hcore]
  · rw [landToken_of_earlier (by rw [hsteep]; exact hk)]
    exact ⟨congrArg (· + 1) (hv ▸ rfl : v.prog.dropped = s.prog.dropped), hv ▸ rfl⟩

/-- Settles O17: each control op by what it does at its start, an op's completion, and where a token lands. -/
theorem controlOpsAndCredits : Obligations.ControlOpsAndCredits := by
  unfold Obligations.ControlOpsAndCredits
  refine ⟨fun s core stream q hi hs => syncWait_runs (canon_iff_inv.mpr hi) hs,
    fun s core stream q img m hi hs himg ha h1 h2 h3 hm => syncSend_sends (canon_iff_inv.mpr hi) hs himg ha h1 h2 h3 hm,
    fun s core stream q hi hs => syncTime_runs (canon_iff_inv.mpr hi) hs,
    fun s core stream q hi hs => mark_runs (canon_iff_inv.mpr hi) hs,
    fun s core stream q hi hs => halt_runs_nothing (canon_iff_inv.mpr hi) hs,
    fun s core op r hi hr => ⟨opComplete_removes (canon_iff_inv.mpr hi) hr, fun hlate => ?late⟩,
    fun s core ctr n k part x hi hx => token_lands (canon_iff_inv.mpr hi) hx part,
    fun s core ctr n k part hi => ⟨fun hp => ?foreign, fun hp hk hn hle => ?remote⟩⟩
  case late => exact (execOpComplete_of_found hr).trans (congrArg _ (if_neg (by rw [hlate]; exact Bool.false_ne_true)))
  case foreign => exact ⟨_, (exec_token_of_remote ..).trans (congrArg _ (if_pos hp)), rfl⟩
  case remote =>
    obtain ⟨htok, hmem, -⟩ := landToken_keeps core.toNat ctr n k s
    exact ⟨_, (exec_token_of_remote ..).trans (congrArg _ (if_neg (not_not_intro hp))), htok, hmem,
      creditOf_landToken (canon_iff_inv.mpr hi) hk hn hle⟩

end Sys2Proof.Machine
end

section
/-! O18. What BIND, BIND_EFFECT and PROGRAM_FETCH leave. -/

namespace Sys2Proof.Machine

/-! ### The completion of a command -/

theorem mem_cmds_of_headCmd {s : State} {op : Nat} {c : Cmd} (h : headCmd s op = some c) : c ∈ s.front.cmds := by
  unfold headCmd at h
  split at h
  next a ha =>
    split at h
    · exact Option.some.inj h ▸ List.mem_of_find?_eq_some ha
    · cases h
  next => cases h

/-- A command that stands among the accepted ones completes, whatever has happened outside the front end. -/
theorem completed_finish {s u : State} {c : Cmd} (hc : c ∈ s.front.cmds) (hu : u.front = s.front)
    (status detail info : Nat) : Completed s (finish c.id status detail info u) c.id status detail info := by
  have hsome : (cmdOf s c.id).isSome = true := List.find?_isSome.mpr ⟨c, hc, decide_eq_true rfl⟩
  obtain ⟨a, ha⟩ := Option.isSome_iff_exists.mp hsome
  have hid : a.id = c.id := of_decide_eq_true (List.find?_some ha :)
  have hau : cmdOf u c.id = some a := (congrArg (fun f : Front => f.cmds.find? fun x => x.id = c.id) hu :).trans ha
  unfold finish finishWith
  rw [hau]
  refine ⟨?_, a, _, ha, List.mem_append_right _ (List.mem_singleton_self _), hid, rfl, rfl, rfl, rfl, rfl⟩
  refine List.find?_eq_none.mpr fun x hx => ?_
  have hne := (List.mem_filter.mp hx).2
  simpa using hne

theorem finish_keeps (id status detail info : Nat) (s : State) :
    (finish id status detail info s).prog = s.prog ∧ (finish id status detail info s).mem = s.mem := by
  unfold finish finishWith
  split <;> exact ⟨rfl, rfl⟩

/-! ### BIND -/

theorem takeBind_core {s : State} (hc : Canon s) (g : Nat) (b : Binding) :
    (coreOf (takeBind g b s) g).pendingBind = some b ∧
      (coreOf (takeBind g b s) g).binding = (settleBind s (coreOf s g)).binding ∧
      ∀ i, i ≠ g → coreOf (takeBind g b s) i = coreOf s i := by
  have h := (OnCore.refl hc g).updCore fun k => { settleBind s k with pendingBind := some b }
  unfold takeBind
  dsimp only
  split
  · rw [h.core]
    exact ⟨rfl, rfl, h.frame.2⟩
  · have h' := h.updCore fun k => { k with fetch := .idle, nextImage := none, nextStrain := [] }
    rw [h'.core]
    exact ⟨rfl, rfl, h'.frame.2⟩

theorem takeBind_keeps (g : Nat) (b : Binding) (s : State) :
    (takeBind g b s).front = s.front ∧ (takeBind g b s).mem = s.mem := by
  unfold takeBind
  dsimp only
  split <;> exact ⟨rfl, rfl⟩

/-- The binding that a BIND command asks for (spec/05 R137). -/
def askedBinding (w : BitVec 512) : Binding where
  mode := BitVec.ofNat 2 (bits (cP0 w) 8 2)
  dir := BitVec.ofNat 48 (cAddr0 w)
  dlen := BitVec.ofNat 16 (bits (cP0 w) 16 16)
  first := cSteep w
  slotMap := BitVec.ofNat 48 (cP1 w)
  kvMap := BitVec.ofNat 48 (cP2 w)

/-- The directory of a BIND command passes every check (spec/05 R140). -/
def DirectoryOk (s : State) (p mode : Nat) (b : Binding) : Prop :=
  b.dlen.toNat ≠ 0 ∧ b.dir.toNat % 16 = 0 ∧ (mode = 1 → b.dlen.toNat = stepLen s) ∧
    ∀ i < b.dlen.toNat, entryWindows s p b i = true ∧ checkEntry s p b b.first i = none

section
variable {s : State} {c : Cmd} (hc : headCmd s 0x20 = some c)
include hc

theorem execBind_of_foreign (hh : holdsCore s c.part.toNat (bits (cP0 c.word) 0 7) = false) :
    exec .bind s = .next (finish c.id stNotPermitted 0 0 s) := by
  show execBind s = _
  unfold execBind onHead
  rw [hc]
  dsimp only
  rw [hh]
  rfl

/-- BIND of a core that the partition holds comes to its steep once its directory, if it has one, is sound. -/
theorem execBind_of_sound (hh : holdsCore s c.part.toNat (bits (cP0 c.word) 0 7) = true)
    (h3 : bits (cP0 c.word) 8 2 ≠ 3)
    (hdir : bits (cP0 c.word) 8 2 ≠ 0 → DirectoryOk s c.part.toNat (bits (cP0 c.word) 8 2) (askedBinding c.word))
    (hk : boundariesKnown s = true) (h20 : atLeast20us s (cSteep c.word) = true) :
    exec .bind s = .next (finish c.id stOk 0 0 (takeBind (bits (cP0 c.word) 0 7) (askedBinding c.word) s)) := by
  show execBind s = _
  unfold execBind onHead
  rw [hc]
  dsimp only
  rw [hh, hk, h20, if_neg (by decide), if_neg h3]
  by_cases h0 : bits (cP0 c.word) 8 2 = 0
  · rw [if_pos h0]
    rfl
  · obtain ⟨hn, ha, hlen, hentry⟩ := hdir h0
    have hwin : (List.range (askedBinding c.word).dlen.toNat).find?
        (fun i => !entryWindows s c.part.toNat (askedBinding c.word) i) = none :=
      List.find?_eq_none.mpr fun i hi => by rw [(hentry i (List.mem_range.mp hi)).1]; decide
    have hchecks : (List.range (askedBinding c.word).dlen.toNat).findSome?
        (fun i => checkEntry s c.part.toNat (askedBinding c.word) (cSteep c.word) i) = none :=
      List.findSome?_eq_none_iff.mpr fun i hi => (hentry i (List.mem_range.mp hi)).2
    have hplace : ¬ (decide ((askedBinding c.word).dlen.toNat = 0) ||
        decide ((askedBinding c.word).dir.toNat % 16 ≠ 0)) = true := by
      rw [Bool.or_eq_true, decide_eq_true_eq, decide_eq_true_eq]
      exact fun h => h.elim hn (· ha)
    have hsize : ¬ (decide (bits (cP0 c.word) 8 2 = 1) &&
        decide ((askedBinding c.word).dlen.toNat ≠ stepLen s)) = true := by
      rw [Bool.and_eq_true, decide_eq_true_eq, decide_eq_true_eq]
      exact fun h => h.2 (hlen h.1)
    unfold askedBinding at hwin hchecks hplace hsize
    rw [if_neg h0, hwin, hchecks, if_neg hplace]
    dsimp only
    rw [if_neg hsize]
    rfl

end

/-! ### BIND_EFFECT -/

section
variable {s : State} {core : BitVec 7} {b : Binding} (hb : (coreOf s core.toNat).pendingBind = some b)
include hb

theorem execBindEffect_of_pending : exec (.bindEffect core) s =
    onlyIf (hasBegun s b.first) s (updCore core.toNat fun k => { k with binding := b, pendingBind := none }) := by
  show execBindEffect core s = _
  unfold execBindEffect
  dsimp only
  rw [hb]

theorem bindEffect_of_begun (hc : Canon s) (h : hasBegun s b.first = true) : ∃ t, exec (.bindEffect core) s = .next t ∧
    coreOf t core.toNat = { coreOf s core.toNat with binding := b, pendingBind := none } ∧
    t = { s with prog := { s.prog with cores := t.prog.cores } } ∧ ∀ i, i ≠ core.toNat → coreOf t i = coreOf s i := by
  have ht := execBindEffect_of_pending hb
  rw [h] at ht
  have hon := (OnCore.refl hc core.toNat).updCore fun k => { k with binding := b, pendingBind := none }
  exact ⟨_, ht, hon.core, rfl, hon.frame.2⟩

theorem bindEffect_of_not_begun (h : hasBegun s b.first = false) : exec (.bindEffect core) s = .next s := by
  rw [execBindEffect_of_pending hb, h]
  rfl

end

/-! ### PROGRAM_FETCH -/

theorem programFetch_begins {s : State} {core : BitVec 7} (hc : Canon s) (hk : boundariesKnown s = true)
    (hi : (coreOf s core.toNat).fetch = .idle)
    (hb : isServe (bindingAt s core.toNat (s.steep.k + 1)) = true ∨
      isTrain (bindingAt s core.toNat (s.steep.k + 1)) = true) :
    ∃ t, exec (.programFetch core) s = .next t ∧ coreOf t core.toNat = { coreOf s core.toNat with
        fetch := .fetching, paired := pairedNext s core.toNat (bindingAt s core.toNat (s.steep.k + 1)) } ∧
      t.time = waited s (dieClock s core.toNat (s.steep.b + 16)) ∧ t.mem = s.mem ∧ t.out = s.out ∧ t.steep = s.steep ∧
      ∀ i, i ≠ core.toNat → coreOf t i = coreOf s i := by
  have hgo : (boundariesKnown s && (coreOf s core.toNat).fetch == .idle &&
      (isTrain (bindingAt s core.toNat (s.steep.k + 1)) || isServe (bindingAt s core.toNat (s.steep.k + 1)))) = true := by
    rw [hk, hi, Bool.or_comm, Bool.or_eq_true_iff.mpr hb]
    rfl
  have hon := (OnCore.refl (Canon.untilTime (t := dieClock s core.toNat (s.steep.b + 16)) hc) core.toNat).updCore fun k =>
    { k with fetch := .fetching, paired := pairedNext s core.toNat (bindingAt s core.toNat (s.steep.k + 1)) }
  exact ⟨_, congrArg Host.Outcome.next (if_pos hgo), hon.core, untilTime_waits .., rfl, rfl, rfl, hon.frame.2⟩

end Sys2Proof.Machine
end

section
/-! O18 and O19. What a read of the module's memories leaves as it was: the cores and the bytes stored. -/

namespace Sys2Proof.Machine

/-- Between `s` and `t` the stores have been read: only their records of errors, the keys' counts, the step's failure and
what is observed may differ. -/
def ReadOnly (s t : State) : Prop :=
  t = { s with steep := t.steep, ad := t.ad, hbm := t.hbm, leaf := t.leaf, cust := t.cust, obs := t.obs }

namespace ReadOnly

variable {s t : State}

theorem refl (s : State) : ReadOnly s s := rfl

/-- A record update of what a read may change. -/
theorem frame {steep ad hbm leaf cust obs} (h : ReadOnly s t) :
    ReadOnly s (.mk t.pending t.clock t.time t.timeKnown t.slew t.free t.mem t.power steep t.prog ad t.front t.red hbm leaf
      t.fab cust t.dict obs t.boot t.out) :=
  (congrArg (fun v : State => { v with steep := steep, ad := ad, hbm := hbm, leaf := leaf, cust := cust, obs := obs }) h :)

theorem prog (h : ReadOnly s t) : t.prog = s.prog := (congrArg State.prog h :)

theorem mem (h : ReadOnly s t) : t.mem = s.mem := (congrArg State.mem h :)

theorem core (h : ReadOnly s t) (g : Nat) : coreOf t g = coreOf s g := (congrArg (coreOf · g) h :)

theorem ite {x y : State} {c : Prop} [Decidable c] (hx : ReadOnly s x) (hy : ReadOnly s y) :
    ReadOnly s (if c then x else y) := by
  split
  · exact hx
  · exact hy

theorem foldl {α : Type} {f : State → α → State} {l : List α} (h : ReadOnly s t)
    (hf : ∀ t x, ReadOnly s t → ReadOnly s (f t x)) : ReadOnly s (l.foldl f t) := by
  induction l generalizing t with
  | nil => exact h
  | cons x l ih => exact ih (hf t x h)

theorem foldl_snd {α β : Type} {f : β × State → α → β × State} {l : List α} {p : β × State} (h : ReadOnly s p.2)
    (hf : ∀ p x, ReadOnly s p.2 → ReadOnly s (f p x).2) : ReadOnly s (l.foldl f p).2 := by
  induction l generalizing p with
  | nil => exact h
  | cons x l ih => exact ih (hf p x h)

theorem of_snd {α : Type} {p : α × State} {x : α} (hp : p = (x, t)) (h : ReadOnly s p.2) : ReadOnly s t := by
  rw [hp] at h
  exact h

theorem noted {u : State} (h : ReadOnly s t) (hu : Noted t u) : ReadOnly s u := by
  rw [show u = _ from hu]
  exact .frame h

theorem trace {ty block part data} (h : ReadOnly s t) : ReadOnly s (trace ty block part data t) :=
  h.noted (trace_noted ..)

theorem count {b ev n} (h : ReadOnly s t) : ReadOnly s (count b ev n t) := .frame h

theorem countHbm {ev a n} (h : ReadOnly s t) : ReadOnly s (countHbm ev a n t) := by
  unfold Machine.countHbm
  split
  · exact .count h
  · exact h

/-! ### Verified reads (spec/10 R297, R304) -/

theorem rasEvent {st pc bank row kind} (h : ReadOnly s t) : ReadOnly s (rasEvent st pc bank row kind t) := by
  unfold Machine.rasEvent
  exact .trace <| .frame h

theorem retirePc {st pc} (h : ReadOnly s t) : ReadOnly s (retirePc st pc t) := by
  unfold Machine.retirePc
  dsimp only
  split
  · exact h
  · exact .ite h (.rasEvent <| .frame <| .frame h)

theorem rowFailing {st pc bank row} (h : ReadOnly s t) : ReadOnly s (rowFailing st pc bank row t) := by
  unfold Machine.rowFailing
  dsimp only
  split
  · exact .ite (.frame <| .rasEvent h) (.retirePc <| .rasEvent h)
  · exact .rasEvent h
  · exact .retirePc <| .rasEvent h

theorem unitFailing {u} (h : ReadOnly s t) : ReadOnly s (unitFailing u t) := by
  unfold Machine.unitFailing
  dsimp only
  split
  · exact .rowFailing h
  · exact h

theorem unitCorrected {u} (h : ReadOnly s t) : ReadOnly s (unitCorrected u t) := by
  unfold Machine.unitCorrected
  dsimp only
  split
  · exact .ite (.unitFailing <| .frame <| .count <| .frame h) (.count <| .frame h)
  · exact h

theorem eccEvents {env b} (h : ReadOnly s t) : ReadOnly s (eccEvents env b t) := by
  unfold Machine.eccEvents
  refine .foldl h fun _ _ h => ?_
  extract_lets _ s1
  have h1 : ReadOnly s s1 := .ite (.unitCorrected h) h
  exact .ite (.unitFailing h1) h1

theorem verifyBlock {env b} (h : ReadOnly s t) : ReadOnly s (verifyBlock env b t).2 := by
  unfold Machine.verifyBlock
  extract_lets _ _ _ s1 s2 _ s3
  have h3 : ReadOnly s s3 := .rasEvent <| .frame <| .count <| .frame h
  split
  · exact h
  · split
    · exact .eccEvents <| .count <| .frame h
    · split
      · exact .eccEvents h
      · split
        · exact .ite (.eccEvents h3) (.foldl h3 fun _ _ h => .unitFailing h)
        · split
          · exact .eccEvents <| .count <| .frame h
          · exact .eccEvents h

theorem verifyRange {env a n} (h : ReadOnly s t) : ReadOnly s (verifyRange env a n t).2 := by
  unfold Machine.verifyRange
  split
  · exact h
  · exact .foldl_snd h fun _ _ h => .verifyBlock h

end ReadOnly

end Sys2Proof.Machine
end

section
/-! O18. What PROGRAM_FETCH_DONE and OP_DISPATCH leave. -/

namespace Sys2Proof.Machine

/-! ### PROGRAM_FETCH_DONE -/

theorem bringUpsets_onCore {s : State} (hc : Canon s) (g : Nat) (env : ReadEnv) :
    ∃ x, OnCore s (bringUpsets g env s) g s.mem { coreOf s g with upsets := x } := by
  unfold bringUpsets
  split
  · exact ⟨_, OnCore.refl hc g⟩
  · exact ⟨_, (OnCore.refl hc g).updCore _⟩

theorem bringUpsets_eq (g : Nat) (env : ReadEnv) (s : State) : bringUpsets g env s =
    { s with prog := { s.prog with cores := (bringUpsets g env s).prog.cores } } := by
  unfold bringUpsets
  split <;> rfl

/-- The ECC errors that come up in a core's memories leave what the core is bound to and fetches. -/
theorem bringUpsets_plan {s : State} (hc : Canon s) (g : Nat) (env : ReadEnv) (k : BitVec 64) (b : Binding) :
    bindingAt (bringUpsets g env s) g k = bindingAt s g k ∧
      nextImageAddr (bringUpsets g env s) g b = nextImageAddr s g b := by
  obtain ⟨x, h⟩ := bringUpsets_onCore hc g env
  have hrest := bringUpsets_eq g env s
  generalize bringUpsets g env s = u at h hrest
  have hpair : (coreOf u g).paired = (coreOf s g).paired := (congrArg Core.paired h.core :)
  constructor
  · unfold bindingAt
    rw [h.core]
  · unfold nextImageAddr
    rw [hpair, hrest]
    rfl

/-- The end of core `g`'s fetch of the image at `a` and the strain list of KV control entry `c`. -/
def fetchEnded (env : ReadEnv) (g p a : Nat) (c : BitVec 256) (n l : Nat) (s : State) : State :=
  if !windowOk s p a 64 || !windowOk s p a n || (l ≠ 0 && !windowOk s p (kSlist c) l) then
    updCore g (fun k => { k with fetch := .outside }) s
  else
    let r := verifyRange env a n s
    let q := verifyRange env (kSlist c) l r.2
    let s := countHbm 0x040 (kSlist c) l (countHbm 0x040 a n q.2)
    if r.1 || q.1 then updCore g (fun k => { k with fetch := .badCrc }) s
    else updCore g (fun k => { k with fetch := .done, nextImage := some (imageAt s a), nextStrain := strainList s c }) s

theorem execProgramFetchDone_of_fetching {s : State} {core : BitVec 7} (env : ReadEnv) (hc : Canon s)
    (hf : (coreOf s core.toNat).fetch = .fetching) {b : Binding} {a : Nat} {c : BitVec 256}
    (hb : b = bindingAt s core.toNat (s.steep.k + 1)) (ha : a = nextImageAddr s core.toNat b)
    (hk : c = kvCtlAt s b (entryOf b (s.steep.k + 1) (sidxNext s))) :
    exec (.programFetchDone core env) s = .next (fetchEnded env core.toNat (coreOwnerD s core.toNat) a c
      (imageBytes (headerAt s a)) (if kValid c then 32 * kNcmd c else 0) (bringUpsets core.toNat env s)) := by
  have hgo : ((coreOf s core.toNat).fetch == .fetching) = true := by
    rw [hf]
    rfl
  have hplan := bringUpsets_plan hc core.toNat env (s.steep.k + 1) b
  have hrest := bringUpsets_eq core.toNat env s
  have hexec : exec (.programFetchDone core env) s =
      .next (let u := bringUpsets core.toNat env s
        let b := bindingAt u core.toNat (u.steep.k + 1)
        let a := nextImageAddr u core.toNat b
        let c := kvCtlAt u b (entryOf b (u.steep.k + 1) (sidxNext u))
        fetchEnded env core.toNat (coreOwnerD u core.toNat) a c (imageBytes (headerAt u a))
          (if kValid c then 32 * kNcmd c else 0) u) :=
    congrArg Host.Outcome.next (if_pos hgo)
  rw [hexec]
  generalize bringUpsets core.toNat env s = u at hplan hrest
  have hsteep : u.steep = s.steep := (congrArg State.steep hrest :)
  have hkv (b i) : kvCtlAt u b i = kvCtlAt s b i := (congrArg (kvCtlAt · b i) hrest :)
  have hsidx : sidxNext u = sidxNext s := (congrArg sidxNext hrest :)
  have hown : coreOwnerD u core.toNat = coreOwnerD s core.toNat := (congrArg (coreOwnerD · core.toNat) hrest :)
  have hhead (a) : headerAt u a = headerAt s a := (congrArg (headerAt · a) hrest :)
  dsimp only
  rw [hsteep, hplan.1, ← hb, hplan.2, ← ha, hsidx, hkv, ← hk, hown, hhead]

theorem imageAt_of_mem {s t : State} (h : t.mem = s.mem) (a : Nat) : imageAt t a = imageAt s a := by
  unfold imageAt headerAt memWord
  rw [h]

theorem strainList_of_mem {s t : State} (h : t.mem = s.mem) (c : BitVec 256) : strainList t c = strainList s c := by
  unfold strainList memWord
  rw [h]

/-- A fetch inside the partition's windows ends with the image and the strain list, or with a bad block. -/
theorem fetchEnded_of_inside {env : ReadEnv} {g p a n l : Nat} {c : BitVec 256} {u : State} (hc : Canon u)
    (h64 : windowOk u p a 64 = true) (hn : windowOk u p a n = true) (hl : l ≠ 0 → windowOk u p (kSlist c) l = true)
    {r r' : Bool × State} (hr : r = verifyRange env a n u) (hr' : r' = verifyRange env (kSlist c) l r.2)
    {t : State} (ht : t = fetchEnded env g p a c n l u) :
    t.mem = u.mem ∧ (coreOf t g).image = (coreOf u g).image ∧
      (r.1 = false → r'.1 = false → (coreOf t g).fetch = .done ∧ (coreOf t g).nextImage = some (imageAt u a) ∧
        (coreOf t g).nextStrain = strainList u c) ∧
      (r.1 = true ∨ r'.1 = true → (coreOf t g).fetch = .badCrc ∧
        (coreOf t g).nextImage = (coreOf u g).nextImage) := by
  have hin : ¬ (!windowOk u p a 64 || !windowOk u p a n || (l ≠ 0 && !windowOk u p (kSlist c) l)) = true := by
    simpa [h64, hn] using hl
  have hc' : Canon r'.2 := hr' ▸ .verifyRange (hr ▸ .verifyRange hc)
  have hread : ReadOnly u r'.2 := hr' ▸ .verifyRange (hr ▸ .verifyRange (.refl u))
  unfold fetchEnded at ht
  rw [if_neg hin] at ht
  dsimp only at ht
  rw [← hr, ← hr'] at ht
  have hv : ReadOnly u (countHbm 0x040 (kSlist c) l (countHbm 0x040 a n r'.2)) := hread.countHbm.countHbm
  have hon (f : Core → Core) := (OnCore.refl (Canon.countHbm (Canon.countHbm hc') :
    Canon (countHbm 0x040 (kSlist c) l (countHbm 0x040 a n r'.2))) g).updCore f
  generalize countHbm 0x040 (kSlist c) l (countHbm 0x040 a n r'.2) = v at ht hv hon
  rw [imageAt_of_mem hv.mem, strainList_of_mem hv.mem] at ht
  split at ht
  next hbad =>
    rw [ht, (hon _).mem, (hon _).core, hv.mem, hv.core]
    refine ⟨rfl, rfl, fun h1 h2 => ?_, fun _ => ⟨rfl, rfl⟩⟩
    rw [h1, h2] at hbad
    cases hbad
  next hgood =>
    rw [ht, (hon _).mem, (hon _).core, hv.mem, hv.core]
    refine ⟨rfl, rfl, fun _ _ => ⟨rfl, rfl, rfl⟩, fun hbad => ?_⟩
    rw [Bool.or_eq_true] at hgood
    exact absurd hbad hgood

theorem programFetchDone_ends {s : State} {core : BitVec 7} {env : ReadEnv} {a n l : Nat} {c : BitVec 256}
    {r r' : Bool × State} (hc : Canon s) (hf : (coreOf s core.toNat).fetch = .fetching)
    (ha : a = nextImageAddr s core.toNat (bindingAt s core.toNat (s.steep.k + 1)))
    (hk : c = kvCtlAt s (bindingAt s core.toNat (s.steep.k + 1))
      (entryOf (bindingAt s core.toNat (s.steep.k + 1)) (s.steep.k + 1) (sidxNext s)))
    (hn : n = imageBytes (headerAt s a)) (hl : l = (if kValid c then 32 * kNcmd c else 0))
    (h64 : windowOk s (coreOwnerD s core.toNat) a 64 = true) (hw : windowOk s (coreOwnerD s core.toNat) a n = true)
    (hs : l ≠ 0 → windowOk s (coreOwnerD s core.toNat) (kSlist c) l = true)
    (hr : r = verifyRange env a n (bringUpsets core.toNat env s)) (hr' : r' = verifyRange env (kSlist c) l r.2) :
    ∃ t, exec (.programFetchDone core env) s = .next t ∧ t.mem = s.mem ∧
      (coreOf t core.toNat).image = (coreOf s core.toNat).image ∧
      (r.1 = false → r'.1 = false → (coreOf t core.toNat).fetch = .done ∧
        (coreOf t core.toNat).nextImage = some (imageAt s a) ∧ (coreOf t core.toNat).nextStrain = strainList s c) ∧
      (r.1 = true ∨ r'.1 = true → (coreOf t core.toNat).fetch = .badCrc ∧
        (coreOf t core.toNat).nextImage = (coreOf s core.toNat).nextImage) := by
  have ht := execProgramFetchDone_of_fetching env hc hf rfl ha hk
  rw [← hn, ← hl] at ht
  obtain ⟨x, h⟩ := bringUpsets_onCore hc core.toNat env
  have hrest := bringUpsets_eq core.toNat env s
  generalize bringUpsets core.toNat env s = u at ht h hrest hr
  have hwin (p a n) : windowOk u p a n = windowOk s p a n := (congrArg (windowOk · p a n) hrest :)
  have hend := fetchEnded_of_inside (g := core.toNat) h.canon (by rwa [hwin]) (by rwa [hwin]) (by rwa [hwin]) hr hr' rfl
  rw [h.mem, h.core, imageAt_of_mem h.mem, strainList_of_mem h.mem] at hend
  exact ⟨_, ht, hend⟩

end Sys2Proof.Machine
end

section
/-! O18. What OP_DISPATCH leaves. -/

namespace Sys2Proof.Machine

/-- The place of a stream's next op in its program: that of stream 1 follows the ops of stream 0. -/
def nextIndex (k : Core) (stream : Bool) : Nat :=
  if stream then (streamOps k false).length + streamNext k stream else streamNext k stream

/-- The next op of a stream, as it comes to a queue at a clock. -/
def queuedOp (k : Core) (stream : Bool) (w : BitVec 128) (now : Nat) : QOp :=
  { word := w, index := BitVec.ofNat 16 (nextIndex k stream), stream := stream, dispatched := now }

/-- A core once op `q` of stream `q.stream` has gone to its unit's queue. -/
def dispatchedTo (k : Core) (q : QOp) : Core :=
  { k with
    queues := supd [] (opUnit (oOp q.word)) (fun l => l ++ [q]) k.queues, lastDispatch := q.stream,
    next0 := if q.stream then k.next0 else streamNext k q.stream + 1,
    next1 := if q.stream then streamNext k q.stream + 1 else k.next1,
    dispatchAt := q.dispatched + 1 }

theorem streamNext_dispatchedTo (k : Core) (q : QOp) :
    streamNext (dispatchedTo k q) q.stream = streamNext k q.stream + 1 ∧
      streamNext (dispatchedTo k q) (!q.stream) = streamNext k (!q.stream) := by
  obtain ⟨w, i, stream, d⟩ := q
  cases stream <;> exact ⟨rfl, rfl⟩

theorem queues_dispatchedTo (k : Core) (q : QOp) : sget [] (opUnit (oOp q.word)) (dispatchedTo k q).queues =
    sget [] (opUnit (oOp q.word)) k.queues ++ [q] := by
  unfold dispatchedTo supd
  exact sget_sput_self ([] : List QOp) _ _ (List.append_ne_nil_of_right_ne_nil _ (List.cons_ne_nil _ _)) _

/-- A core of a Locked module may dispatch: it runs, its binding is settled and it is not held. -/
structure MayDispatch (s : State) (g : Nat) : Prop where
  locked : isLocked s = true
  good : (coreOf s g).faulted = none
  runs : (coreOf s g).aborted = false
  settled : ∀ b, (coreOf s g).pendingBind = some b → hasBegun s b.first = false
  free : (coreOf s g).heldUntil ≤ s.clock

theorem execOpDispatch_of_dispatchable {s u : State} {core : BitVec 7} {stream : Bool} {w : BitVec 128}
    (h : MayDispatch s core.toNat)
    (hu : u = untilClock (coreOf s core.toNat).dispatchAt (untilTime (dieClock s core.toNat (s.steep.b + 16)) s))
    (hturn : stream ≠ (coreOf s core.toNat).lastDispatch ∨ dispatchable u.clock (coreOf s core.toNat) (!stream) = none)
    (hw : dispatchable u.clock (coreOf s core.toNat) stream = some w) :
    exec (.opDispatch core stream) s = .next
      (if !decodeOk w then progFault core.toNat stream (nextIndex (coreOf s core.toNat) stream) 1 u
      else count core.toNat 0x050 1 (updCore core.toNat
        (fun _ => dispatchedTo (coreOf s core.toNat) (queuedOp (coreOf s core.toNat) stream w u.clock)) u)) := by
  obtain ⟨hlocked, hgood, hruns, hsettled, hfree⟩ := h
  have hdue : (match (coreOf s core.toNat).pendingBind with
      | some b => hasBegun s b.first
      | none => false) = false := by
    split
    next b hb => exact hsettled b hb
    next => rfl
  have hmine : ¬ (decide (stream = (coreOf s core.toNat).lastDispatch) &&
      (dispatchable u.clock (coreOf s core.toNat) (!stream)).isSome) = true := by
    rw [Bool.and_eq_true, decide_eq_true_eq]
    rintro ⟨hlast, hsome⟩
    rcases hturn with hne | hnone
    · exact hne hlast
    · rw [hnone] at hsome
      cases hsome
  have hgo : ¬ (!isLocked s || (coreOf s core.toNat).faulted.isSome || (coreOf s core.toNat).aborted ||
      (match (coreOf s core.toNat).pendingBind with
        | some b => hasBegun s b.first
        | none => false) || decide (s.clock < (coreOf s core.toNat).heldUntil)) = true := by
    rw [hdue, hlocked, hgood, hruns, decide_eq_false (Nat.not_lt.mpr hfree)]
    decide
  show execOpDispatch core stream s = _
  unfold execOpDispatch
  subst hu
  refine (if_neg hgo).trans ((if_neg hmine).trans ?_)
  rw [hw]
  dsimp only
  split <;> rfl

theorem progFault_faults (g : Nat) (stream : Bool) (index c : Nat) (s : State) :
    (progFault g stream index c s).prog.faults = s.prog.faults + 1 := by
  unfold progFault
  exact (congrArg (·.prog.faults) (trace_noted ..) :)

theorem progFault_faulted {s : State} (hc : Canon s) {g : Nat} (hf : (coreOf s g).faulted = none) (stream : Bool)
    (index c : Nat) : (coreOf (progFault g stream index c s) g).faulted = some (BitVec.ofNat 8 c) := by
  obtain ⟨v, hv, hn⟩ := progFault_eq g stream index c s
  have hcore : coreOf (progFault g stream index c s) g = faultedWith c (coreOf s g) :=
    (hn.coreOf g).trans ((congrArg (coreOf · g) hv :).trans (coreOf_updCore_self hc g _))
  rw [hcore]
  unfold faultedWith
  rw [hf]
  rfl

section
variable {s u : State} {core : BitVec 7} {stream : Bool} {w : BitVec 128} (hc : Canon s) (h : MayDispatch s core.toNat)
  (hu : u = untilClock (coreOf s core.toNat).dispatchAt (untilTime (dieClock s core.toNat (s.steep.b + 16)) s))
  (hturn : stream ≠ (coreOf s core.toNat).lastDispatch ∨ dispatchable u.clock (coreOf s core.toNat) (!stream) = none)
  (hw : dispatchable u.clock (coreOf s core.toNat) stream = some w)
include hc h hu hturn hw

theorem opDispatch_queues (hd : decodeOk w = true) : ∃ t q, exec (.opDispatch core stream) s = .next t ∧ q.word = w ∧
    q.stream = stream ∧ q.dispatched = t.clock ∧ t.clock = u.clock ∧ t.time = u.time ∧
    sget [] (opUnit (oOp w)) (coreOf t core.toNat).queues =
      sget [] (opUnit (oOp w)) (coreOf s core.toNat).queues ++ [q] ∧
    streamNext (coreOf t core.toNat) stream = streamNext (coreOf s core.toNat) stream + 1 ∧
    streamNext (coreOf t core.toNat) (!stream) = streamNext (coreOf s core.toNat) (!stream) ∧
    (coreOf t core.toNat).dispatchAt = t.clock + 1 ∧ (coreOf t core.toNat).lastDispatch = stream ∧ t.mem = s.mem ∧
    ∀ i, i ≠ core.toNat → coreOf t i = coreOf s i := by
  have ht := execOpDispatch_of_dispatchable h hu hturn hw
  rw [hd] at ht
  have hcu : Canon u := hu ▸ .untilClock (.untilTime hc)
  have hother (i : Nat) : coreOf u i = coreOf s i := hu ▸ rfl
  have hmem : u.mem = s.mem := hu ▸ rfl
  have hon := ((OnCore.refl hcu core.toNat).updCore fun _ => dispatchedTo (coreOf s core.toNat)
    (queuedOp (coreOf s core.toNat) stream w u.clock)).count core.toNat 0x050 1
  have hnext := streamNext_dispatchedTo (coreOf s core.toNat) (queuedOp (coreOf s core.toNat) stream w u.clock)
  refine ⟨_, queuedOp (coreOf s core.toNat) stream w u.clock, ht, rfl, rfl, rfl, rfl, rfl, ?_, ?_, ?_, ?_, ?_,
    hon.mem.trans hmem, fun i hi => (hon.frame.2 i hi).trans (hother i)⟩
  · exact (congrArg (fun k : Core => sget [] (opUnit (oOp w)) k.queues) hon.core :).trans
      (queues_dispatchedTo _ (queuedOp (coreOf s core.toNat) stream w u.clock))
  · exact (congrArg (streamNext · stream) hon.core :).trans hnext.1
  · exact (congrArg (streamNext · !stream) hon.core :).trans hnext.2
  · exact (congrArg Core.dispatchAt hon.core :)
  · exact (congrArg Core.lastDispatch hon.core :)

theorem opDispatch_faults (hd : decodeOk w = false) : ∃ t, exec (.opDispatch core stream) s = .next t ∧
    (coreOf t core.toNat).faulted = some 1 ∧ t.prog.faults = s.prog.faults + 1 ∧ t.mem = s.mem := by
  have ht := execOpDispatch_of_dispatchable h hu hturn hw
  rw [hd] at ht
  have hcu : Canon u := hu ▸ .untilClock (.untilTime hc)
  have hgood : (coreOf u core.toNat).faulted = none :=
    (congrArg (fun v => (coreOf v core.toNat).faulted) hu :).trans h.good
  have hfaults : u.prog.faults = s.prog.faults := hu ▸ rfl
  have hmem : u.mem = s.mem := hu ▸ rfl
  exact ⟨_, ht, progFault_faulted hcu hgood .., (progFault_faults ..).trans (congrArg (· + 1) hfaults),
    (progFault_keeps ..).2.1.trans hmem⟩

end

/-- Settles O18: BIND, BIND_EFFECT, PROGRAM_FETCH, PROGRAM_FETCH_DONE and OP_DISPATCH, one lemma each. -/
theorem bindingFetchAndDispatch : Obligations.BindingFetchAndDispatch := by
  unfold Obligations.BindingFetchAndDispatch
  refine ⟨?_, ?_, ?_, ?_, ?_, ?_⟩
  · rintro s c _ _ hinv hc rfl hh rfl h3 hdir hk h20
    have hcan := canon_iff_inv.mpr hinv
    have ht := execBind_of_sound hc hh h3 hdir hk h20
    obtain ⟨hpend, hbind, hothers⟩ := takeBind_core hcan (bits (cP0 c.word) 0 7) (askedBinding c.word)
    obtain ⟨hfront, hmem⟩ := takeBind_keeps (bits (cP0 c.word) 0 7) (askedBinding c.word) s
    have hdone := completed_finish (mem_cmds_of_headCmd hc) hfront stOk 0 0
    obtain ⟨hprog, hmem'⟩ := finish_keeps c.id stOk 0 0 (takeBind (bits (cP0 c.word) 0 7) (askedBinding c.word) s)
    have hcore (i : Nat) := (congrArg (fun p : Programs => sget {} i p.cores) hprog :)
    exact ⟨_, ht, (congrArg Core.pendingBind (hcore _) :).trans hpend, (congrArg Core.binding (hcore _) :).trans hbind,
      hdone, hmem'.trans hmem, fun i hi => (hcore i).trans (hothers i hi)⟩
  · intro s c hc hh
    exact ⟨_, execBind_of_foreign hc hh, completed_finish (mem_cmds_of_headCmd hc) rfl .., (finish_keeps ..).1⟩
  · intro s core b hinv hb
    exact ⟨bindEffect_of_begun hb (canon_iff_inv.mpr hinv), bindEffect_of_not_begun hb⟩
  · intro s core hinv hk hi hb
    exact programFetch_begins (canon_iff_inv.mpr hinv) hk hi hb
  · intro s core env a n l c r r' hinv hf ha hk hn hl h64 hw hs hr hr'
    exact programFetchDone_ends (canon_iff_inv.mpr hinv) hf ha hk hn hl h64 hw hs hr hr'
  · intro s u core stream w hinv hlocked hgood hruns hsettled hfree hu hturn hw
    have hc := canon_iff_inv.mpr hinv
    have h : MayDispatch s core.toNat := ⟨hlocked, hgood, hruns, hsettled, hfree⟩
    exact ⟨opDispatch_queues hc h hu hturn hw, opDispatch_faults hc h hu hturn hw⟩

end Sys2Proof.Machine
end

section
/-! O19. A transfer op that starts, its DMA descriptors, and the requests of FAB_GET and FAB_COLL. -/

namespace Sys2Proof.Machine

/-! ### The start of a transfer op -/

theorem opDescriptors_of_mem {s t : State} (h : t.mem = s.mem) (g : Nat) (w : BitVec 128) :
    opDescriptors t g w = opDescriptors s g w := by
  unfold opDescriptors tileNat tileRead
  rw [h]

theorem bringUpsets_mem (g : Nat) (env : ReadEnv) (s : State) : (bringUpsets g env s).mem = s.mem :=
  (congrArg State.mem (bringUpsets_eq g env s) :)

theorem correctReads_eq (g : Nat) (rs : List MemRange) (s : State) : ∃ ob cores,
    correctReads g rs s = { s with obs := ob, prog := { s.prog with cores := cores } } := by
  unfold correctReads
  dsimp only
  split <;> exact ⟨_, _, rfl⟩

/-- An op whose descriptors lie in words without uncorrectable error starts by reading them. -/
theorem onOp_of_readable {s : State} (hc : Canon s) {core : BitVec 7} {stream : Bool} {op : Nat} {q : QOp}
    (hs : starting s core.toNat op stream = some q) (hrule : opRuleOk q.word = true)
    (hread : readFails s core.toNat (tileRanges (descriptorRange q.word)) = false) (f : QOp → State → State) :
    onOp core stream op s (fun q s => withReads core.toNat q (descriptorRange q.word) s (f q)) =
      .next (f q (startedReading core.toNat q (tileRanges (descriptorRange q.word)) s)) := by
  rw [onOp_of_starting hs hrule]
  refine congrArg Host.Outcome.next (withReadsOf_of_good ?_ q (f q))
  rw [readFails_started hc, hread]

theorem opRuleOk_of_starting {s : State} {g op : Nat} {stream : Bool} {q : QOp} (hs : starting s g op stream = some q)
    (hop : 0x80 ≤ op) : opRuleOk q.word = true :=
  opRuleOk_of_ge (Nat.le_trans hop (starting_op hs).ge)

/-- What a started transfer op still finds of the state that it read its descriptors in. -/
theorem startedReading_finds {s : State} (hc : Canon s) (g : Nat) (q : QOp) (rs : List MemRange) :
    Canon (startedReading g q rs s) ∧ (startedReading g q rs s).mem = s.mem ∧
      (startedReading g q rs s).prog.engines = s.prog.engines ∧
      (coreOf (startedReading g q rs s) g).faulted = (coreOf s g).faulted ∧
      ∀ d, withFeed (startedReading g q rs s) g d = withFeed s g d := by
  obtain ⟨k, h, hk⟩ := startedReading_onCore hc g q rs
  have hin := hk.sameInputs h
  refine ⟨h.canon, h.mem, (congrArg (·.prog.engines) h.frame.1 :),
    (congrArg Core.faulted h.core :).trans (congrArg Core.faulted hk :), fun d => ?_⟩
  unfold withFeed
  rw [hin.binding, (congrArg (·.steep.step) hin.rest : _ = s.steep.step),
    (congrArg (·.steep.k) hin.rest : _ = s.steep.k)]

/-! ### The end of its start -/

theorem transferEnd_of_fault {c : Nat} (h7 : c ≠ 7) (g : Nat) (q : QOp) (n : Nat) (s : State) :
    transferEnd g q (some c, s) n = startFault g q c s := by
  unfold transferEnd
  split
  next h => cases h
  next h => exact absurd (Option.some.inj h) h7
  next h => rw [Option.some.inj h]

theorem runFor_running {s : State} (hc : Canon s) (g : Nat) (q : QOp) (n : Nat) :
    Running (runFor g q 1 n s) g q (s.clock + 1) n :=
  ((OnCore.refl hc g).runFor q 1 n).running (List.mem_append_right _ (List.mem_singleton_self _))

theorem runWith_running {s : State} (hc : Canon s) (g : Nat) (q : QOp) (ds : List (BitVec 512)) (n : Nat) :
    Running (runWith g q ds n s) g q (s.clock + 1) n ∧
      ∃ r ∈ (coreOf (runWith g q ds n s) g).running, r.index = q.index ∧ r.descs = ds := by
  have hk : (coreOf (runWith g q ds n s) g).running = _ := (congrArg Core.running (coreOf_updCore_self hc g _) :)
  unfold Running
  rw [hk]
  exact ⟨⟨_, List.mem_append_right _ (List.mem_singleton_self _), rfl, rfl, rfl, rfl, rfl⟩,
    _, List.mem_append_right _ (List.mem_singleton_self _), rfl, rfl⟩

/-! ### DMA -/

section
variable {s u v : State} {core : BitVec 7} {stream : Bool} {env : ReadEnv} {q : QOp} {rs : List MemRange}
  {x : Option Nat}

theorem execDma_of_turn (hc : Canon s) (hs : starting s core.toNat 0x70 stream = some q)
    (hs' : starting (bringUpsets core.toNat env s) core.toNat 0x70 stream = some q)
    (hturn : engineTurn s (oF q.word 56 4) core.toNat = true) (hrule : opRuleOk q.word = true)
    (hrs : rs = tileRanges (descriptorRange q.word))
    (hread : readFails (bringUpsets core.toNat env s) core.toNat rs = false)
    (hv : v = startedReading core.toNat q rs (bringUpsets core.toNat env s))
    (hall : transferAll (transferOne env core.toNat (oF q.word 56 4 = 8)) (opDescriptors s core.toNat q.word)
      { v with prog := { v.prog with
          engines := sput 0 (16 * (core.toNat / 32) + oF q.word 56 4) core.toNat s.prog.engines } } = (x, u)) :
    exec (.dma core stream env) s = .next (transferEnd core.toNat q (x, u) 0) ∧ Canon u := by
  have hcb : Canon (bringUpsets core.toNat env s) := .bringUpsets hc
  obtain ⟨hcv, hmem, heng, -, -⟩ := startedReading_finds hcb core.toNat q rs
  have hbeng : (bringUpsets core.toNat env s).prog.engines = s.prog.engines :=
    (congrArg (·.prog.engines) (bringUpsets_eq core.toNat env s) :)
  have hdesc : opDescriptors { v with prog := { v.prog with
      engines := sput 0 (16 * (core.toNat / 32) + oF q.word 56 4) core.toNat v.prog.engines } } core.toNat q.word =
      opDescriptors s core.toNat q.word :=
    opDescriptors_of_mem ((congrArg State.mem hv :).trans (hmem.trans (bringUpsets_mem ..))) ..
  have hwait : ¬ (!((starting s core.toNat 0x70 stream).all fun q =>
      engineTurn s (oF q.word 56 4) core.toNat)) = true := by
    rw [hs, Option.all_some, hturn]
    decide
  have hv' : v.prog.engines = s.prog.engines := (congrArg (·.prog.engines) hv :).trans (heng.trans hbeng)
  rw [← hv'] at hall
  have hcanon := Canon.transferAll (f := transferOne env core.toNat (oF q.word 56 4 = 8))
    (ds := opDescriptors s core.toNat q.word) (Canon.frameParts (hv ▸ hcv) : Canon { v with prog := { v.prog with
      engines := sput 0 (16 * (core.toNat / 32) + oF q.word 56 4) core.toNat v.prog.engines } })
    fun _ _ h => .transferOne h
  rw [hall] at hcanon
  refine ⟨?_, hcanon⟩
  show execDma core stream env s = _
  unfold execDma
  subst hrs
  refine (if_neg hwait).trans ((onOp_of_readable hcb hs' hrule hread _).trans (congrArg Host.Outcome.next ?_))
  rw [← hv]
  dsimp only
  rw [hdesc, hall]

end

end Sys2Proof.Machine
end

section
/-! O19. The sources that FAB_PUT reads, and the packets that it sends. -/

namespace Sys2Proof.Machine

namespace ReadOnly

variable {s t : State}

/-! ### The sources (spec/05 R161, spec/11 R317) -/

theorem eccRange {env a n} (h : ReadOnly s t) : ReadOnly s (eccRange env a n t) :=
  .ite h (.foldl h fun _ _ h => .eccEvents h)

theorem xtsReadAt {slot a n} (h : ReadOnly s t) : ReadOnly s (xtsReadAt slot a n t).2 := by
  unfold Machine.xtsReadAt xtsRead
  exact .frame <| .countHbm h

theorem leafDamage {half seg} (h : ReadOnly s t) : ReadOnly s (leafDamage half seg t) := by
  unfold Machine.leafDamage damageSegment
  exact .frame <| .ite h (.frame <| .frame h)

theorem countLeaf {die o n} (h : ReadOnly s t) : ReadOnly s (countLeaf die o n t) :=
  .foldl h fun _ _ h => .ite (.count h) (.count <| .count h)

theorem leafUnits {env die gen raw o n} (h : ReadOnly s t) : ReadOnly s (leafUnits env die gen raw o n t).2 := by
  unfold Machine.leafUnits
  extract_lets
  split
  · exact .foldl (.countLeaf h) fun _ _ h => .count <| .leafDamage h
  · split
    · refine .foldl_snd (.countLeaf h) fun p i h => ?_
      extract_lets
      split
      · exact h
      · extract_lets e
        have he : ReadOnly s e.2 := by
          unfold e
          split
          · exact .verifyBlock h
          · exact h
        exact .countHbm he
    · exact h

theorem leafRead {env die gen raw o n} (h : ReadOnly s t) : ReadOnly s (leafRead env die gen raw o n t).2 := by
  unfold Machine.leafRead
  split
  · exact h
  · exact .leafUnits h

theorem readSource {env g d} (h : ReadOnly s t) : ReadOnly s (readSource env g d t).2 := by
  unfold Machine.readSource
  extract_lets _ _ _ v r
  have hv : ReadOnly s v.2 := by
    unfold v
    split
    · exact .verifyRange h
    · exact .eccRange h
  have hr : ReadOnly s r.2 := by
    unfold r
    split
    · exact .xtsReadAt hv
    · exact .countHbm hv
  split
  · exact h
  · exact hr
  · split
    · exact .frame <| .frame <| .count h
    · split
      · exact .count h
      · exact .frame h
  · exact h
  · exact .leafRead h

theorem transferError {g} (h : ReadOnly s t) : ReadOnly s (transferError g t) := .ite (.frame h) (.frame h)

theorem sealOne {unit slot seq bs} (h : ReadOnly s t) : ReadOnly s (sealOne unit slot seq bs t).2 := by
  have hn : ReadOnly s (nextNonce unit t).2 := by
    unfold nextNonce
    dsimp only
    split
    · exact h
    · exact .frame h
  unfold Machine.sealOne
  dsimp only
  split
  · exact h
  · split
    next hv => exact .of_snd hv hn
    next hv => exact .of_snd hv hn

end ReadOnly

/-! ### The core goes on -/

theorem correctReads_faulted {s : State} (hc : Canon s) (g i : Nat) (rs : List MemRange) :
    (coreOf (correctReads i rs s) g).faulted = (coreOf s g).faulted := by
  obtain ⟨x, h⟩ := correctReads_onCore (OnCore.refl hc i) rs
  by_cases hi : g = i
  · subst hi
    exact (congrArg Core.faulted h.core :)
  · exact congrArg Core.faulted (h.frame.2 g hi)

theorem tilesCorrect_faulted {s : State} (hc : Canon s) (g : Nat) (rs : List (Nat × MemRange)) :
    (coreOf (tilesCorrect rs s) g).faulted = (coreOf s g).faulted := by
  induction rs generalizing s with
  | nil => rfl
  | cons r rs ih => exact (ih (.correctReads hc)).trans (correctReads_faulted hc ..)

/-- The remote writes of a descriptor are read and sealed, which stops no core. -/
theorem putOne_faulted {s : State} (hc : Canon s) (env : ReadEnv) (g : Nat) (d : BitVec 512) :
    (coreOf (putOne env g d s).2 g).faulted = (coreOf s g).faulted := by
  unfold putOne
  extract_lets _ r s1
  have hr : ReadOnly (tilesCorrect (sourceTiles g (withFeed s g d)) s) r.2 := .readSource <| .count <| .refl _
  have h1 : ReadOnly (tilesCorrect (sourceTiles g (withFeed s g d)) s) s1 := .ite (.transferError hr) hr
  split
  · rfl
  · split
    · rfl
    · split
      · rfl
      · split
        · rfl
        · refine .trans (congrArg Core.faulted (ReadOnly.core (.foldl_snd h1 fun _ _ h => ?_) g))
            (tilesCorrect_faulted hc ..)
          split
          · exact h
          · split
            · split
              next hv => exact .of_snd hv (.sealOne h)
              next hv => exact .of_snd hv (.sealOne h)
            · exact h

theorem putAll_nil (env : ReadEnv) (g : Nat) (s : State) : putAll env g [] s = ((none, []), s) := rfl

theorem putAll_cons_good {env : ReadEnv} {g : Nat} {d : BitVec 512} {ds : List (BitVec 512)} {s t : State}
    {ws : List RemoteWrite} (h : putOne env g d s = ((none, ws), t)) :
    (putAll env g (d :: ds) s).2 = (putAll env g ds t).2 := by
  change (match putOne env g d s with
    | ((none, ws), s) => ((_, _), (putAll env g ds s).2)
    | ((some c, ws), s) => ((some c, ws), s)).2 = _
  rw [h]

theorem putAll_cons_bad {env : ReadEnv} {g : Nat} {d : BitVec 512} {ds : List (BitVec 512)} {s t : State}
    {ws : List RemoteWrite} {c : Nat} (h : putOne env g d s = ((some c, ws), t)) :
    (putAll env g (d :: ds) s).2 = t := by
  change (match putOne env g d s with
    | ((none, ws), s) => ((_, _), (putAll env g ds s).2)
    | ((some c, ws), s) => ((some c, ws), s)).2 = _
  rw [h]

theorem putAll_faulted {s : State} (hc : Canon s) (env : ReadEnv) (g : Nat) (ds : List (BitVec 512)) :
    (coreOf (putAll env g ds s).2 g).faulted = (coreOf s g).faulted := by
  induction ds generalizing s with
  | nil => rw [putAll_nil]
  | cons d ds ih =>
    have hd := putOne_faulted hc env g d
    have hcd : Canon (putOne env g d s).2 := .putOne hc
    rcases hr : putOne env g d s with ⟨⟨_ | c, ws⟩, t⟩
    · rw [hr] at hd hcd
      rw [putAll_cons_good hr, ih hcd, hd]
    · rw [hr] at hd
      rw [putAll_cons_bad hr, hd]

/-! ### The packets -/

theorem foldl_send {α : Type} (d : α → Dest) (p : α → Packet) (l : List α) (s : State) :
    l.foldl (fun s x => send (d x) (p x) s) s = { s with out := s.out ++ l.map fun x => Out.packet (d x) (p x) } := by
  induction l generalizing s with
  | nil => rw [List.map_nil, List.append_nil]; rfl
  | cons x l ih =>
    rw [List.foldl_cons, ih, List.map_cons, List.append_cons]
    rfl

theorem eccAbort_out (g : Nat) (q : QOp) (s : State) : (eccAbort g q s).out = s.out ∧ (eccAbort g q s).mem = s.mem := by
  obtain ⟨-, hmem, hout⟩ := progFault_keeps g q.stream q.index.toNat 7 s
  unfold eccAbort
  dsimp only
  split <;> exact ⟨hout, hmem⟩

/-- The end of a transfer op's start sends nothing and stores nothing. -/
theorem transferEnd_keeps (g : Nat) (q : QOp) (r : Option Nat × State) (n : Nat) :
    (transferEnd g q r n).out = r.2.out ∧ (transferEnd g q r n).mem = r.2.mem := by
  unfold transferEnd
  split
  · exact ⟨rfl, rfl⟩
  · exact eccAbort_out ..
  · exact ⟨(progFault_keeps ..).2.2, (progFault_keeps ..).2.1⟩

/-- The writes of a FAB.PUT as one op (log entry 68): those to the module of the last one count for the credits. -/
def putOf (core : BitVec 7) (q : QOp) (ws : List RemoteWrite) : PutOp where
  core := core
  op := q.index
  writes := (ws.filter fun w => some w.ldn = ws.getLast?.map (·.ldn)).length

/-- The packet of one of the writes `ws` of a FAB.PUT, with the credits where it goes to the module of the last one. -/
def putPacket (q : QOp) (ws : List RemoteWrite) (put : PutOp) (w : RemoteWrite) : Packet :=
  .fabPut (BitVec.ofNat 48 w.addr) w.unit w.gcm w.crc (BitVec.ofNat 7 (oF q.word 56 7)) (BitVec.ofNat 6 (oF q.word 63 6))
    (BitVec.ofNat 4 (if some w.ldn = ws.getLast?.map (·.ldn) then oF q.word 69 4 else 0)) put

section
variable {s u v : State} {core : BitVec 7} {stream : Bool} {env : ReadEnv} {q : QOp} {rs : List MemRange}
  {x : Option Nat} {ws : List RemoteWrite} (hc : Canon s)
  (hs : starting (bringUpsets core.toNat env s) core.toNat 0x80 stream = some q)
  (hrs : rs = tileRanges (descriptorRange q.word))
  (hread : readFails (bringUpsets core.toNat env s) core.toNat rs = false)
  (hv : v = startedReading core.toNat q rs (bringUpsets core.toNat env s))
  (hall : putAll env core.toNat (opDescriptors s core.toNat q.word) v = ((x, ws), u))
include hc hs hrs hread hv hall

theorem execFabPut_of_readable : exec (.fabPut core stream env) s = .next (transferEnd core.toNat q
      (x, { u with out := u.out ++ ws.map fun w => Out.packet (.ldn w.ldn) (putPacket q ws (putOf core q ws) w) })
      ws.length) ∧
    Canon u ∧ (coreOf u core.toNat).faulted = none := by
  have hcb : Canon (bringUpsets core.toNat env s) := .bringUpsets hc
  obtain ⟨hcv, hmem, -, hgood, -⟩ := startedReading_finds hcb core.toNat q rs
  rw [← hv] at hcv hmem hgood
  have hdesc := opDescriptors_of_mem (hmem.trans (bringUpsets_mem core.toNat env s)) core.toNat q.word
  have hcu := Canon.putAll (env := env) (g := core.toNat) (ds := opDescriptors s core.toNat q.word) hcv
  have hgo := putAll_faulted hcv env core.toNat (opDescriptors s core.toNat q.word)
  rw [hall] at hcu hgo
  refine ⟨?_, hcu, hgo.trans (hgood.trans (starting_not_faulted hs))⟩
  show execFabPut core stream env s = _
  unfold execFabPut
  subst hrs
  refine (onOp_of_readable hcb hs (opRuleOk_of_starting hs (by decide)) hread _).trans
    (congrArg Host.Outcome.next ?_)
  rw [← hv]
  dsimp only
  rw [hdesc, hall]
  exact congrArg (fun y => transferEnd core.toNat q (x, y) ws.length)
    (foldl_send (fun w => .ldn w.ldn) (putPacket q ws (putOf core q ws)) ws u)

theorem fabPut_sends : ∃ t put, exec (.fabPut core stream env) s = .next t ∧ t.mem = u.mem ∧ put.core = core ∧
    put.op = q.index ∧ t.out = u.out ++ ws.map (fun w => Out.packet (.ldn w.ldn) (putPacket q ws put w)) ∧
    (x = none → Running t core.toNat q (u.clock + 1) ws.length) ∧
    (∀ c, x = some c → c ≠ 7 → (coreOf t core.toNat).faulted = some (BitVec.ofNat 8 c) ∧
      t.prog.faults = u.prog.faults + 1) := by
  obtain ⟨ht, hcu, hgood⟩ := execFabPut_of_readable hc hs hrs hread hv hall
  have hsent : Canon { u with
    out := u.out ++ ws.map fun w => Out.packet (.ldn w.ldn) (putPacket q ws (putOf core q ws) w) } := .frame hcu
  obtain ⟨hout, hmem⟩ := transferEnd_keeps core.toNat q (x, { u with
    out := u.out ++ ws.map fun w => Out.packet (.ldn w.ldn) (putPacket q ws (putOf core q ws) w) }) ws.length
  refine ⟨_, putOf core q ws, ht, hmem, rfl, rfl, hout, ?_, ?_⟩
  · rintro rfl
    exact runFor_running hsent ..
  · rintro c rfl h7
    rw [transferEnd_of_fault h7]
    exact ⟨progFault_faulted hsent hgood .., progFault_faults ..⟩

end

end Sys2Proof.Machine
end

section
/-! O19. The requests of FAB_GET and the packets of FAB_COLL. -/

namespace Sys2Proof.Machine

/-! ### An op that awaits answers -/

/-- The end of the start of an op that awaits answers: it keeps its descriptors for them, or its fault stops the core. -/
def awaits (g : Nat) (q : QOp) (ds : List (BitVec 512)) (r : (Option Nat × Nat) × State) : State :=
  match r.1.1 with
  | none => runWith g q ds r.1.2 r.2
  | some c => transferEnd g q (some c, r.2) 0

theorem awaits_of_fault {c : Nat} (h7 : c ≠ 7) (g : Nat) (q : QOp) (ds : List (BitVec 512)) (n : Nat) (u : State) :
    awaits g q ds ((some c, n), u) = startFault g q c u :=
  transferEnd_of_fault h7 g q 0 u

/-- An op that awaits answers and has not faulted runs until they have come. -/
theorem awaits_running {u : State} (hc : Canon u) (g : Nat) (q : QOp) (ds : List (BitVec 512)) (n : Nat) :
    Running (awaits g q ds ((none, n), u)) g q (u.clock + 1) n ∧ (awaits g q ds ((none, n), u)).out = u.out ∧
      (∃ r ∈ (coreOf (awaits g q ds ((none, n), u)) g).running, r.index = q.index ∧ r.descs = ds) ∧
      (awaits g q ds ((none, n), u)).mem = u.mem := by
  obtain ⟨hrun, hdescs⟩ := runWith_running hc g q ds n
  exact ⟨hrun, rfl, hdescs, rfl⟩

/-! ### FAB_GET -/

theorem getOne_mem (g : Nat) (op : BitVec 16) (off : Nat) (d : BitVec 512) (s : State) :
    (getOne g op off d s).2.mem = s.mem := by
  unfold getOne
  split
  · rfl
  · split
    · rfl
    · split <;> rfl

/-- Requests store nothing: their answers do. -/
theorem getAll_mem (g : Nat) (op : BitVec 16) (n off : Nat) (ds : List (BitVec 512)) (s : State) :
    (getAll g op n off ds s).2.mem = s.mem := by
  induction ds generalizing n off s with
  | nil => rfl
  | cons d ds ih =>
    change (match getOne g op off d s with
      | ((none, m), s) => getAll g op (n + m) (off + tLen d) ds s
      | ((some c, _), s) => ((some c, n), s)).2.mem = s.mem
    have hd := getOne_mem g op off d s
    generalize getOne g op off d s = r at hd
    obtain ⟨⟨_ | c, m⟩, t⟩ := r
    · exact (ih ..).trans hd
    · exact hd

/-- The descriptors that a FAB.GET keeps: with the ring's place of the present step or steep in them. -/
def fedDescriptors (s : State) (g : Nat) (w : BitVec 128) : List (BitVec 512) :=
  (opDescriptors s g w).map fun d => if descriptorOk 3 d then withFeed s g d else d

section
variable {s u v : State} {core : BitVec 7} {stream : Bool} {q : QOp} {rs : List MemRange} {n : Nat} {x : Option Nat}
  (hc : Canon s) (hrs : rs = tileRanges (descriptorRange q.word)) (hread : readFails s core.toNat rs = false)
  (hv : v = startedReading core.toNat q rs s)
include hc hrs hread hv

theorem execFabGet_of_readable (hs : starting s core.toNat 0x81 stream = some q)
    (hall : getAll core.toNat q.index 0 0 (fedDescriptors s core.toNat q.word) v = ((x, n), u)) :
    exec (.fabGet core stream) s = .next (awaits core.toNat q (fedDescriptors s core.toNat q.word) ((x, n), u)) ∧
      Canon u ∧ u.mem = s.mem := by
  obtain ⟨hcv, hmem, -, -, hfeed⟩ := startedReading_finds hc core.toNat q rs
  rw [← hv] at hcv hmem hfeed
  have hdesc : fedDescriptors v core.toNat q.word = fedDescriptors s core.toNat q.word := by
    unfold fedDescriptors
    rw [opDescriptors_of_mem hmem]
    simp only [hfeed]
  have hcu := Canon.getAll (g := core.toNat) (op := q.index) (n := 0) (off := 0)
    (ds := fedDescriptors s core.toNat q.word) hcv
  have hmu := getAll_mem core.toNat q.index 0 0 (fedDescriptors s core.toNat q.word) v
  rw [hall] at hcu hmu
  refine ⟨?_, hcu, hmu.trans hmem⟩
  have hexec := onOp_of_readable hc hs (opRuleOk_of_starting hs (by decide)) (hrs ▸ hread) fun q s =>
    awaits core.toNat q (fedDescriptors s core.toNat q.word)
      (getAll core.toNat q.index 0 0 (fedDescriptors s core.toNat q.word) s)
  rw [← hrs, ← hv, hdesc, hall] at hexec
  exact hexec

theorem execFabColl_of_readable (hs : starting s core.toNat 0x82 stream = some q)
    (hall : collAll core.toNat 0 0 (opDescriptors s core.toNat q.word) v = ((x, n), u)) :
    exec (.fabColl core stream) s = .next (awaits core.toNat q (opDescriptors s core.toNat q.word) ((x, n), u)) ∧
      Canon u := by
  obtain ⟨hcv, hmem, -, -, -⟩ := startedReading_finds hc core.toNat q rs
  rw [← hv] at hcv hmem
  have hcu := Canon.collAll (g := core.toNat) (n := 0) (off := 0) (ds := opDescriptors s core.toNat q.word) hcv
  rw [hall] at hcu
  refine ⟨?_, hcu⟩
  have hexec := onOp_of_readable hc hs (opRuleOk_of_starting hs (by decide)) (hrs ▸ hread) fun q s =>
    awaits core.toNat q (opDescriptors s core.toNat q.word)
      (collAll core.toNat 0 0 (opDescriptors s core.toNat q.word) s)
  rw [← hrs, ← hv, opDescriptors_of_mem hmem, hall] at hexec
  exact hexec

end

/-- Settles O19: DMA, FAB_PUT, FAB_GET and FAB_COLL, each from the state that its descriptors leave. -/
theorem transferOpsMoveAndSend : Obligations.TransferOpsMoveAndSend := by
  unfold Obligations.TransferOpsMoveAndSend
  refine ⟨?_, ?_, ?_, ?_⟩
  · intro s u v core stream env q rs x hinv hs hs' hturn hrule hrs hread hv hall
    obtain ⟨ht, hcu⟩ := execDma_of_turn (canon_iff_inv.mpr hinv) hs hs' hturn hrule hrs hread hv hall
    constructor
    · rintro rfl
      exact ⟨_, ht, runFor_running hcu .., rfl, rfl, rfl⟩
    · rintro c rfl h7
      rw [ht, transferEnd_of_fault h7]
  · intro s u v core stream env q rs x ws hinv hs hrs hread hv hall
    exact fabPut_sends (canon_iff_inv.mpr hinv) hs hrs hread hv hall
  · rintro s u v core stream q rs _ n x hinv hs hrs hread hv rfl hall
    obtain ⟨ht, hcu, hmem⟩ := execFabGet_of_readable (canon_iff_inv.mpr hinv) hrs hread hv hs hall
    constructor
    · rintro rfl
      obtain ⟨hrun, hout, hdescs, hkeeps⟩ := awaits_running hcu core.toNat q (fedDescriptors s core.toNat q.word) n
      exact ⟨_, ht, hrun, hout, hdescs, hkeeps.trans hmem⟩
    · rintro c rfl h7
      rw [ht, awaits_of_fault h7]
  · intro s u v core stream q rs n x hinv hs hrs hread hv hall
    obtain ⟨ht, hcu⟩ := execFabColl_of_readable (canon_iff_inv.mpr hinv) hrs hread hv hs hall
    constructor
    · rintro rfl
      exact ⟨_, ht, awaits_running hcu core.toNat q (opDescriptors s core.toNat q.word) n⟩
    · rintro c rfl h7
      rw [ht, awaits_of_fault h7]

end Sys2Proof.Machine
end

section
/-! O28 and O29. The command at the head of the front end, as a unit takes it up or completes it. -/

namespace Sys2Proof.Machine

theorem onHead_of_headCmd {s : State} {op : Nat} {c : Cmd} (h : headCmd s op = some c) (f : Cmd → State → State) :
    onHead op s f = .next (f c s) := by
  unfold onHead
  rw [h]
  rfl

theorem finish_onlyFront (id status detail info : Nat) (s : State) : OnlyFront s (finish id status detail info s) := by
  unfold finish finishWith
  split <;> rfl

/-- A command that completes at once, with nothing else done. -/
theorem completes_at_once {s : State} {c : Cmd} {x : Instr} (hc : c ∈ s.front.cmds) {status : Nat}
    (hx : exec x s = .next (finish c.id status 0 0 s)) :
    ∃ t, exec x s = .next t ∧ Completed s t c.id status 0 0 ∧ OnlyFront s t :=
  ⟨_, hx, completed_finish hc rfl .., finish_onlyFront ..⟩

theorem takeUp_takenUp {s u : State} (hu : u.front = s.front) (id : Nat) : TakenUp s (takeUp id u) id := by
  unfold takeUp updFront TakenUp
  rw [hu]
  exact ⟨rfl, rfl⟩

/-- A write of a value other than the default leaves every other entry as it was, whatever the map. -/
theorem sget_sput_other_of_ne {α : Type} [DecidableEq α] {d v : α} (hv : v ≠ d) {k i : Nat} (hi : i ≠ k) (m : Sparse α) :
    sget d i (sput d k v m) = sget d i m := by
  induction m with
  | nil => simp [sput, hv, sget, hi]
  | cons e m ih =>
    obtain ⟨j, w⟩ := e
    unfold sput
    by_cases hkj : k = j
    · subst hkj
      simp [hv, sget, hi]
    · by_cases hlt : k < j
      · simp only [hkj, hlt, hv, if_true, if_false, sget, hi]
        split <;> grind
      · simp only [hkj, hlt, if_false, sget, ih]

end Sys2Proof.Machine
end

section
/-! O29. Claims and releases of extra-expert slots. -/

namespace Sys2Proof.Machine

/-! ### The sequence numbers of an originator (spec/06 R195) -/

theorem absorbClaims_of_mem {sna : BitVec 16} {n : BitVec 32} {l : List (BitVec 16 × BitVec 32)}
    (h : (sna, n + 1) ∈ l) (f : Nat) :
    absorbClaims sna (f + 1) n l = absorbClaims sna f (n + 1) (l.erase (sna, n + 1)) := by
  show (if l.contains (sna, n + 1) then _ else _) = _
  rw [if_pos (List.contains_iff_mem.mpr h)]

theorem absorbClaims_of_not_mem {sna : BitVec 16} {n : BitVec 32} {l : List (BitVec 16 × BitVec 32)}
    (h : (sna, n + 1) ∉ l) (f : Nat) : absorbClaims sna f n l = (n, l) := by
  cases f with
  | zero => rfl
  | succ f =>
    unfold absorbClaims
    rw [if_neg fun hc => h (List.contains_iff_mem.mp hc)]

/-- Counting up never comes round to 0 where the number 0 has not arrived. -/
theorem absorbClaims_ne_zero {sna : BitVec 16} {n : BitVec 32} {l : List (BitVec 16 × BitVec 32)} (hn : n ≠ 0)
    (h0 : (sna, 0) ∉ l) (f : Nat) : (absorbClaims sna f n l).1 ≠ 0 := by
  induction f generalizing n l with
  | zero => exact hn
  | succ f ih =>
    by_cases h : (sna, n + 1) ∈ l
    · rw [absorbClaims_of_mem h]
      exact ih (fun hz => h0 (hz ▸ h)) fun hm => h0 (List.mem_of_mem_erase hm)
    · rw [absorbClaims_of_not_mem h]
      exact hn

section
variable {a : Adapters} {sna : BitVec 16} {seq : BitVec 32}

/-- The number that an arrival leaves as the last one without a gap before it is not 0. -/
theorem noteClaim_lastClaim (hseq : (sget 0 sna.toNat a.lastClaim).toNat < seq.toNat) (h0 : (sna, 0) ∉ a.ahead) :
    ∃ n, n ≠ 0 ∧ (noteClaim sna seq a).lastClaim = sput 0 sna.toNat n a.lastClaim := by
  have hne : seq ≠ 0 := fun h => by simp [h] at hseq
  have h0' : (sna, 0) ∉ (sna, seq) :: a.ahead := by
    rw [List.mem_cons, not_or]
    exact ⟨fun h => hne (Prod.mk.inj h).2.symm, h0⟩
  refine ⟨_, ?_, rfl⟩
  by_cases hl : sget 0 sna.toNat a.lastClaim = 0
  · rw [if_pos hl]
    have hs : seq - 1 + 1 = seq := BitVec.sub_add_cancel seq 1
    rw [absorbClaims_of_mem (by rw [hs]; exact List.mem_cons_self), hs]
    exact absorbClaims_ne_zero hne (fun hm => h0' (List.mem_of_mem_erase hm)) _
  · rw [if_neg hl]
    exact absorbClaims_ne_zero hl h0' _

theorem noteClaim_other (hseq : (sget 0 sna.toNat a.lastClaim).toNat < seq.toNat) (h0 : (sna, 0) ∉ a.ahead) {j : Nat}
    (hj : j ≠ sna.toNat) : sget 0 j (noteClaim sna seq a).lastClaim = sget 0 j a.lastClaim := by
  obtain ⟨n, hn, hlast⟩ := noteClaim_lastClaim hseq h0
  rw [hlast, sget_sput_other_of_ne hn hj]

/-- A number in its turn, with none ahead of it, becomes the last one. -/
theorem noteClaim_of_next (hseq : (sget 0 sna.toNat a.lastClaim).toNat < seq.toNat) (ha : a.ahead = [])
    (hnext : seq = sget 0 sna.toNat a.lastClaim + 1) :
    sget 0 sna.toNat (noteClaim sna seq a).lastClaim = seq ∧ (noteClaim sna seq a).ahead = [] := by
  have hne : seq ≠ 0 := fun h => by simp [h] at hseq
  have hstart : (if sget 0 sna.toNat a.lastClaim = 0 then seq - 1 else sget 0 sna.toNat a.lastClaim) = seq - 1 := by
    rw [hnext, BitVec.add_sub_cancel, ite_self]
  have hs : seq - 1 + 1 = seq := BitVec.sub_add_cancel seq 1
  have habs : absorbClaims sna 1 (seq - 1) [(sna, seq)] = (seq, []) := by
    rw [absorbClaims_of_mem (by rw [hs]; exact List.mem_cons_self), hs, List.erase_cons_head]
    rfl
  unfold noteClaim
  dsimp only
  rw [hstart, ha, List.length_nil, habs]
  exact ⟨sget_sput_self _ _ _ hne _, rfl⟩

/-- A number beyond a missing one is kept aside. -/
theorem noteClaim_of_gap (hl : sget 0 sna.toNat a.lastClaim ≠ 0)
    (hgap : (sget 0 sna.toNat a.lastClaim).toNat + 1 < seq.toNat)
    (hmiss : (sna, sget 0 sna.toNat a.lastClaim + 1) ∉ a.ahead) :
    sget 0 sna.toNat (noteClaim sna seq a).lastClaim = sget 0 sna.toNat a.lastClaim ∧
      (noteClaim sna seq a).ahead = (sna, seq) :: a.ahead := by
  have hmiss' : (sna, sget 0 sna.toNat a.lastClaim + 1) ∉ (sna, seq) :: a.ahead := by
    rw [List.mem_cons, not_or]
    refine ⟨fun h => ?_, hmiss⟩
    have hs := (Prod.mk.inj h).2
    rw [← hs] at hgap
    bv_omega
  unfold noteClaim
  dsimp only
  rw [if_neg hl, absorbClaims_of_not_mem hmiss']
  exact ⟨sget_sput_self _ _ _ hl _, rfl⟩

end

/-! ### SLOT_CLAIM_PACKET -/

section
variable {s : State} {stamp : BitVec 64} {sna : BitVec 16} {seq : BitVec 32} {adid : BitVec 24} {layer : BitVec 12}
  {slot : BitVec 4} {keySlot : BitVec 13} {kgen : BitVec 16} {share : Bool}

/-- The claim that a packet brings. -/
def claimOfPacket (stamp : BitVec 64) (sna : BitVec 16) (seq : BitVec 32) (adid : BitVec 24) (layer : BitVec 12)
    (slot : BitVec 4) (keySlot : BitVec 13) (kgen : BitVec 16) (share : Bool) : Claim :=
  { stamp := stamp, sna := sna, seq := seq, adid := adid, layer := layer, slot := slot, keySlot := keySlot, kgen := kgen,
    share := share, cmd := none }

theorem execSlotClaimPacket_of_new (hsna : sna ≠ s.fab.sna)
    (hseq : (sget 0 sna.toNat s.ad.lastClaim).toNat < seq.toNat) (hnew : s.ad.ahead.contains (sna, seq) = false) :
    exec (.slotClaimPacket stamp sna seq adid layer slot keySlot kgen share) s = .next
      (send (.flood none) (.slotClaim stamp sna seq adid layer slot keySlot kgen share)
        (updAd (fun a => { noteClaim sna seq a with
          claims := a.claims ++ [claimOfPacket stamp sna seq adid layer slot keySlot kgen share] }) s)) := by
  show execSlotClaimPacket .. = _
  unfold execSlotClaimPacket
  rw [hnew, decide_eq_false hsna, decide_eq_false (Nat.not_le.mpr hseq)]
  rfl

theorem execSlotClaimPacket_of_seen (h : sna = s.fab.sna ∨ seq.toNat ≤ (sget 0 sna.toNat s.ad.lastClaim).toNat ∨
    s.ad.ahead.contains (sna, seq) = true) :
    exec (.slotClaimPacket stamp sna seq adid layer slot keySlot kgen share) s = .next s := by
  show execSlotClaimPacket .. = _
  unfold execSlotClaimPacket
  rw [if_pos (by rw [Bool.or_eq_true, Bool.or_eq_true, decide_eq_true_eq, decide_eq_true_eq, or_assoc]; exact h)]
  rfl

end

/-! ### ADAPTER_CLAIM and ADAPTER_RELEASE -/

section
variable {s : State} {c : Cmd} {i : Nat}

/-- The claim of a command for the adapter in entry `i`. -/
def claimOfCmd (s : State) (c : Cmd) (i : Nat) : Claim :=
  { stamp := s.time, sna := s.fab.sna, seq := s.ad.claimSeq + 1, adid := cAdid c.word,
    layer := BitVec.ofNat 12 (bits (cP0 c.word) 0 12), slot := BitVec.ofNat 4 (bits (cP0 c.word) 16 4),
    keySlot := BitVec.ofNat 13 (dSlot (descOf s i)), kgen := dKgen (descOf s i), share := dShare (descOf s i),
    cmd := some c.id }

/-- The packet of a claim. -/
def claimPacket (x : Claim) : Packet := .slotClaim x.stamp x.sna x.seq x.adid x.layer x.slot x.keySlot x.kgen x.share

theorem execAdapterClaim_of_ok (hc : headCmd s 0x34 = some c) (hi : didxFor s c.part.toNat (cAdid c.word) = some i)
    (hok : claimOk (descOf s i) (bits (cP0 c.word) 0 12) = true) :
    exec .adapterClaim s = .next (takeUp c.id (send (.flood none) (claimPacket (claimOfCmd s c i))
      (updAd (fun a => { a with claimSeq := s.ad.claimSeq + 1, claims := a.claims ++ [claimOfCmd s c i] }) s))) := by
  show execAdapterClaim s = _
  unfold execAdapterClaim
  rw [onHead_of_headCmd hc]
  dsimp only
  rw [hi]
  dsimp only
  rw [hok]
  rfl

theorem execAdapterClaim_of_foreign_layer (hc : headCmd s 0x34 = some c)
    (hi : didxFor s c.part.toNat (cAdid c.word) = some i)
    (hok : claimOk (descOf s i) (bits (cP0 c.word) 0 12) = false) :
    exec .adapterClaim s = .next (finish c.id stFormat 0 0 s) := by
  show execAdapterClaim s = _
  unfold execAdapterClaim
  rw [onHead_of_headCmd hc]
  dsimp only
  rw [hi]
  dsimp only
  rw [hok]
  rfl

theorem execAdapterRelease_of_owned (hc : headCmd s 0x35 = some c)
    (hi : didxFor s c.part.toNat (cAdid c.word) = some i) :
    exec .adapterRelease s = .next (if claimOk (descOf s i) (bits (cP0 c.word) 0 12) then
      finish c.id stOk 0 0 (releaseLater (cAdid c.word)
        (some (BitVec.ofNat 12 (bits (cP0 c.word) 0 12), BitVec.ofNat 4 (bits (cP0 c.word) 16 4))) s)
      else finish c.id stFormat 0 0 s) := by
  show execAdapterRelease s = _
  unfold execAdapterRelease
  rw [onHead_of_headCmd hc]
  dsimp only
  rw [hi]
  dsimp only
  cases claimOk (descOf s i) (bits (cP0 c.word) 0 12) <;> rfl

end

/-- Settles O29: a claim held and flooded, the numbers of an originator as they arrive, and the releases. -/
theorem expertSlotClaimsAndReleases : Obligations.ExpertSlotClaimsAndReleases := by
  unfold Obligations.ExpertSlotClaimsAndReleases
  refine ⟨?claim, ?packet, ?release⟩
  case claim =>
    rintro s c i _ _ _ hc hi rfl rfl rfl
    refine ⟨fun hok => ?_, fun hok => ?_⟩
    · exact ⟨_, claimOfCmd s c i, execAdapterClaim_of_ok hc hi hok, takeUp_takenUp rfl _, rfl, rfl⟩
    · exact completes_at_once (mem_cmds_of_headCmd hc) (execAdapterClaim_of_foreign_layer hc hi hok)
  case packet =>
    intro s stamp sna seq adid layer slot keySlot kgen share
    refine ⟨fun hsna hseq hnew => ?_, execSlotClaimPacket_of_seen⟩
    have hnot {n : BitVec 32} (h : s.ad.ahead.contains (sna, n) = false) : (sna, n) ∉ s.ad.ahead := by
      rw [← List.contains_iff_mem, h]
      exact Bool.false_ne_true
    exact ⟨_, execSlotClaimPacket_of_new hsna hseq hnew, fun h0 j hj => noteClaim_other hseq (hnot h0) hj,
      fun ha hnext => noteClaim_of_next hseq ha hnext, fun hl hgap hmiss => noteClaim_of_gap hl hgap (hnot hmiss), rfl⟩
  case release =>
    rintro s c i _ hc hi rfl
    have hrel := execAdapterRelease_of_owned hc hi
    refine ⟨fun hok => ?_, fun hok => ?_⟩
    · rw [if_pos hok] at hrel
      exact ⟨_, hrel, completed_finish (mem_cmds_of_headCmd hc) (by rfl) .., finish_onlyFront ..⟩
    · rw [if_neg (by rw [hok]; exact Bool.false_ne_true)] at hrel
      exact completes_at_once (mem_cmds_of_headCmd hc) hrel

end Sys2Proof.Machine
end

section
/-! O22. A fill that ends in a block error changes the keys' counts. -/

namespace Sys2Proof.Machine

/-- A Locked module that is to fill block 0 of an adapter's image. The adapter's key slot has come to its second epoch and
holds no key of the first; the block, which has no valid checksum, is still of the first. -/
def fillOfLostEpoch : State :=
  { lockedAt 0x40 with
    ad := { prefetch := [(0, 1, 0)], descs := [(1, setFld desc1 80 16 1)] }
    cust := { slots := [(0, { state := .loaded, cur := some 0, parity := true })] } }

/-- The 64 units of the block are read under an epoch with no key, and counted at 0x9300:04 (spec/13 R379). -/
theorem fillOfLostEpoch_counts : (fillBlock {} true 0 1 0 fillOfLostEpoch).2.cust.noKeyReads = 64 := by decide +kernel

/-- Refutes O22: a fill that ends in a block error may read units under an epoch with no key, which the Custody Controller
counts, so that its part of the state is not as before. -/
theorem not_admissionSortsPublishesAndFeeds : ¬ Obligations.AdmissionSortsPublishesAndFeeds := by
  unfold Obligations.AdmissionSortsPublishesAndFeeds
  rintro ⟨-, -, -, herror, -⟩
  obtain ⟨t, ht, -, -, hcust⟩ := herror fillOfLostEpoch 0 1 0 {} (by decide +kernel) (by decide +kernel)
    (by decide +kernel) (by decide +kernel) (by decide +kernel)
  have hfill : exec (.caddyFill 0 1 0 {}) fillOfLostEpoch = .next (fillBlock {} true 0 1 0 fillOfLostEpoch).2 :=
    congrArg Host.Outcome.next (if_pos (by decide +kernel))
  rw [hfill] at ht
  injection ht with ht
  have hcount : (0 : Nat) = 64 := calc
    0 = fillOfLostEpoch.cust.noKeyReads := rfl
    _ = t.cust.noKeyReads := congrArg Custody.noKeyReads hcust.symm
    _ = 64 := ht ▸ fillOfLostEpoch_counts
  exact absurd hcount (by decide)

end Sys2Proof.Machine
end

section
/-! O28. Completed commands, one after another. -/

namespace Sys2Proof.Machine

theorem OnlyFront.trans {s t u : State} (h : OnlyFront s t) (h' : OnlyFront t u) : OnlyFront s u := by
  unfold OnlyFront at h h'
  rw [h] at h'
  exact h'

theorem finish_foldl_onlyFront (status : Nat) (ids : List Nat) (s : State) :
    OnlyFront s (ids.foldl (fun s id => finish id status 0 0 s) s) := by
  induction ids generalizing s with
  | nil => rfl
  | cons id ids ih => exact (finish_onlyFront ..).trans (ih _)

theorem mem_cmds_of_cmdOf {s : State} {id : Nat} (h : cmdOf s id ≠ none) : ∃ c ∈ s.front.cmds, c.id = id := by
  obtain ⟨c, hc⟩ := Option.ne_none_iff_exists'.mp h
  exact ⟨c, List.mem_of_find?_eq_some hc, of_decide_eq_true (List.find?_some hc :)⟩

/-- A command that is accepted completes, whatever has happened outside the front end. -/
theorem completed_finish_of_cmdOf {s u : State} {id : Nat} (h : cmdOf s id ≠ none) (hu : u.front = s.front)
    (status detail info : Nat) : Completed s (finish id status detail info u) id status detail info := by
  obtain ⟨c, hc, rfl⟩ := mem_cmds_of_cmdOf h
  exact completed_finish hc hu status detail info

theorem cmdOf_finish_other {id id' : Nat} (hne : id ≠ id') (status detail info : Nat) (s : State) :
    cmdOf (finish id' status detail info s) id = cmdOf s id := by
  unfold finish finishWith
  split
  · rfl
  · show (s.front.cmds.filter _).find? _ = s.front.cmds.find? _
    rw [List.find?_filter]
    congr 1
    funext x
    by_cases hx : x.id = id
    · simp [hx, hne]
    · simp [hx]

/-- A completion stays when other commands complete. -/
theorem Completed.finish {s t : State} {id status detail info : Nat} (h : Completed s t id status detail info)
    (id' status' detail' info' : Nat) : Completed s (finish id' status' detail' info' t) id status detail info := by
  obtain ⟨hnone, c, r, hc, hr, hrest⟩ := h
  by_cases hid : id = id'
  · subst hid
    unfold Machine.finish finishWith
    rw [hnone]
    exact ⟨hnone, c, r, hc, hr, hrest⟩
  · refine ⟨(cmdOf_finish_other hid ..).trans hnone, c, r, hc, ?_, hrest⟩
    unfold Machine.finish finishWith
    split
    · exact hr
    · exact List.mem_append_left _ hr

theorem Completed.finish_foldl {s t : State} {id status detail info : Nat} (h : Completed s t id status detail info)
    (status' : Nat) (ids : List Nat) :
    Completed s (ids.foldl (fun s id => Machine.finish id status' 0 0 s) t) id status detail info := by
  induction ids generalizing t with
  | nil => exact h
  | cons id' ids ih => exact ih (h.finish ..)

theorem Completed.of_cmdOf {s s' t : State} {id status detail info : Nat} (h : Completed s t id status detail info)
    (hs : cmdOf s id = cmdOf s' id) : Completed s' t id status detail info := by
  obtain ⟨hnone, c, r, hc, hrest⟩ := h
  exact ⟨hnone, c, r, hs ▸ hc, hrest⟩

/-- Each accepted command of a list of commands that complete together completes. -/
theorem completed_foldl_finish {s : State} {id : Nat} (hid : cmdOf s id ≠ none) (status : Nat) {ids : List Nat}
    (hmem : id ∈ ids) :
    Completed s (ids.foldl (fun s id => finish id status 0 0 s) s) id status 0 0 := by
  induction ids generalizing s with
  | nil => cases hmem
  | cons x ids ih =>
    by_cases hx : id = x
    · subst hx
      exact (completed_finish_of_cmdOf hid rfl ..).finish_foldl ..
    · have hcmd := cmdOf_finish_other hx status 0 0 s
      exact (ih (hcmd ▸ hid) ((List.mem_cons.mp hmem).resolve_left hx)).of_cmdOf hcmd

/-- A completion stays when a unit takes up a command. -/
theorem Completed.takeUp {s t : State} {id status detail info : Nat} (h : Completed s t id status detail info)
    (id' : Nat) : Completed s (takeUp id' t) id status detail info := by
  obtain ⟨hnone, hrest⟩ := h
  refine ⟨List.find?_eq_none.mpr fun x hx => ?_, hrest⟩
  obtain ⟨y, hy, rfl⟩ := List.mem_map.mp hx
  have hne := List.find?_eq_none.mp hnone y hy
  split <;> exact hne

end Sys2Proof.Machine
end

section
/-! O28. ADAPTER_CREATE (spec/06 R172). -/

namespace Sys2Proof.Machine

/-- The descriptor entries, the observation unit, and the front end's commands and completions, may have changed. -/
theorem finish_onlyDescs (id status detail info : Nat) (s : State) (descs : Sparse (BitVec 1024)) (obs : Observe) :
    finish id status detail info { s with ad := { s.ad with descs := descs }, obs := obs } =
      let t := finish id status detail info { s with ad := { s.ad with descs := descs }, obs := obs }
      { s with front := { s.front with cmds := t.front.cmds, ready := t.front.ready },
               ad := { s.ad with descs := t.ad.descs }, obs := t.obs } := by
  unfold finish finishWith
  split <;> rfl

theorem finish_ad (id status detail info : Nat) (s : State) : (finish id status detail info s).ad = s.ad :=
  (congrArg State.ad (finish_onlyFront id status detail info s) :)

theorem descOf_finish (id status detail info i : Nat) (s : State) :
    descOf (finish id status detail info s) i = descOf s i :=
  congrArg (fun a : Adapters => sget 0 i a.descs) (finish_ad ..)

theorem descOf_setDesc {s : State} (hc : Canon s) (i : Nat) (w : BitVec 1024) :
    descOf (setDesc i w s) i = w ∧ ∀ j, j ≠ i → descOf (setDesc i w s) j = descOf s j :=
  have hrise := ((sparseWf_iff _ _).mp hc.descs).1
  ⟨sget_sput_same _ _ _ _ hrise, fun _ hj => sget_sput_other _ _ _ _ _ hrise hj⟩

/-- The fields of a descriptor image break Table AD-2, or its ADID is in use. -/
abbrev BadImage (s : State) (d : BitVec 1024) : Prop :=
  dAdid d = 0 ∨ didxOf s (dAdid d) ≠ none ∨ (dLowRank d || dScale d || dExpert d) = false ∨
    dPage d false % 4096 ≠ 0 ∨ dPage d true % 4096 ≠ 0 ∨ d &&& ~~~descMask ≠ 0

theorem execAdapterCreate_of_unread {s : State} {host : HostMem} {c : Cmd} (hc : headCmd s 0x30 = some c)
    (hr : hostRead host (cAddr0 c.word) 128 = none) :
    exec (.adapterCreate host) s = .next (finish c.id stChecksum 0 0 (countGcmFail 1 s)) := by
  show execAdapterCreate host s = _
  unfold execAdapterCreate
  rw [onHead_of_headCmd hc]
  dsimp only
  rw [hr]

theorem execAdapterCreate_of_read {s : State} {host : HostMem} {c : Cmd} {bs : List Byte} {d : BitVec 1024}
    (hc : headCmd s 0x30 = some c) (hr : hostRead host (cAddr0 c.word) 128 = some bs)
    (hd : d = BitVec.ofNat 1024 (leNat bs)) :
    exec (.adapterCreate host) s = .next
      (if holdsSlot s c.part.toNat (dSlot d) = false then finish c.id stNotPermitted 3 0 (countHostRead 128 s)
       else if BadImage s d then finish c.id stFormat 0 0 (countHostRead 128 s)
       else if quotaFull s c.part.toNat 0 1 = true ∨ 65536 ≤ firstFree 0 s.ad.descs then
         finish c.id stQuota 0 0 (countHostRead 128 s)
       else if (slotOf s (dSlot d)).gen ≠ dKgen d then finish c.id stKeyRevoked 0 0 (countHostRead 128 s)
       else if genKnown s (dBaseGen d) = false then finish c.id stBaseMismatch 0 0 (countHostRead 128 s)
       else finish c.id stOk 0 (firstFree 0 s.ad.descs)
         (setDesc (firstFree 0 s.ad.descs) (setFld (setFld d 24 2 1) 51 6 c.part.toNat) (countHostRead 128 s))) := by
  show execAdapterCreate host s = _
  unfold execAdapterCreate
  rw [onHead_of_headCmd hc]
  dsimp only
  rw [hr]
  dsimp only
  rw [← hd]
  have hheld : holdsSlot (countHostRead 128 s) c.part.toNat (dSlot d) = holdsSlot s c.part.toNat (dSlot d) := rfl
  have hquota : quotaFull (countHostRead 128 s) c.part.toNat 0 1 = quotaFull s c.part.toNat 0 1 := rfl
  have hdidx : didxOf (countHostRead 128 s) (dAdid d) = didxOf s (dAdid d) := rfl
  have hgen : genKnown (countHostRead 128 s) (dBaseGen d) = genKnown s (dBaseGen d) := rfl
  have hslot : slotOf (countHostRead 128 s) (dSlot d) = slotOf s (dSlot d) := rfl
  have hfree : (countHostRead 128 s).ad.descs = s.ad.descs := rfl
  have hbad : (decide (dAdid d = 0) || (didxOf s (dAdid d)).isSome || (!dLowRank d && !dScale d && !dExpert d) ||
      decide (dPage d false % 4096 ≠ 0) || decide (dPage d true % 4096 ≠ 0) || decide (d &&& ~~~descMask ≠ 0)) = true ↔
      BadImage s d := by
    simp only [BadImage, Bool.or_eq_true, Bool.and_eq_true, Bool.not_eq_true', Bool.or_eq_false_iff, decide_eq_true_eq,
      Option.isSome_iff_ne_none, or_assoc]
  rw [hheld, hquota, hdidx, hgen, hslot, hfree]
  simp only [hbad, Bool.not_eq_true', Bool.or_eq_true, decide_eq_true_eq]

/-- ADAPTER_CREATE with an image that the host has answered: its first failing check, or the entry that it takes. -/
theorem adapterCreate_of_read {s : State} {host : HostMem} {c : Cmd} {bs : List Byte} {d : BitVec 1024} (hs : Canon s)
    (hc : headCmd s 0x30 = some c) (hr : hostRead host (cAddr0 c.word) 128 = some bs)
    (hd : d = BitVec.ofNat 1024 (leNat bs)) :
    ∃ t, exec (.adapterCreate host) s = .next t ∧
      t = { s with front := { s.front with cmds := t.front.cmds, ready := t.front.ready },
                   ad := { s.ad with descs := t.ad.descs }, obs := t.obs } ∧
      if holdsSlot s c.part.toNat (dSlot d) = false then Completed s t c.id 0x0B 3 0 ∧ t.ad = s.ad
      else if BadImage s d then Completed s t c.id 0x09 0 0 ∧ t.ad = s.ad
      else if quotaFull s c.part.toNat 0 1 = true ∨ 65536 ≤ firstFree 0 s.ad.descs then
        Completed s t c.id 0x04 0 0 ∧ t.ad = s.ad
      else if (slotOf s (dSlot d)).gen ≠ dKgen d then Completed s t c.id 0x05 0 0 ∧ t.ad = s.ad
      else if genKnown s (dBaseGen d) = false then Completed s t c.id 0x02 0 0 ∧ t.ad = s.ad
      else Completed s t c.id 0 0 (firstFree 0 s.ad.descs) ∧
        descOf t (firstFree 0 s.ad.descs) = setFld (setFld d 24 2 1) 51 6 c.part.toNat ∧
        ∀ j, j ≠ firstFree 0 s.ad.descs → descOf t j = descOf s j := by
  have hx := execAdapterCreate_of_read hc hr hd
  have hmem := mem_cmds_of_headCmd hc
  have hdone (status detail : Nat) :
      Completed s (finish c.id status detail 0 (countHostRead 128 s)) c.id status detail 0 ∧
        (finish c.id status detail 0 (countHostRead 128 s)).ad = s.ad :=
    ⟨completed_finish hmem (by rfl) .., finish_ad ..⟩
  by_cases hslot : holdsSlot s c.part.toNat (dSlot d) = false
  · simp only [if_pos hslot] at hx ⊢
    exact ⟨_, hx, finish_onlyDescs .., hdone ..⟩
  by_cases hbad : BadImage s d
  · simp only [if_neg hslot, if_pos hbad] at hx ⊢
    exact ⟨_, hx, finish_onlyDescs .., hdone ..⟩
  by_cases hquota : quotaFull s c.part.toNat 0 1 = true ∨ 65536 ≤ firstFree 0 s.ad.descs
  · simp only [if_neg hslot, if_neg hbad, if_pos hquota] at hx ⊢
    exact ⟨_, hx, finish_onlyDescs .., hdone ..⟩
  by_cases hkey : (slotOf s (dSlot d)).gen ≠ dKgen d
  · simp only [if_neg hslot, if_neg hbad, if_neg hquota, if_pos hkey] at hx ⊢
    exact ⟨_, hx, finish_onlyDescs .., hdone ..⟩
  by_cases hgen : genKnown s (dBaseGen d) = false
  · simp only [if_neg hslot, if_neg hbad, if_neg hquota, if_neg hkey, if_pos hgen] at hx ⊢
    exact ⟨_, hx, finish_onlyDescs .., hdone ..⟩
  · simp only [if_neg hslot, if_neg hbad, if_neg hquota, if_neg hkey, if_neg hgen] at hx ⊢
    obtain ⟨hself, hother⟩ := descOf_setDesc (s := countHostRead 128 s) (.countHostRead hs) (firstFree 0 s.ad.descs)
      (setFld (setFld d 24 2 1) 51 6 c.part.toNat)
    exact ⟨_, hx, finish_onlyDescs .., completed_finish hmem (by rfl) .., (descOf_finish ..).trans hself,
      fun j hj => (descOf_finish ..).trans (hother j hj)⟩

end Sys2Proof.Machine
end

section
/-! O28. ADAPTER_READ: what an access to HBM changes (spec/10 R296 to R299, R304). -/

namespace Sys2Proof.Machine

/-- Between `s` and `t` HBM has been read or written: only package memory, the stacks, the originator sequence numbers and
what is observed may differ. -/
def Accessed (s t : State) : Prop := t = { s with mem := t.mem, steep := t.steep, hbm := t.hbm, obs := t.obs }

namespace Accessed

variable {s t : State}

theorem refl (s : State) : Accessed s s := rfl

/-- A record update of what an access may change. -/
theorem frame {mem steep hbm obs} (h : Accessed s t) :
    Accessed s (.mk t.pending t.clock t.time t.timeKnown t.slew t.free mem t.power steep t.prog t.ad t.front t.red hbm t.leaf
      t.fab t.cust t.dict obs t.boot t.out) :=
  (congrArg (fun v : State => { v with mem := mem, steep := steep, hbm := hbm, obs := obs }) h :)

theorem ad (h : Accessed s t) : t.ad = s.ad := (congrArg State.ad h :)

theorem cust (h : Accessed s t) : t.cust = s.cust := (congrArg State.cust h :)

theorem front (h : Accessed s t) : t.front = s.front := (congrArg State.front h :)

theorem keeps (h : Accessed s t) : t.front.cmds = s.front.cmds ∧ t.ad = s.ad ∧ t.cust = s.cust :=
  ⟨congrArg Front.cmds h.front, h.ad, h.cust⟩

theorem ite {x y : State} {c : Prop} [Decidable c] (hx : Accessed s x) (hy : Accessed s y) :
    Accessed s (if c then x else y) := by
  split
  · exact hx
  · exact hy

theorem foldl {α : Type} {f : State → α → State} {l : List α} (h : Accessed s t)
    (hf : ∀ t x, Accessed s t → Accessed s (f t x)) : Accessed s (l.foldl f t) := by
  induction l generalizing t with
  | nil => exact h
  | cons x l ih => exact ih (hf t x h)

theorem trace {ty block part data} (h : Accessed s t) : Accessed s (trace ty block part data t) := by
  rw [show Machine.trace ty block part data t = _ from trace_noted ..]
  exact .frame h

theorem countHbm {ev a n} (h : Accessed s t) : Accessed s (countHbm ev a n t) := by
  unfold Machine.countHbm
  split
  · exact .frame h
  · exact h

theorem rasEvent {st pc bank row kind} (h : Accessed s t) : Accessed s (rasEvent st pc bank row kind t) :=
  .trace <| .frame h

theorem retirePc {st pc} (h : Accessed s t) : Accessed s (retirePc st pc t) := by
  unfold Machine.retirePc
  dsimp only
  split
  · exact h
  · exact .ite h (.rasEvent <| .frame <| .frame h)

theorem rowFailing {st pc bank row} (h : Accessed s t) : Accessed s (rowFailing st pc bank row t) := by
  unfold Machine.rowFailing
  dsimp only
  have hras : Accessed s (Machine.rasEvent st pc bank row 2 t) := .rasEvent h
  split
  · exact .ite (.frame hras) (.retirePc hras)
  · exact hras
  · exact .retirePc hras

theorem unitFailing {u} (h : Accessed s t) : Accessed s (unitFailing u t) := by
  unfold Machine.unitFailing
  dsimp only
  split
  · exact .rowFailing h
  · exact h

theorem unitCorrected {u} (h : Accessed s t) : Accessed s (unitCorrected u t) := by
  unfold Machine.unitCorrected
  dsimp only
  split
  · exact .ite (.unitFailing <| .frame <| .frame <| .frame h) (.frame <| .frame h)
  · exact h

theorem eccEvents {env b} (h : Accessed s t) : Accessed s (eccEvents env b t) := by
  unfold Machine.eccEvents
  refine .foldl h fun _ _ h => ?_
  extract_lets _ s1
  have h1 : Accessed s s1 := .ite (.unitCorrected h) h
  exact .ite (.unitFailing h1) h1

theorem verifyBlock {env b} (h : Accessed s t) : Accessed s (verifyBlock env b t).2 := by
  unfold Machine.verifyBlock
  extract_lets _ _ _ s1 s2 _ s3
  have h3 : Accessed s s3 := .rasEvent <| .frame <| .frame <| .frame h
  split
  · exact h
  split
  · exact .eccEvents <| .frame <| .frame h
  split
  · exact .eccEvents h
  split
  · exact .ite (.eccEvents h3) (.foldl h3 fun _ _ h => .unitFailing h)
  split
  · exact .eccEvents <| .frame <| .frame h
  · exact .eccEvents h

theorem writeInBlock {crc a bs} (h : Accessed s t) : Accessed s (writeInBlock crc a bs t) := by
  unfold Machine.writeInBlock
  extract_lets s1 s2 _ _ _ _
  have h2 : Accessed s s2 := .ite (.countHbm <| .countHbm h) (.countHbm h)
  exact .ite h (.ite (.ite (.frame <| .frame h2) (.frame <| .frame h2)) (.frame <| .frame h2))

theorem setMapBit {m i} (h : Accessed s t) : Accessed s (setMapBit m i t) := by
  unfold Machine.setMapBit writeStored
  exact .foldl h fun _ _ h => .ite (.writeInBlock h) (.frame h)

end Accessed

theorem orderlyStop_stopped (cls cause block value : Nat) (s : State) :
    (orderlyStop cls cause block value s).boot.stopped ≠ none := by
  by_cases h : s.boot.stopped = none
  · rw [(orderlyStop_boot _ _ _ _ s h).1]
    exact Option.some_ne_none _
  · unfold orderlyStop
    rw [if_pos (Option.isSome_iff_ne_none.mpr h)]
    exact h

/-- A read of the module tables that does not stop the module is an access to HBM alone. -/
theorem readTable_accessed {env : ReadEnv} {o : Nat} {s : State} (h : (readTable env o s).boot.stopped = none) :
    Accessed s (readTable env o s) := by
  unfold readTable at h ⊢
  dsimp only at h ⊢
  split
  · exact .verifyBlock rfl
  · split
    next hok hbad =>
      rw [if_neg hok, if_pos hbad] at h
      exact absurd h (orderlyStop_stopped _ _ _ _ _)
    next => exact .frame <| .writeInBlock <| .verifyBlock <| .verifyBlock rfl

theorem hostWrite_keeps (p a : Nat) (bs : List Byte) (s : State) :
    (hostWrite p a bs s).front.cmds = s.front.cmds ∧ (hostWrite p a bs s).ad = s.ad ∧
      (hostWrite p a bs s).cust = s.cust := by
  show (logHost p a bs.length s).front.cmds = _ ∧ (logHost p a bs.length s).ad = _ ∧ (logHost p a bs.length s).cust = _
  unfold logHost
  dsimp only
  split
  · exact ⟨rfl, rfl, rfl⟩
  split
  · exact Accessed.keeps (.foldl (.refl s) fun _ _ h => .setMapBit h)
  · exact ⟨rfl, rfl, rfl⟩

theorem hostWrite_mem {p : Nat} (a : Nat) (bs : List Byte) {s : State} (h : (partOf s p).logState = 0) :
    (hostWrite p a bs s).mem = s.mem := by
  show (logHost p a bs.length s).mem = _
  unfold logHost
  dsimp only
  rw [h]
  rfl

theorem hostWrite_mem_out (p a : Nat) (bs : List Byte) (s : State) :
    Out.hostWrite (BitVec.ofNat 6 p) a bs ∈ (hostWrite p a bs s).out :=
  List.mem_append_right _ (List.mem_singleton_self _)

section
variable {s : State} {c : Cmd} {i : Nat} (hc : headCmd s 0x31 = some c)
  (hi : (if c.part.toNat = 0 then didxOf s (cAdid c.word) else didxFor s c.part.toNat (cAdid c.word)) = some i)
include hc hi

theorem execAdapterRead_of_found : exec .adapterRead s = .next
    (if (readTable {} (descPlace i) s).boot.stopped.isSome then readTable {} (descPlace i) s
     else finish c.id stOk 0 0
      (hostWrite c.part.toNat (cAddr0 c.word) (wordBytes (descOf s i)) (readTable {} (descPlace i) s))) := by
  show execAdapterRead s = _
  unfold execAdapterRead
  rw [onHead_of_headCmd hc]
  dsimp only
  rw [hi]

theorem adapterRead_of_running (hrun : (readTable {} (descPlace i) s).boot.stopped = none) :
    ∃ t, exec .adapterRead s = .next t ∧ Completed s t c.id 0 0 0 ∧
      Out.hostWrite (BitVec.ofNat 6 c.part.toNat) (cAddr0 c.word) (wordBytes (descOf s i)) ∈ t.out ∧ t.ad = s.ad ∧
      t.cust = s.cust ∧ ((partOf s c.part.toNat).logState = 0 → t.mem = (readTable {} (descPlace i) s).mem) := by
  have hx := execAdapterRead_of_found hc hi
  have hread := readTable_accessed hrun
  rw [hrun] at hx
  generalize readTable {} (descPlace i) s = u at hx hread
  obtain ⟨hcmds, had, hcust⟩ := hostWrite_keeps c.part.toNat (cAddr0 c.word) (wordBytes (descOf s i)) u
  have hcmd : cmdOf (hostWrite c.part.toNat (cAddr0 c.word) (wordBytes (descOf s i)) u) c.id = cmdOf s c.id := by
    unfold cmdOf
    rw [hcmds, hread.front]
  have hmem : c ∈ (hostWrite c.part.toNat (cAddr0 c.word) (wordBytes (descOf s i)) u).front.cmds := by
    rw [hcmds, hread.front]
    exact mem_cmds_of_headCmd hc
  have honly := finish_onlyFront c.id stOk 0 0 (hostWrite c.part.toNat (cAddr0 c.word) (wordBytes (descOf s i)) u)
  refine ⟨_, hx, (completed_finish hmem (by rfl) ..).of_cmdOf hcmd, ?_, (finish_ad ..).trans (had.trans hread.ad),
    (congrArg State.cust honly :).trans (hcust.trans hread.cust), fun hlog => ?_⟩
  · exact (congrArg State.out honly :) ▸ hostWrite_mem_out ..
  · have hpart : (partOf u c.part.toNat).logState = 0 := by
      unfold partOf at hlog ⊢
      rw [hread.front]
      exact hlog
    exact (congrArg State.mem honly :).trans (hostWrite_mem _ _ hpart)

theorem adapterRead_of_stopped (hstop : (readTable {} (descPlace i) s).boot.stopped ≠ none) :
    exec .adapterRead s = .next (readTable {} (descPlace i) s) := by
  rw [execAdapterRead_of_found hc hi, if_pos (Option.isSome_iff_ne_none.mpr hstop)]

end

end Sys2Proof.Machine
end

section
/-! O28. ADAPTER_STATE and ADAPTER_DESTROY: what waits for a boundary (spec/06 R177, spec/14 R500). -/

namespace Sys2Proof.Machine

/-- What `OnlyFront` leaves open. -/
theorem OnlyFront.eq {s t : State} (h : OnlyFront s t) :
    ∃ cmds ready, t = { s with front := { s.front with cmds := cmds, ready := ready } } := ⟨_, _, h⟩

/-- The command of the move that is pending for a descriptor, if one is, completes. -/
def endMove (i status info : Nat) (s : State) : State :=
  match sget none i s.ad.pending with
  | none => s
  | some p => finish p.2.2 status 0 info s

theorem endMove_onlyFront (i status info : Nat) (s : State) : OnlyFront s (endMove i status info s) := by
  unfold endMove
  split
  · rfl
  · exact finish_onlyFront ..

theorem endMove_completes {s : State} {i : Nat} {p : BitVec 2 × BitVec 64 × Nat}
    (hp : sget none i s.ad.pending = some p) (hcmd : cmdOf s p.2.2 ≠ none) (status info : Nat) :
    Completed s (endMove i status info s) p.2.2 status 0 info := by
  unfold endMove
  rw [hp]
  exact completed_finish_of_cmdOf hcmd rfl ..

theorem cmdOf_endMove {s : State} {i id : Nat} (h : ∀ p, sget none i s.ad.pending = some p → p.2.2 ≠ id)
    (status info : Nat) : cmdOf (endMove i status info s) id = cmdOf s id := by
  unfold endMove
  split
  next => rfl
  next p hp => exact cmdOf_finish_other (h p hp).symm ..

/-- A move becomes pending for a descriptor, in place of one that was. -/
def replaceMove (i : Nat) (m : BitVec 2 × BitVec 64 × Nat) (s : State) : State :=
  takeUp m.2.2 (updAd (fun a => { a with pending := sput none i (some m) a.pending }) (endMove i stOk 1 s))

theorem replaceMove_keeps (i : Nat) (m : BitVec 2 × BitVec 64 × Nat) (s : State) :
    sget none i (replaceMove i m s).ad.pending = some m ∧
      replaceMove i m s = { s with
        front := { s.front with cmds := (replaceMove i m s).front.cmds, ready := (replaceMove i m s).front.ready },
        ad := { s.ad with pending := (replaceMove i m s).ad.pending } } := by
  obtain ⟨cmds, ready, h⟩ := (endMove_onlyFront i stOk 1 s).eq
  unfold replaceMove
  rw [h]
  exact ⟨sget_sput_self _ _ _ (Option.some_ne_none m) _, rfl⟩

section
variable {s : State} {c : Cmd} {i : Nat}

theorem execAdapterState_of_owned (hc : headCmd s 0x32 = some c) (hi : didxFor s c.part.toNat (cAdid c.word) = some i) :
    exec .adapterState s = .next
      (if moveOk (dState (descOf s i)) (BitVec.ofNat 2 (cP0 c.word)) = false ∨ boundariesKnown s = false then
        finish c.id stNotPermitted 0 0 s
       else if atLeast20us s (cSteep c.word) = false then finish c.id stTimeout 0 0 s
       else replaceMove i (BitVec.ofNat 2 (cP0 c.word), cSteep c.word, c.id) s) := by
  show execAdapterState s = _
  unfold execAdapterState
  rw [onHead_of_headCmd hc]
  dsimp only
  rw [hi]
  simp only [Bool.or_eq_true, Bool.not_eq_true']
  rfl

theorem adapterState_of_allowed (hc : headCmd s 0x32 = some c) (hi : didxFor s c.part.toNat (cAdid c.word) = some i)
    (hmove : moveOk (dState (descOf s i)) (BitVec.ofNat 2 (cP0 c.word)) = true) (hk : boundariesKnown s = true)
    (h20 : atLeast20us s (cSteep c.word) = true) :
    ∃ t, exec .adapterState s = .next t ∧
      sget none i t.ad.pending = some (BitVec.ofNat 2 (cP0 c.word), cSteep c.word, c.id) ∧
      (sget none i s.ad.pending = none → TakenUp s t c.id) ∧
      (∀ p, sget none i s.ad.pending = some p → cmdOf s p.2.2 ≠ none → Completed s t p.2.2 0 0 1) ∧
      t = { s with front := { s.front with cmds := t.front.cmds, ready := t.front.ready },
                   ad := { s.ad with pending := t.ad.pending } } := by
  have hx := execAdapterState_of_owned hc hi
  rw [hmove, hk, h20] at hx
  obtain ⟨hpending, hframe⟩ := replaceMove_keeps i (BitVec.ofNat 2 (cP0 c.word), cSteep c.word, c.id) s
  refine ⟨_, hx, hpending, fun hnone => takeUp_takenUp ?_ _, fun p hp hcmd => ?_, hframe⟩
  · show (endMove i stOk 1 s).front = s.front
    unfold endMove
    rw [hnone]
  · exact Completed.takeUp (endMove_completes hp hcmd ..) _

theorem execAdapterDestroy_of_owned (hc : headCmd s 0x33 = some c)
    (hi : didxFor s c.part.toNat (cAdid c.word) = some i) :
    exec .adapterDestroy s = .next (takeUp c.id
      (updAd (fun a => { a with destroying := supd [] i (fun l => l ++ [c.id]) a.destroying })
        (releaseLater (cAdid c.word) none s))) := by
  show execAdapterDestroy s = _
  unfold execAdapterDestroy
  rw [onHead_of_headCmd hc]
  dsimp only
  rw [hi]

end

/-! ### ADAPTER_DESTROY_FREE -/

/-- An entry of the table becomes free: its descriptor, what was pending for it, and its shards go. -/
def freeEntry (i : Nat) (s : State) : State :=
  dropShards i (setDesc i 0 (updAd (fun a => { a with
    pending := sput none i none a.pending, destroying := sput [] i [] a.destroying,
    outstanding := sput 0 i 0 a.outstanding,
    restoring := a.restoring.filter fun r => r.1 ≠ i }) s))

/-- What entry `i` of the table, free in `t`, and the rest of the module are since `s`. -/
structure EntryFreed (s t : State) (i : Nat) : Prop where
  desc : descOf t i = 0
  others : ∀ j, j ≠ i → descOf t j = descOf s j
  pending : sget none i t.ad.pending = none
  shards : ∀ e ∈ t.red.shards, ∀ x, e.2 = some x → x.didx.toNat ≠ i
  mem : t.mem = s.mem
  out : t.out = s.out
  cust : t.cust = s.cust

theorem EntryFreed.onlyFront {s t u : State} {i : Nat} (h : EntryFreed s t i) (hu : OnlyFront t u) : EntryFreed s u i := by
  obtain ⟨cmds, ready, rfl⟩ := hu.eq
  exact ⟨h.desc, h.others, h.pending, h.shards, h.mem, h.out, h.cust⟩

theorem freeEntry_frees {s u : State} (hs : Canon s) (hu : OnlyFront s u) (i : Nat) : EntryFreed s (freeEntry i u) i := by
  obtain ⟨cmds, ready, rfl⟩ := hu.eq
  obtain ⟨hself, hother⟩ := descOf_setDesc hs i 0
  refine ⟨hself, hother, sget_sput_same _ _ _ _ ((sparseWf_iff _ _).mp hs.moves).1, fun e he x hx => ?_, rfl, rfl, rfl⟩
  have hkept := (List.mem_filter.mp he).2
  rw [hx] at hkept
  exact of_decide_eq_true hkept

section
variable {s : State} {didx : BitVec 16} (hids : sget [] didx.toNat s.ad.destroying ≠ [])
include hids

theorem execAdapterDestroyFree_of_waiting : exec (.adapterDestroyFree didx) s = .next
    (if adapterNamed s (dAdid (descOf s didx.toNat)) = true then s
     else (sget [] didx.toNat s.ad.destroying).foldl (fun s id => finish id stOk 0 0 s)
       (freeEntry didx.toNat (endMove didx.toNat stAdapterInvalid 0 s))) := by
  show execAdapterDestroyFree didx s = _
  unfold execAdapterDestroyFree
  dsimp only
  rw [List.isEmpty_eq_false_iff.mpr hids, Bool.false_or]
  cases adapterNamed s (dAdid (descOf s didx.toNat)) <;> rfl

theorem adapterDestroyFree_of_unnamed (hs : Canon s) (hnamed : adapterNamed s (dAdid (descOf s didx.toNat)) = false) :
    ∃ t, exec (.adapterDestroyFree didx) s = .next t ∧ EntryFreed s t didx.toNat ∧
      (∀ id ∈ sget [] didx.toNat s.ad.destroying, cmdOf s id ≠ none →
        (∀ p, sget none didx.toNat s.ad.pending = some p → p.2.2 ≠ id) → Completed s t id 0 0 0) ∧
      ∀ p, sget none didx.toNat s.ad.pending = some p → cmdOf s p.2.2 ≠ none → Completed s t p.2.2 0x0A 0 0 := by
  have hx := execAdapterDestroyFree_of_waiting hids
  rw [if_neg (by rw [hnamed]; exact Bool.false_ne_true)] at hx
  have hfree := freeEntry_frees hs (endMove_onlyFront didx.toNat stAdapterInvalid 0 s) didx.toNat
  refine ⟨_, hx, hfree.onlyFront (finish_foldl_onlyFront ..), fun id hid hcmd hne => ?_, fun p hp hcmd => ?_⟩
  · have hsame : cmdOf (freeEntry didx.toNat (endMove didx.toNat stAdapterInvalid 0 s)) id = cmdOf s id :=
      cmdOf_endMove hne ..
    rw [← hsame] at hcmd
    exact (completed_foldl_finish hcmd stOk hid).of_cmdOf hsame
  · have hdone : Completed s (freeEntry didx.toNat (endMove didx.toNat stAdapterInvalid 0 s)) p.2.2 0x0A 0 0 :=
      endMove_completes hp hcmd ..
    exact hdone.finish_foldl ..

end

end Sys2Proof.Machine
end

section
/-! O28. ADAPTER_STATE_EFFECT: a due move at its boundary (spec/06 Table AD-4, spec/09 R259, R260). -/

namespace Sys2Proof.Machine

/-- State `s` when the pending entry of descriptor `i` has ended and descriptor `i` is entered as `descs` has it, with other
releases and shards. -/
def movedState (s : State) (i : Nat) (descs : Sparse (BitVec 1024))
    (releases : List (BitVec 24 × Option (BitVec 12 × BitVec 4))) (red : Reduction) : State :=
  { s with ad := { s.ad with descs := descs, pending := sput none i none s.ad.pending, releases := releases }, red := red }

/-- What the end of a move of descriptor `i`, with a status for its command, leaves of the rest of the module. -/
structure MoveEnded (s t : State) (i id status : Nat) : Prop where
  done : Completed s t id status 0 0
  pending : sget none i t.ad.pending = none
  others : ∀ j, j ≠ i → descOf t j = descOf s j
  mem : t.mem = s.mem
  cust : t.cust = s.cust
  steep : t.steep = s.steep

section
variable {s : State} {i id : Nat} {descs : Sparse (BitVec 1024)}
  {releases : List (BitVec 24 × Option (BitVec 12 × BitVec 4))} {red : Reduction}

theorem movedState_ended (hs : Canon s) (hid : cmdOf s id ≠ none) (hdescs : ∀ j, j ≠ i → sget 0 j descs = descOf s j)
    (status : Nat) :
    MoveEnded s (finish id status 0 0 (movedState s i descs releases red)) i id status where
  done := completed_finish_of_cmdOf hid (by rfl) ..
  pending := by
    rw [finish_ad]
    exact sget_sput_same _ _ _ _ ((sparseWf_iff _ _).mp hs.moves).1
  others j hj := (descOf_finish ..).trans (hdescs j hj)
  mem := (congrArg State.mem (finish_onlyFront ..) :)
  cust := (congrArg State.cust (finish_onlyFront ..) :)
  steep := (congrArg State.steep (finish_onlyFront ..) :)

theorem finish_out (id status detail info : Nat) (s : State) : (finish id status detail info s).out = s.out :=
  (congrArg State.out (finish_onlyFront ..) :)

theorem finish_red (id status detail info : Nat) (s : State) : (finish id status detail info s).red = s.red :=
  (congrArg State.red (finish_onlyFront ..) :)

end

/-- Roll calls are sent, and nothing else changes. -/
theorem sendRollCalls_onlyOut (f : Nat → Bool) (s : State) :
    ∃ out, sendRollCalls f s = { s with out := out } := by
  have hsends {l : List Nat} (pkt : State → Nat → Packet) (u : State) :
      ∃ out, l.foldl (fun s o => send (.ldn (BitVec.ofNat 10 o)) (pkt s o) s) u = { u with out := out } := by
    induction l generalizing u with
    | nil => exact ⟨_, rfl⟩
    | cons o l ih => exact ih _
  unfold sendRollCalls
  split
  · exact ⟨_, rfl⟩
  · exact hsends ..

/-- A move of descriptor `i` from `d` to a state other than TRAINING, before its command completes. -/
def leaveTraining (i : Nat) (d : BitVec 1024) (new : BitVec 2) (s : State) : State :=
  let s := updAd (fun a => { a with pending := sput none i none a.pending }) s
  let s := if dState d = adTraining then dropShards i s else s
  setDesc i (setFld (setFld d 24 2 new.toNat) 26 2 0) (if new = adInvalid then releaseLater (dAdid d) none s else s)

theorem leaveTraining_eq (i : Nat) (d : BitVec 1024) (new : BitVec 2) (s : State) :
    ∃ releases red, leaveTraining i d new s =
      movedState s i (sput 0 i (setFld (setFld d 24 2 new.toNat) 26 2 0) s.ad.descs) releases red := by
  unfold leaveTraining
  dsimp only
  split <;> split <;> exact ⟨_, _, rfl⟩

/-- A move of descriptor `i` from `d` to TRAINING whose shards are entered and whose command `id` completes. -/
def trained (s : State) (i id : Nat) (d : BitVec 1024) : State :=
  finish id stOk 0 0 (movedState s i (sput 0 i (setFld (setFld d 24 2 2) 26 2 0) s.ad.descs) s.ad.releases
    (enterShards (shardsHere s i) s).red)

theorem trained_steep (s : State) (i id : Nat) (d : BitVec 1024) : (trained s i id d).steep = s.steep :=
  (congrArg State.steep (finish_onlyFront ..) :)

theorem trained_isLocked (s : State) (i id : Nat) (d : BitVec 1024) : isLocked (trained s i id d) = isLocked s := by
  unfold isLocked
  rw [trained_steep]

/-- The shards of descriptor `i` are beyond the shard quota of its partition, or the index. -/
def shardsFull (s : State) (i : Nat) (d : BitVec 1024) : Bool :=
  quotaFull s (dPart d) 1 (shardsHere s i).length || decide (262144 < s.red.shards.length + (shardsHere s i).length)

section
variable {s : State} {didx : BitVec 16} {new : BitVec 2} {e : BitVec 64} {id : Nat} {d : BitVec 1024}
  (hp : sget none didx.toNat s.ad.pending = some (new, e, id)) (hd : d = descOf s didx.toNat)
  (hk : boundariesKnown s = true) (h0 : s.steep.decision = 0) (hdue : moveDue d new e s.steep.k s.steep.sidx = true)
include hp hd hk h0 hdue

theorem execAdapterStateEffect_of_due : exec (.adapterStateEffect didx) s = .next
    (if new ≠ adTraining then finish id stOk 0 0 (leaveTraining didx.toNat d new s)
     else if shardMapOk s d = false then
       finish id stFormat 0 0 (movedState s didx.toNat s.ad.descs s.ad.releases s.red)
     else if shardsFull s didx.toNat d = true then
       finish id stQuota 0 0 (movedState s didx.toNat s.ad.descs s.ad.releases s.red)
     else if isLocked s = true ∧ s.steep.sidx = 0 then
       sendRollCalls (fun j => j = didx.toNat) (trained s didx.toNat id d)
     else trained s didx.toNat id d) := by
  show execAdapterStateEffect didx s = _
  unfold execAdapterStateEffect
  dsimp only
  rw [hp, ← hd]
  dsimp only
  rw [hk, h0, hdue]
  by_cases hnew : new = adTraining
  · subst hnew
    rw [if_neg (by decide), if_pos rfl, if_neg (not_not_intro rfl)]
    change (if (!shardMapOk s d) = true then
        done (finish id stFormat 0 0 (movedState s didx.toNat s.ad.descs s.ad.releases s.red))
      else if shardsFull s didx.toNat d = true then
        done (finish id stQuota 0 0 (movedState s didx.toNat s.ad.descs s.ad.releases s.red))
      else done (if (isLocked (trained s didx.toNat id d) && decide ((trained s didx.toNat id d).steep.sidx = 0)) = true then
        sendRollCalls (fun j => j = didx.toNat) (trained s didx.toNat id d) else trained s didx.toNat id d)) = _
    rw [trained_isLocked, trained_steep]
    simp only [Bool.not_eq_true', Bool.and_eq_true, decide_eq_true_eq]
    split_ifs <;> rfl
  · rw [if_pos hnew, if_neg hnew]
    rfl

theorem adapterStateEffect_of_due (hs : Canon s) (hid : cmdOf s id ≠ none) {full : Bool}
    (hfull : full = shardsFull s didx.toNat d) :
    ∃ t, exec (.adapterStateEffect didx) s = .next t ∧ sget none didx.toNat t.ad.pending = none ∧
      (∀ j, j ≠ didx.toNat → descOf t j = descOf s j) ∧ t.mem = s.mem ∧ t.cust = s.cust ∧
      (new ≠ adTraining ∨ isLocked s = false ∨ s.steep.sidx ≠ 0 → t.out = s.out ∧ t.steep = s.steep) ∧
      if new ≠ adTraining then
        Completed s t id 0 0 0 ∧ descOf t didx.toNat = setFld (setFld d 24 2 new.toNat) 26 2 0
      else if shardMapOk s d = false then Completed s t id 0x09 0 0 ∧ t.ad.descs = s.ad.descs ∧ t.red = s.red
      else if full = true then Completed s t id 0x04 0 0 ∧ t.ad.descs = s.ad.descs ∧ t.red = s.red
      else Completed s t id 0 0 0 ∧ descOf t didx.toNat = setFld (setFld d 24 2 2) 26 2 0 ∧
        t.red = (enterShards (shardsHere s didx.toNat) s).red := by
  have hx := execAdapterStateEffect_of_due hp hd hk h0 hdue
  rw [← hfull] at hx
  have hrefused (status : Nat) := movedState_ended (descs := s.ad.descs) (releases := s.ad.releases) (red := s.red) hs hid
    (fun _ _ => rfl : ∀ j, j ≠ didx.toNat → _) status
  by_cases hnew : new ≠ adTraining
  · simp only [if_pos hnew] at hx ⊢
    obtain ⟨releases, red, hleave⟩ := leaveTraining_eq didx.toNat d new s
    rw [hleave] at hx
    obtain ⟨hself, hother⟩ := descOf_setDesc hs didx.toNat (setFld (setFld d 24 2 new.toNat) 26 2 0)
    have hend := movedState_ended (releases := releases) (red := red) hs hid hother stOk
    exact ⟨_, hx, hend.pending, hend.others, hend.mem, hend.cust, fun _ => ⟨finish_out .., hend.steep⟩, hend.done,
      (descOf_finish ..).trans hself⟩
  by_cases hmap : shardMapOk s d = false
  · simp only [if_neg hnew, if_pos hmap] at hx ⊢
    have hend := hrefused stFormat
    exact ⟨_, hx, hend.pending, hend.others, hend.mem, hend.cust, fun _ => ⟨finish_out .., hend.steep⟩, hend.done,
      (congrArg Adapters.descs (finish_ad ..) :), finish_red ..⟩
  by_cases hquota : full = true
  · simp only [if_neg hnew, if_neg hmap, if_pos hquota] at hx ⊢
    have hend := hrefused stQuota
    exact ⟨_, hx, hend.pending, hend.others, hend.mem, hend.cust, fun _ => ⟨finish_out .., hend.steep⟩, hend.done,
      (congrArg Adapters.descs (finish_ad ..) :), finish_red ..⟩
  simp only [if_neg hnew, if_neg hmap, if_neg hquota] at hx ⊢
  obtain ⟨hself, hother⟩ := descOf_setDesc hs didx.toNat (setFld (setFld d 24 2 2) 26 2 0)
  have hend : MoveEnded s (trained s didx.toNat id d) didx.toNat id stOk := movedState_ended hs hid hother stOk
  have hdesc : descOf (trained s didx.toNat id d) didx.toNat = setFld (setFld d 24 2 2) 26 2 0 :=
    (descOf_finish ..).trans hself
  have hred : (trained s didx.toNat id d).red = (enterShards (shardsHere s didx.toNat) s).red := finish_red ..
  by_cases hroll : isLocked s = true ∧ s.steep.sidx = 0
  · rw [if_pos hroll] at hx
    obtain ⟨out, hout⟩ := sendRollCalls_onlyOut (fun j => j = didx.toNat) (trained s didx.toNat id d)
    rw [hout] at hx
    refine ⟨_, hx, hend.pending, hend.others, hend.mem, hend.cust, fun hquiet => ?_, hend.done, hdesc, hred⟩
    rcases hquiet with h | h | h
    · exact absurd h hnew
    · rw [hroll.1] at h
      exact Bool.noConfusion h
    · exact absurd hroll.2 h
  · rw [if_neg hroll] at hx
    exact ⟨_, hx, hend.pending, hend.others, hend.mem, hend.cust, fun _ => ⟨finish_out .., hend.steep⟩, hend.done, hdesc,
      hred⟩

end

end Sys2Proof.Machine
end

section
/-! O28. Every command of an adapter. -/

namespace Sys2Proof.Machine

/-- A command for an adapter that its partition has not created. -/
theorem exec_of_foreign_adapter {s : State} {c : Cmd} {op : Nat} {x : Instr} (hc : headCmd s op = some c)
    (hx : (op = 0x31 ∧ x = .adapterRead ∧ c.part ≠ 0) ∨ (op = 0x32 ∧ x = .adapterState) ∨
      (op = 0x33 ∧ x = .adapterDestroy) ∨ (op = 0x34 ∧ x = .adapterClaim) ∨ (op = 0x35 ∧ x = .adapterRelease))
    (hi : didxFor s c.part.toNat (cAdid c.word) = none) :
    exec x s = .next (finish c.id stAdapterInvalid 0 0 s) := by
  rcases hx with ⟨rfl, rfl, hpart⟩ | ⟨rfl, rfl⟩ | ⟨rfl, rfl⟩ | ⟨rfl, rfl⟩ | ⟨rfl, rfl⟩
  · have hne : c.part.toNat ≠ 0 := fun h => hpart (BitVec.eq_of_toNat_eq h)
    show execAdapterRead s = _
    simp only [execAdapterRead, onHead_of_headCmd hc, if_neg hne, hi]
  · show execAdapterState s = _
    simp only [execAdapterState, onHead_of_headCmd hc, hi]
  · show execAdapterDestroy s = _
    simp only [execAdapterDestroy, onHead_of_headCmd hc, hi]
  · show execAdapterClaim s = _
    simp only [execAdapterClaim, onHead_of_headCmd hc, hi]
  · show execAdapterRelease s = _
    simp only [execAdapterRelease, onHead_of_headCmd hc, hi]

/-- Settles O28: each command of an adapter, from the state that the unit which serves it leaves. -/
theorem adaptersAreCreatedReadMovedAndDestroyed : Obligations.AdaptersAreCreatedReadMovedAndDestroyed := by
  unfold Obligations.AdaptersAreCreatedReadMovedAndDestroyed
  refine ⟨?create, ?read, ?state, ?effect, ?destroy, ?free, ?foreign⟩
  case create =>
    intro s host c hinv hc
    refine ⟨fun hr => ?_, ?_⟩
    · exact ⟨_, execAdapterCreate_of_unread hc hr, completed_finish (mem_cmds_of_headCmd hc) (by rfl) .., finish_ad ..,
        (finish_keeps ..).2⟩
    · rintro bs d _ hr hd rfl
      exact adapterCreate_of_read (canon_iff_inv.mpr hinv) hc hr hd
  case read =>
    rintro s _ c i hc hi rfl
    exact ⟨adapterRead_of_running hc hi, adapterRead_of_stopped hc hi⟩
  case state =>
    rintro s c i _ hc hi rfl
    have hx := execAdapterState_of_owned hc hi
    have hmem := mem_cmds_of_headCmd hc
    refine ⟨fun hmove hk h20 => adapterState_of_allowed hc hi hmove hk h20, fun hnot => ?_, fun hmove hk h20 => ?_⟩
    · rw [if_pos hnot] at hx
      exact completes_at_once hmem hx
    · rw [hmove, hk, h20] at hx
      exact completes_at_once hmem hx
  case effect =>
    intro s didx new e id d full hinv hp hd hk h0 hdue hid hfull
    exact adapterStateEffect_of_due hp hd hk h0 hdue (canon_iff_inv.mpr hinv) hid hfull
  case destroy =>
    intro s c i hc hi
    have hne : sget [] i s.ad.destroying ++ [c.id] ≠ [] := List.append_ne_nil_of_right_ne_nil _ (List.cons_ne_nil _ _)
    exact ⟨_, execAdapterDestroy_of_owned hc hi, takeUp_takenUp rfl _, sget_sput_self _ _ _ hne _, rfl⟩
  case free =>
    intro s didx hinv hids
    refine ⟨fun hnamed => ?_, fun hnamed => ?_⟩
    · obtain ⟨t, ht, hfree, hdone, hmove⟩ := adapterDestroyFree_of_unnamed hids (canon_iff_inv.mpr hinv) hnamed
      exact ⟨t, ht, hfree.desc, hfree.others, hfree.pending, hdone, hmove,
        fun e he x hx hdx => hfree.shards e he x hx (congrArg BitVec.toNat hdx), hfree.mem, hfree.out, hfree.cust⟩
    · rw [execAdapterDestroyFree_of_waiting hids, if_pos hnamed]
  case foreign =>
    intro s c op x hc hx hi
    exact completes_at_once (mem_cmds_of_headCmd hc) (exec_of_foreign_adapter hc hx hi)

end Sys2Proof.Machine
end

section
/-! O30. The KV cache of one partition, as a command on its sequences leaves it (spec/07 R210 to R218). -/

namespace Sys2Proof.Machine

/-! ### One partition's cache -/

theorem partOf_updPart_self {s : State} (h : Canon s) (p : Nat) (f : Partition → Partition) :
    partOf (updPart p f s) p = f (partOf s p) :=
  sget_sput_same _ _ _ _ ((sparseWf_iff _ _).mp h.parts).1

theorem partOf_updPart_other {s : State} (h : Canon s) (p : Nat) (f : Partition → Partition) {i : Nat} (hi : i ≠ p) :
    partOf (updPart p f s) i = partOf s i :=
  sget_sput_other _ _ _ _ _ ((sparseWf_iff _ _).mp h.parts).1 hi

/-- The cache of partition `p` is `k` in `t`; every other partition, memory, keys, adapters and interfaces are as in
`s`. -/
structure KvSet (s t : State) (p : Nat) (k : Kv) : Prop where
  kv : kvOf t p = k
  others : ∀ i, i ≠ p → partOf t i = partOf s i
  mem : t.mem = s.mem
  out : t.out = s.out
  cust : t.cust = s.cust
  ad : t.ad = s.ad

theorem updKv_sets {s : State} (h : Canon s) (p : Nat) (f : Kv → Kv) : KvSet s (updKv p f s) p (f (kvOf s p)) where
  kv := congrArg Partition.kv (partOf_updPart_self h p _)
  others _ hi := partOf_updPart_other h p _ hi
  mem := rfl
  out := rfl
  cust := rfl
  ad := rfl

theorem seqOf_of_kvOf {s t : State} {p : Nat} (h : kvOf t p = kvOf s p) (q : Nat) : seqOf t p q = seqOf s p q := by
  unfold seqOf
  rw [h]

theorem KvSet.refl (s : State) (p : Nat) : KvSet s s p (kvOf s p) := ⟨rfl, fun _ _ => rfl, rfl, rfl, rfl, rfl⟩

namespace KvSet

variable {s t : State} {p : Nat} {k : Kv} (h : KvSet s t p k)
include h

theorem onlyFront {u : State} (hu : OnlyFront t u) : KvSet s u p k := by
  obtain ⟨cmds, ready, rfl⟩ := hu.eq
  exact ⟨h.kv, h.others, h.mem, h.out, h.cust, h.ad⟩

theorem withProg (prog : Programs) : KvSet s { t with prog := prog } p k :=
  ⟨h.kv, h.others, h.mem, h.out, h.cust, h.ad⟩

theorem seqOf_self {m : Sparse Sequence} {q : Nat} {x : Sequence} (hk : k.seqs = sput {} q x m) (hx : x.state ≠ .free) :
    seqOf t p q = x := by
  unfold seqOf
  rw [h.kv, hk]
  exact sget_sput_self _ _ _ (fun he => hx (congrArg Sequence.state he)) _

theorem seqOf_other {q j : Nat} {x : Sequence} (hk : k.seqs = sput {} q x (kvOf s p).seqs) (hx : x.state ≠ .free)
    (hj : j ≠ q) : seqOf t p j = seqOf s p j := by
  unfold seqOf
  rw [h.kv, hk]
  exact sget_sput_other_of_ne (fun he => hx (congrArg Sequence.state he)) hj _

end KvSet

/-! ### Chunks held and dropped -/

theorem holdChunks_eq (cs : List Nat) (k : Kv) :
    ∃ ch, cs.foldl (fun k n => holdChunk n k) k = { k with chunks := ch } := by
  induction cs generalizing k with
  | nil => exact ⟨_, rfl⟩
  | cons n cs ih => exact ih (holdChunk n k)

theorem dropChunk_eq (c : Nat) (k : Kv) : ∃ ch, dropChunk c k = { k with chunks := ch } := by
  unfold dropChunk
  dsimp only
  split <;> exact ⟨_, rfl⟩

theorem dropChunks_eq (cs : List Nat) (k : Kv) :
    ∃ ch, cs.foldl (fun k n => dropChunk n k) k = { k with chunks := ch } := by
  induction cs generalizing k with
  | nil => exact ⟨_, rfl⟩
  | cons n cs ih =>
    obtain ⟨ch, hch⟩ := dropChunk_eq n k
    rw [List.foldl_cons, hch]
    exact ih _

end Sys2Proof.Machine
end

section
/-! O30. KV_OPEN (spec/07 R210, R214, R215). -/

namespace Sys2Proof.Machine

/-- The sequence that a KV.OPEN makes of the chunks that its prompt matched. -/
def openedSeq (c : Cmd) (gen : BitVec 16) (b : Nat) (hashes : List (BitVec 64 × BitVec 64)) (matched : List Nat) :
    Sequence where
  state := .opened
  slot := BitVec.ofNat 13 (cSlot c.word)
  gen := cGen c.word
  adid := cAdid c.word
  baseGen := gen
  length := 16 * matched.length
  chunks := matched
  buffer := b
  hashes := hashes

/-- The chunks of a partition's tree that the hashes of a command's prompt match. -/
def matchedChunks (c : Cmd) (hashes : List (BitVec 64 × BitVec 64)) (s : State) : List Nat :=
  matchTree (BitVec.ofNat 13 (cSlot c.word)) (cGen c.word) (kvOf s c.part.toNat).tree hashes

theorem matchedChunks_nil (c : Cmd) (s : State) : matchedChunks c [] s = [] := rfl

/-- KV.OPEN of a prompt once every check before it has passed (spec/07 R214, R215). -/
def openPrompt (host : HostMem) (c : Cmd) (gen : BitVec 16) (h b : Nat) (s : State) : State :=
  let r := gcmFetch host (cAddr0 c.word) (cLen c.word) (cSlot c.word) (cGen c.word) s
  if r.1.2.1 then finish c.id stChecksum 0 0 r.2
  else if r.1.1 then finish c.id stKeyRevoked 0 0 r.2
  else match (slotOf s (cSlot c.word)).cur with
    | none => finish c.id stKeyRevoked 0 0 r.2
    | some key => kvOpen c gen h b (promptHashes (kvHashKey key) (cAdid c.word) gen (kvFp4 s c.part.toNat) 0
        ((chunk 64 (cLen c.word / 64) r.1.2.2).filter fun t => t.length = 64)) r.2

/-- A prompt is read from the host: the keys' counts and what is observed may change. -/
theorem gcmFetch_eq (host : HostMem) (a len slot : Nat) (gen : BitVec 16) (s : State) : ∃ cust obs,
    (gcmFetch host a len slot gen s).2 = { s with cust := cust, obs := obs } :=
  ⟨_, _, rfl⟩

section
variable {s : State} {host : HostMem} {c : Cmd} (hc : headCmd s 0x40 = some c)
include hc

theorem execKvOpen_of_passed {h b : Nat} {gen : BitVec 16}
    (hform : cfg s 0x2500 (c.part.toNat + 1) ≠ 0 ∨ cLen c.word = 0 ∧ cAddr0 c.word = 0)
    (had : cAdid c.word = 0 ∨ didxFor s c.part.toNat (cAdid c.word) ≠ none)
    (hgen : (slotOf s (cSlot c.word)).gen = cGen c.word) (hbase : bindGen s c.part.toNat = some gen)
    (hh : freeHandle s c.part.toNat = some h) (hb : freeBuffer s c.part.toNat = some b)
    (hq : quotaFull s c.part.toNat 2 1 = false) :
    exec (.kvOpen host) s =
      .next (if cLen c.word = 0 then kvOpen c gen h b [] s else openPrompt host c gen h b s) := by
  have hf : (decide (cfg s 0x2500 (c.part.toNat + 1) = 0) &&
      (decide (cLen c.word ≠ 0) || decide (cAddr0 c.word ≠ 0))) = false := by
    rcases hform with hform | ⟨hlen, haddr⟩
    · simp [hform]
    · simp [hlen, haddr]
  have ha : (decide (cAdid c.word ≠ 0) && (didxFor s c.part.toNat (cAdid c.word)).isNone) = false := by
    rcases had with had | had
    · simp [had]
    · simp [Option.isNone_eq_false_iff.mpr (Option.isSome_iff_ne_none.mpr had)]
  show execKvOpen host s = _
  simp only [execKvOpen, onHead_of_headCmd hc, hf, ha, hgen, hbase, hh, hb, hq, ne_eq, not_true_eq_false, if_false,
    Bool.false_eq_true]
  rfl

theorem execKvOpen_of_refused
    (hbad : (cfg s 0x2500 (c.part.toNat + 1) = 0 ∧ (cLen c.word ≠ 0 ∨ cAddr0 c.word ≠ 0)) ∨
      (cAdid c.word ≠ 0 ∧ didxFor s c.part.toNat (cAdid c.word) = none) ∨ (slotOf s (cSlot c.word)).gen ≠ cGen c.word ∨
      bindGen s c.part.toNat = none ∨ freeHandle s c.part.toNat = none ∨ freeBuffer s c.part.toNat = none ∨
      quotaFull s c.part.toNat 2 1 = true) :
    exec (.kvOpen host) s = .next (finish c.id
      (if cfg s 0x2500 (c.part.toNat + 1) = 0 ∧ (cLen c.word ≠ 0 ∨ cAddr0 c.word ≠ 0) then 0x09
       else if cAdid c.word ≠ 0 ∧ didxFor s c.part.toNat (cAdid c.word) = none then 0x0A
       else if (slotOf s (cSlot c.word)).gen ≠ cGen c.word then 0x05
       else if bindGen s c.part.toNat = none then 0x02 else 0x04) 0 0 s) := by
  show execKvOpen host s = _
  simp only [execKvOpen, onHead_of_headCmd hc, Bool.and_eq_true, Bool.or_eq_true, decide_eq_true_eq,
    Option.isNone_iff_eq_none]
  split
  · rfl
  next hform =>
    split
    · rfl
    next had =>
      split
      · rfl
      next hgen =>
        cases hbase : bindGen s c.part.toNat with
        | none => rfl
        | some gen =>
          have hrest := (((hbad.resolve_left hform).resolve_left had).resolve_left hgen).resolve_left
            (by rw [hbase]; exact Option.some_ne_none _)
          cases hh : freeHandle s c.part.toNat with
          | none => rfl
          | some h =>
            cases hb : freeBuffer s c.part.toNat with
            | none => rfl
            | some b =>
              rw [hh, hb] at hrest
              have hq := (hrest.resolve_left (Option.some_ne_none _)).resolve_left (Option.some_ne_none _)
              simp only [hq, if_true]
              rfl

end

/-- What a KV.OPEN makes of the cache. -/
def openedKv (c : Cmd) (gen : BitVec 16) (h b : Nat) (hashes : List (BitVec 64 × BitVec 64)) (s : State)
    (k : Kv) : Kv :=
  let matched := matchedChunks c hashes s
  let k := matched.foldl (fun k n => holdChunk n k) { k with tree := touchTree s.steep.k matched k.tree }
  setSeq h (openedSeq c gen b hashes matched)
    { k with buffers := sput 0 b 1 k.buffers, written := sput [] b [] k.written }

theorem openedKv_eq (c : Cmd) (gen : BitVec 16) (h b : Nat) (hashes : List (BitVec 64 × BitVec 64)) (s : State)
    (k : Kv) : ∃ tree ch, openedKv c gen h b hashes s k =
      { k with seqs := sput {} h (openedSeq c gen b hashes (matchedChunks c hashes s)) k.seqs,
               buffers := sput 0 b 1 k.buffers, written := sput [] b [] k.written, tree := tree, chunks := ch } ∧
      (matchedChunks c hashes s = [] → ch = k.chunks) := by
  unfold openedKv
  obtain ⟨ch, hch⟩ := holdChunks_eq (matchedChunks c hashes s)
    { k with tree := touchTree s.steep.k (matchedChunks c hashes s) k.tree }
  refine ⟨_, ch, by dsimp only; rw [hch]; rfl, fun hnil => ?_⟩
  rw [hnil] at hch
  exact (congrArg Kv.chunks hch.symm :)

theorem kvOpen_sets {u : State} (hu : Canon u) (c : Cmd) (gen : BitVec 16) (h b : Nat)
    (hashes : List (BitVec 64 × BitVec 64)) : KvSet u (kvOpen c gen h b hashes u) c.part.toNat
      (openedKv c gen h b hashes u (kvOf u c.part.toNat)) :=
  KvSet.onlyFront (.withProg (updKv_sets hu c.part.toNat (openedKv c gen h b hashes u)) _)
    (finish_onlyFront c.id stOk 0 _ _)

/-- A command that stands among the accepted ones completes, whatever has happened to the rest. -/
theorem completed_finish_of_cmds {s u : State} {c : Cmd} (hc : c ∈ s.front.cmds) (hu : u.front.cmds = s.front.cmds)
    (status detail info : Nat) : Completed s (finish c.id status detail info u) c.id status detail info :=
  (completed_finish (hu ▸ hc) rfl status detail info).of_cmdOf (congrArg (·.find? fun x => x.id = c.id) hu :)

theorem kvOpen_completes {s u : State} {c : Cmd} (hc : c ∈ s.front.cmds) (hu : u.front.cmds = s.front.cmds)
    (gen : BitVec 16) (h b : Nat) (hashes : List (BitVec 64 × BitVec 64)) :
    Completed s (kvOpen c gen h b hashes u) c.id 0 0 (h + 16 * (matchedChunks c hashes u).length * 2 ^ 20) :=
  completed_finish_of_cmds hc (by exact hu) 0 0 _

/-- What KV.OPEN of a command, with its checks passed, leaves: the new sequence beside the others, and its buffer. -/
theorem kvOpen_opens {u : State} (hu : Canon u) (c : Cmd) (gen : BitVec 16) (h b : Nat)
    (hashes : List (BitVec 64 × BitVec 64)) :
    seqOf (kvOpen c gen h b hashes u) c.part.toNat h = openedSeq c gen b hashes (matchedChunks c hashes u) ∧
      (∀ q, q ≠ h → seqOf (kvOpen c gen h b hashes u) c.part.toNat q = seqOf u c.part.toNat q) ∧
      sget 0 b (kvOf (kvOpen c gen h b hashes u) c.part.toNat).buffers = 1 ∧
      (matchedChunks c hashes u = [] →
        (kvOf (kvOpen c gen h b hashes u) c.part.toNat).chunks = (kvOf u c.part.toNat).chunks) := by
  have hset := kvOpen_sets hu c gen h b hashes
  obtain ⟨tree, ch, hk, hnil⟩ := openedKv_eq c gen h b hashes u (kvOf u c.part.toNat)
  rw [hk] at hset
  have hopen : SeqState.opened ≠ SeqState.free := SeqState.noConfusion
  refine ⟨hset.seqOf_self rfl hopen, fun q hq => hset.seqOf_other rfl hopen hq, ?_, fun h0 => ?_⟩
  · rw [hset.kv]
    exact sget_sput_self 0 b 1 Nat.one_ne_zero _
  · rw [hset.kv]
    exact hnil h0

/-! ### A prompt -/

section
variable {s t : State} {host : HostMem} {c : Cmd} {gen : BitVec 16} {h b : Nat}
  {r : (Bool × Bool × List Byte) × State}
  (hr : gcmFetch host (cAddr0 c.word) (cLen c.word) (cSlot c.word) (cGen c.word) s = r)
include hr

/-- A change of a cache once a prompt has been read leaves everything else as it was before the read. -/
theorem KvSet.of_fetched {k : Kv} (ht : KvSet r.2 t c.part.toNat k) :
    (∀ i, i ≠ c.part.toNat → partOf t i = partOf s i) ∧ t.mem = s.mem ∧ t.out = s.out ∧ t.ad = s.ad := by
  subst hr
  exact ⟨ht.others, ht.mem, ht.out, ht.ad⟩

theorem openPrompt_of_failed (hfail : r.1.2.1 = true) : openPrompt host c gen h b s = finish c.id 0x07 0 0 r.2 := by
  subst hr
  exact if_pos hfail

theorem openPrompt_of_stale (hfail : r.1.2.1 = false) (hstale : r.1.1 = true) :
    openPrompt host c gen h b s = finish c.id 0x05 0 0 r.2 := by
  subst hr
  exact (if_neg (by rw [hfail]; exact Bool.false_ne_true)).trans (if_pos hstale)

theorem openPrompt_of_verified (hfail : r.1.2.1 = false) (hstale : r.1.1 = false) {key : BitVec 256}
    (hkey : (slotOf s (cSlot c.word)).cur = some key) :
    openPrompt host c gen h b s = kvOpen c gen h b (promptHashes (kvHashKey key) (cAdid c.word) gen
      (kvFp4 s c.part.toNat) 0 ((chunk 64 (cLen c.word / 64) r.1.2.2).filter fun x => x.length = 64)) r.2 := by
  subst hr
  unfold openPrompt
  simp only [hfail, hstale, hkey, Bool.false_eq_true, if_false]

/-- A prompt that is refused ends its command and leaves every sequence as it was. -/
theorem prompt_refused (hc : c ∈ s.front.cmds) (status : Nat) :
    (∀ q, seqOf (finish c.id status 0 0 r.2) c.part.toNat q = seqOf s c.part.toNat q) ∧
      (∀ i, i ≠ c.part.toNat → partOf (finish c.id status 0 0 r.2) i = partOf s i) ∧
      (finish c.id status 0 0 r.2).mem = s.mem ∧ (finish c.id status 0 0 r.2).out = s.out ∧
      (finish c.id status 0 0 r.2).ad = s.ad ∧ Completed s (finish c.id status 0 0 r.2) c.id status 0 0 ∧
      kvOf (finish c.id status 0 0 r.2) c.part.toNat = kvOf s c.part.toNat := by
  have hset := (KvSet.refl r.2 c.part.toNat).onlyFront (finish_onlyFront c.id status 0 0 _)
  obtain ⟨hkept, hm, ho, ha⟩ := hset.of_fetched hr
  have hkv : kvOf (finish c.id status 0 0 r.2) c.part.toNat = kvOf s c.part.toNat := hset.kv.trans (by rw [← hr]; rfl)
  exact ⟨fun q => seqOf_of_kvOf hkv q, hkept, hm, ho, ha,
    completed_finish hc (by rw [← hr]; rfl) .., hkv⟩

/-- A prompt that is read opens its sequence with the chunks that it matches. -/
theorem prompt_opened (hs : Canon s) (hc : c ∈ s.front.cmds) (gen : BitVec 16) (h b : Nat)
    (hashes : List (BitVec 64 × BitVec 64)) {t : State} (ht : t = kvOpen c gen h b hashes r.2) :
    (∀ q, q ≠ h → seqOf t c.part.toNat q = seqOf s c.part.toNat q) ∧ (∀ i, i ≠ c.part.toNat → partOf t i = partOf s i) ∧
      t.mem = s.mem ∧ t.out = s.out ∧ t.ad = s.ad ∧ (seqOf t c.part.toNat h).state = .opened ∧
      (seqOf t c.part.toNat h).buffer = b ∧
      (seqOf t c.part.toNat h).chunks = matchTree (BitVec.ofNat 13 (cSlot c.word)) (cGen c.word)
        (kvOf s c.part.toNat).tree hashes ∧
      (seqOf t c.part.toNat h).length = 16 * (seqOf t c.part.toNat h).chunks.length ∧
      Completed s t c.id 0 0 (h + (seqOf t c.part.toNat h).length * 2 ^ 20) := by
  subst ht
  have hcanon : Canon r.2 := hr ▸ hs.gcmFetch
  have hkv : kvOf r.2 c.part.toNat = kvOf s c.part.toNat := by rw [← hr]; rfl
  obtain ⟨hself, hother, -, -⟩ := kvOpen_opens hcanon c gen h b hashes
  obtain ⟨hkept, hm, ho, ha⟩ := (kvOpen_sets hcanon c gen h b hashes).of_fetched hr
  refine ⟨fun q hq => (hother q hq).trans (seqOf_of_kvOf hkv q), hkept, hm, ho, ha, ?_⟩
  rw [hself]
  refine ⟨rfl, rfl, ?_, rfl, kvOpen_completes hc (by rw [← hr]; rfl) ..⟩
  rw [← hkv]
  rfl

end

end Sys2Proof.Machine
end

section
/-! O30. KV_FORK, KV_CLOSE, KV_CLOSE_FREE and KV_READ (spec/07 R213, R218, Table AT-2; spec/14 Table HQ-9). -/

namespace Sys2Proof.Machine

/-! ### KV_FORK -/

/-- The sequence that a fork of `x` makes: its whole chunks, and its open buffer. -/
def forkedSeq (x : Sequence) : Sequence := { x with chunks := x.chunks.take (x.length / 16) }

/-- What a fork of sequence `x` into handle `h` makes of the cache. -/
def forkedKv (h : Nat) (x : Sequence) (k : Kv) : Kv :=
  let k := (forkedSeq x).chunks.foldl (fun k n => holdChunk n k) k
  setSeq h (forkedSeq x) { k with buffers := supd 0 x.buffer (· + 1) k.buffers }

theorem forkedKv_eq (h : Nat) (x : Sequence) (k : Kv) : ∃ ch, forkedKv h x k =
    { k with seqs := sput {} h (forkedSeq x) k.seqs, buffers := supd 0 x.buffer (· + 1) k.buffers, chunks := ch } := by
  obtain ⟨ch, hch⟩ := holdChunks_eq (forkedSeq x).chunks k
  unfold forkedKv
  rw [hch]
  exact ⟨ch, rfl⟩

section
variable {s : State} {c : Cmd} (hc : headCmd s 0x41 = some c)
include hc

theorem execKvFork_of_passed {h : Nat} {x : Sequence} (hx : x = seqOf s c.part.toNat (bits (cP1 c.word) 0 20))
    (hopen : x.state = .opened) (hh : freeHandle s c.part.toNat = some h) (hq : quotaFull s c.part.toNat 2 1 = false) :
    exec .kvFork s = .next (finish c.id 0 0 h (updKv c.part.toNat (forkedKv h x) s)) := by
  subst hx
  show execKvFork s = _
  unfold execKvFork
  rw [onHead_of_headCmd hc]
  dsimp only
  rw [if_neg (not_not_intro hopen), hh]
  exact congrArg Host.Outcome.next (if_neg (by rw [hq]; exact Bool.false_ne_true))

theorem execKvFork_of_refused
    (hbad : (seqOf s c.part.toNat (bits (cP1 c.word) 0 20)).state ≠ .opened ∨ freeHandle s c.part.toNat = none ∨
      quotaFull s c.part.toNat 2 1 = true) :
    exec .kvFork s = .next (finish c.id
      (if (seqOf s c.part.toNat (bits (cP1 c.word) 0 20)).state ≠ .opened then 0x0B else 0x04) 0 0 s) := by
  show execKvFork s = _
  simp only [execKvFork, onHead_of_headCmd hc]
  split
  · rfl
  next hopen =>
    have hrest := hbad.resolve_left hopen
    cases hh : freeHandle s c.part.toNat with
    | none => rfl
    | some h =>
      rw [hh] at hrest
      simp only [hrest.resolve_left (Option.some_ne_none _), if_true]
      rfl

end

/-- What a fork leaves: the second handle beside the other sequences, and one more use of the open buffer. -/
theorem kvFork_forks {s : State} (hs : Canon s) {c : Cmd} (hc : c ∈ s.front.cmds) (p h : Nat) {x : Sequence}
    (hopen : x.state = .opened) {t : State} (ht : t = finish c.id 0 0 h (updKv p (forkedKv h x) s)) :
    Completed s t c.id 0 0 h ∧ seqOf t p h = forkedSeq x ∧ (∀ q, q ≠ h → seqOf t p q = seqOf s p q) ∧
      sget 0 x.buffer (kvOf t p).buffers = sget 0 x.buffer (kvOf s p).buffers + 1 ∧
      (∀ i, i ≠ p → partOf t i = partOf s i) ∧ t.mem = s.mem ∧ t.out = s.out ∧ t.cust = s.cust := by
  subst ht
  have hset := (updKv_sets hs p (forkedKv h x)).onlyFront (finish_onlyFront c.id 0 0 h _)
  obtain ⟨ch, hk⟩ := forkedKv_eq h x (kvOf s p)
  rw [hk] at hset
  have hne : (forkedSeq x).state ≠ .free := fun he => nomatch hopen.symm.trans he
  refine ⟨completed_finish_of_cmds hc (by rfl) .., hset.seqOf_self rfl hne, fun q hq => hset.seqOf_other rfl hne hq, ?_,
    hset.others, hset.mem, hset.out, hset.cust⟩
  rw [hset.kv]
  exact sget_sput_self 0 x.buffer _ (Nat.succ_ne_zero _) _

/-! ### KV_CLOSE -/

/-- A sequence that waits for command `id` to close it. -/
def closingSeq (id : Nat) (x : Sequence) : Sequence :=
  { x with state := if x.state = .opened then .closing else .invalid, closing := some id }

theorem closingSeq_of_opened {x : Sequence} (h : x.state = .opened) (id : Nat) :
    closingSeq id x = { x with state := .closing, closing := some id } := by
  unfold closingSeq
  rw [if_pos h]

theorem closingSeq_of_invalid {x : Sequence} (h : x.state = .invalid) (id : Nat) :
    closingSeq id x = { x with closing := some id } := by
  unfold closingSeq
  rw [if_neg (by rw [h]; exact SeqState.noConfusion), ← h]

section
variable {s : State} {c : Cmd} {x : Sequence} (hc : headCmd s 0x42 = some c)
  (hx : x = seqOf s c.part.toNat (bits (cP1 c.word) 0 20))
include hc hx

theorem execKvClose_of_closable (hnone : x.closing = none) (hstate : x.state = .opened ∨ x.state = .invalid) :
    exec .kvClose s = .next (takeUp c.id
      (updKv c.part.toNat (setSeq (bits (cP1 c.word) 0 20) (closingSeq c.id x)) s)) := by
  subst hx
  show execKvClose s = _
  unfold execKvClose
  rw [onHead_of_headCmd hc]
  dsimp only
  rw [hnone, if_neg (by exact Bool.false_ne_true)]
  rcases hstate with hstate | hstate
  · rw [closingSeq_of_opened hstate, hstate]
  · rw [closingSeq_of_invalid hstate, hstate]

theorem execKvClose_of_refused (hbad : x.closing ≠ none ∨ x.state = .free ∨ x.state = .closing) :
    exec .kvClose s = .next (finish c.id 0x0B 0 0 s) := by
  subst hx
  show execKvClose s = _
  simp only [execKvClose, onHead_of_headCmd hc]
  split
  · rfl
  next hnone =>
    rw [Option.isSome_iff_ne_none] at hnone
    rcases hbad.resolve_left hnone with hstate | hstate <;> rw [hstate] <;> rfl

end

theorem kvClose_waits {s : State} (hs : Canon s) (c : Cmd) (p q : Nat) (x : Sequence) {t : State}
    (ht : t = takeUp c.id (updKv p (setSeq q (closingSeq c.id x)) s)) :
    TakenUp s t c.id ∧ seqOf t p q = closingSeq c.id x ∧ (∀ j, j ≠ q → seqOf t p j = seqOf s p j) ∧
      (∀ i, i ≠ p → partOf t i = partOf s i) ∧ t.mem = s.mem ∧ t.out = s.out := by
  subst ht
  have hset : KvSet s (takeUp c.id (updKv p (setSeq q (closingSeq c.id x)) s)) p _ :=
    (updKv_sets hs p _).onlyFront (by rfl)
  have hne : (closingSeq c.id x).state ≠ .free := by
    unfold closingSeq
    dsimp only
    split <;> exact SeqState.noConfusion
  exact ⟨⟨rfl, rfl⟩, hset.seqOf_self rfl hne, fun j hj => hset.seqOf_other rfl hne hj, hset.others, hset.mem, hset.out⟩

/-! ### KV_CLOSE_FREE -/

/-- What the end of sequence `q`, which was `x`, makes of the cache. -/
def closedKv (q : Nat) (x : Sequence) (k : Kv) : Kv :=
  setSeq q {} (dropBuffer x.buffer (x.chunks.foldl (fun k n => dropChunk n k) k))

theorem closedKv_eq (q : Nat) (x : Sequence) (k : Kv) : ∃ ch, closedKv q x k =
    { k with seqs := sput {} q {} k.seqs, buffers := supd 0 x.buffer (· - 1) k.buffers, chunks := ch } := by
  obtain ⟨ch, hch⟩ := dropChunks_eq x.chunks k
  unfold closedKv
  rw [hch]
  exact ⟨ch, rfl⟩

theorem execKvCloseFree_of_unnamed {s : State} {part : BitVec 6} {seq : BitVec 20} {x : Sequence} {id : Nat}
    (hx : x = seqOf s part.toNat seq.toNat) (hid : x.closing = some id) (hn : seqNamed s part.toNat seq.toNat = false) :
    exec (.kvCloseFree part seq) s = .next (finish id 0 0 0 (updKv part.toNat (closedKv seq.toNat x) s)) := by
  subst hx
  show execKvCloseFree part seq s = _
  simp only [execKvCloseFree, hid, hn, Bool.false_eq_true, if_false]
  rfl

theorem kvCloseFree_frees {s : State} (hs : Canon s) {id : Nat} (hid : cmdOf s id ≠ none) (p q : Nat) (x : Sequence)
    {t : State} (ht : t = finish id 0 0 0 (updKv p (closedKv q x) s)) :
    Completed s t id 0 0 0 ∧ (kvOf t p).seqs = sput {} q {} (kvOf s p).seqs ∧
      (kvOf t p).buffers = supd 0 x.buffer (· - 1) (kvOf s p).buffers ∧
      (∀ i, i ≠ p → partOf t i = partOf s i) ∧ t.mem = s.mem ∧ t.out = s.out ∧ t.cust = s.cust := by
  subst ht
  have hset := (updKv_sets hs p (closedKv q x)).onlyFront (finish_onlyFront id 0 0 0 _)
  obtain ⟨ch, hk⟩ := closedKv_eq q x (kvOf s p)
  rw [hk] at hset
  obtain ⟨c, hc, rfl⟩ := mem_cmds_of_cmdOf hid
  exact ⟨completed_finish_of_cmds hc (by rfl) .., (congrArg Kv.seqs hset.kv :), (congrArg Kv.buffers hset.kv :),
    hset.others, hset.mem, hset.out, hset.cust⟩

/-! ### KV_READ -/

theorem execKvRead_of_headCmd {s : State} {c : Cmd} {x : Sequence} (hc : headCmd s 0x43 = some c)
    (hx : x = seqOf s c.part.toNat (bits (cP1 c.word) 0 20)) : exec .kvRead s = .next (finish c.id 0 0
      ((match x.state with | .free => 0 | .opened => 1 | .closing => 2 | .invalid => 3) + x.length * 2 ^ 20) s) := by
  subst hx
  show execKvRead s = _
  unfold execKvRead
  rw [onHead_of_headCmd hc]
  rfl

/-- Settles O30: each command by the cache that it leaves, and KV_OPEN also by what it answers of a prompt. -/
theorem sequencesAreOpenedForkedClosedAndRead : Obligations.SequencesAreOpenedForkedClosedAndRead := by
  unfold Obligations.SequencesAreOpenedForkedClosedAndRead
  refine ⟨?opened, ?refused, ?forkRefused, ?forked, ?closed, ?freed, ?read⟩
  case opened =>
    rintro s host c _ h b gen hinv hc rfl had hgen hbase hh hb hq
    have hs := canon_iff_inv.mpr hinv
    have hmem := mem_cmds_of_headCmd hc
    refine ⟨fun hlen hform => ?_, ?_⟩
    · have hx := execKvOpen_of_passed (host := host) hc (hform.imp_right fun h0 => ⟨hlen, h0⟩) had hgen hbase hh hb hq
      rw [if_pos hlen] at hx
      obtain ⟨hself, hother, hbuf, hchunks⟩ := kvOpen_opens hs c gen h b []
      have hset := kvOpen_sets hs c gen h b []
      have hdone : Completed s (kvOpen c gen h b [] s) c.id 0 0 h := by
        simpa [matchedChunks_nil] using kvOpen_completes hmem rfl gen h b []
      exact ⟨_, hx, hdone, hself, hother, hbuf, hchunks rfl, hset.others, hset.mem, hset.out, hset.cust, hset.ad⟩
    · rintro hmode hlen _ key rfl hkey
      have hx := execKvOpen_of_passed (host := host) hc (.inl hmode) had hgen hbase hh hb hq
      rw [if_neg hlen] at hx
      refine ⟨_, hx, ?_⟩
      generalize hr : gcmFetch host (cAddr0 c.word) (cLen c.word) (cSlot c.word) (cGen c.word) s = r
      split
      next hfail =>
        rw [openPrompt_of_failed hr hfail]
        obtain ⟨hseq, hkept, hm, ho, ha, hdone, hkv⟩ := prompt_refused hr hmem 0x07
        exact ⟨fun q _ => hseq q, hkept, hm, ho, ha, hdone, hkv⟩
      next hgood =>
        rw [Bool.not_eq_true] at hgood
        split
        next hstale =>
          rw [openPrompt_of_stale hr hgood hstale]
          obtain ⟨hseq, hkept, hm, ho, ha, hdone, hkv⟩ := prompt_refused hr hmem 0x05
          exact ⟨fun q _ => hseq q, hkept, hm, ho, ha, hdone, hkv⟩
        next hfresh =>
          rw [openPrompt_of_verified hr hgood (Bool.not_eq_true _ ▸ hfresh) hkey]
          exact prompt_opened hr hs hmem gen h b _ rfl
  case refused =>
    rintro s host c _ hc rfl hbad
    obtain ⟨t, ht, hdone, hfront⟩ := completes_at_once (mem_cmds_of_headCmd hc)
      (execKvOpen_of_refused (host := host) hc hbad)
    exact ⟨t, ht, hfront, hdone⟩
  case forkRefused =>
    intro s c hc hbad
    obtain ⟨t, ht, hdone, hfront⟩ := completes_at_once (mem_cmds_of_headCmd hc) (execKvFork_of_refused hc hbad)
    exact ⟨t, ht, hfront, hdone⟩
  case forked =>
    rintro s c _ h x hinv hc rfl hx hopen hh hq
    exact ⟨_, execKvFork_of_passed hc hx hopen hh hq,
      kvFork_forks (canon_iff_inv.mpr hinv) (mem_cmds_of_headCmd hc) _ h hopen rfl⟩
  case closed =>
    rintro s c _ _ x hinv hc rfl rfl hx
    refine ⟨fun hnone hstate => ?_, fun hbad =>
      completes_at_once (mem_cmds_of_headCmd hc) (execKvClose_of_refused hc hx hbad)⟩
    exact ⟨_, execKvClose_of_closable hc hx hnone hstate, kvClose_waits (canon_iff_inv.mpr hinv) c _ _ x rfl⟩
  case freed =>
    intro s part seq x id hinv hx hclosing hn hid
    exact ⟨_, execKvCloseFree_of_unnamed hx hclosing hn, kvCloseFree_frees (canon_iff_inv.mpr hinv) hid _ _ x rfl⟩
  case read =>
    intro s c x hc hx
    exact ⟨_, execKvRead_of_headCmd hc hx, finish_onlyFront .., completed_finish (mem_cmds_of_headCmd hc) rfl ..⟩

end Sys2Proof.Machine
end

section
/-! O21. A strain command that starts: what its start writes, and what it reads (spec/07 R222, R227). -/

namespace Sys2Proof.Machine

/-! ### What a strain command reads -/

namespace SameInputs

variable {s t : State} {g : Nat} (h : SameInputs s t g)
include h

theorem kvCtlAt (b : Binding) (i : Nat) : kvCtlAt t b i = kvCtlAt s b i := (congrArg (Machine.kvCtlAt · b i) h.rest :)

theorem kvL (p : Nat) : kvL t p = kvL s p := (congrArg (Machine.kvL · p) h.rest :)

theorem kvH (p : Nat) : kvH t p = kvH s p := (congrArg (Machine.kvH · p) h.rest :)

theorem kvD (p : Nat) : kvD t p = kvD s p := (congrArg (Machine.kvD · p) h.rest :)

theorem strainGroup : strainGroup t g = strainGroup s g := by
  unfold Machine.strainGroup
  rw [h.binding, h.entryNow, h.kvCtlAt]

theorem batchRow (r : Nat) : batchRow t g r = batchRow s g r := by
  unfold Machine.batchRow
  rw [h.coreOwnerD, h.strainGroup, h.tableOf]

theorem appRows (w : BitVec 256) : appRows t g w = appRows s g w := by
  unfold Machine.appRows
  simp only [h.batchRow]

theorem strainCycles (w : BitVec 256) : strainCycles t g w = strainCycles s g w := by
  unfold Machine.strainCycles strainBytes
  dsimp only
  rw [h.coreOwnerD, h.kvH, h.kvD, h.appRows]

theorem strainElem (w : BitVec 256) (r c : Nat) : strainElem t g w r c = strainElem s g w r c := by
  unfold Machine.strainElem
  rw [h.tile16, h.tile32]

theorem sourceVals (bf16 : Bool) (a n : Nat) : sourceVals t g bf16 a n = sourceVals s g bf16 a n := by
  unfold Machine.sourceVals
  simp only [h.tile16, h.tile32]

end SameInputs

/-! ### Its start -/

/-- The running op of the strain command at the head of a core's list. -/
def strainRun (s : State) (g : Nat) (w : BitVec 256) : RunOp where
  word := w.setWidth 128
  index := strainIndex (coreOf s g).strainNext
  stream := false
  endAt := s.clock + strainCycles s g w
  awaiting := 0

/-- Core `k` once the strain command at the head of its list in `s` has started: beside it only credits and the words
with an ECC error may differ. -/
def StrainTaken (s : State) (g : Nat) (w : BitVec 256) (k : Core) : Prop :=
  k = { coreOf s g with credits := k.credits, upsets := k.upsets, strainNext := (coreOf s g).strainNext + 1,
                        running := (coreOf s g).running ++ [strainRun s g w] }

theorem strainBegin_onCore {s u : State} {g : Nat} {x : List Upset}
    (h : OnCore s u g s.mem { coreOf s g with upsets := x }) (w : BitVec 256) :
    ∃ k, OnCore s (strainBegin g w u) g s.mem k ∧ StrainTaken s g w k ∧ k.upsets = x := by
  have hcycles : strainCycles u g w = strainCycles s g w := (h.sameInputs rfl rfl).strainCycles w
  have hclock := h.clock
  unfold strainBegin
  extract_lets o d v
  have hv : OnCore s v g s.mem { coreOf s g with upsets := x } := (h.count ..).count ..
  have hrun : (strainRun s g w).endAt = v.clock + d := by
    show s.clock + strainCycles s g w = u.clock + strainCycles u g w
    rw [hcycles, hclock]
  unfold StrainTaken
  refine ⟨_, hv.updCore _, ?_⟩
  dsimp only
  rw [← hrun]
  split <;> exact ⟨rfl, rfl⟩

theorem OnCore.refl_upsets {s : State} (h : Canon s) (g : Nat) :
    OnCore s s g s.mem { coreOf s g with upsets := (coreOf s g).upsets } := OnCore.refl h g

theorem OnCore.tileWrite {s t : State} {g : Nat} {m : Mem} {k : Core} (h : OnCore s t g m k) (off : Nat)
    (bs : List Byte) : ∃ x, OnCore s (tileWrite g off bs t) g (tileMem g off bs m) { k with upsets := x } := by
  obtain ⟨hc, hf, rfl, rfl⟩ := h
  unfold Machine.tileWrite
  extract_lets o head rest m' t'
  have ht : OnCore s t' g (tileMem g off bs t.mem) (coreOf t g) :=
    ⟨hc.withMem fun _ => memWf_tileMem hc.mem, hf.trans ⟨rfl, fun _ _ => rfl⟩, rfl, rfl⟩
  split
  · exact ⟨_, ht⟩
  · exact ⟨_, ht.updCore _⟩

theorem readFails_of_upsets {s t : State} {g : Nat} (h : (coreOf t g).upsets = (coreOf s g).upsets)
    (rs : List MemRange) : readFails t g rs = readFails s g rs := by
  unfold readFails
  rw [h]

/-- Strain command `w` of core `g`, which starts in `s`, runs in `t` with memory `m`: no byte outside the tile memory of
its core has changed. -/
def StrainRuns (s t : State) (g : Nat) (w : BitVec 256) (m : Mem) : Prop :=
  ∃ k, OnCore s t g m k ∧ StrainTaken s g w k ∧ OutsideTile g s.mem m

/-- The state in which strain command `w` has started and read the ranges `rs`. -/
def strainReading (g : Nat) (w : BitVec 256) (rs : List MemRange) (s : State) : State :=
  correctReads g rs (strainBegin g w s)

theorem strainReading_runs {s u : State} {g : Nat} {x : List Upset}
    (h : OnCore s u g s.mem { coreOf s g with upsets := x }) (w : BitVec 256) (rs : List MemRange) :
    StrainRuns s (strainReading g w rs u) g w s.mem := by
  obtain ⟨k, hk, htaken, -⟩ := strainBegin_onCore h w
  obtain ⟨y, hy⟩ := correctReads_onCore hk rs
  refine ⟨_, hy, ?_, h.mem ▸ h.canon.mem, fun _ _ => rfl⟩
  unfold StrainTaken at htaken ⊢
  rw [htaken]

namespace StrainRuns

variable {s t : State} {g : Nat} {w : BitVec 256} {m : Mem} (h : StrainRuns s t g w m)
include h

theorem tileWrite (off : Nat) (bs : List Byte) : StrainRuns s (tileWrite g off bs t) g w (tileMem g off bs m) := by
  obtain ⟨k, hk, htaken, hout⟩ := h
  obtain ⟨x, hx⟩ := hk.tileWrite off bs
  refine ⟨_, hx, ?_, hout.tileMem ..⟩
  unfold StrainTaken at htaken ⊢
  rw [htaken]

theorem opEvents (lane : Nat) (index : BitVec 16) (classes : List Nat) :
    StrainRuns s (opEvents g lane index classes t) g w m := by
  obtain ⟨k, hk, hrest⟩ := h
  exact ⟨k, hk.opEvents .., hrest⟩

theorem foldl {α : Type} {f : State → α → State} {fm : Mem → α → Mem} (l : List α)
    (hf : ∀ t m x, StrainRuns s t g w m → StrainRuns s (f t x) g w (fm m x)) :
    StrainRuns s (l.foldl f t) g w (l.foldl fm m) := by
  induction l generalizing t m with
  | nil => exact h
  | cons x l ih => exact ih (hf t m x h)

theorem next : (coreOf t g).strainNext = (coreOf s g).strainNext + 1 := by
  obtain ⟨k, hk, htaken, -⟩ := h
  rw [hk.core, show k = _ from htaken]

theorem running : ∃ r ∈ (coreOf t g).running, r.index = strainIndex (coreOf s g).strainNext ∧
    r.endAt = s.clock + strainCycles s g w := by
  obtain ⟨k, hk, htaken, -⟩ := h
  rw [hk.core, show k = _ from htaken]
  exact ⟨strainRun s g w, List.mem_append_right _ (List.mem_singleton_self _), rfl, rfl⟩

theorem mem : t.mem = m := by
  obtain ⟨k, hk, -⟩ := h
  exact hk.mem

theorem onlyTile : OnlyTile s t g := by
  obtain ⟨k, hk, -, -, hout⟩ := h
  intro a ha
  rw [hk.mem, hout a ha]

theorem coreFrame : CoreFrame s t g := by
  obtain ⟨k, hk, -⟩ := h
  exact hk.frame

theorem canon : Canon t := by
  obtain ⟨k, hk, -⟩ := h
  exact hk.canon

theorem sameInputs (hm : m = s.mem) : SameInputs s t g := by
  obtain ⟨k, hk, htaken, -⟩ := h
  subst hm
  exact hk.sameInputs (congrArg Core.binding htaken :) (congrArg Core.image htaken :)

end StrainRuns

/-! ### A row of the strain commands -/

theorem onStrain_of_fit {s v : State} {core : BitVec 7} {op : Nat} {w : BitVec 256} {ok : State → BitVec 256 → Bool}
    {reads : State → BitVec 256 → List (Nat × Nat)} {rs : List MemRange} (hw : strainNow s core.toNat op = some w)
    (hv : v = strainBegin core.toNat w s) (hok : ok v w = true) (hrs : tileRanges (reads v w) = rs)
    (hread : readFails v core.toNat rs = false) (f : BitVec 256 → State → State) :
    onStrain core op ok reads s f = .next (f w (strainReading core.toNat w rs s)) := by
  subst hv hrs
  unfold onStrain
  dsimp only
  rw [hw]
  dsimp only
  rw [hok]
  exact congrArg Host.Outcome.next (withReadsOf_of_good hread _ (f w))

theorem onStrain_of_unfit {s : State} {core : BitVec 7} {op : Nat} {w : BitVec 256} {ok : State → BitVec 256 → Bool}
    (hw : strainNow s core.toNat op = some w) (hok : ok (strainBegin core.toNat w s) w = false)
    (reads : State → BitVec 256 → List (Nat × Nat)) (f : BitVec 256 → State → State) :
    onStrain core op ok reads s f = .next (progFault core.toNat false
      (strainIndex (coreOf s core.toNat).strainNext).toNat 2 (strainBegin core.toNat w s)) := by
  unfold onStrain
  dsimp only
  rw [hw]
  dsimp only
  rw [hok]
  rfl

theorem strainNow_not_faulted {s : State} {g op : Nat} {w : BitVec 256} (h : strainNow s g op = some w) :
    (coreOf s g).faulted = none := by
  unfold strainNow at h
  dsimp only at h
  split at h
  · cases h
  · split at h
    next hc =>
      simp only [Bool.and_eq_true, Option.isNone_iff_eq_none] at hc
      tauto
    next => cases h

/-- What program fault 2 on a strain command whose operands are out of range leaves, from a state with other ECC
errors. -/
theorem strainFault_faults {s u : State} {g : Nat} {x : List Upset}
    (h : OnCore s u g s.mem { coreOf s g with upsets := x }) (hf : (coreOf s g).faulted = none) (hout : u.out = s.out)
    (w : BitVec 256) (i : Nat) {t : State} (ht : t = progFault g false i 2 (strainBegin g w u)) :
    (coreOf t g).faulted = some 2 ∧ t.mem = s.mem ∧ t.out = s.out := by
  subst ht
  obtain ⟨k, hk, htaken, -⟩ := strainBegin_onCore h w
  obtain ⟨-, hm, ho⟩ := progFault_keeps g false i 2 (strainBegin g w u)
  have hnone : (coreOf (strainBegin g w u) g).faulted = none := by
    rw [hk.core, show k = _ from htaken]
    exact hf
  exact ⟨progFault_faulted hk.canon hnone false i 2, hm.trans hk.mem, ho.trans hout⟩

end Sys2Proof.Machine
end

section
/-! O21. MASK, BLOCK and TRANS (spec/07 R224, R226). -/

namespace Sys2Proof.Machine

/-- The elements of a numbered list with their numbers. -/
theorem indexed_map_range {α : Type} (n : Nat) (f : Nat → α) :
    indexed ((List.range n).map f) = (List.range n).map fun i => (i, f i) := by
  unfold indexed
  rw [List.length_map, List.length_range]
  simpa using List.zip_map' (f := id) (g := f) (l := List.range n)

/-- A command's effect on package memory, where each step of it acts on memory alone. -/
theorem foldl_mem {α : Type} {f : State → α → State} {fm : Mem → α → Mem} (hf : ∀ s x, (f s x).mem = fm s.mem x)
    (l : List α) (s : State) : (l.foldl f s).mem = l.foldl fm s.mem := by
  induction l generalizing s with
  | nil => rfl
  | cons x l ih => rw [List.foldl_cons, List.foldl_cons, ih, hf]

/-- What the statement of R224 and R226 says of a command that has run. -/
theorem StrainRuns.ends {s t : State} {g : Nat} {w : BitVec 256} {m : Mem} (h : StrainRuns s t g w m) :
    (coreOf t g).strainNext = (coreOf s g).strainNext + 1 ∧
      (∃ r ∈ (coreOf t g).running, r.index = strainIndex (coreOf s g).strainNext ∧
        r.endAt = s.clock + strainCycles s g w) ∧ t.mem = m ∧ OnlyTile s t g ∧ CoreFrame s t g :=
  ⟨h.next, h.running, h.mem, h.onlyTile, h.coreFrame⟩

theorem readFails_strainBegin {s : State} (hc : Canon s) (g : Nat) (w : BitVec 256) (rs : List MemRange) :
    readFails (strainBegin g w s) g rs = readFails s g rs := by
  obtain ⟨k, hk, -, hu⟩ := strainBegin_onCore (OnCore.refl_upsets hc g) w
  exact readFails_of_upsets ((congrArg Core.upsets hk.core).trans hu) rs

theorem onStrain_runs {s : State} {core : BitVec 7} {op : Nat} {w : BitVec 256} {ok : State → BitVec 256 → Bool}
    {reads : State → BitVec 256 → List (Nat × Nat)} {rs : List MemRange} (hc : Canon s)
    (hw : strainNow s core.toNat op = some w) (hok : ok (strainBegin core.toNat w s) w = true)
    (hrs : tileRanges (reads (strainBegin core.toNat w s) w) = rs) (hread : readFails s core.toNat rs = false)
    (f : BitVec 256 → State → State) :
    ∃ v, onStrain core op ok reads s f = .next (f w v) ∧ StrainRuns s v core.toNat w s.mem ∧
      SameInputs s v core.toNat :=
  have hv := strainReading_runs (OnCore.refl_upsets hc core.toNat) w rs
  ⟨_, onStrain_of_fit hw rfl hok hrs ((readFails_strainBegin hc ..).trans hread) f, hv, hv.sameInputs rfl⟩

/-! ### MASK -/

/-- The row of a MASK for batch row `i`, of the keys `key`. -/
def maskRow (s : State) (g : Nat) (w : BitVec 256) (key : Nat → BitVec 20 × Nat) (i : Nat) : List Byte :=
  (List.range (sCols w)).flatMap fun j =>
    if keyVisible (batchRow s g (sRow w + i)) (key j).1 (key j).2 then [0x00, 0x00] else [0x80, 0xFF]

/-- The key of column `j` of a MASK: its sequence and its position. -/
def maskKey (s : State) (g : Nat) (w : BitVec 256) (j : Nat) : BitVec 20 × Nat :=
  if sKsrc w then ((batchRow s g ((sKbase w + j) % 4096)).seq, (batchRow s g ((sKbase w + j) % 4096)).qpos.toNat)
  else ((batchRow s g (sRow w)).seq, sKbase w + j)

theorem mask_writes {s : State} {core : BitVec 7} {w : BitVec 256} (hc : Canon s)
    (hw : strainNow s core.toNat 2 = some w) : ∃ t, exec (.mask core) s = .next t ∧
      StrainRuns s t core.toNat w ((List.range (sRows w)).foldl (fun m i => tileMem core.toNat
        (sDaddr w + sDstride w * i) (maskRow s core.toNat w (maskKey s core.toNat w) i) m) s.mem) := by
  obtain ⟨v, hx, hv, hin⟩ := onStrain_runs (ok := fun _ _ => true) (reads := fun _ _ => []) (rs := []) hc hw rfl rfl
    (by simp [readFails]) fun w s => _
  refine ⟨_, hx, ?_⟩
  simp only [indexed_map_range, List.foldl_map, List.flatMap_map, hin.batchRow]
  exact hv.foldl _ fun t m i h => h.tileWrite ..

/-! ### BLOCK -/

/-- Block `b` of a BLOCK, quantised: its codes, its scale and its events. -/
def strainBlock (s : State) (g : Nat) (w : BitVec 256) (b : Nat) : List Byte × Byte × List Nat :=
  quantise (blockIndices.map fun x =>
    if sOrient w then strainElem s g w (16 * (b / 8) + x.1) (16 * (b % 8) + x.2)
    else strainElem s g w (16 * (b % 8) + x.2) (16 * (b / 8) + x.1))

/-- The operands of a BLOCK are in range. -/
def blockFits (w : BitVec 256) : Bool :=
  if sOrient w then sRows w ≤ 192 && sCols w ≤ 128 else sRows w ≤ 128 && sCols w ≤ 192

theorem block_writes {s : State} {core : BitVec 7} {w : BitVec 256} (hc : Canon s)
    (hw : strainNow s core.toNat 4 = some w) (hfit : blockFits w = true)
    (hread : readFails s core.toNat (tileRanges (strainSource s w)) = false) :
    ∃ t, exec (.block core) s = .next t ∧ StrainRuns s t core.toNat w
      (tileMem core.toNat (sXaddr w) ((List.range 96).map fun b => (strainBlock s core.toNat w b).2.1)
        (tileMem core.toNat (sDaddr w) ((List.range 96).flatMap fun b => (strainBlock s core.toNat w b).1) s.mem)) := by
  obtain ⟨v, hx, hv, hin⟩ := onStrain_runs (ok := fun _ => blockFits) (reads := strainSource) hc hw hfit rfl hread
    fun w s => _
  refine ⟨_, hx, ?_⟩
  simp only [List.map_map, List.flatMap_map, hin.strainElem]
  exact ((hv.tileWrite ..).tileWrite ..).opEvents ..

/-! ### TRANS -/

/-- Group `b` of 32 of row `c` of a TRANS, quantised: its codes, its scale and its events. -/
def transGroup (s : State) (g : Nat) (w : BitVec 256) (c b : Nat) : List Byte × Byte × List Nat :=
  quantise ((List.range (min 32 (sRows w - 32 * b))).map fun i => strainElem s g w (32 * b + i) c)

/-- Package memory once a TRANS has written row `c` and its scales. -/
def transMem (s : State) (g : Nat) (w : BitVec 256) (m : Mem) (c : Nat) : Mem :=
  tileMem g (sDsaddr w + sDstride w / 32 * c)
    ((List.range ((sRows w + 31) / 32)).map fun b => (transGroup s g w c b).2.1)
    (tileMem g (sDaddr w + sDstride w * c)
      ((List.range ((sRows w + 31) / 32)).flatMap fun b => (transGroup s g w c b).1) m)

theorem trans_writes {s : State} {core : BitVec 7} {w : BitVec 256} (hc : Canon s)
    (hw : strainNow s core.toNat 5 = some w) (hrows : sRows w ≤ 512) (hcols : sCols w ≤ 512)
    (hread : readFails s core.toNat (tileRanges (strainSource s w)) = false) :
    ∃ t, exec (.trans core) s = .next t ∧
      StrainRuns s t core.toNat w ((List.range (sCols w)).foldl (transMem s core.toNat w) s.mem) := by
  obtain ⟨v, hx, hv, hin⟩ := onStrain_runs (ok := fun _ w => decide (sRows w ≤ 512) && decide (sCols w ≤ 512))
    (reads := strainSource) hc hw (by simp [hrows, hcols]) rfl hread fun w s => _
  refine ⟨_, hx, ?_⟩
  simp only [indexed_map_range, List.foldl_map, List.map_map, List.flatMap_map, hin.strainElem]
  refine (hv.foldl _ fun t m c h => ?_).opEvents ..
  unfold transMem transGroup
  exact (h.tileWrite ..).tileWrite ..

end Sys2Proof.Machine
end

section
/-! O21. A core with other ECC errors in its memories starts what it would have started (spec/05 R145, R149). -/

namespace Sys2Proof.Machine

theorem takeCredits_of_upsets (x : List Upset) (w : BitVec 128) (k : Core) :
    takeCredits w { k with upsets := x } = { takeCredits w k with upsets := x } := by
  unfold takeCredits
  generalize waitsOf w = l
  induction l generalizing k with
  | nil => rfl
  | cons e l ih =>
    rw [List.foldl_cons, List.foldl_cons]
    split
    · exact ih k
    · exact ih (takeCredit e.1 e.2 k)

section
variable {s u : State} {g : Nat} {x : List Upset} (h : OnCore s u g s.mem { coreOf s g with upsets := x })
include h

theorem mayStart_of_upsets (q : QOp) : mayStart u g q = mayStart s g q := by
  have hlocked : isLocked u = isLocked s := (congrArg isLocked (h.sameInputs rfl rfl).rest :)
  unfold mayStart
  rw [h.core, h.clock, hlocked]

theorem opFree_of_upsets (q : QOp) : opFree u g q = opFree s g q := by
  have hbank (b : Bank) : bankFree u b = bankFree s b := by
    unfold bankFree
    rw [h.clock]
  have hacc (b : Bool) : accOf { coreOf s g with upsets := x } b = accOf (coreOf s g) b := rfl
  have hrank (b : Bool) : rankOf { coreOf s g with upsets := x } b = rankOf (coreOf s g) b := rfl
  have hvec : vecClear u g q.word = vecClear s g q.word := by
    unfold vecClear
    rw [h.core, h.clock]
  unfold opFree
  rw [h.core]
  simp only [h.clock, hbank, hacc, hrank, hvec]

theorem opDur_of_upsets (w : BitVec 128) : opDur u g w = opDur s g w := by
  have hin : SameInputs s u g := h.sameInputs rfl rfl
  have htile : runTile { coreOf s g with upsets := x } w = runTile (coreOf s g) w := rfl
  unfold opDur
  rw [h.core]
  simp only [hin.sideData, hin.pace, hin.rankPieces, htile]

theorem passesDeadline_of_upsets (n : Nat) : passesDeadline u g n = passesDeadline s g n := by
  have hrest := (h.sameInputs rfl rfl).rest
  have htime : coreTime u g = coreTime s g := (congrArg (coreTime · g) hrest :)
  have hcommit : isCommitSteep u = isCommitSteep s := (congrArg isCommitSteep hrest :)
  have hwave : waveTime u = waveTime s := (congrArg waveTime hrest :)
  have hguard : guardTime u = guardTime s := (congrArg guardTime hrest :)
  unfold passesDeadline deadline
  rw [htime, h.core, hcommit, hwave, hguard]

theorem canStart_of_upsets {k k' : Core} (hk : k' = { k with upsets := x }) (q : QOp) :
    canStart u g k' q = canStart s g k q := by
  subst hk
  unfold canStart
  rw [mayStart_of_upsets h, opFree_of_upsets h, opDur_of_upsets h, passesDeadline_of_upsets h, h.clock]
  rfl

theorem startsOn_of_upsets {k k' : Core} (hk : k' = { k with upsets := x }) (unit : Nat) :
    startsOn u g unit k' = startsOn s g unit k := by
  have hstart : canStart u g k' = canStart s g k := funext (canStart_of_upsets h hk)
  have hhead (b : Bool) : headOf u g unit b = headOf s g unit b := by
    unfold headOf
    rw [h.core]
  unfold startsOn
  rw [hstart, hhead, hhead, h.core]

theorem afterHigher_of_upsets (n : Nat) : afterHigher u g n = { afterHigher s g n with upsets := x } := by
  have hfold (l : List Nat) (k : Core) :
      l.foldl (fun k v => match startsOn u g v k with
        | some q => takeCredits q.word k
        | none => k) { k with upsets := x } =
      { l.foldl (fun k v => match startsOn s g v k with
        | some q => takeCredits q.word k
        | none => k) k with upsets := x } := by
    induction l generalizing k with
    | nil => rfl
    | cons v l ih =>
      rw [List.foldl_cons, List.foldl_cons, startsOn_of_upsets h rfl]
      cases startsOn s g v k with
      | none => exact ih k
      | some q =>
        dsimp only
        rw [takeCredits_of_upsets]
        exact ih _
  unfold afterHigher
  rw [h.core]
  exact hfold _ _

theorem strainNow_of_upsets (op : Nat) : strainNow u g op = strainNow s g op := by
  have hin : SameInputs s u g := h.sameInputs rfl rfl
  have hlocked : isLocked u = isLocked s := (congrArg isLocked hin.rest :)
  unfold strainNow
  rw [h.core, afterHigher_of_upsets h, h.clock, hlocked]
  dsimp only
  split
  · rfl
  next w hw =>
    rw [hin.strainCycles, passesDeadline_of_upsets h]
    rfl

end

end Sys2Proof.Machine
end

section
/-! O21. What a strain command does beside its core: the cores and the interfaces stay as they were. -/

namespace Sys2Proof.Machine

/-- The clock, the interfaces and every core are in `t` as in `s`. -/
structure CoresKept (s t : State) : Prop where
  clock : t.clock = s.clock
  out : t.out = s.out
  cores : t.prog.cores = s.prog.cores

namespace CoresKept

variable {s t u : State}

theorem refl (s : State) : CoresKept s s := ⟨rfl, rfl, rfl⟩

theorem trans (h : CoresKept s t) (h' : CoresKept t u) : CoresKept s u :=
  ⟨h'.clock.trans h.clock, h'.out.trans h.out, h'.cores.trans h.cores⟩

theorem noted (h : CoresKept s t) (hu : Noted t u) : CoresKept s u :=
  h.trans ⟨(congrArg State.clock hu :), (congrArg State.out hu :), (congrArg (·.prog.cores) hu :)⟩

theorem readOnly (h : CoresKept s t) (hu : ReadOnly t u) : CoresKept s u :=
  h.trans ⟨(congrArg State.clock hu :), (congrArg State.out hu :), congrArg Programs.cores hu.prog⟩

theorem core (h : CoresKept s t) (g : Nat) : coreOf t g = coreOf s g := congrArg (sget ({} : Core) g) h.cores

end CoresKept

/-- As `CoresKept`, and every byte stored is the same. -/
structure Gathered (s t : State) : Prop extends CoresKept s t where
  mem : t.mem = s.mem

namespace Gathered

variable {s t u : State}

theorem refl (s : State) : Gathered s s := ⟨.refl s, rfl⟩

theorem noted (h : Gathered s t) (hu : Noted t u) : Gathered s u := ⟨h.toCoresKept.noted hu, hu.mem.trans h.mem⟩

theorem readOnly (h : Gathered s t) (hu : ReadOnly t u) : Gathered s u :=
  ⟨h.toCoresKept.readOnly hu, hu.mem.trans h.mem⟩

/-- A record update outside the clock, the interfaces, the cores and the bytes stored. -/
theorem frame {pending time timeKnown slew free power steep prog ad front red hbm leaf fab cust dict obs boot}
    (h : Gathered s t) (hp : prog.cores = t.prog.cores := by dsimp only) :
    Gathered s (.mk pending t.clock time timeKnown slew free t.mem power steep prog ad front red hbm leaf fab cust dict
      obs boot t.out) :=
  ⟨⟨h.clock, h.out, hp.trans h.cores⟩, h.mem⟩

theorem ite {x y : State} {c : Prop} [Decidable c] (hx : Gathered s x) (hy : Gathered s y) :
    Gathered s (if c then x else y) := by
  split
  · exact hx
  · exact hy

theorem foldl_snd {α β : Type} {f : β × State → α → β × State} {l : List α} {p : β × State} (h : Gathered s p.2)
    (hf : ∀ p x, Gathered s p.2 → Gathered s (f p x).2) : Gathered s (l.foldl f p).2 := by
  induction l generalizing p with
  | nil => exact h
  | cons x l ih => exact ih (hf p x h)

theorem of_snd {α : Type} {p : α × State} {x : α} (hp : p = (x, t)) (h : Gathered s p.2) : Gathered s t := by
  rw [hp] at h
  exact h

theorem xtsReadAt {slot a n} (h : Gathered s t) : Gathered s (xtsReadAt slot a n t).2 :=
  h.readOnly (.xtsReadAt (.refl t))

theorem endRow {r status} (h : Gathered s t) : Gathered s (endRow t r status) := .frame h rfl

theorem gatherPage {env g w row pg cbs} (h : Gathered s t) : Gathered s (gatherPage env g w row pg cbs t).2 := by
  unfold Machine.gatherPage
  extract_lets _ _ _ _ _ _ _ _ _ stale _ _ _ _ v
  have hstale {b} : Gathered s (stale b t).2 := .endRow <| .ite (.frame h) (.frame h rfl)
  have hv : Gathered s v.2 := h.readOnly (.verifyRange (.refl t))
  split
  · exact h
  split
  · split
    · exact hstale
    split
    · exact hstale
    split
    · exact h
    split
    next hp =>
    have hpage := Gathered.of_snd hp (.xtsReadAt hv)
    split
    next ht =>
    have htail := Gathered.of_snd ht (.xtsReadAt hpage)
    extract_lets _ _ _ s1 s2
    have h1 : Gathered s s1 := .ite (.frame htail) htail
    exact .ite (.endRow h1) h1
  · split
    · exact h
    split
    · exact hstale
    split
    · exact hstale
    refine Gathered.noted (.foldl_snd h fun _ _ h => ?_) (opEvents_noted ..)
    extract_lets
    split
    · exact .xtsReadAt h
    · exact h

end Gathered

end Sys2Proof.Machine
end

section
/-! O21. GATHER (spec/07 R223, R227). -/

namespace Sys2Proof.Machine

/-- The channel blocks that a GATHER asks for. -/
def gatherCbs (w : BitVec 256) : List Nat :=
  if sOrient w then (List.range 8).map fun i => 8 * sNsel w + i else List.range 12

/-- The pages that a GATHER reads, one after another, and the state that the reads leave. -/
def gatherPages (env : ReadEnv) (g : Nat) (w : BitVec 256) (row : Row) (s : State) :
    List (List (List Byte × Byte)) × State :=
  (List.range (if sOrient w then 12 else 8)).foldl (fun acc i =>
    let x := gatherPage env g w row (sKbase w / 16 + i) (gatherCbs w) acc.2
    (acc.1 ++ [x.1], x.2)) ([], s)

/-- Block `b` that a GATHER writes, of the pages that it has read. -/
def gatherBlock (w : BitVec 256) (pages : List (List (List Byte × Byte))) (b : Nat) : List Byte × Byte :=
  if sOrient w then (pages.getD (b / 8) []).getD (b % 8) ([], 0x7F)
  else (transposeBlock 0 ((pages.getD (b % 8) []).getD (b / 8) ([], 0x7F)).1,
    ((pages.getD (b % 8) []).getD (b / 8) ([], 0x7F)).2)

/-- A GATHER writes the codes and the side bytes of its pages. -/
def gatherWrite (g : Nat) (w : BitVec 256) (r : List (List (List Byte × Byte)) × State) : State :=
  tileWrite g (sXaddr w) ((List.range 96).map fun b => (gatherBlock w r.1 b).2)
    (tileWrite g (sDaddr w) ((List.range 96).flatMap fun b => (gatherBlock w r.1 b).1) r.2)

/-! ### A padding row -/

/-- A block of a padding row: codes 0 and the neutral scale. -/
def padBlock : List Byte × Byte := (List.replicate 256 0, 0x7F)

section
variable {env : ReadEnv} {g : Nat} {w : BitVec 256} {row : Row} {s : State} (hrow : row.seq = 0)
include hrow

theorem gatherPage_of_padding (pg : Nat) (cbs : List Nat) :
    gatherPage env g w row pg cbs s = (cbs.map fun _ => padBlock, s) := by
  unfold gatherPage
  exact if_pos (by simp [hrow])

theorem gatherPages_of_padding : gatherPages env g w row s =
    ((List.range (if sOrient w then 12 else 8)).map fun _ => (gatherCbs w).map fun _ => padBlock, s) := by
  have hfold (l : List Nat) (acc : List (List (List Byte × Byte))) :
      l.foldl (fun acc i =>
        let x := gatherPage env g w row (sKbase w / 16 + i) (gatherCbs w) acc.2
        (acc.1 ++ [x.1], x.2)) (acc, s) = (acc ++ l.map fun _ => (gatherCbs w).map fun _ => padBlock, s) := by
    induction l generalizing acc with
    | nil => simp
    | cons i l ih =>
      rw [List.foldl_cons, gatherPage_of_padding hrow, List.map_cons, List.append_cons]
      exact ih _
  exact hfold _ []

end

theorem transposeBlock_zeros : transposeBlock (0 : Byte) (List.replicate 256 0) = List.replicate 256 0 := by
  have hlen : blockIndices.length = 256 := by rw [blockIndices, List.length_map, List.length_range]
  unfold transposeBlock
  rw [List.map_congr_left fun p _ => (List.getD_eq_getElem?_getD ..).trans
    (List.getElem?_getD_replicate_default_eq ..), List.map_const', hlen]

/-- A table of equal entries gives that entry inside its bounds. -/
theorem getD_getD_const {α : Type} {l m : List Nat} {i j : Nat} (hi : i < l.length) (hj : j < m.length) (a d : α) :
    ((l.map fun _ => m.map fun _ => a).getD i []).getD j d = a := by
  simp [hi, hj]

theorem gatherBlock_of_padding (w : BitVec 256) {b : Nat} (hb : b < 96) : gatherBlock w
    ((List.range (if sOrient w then 12 else 8)).map fun _ => (gatherCbs w).map fun _ => padBlock) b = padBlock := by
  unfold gatherBlock gatherCbs
  split
  · exact getD_getD_const (by simp; omega) (by simp; omega) ..
  · rw [getD_getD_const (by simp; omega) (by simp; omega)]
    exact Prod.ext transposeBlock_zeros rfl

/-- The codes of a padding row are zeros, and its side bytes are neutral scales. -/
theorem gatherBlocks_of_padding {env : ReadEnv} {g : Nat} {w : BitVec 256} {row : Row} {s : State}
    (hrow : row.seq = 0) :
    ((List.range 96).flatMap fun b => (gatherBlock w (gatherPages env g w row s).1 b).1) = List.replicate 24576 0 ∧
      ((List.range 96).map fun b => (gatherBlock w (gatherPages env g w row s).1 b).2) = List.replicate 96 0x7F := by
  have hblock : ∀ b ∈ List.range 96, gatherBlock w (gatherPages env g w row s).1 b = padBlock := fun b hb => by
    rw [gatherPages_of_padding hrow]
    exact gatherBlock_of_padding w (List.mem_range.mp hb)
  constructor
  · rw [List.flatMap_congr fun b hb => congrArg Prod.fst (hblock b hb), List.flatMap_def, List.map_const',
      List.length_range]
    exact List.flatten_replicate_replicate
  · rw [List.map_congr_left fun b hb => congrArg Prod.snd (hblock b hb), List.map_const', List.length_range]
    rfl

/-! ### The command -/

theorem gatherPages_gathered (env : ReadEnv) (g : Nat) (w : BitVec 256) (row : Row) (s : State) :
    Gathered s (gatherPages env g w row s).2 :=
  Gathered.foldl_snd (.refl s) fun _ _ h => .gatherPage h

theorem Canon.gatherPages {env g w row s} (h : Canon s) : Canon (gatherPages env g w row s).2 :=
  .foldl_snd h fun _ _ h => .gatherPage h

/-- The start of a GATHER, whose operands are taken once the ECC errors have come up. -/
theorem gather_begins {s : State} {core : BitVec 7} {env : ReadEnv} {w : BitVec 256} (hc : Canon s)
    (hw : strainNow s core.toNat 1 = some w) :
    ∃ x, OnCore s (bringUpsets core.toNat env s) core.toNat s.mem { coreOf s core.toNat with upsets := x } ∧
      strainNow (bringUpsets core.toNat env s) core.toNat 1 = some w ∧
      SameInputs s (strainBegin core.toNat w (bringUpsets core.toNat env s)) core.toNat := by
  obtain ⟨x, hu⟩ := bringUpsets_onCore hc core.toNat env
  obtain ⟨k, hk, htaken, -⟩ := strainBegin_onCore hu w
  exact ⟨x, hu, (strainNow_of_upsets hu 1).trans hw,
    hk.sameInputs (congrArg Core.binding htaken :) (congrArg Core.image htaken :)⟩

theorem execGather_of_fit {s : State} {core : BitVec 7} {env : ReadEnv} {w : BitVec 256} (hc : Canon s)
    (hw : strainNow s core.toNat 1 = some w) (hl : sLayer w < kvL s (coreOwnerD s core.toNat))
    (hh : sHead w < kvH s (coreOwnerD s core.toNat)) :
    ∃ v, exec (.gather core env) s = .next (awaitHbm core.toNat (gatherWrite core.toNat w
        (gatherPages env core.toNat w (batchRow s core.toNat (sRow w)) v))) ∧
      StrainRuns s v core.toNat w s.mem := by
  obtain ⟨x, hu, hnow, hin⟩ := gather_begins (env := env) hc hw
  have hv := strainReading_runs hu w []
  have hrow := (hv.sameInputs rfl).batchRow (sRow w)
  refine ⟨_, ?_, hv⟩
  rw [← hrow]
  refine onStrain_of_fit (ok := fun s w => decide (sLayer w < kvL s (coreOwnerD s core.toNat)) &&
    decide (sHead w < kvH s (coreOwnerD s core.toNat))) (reads := fun _ _ => []) (rs := []) hnow rfl ?_ rfl
    (by simp [readFails]) fun w s => _
  simp [hin.coreOwnerD, hin.kvL, hin.kvH, hl, hh]

/-- A running op that waits `n` cycles more where it has an index. -/
def delayed (i : BitVec 16) (n : Nat) (r : RunOp) : RunOp := if r.index = i then { r with endAt := r.endAt + n } else r

theorem delayed_index (i : BitVec 16) (n : Nat) (r : RunOp) : (delayed i n r).index = r.index := by
  unfold delayed
  split <;> rfl

theorem le_delayed_endAt (i : BitVec 16) (n : Nat) (r : RunOp) : r.endAt ≤ (delayed i n r).endAt := by
  unfold delayed
  split
  · exact Nat.le_add_right ..
  · exact Nat.le_refl _

theorem awaitHbm_core {s : State} (hc : Canon s) (g : Nat) : ∃ i n, coreOf (awaitHbm g s) g =
    { coreOf s g with running := (coreOf s g).running.map (delayed i n) } :=
  ⟨_, _, coreOf_updCore_self (.fresh hc) g _⟩

/-- What GATHER leaves once its pages have been read into `r`. -/
theorem gatherWrite_ends {s v : State} {g : Nat} {w : BitVec 256} (hv : StrainRuns s v g w s.mem)
    {r : List (List (List Byte × Byte)) × State} (hcanon : Canon r.2) (hr : Gathered v r.2) {t : State}
    (ht : t = awaitHbm g (gatherWrite g w r)) :
    t.mem = (gatherWrite g w r).mem ∧ (coreOf t g).strainNext = (coreOf s g).strainNext + 1 ∧
      (∃ o ∈ (coreOf t g).running, o.index = strainIndex (coreOf s g).strainNext ∧
        s.clock + strainCycles s g w ≤ o.endAt) ∧ OnlyTile s t g ∧ t.out = s.out := by
  subst ht
  obtain ⟨k, hk, htaken, -⟩ := hv
  obtain ⟨x, hx⟩ := (OnCore.refl hcanon g).tileWrite (sDaddr w)
    ((List.range 96).flatMap fun b => (gatherBlock w r.1 b).1)
  obtain ⟨y, hy⟩ := hx.tileWrite (sXaddr w) ((List.range 96).map fun b => (gatherBlock w r.1 b).2)
  obtain ⟨i, n, hcore⟩ := awaitHbm_core hy.canon g
  have hmem : r.2.mem = s.mem := hr.mem.trans hk.mem
  have hrun : strainRun s g w ∈ (coreOf r.2 g).running := by
    rw [hr.core, hk.core, show k = _ from htaken]
    exact List.mem_append_right _ (List.mem_singleton_self _)
  have hnext : (coreOf r.2 g).strainNext = (coreOf s g).strainNext + 1 := by
    rw [hr.core, hk.core, show k = _ from htaken]
  unfold gatherWrite
  rw [hcore, hy.core]
  refine ⟨rfl, hnext, ⟨_, List.mem_map_of_mem hrun, delayed_index .., le_delayed_endAt i n (strainRun s g w)⟩,
    fun a ha => ?_, ?_⟩
  · show memByte (tileWrite g _ _ _).mem a = _
    rw [hy.mem, hmem]
    exact ((OutsideTile.tileMem ⟨hk.mem ▸ hk.canon.mem, fun _ _ => rfl⟩ ..).tileMem ..).2 a ha
  · exact hy.frame.out.trans (hr.out.trans hk.frame.out)

end Sys2Proof.Machine
end

section
/-! O21. An encrypted write: what it leaves as it was, and what its bytes depend on (spec/10 R296, spec/13 R379, spec/14
R419). -/

namespace Sys2Proof.Machine

namespace CoresKept

variable {s t u : State}

theorem accessed (h : CoresKept s t) (hu : Accessed t u) : CoresKept s u :=
  h.trans ⟨(congrArg State.clock hu :), (congrArg State.out hu :), (congrArg (·.prog.cores) hu :)⟩

/-- A record update outside the clock, the interfaces and the cores. -/
theorem frame {pending time timeKnown slew free mem power steep prog ad front red hbm leaf fab cust dict obs boot}
    (h : CoresKept s t) (hp : prog.cores = t.prog.cores := by dsimp only) :
    CoresKept s (.mk pending t.clock time timeKnown slew free mem power steep prog ad front red hbm leaf fab cust dict
      obs boot t.out) :=
  ⟨h.clock, h.out, hp.trans h.cores⟩

theorem ite {x y : State} {c : Prop} [Decidable c] (hx : CoresKept s x) (hy : CoresKept s y) :
    CoresKept s (if c then x else y) := by
  split
  · exact hx
  · exact hy

theorem foldl {α : Type} {f : State → α → State} {l : List α} (h : CoresKept s t)
    (hf : ∀ t x, CoresKept s t → CoresKept s (f t x)) : CoresKept s (l.foldl f t) := by
  induction l generalizing t with
  | nil => exact h
  | cons x l ih => exact ih (hf t x h)

theorem foldl_snd {α β : Type} {f : β × State → α → β × State} {l : List α} {p : β × State} (h : CoresKept s p.2)
    (hf : ∀ p x, CoresKept s p.2 → CoresKept s (f p x).2) : CoresKept s (l.foldl f p).2 := by
  induction l generalizing p with
  | nil => exact h
  | cons x l ih => exact ih (hf p x h)

theorem writeInBlock {crc a bs} (h : CoresKept s t) : CoresKept s (writeInBlock crc a bs t) :=
  h.accessed (.writeInBlock (.refl t))

theorem xtsWriteIn {slot crc a bs} (h : CoresKept s t) : CoresKept s (xtsWriteIn slot crc a bs t) := by
  unfold Machine.xtsWriteIn
  extract_lets
  split
  · exact h
  split
  · exact .writeInBlock (.frame h)
  split
  · exact .writeInBlock h
  · exact .frame (.writeInBlock (.frame h)) rfl

theorem logMem {p a n} (h : CoresKept s t) : CoresKept s (logMem p a n t) := by
  unfold Machine.logMem
  extract_lets
  split
  · exact h
  refine .foldl h fun t _ h => ?_
  extract_lets
  split
  · exact h
  · exact h.accessed (.setMapBit (.refl t))

theorem xtsWriteFor {p slot crc a bs} (h : CoresKept s t) : CoresKept s (xtsWriteFor p slot crc a bs t) :=
  .logMem (.foldl h fun _ _ h => .xtsWriteIn h)

theorem xtsReadAt {slot a n} (h : CoresKept s t) : CoresKept s (xtsReadAt slot a n t).2 :=
  h.readOnly (.xtsReadAt (.refl t))

end CoresKept

/-! ### What the bytes written depend on -/

/-- The record of a block once bytes have been written in it (spec/10 R296). -/
def writtenRec (crc : Bool) (a : Nat) (bs : List Byte) (s : State) : BlockRec :=
  let r := blockOf s (a / 4096)
  if crc then
    if bs.length = 4096 then { r with crc := crc64 bs, v := true, bad := false }
    else { r with crc := r.crc ^^^ crc64 (xorBytes (memRead s.mem a bs.length) bs ++
      List.replicate (4096 - a % 4096 - bs.length) 0) }
  else { r with v := false }

theorem countHbm_eq (ev a n : Nat) (s : State) : ∃ obs, countHbm ev a n s = { s with obs := obs } := by
  unfold countHbm
  split
  · exact ⟨_, rfl⟩
  · exact ⟨_, rfl⟩

theorem writeInBlock_eq (crc : Bool) (a : Nat) (bs : List Byte) (s : State) : ∃ obs, writeInBlock crc a bs s =
    if noAccess s a || inTrial s a then s
    else { s with mem := memWrite s.mem a bs, hbm := (setBlock (a / 4096) (writtenRec crc a bs s) s).hbm,
                  obs := obs } := by
  unfold writeInBlock
  extract_lets s1 s2
  have h2 : ∃ obs, s2 = { s with obs := obs } := by
    obtain ⟨o1, h1⟩ := countHbm_eq 0x041 a bs.length s
    obtain ⟨o2, h2⟩ := countHbm_eq 0x043 a bs.length s1
    unfold s2
    split
    · rw [h2, show s1 = _ from h1]
      exact ⟨_, rfl⟩
    · exact ⟨_, h1⟩
  obtain ⟨obs, h2⟩ := h2
  clear_value s2
  subst h2
  refine ⟨obs, ?_⟩
  unfold writtenRec
  by_cases hgone : (noAccess s a || inTrial s a) = true
  · rw [if_pos hgone, if_pos hgone]
  · rw [if_neg hgone, if_neg hgone]
    dsimp only
    split
    · split <;> rfl
    · rfl

/-- States that differ in no store, key, log or entry: only in the programs, the steep's records and what is
observed. -/
def Beside (s t : State) : Prop := ∃ obs prog steep, t = { s with obs := obs, prog := prog, steep := steep }

namespace Beside

variable {s t : State}

theorem refl (s : State) : Beside s s := ⟨_, _, _, rfl⟩

/-- What depends on nothing in which they differ is the same in both. -/
theorem congr {α : Type} (h : Beside s t) (f : State → α)
    (hf : ∀ obs prog steep, f { s with obs := obs, prog := prog, steep := steep } = f s) : f t = f s := by
  obtain ⟨_, _, _, rfl⟩ := h
  exact hf ..

theorem mem (h : Beside s t) : t.mem = s.mem := h.congr State.mem fun _ _ _ => rfl

theorem ite {x y x' y' : State} {c c' : Prop} [Decidable c] [Decidable c'] (hc : c = c') (hx : Beside x x')
    (hy : Beside y y') : Beside (if c then x else y) (if c' then x' else y') := by
  subst hc
  by_cases h : c
  · rw [if_pos h, if_pos h]
    exact hx
  · rw [if_neg h, if_neg h]
    exact hy

theorem foldl {α : Type} {f : State → α → State} (l : List α) (h : Beside s t)
    (hf : ∀ s t x, Beside s t → Beside (f s x) (f t x)) : Beside (l.foldl f s) (l.foldl f t) := by
  induction l generalizing s t with
  | nil => exact h
  | cons x l ih => exact ih (hf s t x h)

theorem writeInBlock (h : Beside s t) (crc : Bool) (a : Nat) (bs : List Byte) :
    Beside (writeInBlock crc a bs s) (writeInBlock crc a bs t) := by
  obtain ⟨_, hs⟩ := writeInBlock_eq crc a bs s
  obtain ⟨_, ht⟩ := writeInBlock_eq crc a bs t
  rw [hs, ht]
  obtain ⟨_, _, _, rfl⟩ := h
  exact .ite rfl ⟨_, _, _, rfl⟩ ⟨_, _, _, rfl⟩

theorem setBlock (h : Beside s t) (b : Nat) (r : BlockRec) : Beside (setBlock b r s) (setBlock b r t) := by
  obtain ⟨_, _, _, rfl⟩ := h
  exact ⟨_, _, _, rfl⟩

theorem countNoKey (h : Beside s t) (n : Nat) : Beside (countNoKey n s) (countNoKey n t) := by
  obtain ⟨_, _, _, rfl⟩ := h
  exact ⟨_, _, _, rfl⟩

theorem writeStored (h : Beside s t) (crc : Bool) (a : Nat) (bs : List Byte) :
    Beside (writeStored crc a bs s) (writeStored crc a bs t) := by
  refine h.foldl _ fun s t p h => .ite rfl (h.writeInBlock ..) ?_
  obtain ⟨_, _, _, rfl⟩ := h
  exact ⟨_, _, _, rfl⟩

theorem setMapBit (h : Beside s t) (m i : Nat) : Beside (setMapBit m i s) (setMapBit m i t) := by
  unfold Machine.setMapBit
  dsimp only
  rw [h.mem]
  exact h.writeStored ..

theorem logMem (h : Beside s t) (p a n : Nat) : Beside (logMem p a n s) (logMem p a n t) := by
  have hpart : partOf t p = partOf s p := h.congr (partOf · p) fun _ _ _ => rfl
  unfold Machine.logMem
  dsimp only
  rw [hpart]
  refine .ite rfl h (h.foldl _ fun s t i h => ?_)
  have hwindow (w : Nat) : windowOf t p w = windowOf s p w := h.congr (windowOf · p w) fun _ _ _ => rfl
  have hbit (w : Nat) : windowBit t p w = windowBit s p w := h.congr (windowBit · p w) fun _ _ _ => rfl
  simp only [hwindow, hbit]
  split
  · exact h
  · exact h.setMapBit ..

theorem xtsWriteIn (h : Beside s t) (slot : Nat) (crc : Bool) (a : Nat) (bs : List Byte) :
    Beside (xtsWriteIn slot crc a bs s) (xtsWriteIn slot crc a bs t) := by
  have hslot : slotOf t slot = slotOf s slot := h.congr (slotOf · slot) fun _ _ _ => rfl
  have hblock : blockOf t (a / 4096) = blockOf s (a / 4096) := h.congr (blockOf · (a / 4096)) fun _ _ _ => rfl
  have hkey (b : Nat) (k : BitVec 256) : xtsKeyAt t b k = xtsKeyAt s b k := h.congr (xtsKeyAt · b k) fun _ _ _ => rfl
  unfold Machine.xtsWriteIn
  dsimp only
  rw [hslot, hblock]
  simp only [hkey]
  split
  · exact h
  split
  · exact (h.setBlock ..).writeInBlock ..
  split
  · exact h.writeInBlock ..
  · exact ((h.setBlock ..).writeInBlock ..).countNoKey ..

theorem xtsWrite (h : Beside s t) (slot : Nat) (crc : Bool) (a : Nat) (bs : List Byte) :
    Beside (xtsWrite slot crc a bs s) (xtsWrite slot crc a bs t) := by
  unfold Machine.xtsWrite
  exact h.foldl _ fun _ _ _ h => h.xtsWriteIn ..

theorem xtsWriteFor (h : Beside s t) (p slot : Nat) (crc : Bool) (a : Nat) (bs : List Byte) :
    Beside (xtsWriteFor p slot crc a bs s) (xtsWriteFor p slot crc a bs t) := by
  unfold Machine.xtsWriteFor
  exact (h.xtsWrite ..).logMem ..

end Beside

end Sys2Proof.Machine
end

section
/-! O21. APPEND (spec/07 R206, R225). -/

namespace Sys2Proof.Machine

/-! ### What it does beside its core -/

theorem CoresKept.sealPage {s t : State} {p slot c l rows} (h : CoresKept s t) :
    CoresKept s (sealPage p slot c l rows t).2 := by
  unfold Machine.sealPage
  dsimp only
  exact .frame (.xtsWriteFor (.xtsWriteFor h)) rfl

theorem CoresKept.appendRow {s t : State} {g w row ka va} (h : CoresKept s t) :
    CoresKept s (appendRow g w row ka va t).2 := by
  unfold Machine.appendRow
  extract_lets _ _ _ _ _ _ _ _ _ s1 s2 _ _ r x
  have h1 : CoresKept s s1 := .xtsWriteFor h
  have h2 : CoresKept s s2 := .frame h1 rfl
  have hr : CoresKept s r.2 := .foldl_snd h2 fun _ _ h => .xtsReadAt h
  have hx : CoresKept s x.2 := .sealPage hr
  split
  · exact h
  split
  · exact .frame h rfl
  split
  · exact h2
  · exact hx

/-! ### One row -/

/-- The bytes of a K and a V source row in BF16. -/
def appendBytes (s : State) (g : Nat) (w : BitVec 256) (ka va n : Nat) : List Byte :=
  ((sourceVals s g (sBf16 w) ka n ++ sourceVals s g (sBf16 w) va n).map clampBf16).flatMap fun y => wordBytes y.1

theorem appendBytes_length (s : State) (g : Nat) (w : BitVec 256) (ka va n : Nat) :
    (appendBytes s g w ka va n).length = 4 * n := by
  have hlen (l : List (BitVec 16 × Bool)) : (l.flatMap fun y => wordBytes y.1).length = 2 * l.length := by
    induction l with
    | nil => rfl
    | cons y l ih =>
      rw [List.flatMap_cons, List.length_append, ih, List.length_cons, wordBytes, leBytes_length]
      omega
  unfold appendBytes
  rw [hlen, List.length_map, List.length_append, sourceVals, sourceVals, List.length_map, List.length_map,
    List.length_range]
  omega

/-- The same, padded to the row of the open buffer. -/
def appendPadded (s : State) (g : Nat) (w : BitVec 256) (p ka va : Nat) : List Byte :=
  appendBytes s g w ka va (kvH s p * kvD s p) ++
    List.replicate (openRowBytes s p - (appendBytes s g w ka va (kvH s p * kvD s p)).length) 0

/-- An open buffer whose row of a position and a layer counts as written. -/
def markRow (b i : Nat) (k : Kv) : Kv := { k with written := supd [] b (fun m => (i :: m).eraseDups) k.written }

theorem appendRow_of_idle {row : Row} (h : row.app = false) (g : Nat) (w : BitVec 256) (ka va : Nat) (s : State) :
    appendRow g w row ka va s = ([], s) := by
  unfold appendRow
  exact if_pos (by simp [h])

/-- A row that appends, at a position that does not end a page: its write, and its mark. -/
theorem appendRow_of_open {s : State} {g p b : Nat} {w : BitVec 256} {row : Row} (hp : coreOwnerD s g = p)
    (hb : (seqOf s p row.seq.toNat).buffer = b) (happ : row.app = true) (hseq : row.seq ≠ 0) (hb0 : b ≠ 0)
    (hstep : isStepGroup s p (strainGroup s g) = false) (hpair : pairOk s row.tslot.toNat row.tgen = true)
    (hpos : row.qpos.toNat % 16 ≠ 15) (ka va : Nat) :
    (appendRow g w row ka va s).2 = updKv p (markRow b (16 * sLayer w + row.qpos.toNat % 16))
      (xtsWriteFor p row.tslot.toNat false (openRow s p b (row.qpos.toNat % 16) (sLayer w))
        (appendPadded s g w p ka va) s) := by
  subst hp hb
  unfold appendRow
  dsimp only
  rw [if_neg (by simpa [happ, hb0, hstep] using hseq), if_neg (by simp [hpair]), if_pos (by simp [hpos])]
  unfold markRow appendPadded appendBytes
  rfl

theorem rowWritten_of_marked {s : State} (hc : Canon s) (p b pos layer : Nat) :
    rowWritten (updKv p (markRow b (16 * layer + pos)) s) p b pos layer = true := by
  have hne : ((16 * layer + pos) :: sget [] b (kvOf s p).written).eraseDups ≠ [] := by
    rw [List.eraseDups_cons]
    exact List.cons_ne_nil _ _
  have hmarked : sget [] b (markRow b (16 * layer + pos) (kvOf s p)).written = _ := sget_sput_self [] b _ hne _
  unfold rowWritten
  rw [(updKv_sets hc p _).kv, hmarked, List.contains_iff_mem, List.mem_eraseDups]
  exact List.mem_cons_self

/-! ### The command -/

/-- The rows of an APPEND in batch order: their numeric event classes, and the state that they leave. -/
def appendRows (g : Nat) (w : BitVec 256) (s : State) : List Nat × State :=
  (List.range (sRows w)).foldl (fun acc i =>
    let x := appendRow g w (batchRow acc.2 g (sRow w + i)) (sSaddr w + i * sSstride w) (sXaddr w + i * sSstride w) acc.2
    (acc.1 ++ x.1, x.2)) ([], s)

theorem appendRows_keeps (g : Nat) (w : BitVec 256) (s : State) : CoresKept s (appendRows g w s).2 :=
  CoresKept.foldl_snd (.refl s) fun _ _ h => .appendRow h

/-- A step that leaves the accumulator as it was for each element of a list leaves it so for the list. -/
theorem foldl_of_fixed {α β : Type} {f : β → α → β} {l : List α} {b : β} (h : ∀ x ∈ l, f b x = b) :
    l.foldl f b = b := by
  induction l with
  | nil => rfl
  | cons x l ih => rw [List.foldl_cons, h x List.mem_cons_self, ih fun y hy => h y (List.mem_cons_of_mem _ hy)]

theorem appendRows_of_idle {g : Nat} {w : BitVec 256} {s : State} (h : appRows s g w = []) :
    appendRows g w s = ([], s) := by
  refine foldl_of_fixed fun i hi => ?_
  have happ : (batchRow s g (sRow w + i)).app = false := by
    simpa using List.filter_eq_nil_iff.mp h i hi
  dsimp only
  rw [appendRow_of_idle happ]
  rfl

theorem appendRows_of_one {g : Nat} {w : BitVec 256} (h : sRows w = 1) (s : State) :
    (appendRows g w s).2 = (appendRow g w (batchRow s g (sRow w)) (sSaddr w) (sXaddr w) s).2 := by
  unfold appendRows
  rw [h]
  simp

/-- The ranges of tile memory that an APPEND reads. -/
def appendReads (s : State) (g : Nat) (w : BitVec 256) : List (Nat × Nat) :=
  (appRows s g w).flatMap fun i =>
    [(sSaddr w + i * sSstride w, sRowBytes w (kvH s (coreOwnerD s g) * kvD s (coreOwnerD s g))),
     (sXaddr w + i * sSstride w, sRowBytes w (kvH s (coreOwnerD s g) * kvD s (coreOwnerD s g)))]

theorem SameInputs.appendReads {s t : State} {g : Nat} (h : SameInputs s t g) (w : BitVec 256) :
    appendReads t g w = appendReads s g w := by
  unfold Machine.appendReads
  rw [h.appRows, h.coreOwnerD, h.kvH, h.kvD]

theorem strainBegin_sameInputs {s : State} (hc : Canon s) (g : Nat) (w : BitVec 256) :
    SameInputs s (strainBegin g w s) g := by
  obtain ⟨k, hk, htaken, -⟩ := strainBegin_onCore (OnCore.refl_upsets hc g) w
  exact hk.sameInputs (congrArg Core.binding htaken :) (congrArg Core.image htaken :)

/-- The end of an APPEND: at most one numeric event of each class. -/
def appendEnd (g : Nat) (r : List Nat × State) : State := opEvents g 2 (strainStarted r.2 g) r.1.eraseDups r.2

theorem execAppend_of_fit {s : State} {core : BitVec 7} {w : BitVec 256} (hc : Canon s)
    (hw : strainNow s core.toNat 3 = some w) (hl : sLayer w < kvL s (coreOwnerD s core.toNat))
    (hread : readFails s core.toNat (tileRanges (appendReads s core.toNat w)) = false) :
    ∃ v, exec (.append core) s = .next (appendEnd core.toNat (appendRows core.toNat w v)) ∧
      StrainRuns s v core.toNat w s.mem ∧ SameInputs s v core.toNat := by
  have hin := strainBegin_sameInputs hc core.toNat w
  refine onStrain_runs (ok := fun s w => decide (sLayer w < kvL s (coreOwnerD s core.toNat)))
    (reads := fun s w => appendReads s core.toNat w) hc hw ?_ (congrArg tileRanges (hin.appendReads w)) hread
    fun w s => appendEnd core.toNat (appendRows core.toNat w s)
  simp [hin.coreOwnerD, hin.kvL, hl]

/-- What every APPEND that runs leaves of its core and of the interfaces. -/
theorem appendEnd_ends {s v : State} {g : Nat} {w : BitVec 256} (hv : StrainRuns s v g w s.mem) {t : State}
    (ht : t = appendEnd g (appendRows g w v)) :
    (coreOf t g).strainNext = (coreOf s g).strainNext + 1 ∧
      (∃ r ∈ (coreOf t g).running, r.index = strainIndex (coreOf s g).strainNext ∧
        r.endAt = s.clock + strainCycles s g w) ∧ t.out = s.out := by
  have hkept : CoresKept v t := by
    subst ht
    exact (appendRows_keeps g w v).noted (opEvents_noted ..)
  rw [hkept.core]
  exact ⟨hv.next, hv.running, hkept.out.trans hv.coreFrame.out⟩

/-- An APPEND whose rows append nothing stores nothing. -/
theorem appendEnd_of_idle {s v : State} {g : Nat} {w : BitVec 256} (hv : StrainRuns s v g w s.mem)
    (hrows : appRows s g w = []) : (appendEnd g (appendRows g w v)).mem = s.mem := by
  unfold appendEnd
  rw [appendRows_of_idle (((hv.sameInputs rfl).appRows w).trans hrows)]
  exact (opEvents_noted ..).mem.trans hv.mem

section
variable {s v : State} {g : Nat} (h : SameInputs s v g)
include h

theorem SameInputs.beside : Beside s v := ⟨_, _, _, h.rest⟩

theorem SameInputs.seqOf (p q : Nat) : seqOf v p q = seqOf s p q := (congrArg (Machine.seqOf · p q) h.rest :)

theorem SameInputs.isStepGroup (p n : Nat) : isStepGroup v p n = isStepGroup s p n :=
  (congrArg (Machine.isStepGroup · p n) h.rest :)

theorem SameInputs.pairOk (slot : Nat) (gen : BitVec 16) : pairOk v slot gen = pairOk s slot gen :=
  (congrArg (Machine.pairOk · slot gen) h.rest :)

theorem SameInputs.openRow (p b pos l : Nat) : openRow v p b pos l = openRow s p b pos l :=
  (congrArg (Machine.openRow · p b pos l) h.rest :)

theorem SameInputs.appendBytes (w : BitVec 256) (ka va n : Nat) :
    appendBytes v g w ka va n = appendBytes s g w ka va n := by
  unfold Machine.appendBytes
  rw [h.sourceVals, h.sourceVals]

end

/-- The padding follows the bytes of the two rows. -/
theorem appendPadded_take {s v : State} {g : Nat} (h : SameInputs s v g) (w : BitVec 256) (p ka va : Nat) :
    (appendPadded v g w p ka va).take (4 * (kvH s p * kvD s p)) = appendBytes s g w ka va (kvH s p * kvD s p) := by
  unfold appendPadded
  rw [h.kvH, h.kvD, h.appendBytes]
  exact List.take_left' (appendBytes_length ..)

theorem Noted.rowWritten {t u : State} (h : Noted t u) (p b pos layer : Nat) :
    rowWritten u p b pos layer = rowWritten t p b pos layer :=
  (congrArg (Machine.rowWritten · p b pos layer) h :)

/-- One row that appends, at a position that does not end a page: what it stores, and its mark. -/
theorem appendEnd_of_open {s v : State} {g p b : Nat} {w : BitVec 256} {row : Row} (hv : StrainRuns s v g w s.mem)
    (hone : sRows w = 1) (hrow : row = batchRow s g (sRow w)) (hp : coreOwnerD s g = p)
    (hb : (seqOf s p row.seq.toNat).buffer = b) (happ : row.app = true) (hseq : row.seq ≠ 0) (hb0 : b ≠ 0)
    (hstep : isStepGroup s p (strainGroup s g) = false) (hpair : pairOk s row.tslot.toNat row.tgen = true)
    (hpos : row.qpos.toNat % 16 ≠ 15) {t : State} (ht : t = appendEnd g (appendRows g w v)) :
    rowWritten t p b (row.qpos.toNat % 16) (sLayer w) = true ∧
      t.mem = (xtsWriteFor p row.tslot.toNat false (openRow s p b (row.qpos.toNat % 16) (sLayer w))
        (appendPadded v g w p (sSaddr w) (sXaddr w)) s).mem := by
  have hin := hv.sameInputs rfl
  have hlast := appendRow_of_open (w := w) ((hin.coreOwnerD g).trans hp)
    ((congrArg Sequence.buffer (hin.seqOf ..)).trans hb) happ hseq hb0
    (by rw [hin.isStepGroup, hin.strainGroup, hstep]) ((hin.pairOk ..).trans hpair) hpos (sSaddr w) (sXaddr w)
  rw [hrow, ← hin.batchRow, ← appendRows_of_one hone, hin.batchRow, ← hrow, hin.openRow] at hlast
  have hnoted : Noted (appendRows g w v).2 t := by
    subst ht
    exact opEvents_noted ..
  constructor
  · rw [hnoted.rowWritten, hlast]
    exact rowWritten_of_marked (.xtsWriteFor hv.canon) ..
  · rw [hnoted.mem, hlast, updKv_mem, (hin.beside.xtsWriteFor ..).mem]

end Sys2Proof.Machine
end

section
/-! O21. The strain commands together. -/

namespace Sys2Proof.Machine

/-! ### Operands out of range -/

section
variable {s : State} {core : BitVec 7} {w : BitVec 256} (hc : Canon s)
include hc

theorem gather_faults (env : ReadEnv) (hw : strainNow s core.toNat 1 = some w)
    (hbad : kvL s (coreOwnerD s core.toNat) ≤ sLayer w ∨ kvH s (coreOwnerD s core.toNat) ≤ sHead w) :
    ∃ t, exec (.gather core env) s = .next t ∧ (coreOf t core.toNat).faulted = some 2 ∧ t.mem = s.mem ∧
      t.out = s.out := by
  obtain ⟨x, hu, hnow, hin⟩ := gather_begins (env := env) hc hw
  refine ⟨_, onStrain_of_unfit (ok := fun s w => decide (sLayer w < kvL s (coreOwnerD s core.toNat)) &&
    decide (sHead w < kvH s (coreOwnerD s core.toNat))) hnow ?_ (fun _ _ => []) fun w s => _,
    strainFault_faults hu (strainNow_not_faulted hw) hu.frame.out w _ rfl⟩
  simpa [hin.coreOwnerD, hin.kvL, hin.kvH, or_iff_not_imp_left] using hbad

theorem onStrain_faults {op : Nat} {ok : State → BitVec 256 → Bool} (hw : strainNow s core.toNat op = some w)
    (hok : ok (strainBegin core.toNat w s) w = false) (reads : State → BitVec 256 → List (Nat × Nat))
    (f : BitVec 256 → State → State) :
    ∃ t, onStrain core op ok reads s f = .next t ∧ (coreOf t core.toNat).faulted = some 2 ∧ t.mem = s.mem ∧
      t.out = s.out :=
  ⟨_, onStrain_of_unfit hw hok reads f,
    strainFault_faults (OnCore.refl_upsets hc core.toNat) (strainNow_not_faulted hw) rfl w _ rfl⟩

theorem append_faults (hw : strainNow s core.toNat 3 = some w) (hbad : kvL s (coreOwnerD s core.toNat) ≤ sLayer w) :
    ∃ t, exec (.append core) s = .next t ∧ (coreOf t core.toNat).faulted = some 2 ∧ t.mem = s.mem ∧ t.out = s.out := by
  have hin := strainBegin_sameInputs hc core.toNat w
  exact onStrain_faults hc (ok := fun s w => decide (sLayer w < kvL s (coreOwnerD s core.toNat))) hw
    (by simpa [hin.coreOwnerD, hin.kvL] using hbad) (fun s w => appendReads s core.toNat w)
    fun w s => appendEnd core.toNat (appendRows core.toNat w s)

theorem block_faults (hw : strainNow s core.toNat 4 = some w)
    (hbad : if sOrient w then 192 < sRows w ∨ 128 < sCols w else 128 < sRows w ∨ 192 < sCols w) :
    ∃ t, exec (.block core) s = .next t ∧ (coreOf t core.toNat).faulted = some 2 ∧ t.mem = s.mem ∧ t.out = s.out := by
  refine onStrain_faults hc (ok := fun _ => blockFits) hw ?_ _ fun w s => _
  unfold blockFits
  split at hbad
  next ho => simpa [ho, or_iff_not_imp_left] using hbad
  next ho => simpa [ho, or_iff_not_imp_left] using hbad

theorem trans_faults (hw : strainNow s core.toNat 5 = some w) (hbad : 512 < sRows w ∨ 512 < sCols w) :
    ∃ t, exec (.trans core) s = .next t ∧ (coreOf t core.toNat).faulted = some 2 ∧ t.mem = s.mem ∧ t.out = s.out :=
  onStrain_faults hc (ok := fun _ w => decide (sRows w ≤ 512) && decide (sCols w ≤ 512)) hw
    (by simpa [or_iff_not_imp_left] using hbad) _ fun w s => _

end

/-- Settles O21: each command by the state in which it has started, and its writes from there. -/
theorem strainCommandsWriteTileMemory : Obligations.StrainCommandsWriteTileMemory := by
  unfold Obligations.StrainCommandsWriteTileMemory
  refine ⟨?gather, ?mask, ?append, ?block, ?trans, ?fault⟩
  case gather =>
    intro s core env w hinv hw hl hh
    have hc := canon_iff_inv.mpr hinv
    obtain ⟨v, hx, hv⟩ := execGather_of_fit (env := env) hc hw hl hh
    have hpages := gatherPages_gathered env core.toNat w (batchRow s core.toNat (sRow w)) v
    obtain ⟨hm, hnext, hrun, htile, hout⟩ := gatherWrite_ends hv (.gatherPages hv.canon) hpages rfl
    exact ⟨_, _, _, _, hx, by rw [List.length_map, List.length_range], hpages.mem.trans hv.mem, hm,
      gatherBlocks_of_padding, hnext, hrun, htile, hout⟩
  case mask =>
    rintro s core w _ hinv hw rfl
    obtain ⟨t, hx, ht⟩ := mask_writes (canon_iff_inv.mpr hinv) hw
    obtain ⟨hnext, hrun, hm, htile, hframe⟩ := ht.ends
    refine ⟨t, hx, hnext, hrun, hm.trans ?_, htile, hframe⟩
    exact (foldl_mem (fun _ _ => tileWrite_mem ..) _ _).symm
  case append =>
    rintro s core w _ hinv hw hl rfl hread
    obtain ⟨v, hx, hv, -⟩ := execAppend_of_fit (canon_iff_inv.mpr hinv) hw hl hread
    obtain ⟨hnext, hrun, hout⟩ := appendEnd_ends hv rfl
    refine ⟨_, hx, hnext, hrun, hout, appendEnd_of_idle hv, ?_⟩
    rintro row _ hone hrow rfl happ hseq hb hstep hpair hpos
    obtain ⟨hwritten, hm⟩ := appendEnd_of_open hv hone hrow rfl rfl happ hseq hb hstep hpair hpos rfl
    exact ⟨hwritten, _, hm, appendPadded_take (hv.sameInputs rfl) w _ _ _⟩
  case block =>
    rintro s core w _ hinv hw hread hfit rfl
    obtain ⟨t, hx, ht⟩ := block_writes (canon_iff_inv.mpr hinv) hw hfit hread
    obtain ⟨hnext, hrun, hm, htile, hframe⟩ := ht.ends
    refine ⟨t, hx, ?_, hnext, hrun, htile, hframe⟩
    rw [hm, tileWrite_mem, tileWrite_mem]
    rfl
  case trans =>
    rintro s core w _ hinv hw hread hrows hcols rfl
    obtain ⟨t, hx, ht⟩ := trans_writes (canon_iff_inv.mpr hinv) hw hrows hcols hread
    obtain ⟨hnext, hrun, hm, htile, hframe⟩ := ht.ends
    refine ⟨t, hx, hnext, hrun, hm.trans ?_, htile, hframe⟩
    exact (foldl_mem (fun _ _ => by rw [tileWrite_mem, tileWrite_mem]; rfl) _ _).symm
  case fault =>
    rintro s core env w _ hinv (⟨rfl, hw, hbad⟩ | ⟨rfl, hw, hbad⟩ | ⟨rfl, hw, hbad⟩ | ⟨rfl, hw, hbad⟩)
    · exact gather_faults (canon_iff_inv.mpr hinv) env hw hbad
    · exact append_faults (canon_iff_inv.mpr hinv) hw hbad
    · exact block_faults (canon_iff_inv.mpr hinv) hw hbad
    · exact trans_faults (canon_iff_inv.mpr hinv) hw hbad

end Sys2Proof.Machine
end
